-- ==== Sys2Proof/Word.lean ====
section
/-!
DEFINITION. The word types of the model and their plainest arithmetic.

A value the manual reads, writes or numbers as bits is a `BitVec`; an index, a count or a time is a `Nat`.
Sparse state (memory, per-unit registers) is a `Tab`: a list of keys and values, keys strictly rising.
-/

namespace Sys2Proof

abbrev Byte := BitVec 8
abbrev Half := BitVec 16
abbrev Word := BitVec 32
abbrev Dword := BitVec 64

/-- The 256 bytes of one data block (R282), the byte at the lowest address in bits [7:0] (R10). -/
abbrev BlockData := BitVec 2048

/-- The 280 bits of one physical macro row (R43, R49): columns 0-255 data, 256-271 spare, 272-279 REF0-REF7. -/
abbrev RowBits := BitVec 280

/-- A sparse table: keys strictly rising, one entry a key. -/
abbrev Tab (α : Type) := List (Nat × α)

/-- Bits [hi:lo] of a number (R10). -/
def bitsOf (n hi lo : Nat) : Nat := (n >>> lo) % 2 ^ (hi + 1 - lo)

/-- Bit i of a number. -/
def bitOf (n i : Nat) : Bool := Nat.testBit n i

/-- `ceil (a / b)` (0 when b is 0). -/
def ceilDiv (a b : Nat) : Nat := if b = 0 then 0 else (a + b - 1) / b

/-- Saturating addition at a ceiling. -/
def satAdd (cap a b : Nat) : Nat := min cap (a + b)

/-- Two's complement value of the low w bits (R11). -/
def signed (w n : Nat) : Int :=
  let m := n % 2 ^ w
  if m < 2 ^ (w - 1) then (m : Int) else (m : Int) - 2 ^ w

/-- The low w bits of an integer, as a natural number (R23). -/
def wrapInt (w : Nat) (i : Int) : Nat := (i % (2 ^ w : Int)).toNat

/-- The boolean as a bit value. -/
def bit01 (b : Bool) : Nat := if b then 1 else 0

/-- The value of a floating-point code: a NaN, an infinity, or a sign and an exact magnitude. -/
inductive FVal where
  | nan
  | inf (neg : Bool)
  | fin (neg : Bool) (mag : Rat)
  deriving DecidableEq, Repr

end Sys2Proof
end

