-- ==== Sys2Proof/Syntax.lean ====
section
/-!
DEFINITION. The commands of the NM3600 block: one constructor of `Instr` for each row of spec/opcode_table.json.

A command carries what comes to the module from outside at that step: register values, doorbell values,
object-dictionary requests, markers and records received on links, and the readings of sensors, comparators
and other analog parts (log entries 3 and 4).
-/

namespace Sys2Proof

/-- A write host software makes to its own memory before it rings a doorbell. -/
structure HostWrite where
  addr  : Nat
  bytes : List Byte
  deriving DecidableEq, Repr

/-- How an access reaches a 64-bit register (R485). -/
inductive Half64 where
  | whole | low | high
  deriving DecidableEq, Repr

/-- The Plant Port envelope of a request (R473, R474). -/
structure PlantFrame where
  dstMac : BitVec 48
  srcMac : BitVec 48
  version : Nat
  flags  : Nat
  keyId  : Nat
  rsv    : Nat
  seq    : Nat
  tag    : BitVec 96
  deriving DecidableEq, Repr

/-- Who sends an object-dictionary request (R459). -/
inductive Requester where
  | bar2 (fn mailbox : Nat)
  | mctp (eid : Nat)
  | plant (f : PlantFrame)
  deriving DecidableEq, Repr

/-- What the signed header of a firmware image says, and whether its signature verifies (R443). -/
structure ImageFacts where
  sigOk   : Bool
  gen     : Nat
  svn     : Nat
  version : List Byte
  digest  : BitVec 384
  deriving DecidableEq, Repr

/-- A request unit (Table 15-2) with the data it carries. -/
structure OdReq where
  who    : Requester
  tag    : Nat
  index  : Nat
  sub    : Nat
  status : Nat
  rsv    : Nat
  offset : Nat
  length : Nat
  data   : List Byte
  img    : ImageFacts
  deriving DecidableEq, Repr

/-- A section (segment, physical column, or row-line section) that does not settle within the guards of the level of the
packets it received: `uv` is the voltage at which it settles, in µV (R513, R514). -/
structure Deviation where
  seg : Nat
  col : Nat
  uv  : Int
  deriving DecidableEq, Repr

/-- A row-line section that deviates in a transposed count: row 0-1023, section 0-3 data, 4 reference. -/
structure RowDeviation where
  row  : Nat
  sect : Nat
  uv   : Int
  deriving DecidableEq, Repr

/-- A cell that senses the other bit than the one it was written with. -/
structure CellFlip where
  row : Nat
  col : Nat
  deriving DecidableEq, Repr

/-- What full training or a restore of one link met (R322, R338, R355). -/
structure TrainResult where
  restoreOk  : Bool
  fullOk     : Bool
  secondOk   : Bool
  peerModule : Nat
  peerLink   : Nat
  peerLevel  : Nat
  peerLevelMin : Nat
  propNs     : Nat
  equal      : List Byte
  deriving DecidableEq, Repr

/-- The slot of a flit: whether the decoder could not correct its code word, and the marker beside it (R324). -/
structure FlitSlot where
  uncorrectable : Bool
  marker        : Dword
  deriving DecidableEq, Repr

/-- Telemetry of one rail (R362). -/
structure RailReading where
  mv     : Nat
  amps   : Word
  tempC  : Int
  status : Half
  deriving DecidableEq, Repr

/-- Evidence of the known-sum vectors in one segment (R408). `ks` lists (vector, row, column) differences. -/
structure SegEvidence where
  seg   : Nat
  diffs : List (Nat × Nat × Nat)
  deriving DecidableEq, Repr

/-- One section in a re-calibration (R399): its voltages in units of 0.25 mV, of a column-line section in the 16 counts of steps 2 to 4,
of a row-line section in the 9 of step 5. Columns 280 + 5 r + q are the row-line sections q of segment-row r. -/
structure RecalPoint where
  seg   : Nat
  col   : Nat
  volts : List Int
  deriving DecidableEq, Repr

/-- What a re-calibration measured: the sections whose voltages differ from those of the staircase in force, those of REF0 (column
272) being the new staircase. -/
structure RecalMeas where
  points : List RecalPoint
  wrote  : Bool
  elapsedMs : Nat
  dTemp  : Nat
  deriving DecidableEq, Repr

/-- Why RECAL_TRIGGER queues a re-calibration (R398); the guard monitor, a remap and class CLEAN queue theirs in COUNT and
DIAGNOSIS. -/
inductive RecalCause where
  | age | temperature
  deriving DecidableEq, Repr

/-- A record on a chip link (Table 11-5) with its block segments. -/
structure LinkRecord where
  header : BitVec 256
  blocks : List (BitVec 128 × BlockData)
  deriving DecidableEq, Repr

/-- What the Power Governor's 10 microsecond loop reads (R362, R373). -/
structure GovMeas where
  inputW   : Option Nat
  coreMv   : List Nat
  coreA    : List Nat
  tj       : List (List Int)
  hbmT     : List Int
  deriving DecidableEq, Repr

/-- What an epoch end reads (R366, R370, R385). Energy in mJ; stretch loss in 1/256 per die. -/
structure EpochMeas where
  energyMj   : Nat
  lossDie    : List Nat
  tj         : List (List Int)
  hbmT       : List Int
  deriving DecidableEq, Repr

/-- The commands, in the order of the table. -/
inductive Instr where
  -- host interface: doorbells and queue commands
  | sqTail (fn q : Nat) (value : Word) (width : Nat) (host : List HostWrite)
  | cqHead (fn q : Nat) (value : Word) (width : Nat)
  | eqHead (fn : Nat) (value : Word) (width : Nat)
  | submit (fn q : Nat)
  | flush (fn q : Nat)
  | gateArm (fn q : Nat)
  | gateArrive (fn q : Nat)
  | gateWait (fn q : Nat)
  | createQp (fn q : Nat)
  | deleteQp (fn q : Nat)
  | createEq (fn q : Nat)
  | alloc (fn q : Nat)
  | frameZeroing (core mac : Nat)
  | free (fn q : Nat)
  | load (fn q : Nat) (flips : List CellFlip)
  | map (fn q : Nat)
  | unmap (fn q : Nat)
  | protect (fn q : Nat)
  | syncIn (fn q : Nat)
  | syncOut (fn q : Nat)
  | gateOwn (fn q : Nat)
  | fnReset (fn q : Nat)
  | coreReset (fn q : Nat)
  | clusterReset (fn q : Nat)
  | partitionReset (fn q : Nat)
  | partitionPark (fn q : Nat)
  | partitionResume (fn q : Nat)
  -- registers
  | regWrite (fn bar off : Nat) (value : Dword) (width : Nat)
  | mmuWinCfgWrite (fn win : Nat) (half : Half64) (value : Dword)
  | fmFnCfgWrite (fn : Nat) (value : Word)
  | fnPartCfgWrite (fn part : Nat) (value : Word)
  | tickCfgWrite (part : Nat) (value : Word)
  | admBudgetCfgWrite (value : Word)
  | gateOwnerWrite (gate : Nat) (value : Word)
  | partClWrite (part : Nat) (hi : Bool) (half : Half64) (value : Dword)
  | fnAqCfgWrite (fn : Nat) (value : Word)
  | csqCountClrStats (core : Nat) (value : Word)
  | seConvClrStats (core : Nat) (value : Word)
  | seCompClrStats (core : Nat) (value : Word)
  | mmuFnClrStats (fn : Nat) (value : Word)
  | mntDieClrStats (die : Nat) (value : Word)
  | msixUnmask (fn vector : Nat)
  | coalescingTimeout (fn queue : Nat)
  | vfEnable (numVfs : Nat) (enable : Bool)
  | functionLevelReset (fn : Nat)
  | hotReset
  -- object dictionary
  | read (r : OdReq)
  | write (r : OdReq)
  | segWrite (r : OdReq)
  | segCommit (r : OdReq)
  | segAbort (r : OdReq)
  | describe (r : OdReq)
  | list (r : OdReq)
  | stagingExpiry (who : Requester)
  | setEndpointId (eid : Nat)
  | getEndpointId
  | getMctpVersionSupport (msgType : Nat)
  | getMessageTypeSupport
  | getVendorDefinedMessageSupport (selector : Nat)
  | dynamicAddressAssignment (addr : Nat)
  | release (who : Requester) (data : List Byte)
  | moduleReset (who : Requester) (data : List Byte)
  | standby (who : Requester) (data : List Byte)
  | wake (who : Requester) (data : List Byte)
  | factoryDefaults (who : Requester) (data : List Byte)
  | keyWrite (who : Requester) (slot : Nat) (data : List Byte)
  | keyRevoke (who : Requester) (data : List Byte)
  | clearSaved (who : Requester) (link : Nat) (data : List Byte)
  | fleetSend (who : Requester) (data : List Byte)
  | pwrCapWrite (who : Requester) (data : List Byte)
  | setpointChange (who : Requester) (data : List Byte)
  | activate (who : Requester) (data : List Byte)
  | confirm (who : Requester) (data : List Byte)
  | download (who : Requester) (slot offset : Nat) (data : List Byte)
  | verify (who : Requester) (slot : Nat) (data : List Byte) (img : ImageFacts)
  | erase (who : Requester) (slot : Nat) (data : List Byte)
  | clear (who : Requester) (data : List Byte)
  | request (who : Requester) (data : List Byte)
  -- flash programs
  | journalDataRecord
  | journalCommitRecord
  | objectStoreRewrite
  | journalAppliedRecord
  | journalBlockErase
  | eventJournalCommit
  -- supplies, pins, start-up
  | vauxUp
  | vauxLost
  | vinWithinLimits
  | perstAssert
  | perstDeassert (forceRecovery : Bool)
  | pinSample (slotId : Nat) (forceRecovery : Bool)
  | pwrFail (byPin : Bool)
  | pwrFailCleared
  | forceRecoveryAssert
  | forceRecoveryHeld60s
  | warmHoldExpiry
  | s1BootVerify (ok0 ok1 : Bool)
  | s2ConfigCheck (calBad : Option Nat) (refclkOk : Bool)
  | s3RailsUp
  | s4HbmTraining (restoreOk fullOk : Bool) (saved : List Byte)
  | s5LinkTraining (link : Nat) (res : TrainResult)
  | s6CoreFirmware (bad1 bad2 : List Nat)
  | s7SelfTest (bad : List (Nat × List SegEvidence)) (cal : List (Nat × RecalMeas))
  | stageTimeout
  | thermalTrip (die : Nat) (tj : Int)
  | thermalTripRelease (substrate : Int)
  | pwrRailFault (rail : Nat)
  | phaseRetire (rail : Nat)
  | telemetryRead (readings : List (Option RailReading))
  | powerGovernorLoop (m : GovMeas)
  | epochEnd (m : EpochMeas)
  | sensorInvalid (die : Nat) (tj : List Int)
  | droop (die threshold : Nat)
  | stretchRelease (die : Nat)
  | powerStretch (sustained : Bool) (watts : Nat)
  | powerStretchRelease (sustained : Bool) (watts : Nat)
  | govParkRequest
  | govResumeRequest
  | refreshIntervalChange (die : Nat) (tj : Int)
  | refreshStatusUpdate (die : Nat)
  -- the tick, admission and execution
  | leadPoint (part : Nat)
  | waitTimeout (part : Nat)
  | pennantRound (part round : Nat)
  | pennantFinal (part : Nat)
  | tickBoundary (part : Nat)
  | windowEnd (core fn : Nat)
  | partitionStart (part : Nat)
  | aeTurn (ae : Nat)
  | executionPrepare (fn part : Nat)
  | pageOut (core : Nat) (flips : List CellFlip)
  | pageIn (core : Nat) (flips : List CellFlip)
  | taskStart (core : Nat)
  | stagingCopy (core : Nat)
  | count (core mac : Nat) (dev : List Deviation)
  | countRetry (core mac : Nat) (dev : List Deviation)
  | fillerCount (core mac : Nat) (rows : List Nat) (dev : List Deviation)
  | glideFiller (core mac slot : Nat) (dev : List Deviation)
  | steeringSlot (core : Nat) (dev : List (Nat × Deviation))
  | transposedCount (core mac : Nat) (dev : List RowDeviation)
  | guardWindowEnd (mac seg : Nat)
  | retryWindowEnd (mac seg : Nat)
  | refreshSlot (mac : Nat) (flips : List CellFlip)
  | urgentRefresh (mac row : Nat) (flips : List CellFlip)
  | retentionLost (mac row : Nat)
  | fullRowWrite (core mac : Nat)
  | maskedRowWrite (core mac : Nat) (flips : List CellFlip)
  | readBack (core mac : Nat) (first second : List CellFlip)
  | frameReadOut (core : Nat) (flips : List CellFlip)
  | taskRetire (core : Nat)
  | scaleRecordUpdate (core : Nat)
  | hostFill (fn dva : Nat) (write : Bool)
  | hostFillComplete (fn dva : Nat) (failed : List Nat)
  | rd (core line : Nat)
  | own (core line : Nat)
  | wb (core line : Nat) (data : BitVec 512)
  -- chip links and the tick network
  | flitReceive (link : Nat) (flit : BlockData) (slot : FlitSlot)
  | wr (link : Nat) (rec : LinkRecord)
  | rdReq (link : Nat) (rec : LinkRecord)
  | rdData (link : Nat) (rec : LinkRecord)
  | ack (link : Nat) (rec : LinkRecord)
  | arrive (link : Nat) (rec : LinkRecord)
  | recordForward (link : Nat) (rec : LinkRecord)
  | requestTimeout (tag : Nat)
  | pennant (link : Nat) (word : Dword)
  | feature (link : Nat) (word : Dword)
  | syncReq (link : Nat) (word : Dword) (answerSlots : Nat)
  | syncResp (link : Nat) (word : Dword)
  | syncInterval
  | fleet (link : Nat) (word : Dword)
  | laneSwap (link : Nat) (word : Dword)
  | laneSwapSlot (link : Nat)
  | announce (link : Nat) (word : Dword)
  | announceInterval
  | featureResend (part : Nat)
  | linkstate (link : Nat) (word : Dword)
  | soakEnd (link : Nat) (ber : List Nat) (bad : Bool)
  | berWindow (link : Nat) (ber : List Nat) (corrected : Nat)
  | laneLockLost (link lane : Nat) (retrainOk : Bool)
  | linkRetry (link : Nat) (res : TrainResult)
  | lowpwrEntry (link : Nat) (peerAsks : Bool)
  | lowpwrWake (link : Nat)
  | parentLinkFail
  | holdoverTimeout
  -- maintenance
  | maintenanceWindowStart (die part : Nat)
  | recalibration (mac : Nat) (m : RecalMeas)
  | recalTrigger (mac : Nat) (cause : RecalCause)
  | scrubPass (mac : Nat) (flips : List CellFlip) (dev : List Deviation) (rowDev : List RowDeviation)
  | scrubDeadline (core : Nat)
  | calDeadline (mac : Nat)
  | evacuationCopy (mac : Nat) (flips : List CellFlip)
  | diagnosis (mac : Nat) (ev : List SegEvidence)
  | spareMapCommit
  | alertRelease
  | tickRefclkRemoved
  | lowHalfRead (fn bar off : Nat)
  deriving DecidableEq, Repr

end Sys2Proof
end

