-- ==== Sys2Proof/Config.lean ====
section
/-!
DEFINITION. What one module fixes at manufacture and what the manual leaves open.

An `opaque` constant here has no body: nothing in Lean can evaluate it, so no statement can rest on its value.
-/

namespace Sys2Proof.Config

/-- Table 1-1: logical units. -/
def dies : Nat := 4
def clustersPerDie : Nat := 32
def coresPerCluster : Nat := 16
def macrosPerCore : Nat := 64
def cores : Nat := 2048
def clusters : Nat := 128
/-- Table 1-1: physical units. -/
def physClusters : Nat := 34
def physCores : Nat := 17
def physMacros : Nat := 66
def functions : Nat := 512
def links : Nat := 36
def gates : Nat := 16384

/-- What HBM holds at a data block nothing has written since power-up (R280): data and metadata. -/
opaque hbmPowerUp : Nat → BlockData
opaque hbmPowerUpMeta : Nat → BitVec 128

/-- A fresh free value for each use of the state's counter `free` (log entry 2). -/
opaque freeValue : Nat → BitVec 64

/-- Values written at manufacture (R479, R472). -/
opaque partNumber : List Byte
opaque serial : List Byte
opaque mfgDate : Word
opaque uid : BitVec 128
opaque bootRomVersion : List Byte
opaque coreFwDigest : BitVec 384
opaque hbmId : List Byte
opaque regFw : List Byte
opaque i3cPid : BitVec 48

/-- What the signed header of a firmware image says, and whether its signature verifies, where a mailbox GO carries VERIFY (R443): the
manual does not give the form of an image. -/
opaque imageSigOk : List Byte → Bool
opaque imageGen : List Byte → Nat
opaque imageSvn : List Byte → Nat
opaque imageVersion : List Byte → List Byte
opaque imageDigest : List Byte → BitVec 384

/-- The factory calibration record (R391, R421): object bytes by index and subindex. -/
opaque factoryObject : Nat → Nat → List Byte

/-- The position of module m of group 0 holds a module (Table 11-1, topology 2). -/
opaque present : Nat → Bool

end Sys2Proof.Config
end

