-- ==== Sys2Proof/Machine/State.lean ====
section
/-!
DEFINITION. The state of the module: every register, queue, buffer, counter, mode and pin the manual names,
grouped by the block that holds it. Plain data; sparse per-unit state is a `Tab` whose unlisted keys hold the
default its accessor states (Machine/Ops.lean).
-/

namespace Sys2Proof.Machine

open Sys2Proof

/-! ## Why a step stops -/

/-- Faults: none of this module's commands stops the machine (every fault of the manual is an event record and an
effect, R495), so the type has the one constructor that nothing raises. Safe. -/
inductive Fault where
  | unused
  deriving DecidableEq, Repr

/-- Refusals. -/
inductive Refusal where
  /-- Raised by an arm of `exec` that has no meaning yet. Safe. -/
  | notModelled (mnemonic : String)
  deriving DecidableEq, Repr

/-! ## Module state, pins, start-up, firmware (chapters 14 and 17) -/

/-- Table 14-1. -/
inductive ModState where
  | off | aux | boot | training | held | ready | running | parked | recovery | faulted
  deriving DecidableEq, Repr

/-- Table 14-3: the column a start runs. -/
inductive StartKind where
  | coldFull | coldSaved | leaveStandby | warm
  deriving DecidableEq, Repr

/-- R443. -/
inductive SlotState where
  | empty | downloading | unverified | verified | trial | confirmed | invalid
  deriving DecidableEq, Repr

/-- A firmware slot (Table 14-13). -/
structure FwSlot where
  state     : SlotState
  gen       : Nat
  svn       : Nat
  version   : List Byte
  imageSize : Nat
  image     : List Byte
  digest    : BitVec 384
  deriving DecidableEq, Repr

/-- A copy of the boot pointer (R444). -/
structure BootPtr where
  seq   : Nat
  slot  : Nat
  trial : Nat
  valid : Bool
  deriving DecidableEq, Repr

/-- Which rails are up (Table 12-1, Table 14-1): VBUS, VIO0 with VCORE0, the other VIO and VCORE rails, VHBM_C with
VHBM_Q. -/
structure Rails where
  vbus : Bool
  die0 : Bool
  rest : Bool
  vhbm : Bool
  deriving DecidableEq, Repr

/-- The Patrol Controller's view of the module (R423-R450, R500-R509). -/
structure Life where
  state        : ModState
  standby      : Bool
  stage        : Nat
  passed       : Nat
  start        : StartKind
  vaux         : Bool
  vin          : Bool
  perst        : Bool
  pwrFailPin   : Bool
  writesRefused : Bool
  forcePin     : Bool
  forceSince   : Nat
  forceRaised  : Bool
  pinDue       : Bool
  slotId       : Nat
  thermtrip    : Bool
  rails        : Rails
  warmUntil    : Option Nat
  heldCause    : Nat
  heldObject   : Nat
  calBad       : Option Nat
  timingUndefined : Bool
  bootSlot     : Nat
  generation   : Nat
  fwVersion    : List Byte
  ptrs         : List BootPtr
  slots        : List FwSlot
  minSvn       : Nat
  newImage     : Bool
  deriving DecidableEq, Repr

/-! ## Event records and the event journal (R448, R495) -/

/-- An event record before it takes the form of one view (Table 16-13). -/
structure EventRec where
  seq   : Nat
  code  : Nat
  full  : Bool
  part  : Option Nat
  fn    : Option Nat
  task  : Option Nat
  level : Option Nat
  seg   : Option Nat
  cid   : Option Nat
  time  : Nat
  tick  : Option Nat
  unit  : Option Nat
  info  : Option Nat
  addr  : Nat
  deriving DecidableEq, Repr

/-- The event journal of the PTC (R448) and the conditions of ALERT# it drives (R506). -/
structure Journal where
  waiting   : List EventRec
  recs      : List EventRec
  headSeq   : Nat
  lastAlert : Option Nat
  raised    : List (Nat × Nat × Nat)   -- code, unit, time of the last record under a rate limit
  deriving DecidableEq, Repr

/-! ## Host interface (chapters 10 and 16) -/

/-- The command a completion belongs to (R305, R494). -/
structure Ticket where
  fn     : Nat
  q      : Nat
  cid    : Nat
  sqHead : Nat
  deriving DecidableEq, Repr

/-- A submission entry fetched and not yet executed (R304). -/
structure Fetched where
  bytes  : List Byte
  sqHead : Nat
  deriving DecidableEq, Repr

/-- A completion entry (Table 16-11) before it is written. -/
structure Compl where
  ticket   : Ticket
  status   : Nat
  fault    : Nat
  task     : Nat
  tick0    : Nat
  tickEnd  : Nat
  held     : Nat
  poisoned : Nat
  info     : Nat
  deriving DecidableEq, Repr

/-- A submission/completion queue pair (R303-R305, R308). -/
structure QPair where
  sqBase  : Nat
  cqBase  : Nat
  sqLog2  : Nat
  cqLog2  : Nat
  head    : Nat
  tail    : Nat
  cqHead  : Nat
  cqTail  : Nat
  cqPhase : Bool
  vec     : Nat
  coalCnt : Nat
  coalUs  : Nat
  unsig   : Nat
  fetched : List Fetched
  ready   : List Compl
  open_   : Nat
  deleting : Option Ticket
  deriving DecidableEq, Repr

/-- An event queue (R303, R307, R491). -/
structure EQueue where
  base    : Nat
  log2    : Nat
  head    : Nat
  tail    : Nat
  phase   : Bool
  seq     : Nat
  vec     : Nat
  coalCnt : Nat
  coalUs  : Nat
  unsig   : Nat
  deriving DecidableEq, Repr

/-- What the module sends out of itself. -/
inductive OutMsg where
  | msix (fn vector : Nat)
  | odResponse (who : Requester) (header : BitVec 128) (data : List Byte)
  | mctpControl (code : Nat) (data : List Byte)
  | marker (link : Nat) (word : Dword)
  | record (link : Nat) (rec : LinkRecord)
  | nak (link : Nat) (ackSeq : Nat)
  | replay (link first count : Nat)
  | flit (link : Nat) (flit : BlockData)
  deriving DecidableEq, Repr

/-- The per-function pages, queues and interrupts, host memory, and what has been sent. -/
structure HostIf where
  mem        : Tab Byte
  memPoison  : List Nat
  numVfs     : Nat
  vfEn       : Bool
  qps        : Tab QPair
  eqs        : Tab EQueue
  aqCfg      : Tab Word
  aqSqBase   : Tab Dword
  aqCqBase   : Tab Dword
  evtOvf     : Tab Bool
  msixTable  : Tab (BitVec 128)
  msixPend   : Tab Word
  dbErrors   : Tab Nat
  evtDropped : Tab Nat
  heldLow    : Tab Word
  capturedHi : Tab Word
  out        : List OutMsg
  deriving DecidableEq, Repr

/-! ## The registers of BAR0 (Table 16-3) -/

/-- A change of FN_PART_CFG that waits for its boundary (R301). -/
structure PartCfgPend where
  fn    : Nat
  part  : Nat
  share : Option Nat
  tiles : Option (Nat × Nat)
  deriving DecidableEq, Repr

structure Regs where
  sparseCfg  : Word
  budgetCfg  : Word
  glideCfg   : Word
  mmuWin     : Tab Dword
  winPend    : List Nat
  mmuFnCfg   : Tab Word
  fmFnCfg    : Tab Word
  mmuFnStat  : Tab Dword
  fnPartCfg  : Tab Word
  fnPartEff  : Tab Word
  partPend   : List PartCfgPend
  tickCfg    : Tab Word
  tickCfgEff : Tab Word
  partCtl    : Tab Word
  partClLo   : Tab Dword
  partClHi   : Tab Dword
  gateCtl    : Tab Bool
  refreshStat : Tab Word
  pwrDieStat : Tab Dword
  thmStatus  : Tab Word
  mntDieStat : Tab Dword
  countCfg   : Tab Word
  countStat  : Tab Dword
  tickStat   : Tab Dword
  convStat   : Tab Dword
  compStat   : Tab Dword
  /-- Activity since the epoch began, by coefficient of Table 12-3, die and function (R370). -/
  work       : Tab Nat
  deriving DecidableEq, Repr

/-! ## Memory (chapter 9) -/

/-- A 256-byte data block in its logical form, with its metadata (Table 9-4). -/
structure Block where
  data    : BlockData
  check   : Word
  comp    : Bool
  compMap : Dword
  poison  : Bool
  cz      : Bool
  blk     : Bool
  exps    : List Byte
  deriving DecidableEq, Repr

/-- A fill of a host-backed page in flight (R278). -/
structure Fill where
  fn    : Nat
  dva   : Nat
  wrote : Bool
  deriving DecidableEq, Repr

/-- A change of translation that waits under R277. -/
inductive MmuOp where
  | unmap | protect (w : Bool) | syncIn | disable (win : Nat)
  deriving DecidableEq, Repr

structure MmuPend where
  fn     : Nat
  op     : MmuOp
  dva    : Nat
  pages  : Nat
  ticket : Option Ticket
  deriving DecidableEq, Repr

/-- A line held in the Descriptor Caches of a cluster, with the function it is tagged with (R294, R311): the M holder or the S holders,
the CM's copy and whether it is newer than the home, and the requests that a recall holds back, in order (R295): the core, and whether
it asks for M. -/
structure DirLine where
  fn      : Nat
  owner   : Option Nat
  holders : List Nat
  data    : BitVec 512
  dirty   : Bool
  waiting : List (Nat × Bool)
  deriving DecidableEq, Repr

/-- A page-table entry: a directory entry or a leaf entry, and its key in the table (R274). -/
structure PteRef where
  leaf : Bool
  key  : Nat
  deriving DecidableEq, Repr

/-- Where a device virtual address leads (Table 9-1, R275). -/
inductive Loc where
  | hbm (ref : PteRef) (pte hpa win : Nat) (writable : Bool)
  | host (addr win : Nat) (writable : Bool)
  | as (core line : Nat)
  | cm (cluster line : Nat)
  | peer (modNo off : Nat)
  | bad
  deriving DecidableEq, Repr

structure Mem where
  hbm      : Tab Block
  dir      : Tab Dword
  leaf     : Tab (BitVec 128)
  as       : Tab Block
  cm       : Tab Block
  fills    : List Fill
  pend     : List MmuPend
  lines    : Tab DirLine
  /-- Places whose stored words the ECC of HBM, the AS or the CM cannot correct, by `eccKey` (R284). -/
  eccBad   : List Nat
  deriving DecidableEq, Repr

/-! ## Frames and macros (chapters 2, 5, 6, 9, 13) -/

/-- Table 9-9, and the frame being zeroed for an ALLOC. -/
inductive FrameState where
  | zeroing | empty | loading | resident | evicted | lost
  deriving DecidableEq, Repr

/-- R192. -/
inductive ShadowState where
  | writing | verified | ready
  deriving DecidableEq, Repr

/-- A shadow of a frame (R192): its macros, its state, the header a swap brings, the rows of each
macro not yet written and read back. -/
structure Shadow where
  mac    : Nat
  compMac : Option Nat
  state  : ShadowState
  sparse : Bool
  host   : Bool
  hdr    : List Nat
  left   : List Nat
  compLeft : List Nat
  ticket : Option Ticket
  deriving DecidableEq, Repr

/-- A logical frame of a function (R287, R518). -/
structure Frame where
  state    : FrameState
  core     : Nat
  mac      : Option Nat
  companion : Option Nat
  backVa   : Nat
  sparse   : Bool
  wFmt     : Nat
  density  : Nat
  rowsHdr  : Nat
  bibal    : Bool
  forceDense : Bool
  bbk      : Nat
  dirty    : Bool
  lastUse  : Nat
  shadow   : Option Shadow
  deriving DecidableEq, Repr

/-- One physical macro: its cells, Position Store, refresh, trims and count state. `stair` holds V_0-V_8 of each segment in
0.25 mV, `rampTrim` the ramp-bin trim codes (32 a segment), `ctr` the counters of the column-line sections (280 a segment) and
`rowCtr` those of the row-line sections (5 a row); unlisted codes and counters are 0. `posOne` and `posTwo` name the 64-bit words of the
Position Store (4·slot + word) whose stored form has an error that its SEC-DED code corrects, or cannot correct (R156). -/
structure Mac where
  rows      : Tab RowBits
  pos       : Tab (BitVec 256)
  posOne    : List Nat
  posTwo    : List Nat
  poisonRow : List Nat
  suspect   : List (Nat × Nat)
  age       : Tab Nat
  refreshAt : Nat
  remap     : List Half
  flagged   : List Nat
  guardN    : List Nat
  guardHits : List Nat
  retryN    : List Nat
  retryHits : List Nat
  stair     : List (List Nat)
  codes     : Tab (Nat × Nat)
  recalAt   : Nat
  recalTj   : Int
  guardDelta : Int
  rampTrim  : Tab (BitVec 10)
  ctr       : Tab (BitVec 7)
  rowCtr    : Tab (BitVec 7)
  deriving DecidableEq, Repr

/-- The fields of a Weight Page Header (Table 5-1). -/
structure PageHdr where
  layout  : Nat
  wFmt    : Nat
  density : Nat
  ext     : Nat
  bibal   : Bool
  forceDense : Bool
  bbk     : Nat
  nnz     : Nat
  rsv     : Bool
  deriving DecidableEq, Repr

/-- A weight page as the Frame Manager holds it while it builds a frame: the dense rows, the positions of each slot
(64 g + n) with the weights they select, the slots' codes as a packed image lists them, the suspect pairs. -/
structure Page where
  hdr     : PageHdr
  dense   : List Nat
  slots   : List (List Nat)
  codes   : List Nat
  suspect : List (Nat × Nat)
  deriving DecidableEq, Repr

/-- A command of a function that the Frame Manager holds until it can act (R289, R292). -/
inductive FmWait where
  | alloc (t : Ticket) (fn : Nat) (first count : Nat)
  | free (t : Ticket) (fn : Nat) (first count : Nat)
  | load (t : Ticket) (fn frame image : Nat)
  /-- An ALLOC behind a FREE of the same queue that waits (Table 9-10). -/
  | later (t : Ticket) (entry : Nat)
  deriving DecidableEq, Repr

/-- A page-out or page-in the Frame Manager has under way on a core (R290). -/
structure Paging where
  fn    : Nat
  frame : Nat
  out   : Bool
  sparse : Bool
  deriving DecidableEq, Repr

structure Fm where
  frames  : Tab Frame
  macs    : Tab Mac
  checks  : Tab Word
  waits   : List FmWait
  paging  : Tab (List Paging)
  useSeq  : Nat
  deriving DecidableEq, Repr

/-! ## Graphs, plans, executions (chapter 8) -/

/-- One Loop Descriptor (Table 7-2). -/
structure LoopD where
  bound   : Nat
  order   : Nat
  bind    : Nat
  bkt     : Nat
  indir   : Bool
  reverse : Bool
  serp    : Bool
  sA      : Int
  sW      : Int
  sO      : Int
  rsv     : Nat
  deriving DecidableEq, Repr

/-- The Format Record fields captured at admission (Table 4-3). -/
structure FormatRec where
  aFmt   : Nat
  aZp    : Nat
  wFmt   : Nat
  wFlags : Nat
  oZp    : Nat
  t0     : Nat
  t1     : Nat
  scaleCtl : Nat
  bgCoef : Nat
  aHdr   : Nat
  oHdr   : Nat
  wScale : Nat
  srec   : Nat
  recVa  : Nat
  deriving DecidableEq, Repr

/-- A task: its Task Descriptor (Table 8-3), Operand Record (Table 8-5) and Format Record. -/
structure Task where
  slicePlan : Nat
  accCtl    : Nat
  egress    : Nat
  wop       : Nat
  rescale   : Word
  ctl       : Nat
  loops     : List LoopD
  aVa       : Nat
  oVa       : Nat
  addVa     : Nat
  mulVa     : Nat
  idxVa     : Nat
  wBase     : Nat
  boundM    : Nat
  boundN    : Nat
  boundK    : Nat
  seSlots   : Nat
  hint      : Nat
  ring      : Nat
  opndVa    : Nat
  fr        : FormatRec
  deriving DecidableEq, Repr

/-- An Edge Table entry (Table 8-6). -/
structure Edge where
  kind : Nat
  prod : Nat
  cons : Nat
  gate : Nat
  aux  : Nat
  deriving DecidableEq, Repr

/-- A Stage Map entry (Table 8-2). -/
structure StageEnt where
  core : Nat
  asKib : Nat
  cmKib : Nat
  deriving DecidableEq, Repr

/-- The Graph Descriptor (Table 8-1). -/
structure GraphD where
  feature : Nat
  flags   : Nat
  nStages : Nat
  nTasks  : Nat
  nGates  : Nat
  nEdges  : Nat
  nFrec   : Nat
  gateBase : Nat
  tag     : Nat
  taskVa  : Nat
  opndVa  : Nat
  edgeVa  : Nat
  frecVa  : Nat
  auxVa   : Nat
  deriving DecidableEq, Repr

/-- The key of a plan (R258). -/
structure PlanKey where
  fn      : Nat
  graphVa : Nat
  tag     : Nat
  buckets : List Nat
  level   : Nat
  part    : Nat
  period  : Nat
  mwin    : Nat
  rr      : Nat
  share   : Nat
  deriving DecidableEq, Repr

/-- A placed task: its task ID, stage, plan tick, cost and bound of R248. -/
structure Placed where
  id    : Nat
  stage : Nat
  tick  : Nat
  cost  : Nat
  bEff  : Nat
  /-- Modelled activity, by the coefficients 1 to 7 of Table 12-3 (R369). -/
  work  : List Nat
  deriving DecidableEq, Repr

/-- An admitted plan. -/
structure Plan where
  key    : PlanKey
  tasks  : List Task
  edges  : List Edge
  stages : List StageEnt
  gateBase : Nat
  targets : List Nat
  placed : List Placed
  length : Nat
  trips  : List (List Nat)
  frames : List (Nat × Nat × Bool × Nat)   -- logical frame, core, counted sparse, rows budgeted (0: not counted)
  swaps  : List Nat
  noCache : Bool
  thresh  : Nat
  /-- Extents of the selected bucket, by dynamic dimension (R228). -/
  ext     : List Nat
  startedAt : Nat
  deriving DecidableEq, Repr

/-- How far a submission has come at its AE (R241, R242). -/
inductive SubPhase where
  | check
  /-- Steps 1 to 4 have passed: the Graph Descriptor, the Bucket Table, the bucket vector, the tasks checked so far. -/
  | fit (gd : GraphD) (bt : List (List Nat)) (bs : List Nat) (ts : List Task)
  deriving DecidableEq, Repr

/-- A SUBMIT at an Admission Engine. -/
structure Sub where
  id      : Option Nat
  ticket  : Ticket
  graphVa : Nat
  part    : Nat
  xs      : List Nat
  startTick : Option Nat
  phase   : SubPhase
  deriving DecidableEq, Repr

inductive ExecPhase where
  | queued | prepared | running | absorbed | ended
  deriving DecidableEq, Repr

/-- An execution of a plan (R259, R261). -/
structure Exec where
  id      : Nat
  ticket  : Ticket
  plan    : Plan
  xs      : List Nat
  startTick : Option Nat
  admitted : Nat
  phase   : ExecPhase
  planTick : Nat
  tick0   : Nat
  heldCnt : Nat
  poisoned : Nat
  retired : List Nat
  committed : List Nat
  waitHeld : Nat
  swapsDue : List (Nat × Bool)
  deriving DecidableEq, Repr

/-- One Admission Engine (R241). -/
structure Ae where
  lastFn : Nat
  lastQ  : Tab Nat
  subs   : List Sub
  deriving DecidableEq, Repr

structure Adm where
  aes     : List Ae
  plans   : List Plan
  execs   : List Exec
  nextId  : Nat
  startSeq : Nat
  waitMax : Tab Nat
  behind  : Tab Nat               -- function ↦ start of the other functions' turns it has waited for since its last turn
  deriving DecidableEq, Repr

/-! ## Gates, partitions, the tick (chapters 8 and 11) -/

/-- A gate of the Gate Array (R253). -/
structure Gate where
  count   : Nat
  target  : Nat
  owner   : Nat
  waiters : List Ticket
  armedBy : Option Nat
  deriving DecidableEq, Repr

/-- An arrival that waits for its boundary (R255, R519). -/
structure Arrival where
  gate   : Nat
  n      : Nat
  part   : Nat
  after  : Nat
  ticket : Option Ticket
  deriving DecidableEq, Repr

inductive PartState where
  | idle | running | parked | frozen
  deriving DecidableEq, Repr

/-- A local partition's Tick Unit state (R348-R356). -/
structure Part where
  state    : PartState
  startReq : Option Nat
  tick     : Nat
  next     : Nat
  k        : Nat
  period   : Nat
  level    : Nat
  prevAdv  : Bool
  lead     : Bool
  ownWord  : Dword
  merged   : Dword
  round    : Nat
  final    : Dword
  hasFinal : Bool
  parkReq  : Bool
  resumeReq : Bool
  parkAt   : Option Nat
  resumeAt : Option Nat
  parkTk   : List (Nat × Ticket)
  resumeTk : List (Nat × Ticket)
  features : List (Nat × Dword)
  nextLevel : Option Nat
  freezeNext : Bool
  deriving DecidableEq, Repr

structure Tick where
  st       : Nat
  gates    : Tab Gate
  arrivals : List Arrival
  parts    : Tab Part
  deriving DecidableEq, Repr

/-! ## The cores: Core Sequencer, Input Slicer, Recombiner, CACC, ACCM, SE (chapters 2 to 7) -/

/-- An FP32 value with its poison bit. -/
structure PVal where
  val    : Word
  poison : Bool
  deriving DecidableEq, Repr

/-- An entry of the pairwise stack (R100). -/
structure StackEnt where
  val    : Word
  level  : Nat
  poison : Bool
  deriving DecidableEq, Repr

/-- The activation of one K granule of one token as it is fed (R88-R93, R126): the K granule, the A granule, the slice
count, the 64 integers, how many lie within the bound, the group shift, the non-finite and poison marks. -/
structure SegIn where
  kg     : Nat
  qA     : Int
  slices : Nat
  qs     : List Int
  valid  : Nat
  shift  : Int
  nonfin : Bool
  poison : Bool
  deriving DecidableEq, Repr

/-- Lanes of a macro that one granule of the step uses: the frame's segment, the input that feeds it, the output granule
and its O granule number, the first lane, the first channel of the granule, the lanes. -/
structure LanePart where
  seg  : Nat
  inp  : Nat
  ng   : Nat
  qO   : Int
  lane : Nat
  chan : Nat
  n    : Nat
  deriving DecidableEq, Repr

/-- What one macro counts for the token under way: the sums the Recombiner has formed, the
segments (rows in transposed mode) that wait for a retry, those that failed twice, the lanes whose partials are poisoned. -/
structure Job where
  frame  : Nat
  mac    : Nat
  sparse : Bool
  round  : Nat
  inputs : List SegIn
  parts  : List LanePart
  next   : Nat
  acc    : Tab Int
  failed : List Nat
  bad    : List Nat
  badLane : List (Nat × Nat)
  deriving DecidableEq, Repr

/-- One row of a frame that a write task writes: its new data bits, the columns they cover, whether it is a full row. -/
structure WRow where
  row    : Nat
  mask   : Nat
  bits   : Nat
  full   : Bool
  poison : Bool
  deriving DecidableEq, Repr

/-- A macro a write task writes in one step, and the rows that are left (R185, R186). -/
structure WriteRun where
  frame   : Nat
  mac     : Nat
  sparse  : Bool
  page    : Bool
  todo    : List WRow
  written : List WRow
  done    : Bool
  deriving DecidableEq, Repr

/-- The task a core runs. -/
structure Run where
  exec    : Nat
  task    : Nat
  setup   : Bool
  step    : Nat
  busy    : Bool
  token   : Nat
  round   : Nat
  slice   : Nat
  jobs    : List Job
  writes  : List WriteRun
  buf     : List (Nat × Block)
  inp     : List (Nat × Block)
  trips   : List (Nat × Nat)
  obuf    : List (Nat × Block)
  oStep   : Nat
  remote  : List Nat
  got     : Tab Nat
  sa      : PVal
  sw      : List PVal
  sigma   : PVal
  badScale : Bool
  adapted : Bool
  srStep  : Nat
  coef    : Nat
  coefBad : Bool
  t0      : List Word
  t1      : List Word
  t0Bad   : Bool
  t1Bad   : Bool
  sCoef   : Nat
  counted : Nat
  clipped : Nat
  nonfin  : Nat
  amax    : Word
  poisonedN : Nat
  density : Nat
  overAt  : Option Nat
  rc      : Nat
  sparse  : Bool
  base    : Nat
  steered : Nat
  retries : Tab Nat
  slots   : Nat
  accmAt  : Option Nat
  badStep : Bool
  cause   : Nat
  prepass : List (Int × PVal)
  wrote   : List Nat
  srecSent : Bool
  hdrSent : Bool
  finished : Bool
  outs     : List (Nat × Nat × Nat)
  failed   : List Nat
  deriving DecidableEq, Repr

/-- One logical core. -/
structure Core where
  run      : Option Run
  slot     : List (Nat × Nat)
  paused   : List Run
  window   : Option Nat
  consumed : Nat
  planned  : Nat
  budget   : Bool
  negRun   : Nat
  timeSlips : List Nat
  acc      : Tab PVal
  stk      : Tab (List StackEnt)
  pushCtr  : Tab Nat
  accm     : Tab PVal
  staged   : List (Nat × Nat × Block)
  /-- Count slot at which the core's ramp down of glide load began (R379). -/
  glideFrom : Option Nat
  deriving DecidableEq, Repr

/-! ## Chip links (chapter 11) -/

/-- Table 11-6. -/
inductive LinkMode where
  | off | idleTrain | train | soak | up | lowpwr | down | refused
  deriving DecidableEq, Repr

/-- One link. `heldMap`: lanes that the spare replaced before the last module reset. `cleanWin`: windows of 1 s in a row that meet the gate
of R339; `errNow`, `soakBad`: an uncorrectable code word or a failed flit CRC since the last window, in this soak. `queue`: records that
wait for the output port. `credit`: units of 16 bytes free in the peer's buffer, class * 5 + VC, where it is not 512; `owed`: units of
this end's buffers to be returned. `rrPid`, `rrFn`: the partition and function whose turn is next. `ctlGap`: DATA flits since the last
CTL flit. `kept`: the last sequenced flits by FSEQ. `rxBody`: body bytes of a record not yet whole. `sinceAck`: flits received since
ACK_SEQ was last reported. -/
structure Link where
  mode      : LinkMode
  level     : Nat
  peerModule : Nat
  peerLink  : Nat
  laneMap   : Nat
  spareBad  : Bool
  ber       : Nat
  overBer   : List Nat
  fecCorr   : Nat
  fecUncorr : Nat
  replays   : Nat
  replaysSec : Nat
  propNs    : Nat
  lock      : Bool
  soakFails : Nat
  rxSeq     : Nat
  nakSent   : Bool
  txSeq     : Nat
  replayRow : Nat
  replayFrom : Nat
  swapLane  : Option Nat
  swapSlot  : Nat
  syncT1    : Option Nat
  master    : Option (Nat × Nat × Nat)
  stateSeq  : Nat
  downAt    : Nat
  heldMap   : Nat
  cleanWin  : Nat
  errNow    : Bool
  soakBad   : Bool
  queue     : List LinkRecord
  credit    : Tab Nat
  owed      : Tab Nat
  rrPid     : Nat
  rrFn      : Tab Nat
  ctlGap    : Nat
  kept      : List (Nat × BlockData)
  rxBody    : List Byte
  sinceAck  : Nat
  /-- Equalisation of lanes 0 to 4: the working value of the last training, and with the user deltas (R391, R393). -/
  equal     : List Byte
  equalEff  : List Byte
  deriving DecidableEq, Repr

/-- A remote access waiting for its answer (R330). -/
structure Remote where
  tag   : Nat
  core  : Nat
  fn    : Nat
  dst   : Nat
  write : Bool
  sentAt : Nat
  dest  : Nat
  elems : Nat
  step  : Nat
  link  : Nat
  deriving DecidableEq, Repr

structure LinkNet where
  links    : Tab Link
  remote   : List Remote
  nextTag  : Nat
  view     : Tab (Nat × Nat)      -- module*64+link ↦ state, seq
  mySeq    : Nat
  master   : Option (Nat × Nat)   -- module, priority
  parent   : Option Nat
  hops     : Nat
  syncOffset : Int
  lostSince : Option Nat
  fleetSeen : List Nat
  deriving DecidableEq, Repr

/-! ## Power and thermal (chapter 12) -/

structure PowerDie where
  droop    : Nat
  events   : Nat
  loss     : Nat
  stretchAt : Nat
  mv       : Nat
  hold800  : Bool
  tjMax    : Int
  sensorsOk : Nat
  hot      : Bool
  /-- Since when the hottest sensor has stayed at or below 83 °C (R75). -/
  coolSince : Option Nat
  /-- VCORE as the Power Governor commands it over AVSBus, in mV (R361, R364). -/
  vset     : Nat
  deriving DecidableEq, Repr

/-- Per-partition Power Governor state (R364, R373, R377). -/
structure PowerPart where
  cclk    : Nat
  nextClk : Nat
  acc     : Rat
  parkedByGov : Bool
  deriving DecidableEq, Repr

/-- A rail: its last reading, the reads it has failed in a row, the phases it has lost (R362, R363). -/
structure RailState where
  mv     : Nat
  amps   : Word
  tempC  : Int
  status : Half
  missed : Nat
  lost   : Nat
  deriving DecidableEq, Repr

structure Pwr where
  dies     : Tab PowerDie
  parts    : Tab PowerPart
  rails    : Tab RailState
  corr     : Rat
  lossHist : List (List Nat)
  allow    : Nat
  target   : Rat
  traj     : Rat
  setpoint : Nat
  thCeil   : Rat
  input    : Nat
  samples  : List Nat
  loopAt   : Nat
  epochAt  : Nat
  inputSilent : Bool
  excursion : Bool
  overrun  : Bool
  thermStretch : Bool
  railStretch : Bool
  lstar    : Rat
  gMin     : Rat
  gMax     : Rat
  belowSince : Option Nat
  aboveSince : Option Nat
  outSince : Option Nat
  govReq   : Option Nat
  status   : Nat
  fleetLast : Option Nat
  fleetWord : Dword
  fleetWait : List Dword
  fleetSet : Nat
  fleetRate : Nat
  energyMj : Nat
  unattribMj : Nat
  fnEnergy : Tab Nat
  hbmT     : List Int
  /-- Window slots reserved in the epoch, by function (R370). -/
  resSlots : Tab Nat
  /-- Sum and number of the epoch's predictions of the draw (R373). -/
  predSum  : Rat
  predN    : Nat
  deriving DecidableEq, Repr

/-! ## Maintenance (chapter 13) -/

/-- Table 13-9. -/
inductive Activity where
  | thm | rep | cal | rfc | scr | lnk
  deriving DecidableEq, Repr

structure MntReq where
  act   : Activity
  die   : Nat
  core  : Nat
  mac   : Nat
  guard : Bool
  at_   : Nat
  deriving DecidableEq, Repr

/-- What a committed change of the maps does at its boundary (R397, R414). -/
inductive MapChange where
  | evacSwap (logCore logMac newPhys : Nat)
  | remap (mac entry : Nat) (value : Half) (info : Nat)
  | retireMacro (mac info : Nat)
  | freeMacro (mac : Nat)
  | coreSubst (cluster core phys : Nat)
  | clusterSubst (cluster phys : Nat)
  | suspect (mac seg : Nat) (lanes : List Nat)
  deriving DecidableEq, Repr

structure MapPend where
  change    : MapChange
  committed : Bool
  deriving DecidableEq, Repr

/-- A trim commit staged by a re-calibration (R399 step 7). -/
structure TrimPend where
  mac   : Nat
  stair : List (List Nat)
  codes : List (Nat × Nat × Nat)
  deriving DecidableEq, Repr

/-- An open maintenance window of a partition on a die, with the requests granted for it (R417). -/
structure Window where
  die  : Nat
  part : Nat
  reqs : List MntReq
  deriving DecidableEq, Repr

structure Mnt where
  queue     : List MntReq
  windows   : List Window
  clusterMap : Tab Nat
  clusterSt : Tab Nat
  coreMap   : Tab Nat
  coreSt    : Tab Nat
  macroMap  : Tab Nat
  macroSt   : Tab Nat
  pend      : List MapPend
  trims     : List TrimPend
  scrubNext : Tab Nat
  scrubAt   : Tab Nat
  scrubLastMs : Nat
  fillerBad : Nat
  posFixed  : Nat
  transients : Nat
  retired   : Nat × Nat × Nat
  clamped   : Bool
  lastDiag  : List Byte
  copied    : Tab Nat
  calAt     : Nat
  calTj     : Tab Int
  exhausted : List Nat
  urgent    : Tab Nat
  maxAge    : Tab Nat
  recals    : Tab Nat
  repairs   : Tab Nat
  substCore : List Nat
  /-- Bytes of HBM that maintenance has moved in the tick, by partition * 8 + stack (R418). -/
  hbmUsed   : Tab Nat
  deriving DecidableEq, Repr

/-! ## Object dictionary (chapter 15) -/

structure StoreEnt where
  val : List Byte
  crc : Word
  deriving DecidableEq, Repr

/-- A record of the dictionary journal (R464). -/
inductive JRec where
  | data (txn key offset : Nat) (val : List Byte)
  | commit (txn n : Nat) (crc : Word)
  | applied (txn : Nat)
  deriving DecidableEq, Repr

/-- What the commit of a transaction answers or completes. -/
inductive TxnDone where
  | respond (r : OdReq) (op : Nat) (clamped : Bool)
  | ptc
  | confirm (r : OdReq) (op : Nat)
  | activate (r : OdReq) (op slot : Nat)
  | factory (r : OdReq) (op : Nat)
  | key (r : OdReq) (op slot : Nat)
  | revoke (r : OdReq) (op slot : Nat)
  | ceiling (slot hi : Nat) (r : OdReq) (op : Nat)
  deriving DecidableEq, Repr

/-- A transaction (R463, R465). -/
structure Txn where
  seq       : Nat
  ents      : List (Nat × List Byte)
  todo      : List JRec
  committed : Bool
  stored    : Bool
  done      : TxnDone
  host      : Bool
  deriving DecidableEq, Repr

structure Staged where
  who  : Requester
  key  : Nat
  data : List Byte
  last : Nat
  expired : Bool
  deriving DecidableEq, Repr

structure Snapshot where
  who  : Requester
  key  : Nat
  data : List Byte
  deriving DecidableEq, Repr

/-- A mailbox of a BAR2 window (Table 15-7). -/
structure Mailbox where
  req     : Dword
  offset  : Word
  length  : Word
  resp    : Dword
  respLen : Word
  total   : Word
  ctl     : Word
  buf     : Tab Byte
  deriving DecidableEq, Repr

structure Od where
  vals     : Tab (List Byte)
  store    : Tab StoreEnt
  blocks   : List (List JRec)
  blockAt  : Nat
  txns     : List Txn
  txnSeq   : Nat
  persistN : Nat
  rollbacks : Nat
  recent   : List Nat
  staged   : List Staged
  snaps    : List Snapshot
  refused8 : List Byte
  requests : Nat
  refusedN : Nat
  mailbox  : Tab Mailbox
  goIgnored : Nat
  eid      : Nat
  dynAddr  : Nat
  msgsRx   : Nat
  msgsDropped : Nat
  last     : List Nat
  authFails : Nat
  authAt   : List Nat
  framesRx : Nat
  plantAt  : List Nat
  /-- Requests accepted and not yet executed, with their OP (R460). -/
  waiting  : List (Nat × OdReq)
  deriving DecidableEq, Repr

/-! ## The whole module -/

structure State where
  /-- The commands that wait, first in, first out. -/
  pending : List Instr
  /-- Time of the PTC's own oscillator, in 1/16 ns since power-up; no reset returns it. -/
  now     : Nat
  /-- Counter of the free values (log entry 2); the model's own. -/
  free    : Nat
  life    : Life
  jr      : Journal
  host    : HostIf
  reg     : Regs
  mem     : Mem
  fm      : Fm
  adm     : Adm
  tick    : Tick
  cores   : Tab Core
  net     : LinkNet
  pwr     : Pwr
  mnt     : Mnt
  od      : Od
  deriving DecidableEq, Repr


/-! ## The machine right after reset

`State.reset` is the module with no supply applied, as manufactured: state OFF, every register at the reset value of
its register map, every object at its default, slot A holding the confirmed image of firmware generation 4 (R1). -/

/-- A firmware slot that holds nothing (R443). -/
def FwSlot.empty : FwSlot :=
  { state := .empty, gen := 0, svn := 0, version := [], imageSize := 0, image := [], digest := 0 }

def Rails.off : Rails := { vbus := false, die0 := false, rest := false, vhbm := false }

def Life.reset : Life :=
  { state := .off, standby := false, stage := 0, passed := 0, start := .coldFull, vaux := false, vin := false,
    perst := true, pwrFailPin := false, writesRefused := false,
    forcePin := false, forceSince := 0, forceRaised := false, pinDue := false, slotId := 0, thermtrip := false,
    rails := Rails.off, warmUntil := none, heldCause := 0, heldObject := 0, calBad := none,
    timingUndefined := false, bootSlot := 0, generation := 4, fwVersion := [],
    ptrs := [{ seq := 1, slot := 0, trial := 0xFF, valid := true }, { seq := 0, slot := 0, trial := 0xFF, valid := true }],
    slots := [{ FwSlot.empty with state := .confirmed, gen := 4 }, FwSlot.empty], minSvn := 0,
    newImage := false }

def Journal.reset : Journal :=
  { waiting := [], recs := [], headSeq := 0, lastAlert := none, raised := [] }

def HostIf.reset : HostIf :=
  { mem := [], memPoison := [], numVfs := 0, vfEn := false, qps := [], eqs := [], aqCfg := [], aqSqBase := [],
    aqCqBase := [], evtOvf := [], msixTable := [], msixPend := [], dbErrors := [], evtDropped := [], heldLow := [],
    capturedHi := [], out := [] }

/-- Tables 5-2, 8-9 and 12-9; the registers with instances are listed only where they differ from their reset value. -/
def Regs.reset : Regs :=
  { sparseCfg := 0x9F, budgetCfg := 0x20, glideCfg := 0x00843081, mmuWin := [], winPend := [], mmuFnCfg := [],
    fmFnCfg := [], mmuFnStat := [], fnPartCfg := [], fnPartEff := [], partPend := [], tickCfg := [], tickCfgEff := [],
    partCtl := [], partClLo := [], partClHi := [], gateCtl := [], refreshStat := [], pwrDieStat := [], thmStatus := [],
    mntDieStat := [], countCfg := [], countStat := [], tickStat := [], convStat := [], compStat := [], work := [] }

def Mem.reset : Mem :=
  { hbm := [], dir := [], leaf := [], as := [], cm := [], fills := [], pend := [], lines := [], eccBad := [] }

def Fm.reset : Fm :=
  { frames := [], macs := [], checks := [], waits := [], paging := [], useSeq := 0 }

def Ae.reset : Ae := { lastFn := 0, lastQ := [], subs := [] }

def Adm.reset : Adm :=
  { aes := List.replicate 8 Ae.reset, plans := [], execs := [], nextId := 0, startSeq := 0, waitMax := [], behind := [] }

def Gate.reset : Gate := { count := 0, target := 0, owner := 0, waiters := [], armedBy := none }

def Part.reset : Part :=
  { state := .idle, startReq := none, tick := 0, next := 0, k := 0, period := 0, level := 4,
    prevAdv := false, lead := false, ownWord := 0, merged := 0,
    round := 0, final := 0, hasFinal := false, parkReq := false, resumeReq := false, parkAt := none, resumeAt := none,
    parkTk := [], resumeTk := [], features := [], nextLevel := none, freezeNext := false }

def Tick.reset : Tick := { st := 0, gates := [], arrivals := [], parts := [] }

def Core.reset : Core :=
  { run := none, slot := [], paused := [], window := none, consumed := 0, planned := 0, budget := false, negRun := 0,
    timeSlips := [], acc := [], stk := [], pushCtr := [], accm := [], staged := [], glideFrom := none }

def Link.reset : Link :=
  { mode := .off, level := 0, peerModule := 0, peerLink := 0, laneMap := 0, spareBad := false, ber := 0, overBer := [],
    fecCorr := 0, fecUncorr := 0, replays := 0, replaysSec := 0, propNs := 0,
    lock := false, soakFails := 0, rxSeq := 0, nakSent := false, txSeq := 0,
    replayRow := 0, replayFrom := 0, swapLane := none, swapSlot := 0,
    syncT1 := none, master := none, stateSeq := 0, downAt := 0, heldMap := 0, cleanWin := 0, errNow := false,
    soakBad := false, queue := [], credit := [], owed := [], rrPid := 0, rrFn := [], ctlGap := 3, kept := [], rxBody := [],
    sinceAck := 0, equal := [], equalEff := [] }

def LinkNet.reset : LinkNet :=
  { links := [], remote := [], nextTag := 0, view := [], mySeq := 0, master := none, parent := none, hops := 0,
    syncOffset := 0, lostSince := none, fleetSeen := [] }

def PowerDie.reset : PowerDie :=
  { droop := 0, events := 0, loss := 0, stretchAt := 0, mv := 0, hold800 := false, tjMax := 0, sensorsOk := 0, hot := false,
    coolSince := none, vset := 0 }

def PowerPart.reset : PowerPart := { cclk := 800, nextClk := 800, acc := 0, parkedByGov := false }

def RailState.reset : RailState := { mv := 0, amps := 0, tempC := 0, status := 0, missed := 0, lost := 0 }

def Pwr.reset : Pwr :=
  { dies := [], parts := [], rails := [], corr := 1, lossHist := [], allow := 0, target := 0, traj := 0, setpoint := 1800,
    thCeil := 2200, input := 0, samples := [], loopAt := 0, epochAt := 0, inputSilent := false, excursion := false,
    overrun := false, thermStretch := false, railStretch := false, lstar := 0, gMin := 0, gMax := 0, belowSince := none,
    aboveSince := none, outSince := none, govReq := none, status := 0, fleetLast := none, fleetWord := 0, fleetWait := [],
    fleetSet := 0, fleetRate := 0, energyMj := 0, unattribMj := 0, fnEnergy := [], hbmT := [], resSlots := [],
    predSum := 0, predN := 0 }

def Mnt.reset : Mnt :=
  { queue := [], windows := [], clusterMap := [], clusterSt := [], coreMap := [], coreSt := [], macroMap := [],
    macroSt := [], pend := [], trims := [], scrubNext := [], scrubAt := [], scrubLastMs := 0, fillerBad := 0,
    posFixed := 0, transients := 0, retired := (0, 0, 0), clamped := false, lastDiag := [], copied := [], calAt := 0, calTj := [],
    exhausted := [], hbmUsed := [], urgent := [], maxAge := [], recals := [], repairs := [], substCore := [] }

def Od.reset : Od :=
  { vals := [], store := [], blocks := List.replicate 8 [], blockAt := 0, txns := [], txnSeq := 0, persistN := 0, rollbacks := 0,
    recent := [], staged := [], snaps := [], refused8 := [], requests := 0, refusedN := 0, mailbox := [], goIgnored := 0,
    eid := 0, dynAddr := 0, msgsRx := 0, msgsDropped := 0, last := [0, 0],
    authFails := 0, authAt := [], framesRx := 0, plantAt := [], waiting := [] }

/-- The module right after reset (log entry 5). -/
def State.reset : State :=
  { pending := [], now := 0, free := 0, life := Life.reset, jr := Journal.reset, host := HostIf.reset,
    reg := Regs.reset, mem := Mem.reset, fm := Fm.reset, adm := Adm.reset, tick := Tick.reset, cores := [],
    net := LinkNet.reset, pwr := Pwr.reset, mnt := Mnt.reset, od := Od.reset }

end Sys2Proof.Machine
end

