-- ==== Sys2Proof/Machine/Fp.lean ====
section
/-!
DEFINITION. FP32 arithmetic (R24, R98, R99), the nonlinear units of the Stream Engine (R146), and rounding to the narrow
floating-point formats (R122).
-/

namespace Sys2Proof.Machine

open Sys2Proof

/-! ## Exact values and rounding -/

/-- 2^i for an integer i. -/
def pow2 (i : Int) : Rat := if 0 ≤ i then (2 ^ i.toNat : Nat) else mkRat 1 (2 ^ (-i).toNat)

/-- floor (log2 x) for x > 0. -/
def ilog2 (x : Rat) : Int :=
  let e : Int := (x.num.natAbs.log2 : Int) - (x.den.log2 : Int)
  if x < pow2 e then e - 1 else e

/-- Round a rational to the nearest integer, ties to even. -/
def rne (x : Rat) : Int :=
  let d : Int := x.den
  let q := x.num / d
  let r2 := 2 * (x.num % d)
  if r2 < d then q else if d < r2 then q + 1 else if q % 2 = 0 then q else q + 1

/-- The value with its sign. -/
def fvRat : FVal → Rat
  | .fin n m => if n then -m else m
  | _ => 0

def fvFinite : FVal → Bool
  | .fin _ _ => true
  | _ => false

/-- Decode a code of `eb` exponent and `mb` mantissa bits whose all-ones exponent holds infinities and NaNs. -/
def decodeIeee (eb mb n : Nat) : FVal :=
  let neg := bitOf n (eb + mb)
  let e := bitsOf n (eb + mb - 1) mb
  let m := n % 2 ^ mb
  let bias : Int := 2 ^ (eb - 1) - 1
  if e = 2 ^ eb - 1 then (if m = 0 then .inf neg else .nan)
  else if e = 0 then .fin neg (m * pow2 (1 - bias - mb))
  else .fin neg ((2 ^ mb + m : Nat) * pow2 ((e : Int) - bias - mb))

/-- Magnitude bits of a nonzero magnitude rounded to nearest, ties to even, with gradual underflow and an unbounded
exponent above. -/
def roundMag (eb mb : Nat) (x : Rat) : Nat :=
  let bias : Int := 2 ^ (eb - 1) - 1
  let q := max (ilog2 x) (1 - bias)
  let m := (rne (x * pow2 ((mb : Int) - q))).toNat
  (q + bias - 1).toNat * 2 ^ mb + m

def fp32Nan : Word := 0x7FC00000
def fp32Inf (neg : Bool) : Word := if neg then 0xFF800000 else 0x7F800000
def fp32Zero (neg : Bool) : Word := if neg then 0x80000000 else 0

def fval (w : Word) : FVal := decodeIeee 8 23 w.toNat

def isNan (w : Word) : Bool := fval w == .nan

/-- Encode a sign and a magnitude in binary32 (Table 3-3). -/
def round32s (neg : Bool) (mag : Rat) : Word :=
  if mag = 0 then fp32Zero neg
  else
    let b := roundMag 8 23 mag
    if 0x7F800000 ≤ b then fp32Inf neg else BitVec.ofNat 32 (b + if neg then 2 ^ 31 else 0)

/-- round32 of R98: an exact zero gives +0. -/
def round32 (x : Rat) : Word := round32s (x < 0) |x|

/-- fadd32 of Table 3-3. -/
def fadd32 (a b : Word) : Word :=
  match fval a, fval b with
  | .nan, _ => fp32Nan
  | _, .nan => fp32Nan
  | .inf x, .inf y => if x = y then fp32Inf x else fp32Nan
  | .inf x, .fin _ _ => fp32Inf x
  | .fin _ _, .inf y => fp32Inf y
  | .fin x m, .fin y n =>
    let s := fvRat (.fin x m) + fvRat (.fin y n)
    if s = 0 then fp32Zero (x && y && m == 0 && n == 0) else round32 s

/-- fmul32 of Table 3-3. -/
def fmul32 (a b : Word) : Word :=
  match fval a, fval b with
  | .nan, _ => fp32Nan
  | _, .nan => fp32Nan
  | .inf x, .inf y => fp32Inf (xor x y)
  | .inf x, .fin y n => if n = 0 then fp32Nan else fp32Inf (xor x y)
  | .fin x m, .inf y => if m = 0 then fp32Nan else fp32Inf (xor x y)
  | .fin x m, .fin y n => round32s (xor x y) (m * n)

/-- The negation of a value. -/
def fneg32 (a : Word) : Word := a ^^^ 0x80000000

/-- The larger of two magnitudes or values held as finite FP32 codes. -/
def fmaxAbs (a : Word) (x : Rat) : Word := if fvRat (fval a) < |x| then round32 |x| else a

/-! ## Nonlinear units (Table 4-11) -/

/-- recip. -/
def seRecip (a : Word) : Word :=
  match fval a with
  | .nan => fp32Nan
  | .inf n => fp32Zero n
  | .fin n m => if m = 0 then fp32Inf n else round32s n (1 / m)

/-- Integer square root by Newton steps, from above. -/
def isqrtStep (n : Nat) : Nat → Nat → Nat
  | 0, x => x
  | f + 1, x => let y := (x + n / x) / 2; if y < x then isqrtStep n f y else x

def isqrt (n : Nat) : Nat := if n = 0 then 0 else isqrtStep n 512 (2 ^ (n.log2 / 2 + 1))

/-- rsqrt: the square root of 1/x to 80 fractional bits beyond its leading bit, and a sticky half unit when it is not
exact, rounded once. -/
def seRsqrt (a : Word) : Word :=
  match fval a with
  | .nan => fp32Nan
  | .inf n => if n then fp32Nan else 0
  | .fin n m =>
    if m = 0 then fp32Inf n
    else if n then fp32Nan
    else
      let k : Nat := 160
      let v := m.den * 2 ^ (2 * k) / m.num.natAbs
      let s := isqrt v
      let exact := s * s * m.num.natAbs = m.den * 2 ^ (2 * k)
      round32 (((2 * s + (if exact then 0 else 1) : Nat) : Rat) * pow2 (-(k : Int) - 1))

/-- Taylor terms of e^y in fixed point of `n` fractional bits, y in the same units. -/
def expTaylor (n : Nat) (y : Int) : Nat → Nat → Int → Int → Int
  | 0, _, _, acc => acc
  | f + 1, i, term, acc =>
    let t := term * y / (2 ^ n : Int) / (i : Int)
    expTaylor n y f (i + 1) t (acc + t)

def squareN (n : Nat) : Nat → Int → Int
  | 0, v => v
  | k + 1, v => squareN n k (v * v / (2 ^ n : Int))

/-- exp: e^(x/128) by its series to 256 fractional bits, squared seven times, rounded once. The error stays below
2^-200 of the value, far below the distance of e^x from any rounding boundary of binary32 (log entry 11). -/
def seExp (a : Word) : Word :=
  match fval a with
  | .nan => fp32Nan
  | .inf n => if n then 0 else fp32Inf false
  | .fin n m =>
    let x := fvRat (.fin n m)
    if x = 0 then 0x3F800000
    else if x > 89 then fp32Inf false
    else if x < -104 then 0
    else
      let y : Int := x.num * (2 ^ 256 : Int) / (128 * (x.den : Int))
      let e := expTaylor 256 y 64 1 (2 ^ 256) (2 ^ 256)
      round32 ((squareN 256 7 e : Int) * pow2 (-256))

end Sys2Proof.Machine
end

