-- ==== Sys2Proof/Machine/Formats.lean ====
section
/-!
DEFINITION. Number formats (R118-R130), slices and block alignment (R81-R93), conversion at egress (R134, R135, R125, R128)
and code-product lookups (R147, R149).
-/

namespace Sys2Proof.Machine

open Sys2Proof

/-! ## Format codes (Table 4-1) -/

def isSint (f : Nat) : Bool := 0x12 ≤ f && f ≤ 0x18
def isUint (f : Nat) : Bool := 0x21 ≤ f && f ≤ 0x28
def isBg (f : Nat) : Bool := f == 0x33 || f == 0x34
def isFloat (f : Nat) : Bool := 0x02 ≤ f && f ≤ 0x05
def isBlock (f : Nat) : Bool := 0x40 ≤ f && f ≤ 0x42

/-- Element width W of an integer or Bell-grid format. -/
def fmtW (f : Nat) : Nat := f % 16

/-- Roles of Table 4-1. -/
def aFmtOk (f : Nat) : Bool := isFloat f || isSint f || isUint f || f == 0x40
def wFmtOk (f : Nat) : Bool := isSint f || f == 0x21 || isBg f
def outFmtOk (f : Nat) : Bool := isFloat f || isSint f || isUint f || isBg f || isBlock f
def fmtKnown (f : Nat) : Bool := f == 0x01 || outFmtOk f

/-- Container width c in bits (R119). -/
def fmtBits (f : Nat) : Nat :=
  if f = 0x01 then 32 else if f = 0x02 || f = 0x03 then 16 else if f = 0x04 || f = 0x05 || isBlock f then 8
  else if isBg f then 4
  else if isSint f || isUint f then
    (if fmtW f = 1 then 1 else if fmtW f = 2 then 2 else if fmtW f ≤ 4 then 4 else 8)
  else 0

/-- Planes P of a weight format, and lanes L of a macro (R81). -/
def planes (f : Nat) : Nat := fmtW f
def lanes (f : Nat) : Nat :=
  match planes f with
  | 1 => 256
  | 2 => 128
  | 3 => 64
  | 4 => 64
  | _ => 32

/-- Formats whose pages may be sparse (R150). -/
def sparseFmt (f : Nat) : Bool := 0x13 ≤ f && f ≤ 0x18

/-- The signed integer in the low w bits. -/
def sintOf (w n : Nat) : Int := signed w n

/-- Integer value q of a container (R119, R121). -/
def intOf (f n : Nat) : Int := if isSint f then sintOf (fmtW f) n else ((n % 2 ^ fmtW f : Nat) : Int)

def decodeE4m3 (n : Nat) : FVal :=
  let neg := bitOf n 7
  let e := bitsOf n 6 3
  let m := n % 8
  if e = 15 ∧ m = 7 then .nan
  else if e = 0 then .fin neg (m * pow2 (-9))
  else .fin neg ((8 + m : Nat) * pow2 ((e : Int) - 10))

/-- Value of a floating-point element (Table 4-2). -/
def floatOf (f n : Nat) : FVal :=
  match f with
  | 0x01 => decodeIeee 8 23 (n % 2 ^ 32)
  | 0x02 => decodeIeee 8 7 (n % 2 ^ 16)
  | 0x03 => decodeIeee 5 10 (n % 2 ^ 16)
  | 0x04 => decodeE4m3 (n % 256)
  | _ => decodeIeee 5 2 (n % 256)

/-! ## Bell-grid codes (R84, R129, R130) -/

def bgCoef (coef b : Nat) : Rat := fvRat (decodeIeee 5 10 (coef / 2 ^ (16 * b) % 65536))

def bgSum (p coef : Nat) : Rat := ((List.range p).map (bgCoef coef)).sum

/-- Value of a Bell-grid code. -/
def bgValue (p coef code : Nat) : Rat :=
  ((List.range p).map (fun b => if bitOf code b then bgCoef coef b else 0)).sum - bgSum p coef / 2

/-- The constraints on coefficients (R129, R130). A BG3 word with nonzero bits 63:48 is taken as a bad one (DEDUCED, log entry 100). -/
def bgOk (f coef : Nat) : Bool :=
  let p := fmtW f
  let c (b : Nat) : Nat := coef / 2 ^ (16 * b) % 65536
  (List.range p).all (fun b => 0 < c b && c b < 0x7C00) && (List.range (p - 1)).all (fun b => c b ≤ c (b + 1)) &&
  (p == 4 || coef / 2 ^ 48 == 0)

/-! ## Slices (R85-R88, R90) -/

/-- Slices of segment position g in SLICE_PLAN; codes 5-7 are refused at admission (Table 3-2). -/
def planCode (plan g : Nat) : Nat := bitsOf plan (3 * g + 2) (3 * g)

def slicesOf (plan g : Nat) : Nat :=
  match planCode plan g with
  | 0 => 2
  | 1 => 4
  | 2 => 8
  | 3 => 12
  | _ => 16

def slicePlanOk (plan : Nat) : Bool := plan < 2 ^ 48 && (List.range 16).all (fun g => planCode plan g ≤ 4)

/-- Slice weight v_j of a segment of s slices (R86). -/
def sliceWeight (unsig : Bool) (s j : Nat) : Int := if !unsig && j + 1 == s then -(2 ^ j : Int) else (2 ^ j : Int)

/-- Saturate an integer activation to an s-bit range (R88); whether it saturated. -/
def saturate (unsig : Bool) (s : Nat) (q : Int) : Int × Bool :=
  let lo : Int := if unsig then 0 else -(2 ^ (s - 1) : Int)
  let hi : Int := if unsig then (2 ^ s : Int) - 1 else (2 ^ (s - 1) : Int) - 1
  if q < lo then (lo, true) else if hi < q then (hi, true) else (q, false)

/-- Bit j of an activation integer as it is fed. -/
def sliceBit (q : Int) (j : Nat) : Bool := (q / (2 ^ j : Int)) % 2 == 1

/-- Clamp to the symmetric s-bit range. -/
def clampSym (s : Nat) (q : Int) : Int := max (-((2 ^ (s - 1) : Int) - 1)) (min ((2 ^ (s - 1) : Int) - 1) q)

/-- Block alignment of one group (R90): the integers, the shift t, and whether the group is non-finite. -/
def alignGroup (s : Nat) (xs : List FVal) : List Int × Int × Bool :=
  if xs.any (fun x => !fvFinite x) then (xs.map (fun _ => 0), 0, true)
  else
    let nz := xs.filter (fun x => fvRat x != 0)
    match nz with
    | [] => (xs.map (fun _ => 0), 0, false)
    | x :: r =>
      let emax := r.foldl (fun m y => max m (ilog2 |fvRat y|)) (ilog2 |fvRat x|)
      let t := emax - ((s : Int) - 2)
      (xs.map (fun y => clampSym s (rne (fvRat y * pow2 (-t)))), t, false)

/-! ## Conversion at egress (R134, R135, R138) -/

/-- Largest finite code of a floating-point format. -/
def floatMax (f : Nat) : Nat :=
  match f with
  | 0x02 => 0x7F7F
  | 0x03 => 0x7BFF
  | 0x04 => 0x7E
  | _ => 0x7B

def floatInf (f : Nat) : Nat :=
  match f with
  | 0x02 => 0x7F80
  | 0x03 => 0x7C00
  | 0x04 => 0x7F
  | _ => 0x7C

def floatNan (f : Nat) : Nat :=
  match f with
  | 0x02 => 0x7FC0
  | 0x03 => 0x7E00
  | 0x04 => 0x7F
  | _ => 0x7E

def floatEb (f : Nat) : Nat := match f with | 0x02 => 8 | 0x03 => 5 | 0x04 => 4 | _ => 5
def floatMb (f : Nat) : Nat := match f with | 0x02 => 7 | 0x03 => 10 | 0x04 => 3 | _ => 2

/-- qmax of an output format (Table 4-7). -/
def qmax (f zp coef : Nat) : Rat :=
  if isSint f then (2 ^ (fmtW f - 1) - 1 : Nat)
  else if isUint f then ((2 ^ fmtW f - 1 - zp : Nat) : Rat)
  else if isBg f then bgSum (fmtW f) coef / 2
  else fvRat (floatOf f (floatMax f))


/-- The code of least |value - r| over the codes given, the lower code number on a tie. -/
def nearestCode (p coef : Nat) (r : Rat) : Nat :=
  ((List.range (2 ^ p)).foldl (fun (best : Nat × Rat) c =>
    let d := |bgValue p coef c - r|
    if d < best.2 then (c, d) else best) (0, |bgValue p coef 0 - r|)).1

/-- The lowest-numbered code of largest (or smallest) value. -/
def endCode (p coef : Nat) (neg : Bool) : Nat :=
  ((List.range (2 ^ p)).foldl (fun (best : Nat × Rat) c =>
    let v := if neg then -bgValue p coef c else bgValue p coef c
    if best.2 < v then (c, v) else best) (0, if neg then -bgValue p coef 0 else bgValue p coef 0)).1

/-- The container of an integer (R119). -/
def intContainer (f : Nat) (q : Int) : Nat := wrapInt (fmtBits f) q

/-- Convert one element y to an element format with the reciprocal scale rho (Table 4-6). -/
def convertElem (f zp coef : Nat) (rho y : Word) : Nat × Bool × Bool :=
  let yv := fval y
  let p := fmtW f
  match yv with
  | .nan =>
    if isSint f then (0, false, true)
    else if isUint f then (zp, false, true)
    else if isBg f then (nearestCode p coef 0, false, true)
    else (floatNan f, false, true)
  | .inf n =>
    let qm : Int := 2 ^ (p - 1) - 1
    if isSint f then (intContainer f (if n then -qm else qm), false, true)
    else if isUint f then ((if n then 0 else 2 ^ p - 1), false, true)
    else if isBg f then (endCode p coef n, false, true)
    else if f = 0x04 then (0x7F, false, true)
    else (floatInf f + (if n then 2 ^ (fmtBits f - 1) else 0), false, true)
  | .fin n m =>
    let big := fval rho == .inf false && m != 0
    let r := fvRat (.fin n m) * fvRat (fval rho)
    if isSint f then
      let qm : Int := 2 ^ (p - 1) - 1
      let q := rne r
      if big then (intContainer f (if n then -qm else qm), true, false)
      else if q < -qm then (intContainer f (-qm), true, false)
      else if qm < q then (intContainer f qm, true, false) else (intContainer f q, false, false)
    else if isUint f then
      let hi : Int := 2 ^ p - 1
      let q := rne r + zp
      if big then ((if n then 0 else 2 ^ p - 1), true, false)
      else if q < 0 then (0, true, false) else if hi < q then (hi.toNat, true, false) else (q.toNat, false, false)
    else if isBg f then
      let qm := bgSum p coef / 2
      if big || qm * (1 + pow2 (-20)) < |r| then (endCode p coef n, true, false)
      else if qm < |r| then (endCode p coef n, false, false) else (nearestCode p coef r, false, false)
    else
      let sgn := if n then 2 ^ (fmtBits f - 1) else 0
      if r = 0 && !big then (sgn, false, false)
      else
        let b := if big then floatMax f + 1 else roundMag (floatEb f) (floatMb f) |r|
        if floatMax f < b then (floatMax f + sgn, true, false) else (b + sgn, false, false)

/-! ## Block formats (R125, R127, R128) -/

/-- Encode 64 elements in BFG8: the mantissa bytes and X. `none` marks a masked or poisoned element. -/
def encodeBfg8 (ys : List (Option Word)) : List Nat × Nat :=
  let xs := ys.map (fun y => match y with | some w => fval w | none => .fin false 0)
  let g := alignGroup 8 xs
  if g.2.2 then (ys.map (fun _ => 0), 0xFF)
  else if xs.all (fun x => fvRat x == 0) then (ys.map (fun _ => 0), 0)
  else
    let t := max g.2.1 (-127)
    (xs.map (fun x => wrapInt 8 (clampSym 8 (rne (fvRat x * pow2 (-t))))), (t + 127).toNat)

/-- The largest E in 0..emax with r × 2^(E+4) < 15.5, or 0. -/
def mcExp (r : Rat) : Nat → Nat
  | 0 => 0
  | e + 1 => if r * pow2 ((e : Int) + 5) < 31 / 2 then e + 1 else mcExp r e

/-- Encode one MC8 or MCU8 code under block exponent X; whether it clipped. -/
def encodeMcCode (mcu : Bool) (x : Nat) (y : Word) : Nat × Bool :=
  let v := fvRat (fval y)
  if mcu && v < 0 then (0, true)
  else
    let r := |v| * pow2 (127 - (x : Int))
    let e := mcExp r (if mcu then 15 else 7)
    let k := rne (r * pow2 ((e : Int) + 4))
    let past := 15 < k
    let k := (min k 15).toNat
    let s := if v < 0 ∧ 0 < k then 1 else 0
    ((if mcu then e * 16 + k else s * 128 + e * 16 + k), past && 1 ≤ r)

/-- Encode 64 elements in MC8 or MCU8: codes, X, clipped count (R128). -/
def encodeMc (mcu : Bool) (ys : List (Option Word)) : List Nat × Nat × Nat :=
  if ys.any (fun y => match y with | some w => !fvFinite (fval w) | none => false) then (ys.map (fun _ => 0), 0xFF, 0)
  else
    let amax := ys.foldl (fun (m : Rat) y => match y with | some w => max m |fvRat (fval w)| | none => m) 0
    if amax = 0 then (ys.map (fun _ => 0), 0, 0)
    else
      let x := (max 1 (min 254 (ilog2 amax + 128))).toNat
      let cs := ys.map (fun y => match y with | some w => encodeMcCode mcu x w | none => (0, false))
      (cs.map (·.1), x, (cs.filter (·.2)).length)

/-- Value of a block-format code under exponent byte X as an FP32 code (R124-R127). -/
def blockElem (f x code : Nat) : Word :=
  if x = 0xFF then fp32Nan
  else if f = 0x40 then round32 ((sintOf 8 code : Rat) * pow2 ((x : Int) - 127))
  else if f = 0x41 then
    round32s (bitOf code 7 && code % 16 != 0) ((code % 16 : Nat) * pow2 (-(bitsOf code 6 4 : Int) - 4 + (x : Int) - 127))
  else round32 ((code % 16 : Nat) * pow2 (-(bitsOf code 7 4 : Int) - 4 + (x : Int) - 127))

/-! ## Code-product tables (R147, R149) -/

/-- Entry e of a table filled from a source format with multiplier mu. With a scale or multiplier that is not finite the product is two
FP32 multiplications, by σ first (DESIGN CHOICE, log entry 101). -/
def tableEntry (f coef : Nat) (sigma mu : Word) (e : Nat) : Word :=
  if f = 0x34 then
    let v := bgValue 4 coef e
    if fvFinite (fval sigma) && fvFinite (fval mu) then round32 (v * fvRat (fval sigma) * fvRat (fval mu))
    else fmul32 (fmul32 (round32 v) sigma) mu
  else if fvFinite (fval mu) then round32 (e * fvRat (fval mu)) else fmul32 (round32 e) mu

/-- Dequantise and multiply a code through a table (R149). -/
def tableLookup (t : List Word) (f code x : Nat) : Word :=
  if f = 0x34 then t.getD (code % 16) 0
  else if x = 0xFF then fp32Nan
  else
    let s := f == 0x41 && bitOf code 7
    let e := if f = 0x41 then bitsOf code 6 4 else bitsOf code 7 4
    let v := t.getD (code % 16) 0
    match fval v with
    | .fin n m =>
      let r := round32s n (m * pow2 ((x : Int) - 127 - (e : Int) - 4))
      if s then fneg32 r else r
    | .inf n => fp32Inf (xor n s)
    | .nan => fp32Nan

end Sys2Proof.Machine
end

