-- ==== Sys2Proof/Machine/Flags.lean ====
section
/-!
DEFINITION. Status codes of completions (Table 16-12), codes and routing of event records (Tables 10-4 and 16-14),
and the fields of the registers that other blocks consult.
-/

namespace Sys2Proof.Machine

open Sys2Proof

/-! ## Sparse tables -/

/-- The value listed at a key. -/
def tget {α : Type} : Tab α → Nat → Option α
  | [], _ => none
  | (j, v) :: r, k => if j = k then some v else tget r k

/-- The value at a key, `d` where none is listed. -/
def tgetD {α : Type} (t : Tab α) (k : Nat) (d : α) : α := (tget t k).getD d

/-- List `v` at key `k`, keeping the keys rising. -/
def tput {α : Type} : Tab α → Nat → α → Tab α
  | [], k, v => [(k, v)]
  | (j, w) :: r, k, v => if k < j then (k, v) :: (j, w) :: r else if k = j then (k, v) :: r else (j, w) :: tput r k v

/-- Remove key `k`. -/
def tdel {α : Type} (t : Tab α) (k : Nat) : Tab α := t.filter (fun p => p.1 != k)

/-- List `v` at key `k`, or remove the key where `v` is what an unlisted key reads as. -/
def tputD {α : Type} [DecidableEq α] (d : α) (t : Tab α) (k : Nat) (v : α) : Tab α :=
  if v = d then tdel t k else tput t k v

/-- Change the value at a key. -/
def tmod {α : Type} (t : Tab α) (k : Nat) (d : α) (f : α → α) : Tab α := tput t k (f (tgetD t k d))

/-- Keep the keys that satisfy `p`. -/
def tkeep {α : Type} (t : Tab α) (p : Nat → Bool) : Tab α := t.filter (fun e => p e.1)

/-- The form of a sparse table: keys strictly rising. -/
abbrev twf {α : Type} (t : Tab α) : Prop := t.Pairwise (fun a b => a.1 < b.1)

/-- The canonical form of a sparse table whose unlisted keys read as `d`: keys strictly rising, no entry equal to `d`. -/
abbrev tcanon {α : Type} (d : α) (t : Tab α) : Prop := twf t ∧ ∀ e ∈ t, e.2 ≠ d

/-! ## Bytes -/

/-- The `k` bytes of a number, least significant first (R13). -/
def leB (n k : Nat) : List Byte := (List.range k).map (fun i => BitVec.ofNat 8 (n >>> (8 * i)))

/-- The number whose bytes these are, least significant first. -/
def ofLE : List Byte → Nat
  | [] => 0
  | b :: r => b.toNat + 256 * ofLE r

/-- The field of `n` bytes at offset `o`. -/
def fieldLE (bs : List Byte) (o n : Nat) : Nat := ofLE ((bs.drop o).take n)

/-- Set bits [hi:lo] of a number. -/
def setBits (n hi lo v : Nat) : Nat :=
  n - (bitsOf n hi lo <<< lo) + ((v % 2 ^ (hi + 1 - lo)) <<< lo)

/-! ## Completion status (Table 16-12) -/

def stOk : Nat := 0x00
def stRefused : Nat := 0x01
def stInvalid : Nat := 0x02
def stDenied : Nat := 0x03
def stAborted : Nat := 0x04
def stGateBusy : Nat := 0x05
def stState : Nat := 0x06

/-- A completion with a status and nothing else. -/
def Compl.mk' (t : Ticket) (status : Nat) : Compl :=
  { ticket := t, status := status, fault := 0, task := 0xFFFF, tick0 := 0, tickEnd := 0, held := 0, poisoned := 0,
    info := 0 }

/-- A refusal with its fault code and the task it names. -/
def Compl.refused (t : Ticket) (fault task : Nat) : Compl :=
  { Compl.mk' t stRefused with fault := fault, task := task }

/-- The 64 bytes of a completion entry (Table 16-11). -/
def complBytes (c : Compl) (phase : Bool) : List Byte :=
  leB c.ticket.cid 2 ++ leB c.ticket.q 1 ++ leB c.status 1 ++ leB c.ticket.sqHead 2 ++ leB (bit01 phase) 1 ++ leB 0 1 ++
  leB c.fault 2 ++ leB c.task 2 ++ leB 0 4 ++ leB (c.tick0 % 2 ^ 48) 8 ++ leB (c.tickEnd % 2 ^ 48) 8 ++ leB c.held 4 ++
  leB c.poisoned 4 ++ leB c.info 8 ++ leB 0 16

/-! ## Event records -/

/-- A record with every field absent (R495): all ones, ADDR 0. -/
def EventRec.mk' (code : Nat) : EventRec :=
  { seq := 0, code := code, full := true, part := none, fn := none, task := none, level := none, seg := none,
    cid := none, time := 0, tick := none, unit := none, info := none, addr := 0 }

/-- The 64 bytes of an event record (Table 16-13). -/
def eventBytes (e : EventRec) (phase : Bool) : List Byte :=
  leB e.seq 4 ++ leB e.code 2 ++ leB (bit01 phase + 2 * bit01 e.full) 1 ++ leB (e.part.getD 0xFF) 1 ++
  leB (e.fn.getD 0xFFFF) 2 ++ leB (e.task.getD 0xFFFF) 2 ++ leB (e.level.getD 0xFF) 1 ++ leB (e.seg.getD 0xFF) 1 ++
  leB (e.cid.getD 0xFFFF) 2 ++ leB e.time 8 ++ leB (e.tick.getD (2 ^ 64 - 1)) 8 ++ leB (e.unit.getD 0xFFFFFFFF) 4 ++
  leB (e.info.getD 0xFFFFFFFF) 4 ++ leB e.addr 8 ++ leB 0 16

/-- Whether Table 10-4 sends a record of this code to the function concerned. -/
def routeFn (code : Nat) : Bool := code < 0x0400 && code != 0x020B

/-- Whether Table 10-4 sends a copy to the physical function. -/
def routePf (code : Nat) : Bool :=
  code == 0x0201 || (0x0202 ≤ code && code ≤ 0x0208) || code == 0x020A || code == 0x020B || code == 0x0303 ||
  code == 0x0304 || 0x0400 ≤ code

/-- Whether Table 10-4 and R448 send a record to the event journal. -/
def routeJr (code : Nat) : Bool := code == 0x020B || 0x0400 ≤ code

end Sys2Proof.Machine
end

