-- ==== Sys2Proof/Machine/Ops.lean ====
section
/-!
DEFINITION. The shared operations: host memory, interrupts, event queues, completion queues, raising an event record,
and the passing of time.
-/

namespace Sys2Proof.Machine

open Sys2Proof

/-! ## Host memory (Host surroundings, log entry 6) -/

/-- A byte of host memory; a byte nothing has written reads 0. -/
def hostByte (m : Tab Byte) (a : Nat) : Byte := tgetD m (a % 2 ^ 64) 0

/-- Write one byte of host memory. -/
def hostPut (m : Tab Byte) (a : Nat) (b : Byte) : Tab Byte := tputD 0 m (a % 2 ^ 64) b

/-- Host memory is in canonical form. -/
abbrev HostIf.wf (h : HostIf) : Prop := tcanon (0 : Byte) h.mem

/-- Read `n` bytes of host memory. -/
def hostRead (m : Tab Byte) (a n : Nat) : List Byte := (List.range n).map (fun i => hostByte m (a + i))

/-- Write bytes of host memory at rising addresses. -/
def hostWrite (m : Tab Byte) (a : Nat) : List Byte → Tab Byte
  | [] => m
  | b :: r => hostWrite (hostPut m a b) (a + 1) r

/-- The 256-byte host blocks that a range of bytes touches. -/
def hostBlocks (a n : Nat) : List Nat :=
  if n = 0 then [] else (List.range ((a + n - 1) / 256 - a / 256 + 1)).map (fun i => a / 256 + i)

/-- The device's own write: the bytes, and the PCIe poisoned mark of the blocks it touches (R284). -/
def HostIf.devWrite (h : HostIf) (a : Nat) (bs : List Byte) : HostIf :=
  { h with mem := hostWrite h.mem a bs,
           memPoison := h.memPoison.filter (fun b => !(hostBlocks a bs.length).contains b) }

/-- Host software's writes to its own memory. -/
def HostIf.hostWrites (h : HostIf) (ws : List HostWrite) : HostIf :=
  ws.foldl (fun h w => h.devWrite w.addr w.bytes) h

/-! ## MSI-X (R308) -/

/-- A vector's table entry; mask bit [96] is 1 at reset (log entry 7). -/
def HostIf.msixEntry (h : HostIf) (fn v : Nat) : BitVec 128 := tgetD h.msixTable (fn * 32 + v) (BitVec.ofNat 128 (2 ^ 96))

/-- Whether a vector is masked. -/
def HostIf.masked (h : HostIf) (fn v : Nat) : Bool := (h.msixEntry fn v).getLsbD 96

/-- Send the message of a vector, or set its pending bit while it is masked. -/
def HostIf.signal (h : HostIf) (fn v : Nat) : HostIf :=
  if h.masked fn v then
    { h with msixPend := tput h.msixPend fn (tgetD h.msixPend fn 0 ||| BitVec.ofNat 32 (2 ^ v)) }
  else { h with out := h.out ++ [.msix fn v] }

/-! ## Completion queues (R305, R308, R494) -/

def qkey (fn q : Nat) : Nat := fn * 8 + q

/-- Unconsumed entries of a completion queue. -/
def QPair.used (p : QPair) : Nat := (p.cqTail + 2 ^ p.cqLog2 - p.cqHead) % 2 ^ p.cqLog2

/-- A completion queue is full at depth - 1 unconsumed entries. -/
def QPair.full (p : QPair) : Bool := p.used == 2 ^ p.cqLog2 - 1

/-- Write one completion entry, and signal when COAL_CNT entries are unsignalled. -/
def HostIf.postOne (h : HostIf) (fn q : Nat) (p : QPair) (c : Compl) : HostIf :=
  let h := h.devWrite (p.cqBase + 64 * p.cqTail) (complBytes c p.cqPhase)
  let t := (p.cqTail + 1) % 2 ^ p.cqLog2
  let p := { p with cqTail := t, cqPhase := if t = 0 then !p.cqPhase else p.cqPhase, unsig := p.unsig + 1 }
  let fire := max 1 p.coalCnt ≤ p.unsig ∨ p.coalUs = 0
  let p := if fire then { p with unsig := 0 } else p
  let h := { h with qps := tput h.qps (qkey fn q) p }
  if fire then h.signal fn p.vec else h

/-- Write the completions that are ready, in order, until the queue is full. -/
def HostIf.postReady (h : HostIf) (fn q : Nat) : List Compl → HostIf
  | [] => h
  | c :: r =>
    match tget h.qps (qkey fn q) with
    | none => h
    | some p =>
      if p.full then { h with qps := tput h.qps (qkey fn q) { p with ready := c :: r } }
      else (h.postOne fn q { p with ready := r } c).postReady fn q r

/-- Remove a pair whose DELETE_QP waits, once every command of the pair has completed (R303). -/
def HostIf.finishDelete (h : HostIf) (fn q : Nat) : HostIf :=
  match tget h.qps (qkey fn q) with
  | none => h
  | some p =>
    match p.deleting with
    | none => h
    | some t =>
      if p.open_ = 0 ∧ p.ready = [] ∧ p.fetched = [] then
        let h := { h with qps := tdel h.qps (qkey fn q) }
        match tget h.qps (qkey t.fn t.q) with
        | none => h
        | some p0 =>
          let h := { h with qps := tput h.qps (qkey t.fn t.q) { p0 with open_ := p0.open_ - 1 } }
          h.postReady t.fn t.q (p0.ready ++ [Compl.mk' t stOk])
      else h

/-- Complete a command: its entry becomes ready, in order of completion (R305). A command whose pair is gone leaves
none (R310). -/
def HostIf.complete (h : HostIf) (c : Compl) : HostIf :=
  match tget h.qps (qkey c.ticket.fn c.ticket.q) with
  | none => h
  | some p =>
    let h := { h with qps := tput h.qps (qkey c.ticket.fn c.ticket.q) { p with open_ := p.open_ - 1 } }
    let h := h.postReady c.ticket.fn c.ticket.q (p.ready ++ [c])
    h.finishDelete c.ticket.fn c.ticket.q

def complete (c : Compl) (s : State) : State := { s with host := s.host.complete c }

def completeSt (t : Ticket) (status : Nat) (s : State) : State := complete (Compl.mk' t status) s

def completeAll (ts : List Ticket) (status : Nat) (s : State) : State :=
  ts.foldl (fun s t => completeSt t status s) s

/-! ## Event queues (R307, R309, R491, R495) -/

def EQueue.used (e : EQueue) : Nat := (e.tail + 2 ^ e.log2 - e.head) % 2 ^ e.log2

/-- Deliver a record to a function's event queue; a full queue discards it (R307). -/
def HostIf.pushEvent (h : HostIf) (fn : Nat) (e : EventRec) : HostIf :=
  match tget h.eqs fn with
  | none => h
  | some q =>
    if q.used = 2 ^ q.log2 - 1 then
      { h with evtDropped := tput h.evtDropped fn (satAdd (2 ^ 32 - 1) (tgetD h.evtDropped fn 0) 1),
               evtOvf := tput h.evtOvf fn true }
    else
      let h := h.devWrite (q.base + 64 * q.tail) (eventBytes { e with seq := q.seq } q.phase)
      let t := (q.tail + 1) % 2 ^ q.log2
      let q := { q with tail := t, phase := if t = 0 then !q.phase else q.phase, seq := (q.seq + 1) % 2 ^ 32,
                        unsig := q.unsig + 1 }
      let fire := max 1 q.coalCnt ≤ q.unsig ∨ q.coalUs = 0
      let q := if fire then { q with unsig := 0 } else q
      let h := { h with eqs := tput h.eqs fn q }
      if fire then h.signal fn q.vec else h

/-- The form a record takes in the queue of a function: the physical function sees it in full (R309). -/
def EventRec.viewOf (e : EventRec) (fn : Nat) : EventRec :=
  if fn = 0 then { e with full := true, fn := e.fn.orElse (fun _ => some 0) } else { e with full := false, fn := some fn }

/-- The physical function's copy of a record of other functions carries the function number; the one copy of a record of several
names the lowest of them (log entry 96). -/
def EventRec.copyFor (e : EventRec) (fns : List Nat) : EventRec :=
  { e with full := true, fn := e.fn.orElse (fun _ => fns.head?) }

/-- Route one record (Table 10-4): to the functions concerned, to the physical function, to the event journal. A
record of the physical function reaches its queue once. -/
def HostIf.route (h : HostIf) (e : EventRec) (fns : List Nat) : HostIf :=
  let h := if routeFn e.code then fns.foldl (fun h f => h.pushEvent f (e.viewOf f)) h else h
  if routePf e.code && !(routeFn e.code && fns.contains 0) then h.pushEvent 0 (e.copyFor fns) else h

/-- Raise an event record for the functions concerned, at the present ST. -/
def raiseFor (e : EventRec) (fns : List Nat) (s : State) : State :=
  let e := { e with time := s.tick.st }
  { s with host := s.host.route e fns,
           jr := if routeJr e.code then { s.jr with waiting := s.jr.waiting ++ [e] } else s.jr }

/-- Raise an event record for the function in its FN field, where it has one. -/
def raise (e : EventRec) (s : State) : State := raiseFor e e.fn.toList s

/-- Raise a record at most once in `gap` time units for one code and unit. -/
def raiseOncePer (gap : Nat) (key : Nat) (e : EventRec) (fns : List Nat) (s : State) : State :=
  if s.jr.raised.any (fun r => r.1 = e.code ∧ r.2.1 = key ∧ s.tick.st < r.2.2 + gap) then s
  else
    let s := raiseFor e fns s
    { s with jr := { s.jr with raised :=
        (e.code, key, s.tick.st) :: s.jr.raised.filter (fun r => !(r.1 = e.code ∧ r.2.1 = key)) } }

/-! ## Time -/

/-- One millisecond in units of 1/16 ns. -/
def msSt : Nat := 16000000

/-- The dies are powered and the system time runs. -/
def Life.diesUp (l : Life) : Bool :=
  match l.state with
  | .off | .aux | .faulted => false
  | _ => true

/-- One unit of time passes (log entry 1). -/
def passTime (s : State) : State :=
  { s with now := s.now + 1,
           tick := if s.life.diesUp then { s.tick with st := (s.tick.st + 1) % 2 ^ 64 } else s.tick }

/-- The system time is at least `t`: an event whose due time is known brings the time to it (log entry 1). -/
def advanceTo (t : Nat) (s : State) : State := { s with tick := { s.tick with st := max s.tick.st t } }

/-- Draw a free value (log entry 2). -/
def freshFree (s : State) : BitVec 64 × State := (Config.freeValue s.free, { s with free := s.free + 1 })

/-- A free value of `n` times 64 bits. -/
def freeBits : Nat → State → Nat × State
  | 0, s => (0, s)
  | n + 1, s =>
    let (v, s) := freshFree s
    let (w, s) := freeBits n s
    (v.toNat + 2 ^ 64 * w, s)

/-- A result of an execution of `n` times 64 bits: undefined once TICK_REFCLK has been removed (R504). -/
def resultBits (n v : Nat) (s : State) : Nat × State := if s.life.timingUndefined then freeBits n s else (v, s)

/-! ## Access to per-unit state -/

def State.core (s : State) (c : Nat) : Core := tgetD s.cores c Core.reset
def State.setCore (s : State) (c : Nat) (v : Core) : State := { s with cores := tput s.cores c v }
def State.part (s : State) (p : Nat) : Part := tgetD s.tick.parts p Part.reset
def State.setPart (s : State) (p : Nat) (v : Part) : State :=
  { s with tick := { s.tick with parts := tput s.tick.parts p v } }
def State.gate (s : State) (g : Nat) : Gate := tgetD s.tick.gates g Gate.reset
def State.setGate (s : State) (g : Nat) (v : Gate) : State :=
  { s with tick := { s.tick with gates := tput s.tick.gates g v } }
def State.link (s : State) (l : Nat) : Link := tgetD s.net.links l Link.reset
def State.setLink (s : State) (l : Nat) (v : Link) : State :=
  { s with net := { s.net with links := tput s.net.links l v } }
def State.pdie (s : State) (d : Nat) : PowerDie := tgetD s.pwr.dies d PowerDie.reset
def State.setPdie (s : State) (d : Nat) (v : PowerDie) : State :=
  { s with pwr := { s.pwr with dies := tput s.pwr.dies d v } }
def State.ppart (s : State) (p : Nat) : PowerPart := tgetD s.pwr.parts p PowerPart.reset
def State.setPpart (s : State) (p : Nat) (v : PowerPart) : State :=
  { s with pwr := { s.pwr with parts := tput s.pwr.parts p v } }

/-- Activity of function f on a die that coefficient `kind` of Table 12-3 weighs (R368): 1 E_CNT, 2 E_RCB, 3 E_GLD, 4 E_ROW, 5 E_SE,
6 E_HBM, 7 E_LNK. Glide fillers are of no function: f = 512. -/
def workKey (kind die f : Nat) : Nat := (kind * 4 + die) * 1024 + f
def noteWork (kind die f n : Nat) (s : State) : State :=
  { s with reg := { s.reg with work := tmod s.reg.work (workKey kind die f) 0 (· + n) } }

/-- The module accepts queue creation, doorbells and executions (R429, R431, R489). -/
def State.serving (s : State) : Bool :=
  match s.life.state with
  | .ready | .running | .parked => true
  | _ => false

/-- R298: function 0 always, virtual function n when VF Enable is set and n ≤ NumVFs. -/
def State.fnExists (s : State) (f : Nat) : Bool := f == 0 || (s.host.vfEn && f ≤ s.host.numVfs && f < 512)

/-- FN_STATUS.ENABLED (R489). -/
def State.fnEnabled (s : State) (f : Nat) : Bool := s.fnExists f && s.serving

end Sys2Proof.Machine
end

