-- ==== Sys2Proof/Machine/Operands.lean ====
section
/-!
DEFINITION. The operand forms of queue commands: the submission entry (Tables 16-9 and 16-10), its reserved bytes, and
the checks every entry meets before its command acts (R492, R493).
-/

namespace Sys2Proof.Machine

open Sys2Proof

/-! ## Opcodes (Table 16-10) -/

def opSubmit : Nat := 0x01
def opFlush : Nat := 0x02
def opGateArm : Nat := 0x03
def opGateArrive : Nat := 0x04
def opGateWait : Nat := 0x05
def opCreateQp : Nat := 0x10
def opDeleteQp : Nat := 0x11
def opCreateEq : Nat := 0x12
def opAlloc : Nat := 0x20
def opFree : Nat := 0x21
def opLoad : Nat := 0x22
def opMap : Nat := 0x30
def opUnmap : Nat := 0x31
def opProtect : Nat := 0x32
def opSyncIn : Nat := 0x33
def opSyncOut : Nat := 0x34
def opGateOwn : Nat := 0x35
def opFnReset : Nat := 0x40
def opCoreReset : Nat := 0x41
def opClusterReset : Nat := 0x42
def opPartitionReset : Nat := 0x43
def opPartitionPark : Nat := 0x44
def opPartitionResume : Nat := 0x45

/-- `w` bits at byte offset `o`. -/
def maskAt (o w : Nat) : Nat := (2 ^ w - 1) <<< (8 * o)

def maskOf (l : List (Nat × Nat)) : Nat := l.foldl (fun m p => m ||| maskAt p.1 p.2) 0

/-- The named operand fields of an opcode as (byte offset, bits); `none` for an opcode the table does not name. -/
def operandFields (op : Nat) : Option (List (Nat × Nat)) :=
  match op with
  | 0x01 => some [(0x01, 1), (0x08, 64), (0x10, 64), (0x18, 8), (0x1C, 224)]
  | 0x02 => some [(0x08, 64)]
  | 0x03 => some [(0x08, 14), (0x0C, 32)]
  | 0x04 => some [(0x08, 14), (0x0C, 32)]
  | 0x05 => some [(0x08, 14)]
  | 0x10 => some [(0x08, 48), (0x10, 64), (0x18, 64)]
  | 0x11 => some [(0x08, 8)]
  | 0x12 => some [(0x09, 32), (0x10, 64)]
  | 0x20 => some [(0x08, 16), (0x0C, 21), (0x10, 32), (0x18, 64)]
  | 0x21 => some [(0x0C, 21), (0x10, 32)]
  | 0x22 => some [(0x0C, 21), (0x18, 64)]
  | 0x30 => some [(0x04, 9), (0x08, 16), (0x10, 64), (0x18, 32), (0x20, 64), (0x28, 64)]
  | 0x31 => some [(0x04, 9), (0x08, 8), (0x10, 64), (0x18, 32)]
  | 0x32 => some [(0x04, 9), (0x08, 8), (0x10, 64), (0x18, 32), (0x20, 64)]
  | 0x33 => some [(0x04, 9), (0x08, 8), (0x10, 64), (0x18, 32)]
  | 0x34 => some [(0x04, 9), (0x08, 8), (0x10, 64), (0x18, 32)]
  | 0x35 => some [(0x04, 9), (0x08, 14)]
  | 0x40 => some [(0x04, 9)]
  | 0x41 => some [(0x08, 16)]
  | 0x42 => some [(0x08, 16)]
  | 0x43 => some [(0x08, 16)]
  | 0x44 => some [(0x08, 16)]
  | 0x45 => some [(0x08, 16)]
  | _ => none

/-- The bits of a 64-byte entry that its opcode names: OPCODE, CID and the operands. -/
def namedMask (op : Nat) : Nat :=
  maskOf ([(0x00, 8), (0x02, 16)] ++ (operandFields op).getD [])

/-- Commands that only the physical function may issue. -/
def pfOnly (op : Nat) : Bool := (0x30 ≤ op && op ≤ 0x35) || (0x40 ≤ op && op ≤ 0x45)

/-- Commands accepted on pair 0 only. -/
def pair0Only (op : Nat) : Bool := op == 0x10 || op == 0x11 || op == 0x12

/-- A submission entry as a number; field of `n` bytes at offset `o`. -/
def entF (e o n : Nat) : Nat := (e >>> (8 * o)) % 2 ^ (8 * n)

def entOp (e : Nat) : Nat := entF e 0 1
def entCid (e : Nat) : Nat := entF e 2 2
def entFn (e : Nat) : Nat := entF e 4 2 % 512

/-- The status with which an entry is turned away before its command acts: a reserved field (R492) before the queue
and issuer restrictions (R493). -/
def entryCheck (fn q e : Nat) : Option Nat :=
  let op := entOp e
  if e ||| namedMask op ≠ namedMask op then some stInvalid
  else if pair0Only op && q ≠ 0 then some stInvalid
  else if pfOnly op && fn ≠ 0 then some stDenied
  else none

/-- The entry that pair q of function fn executes next, with the command it is. -/
def frontEntry (fn q : Nat) (s : State) : Option (Nat × Ticket) :=
  match tget s.host.qps (qkey fn q) with
  | none => none
  | some p =>
    match p.fetched with
    | [] => none
    | f :: _ => some (ofLE f.bytes, { fn := fn, q := q, cid := entCid (ofLE f.bytes), sqHead := f.sqHead })

/-- Take the front entry off the pair. -/
def popEntry (fn q : Nat) (s : State) : State :=
  match tget s.host.qps (qkey fn q) with
  | none => s
  | some p => { s with host := { s.host with qps := tput s.host.qps (qkey fn q) { p with fetched := p.fetched.tail } } }

/-- Run the front entry of the pair as the command of opcode `op`: where the front entry is another command, or there
is none, nothing happens; an entry that a check turns away completes with that status. -/
def onEntry (op fn q : Nat) (act : Nat → Ticket → State → State) (s : State) : State :=
  match frontEntry fn q s with
  | none => s
  | some (e, t) =>
    if entOp e ≠ op then s
    else
      match entryCheck fn q e with
      | some st => completeSt t st (popEntry fn q s)
      | none => act e t (popEntry fn q s)

/-! ## Object-dictionary values that other blocks consult -/

def odKey (index sub : Nat) : Nat := index * 256 + sub

/-- The value of an RW entry as a number, `d` where nothing has been written. -/
def odNat (s : State) (index sub d : Nat) : Nat :=
  match tget s.od.vals (odKey index sub) with
  | none => d
  | some b => ofLE b

/-- R317. -/
def qpairsMax (s : State) (fn : Nat) : Nat := odNat s (0x5000 + fn) 0x02 8
def planQuota (s : State) (fn : Nat) : Nat := odNat s (0x5000 + fn) 0x07 8
def waitTimeout (s : State) (fn : Nat) : Nat := odNat s (0x5000 + fn) 0x09 1000

end Sys2Proof.Machine
end

