-- ==== Sys2Proof/Machine/Checks.lean ====
section
/-!
DEFINITION. The check codes the manual names: CRC-32C (R282, R444, R464), CRC-32 of IEEE 802.3 (R325), and SHA-256 with
HMAC (R474).
-/

namespace Sys2Proof.Machine

open Sys2Proof

/-! ## Cyclic redundancy codes -/

/-- One bit of a reflected CRC with the reversed polynomial `poly`. -/
def crcBit (poly c : Nat) : Nat := if c % 2 = 1 then (c >>> 1) ^^^ poly else c >>> 1

/-- One byte of a reflected CRC. -/
def crcByte (poly c b : Nat) : Nat :=
  crcBit poly (crcBit poly (crcBit poly (crcBit poly (crcBit poly (crcBit poly (crcBit poly (crcBit poly (c ^^^ b))))))))

def crcReg (poly : Nat) : Nat → List Byte → Nat
  | c, [] => c
  | c, b :: r => crcReg poly (crcByte poly c b.toNat) r

/-- CRC-32C in the form iSCSI uses: reflected, initial value and final exclusive-or all ones (log entry 9). -/
def crc32c (bs : List Byte) : Word := BitVec.ofNat 32 (crcReg 0x82F63B78 0xFFFFFFFF bs ^^^ 0xFFFFFFFF)

/-- CRC-32 of IEEE 802.3. -/
def crc32 (bs : List Byte) : Word := BitVec.ofNat 32 (crcReg 0xEDB88320 0xFFFFFFFF bs ^^^ 0xFFFFFFFF)

/-! ## SHA-256 and HMAC (RFC 2104): the manual names both and takes them as they stand (R474) -/

/-- Binary digits of the k-th root of n, from the digit below 2^b down; `a` holds those found so far. -/
def rootDigits (k n : Nat) : Nat → Nat → Nat
  | 0, a => a
  | b + 1, a => rootDigits k n b (if (a + 2 ^ b) ^ k ≤ n then a + 2 ^ b else a)

/-- The first 32 bits after the binary point of the k-th root of p. -/
def rootFraction (k p : Nat) : Word := BitVec.ofNat 32 (rootDigits k (p * 2 ^ (32 * k)) 40 0)

/-- The primes below 312: 64 of them. -/
def smallPrimes : List Nat := (List.range 312).filter (fun p => 2 ≤ p && (List.range 18).all (fun d => d < 2 || p ≤ d || p % d != 0))

/-- Exclusive-or of a word turned right by each of some distances. -/
def turned (x : Word) (by_ : List Nat) : Word := by_.foldl (fun a n => a ^^^ x.rotateRight n) 0

/-- The message expandBlock: each further word from the 16 before it, the latest first. -/
def expandBlock (last : List Word) : Nat → List Word
  | 0 => last
  | n + 1 =>
    let w := expandBlock last n
    let back (i : Nat) : Word := w.getD (i - 1) 0
    (back 16 + (turned (back 15) [7, 18] ^^^ back 15 >>> 3) + back 7 + (turned (back 2) [17, 19] ^^^ back 2 >>> 10)) :: w

/-- One round on the eight working words. -/
def mixWord (v : List Word) (k : Word) : List Word :=
  let x (i : Nat) : Word := v.getD i 0
  let pick := x 6 ^^^ (x 4 &&& (x 5 ^^^ x 6))
  let most := (x 0 &&& x 1) ||| (x 2 &&& (x 0 ||| x 1))
  let t := x 7 + turned (x 4) [6, 11, 25] + pick + k
  [t + turned (x 0) [2, 13, 22] + most] ++ v.take 3 ++ [x 3 + t] ++ (v.drop 4).take 3

/-- The digest words after one 64-byte block. -/
def digestBlock (h : List Word) (blk : List Byte) : List Word :=
  let first := (List.range 16).map (fun i => BitVec.ofNat 32 (ofLE ((blk.drop (4 * i)).take 4).reverse))
  let ks := List.zipWith (· + ·) (smallPrimes.map (rootFraction 3)) (expandBlock first.reverse 48).reverse
  List.zipWith (· + ·) h (ks.foldl mixWord h)

/-- The digest words after n blocks. -/
def digestBlocks (bs : List Byte) : Nat → List Word
  | 0 => (smallPrimes.take 8).map (rootFraction 2)
  | n + 1 => digestBlock (digestBlocks bs n) ((bs.drop (64 * n)).take 64)

/-- SHA-256 as 32 bytes: the message, a 1 bit, zeros, and its length in bits in the last 8 bytes of a block. -/
def sha256 (bs : List Byte) : List Byte :=
  let n := bs.length
  let m := bs ++ 0x80 :: List.replicate ((119 - n % 64) % 64) 0 ++ (leB (8 * n) 8).reverse
  (digestBlocks m (m.length / 64)).flatMap (fun w => (leB w.toNat 4).reverse)

/-- HMAC-SHA-256. -/
def hmacSha256 (key msg : List Byte) : List Byte :=
  let k0 := if key.length > 64 then sha256 key else key
  let k := k0 ++ List.replicate (64 - k0.length) 0
  sha256 (k.map (· ^^^ 0x5C) ++ sha256 (k.map (· ^^^ 0x36) ++ msg))

end Sys2Proof.Machine
end

