-- ==== Sys2Proof/Machine/Memory.lean ====
section
/-!
DEFINITION. Data blocks, device virtual addresses and their translation, and reading and writing one block (R270-R284).
-/

namespace Sys2Proof.Machine

open Sys2Proof

/-! ## Partitions, functions, allotments (R30, R299, R302) -/

def dieOfCore (c : Nat) : Nat := c / 512
def clusterOfCore (c : Nat) : Nat := c / 16

/-- PART_CL_LO and PART_CL_HI: whether partition p holds logical cluster c. -/
def State.partHas (s : State) (p c : Nat) : Bool :=
  if c < 64 then (tgetD s.reg.partClLo p 0).getLsbD c else (tgetD s.reg.partClHi p 0).getLsbD (c - 64)

def State.partOfCluster (s : State) (c : Nat) : Option Nat := (List.range 16).find? (fun p => s.partHas p c)

def State.partClusters (s : State) (p : Nat) : List Nat := (List.range 128).filter (fun c => s.partHas p c)

def State.partCores (s : State) (p : Nat) : List Nat :=
  (s.partClusters p).flatMap (fun c => (List.range 16).map (fun k => 16 * c + k))

def pkey (f p : Nat) : Nat := f * 16 + p

/-- FN_PART_CFG as the host last wrote it, and as it is in effect (R301). -/
def State.fnPart (s : State) (f p : Nat) : Nat := (tgetD s.reg.fnPartCfg (pkey f p) 0).toNat
def State.fnPartEff (s : State) (f p : Nat) : Nat := (tgetD s.reg.fnPartEff (pkey f p) 0).toNat

def shareOf (v : Nat) : Nat := bitsOf v 8 0
def tilesOf (v : Nat) : Nat := bitsOf v 15 12
def accmOf (v : Nat) : Nat := bitsOf v 19 16

/-- The functions with a nonzero SHARE on a partition, ascending. -/
def State.partFns (s : State) (p : Nat) : List Nat :=
  (s.reg.fnPartEff.filter (fun e => e.1 % 16 = p ∧ shareOf e.2.toNat ≠ 0)).map (fun e => e.1 / 16)

/-- The partitions of a function (R299). -/
def State.fnParts (s : State) (f : Nat) : List Nat := (List.range 16).filter (fun p => shareOf (s.fnPartEff f p) ≠ 0)

/-- The core is in a partition of the function. -/
def State.fnHasCore (s : State) (f c : Nat) : Bool :=
  c < 2048 && (s.fnParts f).any (fun p => s.partHas p (clusterOfCore c))

def fmFnCfgReset : Word := 0x04000000
def State.fmCfg (s : State) (f : Nat) : Nat := (tgetD s.reg.fmFnCfg f fmFnCfgReset).toNat
def framesOf (v : Nat) : Nat := bitsOf v 6 0
def as16kOf (v : Nat) : Nat := bitsOf v 17 12
def cm128kOf (v : Nat) : Nat := bitsOf v 23 18
def pageSlotsOf (v : Nat) : Nat := bitsOf v 27 24

def mmuFnCfgReset : Word := 0x00000800
def State.mmuCfg (s : State) (f : Nat) : Nat := (tgetD s.reg.mmuFnCfg f mmuFnCfgReset).toNat

/-- The sum of a quota over the lower-numbered functions of a partition (R302). -/
def State.lowerSum (s : State) (p f : Nat) (q : Nat → Nat) : Nat :=
  ((s.partFns p).filter (· < f)).foldl (fun a g => a + q g) 0

/-- First physical AS line of function f on a core, and the first CM line in a cluster (R302). -/
def State.asBase (s : State) (p f : Nat) : Nat := s.lowerSum p f (fun g => 64 * as16kOf (s.fmCfg g))
def State.cmBase (s : State) (p f : Nat) : Nat := s.lowerSum p f (fun g => 512 * cm128kOf (s.fmCfg g))
/-- First physical accumulator tile and ACCM row of function f (R302). -/
def State.tileBase (s : State) (p f : Nat) : Nat := s.lowerSum p f (fun g => tilesOf (s.fnPartEff g p))
def State.accmBase (s : State) (p f : Nat) : Nat := s.lowerSum p f (fun g => 64 * accmOf (s.fnPartEff g p))

def asKey (core line : Nat) : Nat := core * 2 ^ 11 + line
def cmKey (cluster line : Nat) : Nat := cluster * 2 ^ 14 + line

/-! ## Blocks (R282) -/

def byteOf (d : BlockData) (i : Nat) : Byte := (d >>> (8 * i)).truncate 8
def blockBytes (d : BlockData) : List Byte := (List.range 256).map (byteOf d)
def blockOfBytes (bs : List Byte) : BlockData := BitVec.ofNat 2048 (ofLE (bs.take 256))

/-- A block of data with a fresh check word over its logical form (R283). -/
def Block.ofData (d : BlockData) : Block :=
  { data := d, check := crc32c (blockBytes d), comp := false, compMap := 0, poison := false, cz := false, blk := false,
    exps := [0, 0, 0, 0] }

def Block.zero : Block := Block.ofData 0

/-- A clean-zero block (R280). -/
def Block.clean : Block := { Block.zero with cz := true }

/-- Zeros, poisoned: what a read that is not performed delivers. -/
def Block.zeroPoison : Block := { Block.zero with poison := true }

/-- The metadata of a block as 16 bytes (Table 9-4). -/
def Block.meta (b : Block) : BitVec 128 :=
  let map := if b.blk then bitsOf b.compMap.toNat 7 0 + ofLE b.exps * 2 ^ 32 else b.compMap.toNat
  BitVec.ofNat 128 (b.check.toNat + map * 2 ^ 32 +
    (bit01 b.poison + 2 * bit01 b.comp + 4 * bit01 b.cz + 8 * bit01 b.blk) * 2 ^ 96)

/-- A block from stored data and metadata. -/
def Block.ofMeta (d : BlockData) (m : BitVec 128) : Block :=
  let n := m.toNat
  let blk := bitOf n 99
  { data := if bitOf n 98 then 0 else d, check := BitVec.ofNat 32 n, comp := bitOf n 97,
    compMap := BitVec.ofNat 64 (if blk then bitsOf n 39 32 else bitsOf n 95 32), poison := bitOf n 96, cz := bitOf n 98,
    blk := blk, exps := if blk then leB (bitsOf n 95 64) 4 else [0, 0, 0, 0] }

/-- What HBM holds at a block: what nothing has written since power-up is free (R280, log entry 10). -/
def State.hbmBlk (s : State) (k : Nat) : Block :=
  match tget s.mem.hbm k with
  | some b => b
  | none => Block.ofMeta (Config.hbmPowerUp k) (Config.hbmPowerUpMeta k)

/-- Names of the places that carry ECC: HBM block 4 k, AS line 4 k + 1, CM line 4 k + 2. -/
def eccKey (kind k : Nat) : Nat := 4 * k + kind

/-- A write of a place leaves no uncorrectable word there. -/
def Mem.eccWrite (m : Mem) (kind k : Nat) : List Nat := m.eccBad.filter (· != eccKey kind k)

/-- A block as HBM keeps it: clean-zero where it is compressed, nothing of it is stored, and it is neither poisoned nor of a block
format (Table 5-6). -/
def Block.inHbm (b : Block) : Block := { b with cz := b.comp && b.compMap == 0 && !b.poison && !b.blk }

def State.setHbm (s : State) (k : Nat) (b : Block) : State :=
  { s with mem := { s.mem with hbm := tput s.mem.hbm k b.inHbm, eccBad := s.mem.eccWrite 0 k } }

/-- Replace the entries of a range of keys. -/
def tfill {α : Type} (t : Tab α) (lo n : Nat) (v : Nat → α) : Tab α :=
  t.filter (fun e => e.1 < lo) ++ (List.range n).map (fun i => (lo + i, v i)) ++ t.filter (fun e => lo + n ≤ e.1)

/-- Remove the entries of a range of keys. -/
def tclear {α : Type} (t : Tab α) (lo n : Nat) : Tab α := t.filter (fun e => e.1 < lo || lo + n ≤ e.1)

def State.cmBlk (s : State) (cluster line : Nat) : Block := tgetD s.mem.cm (cmKey cluster line) Block.zero

def State.setCm (s : State) (cluster line : Nat) (b : Block) : State :=
  { s with mem := { s.mem with cm := tputD Block.zero s.mem.cm (cmKey cluster line) { b with cz := false },
                               eccBad := s.mem.eccWrite 2 (cmKey cluster line) } }

/-- A write of an AS line sets its valid bit (R281). -/
def State.setAs (s : State) (core line : Nat) (b : Block) : State :=
  { s with mem := { s.mem with as := tput s.mem.as (asKey core line) { b with cz := false },
                               eccBad := s.mem.eccWrite 1 (asKey core line) } }

/-- The module's memories are in canonical form: HBM, AS and Descriptor Cache lines by rising key; CM, the page
directory and the leaf tables by rising key with no entry equal to what an unlisted key reads as. -/
abbrev Mem.wf (m : Mem) : Prop :=
  twf m.hbm ∧ twf m.as ∧ twf m.lines ∧ tcanon Block.zero m.cm ∧ tcanon 0 m.dir ∧ tcanon 0 m.leaf

/-- Every memory, the host's and the module's, is in canonical form. -/
abbrev State.memWf (s : State) : Prop := s.host.wf ∧ s.mem.wf

/-! ## Memory faults (R285, R297) -/

/-- Add to a saturating field [hi:lo] of MMU_FN_STAT. -/
def satField (v : Dword) (hi lo n : Nat) : Dword :=
  BitVec.ofNat 64 (setBits v.toNat hi lo (satAdd (2 ^ (hi + 1 - lo) - 1) (bitsOf v.toNat hi lo) n))

def addMmuStat (f hi lo n : Nat) (s : State) : State :=
  { s with reg := { s.reg with mmuFnStat := tput s.reg.mmuFnStat f (satField (tgetD s.reg.mmuFnStat f 0) hi lo n) } }

/-- Raise a 0x03xx record: at most once per function per millisecond per die. -/
def raiseMem (code f die : Nat) (core : Option Nat) (info : Option Nat) (dva : Nat) (s : State) : State :=
  raiseOncePer msSt (f * 4 + die) { EventRec.mk' code with fn := some f, unit := core, info := info, addr := dva } [f] s

/-! ## Windows and page tables (R270-R275) -/

def wkey (f w : Nat) : Nat := f * 16 + w
def State.winCfg (s : State) (f w : Nat) : Nat := (tgetD s.reg.mmuWin (wkey f w) 0).toNat
def winEn (v : Nat) : Bool := bitOf v 63
def winExch (v : Nat) : Bool := bitOf v 51
def winHostOk (v : Nat) : Bool := bitOf v 50
def winRo (v : Nat) : Bool := bitOf v 49
def winPart (v : Nat) : Nat := bitsOf v 48 45
def winSize2M (v : Nat) : Nat := bitsOf v 44 27
def winBase2M (v : Nat) : Nat := bitsOf v 26 0

/-- A window translates while it is enabled, and until a pending disable takes effect (R272). -/
def State.winLive (s : State) (f w : Nat) : Bool := winEn (s.winCfg f w) || s.reg.winPend.contains (wkey f w)

/-- The window that holds a DVA. -/
def State.winOf (s : State) (f dva : Nat) : Option Nat :=
  (List.range 16).find? (fun w => s.winLive f w && winBase2M (s.winCfg f w) ≤ dva / 2 ^ 21 &&
    dva / 2 ^ 21 < winBase2M (s.winCfg f w) + winSize2M (s.winCfg f w))

/-- The exchange window of a function for a partition. -/
def State.exchWin (s : State) (f p : Nat) : Option Nat :=
  (List.range 16).find? (fun w => s.winLive f w && winExch (s.winCfg f w) && winPart (s.winCfg f w) == p)

def dirKey (f w i : Nat) : Nat := (f * 16 + w) * 2 ^ 18 + i
/-- Entry i of the leaf table under a directory entry. -/
def leafKey (dk i : Nat) : Nat := dk * 32 + i

def pteV (e : Nat) : Bool := bitOf e 0
def pteTbl (e : Nat) : Bool := bitOf e 1
def pteW (e : Nat) : Bool := bitOf e 2
def pteHost (e : Nat) : Bool := bitOf e 3
def pteHcache (e : Nat) : Bool := bitOf e 4
def pteZero (e : Nat) : Bool := bitOf e 5
def ptePresent (e : Nat) : Bool := bitOf e 6
def pteDirty (e : Nat) : Bool := bitOf e 7
def ptePfn (e : Nat) : Nat := bitsOf e 38 16
/-- The host bus address in the second 8 bytes of a leaf entry. -/
def pteHostBa (e : Nat) : Nat := bitsOf e 127 80 * 2 ^ 16

def State.pte (s : State) (r : PteRef) : Nat :=
  if r.leaf then (tgetD s.mem.leaf r.key 0).toNat else (tgetD s.mem.dir r.key 0).toNat

def State.setPte (s : State) (r : PteRef) (v : Nat) : State :=
  if r.leaf then { s with mem := { s.mem with leaf := tputD 0 s.mem.leaf r.key (BitVec.ofNat 128 v) } }
  else { s with mem := { s.mem with dir := tputD 0 s.mem.dir r.key (BitVec.ofNat 64 v) } }

/-- Translate a DVA of window w (R275). -/
def State.walk (s : State) (f w dva : Nat) : Loc :=
  let cfg := s.winCfg f w
  let o := dva - winBase2M cfg * 2 ^ 21
  let dk := dirKey f w (o / 2 ^ 21)
  let d := (tgetD s.mem.dir dk 0).toNat
  if !pteV d then .bad
  else if !pteTbl d then
    .hbm { leaf := false, key := dk } d (ptePfn d * 2 ^ 16 + o % 2 ^ 21) w (!winRo cfg && pteW d)
  else
    let lk := leafKey dk (o % 2 ^ 21 / 2 ^ 16)
    let p := (tgetD s.mem.leaf lk 0).toNat
    let wr := !winRo cfg && pteW d && pteW p
    if !pteV p then .bad
    else if pteHost p && !pteHcache p then .host (pteHostBa p + o % 2 ^ 16) w wr
    else .hbm { leaf := true, key := lk } p (ptePfn p * 2 ^ 16 + o % 2 ^ 16) w wr

def State.moduleNo (s : State) : Nat :=
  32 * odNat s 0x4000 0x02 0 + s.life.slotId

/-- The members of a partition across modules, in the order of the member list; a local partition has this module
alone (object 0x4010 + p, R360). -/
def State.partMembers (s : State) (p : Nat) : List Nat :=
  match tget s.od.vals (odKey (0x4010 + p) 0x03) with
  | none => [s.moduleNo]
  | some [] => [s.moduleNo]
  | some bs => (List.range (bs.length / 2)).map (fun i => ofLE ((bs.drop (2 * i)).take 2))

/-- An offset in the exchange window of a function for a partition on this module. -/
def State.exchLoc (s : State) (f p off : Nat) : Loc :=
  match s.exchWin f p with
  | none => .bad
  | some w =>
    if off < winSize2M (s.winCfg f w) * 2 ^ 21 then s.walk f w (winBase2M (s.winCfg f w) * 2 ^ 21 + off) else .bad

/-- Where a DVA of function f leads, for a task on partition p (R270). -/
def State.locate (s : State) (f p dva : Nat) : Loc :=
  let off := dva % 2 ^ 44
  match dva / 2 ^ 44 with
  | 8 =>
    let core := off / 2 ^ 20
    let x := off % 2 ^ 20
    match s.partOfCluster (clusterOfCore core) with
    | none => .bad
    | some q =>
      if s.fnHasCore f core && x < 16384 * as16kOf (s.fmCfg f) then .as core (s.asBase q f + x / 256) else .bad
  | 9 =>
    let cl := off / 2 ^ 23
    let x := off % 2 ^ 23
    match s.partOfCluster cl with
    | none => .bad
    | some q =>
      if cl < 128 && (s.fnParts f).contains q && x < 131072 * cm128kOf (s.fmCfg f) then .cm cl (s.cmBase q f + x / 256)
      else .bad
  | 10 =>
    let m := off / 2 ^ 32
    if m = s.moduleNo then s.exchLoc f p (off % 2 ^ 32)
    else if (s.partMembers p).contains m then .peer m (off % 2 ^ 32) else .bad
  | 11 =>
    let ms := s.partMembers p
    if ms.length = 0 then .bad
    else
      let u := off / 2 ^ 21
      let m := ms.getD (u % ms.length) 0
      let x := u / ms.length * 2 ^ 21 + off % 2 ^ 21
      if m = s.moduleNo then s.exchLoc f p x else if x < 2 ^ 32 then .peer m x else .bad
  | n =>
    if n < 8 then
      match s.winOf f dva with
      | none => .bad
      | some w => s.walk f w dva
    else .bad

/-- Whether a write to the place is permitted (R275). -/
def Loc.writable : Loc → Bool
  | .hbm _ _ _ _ w => w
  | .host _ _ w => w
  | .bad => false
  | _ => true

def Loc.die : Loc → Nat
  | .hbm _ _ hpa _ _ => hpa / 2 ^ 37
  | .as core _ => dieOfCore core
  | .cm cl _ => cl / 32
  | _ => 0

/-! ## Host-backed pages (R278) -/

/-- Whether host memory answers a read of 512 bytes with a poisoned completion. -/
def State.hostPoisoned (s : State) (a : Nat) : Bool :=
  s.host.memPoison.contains (a / 256) || s.host.memPoison.contains (a / 256 + 1)

/-- Read the 64 KiB page from host memory into its HBM copy; reads in `failed` (0-127), and reads that meet the
poisoned mark, give poisoned blocks and 0x0303. -/
def fillPage (f dva : Nat) (r : PteRef) (failed : List Nat) (s : State) : State :=
  let e := s.pte r
  let ba := pteHostBa e
  let bad := (List.range 128).filter (fun i => failed.contains i || s.hostPoisoned (ba + 512 * i))
  let blk (i : Nat) : Block :=
    { Block.ofData (blockOfBytes (hostRead s.host.mem (ba + 256 * i) 256)) with poison := bad.contains (i / 2) }
  let s := { s with mem := { s.mem with hbm := tfill s.mem.hbm (ptePfn e * 256) 256 blk } }
  let s := s.setPte r (e ||| 0x40)
  let s := addMmuStat f 31 16 1 s
  if bad = [] then s else raiseMem 0x0303 f (ptePfn e / 2 ^ 21) none (s.winOf f dva) dva s

def pageOf (dva : Nat) : Nat := dva / 65536

/-- A task of a core has waited for a host page: its core's excess counts as BUDGET (R263, R279). -/
def noteHostWait (core : Option Nat) (s : State) : State :=
  match core with
  | none => s
  | some c => s.setCore c { s.core c with budget := true }

/-- Bring a host-backed cached page in before an access (R278): the access waits for its fill, one in flight included, which
changes nothing but time (R279). -/
def ensurePresent (f dva : Nat) (core : Option Nat) (l : Loc) (s : State) : State :=
  match l with
  | .hbm r pte _ _ _ =>
    if pteHost pte && !ptePresent (s.pte r) then
      let here (x : Fill) : Bool := x.fn == f && pageOf x.dva == pageOf dva
      let wrote := s.mem.fills.any (fun x => here x && x.wrote)
      let s := noteHostWait core (fillPage f dva r [] { s with mem := { s.mem with fills := s.mem.fills.filter (fun x => !here x) } })
      if wrote then s.setPte r (s.pte r ||| 0x80) else s
    else s
  | _ => s

/-! ## Reading and writing a block -/

/-- Verify a block's check word where it is handed over: by the receiving block, of die `die` (R283, R284). -/
def verifyBlk (f die : Nat) (core : Option Nat) (dva : Nat) (b : Block) (s : State) : Block × State :=
  if crc32c (blockBytes b.data) = b.check then (b, s)
  else ({ b with poison := true }, raiseMem 0x0302 f die core (s.winOf f dva) dva (addMmuStat f 47 32 1 s))

/-- A block that HBM, the AS or the CM delivers: poisoned with 0x0304 where its ECC reports an uncorrectable error, then verified
(R284). -/
def deliver (f die key : Nat) (core : Option Nat) (dva : Nat) (b : Block) (s : State) : Block × State :=
  if s.mem.eccBad.contains key then
    verifyBlk f die core dva { b with poison := true } (raiseMem 0x0304 f die core (s.winOf f dva) dva s)
  else verifyBlk f die core dva b s

/-- The out-of-window access (R275): zeros, poisoned, and 0x0301. -/
def outOfWindow (f : Nat) (core : Option Nat) (dva : Nat) (s : State) : State :=
  raiseMem 0x0301 f ((core.getD 0) / 512) core (s.winOf f dva) dva s

/-- Read the data block that holds a DVA of function f, for a task on partition p (R275, R278-R284). -/
def readBlk (f p : Nat) (core : Option Nat) (dva : Nat) (s : State) : Block × State :=
  match s.locate f p dva with
  | .bad => (Block.zeroPoison, outOfWindow f core dva s)
  | .peer _ _ => (Block.zeroPoison, outOfWindow f core dva s)
  | .host a _ _ =>
    let a := a - a % 256
    let b := Block.ofData (blockOfBytes (hostRead s.host.mem a 256))
    if s.host.memPoison.contains (a / 256) then
      ({ b with poison := true }, raiseMem 0x0303 f ((core.getD 0) / 512) core (s.winOf f dva) dva s)
    else (b, s)
  | .as c line =>
    match tget s.mem.as (asKey c line) with
    | some b => deliver f ((core.map dieOfCore).getD (dieOfCore c)) (eccKey 1 (asKey c line)) core dva b s
    | none =>
      let s := addMmuStat f 63 48 1 s
      if bitOf (s.mmuCfg f) 0 then (Block.zeroPoison, raiseMem 0x0306 f (dieOfCore c) core (s.winOf f dva) dva s) else (Block.zero, s)
  | .cm cl line => deliver f ((core.map dieOfCore).getD (cl / 32)) (eccKey 2 (cmKey cl line)) core dva (s.cmBlk cl line) s
  | .hbm r pte hpa _ _ =>
    if pteZero pte then (Block.clean, s)
    else
      let s := ensurePresent f dva core (.hbm r pte hpa 0 false) s
      let b := s.hbmBlk (hpa / 256)
      if b.cz then (Block.clean, s)
      else
        let d := (core.map dieOfCore).getD (hpa / 2 ^ 37)
        deliver f d (eccKey 0 (hpa / 256)) core dva b (noteWork 6 d f 256 s)

/-- Write one data block to host memory; a poisoned block carries the PCIe mark (R284). -/
def HostIf.blkWrite (h : HostIf) (a : Nat) (b : Block) : HostIf :=
  let h := h.devWrite a (blockBytes b.data)
  if b.poison then { h with memPoison := a / 256 :: h.memPoison } else h

/-- The first write to a clean-zero page initialises its metadata and clears ZERO (R280). -/
def openZeroPage (r : PteRef) (s : State) : State :=
  let e := s.pte r
  if pteZero e then
    let n := if r.leaf then 256 else 8192
    ({ s with mem := { s.mem with hbm := tfill s.mem.hbm (ptePfn e * 256) n (fun _ => Block.clean) } }).setPte r
      (setBits e 5 5 0)
  else s

/-- Write the data block that holds a DVA (R275, R278, R280, R281); the receiving block, or the PCIe endpoint before it sends,
verifies it (Table 9-5). A refused write is discarded with 0x0301. -/
def writeBlk (f p : Nat) (core : Option Nat) (dva : Nat) (b : Block) (s : State) : State :=
  let l := s.locate f p dva
  if !l.writable then outOfWindow f core dva s
  else
    let (b, s) := verifyBlk f l.die core dva b s
    match l with
    | .bad => s
    | .peer _ _ => outOfWindow f core dva s
    | .host a _ _ =>
      { s with host := s.host.blkWrite (a - a % 256) b }
    | .as c line => s.setAs c line b
    | .cm cl line => s.setCm cl line b
    | .hbm r pte hpa w wr =>
      let s := ensurePresent f dva core (.hbm r pte hpa w wr) s
      let s := openZeroPage r s
      let s := if pteHost pte then s.setPte r (s.pte r ||| 0x80) else s
      (noteWork 6 ((core.map dieOfCore).getD (hpa / 2 ^ 37)) f 256 s).setHbm (hpa / 256) b

/-- Read `n` bytes at a DVA, with the poison of any block they touch. -/
def readBytes (f p : Nat) (core : Option Nat) (dva n : Nat) (s : State) : List Byte × Bool × State :=
  let first := dva / 256
  let blks := if n = 0 then 0 else (dva + n - 1) / 256 - first + 1
  let r := (List.range blks).foldl (fun (acc : List Byte × Bool × State) i =>
    let (b, s) := readBlk f p core ((first + i) * 256) acc.2.2
    (acc.1 ++ blockBytes b.data, acc.2.1 || b.poison, s)) (([] : List Byte), false, s)
  ((r.1.drop (dva % 256)).take n, r.2.1, r.2.2)

/-- Whether every byte of a range reads within the function's windows: every page of it, and its last byte. -/
def State.rangeOk (s : State) (f p dva n : Nat) (wr : Bool) : Bool :=
  let first := dva / 65536
  let pages := if n = 0 then 0 else (dva + n - 1) / 65536 - first + 1
  (List.range (if n = 0 then 0 else pages + 1)).all (fun i =>
    let a := if i = 0 then dva else if i = pages then dva + n - 1 else (first + i) * 65536
    let l := s.locate f p a
    l != .bad && (!wr || l.writable))

/-- Replace bytes inside a block and make its check word anew; the block is then stored in full (R180). -/
def Block.patch (b : Block) (off : Nat) (bs : List Byte) : Block :=
  let old := blockBytes b.data
  let d := blockOfBytes (old.take off ++ bs ++ old.drop (off + bs.length))
  { b with data := d, check := crc32c (blockBytes d), comp := false, compMap := 0, cz := false }

/-- Write bytes that lie in one block (a read, a merge and a write of the block). -/
def writeBytesIn (f p : Nat) (core : Option Nat) (dva : Nat) (bs : List Byte) (s : State) : State :=
  let (b, s) := readBlk f p core dva s
  writeBlk f p core dva (b.patch (dva % 256) bs) s

end Sys2Proof.Machine
end

