-- ==== Sys2Proof/Machine/Macro.lean ====
section
/-!
DEFINITION. The gain-cell macro: rows, the column remap table, sensing, the ramp-bin mapping, the live check of a count
(chapter 2), and the Position Store with its run-length codes (R153-R157).
-/

namespace Sys2Proof.Machine

open Sys2Proof

/-! ## Logical and physical units (R27, R397, R411) -/

/-- Physical cluster, core and macro behind a logical unit; every map starts as the identity. -/
def State.physCluster (s : State) (cl : Nat) : Nat := cl / 32 * 34 + tgetD s.mnt.clusterMap cl (cl % 32)
def State.physCore (s : State) (c : Nat) : Nat := s.physCluster (clusterOfCore c) * 17 + tgetD s.mnt.coreMap c (c % 16)
def State.physMac (s : State) (c m : Nat) : Nat :=
  let pc := s.physCore c
  pc * 66 + tgetD s.mnt.macroMap (pc * 64 + m) m

/-- A macro whose contents change before its evacuation has swapped: the copy starts again (R406). -/
def restartEvac (pm : Nat) (s : State) : State :=
  { s with mnt := { s.mnt with
      copied := tdel s.mnt.copied pm,
      pend := s.mnt.pend.filter (fun x => match x.change with
        | .evacSwap c m _ => s.physMac c m != pm
        | _ => true) } }

/-- An evacuation swap of a logical macro is pending. -/
def State.evacPending (s : State) (c m : Nat) : Bool :=
  s.mnt.pend.any (fun x => match x.change with
    | .evacSwap c' m' _ => c' == c && m' == m
    | _ => false)

/-- The maintenance fence of a physical macro (R396): an activity that uses the macro itself is granted in an open window. -/
def State.fenced (s : State) (pm : Nat) : Bool :=
  s.mnt.windows.any (fun w => w.reqs.any (fun r => r.mac == pm && match r.act with
    | .rep | .cal | .rfc | .scr => true
    | _ => false))

/-- Module-wide logical macro number (R27). -/
def macNo (c m : Nat) : Nat := 64 * c + m

def dieOfPhysMac (pm : Nat) : Nat := pm / (66 * 17 * 34)

/-- Bytes of a physical macro in the factory array calibration: object 0x2010 + 34 d + cluster, subindex core + 1, 848 bytes a macro
(R391, Table 13-1). -/
def factoryCal (pm : Nat) : List Byte :=
  ((Config.factoryObject (0x2010 + pm / (66 * 17)) (pm / 66 % 17 + 1)).drop (848 * (pm % 66))).take 848

/-- Factory staircase V_0-V_8 of a segment of a physical macro, in 0.25 mV. -/
def factoryStair (pm g : Nat) : List Nat := (List.range 9).map (fun l => fieldLE (factoryCal pm) (560 + 18 * g + 2 * l) 2)

/-- Factory gain and offset codes of a physical column of a physical macro: every section of the column starts at them. -/
def factoryCode (pm col : Nat) : Nat × Nat :=
  let v := fieldLE (factoryCal pm) (2 * col) 2
  (bitsOf v 11 6, bitsOf v 5 0)

/-- A macro as manufactured: no rows written, identity remap, the factory staircase and codes (R391). -/
def Mac.fresh (pm : Nat) : Mac :=
  { rows := [], pos := [], posOne := [], posTwo := [], poisonRow := [], suspect := [], age := [], refreshAt := 0,
    remap := List.replicate 16 0, flagged := [], guardN := List.replicate 16 0, guardHits := List.replicate 16 0,
    retryN := List.replicate 16 0, retryHits := List.replicate 16 0,
    stair := (List.range 16).map (fun g => factoryStair pm g), codes := [], recalAt := 0, recalTj := 0,
    guardDelta := 0, rampTrim := [], ctr := [], rowCtr := [] }

def State.macAt (s : State) (pm : Nat) : Mac := (tget s.fm.macs pm).getD (Mac.fresh pm)
def State.setMac (s : State) (pm : Nat) (v : Mac) : State := { s with fm := { s.fm with macs := tput s.fm.macs pm v } }

/-! ## Rows (R43-R49) -/

/-- Reference bit k of segment-row r (Table 2-5). -/
def refBit (k r : Nat) : Bool :=
  match k with
  | 0 => true
  | 1 => false
  | 2 => !bitOf r 0
  | 3 => bitOf r 0
  | 4 => !bitOf r 1
  | 5 => bitOf r 1
  | 6 => !bitOf r 2
  | _ => bitOf r 2

def refBits (r : Nat) : Nat := ((List.range 8).map (fun k => bit01 (refBit k r) * 2 ^ k)).sum

/-- The physical row of a data row with its columns in place: unused spare columns 0, reference bits of Table 2-5. -/
def rowWithRefs (r data : Nat) : RowBits := BitVec.ofNat 280 (data % 2 ^ 272 + refBits (r % 64) * 2 ^ 272)

/-- A row; one that nothing has written since the macro was taken into use holds zeros (log entry 12). -/
def rowOf (m : Mac) (r : Nat) : RowBits := tgetD m.rows r (rowWithRefs r 0)

/-- The physical column of a logical data column (R45, Table 13-6). -/
def physCol (m : Mac) (c : Nat) : Nat :=
  match (List.range 16).find? (fun i => (m.remap.getD i 0).getLsbD 15 && (m.remap.getD i 0).toNat % 256 == c &&
    i / 4 == c / 64) with
  | some i => 256 + i
  | none => c

/-- The logical column that a physical column serves. -/
def logCol (m : Mac) (pc : Nat) : Option Nat :=
  if pc < 256 then (if physCol m pc = pc then some pc else none)
  else if pc < 272 then
    let e := m.remap.getD (pc - 256) 0
    if e.getLsbD 15 then some (e.toNat % 256) else none
  else none

/-- Whether a macro uses its remap table. -/
def remapped (m : Mac) : Bool := m.remap.any (fun e => e.getLsbD 15)

/-- The 256 logical data bits of a row. -/
def dataOf (m : Mac) (r : Nat) : Nat :=
  let row := (rowOf m r).toNat
  if remapped m then ((List.range 256).map (fun c => bit01 (bitOf row (physCol m c)) * 2 ^ c)).sum else row % 2 ^ 256

/-- Place 256 logical data bits in the columns of a row (R49). -/
def placeRow (m : Mac) (data : Nat) : Nat :=
  if remapped m then ((List.range 256).map (fun c => bit01 (bitOf data c) * 2 ^ physCol m c)).sum else data % 2 ^ 256

/-- A full row write: all 280 bits; it resets the row's age (R49, R184). -/
def writeRow (m : Mac) (now r data : Nat) : Mac :=
  { m with rows := tputD (rowWithRefs r 0) m.rows r (rowWithRefs r (placeRow m data)), age := tput m.age r now,
           poisonRow := m.poisonRow.filter (· != r) }

/-- Set one physical column of a row. -/
def setCell (row : RowBits) (c : Nat) (v : Bool) : RowBits :=
  if v then row ||| BitVec.ofNat 280 (2 ^ c) else row &&& ~~~(BitVec.ofNat 280 (2 ^ c))

/-- The row as the comparators sense it: cells in `flips` sense the other bit. -/
def senseRow (m : Mac) (flips : List CellFlip) (r : Nat) : RowBits :=
  (flips.filter (fun f => f.row = r)).foldl (fun row f => setCell row f.col (!row.getLsbD f.col)) (rowOf m r)

/-- A refresh of one row: the sensed bits are written back, the reference columns from Table 2-5; whether a reference
bit was sensed wrong (R76, Table 2-9). -/
def refreshRow (m : Mac) (now : Nat) (flips : List CellFlip) (r : Nat) : Mac × Bool :=
  let row := (senseRow m flips r).toNat
  let bad := row / 2 ^ 272 != refBits (r % 64)
  ({ m with rows := tputD (rowWithRefs r 0) m.rows r (rowWithRefs r row), age := tput m.age r now }, bad)

/-- Zero a macro for a frame (R289): every row written with zero data, every position code 0xF. -/
def zeroMac (m : Mac) (now : Nat) : Mac :=
  { m with rows := [], pos := [], posOne := [], posTwo := [], poisonRow := [], suspect := [],
           age := (List.range 1024).map (fun r => (r, now)) }

/-! ## The ramp-bin mapping (Table 2-4) -/

/-- Level and class of a flip bin: `none` for a range error, else the level and whether the class is GUARD. -/
def binLevel : Option Nat → Option (Nat × Bool)
  | none => none
  | some f =>
    if f = 0 then none
    else if f ≤ 27 then some (8 - (f - 1) / 3, (f - 1) % 3 != 1)
    else if f ≤ 31 then some (0, true)
    else none

/-- The CENTRE bin of a level. -/
def centreBin (n : Nat) : Nat := 3 * (8 - n) + 2

/-- V_L of a segment, in 0.25 mV. -/
def Mac.volt (m : Mac) (seg l : Nat) : Int := ((m.stair.getD seg []).getD l 0 : Nat)

/-- Where Table 13-2 places the threshold of bin b of a segment, in 0.25 mV (R392). -/
def Mac.placed (m : Mac) (seg b : Nat) : Int :=
  let v := m.volt seg
  let g := 14 + m.guardDelta
  let l := 8 - (b - 1) / 3
  if b = 0 then v 8 + 68
  else if 27 ≤ b then v 0 - 56
  else match (b - 1) % 3 with
    | 0 => v l + g
    | 1 => v l - g
    | _ => (v (l - 1) + v l) / 2

/-- The threshold of bin b: the place of Table 13-2 plus the bin's trim code (R392). -/
def Mac.threshold (m : Mac) (seg b : Nat) : Int := m.placed seg b + (tgetD m.rampTrim (32 * seg + b) 0).toInt

/-- The bin in which a section at a voltage flips: the first whose threshold lies below it, `none` where none does by the end of
bin 31 (R513, Table 2-1). -/
def Mac.flipBin (m : Mac) (seg : Nat) (uv : Int) : Option Nat := (List.range 32).find? (fun b => decide (250 * m.threshold seg b < uv))

/-- What a section reports at a voltage (R513, R514). -/
def Mac.levelAt (m : Mac) (seg : Nat) (uv : Int) : Option (Nat × Bool) := binLevel (m.flipBin seg uv)

/-- The class at a voltage is GUARD. -/
def Mac.guardAt (m : Mac) (seg : Nat) (uv : Int) : Bool := (m.levelAt seg uv).any (·.2)

/-- What a section reports that received n packets: the CENTRE bin of level n, unless it deviates (R513, R514). -/
def sectionLevel (m : Mac) (dev : List Deviation) (seg col n : Nat) : Option (Nat × Bool) :=
  match dev.find? (fun d => d.seg = seg ∧ d.col = col) with
  | some d => m.levelAt seg d.uv
  | none => binLevel (some (centreBin n))

/-- A physical column is in use: it serves a logical column, or holds reference bits (R45, R56). -/
def colInUse (m : Mac) (pc : Nat) : Bool := (272 ≤ pc && decide (pc < 280)) || (logCol m pc).isSome

/-! ## One count -/

/-- Packets that reach a physical column of a segment from the rows raised there (R58). -/
def packets (m : Mac) (seg col : Nat) (rows : List Nat) : Nat :=
  (rows.filter (fun r => (rowOf m (64 * seg + r)).getLsbD col)).length

/-- The reference columns report their expected levels, and no section in use is out of range (R67, R68). -/
def segPasses (m : Mac) (dev : List Deviation) (seg : Nat) (rows : List Nat) : Bool :=
  (List.range 8).all (fun k =>
    match sectionLevel m dev seg (272 + k) (packets m seg (272 + k) rows) with
    | some (l, _) => l == (rows.filter (refBit k)).length
    | none => false) &&
  dev.all (fun d => d.seg != seg || (m.levelAt seg d.uv).isSome || !colInUse m d.col)

/-- Reference decisions of class GUARD in a segment. -/
def refGuards (m : Mac) (dev : List Deviation) (seg : Nat) : Nat :=
  (dev.filter (fun d => d.seg == seg && 272 ≤ d.col && d.col < 280 && m.guardAt seg d.uv)).length

/-- Data decisions of class GUARD: those of the physical columns that serve a logical column (R45, R72). -/
def dataGuards (m : Mac) (dev : List Deviation) : Nat :=
  (dev.filter (fun d => d.seg < 16 && (logCol m d.col).isSome && m.guardAt d.seg d.uv)).length

/-- The level a logical data column reports; a range error reports none and adds nothing (R56, R57). -/
def dataLevel (m : Mac) (dev : List Deviation) (seg c : Nat) (rows : List Nat) : Nat :=
  let pc := physCol m c
  match sectionLevel m dev seg pc (packets m seg pc rows) with
  | some (l, _) => l
  | none => 0

/-! ## The Position Store (R153-R157) -/

/-- Codes of a slot; a slot nothing has written holds 0xF throughout. -/
def posSlot (m : Mac) (g n : Nat) : Nat := (tgetD m.pos (64 * g + n) (BitVec.allOnes 256)).toNat

def codeAt (slot j : Nat) : Nat := slot / 16 ^ j % 16

/-- Decode a slot (R154): the positions, or `none` where the slot is malformed. -/
def decodeSlot (slot ext : Nat) : Nat → Nat → List Nat → Option (List Nat)
  | 0, _, pos => some pos
  | f + 1, p, pos =>
    let j := 63 - f
    if 63 < p then some pos
    else
      let c := codeAt slot j
      if c = 15 then decodeSlot slot ext f (p + 15) pos
      else
        let q := p + c
        if 63 < q ∨ pos.length = ext then none else decodeSlot slot ext f (q + 1) (pos ++ [q])

def decodePos (slot ext : Nat) : Option (List Nat) := decodeSlot slot ext 64 0 []

/-- Codes of a list of positions before padding (R153). -/
def encodeCodes (prev : Int) : List Nat → List Nat
  | [] => []
  | p :: r =>
    let run := ((p : Int) - prev - 1).toNat
    List.replicate (run / 15) 15 ++ [run % 15] ++ encodeCodes p r

/-- A slot of 64 codes from codes: the rest 0xF. -/
def slotOfCodes (cs : List Nat) : Nat :=
  (List.range 64).foldr (fun j a => cs.getD j 15 + 16 * a) 0

/-- The words of a slot in a list of Position Store words. -/
def slotWords (l : List Nat) (g n : Nat) : List Nat := l.filter (fun w => w / 4 == 64 * g + n)

def encodePos (pos : List Nat) : Nat := slotOfCodes (encodeCodes (-1) pos)

end Sys2Proof.Machine
end

