-- ==== Sys2Proof/Machine/Mmu.lean ====
section
/-!
DEFINITION. Windows, page-table commands, host fills and the cluster directory (R271-R280, R294-R296): the meanings of
MMU_WIN_CFG_WRITE, MAP, UNMAP, PROTECT, SYNC_IN, SYNC_OUT, HOST_FILL, HOST_FILL_COMPLETE, RD, OWN and WB.
-/

namespace Sys2Proof.Machine

open Sys2Proof

/-! ## Executions of a function -/

/-- An execution of the function is in progress on the module. -/
def State.fnRunning (s : State) (f : Nat) : Bool :=
  s.adm.execs.any (fun e => e.ticket.fn == f && e.phase == .running)

/-- An execution of the function is in progress on a partition. -/
def State.fnRunningOn (s : State) (f p : Nat) : Bool :=
  s.adm.execs.any (fun e => e.ticket.fn == f && e.phase == .running && e.plan.key.part == p)

/-- Some execution of a partition is in progress. -/
def State.partRunning (s : State) (p : Nat) : Bool :=
  s.adm.execs.any (fun e => e.phase == .running && e.plan.key.part == p)

/-! ## Page ranges -/

/-- The window of a command when it can be named: enabled. -/
def State.cmdWin (s : State) (f w : Nat) : Bool := w < 16 && winEn (s.winCfg f w)

/-- First 64 KiB page of a DVA within window w, `none` where the range of `n` pages of 64 KiB leaves the window or is
not aligned. -/
def State.pageIn (s : State) (f w dva n : Nat) : Option Nat :=
  let base := winBase2M (s.winCfg f w) * 2 ^ 21
  let size := winSize2M (s.winCfg f w) * 2 ^ 21
  if s.cmdWin f w && dva % 65536 == 0 && base ≤ dva && dva + n * 65536 ≤ base + size then some ((dva - base) / 65536)
  else none

/-- The valid pages of window w that lie whole in the 64 KiB pages [lo, hi): the entry and its first page. -/
def State.pagesIn (s : State) (f w lo hi : Nat) : List (PteRef × Nat) :=
  (s.mem.dir.filter (fun e => e.1 / 2 ^ 18 = f * 16 + w ∧ lo / 32 ≤ e.1 % 2 ^ 18 ∧ e.1 % 2 ^ 18 * 32 < hi ∧
      pteV e.2.toNat)).flatMap (fun e =>
    let i := e.1 % 2 ^ 18
    if pteTbl e.2.toNat then
      ((List.range 32).filter (fun j => lo ≤ 32 * i + j ∧ 32 * i + j < hi ∧
        pteV (tgetD s.mem.leaf (leafKey e.1 j) 0).toNat)).map
        (fun j => ({ leaf := true, key := leafKey e.1 j }, 32 * i + j))
    else if lo ≤ 32 * i ∧ 32 * i + 32 ≤ hi then [({ leaf := false, key := e.1 }, 32 * i)] else [])

/-- A range covers part of a 2 MiB page, but not all of it (R276). -/
def State.partial2M (s : State) (f w lo hi : Nat) : Bool :=
  s.mem.dir.any (fun e => e.1 / 2 ^ 18 == f * 16 + w && pteV e.2.toNat && !pteTbl e.2.toNat &&
    (let i := 32 * (e.1 % 2 ^ 18)
     i < hi && lo < i + 32 && !(lo ≤ i && i + 32 ≤ hi)))

/-! ## Write-back and the effects of UNMAP, PROTECT, SYNC_IN, SYNC_OUT (R276) -/

/-- The function whose table holds an entry. -/
def PteRef.fn (r : PteRef) : Nat := (if r.leaf then r.key / 32 else r.key) / 2 ^ 22

/-- The block that a page's write-back sends: verified by the PCIe endpoint before its expansion is sent (Table 9-5). -/
def egressBlk (f k dva : Nat) (s : State) : Block × State :=
  let b := s.hbmBlk k
  if b.cz then (Block.zero, s) else deliver f 0 (eccKey 0 k) none dva b s

/-- Write a DIRTY host-backed page back to host memory and clear DIRTY; poisoned blocks carry the PCIe mark (R284). -/
def writeBack (r : PteRef) (s : State) : State :=
  let e := s.pte r
  if pteHost e && pteDirty e then
    let ba := pteHostBa e
    let s := (List.range 256).foldl (fun (s : State) i =>
      let (b, s) := egressBlk r.fn (ptePfn e * 256 + i) 0 s
      { s with host := s.host.blkWrite (ba + 256 * i) b }) s
    s.setPte r (setBits e 7 7 0)
  else s

/-- Clear an entry; when every entry of a leaf table is invalid, clear the directory entry and release the table. -/
def clearPte (f w page : Nat) (r : PteRef) (s : State) : State :=
  let s := s.setPte r 0
  if r.leaf && (List.range 32).all (fun j => !pteV (tgetD s.mem.leaf (leafKey (r.key / 32) j) 0).toNat) then
    s.setPte { leaf := false, key := dirKey f w (page / 32) } 0
  else s

/-- One page under a change of translation. -/
def mmuOpPage (op : MmuOp) (f w : Nat) (s : State) (rp : PteRef × Nat) : State :=
  let s := match op with
    | .protect _ => s
    | _ => writeBack rp.1 s
  match op with
  | .unmap => clearPte f w rp.2 rp.1 s
  | .disable _ => clearPte f w rp.2 rp.1 s
  | .protect wr => s.setPte rp.1 (setBits (s.pte rp.1) 2 2 (bit01 wr))
  | .syncIn => if pteHost (s.pte rp.1) then s.setPte rp.1 (setBits (s.pte rp.1) 6 6 0) else s

/-- A change of translation takes effect over the pages [lo, lo + n) of window w. -/
def applyMmuOp (op : MmuOp) (f w lo n : Nat) (s : State) : State :=
  let s := (s.pagesIn f w lo (lo + n)).foldl (mmuOpPage op f w) s
  match op with
  | .disable win => { s with reg := { s.reg with winPend := s.reg.winPend.filter (· != wkey f win) } }
  | _ => s

/-- The pending changes of a function take effect, in order, and their commands complete (R277). -/
def applyMmuPend (f : Nat) (s : State) : State :=
  let mine := s.mem.pend.filter (fun m => m.fn = f)
  let s := { s with mem := { s.mem with pend := s.mem.pend.filter (fun m => m.fn ≠ f) } }
  mine.foldl (fun s m =>
    let w := m.dva / 2 ^ 32
    let s := applyMmuOp m.op f w (m.dva % 2 ^ 32) m.pages s
    match m.ticket with
    | none => s
    | some t => completeSt t stOk s) s

/-- UNMAP, PROTECT, SYNC_IN or a disable: at once where no execution of the function is in progress, else at the first
boundary with none (R277, R519). The page number is held with its window. -/
def deferMmu (op : MmuOp) (f w lo n : Nat) (t : Option Ticket) (s : State) : State :=
  let m : MmuPend := { fn := f, op := op, dva := w * 2 ^ 32 + lo, pages := n, ticket := t }
  let s := { s with mem := { s.mem with pend := s.mem.pend ++ [m] } }
  if s.fnRunning f then s else applyMmuPend f s

/-! ## MAP (R276) -/

/-- The bytes of HBM that the valid pages of every window occupy: first and last block. -/
def State.mappedHpa (s : State) : List (Nat × Nat) :=
  (s.mem.dir.filter (fun e => pteV e.2.toNat ∧ !pteTbl e.2.toNat)).map (fun e => (ptePfn e.2.toNat, 32)) ++
  (s.mem.leaf.filter (fun e => pteV e.2.toNat ∧ !(pteHost e.2.toNat && !pteHcache e.2.toNat))).map
    (fun e => (ptePfn e.2.toNat, 1))

/-- A range of 64 KiB frames lies in windowable data (R273). -/
def hpaWindowable (pfn n : Nat) : Bool :=
  pfn + n ≤ 2 ^ 23 && pfn / 2 ^ 20 == (pfn + n - 1) / 2 ^ 20 && pfn % 2 ^ 20 + n ≤ 45 * 2 ^ 14

/-- Map one 64 KiB page; the first of a 2 MiB range makes a leaf table with every entry invalid. -/
def mapLeaf (f w page e ba : Nat) (s : State) : State :=
  let dk := dirKey f w (page / 32)
  let d := (tgetD s.mem.dir dk 0).toNat
  let s := if pteV d then s
    else { s with mem := { s.mem with dir := tput s.mem.dir dk (BitVec.ofNat 64 7), leaf := tclear s.mem.leaf (leafKey dk 0) 32 } }
  s.setPte { leaf := true, key := leafKey dk (page % 32) } (e + (if pteHost e then ba * 2 ^ 64 else 0))

def mapPages (f w psize e ba : Nat) : Nat → Nat → State → State
  | 0, _, s => s
  | n + 1, page, s =>
    if psize = 1 then
      mapPages f w psize (e + 2 ^ 21) ba n (page + 32)
        (s.setPte { leaf := false, key := dirKey f w (page / 32) } e)
    else mapPages f w psize (e + 2 ^ 16) (ba + 2 ^ 16) n (page + 1) (mapLeaf f w page e ba s)

/-- A page of the range is valid already. -/
def State.mapBusy (s : State) (f w lo hi psize : Nat) : Bool :=
  s.mem.dir.any (fun e => e.1 / 2 ^ 18 == f * 16 + w && pteV e.2.toNat && e.1 % 2 ^ 18 * 32 < hi &&
    lo < e.1 % 2 ^ 18 * 32 + 32 && (psize == 1 || !pteTbl e.2.toNat ||
      (List.range 32).any (fun j => decide (lo ≤ e.1 % 2 ^ 18 * 32 + j ∧ e.1 % 2 ^ 18 * 32 + j < hi) &&
        pteV (tgetD s.mem.leaf (leafKey e.1 j) 0).toNat)))

def mapEffect (e : Nat) (t : Ticket) (s : State) : State :=
  let f := entFn e
  let w := entF e 0x08 1
  let psize := entF e 0x09 1
  let pages := entF e 0x18 4
  let img := entF e 0x20 8
  let ba := entF e 0x28 8
  let n := if psize = 1 then 32 * pages else pages
  let pfn := ptePfn img
  if !s.fnExists f then completeSt t stInvalid s
  else if pages = 0 then completeSt t stOk s
  else
    match s.pageIn f w (entF e 0x10 8) n with
    | none => completeSt t stInvalid s
    | some lo =>
      let cached := !(pteHost img) || pteHcache img
      let bad := psize > 1 || !pteV img || pteTbl img || bitsOf img 63 39 != 0 || bitsOf img 15 8 != 0 ||
        (pteHost img && (!winHostOk (s.winCfg f w) || psize == 1 || ba % 65536 != 0)) ||
        (psize == 1 && (lo % 32 != 0 || pfn % 32 != 0)) ||
        (cached && (!hpaWindowable pfn n || s.mappedHpa.any (fun r => pfn < r.1 + r.2 && r.1 < pfn + n))) ||
        s.mapBusy f w lo (lo + n) psize
      if bad then completeSt t stInvalid s
      else
        let ent := setBits (setBits img 6 6 0) 7 7 0
        completeSt t stOk (mapPages f w psize ent ba pages lo s)

/-- MAP (R276, R277): takes effect when it is received. -/
def execMap (fn q : Nat) (s : State) : Host.Outcome State Fault Refusal :=
  .next (onEntry opMap fn q mapEffect s)

/-- The common form of UNMAP, PROTECT, SYNC_IN and SYNC_OUT. -/
def rangeCmd (act : Nat → Nat → Nat → Nat → Ticket → State → State) (e : Nat) (t : Ticket) (s : State) : State :=
  let f := entFn e
  let w := entF e 0x08 1
  let n := entF e 0x18 4
  if !s.fnExists f then completeSt t stInvalid s
  else if n = 0 then completeSt t stOk s
  else
    match s.pageIn f w (entF e 0x10 8) n with
    | none => completeSt t stInvalid s
    | some lo => if s.partial2M f w lo (lo + n) then completeSt t stInvalid s else act f w lo n t s

/-- UNMAP (R276, R277). -/
def execUnmap (fn q : Nat) (s : State) : Host.Outcome State Fault Refusal :=
  .next (onEntry opUnmap fn q (rangeCmd (fun f w lo n t => deferMmu .unmap f w lo n (some t))) s)

/-- PROTECT (R276, R277): ENTRY bit [2] is the new W. -/
def execProtect (fn q : Nat) (s : State) : Host.Outcome State Fault Refusal :=
  .next (onEntry opProtect fn q (fun e => rangeCmd
    (fun f w lo n t => deferMmu (.protect (pteW (entF e 0x20 8))) f w lo n (some t)) e) s)

/-- SYNC_IN (R276, R277). -/
def execSyncIn (fn q : Nat) (s : State) : Host.Outcome State Fault Refusal :=
  .next (onEntry opSyncIn fn q (rangeCmd (fun f w lo n t => deferMmu .syncIn f w lo n (some t))) s)

/-- SYNC_OUT (R276, R277): takes effect when it is received. -/
def execSyncOut (fn q : Nat) (s : State) : Host.Outcome State Fault Refusal :=
  .next (onEntry opSyncOut fn q (rangeCmd (fun f w lo n t s =>
    completeSt t stOk ((s.pagesIn f w lo (lo + n)).foldl (fun s rp => writeBack rp.1 s) s))) s)

/-! ## MMU_WIN_CFG (R271, R272) -/

/-- MMU_WIN_CFG without its reserved bits. -/
def winMask (v : Nat) : Nat := setBits (v % 2 ^ 64) 62 52 0

/-- The cases in which a write of MMU_WIN_CFG is refused. -/
def winRefused (s : State) (f w v : Nat) : Bool :=
  let old := s.winCfg f w
  let en := winEn v
  (en && (winSize2M v == 0 || winSize2M v > 184320 || bitOf v 26 || winBase2M v + winSize2M v > 2 ^ 26)) ||
  (en && s.reg.winPend.contains (wkey f w)) ||
  (en && (List.range 16).any (fun x => x != w && s.winLive f x &&
    winBase2M v < winBase2M (s.winCfg f x) + winSize2M (s.winCfg f x) &&
    winBase2M (s.winCfg f x) < winBase2M v + winSize2M v)) ||
  (s.winLive f w && (winBase2M v != winBase2M old || winSize2M v != winSize2M old)) ||
  (winExch v && (List.range 16).any (fun x => x != w && s.winLive f x && winExch (s.winCfg f x) &&
    winPart (s.winCfg f x) == winPart v)) ||
  (en && winExch v && winSize2M v > 2048)

def setWinCfg (f w v : Nat) (s : State) : State :=
  { s with reg := { s.reg with mmuWin := tput s.reg.mmuWin (wkey f w) (BitVec.ofNat 64 v) } }

/-- Set MMU_FN_CFG.CFG_REJ of a function. -/
def mmuCfgRej (f : Nat) (s : State) : State :=
  { s with reg := { s.reg with mmuFnCfg := tput s.reg.mmuFnCfg f (tgetD s.reg.mmuFnCfg f mmuFnCfgReset ||| 0x80000000) } }

/-- A write of MMU_WIN_CFG: enabling creates an empty directory; disabling unmaps every page when R277 lets it. -/
def winCfgEffect (f w v : Nat) (s : State) : State :=
  let v := winMask v
  let old := s.winCfg f w
  if winRefused s f w v then mmuCfgRej f s
  else if winEn old && !winEn v then
    let s := setWinCfg f w v s
    let s := { s with reg := { s.reg with winPend := s.reg.winPend ++ [wkey f w] } }
    deferMmu (.disable w) f w 0 (winSize2M old * 32) none s
  else if !winEn old && winEn v then
    setWinCfg f w v { s with mem := { s.mem with dir := tclear s.mem.dir (dirKey f w 0) (2 ^ 18) } }
  else setWinCfg f w v s

/-- The value a write of one half of a 64-bit register applies (R485): a low half is held. -/
def halfValue (half : Half64) (cur held value : Nat) : Nat :=
  match half with
  | .whole => value % 2 ^ 64
  | .low => cur
  | .high => held % 2 ^ 32 + (value % 2 ^ 32) * 2 ^ 32

/-- Key of a held low half: physical function, BAR0, by the offset of the register. -/
def heldKey (fn bar off : Nat) : Nat := (fn * 8 + bar) * 2 ^ 28 + off

/-- A 64-bit register access by halves: a low half is held, a high half applies the held low half with it, or the
current low half where none has been held; `apply` is the effect of the whole value. -/
def withHalf (key cur : Nat) (half : Half64) (value : Nat) (apply : Nat → State → State) (s : State) : State :=
  match half with
  | .low => { s with host := { s.host with heldLow := tput s.host.heldLow key (BitVec.ofNat 32 value) } }
  | .whole => apply (value % 2 ^ 64) s
  | .high =>
    let low := match tget s.host.heldLow key with
      | some v => v.toNat
      | none => cur % 2 ^ 32
    apply (halfValue .high cur low value) { s with host := { s.host with heldLow := tdel s.host.heldLow key } }

/-- MMU_WIN_CFG_WRITE (R271, R272, R485). -/
def execMmuWinCfgWrite (fn win : Nat) (half : Half64) (value : Dword) (s : State) : Host.Outcome State Fault Refusal :=
  .next (if s.serving && fn < 512 && win < 16 then
    withHalf (heldKey 0 0 (0x20000 + 128 * fn + 8 * win)) (s.winCfg fn win) half value.toNat (winCfgEffect fn win) s
  else s)

/-! ## Fills (R278) -/

/-- The host-backed cached page behind a DVA that is not present. -/
def State.absentPage (s : State) (f dva : Nat) : Option PteRef :=
  match s.locate f 0 dva with
  | .hbm r pte _ _ _ => if pteHost pte && pteHcache pte && !ptePresent pte then some r else none
  | _ => none

/-- HOST_FILL (R278): the first access to a page that is not present starts its fill; an access to a page whose fill is in flight
waits for it. The oldest HOST_INFLIGHT fills of a function are in flight, further ones wait. -/
def hostFillEffect (f dva : Nat) (write : Bool) (s : State) : State :=
  match s.absentPage f dva with
  | none => s
  | some _ =>
    match s.mem.fills.find? (fun x => x.fn = f ∧ pageOf x.dva = pageOf dva) with
    | some _ =>
      { s with mem := { s.mem with fills := s.mem.fills.map (fun x =>
          if x.fn = f ∧ pageOf x.dva = pageOf dva then { x with wrote := x.wrote || write } else x) } }
    | none =>
      { s with mem := { s.mem with fills := s.mem.fills ++ [{ fn := f, dva := dva, wrote := write }] } }

/-- HOST_FILL (R278). -/
def execHostFill (fn dva : Nat) (write : Bool) (s : State) : Host.Outcome State Fault Refusal :=
  .next (hostFillEffect fn dva write s)

/-- The fills of a function that are in flight. -/
def State.inFlight (s : State) (f : Nat) : List Fill :=
  (s.mem.fills.filter (fun x => x.fn = f)).take (bitsOf (s.mmuCfg f) 13 8)

/-- HOST_FILL_COMPLETE (R278): the page is written to its copy and becomes PRESENT, then the waiting accesses are
performed; a device write sets DIRTY. -/
def hostFillCompleteEffect (f dva : Nat) (failed : List Nat) (s : State) : State :=
  match (s.inFlight f).find? (fun x => pageOf x.dva = pageOf dva) with
  | none => s
  | some x =>
    let s := { s with mem := { s.mem with fills := s.mem.fills.filter (fun y => !(y.fn = f ∧ pageOf y.dva = pageOf dva)) } }
    match s.absentPage f dva with
    | none => s
    | some r =>
      let s := fillPage f x.dva r failed s
      if x.wrote && (s.locate f 0 dva).writable then s.setPte r (s.pte r ||| 0x80) else s

/-- HOST_FILL_COMPLETE (R278). -/
def execHostFillComplete (fn dva : Nat) (failed : List Nat) (s : State) : Host.Outcome State Fault Refusal :=
  .next (hostFillCompleteEffect fn dva failed s)

/-! ## The cluster directory (R294-R296)

A line is named by its home: below 2^33 the HBM line hpa / 64, from 2^33 the CM line cluster * 2^16 + offset / 64. The
directory of a cluster is keyed by the cluster and the line. -/

def lineKey (cluster line : Nat) : Nat := cluster * 2 ^ 34 + line

def lineOfBlock (b : Block) (i : Nat) : BitVec 512 := (b.data >>> (512 * i)).truncate 512

/-- Replace a 64-byte line of a block and make its check word anew. -/
def Block.setLine (b : Block) (i : Nat) (v : BitVec 512) : Block :=
  b.patch (64 * i) (leB v.toNat 64)

/-- The valid page whose HBM frame holds a 64 KiB frame number, with the function it is mapped for. -/
def State.pageAt (s : State) (pfn : Nat) : Option PteRef :=
  match s.mem.dir.find? (fun e => pteV e.2.toNat && !pteTbl e.2.toNat && ptePfn e.2.toNat / 32 == pfn / 32) with
  | some e => some { leaf := false, key := e.1 }
  | none =>
    (s.mem.leaf.find? (fun e => pteV e.2.toNat && !(pteHost e.2.toNat && !pteHcache e.2.toNat) && ptePfn e.2.toNat == pfn)).map
      (fun e => { leaf := true, key := e.1 })

/-- The cluster and the CM line of a line whose home is a CM. -/
def cmOfLine (line : Nat) : Nat × Nat := ((line - 2 ^ 33) / 2 ^ 16, (line - 2 ^ 33) % 2 ^ 16 / 4)

/-- The function whose allotment holds a CM line. -/
def State.cmFn (s : State) (cl l : Nat) : Option Nat :=
  match s.partOfCluster cl with
  | none => none
  | some p => (s.partFns p).find? (fun f => decide (s.cmBase p f ≤ l) && decide (l < s.cmBase p f + 512 * cm128kOf (s.fmCfg f)))

/-- The function that a line belongs to: of the page mapped at its HBM home, or of the allotment of its CM home (R311). A host page
of HCACHE = 0 has no such home, so its lines are never cached (R296). -/
def State.lineFn (s : State) (line : Nat) : Option Nat :=
  if line < 2 ^ 33 then (s.pageAt (line / 1024)).map (·.fn) else s.cmFn (cmOfLine line).1 (cmOfLine line).2

/-- The block that holds a line at its home; a page that is clean-zero as a whole holds zeros (R280). -/
def State.homeBlk (s : State) (line : Nat) : Block :=
  if line < 2 ^ 33 then
    if (s.pageAt (line / 1024)).any (fun r => pteZero (s.pte r)) then Block.clean
    else (let b := s.hbmBlk (line / 4); if b.cz then Block.clean else b)
  else s.cmBlk (cmOfLine line).1 (cmOfLine line).2

/-- The line as its home holds it. -/
def State.homeLine (s : State) (line : Nat) : BitVec 512 := lineOfBlock (s.homeBlk line) (line % 4)

/-- Write a line to its home: the first write to a clean-zero page opens it (R280), a write to a host-backed page's copy makes it
DIRTY (R278). -/
def writeHome (line : Nat) (v : BitVec 512) (s : State) : State :=
  if line < 2 ^ 33 then
    let s := match s.pageAt (line / 1024) with
      | none => s
      | some r =>
        let s := openZeroPage r s
        if pteHost (s.pte r) then s.setPte r (s.pte r ||| 0x80) else s
    s.setHbm (line / 4) ((s.homeBlk line).setLine (line % 4) v)
  else s.setCm (cmOfLine line).1 (cmOfLine line).2 ((s.homeBlk line).setLine (line % 4) v)

/-- The CM's view of a line: its cached copy, or its home. A copy tagged with another function than the line's is none. -/
def State.dirLine (s : State) (core line : Nat) : DirLine :=
  let fresh : DirLine := { fn := (s.lineFn line).getD 0, owner := none, holders := [], data := s.homeLine line, dirty := false, waiting := [] }
  match tget s.mem.lines (lineKey (clusterOfCore core) line) with
  | some d => if s.lineFn line = some d.fn then d else fresh
  | none => fresh

def setDirLine (core line : Nat) (d : DirLine) (s : State) : State :=
  { s with mem := { s.mem with lines := tput s.mem.lines (lineKey (clusterOfCore core) line) d } }

def insertSorted (x : Nat) : List Nat → List Nat
  | [] => [x]
  | y :: r => if x < y then x :: y :: r else if x = y then y :: r else y :: insertSorted x r

/-- Grant a line in S. -/
def DirLine.share (c : Nat) (d : DirLine) : DirLine := { d with holders := insertSorted c d.holders }

/-- Invalidate the S holders and grant the line in M. -/
def DirLine.grant (c : Nat) (d : DirLine) : DirLine := { d with owner := some c, holders := [] }

/-- The requests held back are served in order, until one has to wait for a recall (R295). -/
def serveLine : List (Nat × Bool) → DirLine → DirLine
  | [], d => { d with waiting := [] }
  | (c, m) :: r, d =>
    if d.owner.any (· != c) then { d with waiting := (c, m) :: r }
    else serveLine r (if m then d.grant c else if d.owner = some c then d else d.share c)

/-- A request joins those held back; it is served at once where none is and no recall is needed. -/
def DirLine.ask (c : Nat) (m : Bool) (d : DirLine) : DirLine := serveLine (d.waiting ++ [(c, m)]) d

/-- The M holder writes the line back to the CM and drops it, which satisfies a recall (R294, R295). -/
def DirLine.back (v : BitVec 512) (d : DirLine) : DirLine :=
  serveLine d.waiting { d with owner := none, data := v, dirty := true }

/-- A core drops a line: an M line is written back to the CM. -/
def DirLine.drop (c : Nat) (d : DirLine) : DirLine :=
  if d.owner = some c then d.back d.data else { d with holders := d.holders.filter (· != c) }

/-- Lines that the Descriptor Cache of a core holds. -/
def State.heldLines (s : State) (core : Nat) : List (Nat × DirLine) :=
  s.mem.lines.filter (fun e => e.1 / 2 ^ 34 == clusterOfCore core && (e.2.owner == some core || e.2.holders.contains core))

/-- A Descriptor Cache holds 1,024 lines of 64 bytes (Table 1-2): one more takes the place of a line that the manual leaves open. -/
def evictLine (core line : Nat) (s : State) : State :=
  let held := s.heldLines core
  if held.length < 1024 ∨ held.any (fun e => e.1 == lineKey (clusterOfCore core) line) then s
  else
    let (v, s) := freshFree s
    match held[v.toNat % held.length]? with
    | none => s
    | some e => { s with mem := { s.mem with lines := tput s.mem.lines e.1 (e.2.drop core) } }

/-- A request of a core for a line of a function. -/
def askLine (core line : Nat) (m : Bool) (s : State) : State :=
  if core < 2048 && (s.lineFn line).isSome then
    let s := evictLine core line s
    setDirLine core line ((s.dirLine core line).ask core m) s
  else s

/-- RD (R294): the line in S, after a recall of another core's M. -/
def execRd (core line : Nat) (s : State) : Host.Outcome State Fault Refusal := .next (askLine core line false s)

/-- OWN (R294): recall the M holder or invalidate every S holder, then grant M. -/
def execOwn (core line : Nat) (s : State) : Host.Outcome State Fault Refusal := .next (askLine core line true s)

/-- WB (R294): an M line goes back to the CM and drops to I; a core that does not hold the line in M writes nothing. -/
def execWb (core line : Nat) (data : BitVec 512) (s : State) : Host.Outcome State Fault Refusal :=
  let d := s.dirLine core line
  .next (if d.owner = some core then setDirLine core line (d.back data) s else s)

/-- At an advancing boundary the Descriptor Caches of the partition write back, then its CMs write back dirty lines and
drop clean ones (R296). A line whose home now belongs to another function is not written (R311). -/
def flushLines (clusters : List Nat) (s : State) : State :=
  let mine := s.mem.lines.filter (fun e => clusters.contains (e.1 / 2 ^ 34))
  let s := { s with mem := { s.mem with lines := s.mem.lines.filter (fun e => !clusters.contains (e.1 / 2 ^ 34)) } }
  mine.foldl (fun s e =>
    if e.2.dirty && s.lineFn (e.1 % 2 ^ 34) == some e.2.fn then writeHome (e.1 % 2 ^ 34) e.2.data s else s) s

/-- The line that holds a DVA of function f, where its home is HBM or a CM. -/
def State.lineOfDva (s : State) (f p dva : Nat) : Option Nat :=
  match s.locate f p dva with
  | .hbm _ _ hpa _ _ => some (hpa / 64)
  | .cm cl l => some (2 ^ 33 + cl * 2 ^ 16 + l * 4 + dva % 256 / 64)
  | _ => none

/-- The bytes of a descriptor line as the CSQ of a core reads it through its Descriptor Cache: the CM's copy where there is one. -/
def State.cachedLine (s : State) (f p core dva : Nat) (home : List Byte) : List Byte :=
  match s.lineOfDva f p dva with
  | none => home
  | some l => if (tget s.mem.lines (lineKey (clusterOfCore core) l)).any (fun d => d.fn == f && d.dirty) then leB (s.dirLine core l).data.toNat 64 else home

end Sys2Proof.Machine
end

