-- ==== Sys2Proof/Machine/Pages.lean ====
section
/-!
DEFINITION. Weight pages: headers, dense and packed images, the checks of a load, building a frame and reading one out
(R120, R150-R164, R174-R176, R186, R190, R402, R517, R518).
-/

namespace Sys2Proof.Machine

open Sys2Proof

/-! ## Headers (Table 5-1, R158, R159) -/

def parseHdr (bs : List Byte) : PageHdr :=
  { layout := fieldLE bs 0 1, wFmt := fieldLE bs 1 1, density := fieldLE bs 2 1, ext := fieldLE bs 3 1,
    bibal := bitOf (fieldLE bs 4 1) 0, forceDense := bitOf (fieldLE bs 4 1) 1, bbk := fieldLE bs 5 1,
    nnz := fieldLE bs 8 4,
    rsv := (sparseFmt (fieldLE bs 1 1) && fieldLE bs 4 1 / 4 != 0) || fieldLE bs 6 2 != 0 || (((bs.drop 12).take 52).any (fun b => b != 0)) }

def hdrBytes (h : PageHdr) : List Byte :=
  leB h.layout 1 ++ leB h.wFmt 1 ++ leB h.density 1 ++ leB h.ext 1 ++ leB (bit01 h.bibal + 2 * bit01 h.forceDense) 1 ++
  leB h.bbk 1 ++ leB 0 2 ++ leB h.nnz 4 ++ List.replicate 244 0

/-- The weight of lane n in 256 data bits. -/
def weightOf (p data n : Nat) : Nat := data >>> (p * n) % 2 ^ p

/-- Nonzero positions of lane n in segment g of dense rows. -/
def nzPos (p : Nat) (dense : List Nat) (g n : Nat) : List Nat :=
  (List.range 64).filter (fun r => weightOf p (dense.getD (64 * g + r) 0) n != 0)

/-- The slots of a page by its nonzero weights, in order 64 g + n. -/
def nzSlots (f : Nat) (dense : List Nat) : List (List Nat) :=
  (List.range 1024).map (fun i => if i % 64 < lanes f then nzPos (planes f) dense (i / 64) (i % 64) else [])

/-- Number of nonzero weights of a page. -/
def nnzOf (f : Nat) (dense : List Nat) : Nat :=
  (dense.map (fun d => ((List.range (lanes f)).filter (fun n => weightOf (planes f) d n != 0)).length)).sum

def densityOf (f nnz : Nat) : Nat := min 255 (256 * nnz / (1024 * lanes f))

/-- The largest number of positions of one lane in one segment. -/
def maxSlot (slots : List (List Nat)) : Nat := slots.foldl (fun m s => max m s.length) 0

/-- The smallest legal ROWS for slots: extents are multiples of 8. -/
def extOf (slots : List (List Nat)) : Nat := ceilDiv (maxSlot slots) 8

/-! ## Reading an image (R120, R160, R161, R517) -/

/-- Split bytes into rows of 32. -/
def rowsOfBytes (bs : List Byte) (n : Nat) : List Nat := (List.range n).map (fun i => fieldLE bs (32 * i) 32)

/-- Length of the image a header describes. -/
def imageLen (h : PageHdr) : Nat :=
  if h.layout = 1 then 512 * (8 * h.ext) + 8 * lanes h.wFmt * (8 * h.ext + 4) else 32768

/-- The bi-balanced check (R176). -/
def biBalanced (k : Nat) (slots : List (List Nat)) : Bool :=
  (List.range 16).all (fun g =>
    (List.range 64).all (fun n => (slots.getD (64 * g + n) []).length == k) &&
    (List.range 64).all (fun r =>
      ((List.range 64).filter (fun n => (slots.getD (64 * g + n) []).contains r)).length == k))

/-- The pairs that poisoned blocks of an image make suspect (R517); block 0 is the first of the image. -/
def suspectOf (h : PageHdr) (bad : List Nat) : List (Nat × Nat) :=
  let l := lanes h.wFmt
  bad.flatMap (fun b =>
    if h.layout = 1 then
      let r := 8 * h.ext
      if 256 * b < 512 * r then (List.range l).map (fun n => (8 * b / r, n))
      else
        let w := (r + 4) / 2
        let first := (256 * b - 512 * r) / w
        let last := (256 * b + 255 - 512 * r) / w
        (List.range (last + 1 - first)).map (fun i => ((first + i) / l, (first + i) % l))
    else (List.range l).map (fun n => (b / 8, n)))

/-- Unpack weight rows and codes into dense rows. -/
def unpack (f : Nat) (ext : Nat) (wrows : List Nat) (slots : List (List Nat)) : List Nat :=
  let p := planes f
  let l := lanes f
  (List.range 1024).map (fun row =>
    let g := row / 64
    let k := row % 64
    ((List.range l).map (fun n =>
      match (slots.getD (64 * g + n) []).findIdx? (· == k) with
      | some i => weightOf p (wrows.getD (ext * g + i) 0) n * 2 ^ (p * n)
      | none => 0)).sum)

/-- The slots of a packed image as the Position Store takes them: codes 0 to R + 3 of each lane, the rest 0xF (R155). -/
def packedCodes (f ext : Nat) (bs : List Byte) : List Nat :=
  let l := lanes f
  let w := (ext + 4) / 2
  (List.range 1024).map (fun i =>
    if i % 64 < l then fieldLE bs (512 * ext + w * (l * (i / 64) + i % 64)) w + (2 ^ 256 - 2 ^ (8 * w)) else 2 ^ 256 - 1)

/-- The positions of packed slots; `none` where one is malformed. -/
def packedSlots (f ext : Nat) (codes : List Nat) : Option (List (List Nat)) :=
  let sl := (List.range 1024).map (fun i => if i % 64 < lanes f then decodePos (codes.getD i 0) ext else some [])
  if sl.all Option.isSome then some (sl.map (fun o => o.getD [])) else none

/-- A page from a header and its image bytes, with the checks of R161: `none` refuses it. The zero image of R289, whose
header is all zero, is accepted. -/
def pageOfImage (h : PageHdr) (bs : List Byte) (bad : List Nat) : Option Page :=
  let f := h.wFmt
  let sp := sparseFmt f
  if h.rsv || !(wFmtOk f || (f == 0 && h.layout == 0)) || 1 < h.layout || (!sp && h.layout != 0) ||
      (sp && (8 < h.ext || (h.layout == 1 && h.ext == 8) || (h.bibal && !(planes f ≤ 4 && [1, 2, 3, 4, 6].contains h.bbk &&
        h.ext == h.bbk)) || (!h.bibal && h.bbk != 0))) then none
  else
    let r := 8 * h.ext
    let codes := if h.layout = 1 then packedCodes f r bs else []
    let slotsAndRows : Option (List (List Nat) × List Nat) :=
      if h.layout = 1 then (packedSlots f r codes).map (fun s => (s, unpack f r (rowsOfBytes bs (16 * r)) s))
      else
        let d := rowsOfBytes bs 1024
        some (nzSlots f d, d)
    match slotsAndRows with
    | none => none
    | some (slots, dense) =>
      let nnz := nnzOf f dense
      let padBad := h.layout == 1 && (List.range (16 * r)).any (fun i =>
        (List.range (lanes f)).any (fun n =>
          (slots.getD (64 * (i / r) + n) []).length ≤ i % r && weightOf (planes f) (fieldLE bs (32 * i) 32) n != 0))
      if nnz ≠ h.nnz || padBad || (sp && (h.density != densityOf f nnz || 8 * h.ext < maxSlot slots ||
          (h.bibal && !biBalanced (8 * h.bbk) slots))) then none
      else some { hdr := h, dense := dense, slots := slots, codes := codes, suspect := suspectOf h bad }

/-- The header of the dense image of a page (R288, R290). -/
def denseHdr (f nnz : Nat) (slots : List (List Nat)) (forceDense : Bool) : PageHdr :=
  { layout := 0, wFmt := f, density := densityOf f nnz, ext := extOf slots, bibal := false, forceDense := forceDense,
    bbk := 0, nnz := nnz, rsv := false }

/-- Read a header and an image through the function's DVA space: the page, `none` where R161 refuses it. -/
def readPage (fn p : Nat) (imageVa : Nat) (s : State) : Option Page × State :=
  let (hb, s) := readBlk fn p none (imageVa - 256) s
  let h := parseHdr (blockBytes hb.data)
  if hb.poison then (none, s)
  else
    let n := ceilDiv (imageLen h) 256
    let r := (List.range n).foldl (fun (acc : List (List Byte) × List Nat × State) i =>
      let (b, s) := readBlk fn p none (imageVa + 256 * i) acc.2.2
      (acc.1 ++ [blockBytes b.data], (if b.poison then acc.2.1 ++ [i] else acc.2.1), s))
      (([] : List (List Byte)), ([] : List Nat), s)
    (pageOfImage h r.1.flatten r.2.1, r.2.2)

/-! ## Building a frame (R151, R162, R186) -/

/-- The page may be laid out sparse, apart from the threshold and the plan (R163). -/
def pageSparseOk (h : PageHdr) : Bool := sparseFmt h.wFmt && h.ext ≤ 7 && !h.forceDense

/-- Segment-row i of segment g of the sparse layout. -/
def sparseRow (f : Nat) (pg : Page) (g i : Nat) : Nat :=
  let p := planes f
  ((List.range (lanes f)).map (fun n =>
    match (pg.slots.getD (64 * g + n) [])[i]? with
    | some k => weightOf p (pg.dense.getD (64 * g + k) 0) n * 2 ^ (p * n)
    | none => 0)).sum

/-- Write a page into a macro in a layout; the Position Store takes the codes of a sparse page. -/
def buildFrame (m : Mac) (now : Nat) (sparse : Bool) (pg : Page) : Mac :=
  let m := zeroMac m now
  let f := pg.hdr.wFmt
  let row (r : Nat) : Nat := if sparse then sparseRow f pg (r / 64) (r % 64) else pg.dense.getD r 0
  let rows := ((List.range 1024).map (fun r => (r, rowWithRefs r (placeRow m (row r))))).filter
    (fun e => e.2 != rowWithRefs e.1 0)
  let m := { m with rows := rows, suspect := pg.suspect }
  if sparse then
    let pos := ((List.range 1024).filter (fun i => i % 64 < lanes f)).map
      (fun i => (i, BitVec.ofNat 256 ((pg.codes[i]?).getD (encodePos (pg.slots.getD i [])))))
    { m with pos := pos }
  else m

/-- The positions of a macro's slots in the order 64 g + n; a malformed slot gives none. -/
def macSlots (m : Mac) (f ext : Nat) : List (List Nat) :=
  (List.range 1024).map (fun i => if i % 64 < lanes f then (decodePos (posSlot m (i / 64) (i % 64)) ext).getD [] else [])

/-- The dense rows of the page a macro holds, from its data bits (R162, R190). -/
def denseOf (m : Mac) (f : Nat) (sparse : Bool) : List Nat :=
  if sparse then
    let slots := macSlots m f 64
    let p := planes f
    (List.range 1024).map (fun row =>
      ((List.range (lanes f)).map (fun n =>
        match (slots.getD (64 * (row / 64) + n) []).findIdx? (· == row % 64) with
        | some i => weightOf p (dataOf m (64 * (row / 64) + i)) n * 2 ^ (p * n)
        | none => 0)).sum)
  else (List.range 1024).map (dataOf m)

/-- The macro as its cells sense, for a read-out. -/
def sensedMac (m : Mac) (flips : List CellFlip) : Mac :=
  { m with rows := (flips.map (·.row)).foldl (fun t r => tputD (rowWithRefs r 0) t r (senseRow m flips r)) m.rows }

/-- The page held by a macro, with the suspect pairs it carries. -/
def pageOfMac (m : Mac) (f : Nat) (sparse forceDense : Bool) : Page :=
  let dense := denseOf m f sparse
  let slots := nzSlots f dense
  { hdr := denseHdr f (nnzOf f dense) slots forceDense, dense := dense, slots := slots, codes := [],
    suspect := m.suspect }

/-- The 256 bytes of image block b of dense rows. -/
def imageBlock (dense : List Nat) (b : Nat) : List Byte :=
  (List.range 8).flatMap (fun i => leB (dense.getD (8 * b + i) 0) 32)

/-- Frame check words of a macro (R402): one CRC-32C per 8-row data block of the dense image. -/
def setChecks (pm : Nat) (dense : List Nat) (s : State) : State :=
  { s with fm := { s.fm with checks := tfill s.fm.checks (pm * 128) 128 (fun b => crc32c (imageBlock dense b)) } }

/-- Rows whose cells fail the read-back twice are poisoned (R186). -/
def poisonRows (m : Mac) (rows : List Nat) : Mac :=
  { m with poisonRow := rows.foldl (fun l r => if l.contains r then l else l ++ [r]) m.poisonRow }

/-- The rows a failed read-back marks: the 8 rows of the data block in a dense frame, the row itself in a sparse one. -/
def failedRows (sparse : Bool) (flips : List CellFlip) : List Nat :=
  if sparse then flips.map (·.row) else flips.flatMap (fun f => (List.range 8).map (fun i => f.row / 8 * 8 + i))

/-- Write a page into a physical macro, read it back, set its check words; a read-back that fails twice poisons the
rows concerned and raises 0x0302 (R186). -/
def writePage (fn core pm : Nat) (sparse : Bool) (pg : Page) (flips : List CellFlip) (s : State) : State :=
  let s := restartEvac pm s
  let m := buildFrame (s.macAt pm) s.tick.st sparse pg
  let m := poisonRows m (failedRows sparse flips)
  let s := setChecks pm pg.dense (s.setMac pm m)
  if flips = [] then s else raiseMem 0x0302 fn (dieOfCore core) (some core) none 0 s

/-! ## The image area (R288, R290, R292) -/

/-- The image area of a backed frame can be reached: 129 blocks in one enabled, writable window. -/
def State.imageOk (s : State) (fn va n : Nat) : Bool :=
  va % 256 == 0 && va < 2 ^ 47 &&
  (match s.winOf fn va with
   | none => false
   | some w => s.winOf fn (va + n - 1) == some w && !winRo (s.winCfg fn w)) &&
  s.rangeOk fn 0 va n true

/-- Write the dense form of a page to its image area: the header, then 128 blocks; blocks of `bad` carry poison. -/
def writeImage (fn va : Nat) (h : PageHdr) (dense : List Nat) (bad : Nat → Bool) (s : State) : State :=
  let s := writeBlk fn 0 none va (Block.ofData (blockOfBytes (hdrBytes h))) s
  (List.range 128).foldl (fun s b =>
    writeBlk fn 0 none (va + 256 * (b + 1)) { Block.ofData (blockOfBytes (imageBlock dense b)) with poison := bad b } s) s

/-- The zero image of a newly allocated backed frame: the header with LAYOUT = 0 and zero elsewhere, the image blocks
clean-zero (R289). -/
def writeZeroImage (fn va : Nat) (s : State) : State :=
  let s := writeBlk fn 0 none va Block.zero s
  (List.range 128).foldl (fun s b => writeBlk fn 0 none (va + 256 * (b + 1)) { Block.zero with comp := true } s) s

/-- The image blocks that a page-out marks poisoned: those of a LOST frame, of poisoned rows, of suspect pairs, and of
slots that a sparse frame's Position Store cannot give. -/
def outPoison (m : Mac) (lost sparse : Bool) (f b : Nat) : Bool :=
  lost || m.suspect.any (fun p => p.1 == b / 8) ||
  (sparse && m.posTwo.any (fun w => w / 256 == b / 8 && decide (w / 4 % 64 < lanes f))) ||
  (if sparse then
    -- a poisoned segment-row of a sparse frame holds weights of its lanes' positions in this block
    m.poisonRow.any (fun r => r / 64 == b / 8 && (List.range (lanes f)).any (fun n =>
      match (decodePos (posSlot m (r / 64) n) 64).getD [] |>.getD (r % 64) 64 with
      | k => k / 8 == b % 8))
  else m.poisonRow.any (fun r => r / 8 == b))

end Sys2Proof.Machine
end

