-- ==== Sys2Proof/Machine/Execs.lean ====
section
/-!
DEFINITION. The fields of a task, and executions as the blocks share them: their order, the frames they name, absorbing one (R259, R310).
-/

namespace Sys2Proof.Machine

open Sys2Proof

/-! ## Fields of a task (Tables 3-4, 3-5, 6-2, 8-4) -/

def Task.kind (t : Task) : Nat := bitsOf t.ctl 1 0
def Task.packed (t : Task) : Bool := bitOf t.ctl 2
def Task.hintUse (t : Task) : Bool := bitOf t.ctl 3
def Task.densB (t : Task) : Nat := bitsOf t.ctl 10 4
def Task.stage (t : Task) : Nat := bitsOf t.ctl 27 16
def Task.op (t : Task) : Nat := bitsOf t.wop 4 3
def Task.transposed (t : Task) : Bool := bitOf t.wop 2
def Task.shadowKeep (t : Task) : Bool := bitOf t.wop 5
def Task.bandSeg (t : Task) : Nat := bitsOf t.wop 11 8
def Task.laneFirst (t : Task) : Nat := bitsOf t.wop 19 12
def Task.addMode (t : Task) : Bool := bitOf t.accCtl 0
def Task.zarlon (t : Task) : Bool := bitOf t.accCtl 1
def Task.accTile (t : Task) : Nat := bitsOf t.accCtl 4 2
def Task.accSpan (t : Task) : Nat := bitsOf t.accCtl 7 5
def Task.accmRow (t : Task) : Nat := bitsOf t.accCtl 16 8
def Task.addEn (t : Task) : Bool := bitOf t.egress 0
def Task.mulEn (t : Task) : Bool := bitOf t.egress 1
def Task.mulFirst (t : Task) : Bool := bitOf t.egress 2
def Task.rescaleEn (t : Task) : Bool := bitOf t.egress 3
def Task.requant (t : Task) : Bool := bitOf t.egress 4
def Task.opndBf16 (t : Task) : Bool := bitOf t.egress 5
def Task.outFmt (t : Task) : Nat := bitsOf t.egress 15 8
def Task.isCount (t : Task) : Bool := t.kind == 0 && t.op == 0
def Task.isWrite (t : Task) : Bool := t.kind == 0 && t.op == 1
def Task.isSwap (t : Task) : Bool := t.kind == 0 && t.op == 2
def Task.isCopy (t : Task) : Bool := t.kind == 1

/-! ## Executions -/

def State.exec? (s : State) (id : Nat) : Option Exec := s.adm.execs.find? (fun e => e.id == id)

/-- Replace an execution. -/
def setExec (e : Exec) (s : State) : State :=
  { s with adm := { s.adm with execs := s.adm.execs.map (fun x => if x.id = e.id then e else x) } }

def dropExec (id : Nat) (s : State) : State :=
  { s with adm := { s.adm with execs := s.adm.execs.filter (fun x => x.id != id) } }

def isQueued : ExecPhase → Bool
  | .queued => true
  | .prepared => true
  | _ => false

/-- The plan of an execution names a logical frame. -/
def Exec.names (e : Exec) (lf : Nat) : Bool := e.plan.frames.any (fun x => x.1 == lf)

def State.namedRunning (s : State) (f lf : Nat) : Bool :=
  s.adm.execs.any (fun e => e.ticket.fn == f && e.phase == .running && e.names lf)

def State.namedQueued (s : State) (f lf : Nat) : Bool :=
  s.adm.execs.any (fun e => e.ticket.fn == f && isQueued e.phase && e.names lf)

/-- The cores a plan runs on. -/
def Plan.cores (p : Plan) : List Nat := p.stages.map (·.core)

/-- The accumulator tiles that a task pushes into, by their number in the function's allotment (R104). -/
def Task.tiles (t : Task) : List Nat :=
  if t.isCount && !t.zarlon then (List.range (t.accSpan + 1)).map (fun i => (t.accTile + i) % 8) else []

/-- The stacks of a tile are empty and its push counter is 0 (R102). -/
def emptyStacks (tile : Nat) (c : Core) : Core :=
  { c with stk := tclear c.stk (tile * 512) 512, pushCtr := tclear c.pushCtr tile 1 }

/-- Remove an execution's work from a core: its running and paused tasks, with the partials they have pushed and not folded, and
its slot. A task's first push meets an empty stack (R102). -/
def dropWork (base : Nat) (e : Exec) (c : Core) : Core :=
  let mine := (c.run.toList ++ c.paused).filter (fun r => r.exec == e.id)
  let tiles := mine.flatMap (fun r => ((e.plan.tasks[r.task]?).map (·.tiles)).getD [])
  tiles.foldl (fun c n => emptyStacks (base + n) c)
    { c with run := c.run.filter (fun r => r.exec != e.id), paused := c.paused.filter (fun r => r.exec != e.id),
             slot := c.slot.filter (fun p => p.1 != e.id), staged := c.staged.filter (fun x => x.1 != e.id) }

/-- Replace the cores that satisfy `p`. -/
def mapCores (p : Nat → Bool) (f : Core → Core) (s : State) : State :=
  { s with cores := s.cores.map (fun e => if p e.1 then (e.1, f e.2) else e) }

/-- No execution has armed these gates any more (R519). -/
def disarmGates (id : Nat) (s : State) : State :=
  { s with tick := { s.tick with gates := s.tick.gates.map (fun e =>
      if e.2.armedBy = some id then (e.1, { e.2 with armedBy := none }) else e) } }

/-- An execution that has started is absorbed: no further task of it starts, its windows idle until its last plan tick
would have ended, its completion carries ABORTED. One that has not started is discarded with ABORTED. -/
def absorbExec (withCompletion : Bool) (id : Nat) (s : State) : State :=
  match s.exec? id with
  | none => s
  | some e =>
    let s := disarmGates id (mapCores (fun c => e.plan.cores.contains c) (dropWork (s.tileBase e.plan.key.part e.ticket.fn) e) s)
    let s := if isQueued e.phase then dropExec id s else setExec { e with phase := .absorbed } s
    if withCompletion && e.phase != .absorbed then
      complete { Compl.mk' e.ticket stAborted with tick0 := e.tick0, held := e.heldCnt, poisoned := e.poisoned } s
    else s

end Sys2Proof.Machine
end

