-- ==== Sys2Proof/Machine/Frames.lean ====
section
/-!
DEFINITION. The Frame Manager (R286-R292, R192-R194, R518): the meanings of ALLOC, FRAME_ZEROING, FREE, LOAD, PAGE_OUT,
PAGE_IN and EXECUTION_PREPARE, and what it does at tick boundaries.
-/

namespace Sys2Proof.Machine

open Sys2Proof

/-! ## The frame table -/

def fkey (fn lf : Nat) : Nat := fn * 2 ^ 21 + lf

def State.frame? (s : State) (fn lf : Nat) : Option Frame := tget s.fm.frames (fkey fn lf)

def State.setFrame (s : State) (fn lf : Nat) (v : Frame) : State :=
  { s with fm := { s.fm with frames := tput s.fm.frames (fkey fn lf) v } }

/-- The logical macros of its core that a frame holds, its companion and shadows with it. -/
def Frame.macsHeld (f : Frame) : List Nat :=
  f.mac.toList ++ f.companion.toList ++
  (match f.shadow with
   | some sh => sh.mac :: sh.compMac.toList
   | none => [])

def State.fnCoreFrames (s : State) (fn c : Nat) : List (Nat × Frame) :=
  s.fm.frames.filter (fun e => e.1 / 2 ^ 21 = fn ∧ e.2.core = c)

/-- The macros a function holds on a core: what FRAMES limits. -/
def State.quotaUsed (s : State) (fn c : Nat) : Nat :=
  ((s.fnCoreFrames fn c).map (fun e => e.2.macsHeld.length)).sum

def State.macsUsed (s : State) (c : Nat) : List Nat :=
  (s.fm.frames.filter (fun e => e.2.core = c)).flatMap (fun e => e.2.macsHeld)

/-- The free macros of a core, lowest first. -/
def State.freeMacs (s : State) (c : Nat) : List Nat :=
  (List.range 64).filter (fun m => !(s.macsUsed c).contains m)

def State.unbacked (s : State) (fn c : Nat) : Nat :=
  ((s.fnCoreFrames fn c).filter (fun e => e.2.backVa = 0)).length

/-- A frame as ALLOC makes it. -/
def Frame.new (state : FrameState) (core : Nat) (mac : Option Nat) (backVa : Nat) : Frame :=
  { state := state, core := core, mac := mac, companion := none, backVa := backVa, sparse := false, wFmt := 0,
    density := 0, rowsHdr := 0, bibal := false, forceDense := false, bbk := 0, dirty := false, lastUse := 0,
    shadow := none }

/-- The header fields that the frame table keeps (R518). -/
def Frame.withHdr (f : Frame) (h : PageHdr) : Frame :=
  { f with wFmt := h.wFmt, density := h.density, rowsHdr := h.ext, bibal := h.bibal, forceDense := h.forceDense,
           bbk := h.bbk }

/-- The macro of a frame that holds a layout. -/
def Frame.macFor (f : Frame) (sparse : Bool) : Option Nat := if f.sparse = sparse then f.mac else f.companion

/-- The macro and layout that hold the page's current weights: the dense frame where there is one (R518). -/
def Frame.source (f : Frame) : Option (Nat × Bool) :=
  match f.macFor false with
  | some m => some (m, false)
  | none => f.mac.map (fun m => (m, true))

def isHeld : FrameState → Bool
  | .empty => true
  | .resident => true
  | .lost => true
  | _ => false

/-- A transfer of a frame is under way. -/
def State.pagingOf (s : State) (fn lf : Nat) : Bool := s.fm.paging.any (fun e => e.2.any (fun p => p.fn = fn ∧ p.frame = lf))

/-- The first execution of a function on a partition that has not started. -/
def State.nextExec (s : State) (fn p : Nat) : Option Exec :=
  (s.adm.execs.filter (fun e => e.ticket.fn = fn ∧ e.plan.key.part = p ∧ isQueued e.phase)).foldl
    (fun (b : Option Exec) e => match b with
      | none => some e
      | some x => if e.id < x.id then some e else some x) none

/-- An execution prepared, or next to be prepared, names a logical frame (R290). -/
def State.namedNext (s : State) (fn lf : Nat) : Bool :=
  s.adm.execs.any (fun e => e.ticket.fn == fn && isQueued e.phase && e.names lf &&
    (e.phase == .prepared || (s.nextExec fn e.plan.key.part).any (fun x => x.id == e.id)))

/-! ## Eviction (R288, R290) -/

/-- The victims on a core: backed frames that hold a macro and that `keep` does not spare, least recently counted first,
ties to the lower number. A frame that a host re-write is replacing, or whose page-out is under way, is spared. -/
def State.victim (s : State) (fn c : Nat) (keep : Nat → Bool) : Option Nat :=
  let cand := (s.fnCoreFrames fn c).filter (fun e => e.2.backVa ≠ 0 ∧ isHeld e.2.state ∧ !keep (e.1 % 2 ^ 21) ∧
    !(e.2.shadow.any (fun sh => sh.host)) ∧ !s.pagingOf fn (e.1 % 2 ^ 21))
  (cand.foldl (fun (best : Option (Nat × Nat)) e =>
    match best with
    | none => some (e.2.lastUse, e.1 % 2 ^ 21)
    | some b => if e.2.lastUse < b.1 then some (e.2.lastUse, e.1 % 2 ^ 21) else some b) none).map (·.2)

/-- Release a frame's macros: it is EVICTED. -/
def evictFrame (fn lf : Nat) (s : State) : State :=
  match s.frame? fn lf with
  | none => s
  | some f => s.setFrame fn lf { f with state := .evicted, mac := none, companion := none, shadow := none, dirty := false }

/-- Read a frame out into its image area (R190, R290), sensing `flips`. -/
def pageOutImage (fn lf : Nat) (f : Frame) (flips : List CellFlip) (s : State) : State :=
  match f.source with
  | none => s
  | some (m, sp) =>
    let mac := s.macAt (s.physMac f.core m)
    let dense := denseOf (sensedMac mac flips) f.wFmt sp
    let h := denseHdr f.wFmt (nnzOf f.wFmt dense) (nzSlots f.wFmt dense) f.forceDense
    let s := writeImage fn f.backVa h dense (outPoison mac (f.state == .lost) sp f.wFmt) s
    s.setFrame fn lf { f.withHdr h with dirty := false }

/-- Evict one victim: whether it was evicted; a dirty one whose image area is unreachable stays, with 0x0301. -/
def evictOne (fn lf : Nat) (flips : List CellFlip) (s : State) : Bool × State :=
  match s.frame? fn lf with
  | none => (false, s)
  | some f =>
    if !f.dirty then (true, evictFrame fn lf s)
    else if s.imageOk fn f.backVa 33024 then (true, evictFrame fn lf (pageOutImage fn lf f flips s))
    else (false, raiseMem 0x0301 fn (dieOfCore f.core) (some f.core) (s.winOf fn f.backVa) f.backVa s)

/-- Evict frames one at a time until `done`, or no victim remains; `skip` names victims that stayed. -/
def evictUntil (fn c : Nat) (keep : Nat → Bool) (done : State → Bool) : Nat → List Nat → State → Bool × State
  | 0, _, s => (done s, s)
  | n + 1, skip, s =>
    if done s then (true, s)
    else
      match s.victim fn c (fun lf => keep lf || skip.contains lf) with
      | none => (false, s)
      | some lf =>
        let (ok, s) := evictOne fn lf [] s
        evictUntil fn c keep done n (if ok then skip else lf :: skip) s

/-! ## ALLOC and FRAME_ZEROING (R288, R289) -/

/-- Zero the physical macro behind a logical macro. -/
def zeroLogMac (c m : Nat) (s : State) : State :=
  let pm := s.physMac c m
  (restartEvac pm s).setMac pm (zeroMac (s.macAt pm) s.tick.st)

/-- A command that the FM refuses: 0x0301 under its rate limit, the other codes once for the command (R297). -/
def refuseCmd (t : Ticket) (code : Nat) (core : Option Nat) (info : Option Nat) (addr : Nat) (s : State) : State :=
  let e := { EventRec.mk' code with fn := some t.fn, cid := some t.cid, unit := core, info := info, addr := addr }
  complete (Compl.refused t code 0xFFFF)
    (if code = 0x0301 then raiseOncePer msSt (t.fn * 4 + (core.map dieOfCore).getD 0) e [t.fn] s else raise e s)

def allocBacked (fn c first count va : Nat) (s : State) : State :=
  (List.range count).foldl (fun s i =>
    writeZeroImage fn (va + 33024 * i) (s.setFrame fn (first + i) (Frame.new .evicted c none (va + 33024 * i)))) s

/-- Give `count` frames the lowest free macros; their zeroing has begun. -/
def allocUnbacked (fn c first count : Nat) (s : State) : State :=
  ((List.range count).zip (s.freeMacs c)).foldl (fun s p =>
    s.setFrame fn (first + p.1) (Frame.new .zeroing c (some p.2) 0)) s

def allocEffect (e : Nat) (t : Ticket) (s : State) : State :=
  let fn := t.fn
  let c := entF e 0x08 2
  let first := entF e 0x0C 4 % 2 ^ 21
  let count := entF e 0x10 4
  let va := entF e 0x18 8
  if count = 0 then completeSt t stOk s
  else if 2 ^ 21 < first + count then completeSt t stInvalid s
  else if !s.fnHasCore fn c || s.fm.frames.any (fun x => x.1 / 2 ^ 21 == fn && first ≤ x.1 % 2 ^ 21 &&
      x.1 % 2 ^ 21 < first + count) || (va == 0 && framesOf (s.fmCfg fn) < s.unbacked fn c + count) then
    refuseCmd t 0x0307 (some c) (some first) va s
  else if va ≠ 0 then
    if s.imageOk fn va (33024 * count) then completeSt t stOk (allocBacked fn c first count va s)
    else refuseCmd t 0x0301 (some c) (s.winOf fn va) va s
  else
    let keep := fun lf => s.namedRunning fn lf || s.namedQueued fn lf
    let r := evictUntil fn c keep (fun s => count ≤ (s.freeMacs c).length) 64 [] s
    if r.1 then
      let s := allocUnbacked fn c first count r.2
      { s with fm := { s.fm with waits := s.fm.waits ++ [.alloc t fn first count] } }
    else refuseCmd t 0x0307 (some c) (some first) va r.2

/-- A FREE that waits covers a number of a range of a function. -/
def State.freeWaits (s : State) (fn first count : Nat) : Bool :=
  s.fm.waits.any (fun w => match w with
    | .free _ f a n => f == fn && first < a + n && a < first + count
    | _ => false)

/-- An ALLOC behind a FREE of its numbers waits for it (Table 9-10). -/
def allocTry (e : Nat) (t : Ticket) (s : State) : State :=
  if s.freeWaits t.fn (entF e 0x0C 4 % 2 ^ 21) (entF e 0x10 4) then
    { s with fm := { s.fm with waits := s.fm.waits ++ [.later t e] } }
  else allocEffect e t s

/-- ALLOC (R288, R289). -/
def execAlloc (fn q : Nat) (s : State) : Host.Outcome State Fault Refusal :=
  .next (onEntry opAlloc fn q allocTry s)

/-- The frames of an ALLOC are all zeroed. -/
def allocDone (s : State) (fn first count : Nat) : Bool :=
  !(s.fm.frames.any (fun x => x.1 / 2 ^ 21 == fn && first ≤ x.1 % 2 ^ 21 && x.1 % 2 ^ 21 < first + count &&
    x.2.state == .zeroing))

/-- Complete the ALLOC commands whose frames are zeroed. -/
def finishAllocs (s : State) : State :=
  let done := s.fm.waits.filter (fun w => match w with
    | .alloc _ fn first count => allocDone s fn first count
    | _ => false)
  let s := { s with fm := { s.fm with waits := s.fm.waits.filter (fun w => !done.contains w) } }
  done.foldl (fun s w => match w with
    | .alloc t _ _ _ => completeSt t stOk s
    | _ => s) s

/-! ## LOAD (R292) -/

/-- Whether every byte of the image, header included, is in window. -/
def State.loadInWindow (s : State) (fn va : Nat) : Bool :=
  256 ≤ va && s.rangeOk fn 0 (va - 256) 256 false &&
  (let h := parseHdr (blockBytes (readBlk fn 0 none (va - 256) s).1.data)
   s.rangeOk fn 0 va (imageLen h) false)

/-- Write a page's dense form to the image area of a backed frame, the suspect pairs' blocks poisoned. -/
def loadImageArea (fn : Nat) (f : Frame) (pg : Page) (s : State) : State :=
  if f.backVa = 0 then s
  else
    let h := denseHdr pg.hdr.wFmt pg.hdr.nnz (nzSlots pg.hdr.wFmt pg.dense) pg.hdr.forceDense
    writeImage fn f.backVa h pg.dense (fun b => pg.suspect.any (fun p => p.1 == b / 8)) s

/-- Eligible for the sparse layout under R163, apart from the plan. -/
def State.sparseEligible (s : State) (wFmt density rows : Nat) (forceDense : Bool) : Bool :=
  sparseFmt wFmt && rows ≤ 7 && !forceDense && !s.reg.sparseCfg.getLsbD 8 && density < bitsOf s.reg.sparseCfg.toNat 7 0

/-- The layout in which a LOAD builds a frame: a frame that holds a page keeps its layout (R164); an EMPTY one takes the layout in
which the admitted plans count the page (R162), and where none does, the layout that R163 gives it (log entry 97). -/
def State.loadSparse (s : State) (fn lf : Nat) (f : Frame) (h : PageHdr) : Bool :=
  pageSparseOk h &&
  (if f.state ≠ .empty ∨ f.companion.isSome then f.sparse
   else
     let counted := ((s.adm.plans ++ s.adm.execs.map (·.plan)).filter (fun p => p.key.fn = fn)).flatMap (fun p =>
       p.frames.filter (fun x => x.1 == lf && x.2.2.2 != 0))
     if counted = [] then s.sparseEligible h.wFmt h.density h.ext h.forceDense else counted.all (fun x => x.2.2.1))

/-- Write a page into a frame that holds a macro, and into its companion where the page may be laid out sparse. -/
def loadInPlace (fn lf : Nat) (f : Frame) (pg : Page) (flips : List CellFlip) (s : State) : State :=
  match f.mac with
  | none => s
  | some m =>
    let sp := s.loadSparse fn lf f pg.hdr
    let comp := f.companion.filter (fun _ => pageSparseOk pg.hdr)
    let s := writePage fn f.core (s.physMac f.core m) sp pg flips s
    let s := comp.toList.foldl (fun s c => writePage fn f.core (s.physMac f.core c) (!sp) pg [] s) s
    let s := s.setFrame fn lf { f.withHdr pg.hdr with state := .resident, sparse := sp, companion := comp, dirty := false }
    loadImageArea fn f pg s

/-- A re-calibration of a macro is under way: from its first measurement to its commit or abandonment (R396). -/
def State.recalPending (s : State) (pm : Nat) : Bool :=
  s.mnt.trims.any (fun t => t.mac == pm) ||
  s.mnt.windows.any (fun w => w.reqs.any (fun r => r.act == .cal && r.mac == pm))

/-- The state of a shadow: WRITING while a row of one of its macros is not written and read back, VERIFIED while a re-calibration of
one is pending, then READY (R192). -/
def shadowState (left compLeft : List Nat) (recal : Bool) : ShadowState :=
  if left ≠ [] ∨ compLeft ≠ [] then .writing else if recal then .verified else .ready

/-- A re-calibration of one of the macros of a shadow is pending. -/
def State.shadowRecal (s : State) (core mac : Nat) (comp : Option Nat) : Bool :=
  (mac :: comp.toList).any (fun m => s.recalPending (s.physMac core m))

/-- Shadows become READY once no re-calibration of their macros is pending any more (R192). -/
def settleShadows (s : State) : State :=
  { s with fm := { s.fm with frames := s.fm.frames.map (fun e => (e.1, { e.2 with
      shadow := e.2.shadow.map (fun sh =>
        if sh.state = .verified then
          { sh with state := shadowState sh.left sh.compLeft (s.shadowRecal e.2.core sh.mac sh.compMac) } else sh) })) } }

/-- A SWAP of a plan on a frame is pending: of an execution prepared or in progress (R194). -/
def State.swapPending (s : State) (fn lf : Nat) : Bool :=
  s.adm.execs.any (fun e => e.ticket.fn == fn && (e.phase == .prepared || e.phase == .running) && e.plan.swaps.contains lf &&
    e.plan.tasks.zipIdx.any (fun q => q.1.isSwap && !e.committed.contains q.2))

/-- Write the new page of a host re-write into the frame's shadow, which is made of the lowest free macros where it has none: one
macro for each frame that the page is to have (R192, R194). -/
def loadShadow (t : Ticket) (fn lf : Nat) (f : Frame) (pg : Page) (flips : List CellFlip) (s : State) : State :=
  let elig := s.sparseEligible pg.hdr.wFmt pg.hdr.density pg.hdr.ext pg.hdr.forceDense
  let sp := f.sparse && elig
  let ms := (match f.shadow with | some sh => sh.mac :: sh.compMac.toList | none => []) ++ s.freeMacs f.core
  let comp := if f.companion.isSome && elig then ms[1]? else none
  match ms[0]? with
  | none => s
  | some m =>
    let s := writePage fn f.core (s.physMac f.core m) sp pg flips s
    let s := comp.toList.foldl (fun s c => writePage fn f.core (s.physMac f.core c) (!sp) pg [] s) s
    let h := pg.hdr
    let hd := [h.wFmt, h.density, h.ext, bit01 h.bibal, bit01 h.forceDense, h.bbk]
    let sh : Shadow :=
      { mac := m, compMac := comp, state := shadowState [] [] (s.shadowRecal f.core m comp), sparse := sp, host := true, hdr := hd,
        left := [], compLeft := [], ticket := some t }
    s.setFrame fn lf { f with shadow := some sh }

/-- A LOAD whose image has passed its checks acts; `none` where it waits: behind a FREE, for a transfer of the frame, for a plan's
swap, for a macro (R292, R194, Table 9-10). -/
def loadAct (t : Ticket) (fn lf : Nat) (pg : Page) (flips : List CellFlip) (s : State) : Option State :=
  match s.frame? fn lf with
  | none => some (completeSt t stInvalid s)
  | some f =>
    if f.state = .evicted then
      some (completeSt t stOk ((loadImageArea fn f pg s).setFrame fn lf { f.withHdr pg.hdr with dirty := false }))
    else if !isHeld f.state || s.pagingOf fn lf then none
    else if f.macsHeld.any (fun m => s.evacPending f.core m || s.fenced (s.physMac f.core m)) then none
    else if s.swapPending fn lf || f.shadow.any (·.host) then none
    else if !(s.namedRunning fn lf || s.namedQueued fn lf) then some (completeSt t stOk (loadInPlace fn lf f pg flips s))
    else
      let keep := fun x => x == lf || s.namedRunning fn x || s.namedNext fn x
      let need := (1 + f.companion.toList.length) - (f.shadow.toList.flatMap (fun sh => sh.mac :: sh.compMac.toList)).length
      let r := evictUntil fn f.core keep (fun s => s.quotaUsed fn f.core + need ≤ framesOf (s.fmCfg fn) &&
        need ≤ (s.freeMacs f.core).length) 64 [] s
      if r.1 then some (loadShadow t fn lf f pg flips r.2) else none

/-- LOAD: the command checks, the window of the image, the checks of R161, then the action. -/
def loadTry (t : Ticket) (fn lf va : Nat) (flips : List CellFlip) (s : State) : State :=
  if va % 256 ≠ 0 ∨ s.frame? fn lf = none then completeSt t stInvalid s
  else if !s.loadInWindow fn va then refuseCmd t 0x0301 ((s.frame? fn lf).map (·.core)) (s.winOf fn va) va s
  else
    let (pg, s') := readPage fn 0 va s
    match pg with
    | none => refuseCmd t 0x0305 ((s.frame? fn lf).map (·.core)) (some lf) va s'
    | some pg =>
      match (if s.freeWaits fn lf 1 then none else loadAct t fn lf pg flips s') with
      | some s'' => s''
      | none => { s with fm := { s.fm with waits := s.fm.waits ++ [.load t fn lf va] } }

/-- LOAD (R292). -/
def execLoad (fn q : Nat) (flips : List CellFlip) (s : State) : Host.Outcome State Fault Refusal :=
  .next (onEntry opLoad fn q (fun e t => loadTry t fn (entF e 0x0C 4 % 2 ^ 21) (entF e 0x18 8) flips) s)

/-! ## Waiting commands -/

/-- A command that came before in the queue still acts on a frame of a range: an ALLOC whose frames are being zeroed, a LOAD. -/
def State.fmBusy (s : State) (fn first count : Nat) : Bool :=
  s.fm.frames.any (fun x => x.1 / 2 ^ 21 == fn && first ≤ x.1 % 2 ^ 21 && x.1 % 2 ^ 21 < first + count && x.2.state == .zeroing) ||
  s.fm.waits.any (fun w => match w with
    | .load _ f lf _ => f == fn && first ≤ lf && lf < first + count
    | .later t e => t.fn == fn && first < entF e 0x0C 4 % 2 ^ 21 + entF e 0x10 4 && entF e 0x0C 4 % 2 ^ 21 < first + count
    | _ => false)

/-- FREE: the frames of the range return to UNALLOCATED, once no execution in progress names one of them and the commands before it
in the queue have acted (R289, Table 9-10). -/
def freeTry (t : Ticket) (fn first count : Nat) (s : State) : State :=
  let mine := fun (k : Nat) => k / 2 ^ 21 == fn && first ≤ k % 2 ^ 21 && k % 2 ^ 21 < first + count
  if s.fm.frames.any (fun x => mine x.1 && s.namedRunning fn (x.1 % 2 ^ 21)) || s.fmBusy fn first count then
    { s with fm := { s.fm with waits := s.fm.waits ++ [.free t fn first count] } }
  else completeSt t stOk { s with fm := { s.fm with frames := s.fm.frames.filter (fun x => !mine x.1) } }

/-- Try again, in order, the commands that wait. -/
def retryWaits (s : State) : State :=
  let todo := s.fm.waits.filter (fun w => match w with | .alloc _ _ _ _ => false | _ => true)
  let s := { s with fm := { s.fm with waits := s.fm.waits.filter (fun w => match w with
    | .alloc _ _ _ _ => true
    | _ => false) } }
  todo.foldl (fun s w => match w with
    | .free t fn first count => freeTry t fn first count s
    | .load t fn frame image => loadTry t fn frame image [] s
    | .later t e => allocTry e t s
    | .alloc _ _ _ _ => s) s

/-- FRAME_ZEROING (R289): the macro is zero, and the frame that waits for it enters EMPTY. -/
def frameZeroingEffect (core mac : Nat) (s : State) : State :=
  match s.fm.frames.find? (fun x => x.2.core = core ∧ x.2.mac = some mac ∧ x.2.state = .zeroing) with
  | none => s
  | some (k, f) =>
    if s.fenced (s.physMac core mac) then s
    else
    let s := zeroLogMac core mac s
    let s := { s with fm := { s.fm with frames := tput s.fm.frames k { f with state := .empty } } }
    retryWaits (finishAllocs (setChecks (s.physMac core mac) [] s))

/-- FRAME_ZEROING (R289). -/
def execFrameZeroing (core mac : Nat) (s : State) : Host.Outcome State Fault Refusal :=
  .next (frameZeroingEffect core mac s)

/-- FREE (R289). -/
def execFree (fn q : Nat) (s : State) : Host.Outcome State Fault Refusal :=
  .next (onEntry opFree fn q (fun e t s => retryWaits (freeTry t fn (entF e 0x0C 4 % 2 ^ 21) (entF e 0x10 4) s)) s)

/-! ## Swaps (R193, R194) -/

/-- The rows that a write must fill before a shadow is READY: every row of a dense frame, the rows that hold a position of
some lane of a sparse one (R192, R178). -/
def rowsToWrite (m : Mac) (f : Nat) (sparse : Bool) : List Nat :=
  if sparse then (List.range 1024).filter (fun r => (List.range (lanes f)).any (fun n =>
    r % 64 < ((decodePos (posSlot m (r / 64) n) 64).getD []).length))
  else List.range 1024

/-- A shadow of a frame in the macro `m`, and in `cm` for the other layout, with every row to be written. -/
def State.openShadow (s : State) (f : Frame) (m : Nat) (cm : Option Nat) : Shadow :=
  let left := rowsToWrite (s.macAt (s.physMac f.core m)) f.wFmt f.sparse
  let compLeft := (cm.map (fun c => rowsToWrite (s.macAt (s.physMac f.core c)) f.wFmt !f.sparse)).getD []
  { mac := m, compMac := cm, state := shadowState left compLeft (s.shadowRecal f.core m cm), sparse := f.sparse, host := false, hdr := [], left := left,
    compLeft := compLeft, ticket := none }

/-- A swap: the shadow's macro takes the place of the frame's; the frame is RESIDENT. -/
def swapFrame (fn lf : Nat) (keepShadow : Bool) (s : State) : State :=
  match s.frame? fn lf with
  | none => s
  | some f =>
    match f.shadow with
    | none => s
    | some sh =>
      let kept : Option Shadow :=
        match f.mac with
        | some m =>
          if keepShadow then some (s.openShadow f m f.companion) else none
        | none => none
      let hdrd := match sh.hdr with
        | [w, d, r, b, fd, bk] =>
          { f with wFmt := w, density := d, rowsHdr := r, bibal := b == 1, forceDense := fd == 1, bbk := bk }
        | _ => f
      s.setFrame fn lf { hdrd with state := .resident, mac := some sh.mac, companion := sh.compMac, sparse := sh.sparse,
                                   dirty := !sh.host, shadow := kept }

/-- The host re-writes that may swap at an advancing boundary: the shadow is READY and no execution that counts the
frame is in progress. Each swaps, its image area is written, and its LOAD completes. -/
def hostSwaps (s : State) : State :=
  let due := s.fm.frames.filter (fun x => x.2.shadow.any (fun sh => sh.host && sh.state == .ready) &&
    !s.namedRunning (x.1 / 2 ^ 21) (x.1 % 2 ^ 21))
  due.foldl (fun s x =>
    let fn := x.1 / 2 ^ 21
    let lf := x.1 % 2 ^ 21
    let s := swapFrame fn lf false s
    match s.frame? fn lf, x.2.shadow with
    | some f, some sh =>
      let pm := s.physMac f.core sh.mac
      let pg := pageOfMac (s.macAt pm) f.wFmt f.sparse f.forceDense
      let s := loadImageArea fn f pg s
      (match sh.ticket with | some t => completeSt t stOk s | none => s)
    | _, _ => s) s

/-- Backed resident frames above a lowered quota are evicted while no execution of the function is in progress (R286), by the victim
rule: not those that an execution prepared or being prepared names (R290). -/
def evictExcess (s : State) : State :=
  let pairs := (s.fm.frames.map (fun x => (x.1 / 2 ^ 21, x.2.core))).eraseDups
  pairs.foldl (fun s p =>
    if s.fnRunning p.1 then s
    else (evictUntil p.1 p.2 (fun lf => s.namedNext p.1 lf) (fun s => s.quotaUsed p.1 p.2 ≤ framesOf (s.fmCfg p.1)) 64 [] s).2) s

/-! ## Preparing an execution (R290, R291, R518) -/

/-- A page that the plan counts sparse is no longer eligible, or its extent exceeds what the plan budgeted. -/
def planStale (s : State) (fn : Nat) (p : Plan) : Bool :=
  p.frames.any (fun x => x.2.2.1 && x.2.2.2 != 0 &&
    match s.frame? fn x.1 with
    | none => false
    | some f => !(sparseFmt f.wFmt && f.rowsHdr ≤ 7 && !f.forceDense && f.density < p.thresh) || x.2.2.2 < 8 * f.rowsHdr)

/-- The plan leaves the cache and the execution goes back to its Admission Engine (R518, Table 8-15). -/
def readmit (e : Exec) (s : State) : State :=
  let sub : Sub := { id := some e.id, ticket := e.ticket, graphVa := e.plan.key.graphVa, part := e.plan.key.part, xs := e.xs,
                     startTick := e.startTick, phase := .check }
  let s := dropExec e.id s
  let a := e.ticket.fn % 8
  { s with adm := { s.adm with plans := s.adm.plans.filter (fun p => p.key != e.plan.key),
                               aes := s.adm.aes.mapIdx (fun i ae => if i = a then { ae with subs := sub :: ae.subs } else ae) } }

/-- Build a macro of the other layout from the page's current weights (R164, R517, R518). -/
def buildCompanion (fn lf : Nat) (f : Frame) (sparse : Bool) (m : Nat) (s : State) : State :=
  match f.source with
  | none => s
  | some (src, sp) =>
    let pg := pageOfMac (s.macAt (s.physMac f.core src)) f.wFmt sp f.forceDense
    let s := writePage fn f.core (s.physMac f.core m) sparse pg [] s
    s.setFrame fn lf { f with companion := some m }

/-- Zero a macro and give it the Position Store of another of its core where it is to be sparse (R192, R289). -/
def zeroAs (c m : Nat) (like : Option Nat) (sparse : Bool) (s : State) : State :=
  let s := zeroLogMac c m s
  let pm := s.physMac c m
  match like with
  | some k =>
    let src := s.macAt (s.physMac c k)
    if sparse then s.setMac pm { s.macAt pm with pos := src.pos, posTwo := src.posTwo } else s
  | none => s

/-- A shadow at its allocation: zero rows, and the Position Store of its frame where that is sparse (R192). -/
def newShadow (fn lf : Nat) (f : Frame) (m : Nat) (s : State) : State :=
  let s := zeroAs f.core m f.mac f.sparse s
  s.setFrame fn lf { f with shadow := some (s.openShadow f m none) }

/-- The shadow of the frame of the other layout at its allocation (R192). -/
def newCompShadow (fn lf : Nat) (f : Frame) (sh : Shadow) (m : Nat) (s : State) : State :=
  let s := zeroAs f.core m f.companion (!f.sparse) s
  let fresh := s.openShadow f sh.mac (some m)
  let st := shadowState sh.left fresh.compLeft (s.shadowRecal f.core sh.mac (some m))
  s.setFrame fn lf { f with shadow := some { fresh with left := sh.left, state := st } }

inductive PrepStep where
  | more | wait | stuck | done
  deriving DecidableEq, Repr

/-- Transfers of a function in flight on a die. -/
def State.transfers (s : State) (fn die : Nat) : Nat :=
  ((s.fm.paging.filter (fun e => dieOfCore e.1 = die)).map (fun e => (e.2.filter (fun p => p.fn = fn)).length)).sum

def addPaging (c : Nat) (p : Paging) (s : State) : State :=
  { s with fm := { s.fm with paging := tput s.fm.paging c (tgetD s.fm.paging c [] ++ [p]) } }

/-- Make room for one more macro of the function on a core: whether there is room now, a page-out has begun, or the
execution must wait, or no victim's image area is reachable. -/
def makeRoom (e : Exec) (c : Nat) : Nat → List Nat → State → PrepStep × State
  | 0, _, s => (.wait, s)
  | n + 1, skip, s =>
    let fn := e.ticket.fn
    if s.quotaUsed fn c < framesOf (s.fmCfg fn) && s.freeMacs c != [] then (.done, s)
    else if (tgetD s.fm.paging c []).any (fun p => p.fn == fn && p.out) then (.wait, s)
    else
      match s.victim fn c (fun lf => e.names lf || s.namedRunning fn lf || skip.contains lf) with
      | none => (if skip = [] then .wait else .stuck, s)
      | some lf =>
        match s.frame? fn lf with
        | none => (.wait, s)
        | some f =>
          if !f.dirty then makeRoom e c n skip (evictFrame fn lf s)
          else if !s.imageOk fn f.backVa 33024 then
            makeRoom e c n (lf :: skip) (raiseMem 0x0301 fn (dieOfCore c) (some c) (s.winOf fn f.backVa) f.backVa s)
          else if s.transfers fn (dieOfCore c) < pageSlotsOf (s.fmCfg fn) then
            (.wait, addPaging c { fn := fn, frame := lf, out := true, sparse := f.sparse } s)
          else (.wait, s)

/-- One frame of the plan: resident in the layout the plan counts, with its shadow where a SWAP names it. -/
def prepareFrame (e : Exec) (x : Nat × Nat × Bool × Nat) (s : State) : PrepStep × State :=
  let fn := e.ticket.fn
  let c := x.2.1
  match s.frame? fn x.1 with
  | none => (.done, s)
  | some f =>
    if f.state = .evicted then
      if s.pagingOf fn x.1 then (.wait, s)
      else
        let (r, s) := makeRoom e c 64 [] s
        if r = .done then
          if s.transfers fn (dieOfCore c) < pageSlotsOf (s.fmCfg fn) then
            match (s.freeMacs c)[0]? with
            | none => (.wait, s)
            | some m =>
              (.wait, addPaging c { fn := fn, frame := x.1, out := false, sparse := x.2.2.1 }
                ((zeroLogMac c m s).setFrame fn x.1 { f with state := .loading, mac := some m }))
          else (.wait, s)
        else (r, s)
    else if !isHeld f.state then (.wait, s)
    else if x.2.2.2 ≠ 0 && (f.macFor x.2.2.1).isNone then
      let (r, s) := makeRoom e c 64 [] s
      match r, (s.freeMacs c)[0]? with
      | .done, some m => (.done, buildCompanion fn x.1 f x.2.2.1 m s)
      | _, _ => (r, s)
    else (.done, s)

/-- The shadow of the frame of the other layout that a plan's SWAP needs, where the page has frames of both (R192). -/
def prepareCompShadow (e : Exec) (lf : Nat) (s : State) : PrepStep × State :=
  let fn := e.ticket.fn
  match s.frame? fn lf with
  | none => (.done, s)
  | some f =>
    match f.shadow with
    | none => (.done, s)
    | some sh =>
      if f.companion.isSome && sh.compMac.isNone && !sh.host then
        let (r, s) := makeRoom e f.core 64 [] s
        match r, (s.freeMacs f.core)[0]? with
        | .done, some m => (.done, newCompShadow fn lf f sh m s)
        | _, _ => (r, s)
      else (.done, s)

/-- The shadows a plan's SWAP tasks need: one for each frame of the page. -/
def prepareShadow (e : Exec) (lf : Nat) (s : State) : PrepStep × State :=
  let fn := e.ticket.fn
  match s.frame? fn lf with
  | none => (.done, s)
  | some f =>
    if f.shadow.any (·.host) then (.wait, s)
    else if f.shadow.isSome then prepareCompShadow e lf s
    else
      let (r, s) := makeRoom e f.core 64 [] s
      match r, (s.freeMacs f.core)[0]? with
      | .done, some m => prepareCompShadow e lf (newShadow fn lf f m s)
      | _, _ => (r, s)

/-- The combined outcome of two preparations. -/
def PrepStep.join : PrepStep → PrepStep → PrepStep
  | .stuck, _ => .stuck
  | _, .stuck => .stuck
  | .done, r => r
  | r, .done => r
  | _, _ => .wait

/-- Prepare the next execution of a function on a partition as far as it goes now. Once its frames are resident the FM reports it,
which for R259 is the time of its admission. -/
def prepareNext (fn p : Nat) (s : State) : State :=
  match s.nextExec fn p with
  | none => s
  | some e =>
    if e.phase = .prepared then s
    else if planStale s fn e.plan then readmit e s
    else
      let r := e.plan.frames.foldl (fun (a : PrepStep × State) x =>
        let (q, s) := prepareFrame e x a.2
        (a.1.join q, s)) (PrepStep.done, s)
      let r := if r.1 = .done then
          e.plan.swaps.foldl (fun (a : PrepStep × State) lf =>
            let (q, s) := prepareShadow e lf a.2
            (a.1.join q, s)) r
        else r
      match r.1 with
      | .done => setExec { e with phase := .prepared, admitted := r.2.tick.st } r.2
      | .stuck => absorbExec true e.id r.2
      | _ => r.2

/-- EXECUTION_PREPARE (R290, R518). -/
def execExecutionPrepare (fn part : Nat) (s : State) : Host.Outcome State Fault Refusal :=
  .next (prepareNext fn part s)

/-- Continue every preparation of a function. -/
def continuePrepare (fn : Nat) (s : State) : State :=
  (s.adm.execs.filter (fun e => e.ticket.fn = fn ∧ e.phase = .queued)).foldl
    (fun s e => prepareNext fn e.plan.key.part s) s

/-- A macro of the frame is fenced by maintenance (R396). -/
def State.frameFenced (s : State) (fn lf : Nat) : Bool :=
  match s.frame? fn lf with
  | none => false
  | some f => f.macsHeld.any (fun m => s.fenced (s.physMac f.core m))

/-- Take a transfer off a core's list. -/
def endPaging (c : Nat) (p : Paging) (s : State) : State :=
  { s with fm := { s.fm with paging := tput s.fm.paging c ((tgetD s.fm.paging c []).filter (· != p)) } }

/-- PAGE_OUT (R290, R291): the core's page-out completes; the victim is EVICTED. One whose image area has become
unreachable stays resident, with 0x0301 (R288). -/
def pageOutEffect (core : Nat) (flips : List CellFlip) (s : State) : State :=
  match (tgetD s.fm.paging core []).find? (fun p => p.out) with
  | none => s
  | some p =>
    if s.frameFenced p.fn p.frame then s
    else retryWaits (continuePrepare p.fn (evictOne p.fn p.frame flips (endPaging core p s)).2)

/-- PAGE_OUT (R290). -/
def execPageOut (core : Nat) (flips : List CellFlip) (s : State) : Host.Outcome State Fault Refusal :=
  .next (pageOutEffect core flips s)

/-- The layout a page-in builds: what the plan counts, where the page allows it. -/
def pageInFrame (fn lf : Nat) (f : Frame) (sparse : Bool) (flips : List CellFlip) (s : State) : State :=
  match f.mac with
  | none => s
  | some m =>
    let s := addMmuStat fn 15 0 1 s
    if !s.rangeOk fn 0 f.backVa 33024 false then
      raiseMem 0x0301 fn (dieOfCore f.core) (some f.core) (s.winOf fn f.backVa) f.backVa (s.setFrame fn lf { f with state := .lost })
    else
      let (pg, s) := readPage fn 0 (f.backVa + 256) s
      match pg with
      | none =>
        raise { EventRec.mk' 0x0305 with fn := some fn, unit := some f.core, info := some lf, addr := f.backVa }
          (s.setFrame fn lf { f with state := .lost })
      | some pg =>
        let sp := sparse && pageSparseOk pg.hdr
        let s := writePage fn f.core (s.physMac f.core m) sp pg flips s
        s.setFrame fn lf { f.withHdr pg.hdr with state := if pg.hdr.wFmt = 0 then .empty else .resident, sparse := sp,
                                                 companion := none, dirty := false }

/-- PAGE_IN (R290, R291): the core's page-in completes; the frame is RESIDENT, or LOST (R288, R297). -/
def pageInEffect (core : Nat) (flips : List CellFlip) (s : State) : State :=
  match (tgetD s.fm.paging core []).find? (fun p => !p.out) with
  | none => s
  | some p =>
    if s.frameFenced p.fn p.frame then s
    else
    let s := endPaging core p s
    match s.frame? p.fn p.frame with
    | none => s
    | some f =>
      let s := pageInFrame p.fn p.frame f p.sparse flips s
      -- R518: an image of another page than the plan counted sends the execution back to its Admission Engine
      retryWaits (continuePrepare p.fn s)

/-- PAGE_IN (R290). -/
def execPageIn (core : Nat) (flips : List CellFlip) (s : State) : Host.Outcome State Fault Refusal :=
  .next (pageInEffect core flips s)

end Sys2Proof.Machine
end

