-- ==== Sys2Proof/Machine/Graph.lean ====
section
/-!
DEFINITION. Task graphs in memory (R235-R240, Tables 7-2, 7-7, 8-1 to 8-6): reading the structures, and the checks of
their fields (R15, R118, R123, R130, R136, R147, R191, R197, R242, R515). A check is a byte offset and whether the field
there is well formed; the first that is not gives INFO of the refusal (R496).
-/

namespace Sys2Proof.Machine

open Sys2Proof

/-! ## Formats and operands of a task -/

/-- The format of the output: FP32 where the result is not requantised. -/
def Task.oFmt (t : Task) : Nat := if t.requant then t.outFmt else 0x01

/-- A zero-point slice is present (R93). -/
def Task.zp (t : Task) : Bool := t.isCount && t.fr.aZp != 0

/-- The largest slice count of the plan (R87). -/
def Task.sMax (t : Task) : Nat := (List.range 16).foldl (fun m g => max m (slicesOf t.slicePlan g)) 0

/-- Memory level of a DVA (Table 9-1); 0 names an accumulator tile of a COPY task (R107, log entry 13), at
DVA 0xC000_0000_0000 + 2,048 × tile. -/
def levelOf (dva : Nat) : Nat :=
  match dva / 2 ^ 44 with
  | 8 => 1
  | 9 => 2
  | 10 => 4
  | 11 => 5
  | n => if n < 8 then 3 else 0

/-- The tile that a level-0 operand names. -/
def tileOf (dva : Nat) : Nat := dva % 2 ^ 44 / 2048

def srMode (c : Nat) : Nat := bitsOf c 1 0
def srN (c : Nat) : Nat := bitsOf c 6 2
def srBoost (c : Nat) : Nat := bitsOf c 8 7
def srPcnt (c : Nat) : Nat := bitsOf c 15 9
def srThresh (c : Nat) : Nat := bitsOf c 31 16

/-- A task whose output takes a Scale Record (R136). -/
def Task.scaled (t : Task) : Bool := t.requant && t.fr.srec != 0

/-- AUTO resolved (R137): PREPASS for outputs at levels 4 and 5. -/
def resolveMode (ctl oVa : Nat) : Nat :=
  if srMode ctl = 0 then (if levelOf oVa = 4 ∨ levelOf oVa = 5 then 2 else 1) else srMode ctl

def Task.prepass (t : Task) : Bool := t.scaled && resolveMode t.fr.scaleCtl t.oVa == 2
def Task.history (t : Task) : Bool := t.scaled && resolveMode t.fr.scaleCtl t.oVa == 1

/-- Planes of the weights a task's W granules name; a SWAP task without a weight format takes one frame a column block
(log entry 14). -/
def Task.planesW (t : Task) : Nat := if t.isSwap && t.fr.wFmt == 0 then 4 else planes t.fr.wFmt

/-! ## Parsing -/

def va48 (n : Nat) : Bool := n < 2 ^ 48

/-- Field of `n` bytes at byte offset `o` of a structure read as a number. -/
abbrev stF := entF

def parseGraph (g : Nat) : GraphD :=
  { feature := stF g 0 1, flags := stF g 1 1, nStages := stF g 2 2, nTasks := stF g 4 2, nGates := stF g 6 2,
    nEdges := stF g 8 4, nFrec := stF g 0x0C 2, gateBase := stF g 0x0E 2, tag := stF g 0x10 4, taskVa := stF g 0x18 8,
    opndVa := stF g 0x20 8, edgeVa := stF g 0x28 8, frecVa := stF g 0x30 8, auxVa := stF g 0x38 8 }

/-- The bucket lists: index d holds E_d up to its first zero entry (Table 7-7); index 0 is unused. -/
def parseBuckets (b : Nat) : List (List Nat) :=
  [] :: (List.range 7).map (fun i => ((List.range 8).map (fun j => stF b (0x20 * (i + 1) + 4 * j) 4)).takeWhile (· != 0))

def parseLoop (l : Nat) : LoopD :=
  { bound := bitsOf l 19 0, order := bitsOf l 22 20, bind := bitsOf l 25 23, bkt := bitsOf l 28 26, indir := bitOf l 29,
    reverse := bitOf l 30, serp := bitOf l 31, sA := signed 24 (bitsOf l 55 32), sW := signed 24 (bitsOf l 79 56),
    sO := signed 24 (bitsOf l 103 80), rsv := bitsOf l 127 104 }

def parseFormat (f va : Nat) : FormatRec :=
  { aFmt := stF f 0 1, aZp := stF f 1 1, wFmt := stF f 2 1, wFlags := stF f 3 1, oZp := stF f 4 1, t0 := stF f 5 1,
    t1 := stF f 6 1, scaleCtl := stF f 8 4, bgCoef := stF f 0x10 8, aHdr := stF f 0x18 8, oHdr := stF f 0x20 8,
    wScale := stF f 0x28 8, srec := stF f 0x30 8, recVa := va }

def parseTask (td op : Nat) (opndVa : Nat) (fr : FormatRec) : Task :=
  { slicePlan := stF td 0 8, accCtl := stF td 8 4, egress := stF td 0x0C 4, wop := stF td 0x10 4,
    rescale := BitVec.ofNat 32 (stF td 0x14 4), ctl := stF td 0x18 4,
    loops := (List.range 6).map (fun l => parseLoop (stF td (0x20 + 16 * l) 16)),
    aVa := stF op 0 8, oVa := stF op 8 8, addVa := stF op 0x10 8, mulVa := stF op 0x18 8, idxVa := stF op 0x20 8,
    wBase := stF op 0x28 4 % 2 ^ 24, boundM := stF op 0x2C 4, boundN := stF op 0x30 4, boundK := stF op 0x34 4,
    seSlots := stF op 0x38 2, hint := stF op 0x3A 1, ring := stF op 0x3B 1, opndVa := opndVa, fr := fr }

def parseEdge (e : Nat) : Edge :=
  { cons := bitsOf e 13 0, prod := bitsOf e 27 14, kind := bitsOf e 29 28, gate := bitsOf e 45 32, aux := bitsOf e 57 46 }

def parseStage (e : Nat) : StageEnt :=
  { core := bitsOf e 10 0, asKib := bitsOf e 25 16, cmKib := bitsOf e 38 26 }

/-! ## Field checks -/

/-- The offset of the first field that is not well formed. -/
def firstBad (l : List (Nat × Bool)) : Option Nat := (l.find? (fun c => !c.2)).map (·.1)

/-- Step 1 of R242. -/
def graphChecks (n : Nat) (g : GraphD) : List (Nat × Bool) :=
  [ (0x00, 1 ≤ g.feature && g.feature ≤ 4), (0x01, g.flags < 2),
    (0x02, g.nStages ≤ 2048 && (1 ≤ g.nStages || g.nTasks == 0)), (0x04, g.nTasks ≤ 16384), (0x06, g.nGates ≤ 16384),
    (0x08, g.nEdges ≤ 262144), (0x0C, 1 ≤ g.nFrec || g.nTasks == 0),
    (0x0E, g.gateBase < 2 ^ 14 && g.gateBase + g.nGates ≤ 16384), (0x14, stF n 0x14 4 == 0),
    (0x18, va48 g.taskVa && g.taskVa % 128 == 0), (0x20, va48 g.opndVa && g.opndVa % 64 == 0),
    (0x28, va48 g.edgeVa && g.edgeVa % 8 == 0), (0x30, va48 g.frecVa && g.frecVa % 64 == 0),
    (0x38, va48 g.auxVa && g.auxVa % 256 == 0) ]

/-- The Bucket Table of R228: reserved bytes zero; the nonzero entries of a list rise strictly; zeros after the first
zero. -/
def bucketChecks (b : Nat) : List (Nat × Bool) :=
  (List.range 8).map (fun i => (4 * i, stF b (4 * i) 4 == 0)) ++
  (List.range 7).flatMap (fun i => (List.range 7).map (fun j =>
    let o := 0x20 * (i + 1) + 4 * j
    (o + 4, stF b (o + 4) 4 == 0 || (stF b o 4 != 0 && stF b o 4 < stF b (o + 4) 4))))

/-- The Task Descriptor; `n` the extent of R191 in elements. A count task with BAND_SEG = 0 may have any extent: Table 7-6 and R222
let one step count more than 16 segments (DEDUCED, log entry 94). -/
def tdChecks (td : Nat) (t : Task) (g : GraphD) (n : Nat) : List (Nat × Bool) :=
  let mac := t.kind == 0
  [ (0x00, if mac then slicePlanOk t.slicePlan else t.slicePlan == 0), (0x08, t.accCtl < 2 ^ 17 && (mac || t.accCtl == 0)),
    (0x0C, t.egress < 2 ^ 16 && bitsOf t.egress 7 6 == 0 && (if t.requant then outFmtOk t.outFmt else t.outFmt == 0)),
    (0x10, if mac then
        t.wop < 2 ^ 20 && bitsOf t.wop 7 6 == 0 && bitsOf t.wop 1 0 == 0 && t.op != 3 && (!t.transposed || t.op == 0) &&
        (if t.isWrite then t.laneFirst < lanes t.fr.wFmt else t.laneFirst == 0) &&
        ((t.isCount && t.bandSeg == 0) || t.bandSeg + ceilDiv n 64 ≤ 16)
      else t.wop == 0),
    (0x18, bitsOf t.ctl 31 28 == 0 && bitsOf t.ctl 15 11 == 0 && t.stage < g.nStages && t.densB ≤ 64 && t.kind != 3),
    (0x1C, stF td 0x1C 2 < g.nFrec), (0x1E, stF td 0x1E 2 == 0) ]

/-- The Operand Record; A and O bases of the operands a task has are aligned to 256 bytes (R212, log entry 15). -/
def oprChecks (op : Nat) (t : Task) : List (Nat × Bool) :=
  let al (va : Nat) : Bool := va48 va && va % 256 == 0
  let useA := t.isCount || t.isWrite || t.isCopy
  let useO := t.isCount || t.isCopy
  [ (0x00, va48 t.aVa && (!useA || al t.aVa)), (0x08, va48 t.oVa && (!useO || al t.oVa)),
    (0x10, va48 t.addVa && (!t.addEn || t.addVa != 0)), (0x18, va48 t.mulVa && (!t.mulEn || t.mulVa != 0)),
    (0x20, va48 t.idxVa), (0x28, stF op 0x28 4 < 2 ^ 24), (0x3B, t.ring < 128), (0x3C, stF op 0x3C 4 == 0) ]

/-- Weight formats of a transposed count (R197). -/
def transposedFmt (f : Nat) : Bool := [0x12, 0x14, 0x18, 0x21, 0x34].contains f

def zpOk (f z top : Nat) : Bool := if isUint f then z < 2 ^ fmtW f - top else z == 0

/-- Whether a Scale Record is wanted: INT and BG outputs need one, block outputs must have none (R136). -/
def srecOk (t : Task) : Bool :=
  !t.requant || (if isBlock t.outFmt then t.fr.srec == 0 else isFloat t.outFmt || t.fr.srec != 0)

def tableFmt (f : Nat) : Bool := f == 0 || f == 0x34 || f == 0x41 || f == 0x42

/-- The Format Record. -/
def frChecks (f : Nat) (t : Task) : List (Nat × Bool) :=
  let r := t.fr
  let bgTable := r.t0 == 0x34 || r.t1 == 0x34
  let hist := t.history
  [ (0x00, if t.isCount then aFmtOk r.aFmt else if t.isWrite then r.aFmt == r.wFmt
           else if t.isCopy then fmtKnown r.aFmt else r.aFmt == 0),
    (0x01, zpOk r.aFmt r.aZp 0 && (!t.transposed || r.aZp == 0)),
    (0x02, (if t.isCount || t.isWrite then wFmtOk r.wFmt else if t.isSwap then r.wFmt == 0 || wFmtOk r.wFmt else r.wFmt == 0) &&
           (!t.transposed || transposedFmt r.wFmt) && (!bgTable || r.wFmt == 0)),
    (0x03, r.wFlags < 2 && (!t.transposed || r.wFlags == 0)),
    (0x04, if t.requant then zpOk t.outFmt r.oZp 1 else r.oZp == 0),
    (0x05, tableFmt r.t0), (0x06, tableFmt r.t1 && !(r.t0 == 0x34 && r.t1 == 0x34)), (0x07, stF f 7 1 == 0),
    (0x08, srMode r.scaleCtl != 3 && (r.srec == 0 || srPcnt r.scaleCtl != 0) &&
           (!hist || (1 ≤ srN r.scaleCtl && srN r.scaleCtl ≤ 16))),
    (0x0C, stF f 0x0C 4 == 0), (0x10, if isBg r.wFmt then bgOk r.wFmt r.bgCoef else r.bgCoef == 0),
    (0x18, va48 r.aHdr && r.aHdr % 32 == 0), (0x20, va48 r.oHdr && r.oHdr % 32 == 0),
    (0x28, va48 r.wScale && r.wScale % (if bgTable then 32 else 4) == 0),
    (0x30, va48 r.srec && r.srec % 64 == 0 && srecOk t) ]

/-! ## Reading structures as an Admission Engine does -/

/-- A structure of `n` bytes as a number: `none` where a byte of it is out of window or poisoned (log entry 16). -/
def readStruct (fn p va n : Nat) (s : State) : Option Nat × State :=
  if !s.rangeOk fn p va n false then (none, s)
  else
    let r := readBytes fn p none va n s
    (if r.2.1 then none else some (ofLE r.1), r.2.2)

end Sys2Proof.Machine
end

