-- ==== Sys2Proof/Machine/Nest.lean ====
section
/-!
DEFINITION. Loop nests (chapter 7): inert levels, walk dimensions, bucket expansion, the walk of steps, the granules of
a step, the frames of a W granule, staging buffers, and the checks of R233 in their fixed order.
-/

namespace Sys2Proof.Machine

open Sys2Proof

/-! ## Levels (R214-R217, R227) -/

def loopNone : LoopD :=
  { bound := 1, order := 0, bind := 0, bkt := 0, indir := false, reverse := false, serp := false, sA := 0, sW := 0, sO := 0,
    rsv := 0 }

def loopAt (ls : List LoopD) (l : Nat) : LoopD := ls.getD l loopNone

/-- An inert level (R214). -/
def inertAt (ls : List LoopD) (l : Nat) : Bool :=
  let d := loopAt ls l
  d.bound == 1 && d.sA == 0 && d.sW == 0 && d.sO == 0 && d.bkt == 0 && !d.indir && !d.reverse && !d.serp &&
  (l == 0 || d.bind == (loopAt ls (l - 1)).bind)

/-- The walk dimension: 0 M, 1 N, 2 K; 3 for an inert level (Table 7-3). -/
def dimAt (ls : List LoopD) (l : Nat) : Nat := if inertAt ls l then 3 else (loopAt ls l).order / 2

/-- The dimensions that ORDER declares inside the level, outer first. -/
def innerDims (o : Nat) : Nat × Nat :=
  match o with
  | 0 => (1, 2)
  | 1 => (2, 1)
  | 2 => (0, 2)
  | 3 => (2, 0)
  | 4 => (0, 1)
  | _ => (1, 0)

def spatialAt (ls : List LoopD) (l : Nat) : Bool := !inertAt ls l && (loopAt ls l).bind == 0
def temporalAt (ls : List LoopD) (l : Nat) : Bool := !inertAt ls l && (loopAt ls l).bind != 0

/-- Levels 0 to nSpatial - 1 are carried out within one step (R218). -/
def nSpatial (ls : List LoopD) : Nat := if spatialAt ls 1 then 2 else if spatialAt ls 0 then 1 else 0

/-- Elements of a granule along a dimension. -/
def gran (d : Nat) : Nat := if d = 0 then 8 else 64

def prodN (l : List Nat) : Nat := l.foldl (· * ·) 1

/-- span(l) of R217. -/
def spanAt (ls : List LoopD) (trips : List Nat) (l : Nat) : Nat :=
  prodN (((List.range l).filter (fun j => dimAt ls j == dimAt ls l)).map (fun j => trips.getD j 1))

/-- The extent of a dynamic dimension. -/
def extentOf (bt : List (List Nat)) (d b : Nat) : Nat := (bt.getD d []).getD b 0

/-- Trip counts after bucket expansion: `ext d` is the extent of dynamic dimension d. A dynamic level over a span of 0 takes 0 trips
(DESIGN CHOICE, log entry 104). -/
def tripsWith (ls : List LoopD) (ext : Nat → Nat) : List Nat :=
  (List.range 6).foldl (fun ts l =>
    let d := loopAt ls l
    ts ++ [if d.bkt = 0 then d.bound else ceilDiv (ext d.bkt) (gran (dimAt ls l) * spanAt ls ts l)]) []

/-- The extents that a bucket vector selects; dimension d at position d - 1. -/
def bucketExt (bt : List (List Nat)) (bs : List Nat) (d : Nat) : Nat := extentOf bt d (bs.getD (d - 1) 0)

/-- The element bound of a dimension: the extent of the dynamic dimension that walks it, else the static bound. -/
def boundDim (t : Task) (ext : Nat → Nat) (dim : Nat) : Nat :=
  match (List.range 6).find? (fun l => dimAt t.loops l == dim && (loopAt t.loops l).bkt != 0) with
  | some l => ext (loopAt t.loops l).bkt
  | none => if dim = 0 then t.boundM else if dim = 1 then t.boundN else t.boundK

/-! ## The walk (R217, R218) -/

/-- Number of steps. -/
def nSteps (ls : List LoopD) (trips : List Nat) : Nat := if trips.contains 0 then 0 else prodN (trips.drop (nSpatial ls))

/-- The temporal trip indices of step `n`, level 0 first; spatial levels 0. -/
def stepTrips (ls : List LoopD) (trips : List Nat) (n : Nat) : List Nat :=
  let s := nSpatial ls
  (List.range 6).map (fun l =>
    if l < s then 0 else n / prodN ((trips.drop s).take (l - s)) % trips.getD l 1)

/-- position(l) of R217. -/
def posAt (ls : List LoopD) (trips t : List Nat) (l : Nat) : Nat :=
  let d := loopAt ls l
  let b := trips.getD l 1
  let p := t.getD l 0
  let p := if d.reverse then b - 1 - p else p
  if d.serp && t.getD (l + 1) 0 % 2 == 1 then b - 1 - p else p

/-- A combination of trip indices: granule coordinates and operand granule numbers, W without W_BASE. -/
structure Pt where
  mg : Nat
  ng : Nat
  kg : Nat
  qA : Int
  qW : Int
  qO : Int
  deriving DecidableEq, Repr

def coordOf (ls : List LoopD) (trips t : List Nat) (dim : Nat) : Nat :=
  (((List.range 6).filter (fun l => dimAt ls l == dim)).map (fun l => posAt ls trips t l * spanAt ls trips l)).sum

def offOf (ls : List LoopD) (trips : List Nat) (idx : Nat → Nat) (t : List Nat) (st : LoopD → Int) : Int :=
  ((List.range 6).map (fun l =>
    let p := posAt ls trips t l
    (if (loopAt ls l).indir then (idx p % 2 ^ 20 : Int) else (p : Int)) * st (loopAt ls l))).sum

def ptOf (ls : List LoopD) (trips : List Nat) (idx : Nat → Nat) (t : List Nat) : Pt :=
  { mg := coordOf ls trips t 0, ng := coordOf ls trips t 1, kg := coordOf ls trips t 2,
    qA := offOf ls trips idx t (·.sA), qW := offOf ls trips idx t (·.sW), qO := offOf ls trips idx t (·.sO) }

/-- The spatial combinations of a step. -/
def stepPts (ls : List LoopD) (trips : List Nat) (idx : Nat → Nat) (n : Nat) : List Pt :=
  let t := stepTrips ls trips n
  let s := nSpatial ls
  (List.range (if 2 ≤ s then trips.getD 1 1 else 1)).flatMap (fun j =>
    (List.range (if 1 ≤ s then trips.getD 0 1 else 1)).map (fun i =>
      ptOf ls trips idx (i :: j :: t.drop 2 |>.mapIdx (fun k v => if k < s then v else t.getD k 0))))

/-! ## Static offsets -/

/-- The lowest and highest offset over the non-INDIR trips of the levels below `n`. -/
def offRange (ls : List LoopD) (trips : List Nat) (n : Nat) (st : LoopD → Int) : Int × Int :=
  (List.range n).foldl (fun r l =>
    let d := loopAt ls l
    if d.indir then r
    else
      let e := st d * ((trips.getD l 1 : Int) - 1)
      (r.1 + min 0 e, r.2 + max 0 e)) (0, 0)

/-- Every static W granule number of a nest. -/
def staticW (t : Task) (trips : List Nat) : List Int :=
  if trips.contains 0 then []
  else
    (List.range 6).foldl (fun ws l =>
      let d := loopAt t.loops l
      if d.indir || d.sW == 0 then ws
      else (ws.flatMap (fun w => (List.range (trips.getD l 1)).map (fun (i : Nat) => w + (i : Int) * d.sW))).eraseDups) [(t.wBase : Int)]

/-- An address or a W granule number that a stride or an index forms: below zero it lies outside every window and frame. -/
def addr64 (n : Int) : Nat := (n % 2 ^ 64).toNat

def wNum (t : Task) (p : Pt) : Nat := addr64 ((t.wBase : Int) + p.qW)

/-! ## Frames of W granules (Table 7-5) -/

/-- The parts of a W granule: frame, first lane, first channel of the granule, lanes. -/
def wParts (p w : Nat) : List (Nat × Nat × Nat × Nat) :=
  let c := w / 16
  match p with
  | 1 => [(c / 4, 64 * (c % 4), 0, 64)]
  | 2 => [(c / 2, 64 * (c % 2), 0, 64)]
  | 3 => [(c, 0, 0, 64)]
  | 4 => [(c, 0, 0, 64)]
  | _ => [(2 * c, 0, 0, 32), (2 * c + 1, 0, 32, 32)]

/-- The W strides make the frames of a task depend on an index list (R224). -/
def Task.indexedW (t : Task) : Bool := t.loops.any (fun l => l.indir && l.sW != 0)

/-- The level that carries INDIR. -/
def Task.indirLevel (t : Task) : Option Nat := (List.range 6).find? (fun l => (loopAt t.loops l).indir)

/-- Frames a MACRO task names at static offsets; a negative W granule number names none (check 5 of R233 refuses it). -/
def Task.staticFrames (t : Task) (trips : List Nat) : List Nat :=
  if t.kind = 0 then
    (((staticW t trips).filter (0 ≤ ·)).flatMap (fun w => (wParts t.planesW w.toNat).map (·.1))).eraseDups
  else []

/-! ## Operands in bytes (Table 7-1) -/

def Task.unitA (t : Task) : Nat := if t.isWrite then 512 * fmtBits t.fr.wFmt else 64 * fmtBits t.fr.aFmt
def Task.unitO (t : Task) : Nat := 64 * fmtBits t.oFmt
def Task.unitE (t : Task) : Nat := if t.opndBf16 then 1024 else 2048

def Task.hasA (t : Task) : Bool := t.isCount || t.isWrite || t.isCopy
def Task.hasO (t : Task) : Bool := t.isCount || t.isCopy

/-- The data blocks of a range of granules: first byte and last. -/
def byteRange (va unit : Nat) (r : Int × Int) : Int × Int :=
  ((va : Int) + r.1 * unit / 256 * 256, (va : Int) + ((r.2 + 1) * unit + 255) / 256 * 256 - 1)

/-- A range of bytes lies inside the operand's window (check 5 of R233, R302). -/
def State.operandOk (s : State) (fn p va : Nat) (r : Int × Int) : Bool :=
  let off := va % 2 ^ 44
  let inside (base size : Nat) : Bool := (base : Int) ≤ r.1 && r.2 < (base : Int) + size
  match levelOf va with
  | 1 =>
    let core := off / 2 ^ 20
    s.fnHasCore fn core && inside (2 ^ 47 + core * 2 ^ 20) (16384 * as16kOf (s.fmCfg fn))
  | 2 =>
    let cl := off / 2 ^ 23
    s.fnHasCore fn (16 * cl) && inside (9 * 2 ^ 44 + cl * 2 ^ 23) (131072 * cm128kOf (s.fmCfg fn))
  | 3 =>
    match s.winOf fn va with
    | none => false
    | some w => inside (winBase2M (s.winCfg fn w) * 2 ^ 21) (winSize2M (s.winCfg fn w) * 2 ^ 21)
  | 4 =>
    let m := off / 2 ^ 32
    (m == s.moduleNo || (s.partMembers p).contains m) &&
    (match s.exchWin fn p with
     | none => false
     | some w => inside (10 * 2 ^ 44 + m * 2 ^ 32) (winSize2M (s.winCfg fn w) * 2 ^ 21))
  | 5 =>
    (match s.exchWin fn p with
     | none => false
     | some w => inside (11 * 2 ^ 44) ((s.partMembers p).length * winSize2M (s.winCfg fn w) * 2 ^ 21))
  | _ => va / 2 ^ 44 == 12 && inside (12 * 2 ^ 44) (8 * 2048)

/-! ## Staging (R223) -/

/-- The BIND of the next inner temporal level, 1 where there is none. -/
def innerBind (ls : List LoopD) (l : Nat) : Nat :=
  match ((List.range l).filter (temporalAt ls)).getLast? with
  | some j => (loopAt ls j).bind
  | none => 1

/-- Level l is a staging level of an operand of home level `home`. -/
def stagingAt (ls : List LoopD) (home l : Nat) : Bool :=
  temporalAt ls l && (loopAt ls l).bind ≤ home && innerBind ls l < (loopAt ls l).bind

/-- The staging level that is outermost (R223). -/
def outerStage (ls : List LoopD) (home : Nat) : Option Nat := ((List.range 6).filter (stagingAt ls home)).getLast?

/-- Steps of one trip of a temporal level, and the trip that holds a step. -/
def tripLen (ls : List LoopD) (trips : List Nat) (l : Nat) : Nat := prodN ((trips.drop (nSpatial ls)).take (l - nSpatial ls))
def tripOf (ls : List LoopD) (trips : List Nat) (l n : Nat) : Nat := n / tripLen ls trips l

/-- Bytes of one buffer of a staging level: the span from the lowest to the highest offset of its inner levels. -/
def bufBytes (ls : List LoopD) (trips : List Nat) (unit l : Nat) (st : LoopD → Int) : Nat :=
  let r := offRange ls trips l st
  ceilDiv ((r.2 - r.1 + 1).toNat * unit) 256 * 256

/-- The staging levels of an operand of home level `home` whose buffers lie at memory level `at_`. -/
def stagesAt (ls : List LoopD) (home at_ : Nat) : List Nat :=
  (List.range 6).filter (fun l => stagingAt ls home l && innerBind ls l == at_)

/-- Bytes of the staging buffers of an operand that lie at memory level `at_`: two per staging level. -/
def stagingBytes (ls : List LoopD) (trips : List Nat) (home unit at_ : Nat) (st : LoopD → Int) : Nat :=
  ((stagesAt ls home at_).map (fun l => 2 * bufBytes ls trips unit l st)).sum

def Task.staging (t : Task) (trips : List Nat) (at_ : Nat) : Nat :=
  (if t.hasA then stagingBytes t.loops trips (levelOf t.aVa) t.unitA at_ (·.sA) else 0) +
  (if t.hasO then stagingBytes t.loops trips (levelOf t.oVa) t.unitO at_ (·.sO) else 0)

/-! ## The checks of R233 -/

/-- A refusal by the nest checks: code, loop level, INFO. -/
structure NestBad where
  code  : Nat
  level : Nat
  info  : Option Nat
  deriving DecidableEq, Repr

def firstLevel (code : Nat) (bad : Nat → Bool) : Option NestBad :=
  ((List.range 6).find? bad).map (fun l => { code := code, level := l, info := some (0x20 + 16 * l) })

def noLevel (code : Nat) (info : Option Nat) (bad : Bool) : Option NestBad :=
  if bad then some { code := code, level := 0xFF, info := info } else none

/-- Check 1: the fields of a level (Table 7-2, R227, R232). -/
def fieldBad (ls : List LoopD) (bt : List (List Nat)) (l : Nat) : Bool :=
  let d := loopAt ls l
  5 < d.order || 5 < d.bind || d.rsv != 0 || (l == 5 && d.serp) ||
  (d.bkt != 0 &&
    match (bt.getD d.bkt []).getLast? with
    | none => true
    | some e => d.bound != ceilDiv e (gran (dimAt ls l) * spanAt ls (ls.map (·.bound)) l))

/-- Check 2: the structure at a level (R215, R220, R221, R223-R227). The placement rules of R227 for dynamic levels stand here, with
0x0111: the checks of R233 name no place for them (DESIGN CHOICE, log entry 103). -/
def structBad (t : Task) (l : Nat) : Bool :=
  let ls := t.loops
  let d := loopAt ls l
  let inner := (List.range l).filter (fun j => !inertAt ls j)
  let dim := dimAt ls l
  let dims := innerDims d.order
  let outermost (x : Nat) : Option Nat := (inner.filter (fun j => dimAt ls j == x)).getLast?
  let indirs := (List.range l).filter (fun j => (loopAt ls j).indir)
  !inertAt ls l && (
    -- R221
    (d.bind == 0 && (1 < l || inner.any (fun j => (loopAt ls j).bind != 0) || dim == 0 || d.bkt != 0 || d.indir || d.reverse ||
      d.serp || inner.any (fun j => dimAt ls j == dim))) ||
    (d.bind != 0 && d.bind < ((inner.filter (temporalAt ls)).map (fun j => (loopAt ls j).bind)).foldl max 0) ||
    -- R215
    (match outermost dims.1, outermost dims.2 with
     | some b, some c => b < c
     | _, _ => false) ||
    -- R224
    (d.indir && (d.bind == 0 || 1 < dim || indirs != [])) ||
    -- R227: a dynamic level is the outermost of its dimension, and its dimension agrees with the other levels of BKT
    (d.bkt != 0 && ((List.range 6).any (fun j => l < j && dimAt ls j == dim) ||
      inner.any (fun j => (loopAt ls j).bkt == d.bkt && dimAt ls j != dim))) ||
    -- R225, R226
    (dim == 2 && (d.indir || (!t.zarlon && (d.reverse || d.serp)))) ||
    -- R223
    (d.indir && (List.range 6).any (fun j => l < j &&
      ((t.hasA && d.sA != 0 && stagingAt ls (levelOf t.aVa) j) || (t.hasO && d.sO != 0 && stagingAt ls (levelOf t.oVa) j)))) ||
    -- R220
    (t.isWrite && dim == 0 && d.bound != 1)) ||
  (t.isWrite && d.sO != 0) || (t.isCopy && d.sW != 0)

/-- The home level of an operand is staged from (R223). -/
def homeBad (t : Task) (va : Nat) : Bool :=
  1 < levelOf va && !(List.range 6).any (fun l => temporalAt t.loops l && (loopAt t.loops l).bind == levelOf va)

def idxBad (t : Task) : Bool :=
  match t.indirLevel with
  | some _ => !(t.idxVa != 0 && (levelOf t.idxVa == 1 || levelOf t.idxVa == 2))
  | none => t.idxVa != 0

/-- Check 3: the spatial block at a level (Table 7-6, R222). -/
def spatialBad (t : Task) (trips : List Nat) (l : Nat) : Bool :=
  let ls := t.loops
  let d := loopAt ls l
  let b := trips.getD l 1
  let other := if l = 0 then 1 else 0
  let bo := if spatialAt ls other then trips.getD other 1 else 1
  let tiles := if t.zarlon then 64 else t.accSpan + 1
  let cross (bd : Nat) : Bool := d.sW == 0 || d.sW % 16 != 0 || d.sW.natAbs < 16 * ceilDiv bd 16
  let segs : Bool :=
    if b ≤ 16 then 16 - t.bandSeg < t.wBase % 16 + b else t.wBase % 16 != 0 || t.bandSeg != 0
  if spatialAt ls l then
    if dimAt ls l = 2 then
      d.sO != 0 || 1024 < b || (if t.transposed then cross bo else d.sW != 1 || segs)
    else d.sA != 0 || tiles < b || (if t.transposed then d.sW != 1 || segs else cross bo)
  else temporalAt ls l && d.sW % 16 != 0

/-- The segments of one step where no spatial level walks them: one granule. -/
def segBad (t : Task) : Bool :=
  let walks := if t.transposed then 1 else 2
  !((List.range 2).any (fun l => spatialAt t.loops l && dimAt t.loops l == walks)) && 16 - t.bandSeg < t.wBase % 16 + 1

/-- Every static W granule number names a frame below 2^21 and a segment inside the band. -/
def wRangeBad (t : Task) (trips : List Nat) : Bool :=
  (staticW t trips).any (fun w => w < 0 || (wParts t.planesW w.toNat).any (fun x => 2 ^ 21 ≤ x.1) ||
    15 < t.bandSeg + w.toNat % 16)

/-- ACCM rows of a Zarlon-mode task (R226, R302): the last row of the last granule, the first of the first. -/
def accmBad (t : Task) (trips : List Nat) (rows : Nat) : Bool :=
  let r := offRange t.loops trips 6 (·.sO)
  t.isCount && t.zarlon && !trips.contains 0 &&
  ((t.accmRow : Int) + 8 * r.1 < 0 || (min 512 rows : Int) ≤ (t.accmRow : Int) + 8 * r.2 + 7)

/-- The nest checks in their order. The rules of a check that belong to no level come after its levels (DESIGN CHOICE, log entry
105). -/
def nestCheck (s : State) (fn p core : Nat) (t : Task) (bt : List (List Nat)) (trips : List Nat) (kBound : Nat) : Option NestBad :=
  let static (st : LoopD → Int) := offRange t.loops trips 6 st
  let range (va unit : Nat) (st : LoopD → Int) : Bool :=
    !trips.contains 0 && !s.operandOk fn p va (byteRange va unit (static st))
  firstLevel 0x0110 (fieldBad t.loops bt) <|>
  firstLevel 0x0111 (structBad t) <|>
  noLevel 0x0111 (some 0x00) (t.hasA && homeBad t t.aVa) <|>
  noLevel 0x0111 (some 0x08) (t.hasO && homeBad t t.oVa) <|>
  noLevel 0x0111 (some 0x20) (idxBad t) <|>
  (if t.isCount then firstLevel 0x0113 (spatialBad t trips) <|> noLevel 0x0113 (some 0x28) (segBad t) else none) <|>
  noLevel 0x0113 (some 0x28) (t.kind == 0 && (t.staticFrames trips).any (fun lf =>
    match s.frame? fn lf with
    | some f => f.core != core
    | none => false)) <|>
  noLevel 0x0112 none ((t.isCount && !t.zarlon && 2 ^ 20 < ceilDiv kBound 64) || 2 ^ 40 < prodN trips) <|>
  noLevel 0x0114 (some 0x00) (t.hasA && range t.aVa t.unitA (·.sA)) <|>
  noLevel 0x0114 (some 0x28) (t.kind == 0 && wRangeBad t trips) <|>
  noLevel 0x0114 (some 0x08) (t.hasO && range t.oVa t.unitO (·.sO)) <|>
  noLevel 0x0114 (some 0x08) (accmBad t trips (64 * accmOf (s.fnPartEff fn p))) <|>
  (match t.indirLevel with
   | some l =>
     if trips.getD l 1 = 0 ∨ s.operandOk fn p t.idxVa ((t.idxVa : Int), (t.idxVa : Int) + 4 * trips.getD l 1 - 1) then none
     else some { code := 0x0114, level := l, info := some (0x20 + 16 * l) }
   | none => none)

end Sys2Proof.Machine
end

