-- ==== Sys2Proof/Machine/CoreState.lean ====
section
/-!
DEFINITION. Accumulator tiles and ACCM rows as the resets and the allotments handle them (R104, R109, R114, R301, R302),
the state of a core, and the plan cache's flush (R258).
-/

namespace Sys2Proof.Machine

open Sys2Proof

/-! ## Keys: physical tile and ACCM row -/

def accKey (tile tok ch : Nat) : Nat := tile * 512 + tok * 64 + ch
def accmKey (row ch : Nat) : Nat := row * 64 + ch

def pzero : PVal := { val := 0, poison := false }

/-- Tiles lo to lo + n - 1 return to +0, unpoisoned, with empty stacks. -/
def clearTiles (lo n : Nat) (c : Core) : Core :=
  { c with acc := tclear c.acc (lo * 512) (n * 512), stk := tclear c.stk (lo * 512) (n * 512),
           pushCtr := tclear c.pushCtr lo n }

def clearAccm (lo n : Nat) (c : Core) : Core := { c with accm := tclear c.accm (lo * 64) (n * 64) }

/-- Move the entries of `n` units of `w` keys from unit `a` to unit `b`. -/
def moved {α : Type} (t : Tab α) (w a b n : Nat) : Tab α :=
  (t.filter (fun e => a * w ≤ e.1 ∧ e.1 < (a + n) * w)).map (fun e => (e.1 - a * w + b * w, e.2))

/-- The allotments of the functions of a partition: first unit and count, ascending. -/
def allots (fns : List Nat) (q : Nat → Nat) : List (Nat × Nat × Nat) :=
  (fns.foldl (fun (a : List (Nat × Nat × Nat) × Nat) f => (a.1 ++ [(f, a.2, q f)], a.2 + q f)) ([], 0)).1

/-- Each function keeps the units below both its old and its new allotment; everything else is at its default. -/
def reallot {α : Type} (w : Nat) (old new : List (Nat × Nat × Nat)) (t : Tab α) : Tab α :=
  new.flatMap (fun x =>
    match old.find? (fun o => o.1 = x.1) with
    | none => []
    | some o => moved t w o.2.1 x.2.1 (min o.2.2 x.2.2))

/-! ## Owners of AS and CM lines -/

/-- The function whose allotment holds a physical line of `unit` lines each, in a partition. -/
def ownerIn (fns : List Nat) (q : Nat → Nat) (line : Nat) : Option Nat :=
  (allots fns q).findSome? (fun x => if x.2.1 ≤ line ∧ line < x.2.1 + x.2.2 then some x.1 else none)

def State.asOwner (s : State) (core line : Nat) : Option Nat :=
  match s.partOfCluster (clusterOfCore core) with
  | none => none
  | some p => ownerIn (s.partFns p) (fun f => 64 * as16kOf (s.fmCfg f)) line

def State.cmOwner (s : State) (cl line : Nat) : Option Nat :=
  match s.partOfCluster cl with
  | none => none
  | some p => ownerIn (s.partFns p) (fun f => 512 * cm128kOf (s.fmCfg f)) line

/-- Lines that leave a function's allotment lose their valid bit (AS) or are zeroed (CM) (R281, R311). -/
def clearMoved (before after : State) : State :=
  { after with mem := { after.mem with
      as := after.mem.as.filter (fun e => before.asOwner (e.1 / 2 ^ 11) (e.1 % 2 ^ 11) ==
        after.asOwner (e.1 / 2 ^ 11) (e.1 % 2 ^ 11)),
      cm := after.mem.cm.filter (fun e => before.cmOwner (e.1 / 2 ^ 14) (e.1 % 2 ^ 14) ==
        after.cmOwner (e.1 / 2 ^ 14) (e.1 % 2 ^ 14)) } }

/-- Clear the AS valid bits and zero the CM of clusters that join or leave a partition (R281, R488). -/
def clearClusters (cls : List Nat) (s : State) : State :=
  { s with mem := { s.mem with as := s.mem.as.filter (fun e => !cls.contains (clusterOfCore (e.1 / 2 ^ 11))),
                               cm := s.mem.cm.filter (fun e => !cls.contains (e.1 / 2 ^ 14)) } }

/-! ## The plan cache (R258) -/

/-- Remove the plans that satisfy `p`; executions queued of such a plan are admitted afresh (Table 8-15). -/
def flushPlans (p : Plan → Bool) (s : State) : State :=
  let back := s.adm.execs.filter (fun e => isQueued e.phase && p e.plan)
  let s := { s with adm := { s.adm with plans := s.adm.plans.filter (fun x => !p x) } }
  back.reverse.foldl (fun s e => readmit e s) s

/-- A plan names a physical gate. -/
def Plan.namesGate (p : Plan) (g : Nat) : Bool := p.gateBase ≤ g && g < p.gateBase + p.targets.length

/-! ## The state of one core (R74, R109, R267) -/

/-- Registers of a core return to their reset values. -/
def resetCoreRegs (c : Nat) (s : State) : State :=
  { s with reg := { s.reg with countCfg := tdel s.reg.countCfg c, countStat := tdel s.reg.countStat c,
                               tickStat := tdel s.reg.tickStat c, convStat := tdel s.reg.convStat c,
                               compStat := tdel s.reg.compStat c } }

/-- What a core reset does to the core: accumulators +0, empty stacks, ACCM +0, AS invalid, registers at reset. -/
def resetCoreState (c : Nat) (s : State) : State :=
  let s := resetCoreRegs c (s.setCore c Core.reset)
  { s with mem := { s.mem with as := tclear s.mem.as (asKey c 0) (2 ^ 11),
                               lines := s.mem.lines.map (fun e =>
                                 if e.1 / 2 ^ 34 = clusterOfCore c then
                                   (e.1, ({ e.2 with waiting := e.2.waiting.filter (fun x => x.1 != c) } : DirLine).drop c)
                                 else e) } }

end Sys2Proof.Machine
end

