-- ==== Sys2Proof/Machine/Gates.lean ====
section
/-!
DEFINITION. The Gate Array (R253-R255, R487, R519): the meanings of GATE_ARM, GATE_ARRIVE, GATE_WAIT, GATE_OWN and
GATE_OWNER_WRITE.
-/

namespace Sys2Proof.Machine

open Sys2Proof

/-! ## Arrivals and waiters -/

/-- Complete the host waiters of a gate whose COUNT has reached TARGET. -/
def meetWaiters (g : Nat) (s : State) : State :=
  let x := s.gate g
  if x.target ≤ x.count then
    let s := s.setGate g { x with waiters := [] }
    x.waiters.foldl (fun s t => complete { Compl.mk' t stOk with info := x.count } s) s
  else s

/-- COUNT := COUNT + n, saturating with 0x020C (R253). -/
def addArrivals (g n : Nat) (s : State) : State :=
  let x := s.gate g
  let s := s.setGate g { x with count := min (x.count + n) (2 ^ 32 - 1) }
  if 2 ^ 32 ≤ x.count + n then
    raise { EventRec.mk' 0x020C with fn := some x.owner, unit := some g, info := some 0 } s
  else s

/-- The partition whose boundary a gate's arrivals wait for: that of the execution in progress that armed it (R519). -/
def State.gatePart (s : State) (g : Nat) : Option Nat :=
  match (s.gate g).armedBy with
  | none => none
  | some id =>
    match s.exec? id with
    | some e => if e.phase = .running then some e.plan.key.part else none
    | none => none

/-- An arrival from the host or a remote module: at once, or at the first boundary whose lead point it reaches before
(R255, R519). -/
def arriveAt (g n : Nat) (t : Option Ticket) (s : State) : State :=
  match s.gatePart g with
  | none =>
    let s := meetWaiters g (addArrivals g n s)
    (match t with | some t => completeSt t stOk s | none => s)
  | some p =>
    let pt := s.part p
    let a : Arrival := { gate := g, n := n, part := p, after := if pt.lead then pt.tick + 2 else pt.tick + 1, ticket := t }
    { s with tick := { s.tick with arrivals := s.tick.arrivals ++ [a] } }

/-! ## Commands -/

/-- A gate command of the owner; any other function is DENIED (R254, R493). -/
def onGate (act : Nat → Nat → Ticket → State → State) (e : Nat) (t : Ticket) (s : State) : State :=
  let g := entF e 0x08 2 % 2 ^ 14
  if (s.gate g).owner ≠ t.fn then completeSt t stDenied s else act g e t s

def gateArmEffect (g e : Nat) (t : Ticket) (s : State) : State :=
  let s := s.setGate g { s.gate g with count := 0, target := entF e 0x0C 4 }
  let s := if s.gatePart g = none then meetWaiters g s else s
  completeSt t stOk s

/-- GATE_ARM (R253). -/
def execGateArm (fn q : Nat) (s : State) : Host.Outcome State Fault Refusal :=
  .next (onEntry opGateArm fn q (onGate gateArmEffect) s)

def gateArriveEffect (g e : Nat) (t : Ticket) (s : State) : State :=
  let n := entF e 0x0C 4
  if n = 0 ∨ 65536 < n then completeSt t stInvalid s else arriveAt g n (some t) s

/-- GATE_ARRIVE (R253, R255). -/
def execGateArrive (fn q : Nat) (s : State) : Host.Outcome State Fault Refusal :=
  .next (onEntry opGateArrive fn q (onGate gateArriveEffect) s)

/-- A gate that an execution in progress has armed is looked at at a boundary, also with TARGET 0 (R255; DESIGN CHOICE, log entry
106). -/
def gateWaitEffect (g _e : Nat) (t : Ticket) (s : State) : State :=
  let x := s.gate g
  if s.gatePart g = none ∧ x.target ≤ x.count then complete { Compl.mk' t stOk with info := x.count } s
  else if 16 ≤ x.waiters.length then completeSt t stGateBusy s
  else s.setGate g { x with waiters := x.waiters ++ [t] }

/-- GATE_WAIT (R253, R255). -/
def execGateWait (fn q : Nat) (s : State) : Host.Outcome State Fault Refusal :=
  .next (onEntry opGateWait fn q (onGate gateWaitEffect) s)

/-- The gate is armed by an execution queued or in progress: one whose plan names it. -/
def State.gateArmed (s : State) (g : Nat) : Bool :=
  s.adm.execs.any (fun e => (e.phase == .running || isQueued e.phase) && e.plan.namesGate g)

/-- A change of owner (R487): `none` where it is refused. Pending arrivals of the gate are discarded, and a GATE_ARRIVE
among them completes with ABORTED (Table 16-15). -/
def setOwner (g new : Nat) (s : State) : Option State :=
  let x := s.gate g
  if x.owner = new then some s
  else if s.gateArmed g || x.waiters != [] then none
  else
    let s := s.setGate g { x with count := 0, target := 0, owner := new }
    let gone := s.tick.arrivals.filter (fun a => a.gate = g)
    let s := { s with tick := { s.tick with arrivals := s.tick.arrivals.filter (fun a => a.gate ≠ g) } }
    let s := completeAll (gone.filterMap (·.ticket)) stAborted s
    some (flushPlans (fun p => p.namesGate g) s)

def gateOwnEffect (e : Nat) (t : Ticket) (s : State) : State :=
  match setOwner (entF e 0x08 2 % 2 ^ 14) (entFn e) s with
  | none => completeSt t stState s
  | some s => completeSt t stOk s

/-- GATE_OWN (R487). -/
def execGateOwn (fn q : Nat) (s : State) : Host.Outcome State Fault Refusal :=
  .next (onEntry opGateOwn fn q gateOwnEffect s)

/-- CFG_REJ of GATE_OWNER. -/
def setGateRej (g : Nat) (v : Bool) (s : State) : State :=
  { s with reg := { s.reg with gateCtl := tputD false s.reg.gateCtl g v } }

/-- A write of GATE_OWNER (Table 16-4). -/
def gateOwnerEffect (g : Nat) (value : Word) (s : State) : State :=
  let s := if value.getLsbD 31 then setGateRej g false s else s
  match setOwner g (bitsOf value.toNat 8 0) s with
  | none => setGateRej g true s
  | some s => s

/-- GATE_OWNER_WRITE (R487). -/
def execGateOwnerWrite (gate : Nat) (value : Word) (s : State) : Host.Outcome State Fault Refusal :=
  .next (if s.serving && gate < 16384 then gateOwnerEffect gate value s else s)

end Sys2Proof.Machine
end

