-- ==== Sys2Proof/Machine/Queues.lean ====
section
/-!
DEFINITION. Doorbells, queue pairs, the event queue and MSI-X (R303-R308, R490, R491): the meanings of SQ_TAIL, CQ_HEAD,
EQ_HEAD, CREATE_QP, DELETE_QP, CREATE_EQ, FN_AQ_CFG_WRITE, MSIX_UNMASK and COALESCING_TIMEOUT.
-/

namespace Sys2Proof.Machine

open Sys2Proof

/-! ## Fetching (R304, R305) -/

/-- Fetch the entry at the head of a pair; an unknown opcode completes with INVALID. -/
def HostIf.fetchOne (h : HostIf) (fn q : Nat) (p : QPair) : HostIf :=
  let bs := hostRead h.mem (p.sqBase + 64 * p.head) 64
  let hd := (p.head + 1) % 2 ^ p.sqLog2
  let e := ofLE bs
  let p := { p with head := hd, open_ := p.open_ + 1 }
  if (operandFields (entOp e)).isSome then
    { h with qps := tput h.qps (qkey fn q) { p with fetched := p.fetched ++ [{ bytes := bs, sqHead := hd }] } }
  else
    HostIf.complete { h with qps := tput h.qps (qkey fn q) p }
      (Compl.mk' { fn := fn, q := q, cid := entCid e, sqHead := hd } stInvalid)

/-- Fetch entries from the head up to the tail, at most `n`, each once; a full completion queue, or completions that wait
for space, stop the fetch. -/
def HostIf.fetch (h : HostIf) (fn q : Nat) : Nat → HostIf
  | 0 => h
  | n + 1 =>
    match tget h.qps (qkey fn q) with
    | none => h
    | some p =>
      if p.head = p.tail ∨ p.full ∨ p.ready ≠ [] ∨ p.deleting.isSome then h
      else (h.fetchOne fn q p).fetch fn q n

/-- Fetch everything the pair's tail asks for. -/
def HostIf.fetchAll (h : HostIf) (fn q : Nat) : HostIf :=
  match tget h.qps (qkey fn q) with
  | none => h
  | some p => h.fetch fn q (2 ^ p.sqLog2)

/-! ## Doorbells (R491) -/

/-- Count an ignored doorbell write in DB_ERRORS. -/
def HostIf.dbError (h : HostIf) (fn : Nat) : HostIf :=
  { h with dbErrors := tput h.dbErrors fn (satAdd (2 ^ 32 - 1) (tgetD h.dbErrors fn 0) 1) }

/-- A doorbell index is well formed: 32 bits wide, bits [31:16] zero, below the depth. -/
def doorbellOk (value : Word) (width depth : Nat) : Bool :=
  width == 32 && value.toNat < 65536 && value.toNat < depth

def sqTailEffect (fn q : Nat) (value : Word) (width : Nat) (s : State) : State :=
  if !s.fnEnabled fn then s
  else
    match tget s.host.qps (qkey fn q) with
    | none => { s with host := s.host.dbError fn }
    | some p =>
      if q < 8 && doorbellOk value width (2 ^ p.sqLog2) then
        { s with host := ({ s.host with qps := tput s.host.qps (qkey fn q) { p with tail := value.toNat } }).fetchAll fn q }
      else { s with host := s.host.dbError fn }

def cqHeadEffect (fn q : Nat) (value : Word) (width : Nat) (s : State) : State :=
  if !s.fnEnabled fn then s
  else
    match tget s.host.qps (qkey fn q) with
    | none => { s with host := s.host.dbError fn }
    | some p =>
      if q < 8 && doorbellOk value width (2 ^ p.cqLog2) then
        let h := { s.host with qps := tput s.host.qps (qkey fn q) { p with cqHead := value.toNat, ready := [] } }
        { s with host := ((h.postReady fn q p.ready).finishDelete fn q).fetchAll fn q }
      else { s with host := s.host.dbError fn }

def eqHeadEffect (fn : Nat) (value : Word) (width : Nat) (s : State) : State :=
  if !s.fnEnabled fn then s
  else
    match tget s.host.eqs fn with
    | none => { s with host := s.host.dbError fn }
    | some e =>
      if doorbellOk value width (2 ^ e.log2) then
        { s with host := { s.host with eqs := tput s.host.eqs fn { e with head := value.toNat } } }
      else { s with host := s.host.dbError fn }

/-- SQ_TAIL (R304, R491). The host's own writes to its memory come before the doorbell. -/
def execSqTail (fn q : Nat) (value : Word) (width : Nat) (host : List HostWrite) (s : State) :
    Host.Outcome State Fault Refusal :=
  .next (sqTailEffect fn q value width { s with host := s.host.hostWrites host })

/-- CQ_HEAD (R305, R491). -/
def execCqHead (fn q : Nat) (value : Word) (width : Nat) (s : State) : Host.Outcome State Fault Refusal :=
  .next (cqHeadEffect fn q value width s)

/-- EQ_HEAD (R491). -/
def execEqHead (fn : Nat) (value : Word) (width : Nat) (s : State) : Host.Outcome State Fault Refusal :=
  .next (eqHeadEffect fn value width s)

/-! ## Creating and deleting queues (R303, R490) -/

/-- A new pair: empty rings, phase 1 (R305). -/
def QPair.new (sqBase cqBase sqLog2 cqLog2 vec coalCnt coalUs : Nat) : QPair :=
  { sqBase := sqBase, cqBase := cqBase, sqLog2 := sqLog2, cqLog2 := cqLog2, head := 0, tail := 0, cqHead := 0,
    cqTail := 0, cqPhase := true, vec := vec, coalCnt := coalCnt, coalUs := coalUs, unsig := 0,
    fetched := [], ready := [], open_ := 0, deleting := none }

/-- A new event queue: empty, phase 1, SEQ from 0 (log entry 8). -/
def EQueue.new (base log2 vec coalCnt coalUs : Nat) : EQueue :=
  { base := base, log2 := log2, head := 0, tail := 0, phase := true, seq := 0, vec := vec, coalCnt := coalCnt,
    coalUs := coalUs, unsig := 0 }

/-- A depth code of a submission or completion queue. -/
def depthOk (n : Nat) : Bool := 4 ≤ n && n ≤ 12

def createQpEffect (fn e : Nat) (t : Ticket) (s : State) : State :=
  let q := entF e 0x08 1
  if 1 ≤ q ∧ q ≤ 7 ∧ q < qpairsMax s fn ∧ tget s.host.qps (qkey fn q) = none ∧ entF e 0x09 1 < 32 ∧
      depthOk (entF e 0x0C 1) ∧ depthOk (entF e 0x0D 1) ∧ entF e 0x10 8 % 4096 = 0 ∧ entF e 0x18 8 % 4096 = 0 then
    let p := QPair.new (entF e 0x10 8) (entF e 0x18 8) (entF e 0x0C 1) (entF e 0x0D 1) (entF e 0x09 1) (entF e 0x0A 1)
      (entF e 0x0B 1)
    completeSt t stOk { s with host := { s.host with qps := tput s.host.qps (qkey fn q) p } }
  else completeSt t stInvalid s

def deleteQpEffect (fn e : Nat) (t : Ticket) (s : State) : State :=
  let q := entF e 0x08 1
  match tget s.host.qps (qkey fn q) with
  | none => completeSt t stInvalid s
  | some p =>
    if 1 ≤ q ∧ q ≤ 7 ∧ p.deleting = none then
      { s with host := ({ s.host with qps := tput s.host.qps (qkey fn q) { p with deleting := some t } }).finishDelete fn q }
    else completeSt t stInvalid s

def createEqEffect (fn e : Nat) (t : Ticket) (s : State) : State :=
  if tget s.host.eqs fn = none ∧ entF e 0x09 1 < 32 ∧ 6 ≤ entF e 0x0C 1 ∧ entF e 0x0C 1 ≤ 16 ∧
      entF e 0x10 8 % 4096 = 0 then
    let eq := EQueue.new (entF e 0x10 8) (entF e 0x0C 1) (entF e 0x09 1) (entF e 0x0A 1) (entF e 0x0B 1)
    completeSt t stOk { s with host := { s.host with eqs := tput s.host.eqs fn eq } }
  else completeSt t stInvalid s

/-- CREATE_QP (R303, Table 10-3). -/
def execCreateQp (fn q : Nat) (s : State) : Host.Outcome State Fault Refusal :=
  .next (onEntry opCreateQp fn q (createQpEffect fn) s)

/-- DELETE_QP (R303): completes after every command of the pair has completed. -/
def execDeleteQp (fn q : Nat) (s : State) : Host.Outcome State Fault Refusal :=
  .next (onEntry opDeleteQp fn q (deleteQpEffect fn) s)

/-- CREATE_EQ (R303). -/
def execCreateEq (fn q : Nat) (s : State) : Host.Outcome State Fault Refusal :=
  .next (onEntry opCreateEq fn q (createEqEffect fn) s)

/-! ## The FN_AQ registers (R490, Table 16-7) -/

def aqCfgReset : Word := 0x11000000

def aqCfgOf (s : State) (fn : Nat) : Word := tgetD s.host.aqCfg fn aqCfgReset
def aqSqBaseOf (s : State) (fn : Nat) : Dword := tgetD s.host.aqSqBase fn 0
def aqCqBaseOf (s : State) (fn : Nat) : Dword := tgetD s.host.aqCqBase fn 0

def setAqCfg (fn : Nat) (v : Word) (s : State) : State := { s with host := { s.host with aqCfg := tput s.host.aqCfg fn v } }

/-- The RW fields of FN_AQ_CFG other than EN. -/
def aqRwMask : Word := 0x3FDFFFFF

/-- A write of FN_AQ_CFG: pair 0 in existence makes it ignored; EN = 1 creates pair 0 or is refused with CFG_REJ. -/
def fnAqCfgEffect (fn : Nat) (value : Word) (s : State) : State :=
  if !s.serving then s
  else if (tget s.host.qps (qkey fn 0)).isSome then s
  else
    let old := aqCfgOf s fn
    let rej := old.getLsbD 31 && !value.getLsbD 31
    let rejW : Word := if rej then 0x80000000 else 0
    if value.getLsbD 30 then
      let sq := bitsOf value.toNat 29 26
      let cq := bitsOf value.toNat 25 22
      if depthOk sq && depthOk cq && (aqSqBaseOf s fn).toNat % 4096 == 0 && (aqCqBaseOf s fn).toNat % 4096 == 0 &&
          s.fnEnabled fn then
        let p := QPair.new (aqSqBaseOf s fn).toNat (aqCqBaseOf s fn).toNat sq cq (bitsOf value.toNat 20 16)
          (bitsOf value.toNat 15 8) (bitsOf value.toNat 7 0)
        let s := setAqCfg fn ((value &&& aqRwMask) ||| 0x40000000 ||| rejW) s
        { s with host := { s.host with qps := tput s.host.qps (qkey fn 0) p } }
      else setAqCfg fn (old ||| 0x80000000) s
    else setAqCfg fn ((value &&& aqRwMask) ||| rejW) s

/-- FN_AQ_CFG_WRITE (R490). -/
def execFnAqCfgWrite (fn : Nat) (value : Word) (s : State) : Host.Outcome State Fault Refusal :=
  .next (fnAqCfgEffect fn value s)

/-- A write of FN_AQ_SQ_BASE or FN_AQ_CQ_BASE: ignored once pair 0 exists (R490). -/
def aqBaseEffect (fn : Nat) (cq : Bool) (value : Dword) (s : State) : State :=
  if !s.serving || (tget s.host.qps (qkey fn 0)).isSome then s
  else if cq then { s with host := { s.host with aqCqBase := tput s.host.aqCqBase fn value } }
  else { s with host := { s.host with aqSqBase := tput s.host.aqSqBase fn value } }

/-! ## MSI-X (R308) -/

/-- Unmask a vector; a pending message is sent. -/
def HostIf.unmask (h : HostIf) (fn v : Nat) : HostIf :=
  let e := h.msixEntry fn v
  let h := { h with msixTable := tput h.msixTable (fn * 32 + v) (e &&& ~~~(BitVec.ofNat 128 (2 ^ 96))) }
  let pend := tgetD h.msixPend fn 0
  if pend.getLsbD v then
    { h with msixPend := tput h.msixPend fn (pend &&& ~~~(BitVec.ofNat 32 (2 ^ v))), out := h.out ++ [.msix fn v] }
  else h

/-- MSIX_UNMASK (R308). -/
def execMsixUnmask (fn vector : Nat) (s : State) : Host.Outcome State Fault Refusal :=
  .next (if s.fnExists fn && vector < 32 then { s with host := s.host.unmask fn vector } else s)

/-- The oldest unsignalled entry of a queue has waited COAL_US: the message is sent. Queue 8 is the event queue. -/
def HostIf.coalesced (h : HostIf) (fn queue : Nat) : HostIf :=
  if queue < 8 then
    match tget h.qps (qkey fn queue) with
    | none => h
    | some p =>
      if p.unsig = 0 then h
      else ({ h with qps := tput h.qps (qkey fn queue) { p with unsig := 0 } }).signal fn p.vec
  else if queue = 8 then
    match tget h.eqs fn with
    | none => h
    | some e => if e.unsig = 0 then h else ({ h with eqs := tput h.eqs fn { e with unsig := 0 } }).signal fn e.vec
  else h

/-- COALESCING_TIMEOUT (R308). -/
def execCoalescingTimeout (fn queue : Nat) (s : State) : Host.Outcome State Fault Refusal :=
  .next { s with host := s.host.coalesced fn queue }

end Sys2Proof.Machine
end

