-- ==== Sys2Proof/Machine/Regs.lean ====
section
/-!
DEFINITION. The registers of BAR0 (R16-R19, R484-R490) and their own rows: the meanings of FM_FN_CFG_WRITE,
FN_PART_CFG_WRITE, TICK_CFG_WRITE, ADM_BUDGET_CFG_WRITE, PART_CL_WRITE and the CLR_STATS rows.
-/

namespace Sys2Proof.Machine

open Sys2Proof

/-! ## Fields of the partition registers -/

def tickCfgReset : Word := BitVec.ofNat 32 (0x14 * 1024 + 0x20)
def State.tickCfg (s : State) (p : Nat) : Nat := (tgetD s.reg.tickCfg p tickCfgReset).toNat
def State.tickCfgEff (s : State) (p : Nat) : Nat := (tgetD s.reg.tickCfgEff p tickCfgReset).toNat
def periodOf (v : Nat) : Nat := bitsOf v 9 0
def mwinOf (v : Nat) : Nat := bitsOf v 17 10
def State.rr (s : State) : Nat := bitsOf s.reg.budgetCfg.toNat 15 0

/-- The partition has a running tick: neither IDLE nor FROZEN (R519). -/
def State.partTicks (s : State) (p : Nat) : Bool :=
  match (s.part p).state with
  | .running => true
  | .parked => true
  | _ => false

/-! ## FN_PART_CFG (R300-R302) -/

/-- Move the accumulator tiles and ACCM rows of a partition's cores to new allotments (R301). -/
def reallotPart (p : Nat) (before : State) (after : State) : State :=
  let fo := before.partFns p
  let fn := after.partFns p
  let ot := allots fo (fun f => tilesOf (before.fnPartEff f p))
  let nt := allots fn (fun f => tilesOf (after.fnPartEff f p))
  let oa := allots fo (fun f => 64 * accmOf (before.fnPartEff f p))
  let na := allots fn (fun f => 64 * accmOf (after.fnPartEff f p))
  if ot = nt ∧ oa = na then after
  else mapCores (fun c => (after.partCores p).contains c) (fun c =>
    { c with acc := reallot 512 ot nt c.acc, stk := reallot 512 ot nt c.stk, pushCtr := reallot 1 ot nt c.pushCtr,
             accm := reallot 64 oa na c.accm }) after

/-- Put an effective value of FN_PART_CFG in place: allotments move with it. -/
def setFnPartEff (f p v : Nat) (s : State) : State :=
  let s' := { s with reg := { s.reg with fnPartEff := tputD 0 s.reg.fnPartEff (pkey f p) (BitVec.ofNat 32 v) } }
  let s' := clearMoved s (reallotPart p s s')
  if shareOf v = shareOf (s.fnPartEff f p) then s'
  else flushPlans (fun x => x.key.fn == f && x.key.part == p && x.key.share != shareOf v) s'

/-- One pending change of a partition, where its condition holds now: SHARE when the function has no execution in
progress on the partition, ACC_TILES and ACCM_64R when no function of the partition has. -/
def applyPartPend (p : Nat) (s : State) : State :=
  (s.reg.partPend.filter (fun x => x.part = p)).foldl (fun s x =>
    let shareNow := x.share.isSome && !s.fnRunningOn x.fn p
    let tilesNow := x.tiles.isSome && !s.partRunning p
    let v0 : Nat := s.fnPartEff x.fn p
    let v1 : Nat := match shareNow, x.share with
      | true, some sh => setBits v0 8 0 sh
      | _, _ => v0
    let v : Nat := match tilesNow, x.tiles with
      | true, some t => setBits (setBits v1 15 12 t.1) 19 16 t.2
      | _, _ => v1
    let rest : PartCfgPend := { fn := x.fn, part := p, share := if shareNow then none else x.share,
                                tiles := if tilesNow then none else x.tiles }
    let keep := s.reg.partPend.filter (fun y => y ≠ x)
    let s := { s with reg := { s.reg with partPend := if rest.share.isNone && rest.tiles.isNone then keep else keep ++ [rest] } }
    if v = v0 then s else setFnPartEff x.fn p v s) s

/-- Pending changes of the partitions without a running tick take effect as soon as their condition holds (R519). -/
def settlePend (s : State) : State :=
  (List.range 16).foldl (fun s p => if s.partTicks p then s else applyPartPend p s) s

/-- FN_PART_CFG as it reads: PEND while a change of the allotments waits. -/
def State.fnPartRead (s : State) (f p : Nat) : Nat :=
  setBits (s.fnPart f p) 30 30 (bit01 (s.reg.partPend.any (fun x => x.fn == f && x.part == p && x.tiles.isSome)))

/-- The sum of a field of FN_PART_CFG over the functions of a partition other than f. -/
def State.partSum (s : State) (f p : Nat) (q : Nat → Nat) : Nat :=
  ((s.reg.fnPartCfg.filter (fun e => e.1 % 16 = p ∧ e.1 / 16 ≠ f)).map (fun e => q e.2.toNat)).sum

def fnPartRefused (s : State) (f p v : Nat) : Bool :=
  256 < shareOf v || 8 < tilesOf v || 8 < accmOf v ||
  256 < s.partSum f p shareOf + shareOf v || 8 < s.partSum f p tilesOf + tilesOf v ||
  8 < s.partSum f p accmOf + accmOf v ||
  (shareOf v == 0 && (tilesOf v != 0 || accmOf v != 0 ||
    s.fm.frames.any (fun x => x.1 / 2 ^ 21 == f && s.partHas p (clusterOfCore x.2.core)) ||
    s.adm.execs.any (fun e => e.ticket.fn == f && e.plan.key.part == p && (e.phase == .running || isQueued e.phase)) ||
    -- executions admitted afresh (Table 8-15)
    s.adm.aes.any (fun ae => ae.subs.any (fun x => x.ticket.fn == f && x.part == p && x.id.isSome))))

def fnPartEffect (f p : Nat) (value : Word) (s : State) : State :=
  let old := s.fnPart f p
  let rej := bitOf old 31 && !value.getLsbD 31
  let v := setBits (setBits 0 8 0 (shareOf value.toNat)) 19 12 (bitsOf value.toNat 19 12)
  let put (x : Nat) (s : State) : State :=
    { s with reg := { s.reg with fnPartCfg := tput s.reg.fnPartCfg (pkey f p) (BitVec.ofNat 32 x) } }
  if fnPartRefused s f p value.toNat then put (setBits old 31 31 1) s
  else
    let s := put (setBits v 31 31 (bit01 rej)) s
    let eff := s.fnPartEff f p
    let x : PartCfgPend := { fn := f, part := p,
                             share := if shareOf v = shareOf eff then none else some (shareOf v),
                             tiles := if tilesOf v = tilesOf eff ∧ accmOf v = accmOf eff then none
                                      else some (tilesOf v, accmOf v) }
    let keep := s.reg.partPend.filter (fun y => !(y.fn == f && y.part == p))
    let s := { s with reg := { s.reg with partPend := if x.share.isNone && x.tiles.isNone then keep else keep ++ [x] } }
    if s.partTicks p then s else applyPartPend p s

/-- FN_PART_CFG_WRITE (R300, R301, R519). -/
def execFnPartCfgWrite (fn part : Nat) (value : Word) (s : State) : Host.Outcome State Fault Refusal :=
  .next (if s.serving && fn < 512 && part < 16 then fnPartEffect fn part value s else s)

/-! ## FM_FN_CFG and MMU_FN_CFG (R285, R286) -/

/-- The sum of a quota over the functions of a partition, f counted with the value v. -/
def State.quotaSum (s : State) (p f v : Nat) (q : Nat → Nat) : Nat :=
  (((s.partFns p).filter (· ≠ f)).map (fun g => q (s.fmCfg g))).sum + q v

def fmRefused (s : State) (f v : Nat) : Bool :=
  pageSlotsOf v == 0 || 64 < framesOf v || 32 < as16kOf v || 32 < cm128kOf v ||
  (s.fnParts f).any (fun p => (s.partClusters p) != [] && (64 < s.quotaSum p f v framesOf ||
    32 < s.quotaSum p f v as16kOf || 32 < s.quotaSum p f v cm128kOf)) ||
  s.fm.frames.any (fun x => x.1 / 2 ^ 21 == f && framesOf v < s.unbacked f x.2.core)

def fmFnCfgEffect (f : Nat) (value : Word) (s : State) : State :=
  if fmRefused s f value.toNat then mmuCfgRej f s
  else
    let v : Word := value &&& 0x0FFFF07F
    let s' := { s with reg := { s.reg with fmFnCfg := tput s.reg.fmFnCfg f v } }
    evictExcess (clearMoved s s')

/-- FM_FN_CFG_WRITE (R286). -/
def execFmFnCfgWrite (fn : Nat) (value : Word) (s : State) : Host.Outcome State Fault Refusal :=
  .next (if s.serving && fn < 512 then fmFnCfgEffect fn value s else s)

/-- A write of MMU_FN_CFG (Table 9-6). -/
def mmuFnCfgEffect (f : Nat) (value : Word) (s : State) : State :=
  let n := bitsOf value.toNat 13 8
  if n = 0 ∨ 32 < n then mmuCfgRej f s
  else
    let old := tgetD s.reg.mmuFnCfg f mmuFnCfgReset
    let rejW : Word := if old.getLsbD 31 && !value.getLsbD 31 then 0x80000000 else 0
    let s := { s with reg := { s.reg with mmuFnCfg := tput s.reg.mmuFnCfg f ((value &&& 0x3F01) ||| rejW) } }
    if value.getLsbD 1 then { s with reg := { s.reg with mmuFnStat := tdel s.reg.mmuFnStat f } } else s

/-- MMU_FN_CLR_STATS (R285): a write of MMU_FN_CFG; bit [1] clears MMU_FN_STAT. -/
def execMmuFnClrStats (fn : Nat) (value : Word) (s : State) : Host.Outcome State Fault Refusal :=
  .next (if s.serving && fn < 512 then mmuFnCfgEffect fn value s else s)

/-! ## TICK_CFG and ADM_BUDGET_CFG (R245, R246) -/

/-- A write of TICK_CFG: a field outside its range keeps its value and sets CFG_REJ; plans of another period or window
are flushed. -/
def tickCfgEffect (p : Nat) (value : Word) (s : State) : State :=
  let old := s.tickCfg p
  let v := value.toNat
  let badP := periodOf v < 8 || 1000 < periodOf v
  let badM := mwinOf v < 1 || 100 < mwinOf v
  let per := if badP then periodOf old else periodOf v
  let mw := if badM then mwinOf old else mwinOf v
  let rej := badP || badM || (bitOf old 31 && !bitOf v 31)
  let n := per + mw * 1024 + bit01 rej * 2 ^ 31
  let s := { s with reg := { s.reg with tickCfg := tput s.reg.tickCfg p (BitVec.ofNat 32 n) } }
  flushPlans (fun x => x.key.part == p && (x.key.period != per || x.key.mwin != mw)) s

/-- TICK_CFG_WRITE (R245). -/
def execTickCfgWrite (part : Nat) (value : Word) (s : State) : Host.Outcome State Fault Refusal :=
  .next (if s.serving && part < 16 then tickCfgEffect part value s else s)

def budgetCfgEffect (value : Word) (s : State) : State :=
  let s := { s with reg := { s.reg with budgetCfg := value &&& 0xFFFF } }
  flushPlans (fun x => x.key.rr != s.rr) s

/-- ADM_BUDGET_CFG_WRITE (R246, R258). -/
def execAdmBudgetCfgWrite (value : Word) (s : State) : Host.Outcome State Fault Refusal :=
  .next (if s.serving then budgetCfgEffect value s else s)

/-! ## PART_CL_LO and PART_CL_HI (R488) -/

def setPartRej (p : Nat) (s : State) : State :=
  { s with reg := { s.reg with partCtl := tput s.reg.partCtl p (tgetD s.reg.partCtl p 0 ||| 0x80000000) } }

/-- The bits of the other partitions' registers. -/
def State.otherCl (s : State) (p : Nat) (hi : Bool) : Nat :=
  ((List.range 16).filter (· ≠ p)).foldl (fun a q =>
    a ||| (tgetD (if hi then s.reg.partClHi else s.reg.partClLo) q 0).toNat) 0

def partClEffect (p : Nat) (hi : Bool) (v : Nat) (s : State) : State :=
  if s.reg.fnPartCfg.any (fun e => e.1 % 16 == p && shareOf e.2.toNat != 0) || (s.partFns p) != [] ||
      v &&& s.otherCl p hi != 0 then setPartRej p s
  else
    let old := (tgetD (if hi then s.reg.partClHi else s.reg.partClLo) p 0).toNat
    let changed := (List.range 64).filter (fun i => bitOf (old ^^^ v) i)
    let s := clearClusters (changed.map (fun i => if hi then 64 + i else i)) s
    if hi then { s with reg := { s.reg with partClHi := tput s.reg.partClHi p (BitVec.ofNat 64 v) } }
    else { s with reg := { s.reg with partClLo := tput s.reg.partClLo p (BitVec.ofNat 64 v) } }

def partOff (p : Nat) : Nat := 0x300000 + 0x100 * p

/-- PART_CL_WRITE (R485, R488). -/
def execPartClWrite (part : Nat) (hi : Bool) (half : Half64) (value : Dword) (s : State) :
    Host.Outcome State Fault Refusal :=
  .next (if s.serving && part < 16 then
    withHalf (heldKey 0 0 (partOff part + if hi then 0x10 else 0x08))
      (tgetD (if hi then s.reg.partClHi else s.reg.partClLo) part 0).toNat half value.toNat (partClEffect part hi) s
  else s)

/-! ## Statistics (R74, R145, R183, R420) -/

def countCfgReset : Word := 0x01000800
def State.countCfg (s : State) (c : Nat) : Nat := (tgetD s.reg.countCfg c countCfgReset).toNat

def countCfgEffect (c : Nat) (value : Word) (s : State) : State :=
  let s := { s with reg := { s.reg with countCfg := tput s.reg.countCfg c (value &&& 0x0FFFFF00) } }
  if value.getLsbD 0 then { s with reg := { s.reg with countStat := tdel s.reg.countStat c } } else s

/-- CSQ_COUNT_CLR_STATS (R74): a write of CSQ_COUNT_CFG; bit [0] clears CSQ_COUNT_STAT. -/
def execCsqCountClrStats (core : Nat) (value : Word) (s : State) : Host.Outcome State Fault Refusal :=
  .next (if s.serving && core < 2048 then countCfgEffect core value s else s)

def convCfgEffect (c : Nat) (value : Word) (s : State) : State :=
  if value.getLsbD 0 then { s with reg := { s.reg with convStat := tdel s.reg.convStat c } } else s

/-- SE_CONV_CLR_STATS (R145). -/
def execSeConvClrStats (core : Nat) (value : Word) (s : State) : Host.Outcome State Fault Refusal :=
  .next (if s.serving && core < 2048 then convCfgEffect core value s else s)

def compCfgEffect (c : Nat) (value : Word) (s : State) : State :=
  if value.getLsbD 0 then { s with reg := { s.reg with compStat := tdel s.reg.compStat c } } else s

/-- SE_COMP_CLR_STATS (R183). -/
def execSeCompClrStats (core : Nat) (value : Word) (s : State) : Host.Outcome State Fault Refusal :=
  .next (if s.serving && core < 2048 then compCfgEffect core value s else s)

/-- MNT_DIE_STAT keeps ACTIVE and QUEUED; RECALS and REPAIRS are cleared (R420). -/
def mntCtlEffect (d : Nat) (value : Word) (s : State) : State :=
  if value.getLsbD 0 then
    { s with reg := { s.reg with mntDieStat := tput s.reg.mntDieStat d (tgetD s.reg.mntDieStat d 0 &&& 0xFFFFFFFF00000000) },
             mnt := { s.mnt with recals := tdel s.mnt.recals d, repairs := tdel s.mnt.repairs d } }
  else s

/-- MNT_DIE_CLR_STATS (R420). -/
def execMntDieClrStats (die : Nat) (value : Word) (s : State) : Host.Outcome State Fault Refusal :=
  .next (if s.serving && die < 4 then mntCtlEffect die value s else s)

/-! ## The register map (Table 16-3, Table 16-6) -/

/-- A register of BAR0 with the instance it names. -/
inductive RegRef where
  | sparseCfg | budgetCfg | glideCfg
  | gateOwner (g : Nat)
  | mmuWin (f w : Nat)
  | mmuFnCfg (f : Nat) | fmFnCfg (f : Nat) | mmuFnStat (f : Nat)
  | fnPart (f p : Nat)
  | tickCfg (p : Nat) | partCtl (p : Nat) | partCl (p : Nat) (hi : Bool)
  | refresh (d : Nat) | pwrDie (d : Nat) | thm (d : Nat) | mntStat (d : Nat) | mntCtl (d : Nat)
  | countCfg (c : Nat) | countStat (c : Nat) | tickStat (c : Nat) | convCfg (c : Nat) | convStat (c : Nat)
  | compCfg (c : Nat) | compStat (c : Nat)
  | fnId (f : Nat) | fnStatus (f : Nat) | aqCfg (f : Nat) | aqSq (f : Nat) | aqCq (f : Nat)
  | msix (f half : Nat) | pba (f : Nat)
  deriving DecidableEq, Repr

/-- Registers of a function page: the register, its width in bytes and its offset. -/
def pageReg (f o : Nat) : Option (RegRef × Nat × Nat) :=
  if o < 0x004 then some (.fnId f, 4, 0x000)
  else if 0x008 ≤ o ∧ o < 0x00C then some (.fnStatus f, 4, 0x008)
  else if 0x010 ≤ o ∧ o < 0x014 then some (.aqCfg f, 4, 0x010)
  else if 0x018 ≤ o ∧ o < 0x020 then some (.aqSq f, 8, 0x018)
  else if 0x020 ≤ o ∧ o < 0x028 then some (.aqCq f, 8, 0x020)
  else if 0x800 ≤ o ∧ o < 0xA00 then some (.msix f ((o - 0x800) / 8), 8, o / 8 * 8)
  else if 0xC00 ≤ o ∧ o < 0xC08 then some (.pba f, 8, 0xC00)
  else none

def globalReg (o : Nat) : Option (RegRef × Nat × Nat) :=
  if 0x100 ≤ o ∧ o < 0x104 then some (.sparseCfg, 4, 0x100)
  else if 0x104 ≤ o ∧ o < 0x108 then some (.budgetCfg, 4, 0x104)
  else if 0x200 ≤ o ∧ o < 0x204 then some (.glideCfg, 4, 0x200)
  else if 0x10000 ≤ o ∧ o < 0x20000 then some (.gateOwner ((o - 0x10000) / 4), 4, o / 4 * 4)
  else if 0x20000 ≤ o ∧ o < 0x30000 then some (.mmuWin ((o - 0x20000) / 128) (o % 128 / 8), 8, o / 8 * 8)
  else if 0x30000 ≤ o ∧ o < 0x32000 then
    let f := (o - 0x30000) / 16
    let x := o % 16
    if x < 4 then some (.mmuFnCfg f, 4, o - x)
    else if x < 8 then some (.fmFnCfg f, 4, o - x + 4) else some (.mmuFnStat f, 8, o - x + 8)
  else if 0x40000 ≤ o ∧ o < 0x48000 then some (.fnPart ((o - 0x40000) / 64) (o % 64 / 4), 4, o / 4 * 4)
  else none

def partReg (o : Nat) : Option (RegRef × Nat × Nat) :=
  let p := (o - 0x300000) / 0x100
  let x := o % 0x100
  let b := o - x
  if x < 4 then some (.tickCfg p, 4, b) else if x < 8 then some (.partCtl p, 4, b + 4)
  else if x < 0x10 then some (.partCl p false, 8, b + 8) else if x < 0x18 then some (.partCl p true, 8, b + 0x10) else none

def dieReg (o : Nat) : Option (RegRef × Nat × Nat) :=
  let d := (o - 0x310000) / 0x1000
  let x := o % 0x1000
  let b := o - x
  if x < 4 then some (.refresh d, 4, b)
  else if 0x08 ≤ x ∧ x < 0x10 then some (.pwrDie d, 8, b + 0x08)
  else if 0x10 ≤ x ∧ x < 0x14 then some (.thm d, 4, b + 0x10)
  else if 0x18 ≤ x ∧ x < 0x20 then some (.mntStat d, 8, b + 0x18)
  else if 0x20 ≤ x ∧ x < 0x24 then some (.mntCtl d, 4, b + 0x20) else none

def coreReg (o : Nat) : Option (RegRef × Nat × Nat) :=
  let c := (o - 0x400000) / 0x100
  let x := o % 0x100
  let b := o - x
  if x < 4 then some (.countCfg c, 4, b)
  else if 0x08 ≤ x ∧ x < 0x10 then some (.countStat c, 8, b + 0x08)
  else if 0x10 ≤ x ∧ x < 0x18 then some (.tickStat c, 8, b + 0x10)
  else if 0x18 ≤ x ∧ x < 0x1C then some (.convCfg c, 4, b + 0x18)
  else if 0x20 ≤ x ∧ x < 0x28 then some (.convStat c, 8, b + 0x20)
  else if 0x28 ≤ x ∧ x < 0x2C then some (.compCfg c, 4, b + 0x28)
  else if 0x30 ≤ x ∧ x < 0x38 then some (.compStat c, 8, b + 0x30) else none

/-- The register that holds the byte at an offset of a function's BAR0; `ro`: through a read-only view (Table 16-2). -/
def regAt (fn o : Nat) : Option (RegRef × Nat × Nat × Bool) :=
  if fn ≠ 0 then (if o < 0x1000 then (pageReg fn o).map (fun r => (r.1, r.2.1, r.2.2, false)) else none)
  else
    let r := if o < 0x100000 then (globalReg o).map (fun r => (r.1, r.2.1, r.2.2, false))
      else if o < 0x300000 then
        let f := (o - 0x100000) / 0x1000
        (pageReg f (o % 0x1000)).map (fun r => (r.1, r.2.1, o - o % 0x1000 + r.2.2, f != 0))
      else if o < 0x301000 then (partReg o).map (fun r => (r.1, r.2.1, r.2.2, false))
      else if 0x310000 ≤ o ∧ o < 0x314000 then (dieReg o).map (fun r => (r.1, r.2.1, r.2.2, false))
      else if 0x400000 ≤ o ∧ o < 0x480000 then (coreReg o).map (fun r => (r.1, r.2.1, r.2.2, false))
      else none
    r

/-- QPAIRS of FN_STATUS. -/
def State.qpairs (s : State) (f : Nat) : Nat := (s.host.qps.filter (fun e => e.1 / 8 = f)).length

/-- The value a register reads as (WO fields and reserved fields zero). -/
def State.readReg (s : State) : RegRef → Nat
  | .sparseCfg => s.reg.sparseCfg.toNat
  | .budgetCfg => s.reg.budgetCfg.toNat
  | .glideCfg => s.reg.glideCfg.toNat
  | .gateOwner g => (s.gate g).owner + bit01 (tgetD s.reg.gateCtl g false) * 2 ^ 31
  | .mmuWin f w => s.winCfg f w
  | .mmuFnCfg f => s.mmuCfg f
  | .fmFnCfg f => s.fmCfg f
  | .mmuFnStat f => (tgetD s.reg.mmuFnStat f 0).toNat
  | .fnPart f p => s.fnPartRead f p
  | .tickCfg p => s.tickCfg p
  | .partCtl p => (tgetD s.reg.partCtl p 0).toNat + (s.partClusters p).length
  | .partCl p hi => (tgetD (if hi then s.reg.partClHi else s.reg.partClLo) p 0).toNat
  | .refresh d => (tgetD s.reg.refreshStat d 0).toNat
  | .pwrDie d => (tgetD s.reg.pwrDieStat d 0).toNat
  | .thm d => (tgetD s.reg.thmStatus d 0).toNat
  | .mntStat d => (tgetD s.reg.mntDieStat d 0).toNat
  | .mntCtl _ => 0
  | .countCfg c => s.countCfg c
  | .countStat c => (tgetD s.reg.countStat c 0).toNat
  | .tickStat c => (tgetD s.reg.tickStat c 0).toNat
  | .convCfg _ => 0
  | .convStat c => (tgetD s.reg.convStat c 0).toNat
  | .compCfg _ => 0
  | .compStat c => (tgetD s.reg.compStat c 0).toNat
  | .fnId f => f
  | .fnStatus f => bit01 (s.fnEnabled f) + 2 * bit01 (tgetD s.host.evtOvf f false) + s.qpairs f * 256
  | .aqCfg f => (aqCfgOf s f).toNat
  | .aqSq f => (aqSqBaseOf s f).toNat
  | .aqCq f => (aqCqBaseOf s f).toNat
  | .msix f h => ((s.host.msixEntry f (h / 2)).toNat >>> (64 * (h % 2))) % 2 ^ 64
  | .pba f => (tgetD s.host.msixPend f 0).toNat

/-- Write half `h % 2` of MSI-X entry `h / 2`; clearing the mask bit sends a pending message (R308). -/
def msixWrite (f h v : Nat) (s : State) : State :=
  let k := f * 32 + h / 2
  let old := (s.host.msixEntry f (h / 2)).toNat
  let new := if h % 2 = 0 then setBits old 63 0 v else setBits old 127 64 v
  let host := { s.host with msixTable := tput s.host.msixTable k (BitVec.ofNat 128 new) }
  if bitOf old 96 && !bitOf new 96 then { s with host := host.unmask f (h / 2) } else { s with host := host }

/-- The effect of writing a whole value to a register (R16). -/
def writeReg (r : RegRef) (v : Nat) (s : State) : State :=
  let w : Word := BitVec.ofNat 32 v
  match r with
  | .sparseCfg => { s with reg := { s.reg with sparseCfg := w &&& 0x1FF } }
  | .budgetCfg => budgetCfgEffect w s
  | .glideCfg => { s with reg := { s.reg with glideCfg := w &&& 0x00FFFFF1 } }
  | .gateOwner g => gateOwnerEffect g w s
  | .mmuWin f w => winCfgEffect f w v s
  | .mmuFnCfg f => mmuFnCfgEffect f w s
  | .fmFnCfg f => fmFnCfgEffect f w s
  | .fnPart f p => fnPartEffect f p w s
  | .tickCfg p => tickCfgEffect p w s
  | .partCtl p =>
    if w.getLsbD 31 then { s with reg := { s.reg with partCtl := tput s.reg.partCtl p (tgetD s.reg.partCtl p 0 &&& 0x7FFFFFFF) } }
    else s
  | .partCl p hi => partClEffect p hi v s
  | .mntCtl d => mntCtlEffect d w s
  | .countCfg c => countCfgEffect c w s
  | .convCfg c => convCfgEffect c w s
  | .compCfg c => compCfgEffect c w s
  | .fnStatus f => if w.getLsbD 1 then { s with host := { s.host with evtOvf := tdel s.host.evtOvf f } } else s
  | .aqCfg f => fnAqCfgEffect f w s
  | .aqSq f => aqBaseEffect f false (BitVec.ofNat 64 v) s
  | .aqCq f => aqBaseEffect f true (BitVec.ofNat 64 v) s
  | .msix f h => msixWrite f h v s
  | .mmuFnStat _ | .refresh _ | .pwrDie _ | .thm _ | .mntStat _ | .countStat _ | .tickStat _ | .convStat _ | .compStat _
  | .fnId _ | .pba _ => s

/-- A host write of BAR0 (R484, R485): naturally aligned, 32 or 64 bits, within one register. -/
def bar0Write (fn off v width : Nat) (s : State) : State :=
  let n := width / 8
  if !s.serving || !(width == 32 || width == 64) || off % n != 0 then s
  else
    match regAt fn off with
    | none => s
    | some (r, rw, base, ro) =>
      if ro || base + rw < off + n then s
      else if rw = 4 then writeReg r (v % 2 ^ 32) s
      else
        let half : Half64 := if n = 8 then .whole else if off = base then .low else .high
        withHalf (heldKey fn 0 base) (s.readReg r) half v (writeReg r) s

/-- A read of the low half of a 64-bit register captures the high half for the same function (R485). -/
def lowHalfReadEffect (fn off : Nat) (s : State) : State :=
  match regAt fn off with
  | some (r, 8, base, _) =>
    if off = base then
      let hi := BitVec.ofNat 32 (s.readReg r / 2 ^ 32)
      { s with host := { s.host with capturedHi := tput s.host.capturedHi (heldKey fn 0 base) hi } }
    else s
  | _ => s

/-- The value that a 32-bit read of a high half returns: the captured half, else the current one. -/
def State.highHalf (s : State) (fn off : Nat) : Nat :=
  match regAt fn off with
  | some (r, 8, base, _) =>
    (match tget s.host.capturedHi (heldKey fn 0 base) with
     | some v => v.toNat
     | none => s.readReg r / 2 ^ 32)
  | _ => 0

end Sys2Proof.Machine
end

