-- ==== Sys2Proof/Machine/Costs.lean ====
section
/-!
DEFINITION. Costs and budgets (R244-R249, Tables 8-7 and 6-1), the choice of layout (R163), and the implicit edges of R243.
-/

namespace Sys2Proof.Machine

open Sys2Proof

/-! ## The tick budget (R247, R248) -/

/-- Refresh slots among the first x count slots (R77). -/
def refreshSlots (x : Nat) : Nat := 2 * (x / 125) + (if 63 ≤ x % 125 then 1 else 0)

def tickSlots (period : Nat) : Nat := 250 * period
def mntSlots (period mwin : Nat) : Nat := ceilDiv (tickSlots period * mwin) 1000
def tailSlots (period mwin : Nat) : Nat := max (mntSlots period mwin) 250

/-- A: slots for planned work per core. -/
def budgetA (period mwin rr : Nat) : Nat :=
  tickSlots period - tailSlots period mwin - refreshSlots (tickSlots period - tailSlots period mwin) - rr

/-- A_f: a function's window. -/
def windowOf (period mwin rr share : Nat) : Nat := budgetA period mwin rr * share / 256

def PlanKey.window (k : PlanKey) : Nat := windowOf k.period k.mwin k.rr k.share

def Task.bEff (t : Task) : Nat := if t.hintUse && bitOf t.hint 7 then min 64 (t.hint % 128 + 8) else t.densB

/-! ## Frames and layouts of a plan (R163, R224) -/

/-- Every frame a MACRO task names on its core: the static ones, and all of the function's on the core where an index
chooses. -/
def taskFrames (s : State) (fn core : Nat) (t : Task) (trips : List Nat) : List Nat :=
  let st := t.staticFrames trips
  if t.indexedW then (st ++ (s.fnCoreFrames fn core).map (fun (e : Nat × Frame) => e.1 % 2 ^ 21)).eraseDups else st

/-- A task with what admission derives for it. -/
structure TaskA where
  id    : Nat
  t     : Task
  core  : Nat
  trips : List Nat
  bm    : Nat
  bn    : Nat
  bk    : Nat
  frames : List Nat
  deriving DecidableEq, Repr

/-- The pages that some task of the plan counts in transposed mode. -/
def transposedPages (ts : List TaskA) : List Nat := (ts.filter (fun a => a.t.transposed)).flatMap (·.frames)

/-- A page that a task counts gets the sparse layout. -/
def countsSparse (s : State) (fn : Nat) (dense : List Nat) (a : TaskA) (lf : Nat) : Bool :=
  a.t.isCount && !dense.contains lf &&
  match s.frame? fn lf with
  | some f => s.sparseEligible f.wFmt f.density f.rowsHdr f.forceDense
  | none => false

/-- R_c: the largest extent among the pages a task counts; a dense page counts as 64 (R169). -/
def extentRc (s : State) (fn : Nat) (dense : List Nat) (a : TaskA) : Nat :=
  a.frames.foldl (fun m lf => max m (if countsSparse s fn dense a lf then
    (match s.frame? fn lf with | some f => 8 * f.rowsHdr | none => 64) else 64)) 0

def anySparse (s : State) (fn : Nat) (dense : List Nat) (a : TaskA) : Bool := a.frames.any (countsSparse s fn dense a)

/-! ## What a write task writes (R185, R188) -/

/-- In one step: each frame with, per segment, the rows it receives, and the lanes. -/
structure WFrame where
  frame : Nat
  segs  : List (Nat × Nat)
  lanes : List Nat
  deriving DecidableEq, Repr

def addWPart (l : List WFrame) (frame seg rows : Nat) (ls : List Nat) : List WFrame :=
  match l.find? (fun w => w.frame = frame) with
  | none => l ++ [{ frame := frame, segs := [(seg, rows)], lanes := ls }]
  | some w =>
    let segs := match w.segs.find? (fun x => x.1 = seg) with
      | none => w.segs ++ [(seg, rows)]
      | some x => w.segs.map (fun y => if y.1 = seg then (seg, max x.2 rows) else y)
    let w' : WFrame := { frame := frame, segs := segs, lanes := (w.lanes ++ ls).eraseDups }
    l.map (fun x => if x.frame = frame then w' else x)

/-- The frames a step writes, with the bounds given; lanes are counted from LANE_FIRST. -/
def writeFrames (t : Task) (pts : List Pt) (bn bk : Nat) : List WFrame :=
  pts.foldl (fun l pt =>
    let rows := min 64 (bk - 64 * pt.kg)
    let lns := min 64 (bn - 64 * pt.ng)
    if rows = 0 ∨ lns = 0 then l
    else
      let w := wNum t pt
      (wParts t.planesW w).foldl (fun l x =>
        let ls := ((List.range x.2.2.2).filter (fun i => x.2.2.1 + i < lns)).map (fun i => x.2.1 + i + t.laneFirst)
        addWPart l x.1 (t.bandSeg + w % 16) rows (ls.filter (· < lanes t.fr.wFmt))) l) []

def WFrame.rows (w : WFrame) : Nat := (w.segs.map (·.2)).sum
def WFrame.maxSeg (w : WFrame) : Nat := (w.segs.map (·.2)).foldl max 0

/-- The frame takes full rows: the step writes every lane of it (R185). -/
def WFrame.full (t : Task) (w : WFrame) : Bool := t.laneFirst == 0 && w.lanes.length == Sys2Proof.Machine.lanes t.fr.wFmt

/-- Write and read-back slots of one frame (Table 6-1). -/
def WFrame.slots (t : Task) (w : WFrame) : Nat := (if w.full t then ceilDiv w.rows 2 else w.rows) + w.maxSeg

def noIdx (_ : Nat) : Nat := 0

/-- Cost of a write task: the macros of a step are written in parallel. -/
def writeCost (a : TaskA) : Nat :=
  ((List.range (nSteps a.t.loops a.trips)).map (fun n =>
    ((writeFrames a.t (stepPts a.t.loops a.trips noIdx n) a.bn a.bk).map (·.slots a.t)).foldl max 0)).sum

/-- R188 holds in every step: the write port draws 8 bytes a CCLK for each macro in full rows and 4 for each in masked rows, at most
256 in all. -/
def portsOk (a : TaskA) : Bool :=
  (List.range (nSteps a.t.loops a.trips)).all (fun n =>
    let fs := writeFrames a.t (stepPts a.t.loops a.trips noIdx n) a.bn a.bk
    8 * (fs.filter (·.full a.t)).length + 4 * (fs.filter (fun w => !w.full a.t)).length ≤ 256)

/-- Columns of a COPY tile run along K where the nest walks K, else along N (log entry 17). -/
def copyDim (t : Task) : Nat := if (List.range 6).any (fun l => dimAt t.loops l == 2) then 2 else 1

/-- Source data blocks that a COPY task moves within the bucket's bounds, each with the trip of the INDIR level that brings it: the
blocks of different trips are different blocks. A block that several steps of one trip move counts once (DESIGN CHOICE, log
entry 95). -/
def copyBlocks (a : TaskA) : List (Nat × Int) :=
  let trip (n : Nat) : Nat := match a.t.indirLevel with
    | some l => if (loopAt a.t.loops l).sA = 0 then 0 else posAt a.t.loops a.trips (stepTrips a.t.loops a.trips n) l
    | none => 0
  ((List.range (nSteps a.t.loops a.trips)).flatMap (fun n =>
    (stepPts a.t.loops a.trips noIdx n).flatMap (fun pt =>
      let cols := if copyDim a.t = 2 then a.bk - 64 * pt.kg else a.bn - 64 * pt.ng
      let toks := min 8 (a.bm - 8 * pt.mg)
      if cols = 0 ∨ toks = 0 then []
      else
        let lo := (a.t.aVa : Int) + pt.qA * a.t.unitA
        let hi := lo + toks * (a.t.unitA / 8) - 1
        (List.range (hi / 256 - lo / 256 + 1).toNat).map (fun (i : Nat) => (trip n, lo / 256 + (i : Int)))))).eraseDups

def copyCost (a : TaskA) : Nat :=
  let fast (va : Nat) : Bool := levelOf va == 1 || levelOf va == 2
  ceilDiv (256 * (copyBlocks a).length) (if fast a.t.aVa && fast a.t.oVa then 4096 else 256) + a.t.seSlots

/-- Cost of a task (Table 8-7, R244). -/
def taskCost (s : State) (fn : Nat) (dense : List Nat) (a : TaskA) : Nat :=
  let t := a.t
  let fixed := 16 + (if t.fr.t0 != 0 || t.fr.t1 != 0 then 2 else 0)
  let z := if t.zp then 1 else 0
  let steps := nSteps t.loops a.trips
  let work :=
    if t.isCount then
      if anySparse s fn dense a then
        let n := steps * (8 * (extentRc s fn dense a / 8) * (t.sMax + z))
        n + 6 * n / 100
      else steps * (8 * (if t.packed then ceilDiv t.bEff 8 * t.sMax + 8 * z else 8 * t.sMax + 8 * z))
    else if t.isWrite then writeCost a
    else if t.isCopy then copyCost a else 0
  fixed + work + (if t.prepass then ceilDiv (a.bm * a.bn) 512 else 0)

/-! ## Modelled activity of a task (R368, R369) -/

/-- Counts of a task: over its steps, the macros that count, each with its slots; and the steering slots of every macro. -/
def countWork (s : State) (fn : Nat) (dense : List Nat) (a : TaskA) : Nat :=
  let t := a.t
  let z := if t.zp then 1 else 0
  let sp := anySparse s fn dense a
  let per := if sp then 8 * (extentRc s fn dense a / 8) * (t.sMax + z)
    else 8 * (if t.packed then ceilDiv t.bEff 8 * t.sMax + z else 8 * t.sMax + z)
  let n := nSteps t.loops a.trips
  let macs := ((List.range n).map (fun i =>
    (((stepPts t.loops a.trips noIdx i).flatMap (fun pt => (wParts t.planesW (wNum t pt)).map (·.1))).eraseDups).length)).sum
  macs * per + (if sp then 64 * (6 * (n * per) / 100) else 0)

/-- Rows that a write task writes. -/
def rowWork (a : TaskA) : Nat :=
  ((List.range (nSteps a.t.loops a.trips)).map (fun n =>
    ((writeFrames a.t (stepPts a.t.loops a.trips noIdx n) a.bn a.bk).map (·.rows)).sum)).sum

/-- Activity of a task by the coefficients of Table 12-3, each output element being one SE lane operation (log entry 112). -/
def taskWork (s : State) (fn : Nat) (dense : List Nat) (a : TaskA) : List Nat :=
  let t := a.t
  let cnt := if t.isCount then countWork s fn dense a else 0
  let inB := if t.hasA && 3 ≤ levelOf t.aVa then 256 * (copyBlocks a).length else 0
  let outE := if t.isCopy then (copyBlocks a).length * (2048 / fmtBits t.fr.aFmt) else if t.hasO then a.bm * a.bn else 0
  let outB := if t.hasO && 3 ≤ levelOf t.oVa then 256 * ceilDiv (outE * fmtBits t.oFmt) 2048 else 0
  let hbm := (if levelOf t.aVa = 3 then inB else 0) + (if levelOf t.oVa = 3 then outB else 0)
  -- a remote block is asked for with a header, and written with header and metadata (R328)
  let lnk := (if 4 ≤ levelOf t.aVa then inB / 256 * 32 else 0) + (if 4 ≤ levelOf t.oVa then outB / 256 * 304 else 0)
  [cnt, cnt, 0, if t.isWrite then rowWork a else 0, if t.hasO then outE else 0, hbm, lnk]

/-! ## Implicit edges (R243) -/

/-- A memory operand: whether it is written, whether an index list reaches it, the byte ranges [lo, hi). -/
structure MemRange where
  wr    : Bool
  indir : Bool
  ivs   : List (Int × Int)
  deriving DecidableEq, Repr

/-- The whole window behind an indexed operand. -/
def State.wholeWindow (s : State) (fn p va : Nat) : List (Int × Int) :=
  let win (w : Nat) : Int × Int :=
    ((winBase2M (s.winCfg fn w) * 2 ^ 21 : Nat), ((winBase2M (s.winCfg fn w) + winSize2M (s.winCfg fn w)) * 2 ^ 21 : Nat))
  match levelOf va with
  | 1 => [((8 * 2 ^ 44 : Nat), (9 * 2 ^ 44 : Nat))]
  | 2 => [((9 * 2 ^ 44 : Nat), (10 * 2 ^ 44 : Nat))]
  | 3 => ((s.winOf fn va).map win).toList
  | _ => ((10 * 2 ^ 44 : Nat), (12 * 2 ^ 44 : Nat)) :: ((s.exchWin fn p).map win).toList

/-- An index list forms the addresses of an operand (R224). -/
def Task.indexed (t : Task) (st : LoopD → Int) : Bool := t.loops.any (fun l => l.indir && st l != 0)

def operandRange (s : State) (fn p : Nat) (a : TaskA) (wr : Bool) (va unit : Nat) (st : LoopD → Int) : List MemRange :=
  if a.trips.contains 0 || levelOf va == 0 then []
  else if a.t.indexed st then [{ wr := wr, indir := true, ivs := s.wholeWindow fn p va }]
  else
    let r := byteRange va unit (offRange a.t.loops a.trips 6 st)
    [{ wr := wr, indir := false, ivs := [(r.1, r.2 + 1)] }]

def memRanges (s : State) (fn p : Nat) (a : TaskA) : List MemRange :=
  let t := a.t
  (if t.hasA then operandRange s fn p a false t.aVa t.unitA (·.sA) else []) ++
  (if t.hasO then operandRange s fn p a true t.oVa t.unitO (·.sO) else []) ++
  (if t.hasO && t.addEn then operandRange s fn p a false t.addVa t.unitE (·.sO) else []) ++
  (if t.hasO && t.mulEn then operandRange s fn p a false t.mulVa t.unitE (·.sO) else []) ++
  (match t.indirLevel with
   | some l => [{ wr := false, indir := false, ivs := [((t.idxVa : Int), (t.idxVa : Int) + 4 * a.trips.getD l 0)] }]
   | none => [])

def overlap (x y : Int × Int) : Bool := x.1 < y.2 && y.1 < x.2

/-- The tiles of a level-0 COPY operand over the trips without INDIR. -/
def copyTiles (a : TaskA) (va : Nat) (st : LoopD → Int) : List Nat :=
  if levelOf va = 0 ∧ !a.trips.contains 0 then
    let r := offRange a.t.loops a.trips 6 st
    (List.range (r.2 - r.1 + 1).toNat).map (fun (i : Nat) => ((tileOf va : Int) + r.1 + (i : Int)).toNat)
  else []

/-- The accumulator tiles a task binds: of ACC_CTL, or of level-0 COPY operands. -/
def tilesNamed (a : TaskA) : List Nat :=
  if a.t.isCount && !a.t.zarlon then a.t.tiles
  else if a.t.isCopy then copyTiles a a.t.aVa (·.sA) ++ copyTiles a a.t.oVa (·.sO) else []

/-- The ACCM rows of a Zarlon-mode task. -/
def accmNamed (a : TaskA) : List (Int × Int) :=
  if a.t.isCount && a.t.zarlon && !a.trips.contains 0 then
    let r := offRange a.t.loops a.trips 6 (·.sO)
    [((a.t.accmRow : Int) + 8 * r.1, (a.t.accmRow : Int) + 8 * r.2 + 8)]
  else []

/-- The tiles and ACCM rows that a task names with static addresses (R243): tasks of one stage that reach them through an index
list run in slot order (R268). -/
def tilesStatic (a : TaskA) : List Nat :=
  if a.t.isCopy then
    (if a.t.indexed (·.sA) then [] else copyTiles a a.t.aVa (·.sA)) ++ (if a.t.indexed (·.sO) then [] else copyTiles a a.t.oVa (·.sO))
  else tilesNamed a

def accmStatic (a : TaskA) : List (Int × Int) := if a.t.indexed (·.sO) then [] else accmNamed a

def implicitEdge (s : State) (fn p : Nat) (a b : TaskA) : Bool :=
  let same := a.t.stage == b.t.stage
  let wf (x : TaskA) : Bool := x.t.isWrite || x.t.isSwap
  (same && ((tilesStatic a).any (fun x => (tilesStatic b).contains x) ||
    (accmStatic a).any (fun x => (accmStatic b).any (overlap x)) ||
    ((wf a || wf b) && a.frames.any (fun x => b.frames.contains x)))) ||
  (memRanges s fn p a).any (fun x => (memRanges s fn p b).any (fun y =>
    (x.wr || y.wr) && !(same && (x.indir || y.indir)) && x.ivs.any (fun i => y.ivs.any (overlap i))))

end Sys2Proof.Machine
end

