-- ==== Sys2Proof/Machine/Admission.lean ====
section
/-!
DEFINITION. The Admission Engines (R241-R252, R258, R306, R313): the meanings of SUBMIT, FLUSH and AE_TURN.
-/

namespace Sys2Proof.Machine

open Sys2Proof

/-! ## Edges, stages and Scale Records (R237, R239, R240, R141) -/

/-- The Stage Map: the byte offset in the auxiliary block of the first entry that is not well formed. Every core lies in
a partition of the function; the plan's ticks are those of the partition the submission names (log entry 18). -/
def stageBad (s : State) (fn p : Nat) (raw : List Nat) : Option Nat :=
  let es := raw.map parseStage
  let entryOk (i : Nat) : Bool :=
    let r := raw.getD i 0
    let e := parseStage r
    bitsOf r 15 11 == 0 && bitsOf r 63 39 == 0 && e.asKib ≤ 512 && e.cmKib ≤ 4096 &&
    s.fnHasCore fn e.core && shareOf (s.fnPartEff fn p) != 0 &&
    !((es.take i).any (fun x => x.core == e.core)) && e.asKib ≤ 16 * as16kOf (s.fmCfg fn) &&
    (((es.take (i + 1)).filter (fun x => clusterOfCore x.core == clusterOfCore e.core)).map (·.cmKib)).sum ≤
      128 * cm128kOf (s.fmCfg fn)
  ((List.range raw.length).find? (fun i => !entryOk i)).map (fun i => 0x100 + 8 * i)

/-- One edge, apart from its gate. -/
def edgeOk (nt : Nat) (raw : Nat) : Bool :=
  let e := parseEdge raw
  bitsOf raw 63 58 == 0 && bitsOf raw 31 30 == 0 &&
  match e.kind with
  | 0 => e.prod < nt && e.cons < nt && e.aux == 0
  | 1 => e.prod == 0 && e.cons < nt
  | 2 => e.prod < nt && e.cons == 0
  | _ => false

/-- The producers that name a LOCAL gate, each once. -/
def localProducers (es : List Edge) (g : Nat) : List Nat :=
  ((es.filter (fun e => e.kind = 0 ∧ e.gate = g)).map (·.prod)).eraseDups

/-- A gate is named by LOCAL edges only or by WAIT edges only; a LOCAL gate's TARGET is the number of its producers. -/
def gatesOk (es : List Edge) (targets : List Nat) : Bool :=
  es.all (fun e =>
    e.kind == 2 ||
    (es.all (fun x => x.kind == 2 || x.gate != e.gate || x.kind == e.kind) &&
     (e.kind != 0 || targets.length ≤ e.gate || targets.getD e.gate 0 == (localProducers es e.gate).length)))

/-- The rules of R141 over the tasks that name one Scale Record. -/
def scaleRecordsOk (ts : List Task) : Bool :=
  let rs := ts.filter (·.scaled)
  rs.all (fun t =>
    let same := rs.filter (fun u => u.fr.srec = t.fr.srec)
    same.all (fun u => u.fr.scaleCtl == t.fr.scaleCtl && u.outFmt == t.outFmt && u.fr.oZp == t.fr.oZp) &&
    same.length == srPcnt t.fr.scaleCtl && (!t.prepass || srPcnt t.fr.scaleCtl == 1))

/-! ## Precedence, cycles, critical paths (R242, R243, R249) -/

/-- The pairs of the LOCAL edges and the implicit edges. -/
def depPairs (s : State) (fn p : Nat) (ts : List TaskA) (es : List Edge) : List (Nat × Nat) :=
  ((es.filter (fun e => e.kind = 0)).map (fun e => (e.prod, e.cons))).eraseDups ++
  ts.flatMap (fun b => ((ts.filter (fun a => a.id < b.id)).filter (fun a => implicitEdge s fn p a b)).map
    (fun a => (a.id, b.id)))

def predsOf (ps : List (Nat × Nat)) (i : Nat) : List Nat := (ps.filter (fun x => x.2 = i)).map (·.1)
def succsOf (ps : List (Nat × Nat)) (i : Nat) : List Nat := (ps.filter (fun x => x.1 = i)).map (·.2)

/-- A topological order, as far as it goes. -/
def topoOrder (ps : List (Nat × Nat)) : Nat → List Nat → List Nat → List Nat
  | 0, done, _ => done
  | n + 1, done, todo =>
    let ready := todo.filter (fun i => (predsOf ps i).all (fun j => done.contains j))
    if ready = [] then done else topoOrder ps n (done ++ ready) (todo.filter (fun i => !ready.contains i))

/-- Critical paths, from the last task of a topological order to the first: (task, cp). -/
def criticalPaths (ps : List (Nat × Nat)) (cost : Nat → Nat) (order : List Nat) : List (Nat × Nat) :=
  order.reverse.foldl (fun cp i =>
    (i, cost i + ((succsOf ps i).map (fun j => ((cp.find? (fun x => x.1 = j)).map (·.2)).getD 0)).foldl max 0) :: cp) []

/-! ## The scheduler (R250, R251) -/

/-- What the scheduler and its tests work from. -/
structure AdmCtx where
  fn     : Nat
  part   : Nat
  gd     : GraphD
  stages : List StageEnt
  targets : List Nat
  edges  : List Edge
  tasks  : List TaskA
  pairs  : List (Nat × Nat)
  dense  : List Nat
  costs  : List Nat
  window : Nat
  deriving DecidableEq, Repr

def AdmCtx.cost (c : AdmCtx) (i : Nat) : Nat := c.costs.getD i 0

/-- key(i) of R250 comes before key(j). -/
def keyLt (stage cp : Nat → Nat) (i j : Nat) : Bool :=
  stage i < stage j || (stage i == stage j && (cp j < cp i || (cp i == cp j && i < j)))

def insertBy {α : Type} (lt : α → α → Bool) (i : α) : List α → List α
  | [] => [i]
  | j :: r => if lt i j then i :: j :: r else j :: insertBy lt i r

def sortBy {α : Type} (lt : α → α → Bool) (l : List α) : List α := l.foldr (insertBy lt) []

/-- Frames that the tasks of `ids` name on a core, and those their SWAP tasks name. -/
def namedOn (c : AdmCtx) (core : Nat) (ids : List Nat) : List Nat :=
  ((c.tasks.filter (fun a => ids.contains a.id && a.core == core)).flatMap (·.frames)).eraseDups

def swappedOn (c : AdmCtx) (core : Nat) (ids : List Nat) : List Nat :=
  ((c.tasks.filter (fun a => ids.contains a.id && a.core == core && a.t.isSwap)).flatMap (·.frames)).eraseDups

/-- A page that the plan needs in another layout than its frame has: a second frame (R164). -/
def needsOther (s : State) (c : AdmCtx) (ids : List Nat) (lf : Nat) : Bool :=
  match s.frame? c.fn lf with
  | some f => f.mac.isSome && c.tasks.any (fun a => ids.contains a.id && a.t.isCount && a.frames.contains lf &&
      countsSparse s c.fn c.dense a lf != f.sparse)
  | none => false

/-- Test 1 of Table 8-11: frames. -/
def framesOk (s : State) (c : AdmCtx) (placed : List Nat) (a : TaskA) : Bool :=
  let ids := placed ++ [a.id]
  let named := namedOn c a.core ids
  let unb := ((s.fnCoreFrames c.fn a.core).filter (fun e => e.2.backVa = 0)).map (fun (e : Nat × Frame) => e.1 % 2 ^ 21)
  let other := named.filter (needsOther s c ids)
  let shadows := ((swappedOn c a.core ids).map (fun lf =>
    1 + bit01 (other.contains lf || (s.frame? c.fn lf).any (fun f => f.companion.isSome)))).sum
  a.frames.all (fun lf => (s.frame? c.fn lf).any (fun f => f.core == a.core)) &&
  (a.frames == [] || (unb ++ named).eraseDups.length + other.length + shadows ≤ framesOf (s.fmCfg c.fn))

/-- The gates of a task's LOCAL and WAIT edges. -/
def gatesNamed (c : AdmCtx) (i : Nat) : List Nat :=
  ((c.edges.filter (fun e => (e.kind = 0 ∧ (e.prod = i ∨ e.cons = i)) ∨ (e.kind = 1 ∧ e.cons = i))).map (·.gate)).eraseDups

/-- O_open of Table 8-11. -/
def oOpen (a : TaskA) : Nat :=
  let ls := a.t.loops
  match ((List.range 6).filter (fun l => dimAt ls l == 2)).getLast? with
  | some k => prodN (((List.range k).filter (fun l => dimAt ls l < 2)).map (fun l => a.trips.getD l 1))
  | none => prodN (((List.range 2).filter (fun l => spatialAt ls l && dimAt ls l == 1)).map (fun l => a.trips.getD l 1))

/-- The resource tests in their order: the fault of the first that fails. -/
def checkResources (s : State) (c : AdmCtx) (placed : List Nat) (a : TaskA) : Option Nat :=
  let t := a.t
  let st := c.stages.getD t.stage { core := 0, asKib := 0, cmKib := 0 }
  if !framesOk s c placed a then some 0x0120
  else if st.asKib * 1024 < t.staging a.trips 1 + (if t.prepass then 4 * (a.bm * a.bn) else 0) ||
      st.cmKib * 1024 < t.staging a.trips 2 then some 0x0121
  else if (gatesNamed c a.id).any (fun g => c.gd.nGates ≤ g || (s.gate (c.gd.gateBase + g)).owner != c.fn) then some 0x0122
  else if (t.isCount && !t.zarlon && t.accSpan + 1 < oOpen a) ||
      (tilesNamed a).any (fun x => tilesOf (s.fnPartEff c.fn c.part) ≤ x) then some 0x0123
  else if t.isWrite && !portsOk a then some 0x0125
  else if 64 < t.ring || (t.ring != 0 && 2 ^ 22 ≤ t.boundM) then some 0x0127
  else if c.window < c.cost a.id then some 0x0124
  else none

/-- Slots a stage uses in a plan tick. -/
def usedIn (ps : List Placed) (stage t : Nat) : Nat := ((ps.filter (fun x => x.stage = stage ∧ x.tick = t)).map (·.cost)).sum

/-- The first plan tick from `t` in which the task fits. -/
def fitTick (ps : List Placed) (stage cost window : Nat) : Nat → Nat → Nat
  | 0, t => t
  | n + 1, t => if window < usedIn ps stage t + cost then fitTick ps stage cost window n (t + 1) else t

/-- Place one task (PLACE_TASK), or refuse. -/
def placeTask (s : State) (c : AdmCtx) (ps : List Placed) (a : TaskA) : Except (Nat × Nat) (List Placed) :=
  match checkResources s c (ps.map (·.id)) a with
  | some code => .error (code, a.id)
  | none =>
    let stage := a.t.stage
    let t0 := (predsOf c.pairs a.id).foldl (fun t p =>
      match ps.find? (fun x => x.id = p) with
      | some x => max t (if x.stage = stage then x.tick else x.tick + 1)
      | none => t) 0
    let t1 := (c.edges.filter (fun e => e.kind = 1 ∧ e.cons = a.id)).foldl (fun t e => max t e.aux) t0
    let t2 := fitTick ps stage (c.cost a.id) c.window 4096 t1
    if 4095 < t2 then .error (0x0126, a.id)
    else .ok (ps ++ [{ id := a.id, stage := stage, tick := t2, cost := c.cost a.id, bEff := a.t.bEff, work := taskWork s c.fn c.dense a }])

/-- Place every task in the order of R250. -/
def schedule (s : State) (c : AdmCtx) (order : List Nat) : Nat → List Placed → Except (Nat × Nat) (List Placed)
  | 0, ps => .ok ps
  | n + 1, ps =>
    let done := ps.map (·.id)
    match order.find? (fun i => !done.contains i && (predsOf c.pairs i).all (fun j => done.contains j)) with
    | none => .ok ps
    | some i =>
      match c.tasks.find? (fun a => a.id = i) with
      | none => .ok ps
      | some a =>
        match placeTask s c ps a with
        | .error e => .error e
        | .ok ps => schedule s c order n ps

/-! ## Results of a submission -/

/-- Why a submission is refused: code, task, loop level, INFO. -/
structure AdmBad where
  code  : Nat
  task  : Option Nat
  level : Option Nat
  info  : Option Nat
  deriving DecidableEq, Repr

def AdmBad.mk' (code : Nat) (info : Option Nat) : AdmBad := { code := code, task := none, level := none, info := info }

def setAe (a : Nat) (f : Ae → Ae) (s : State) : State :=
  { s with adm := { s.adm with aes := s.adm.aes.mapIdx (fun i x => if i = a then f x else x) } }

/-- Remove the first submission of a pair from its engine, or change it. -/
def updFirst (fn q : Nat) (f : Sub → Option Sub) : List Sub → List Sub
  | [] => []
  | x :: r => if x.ticket.fn = fn ∧ x.ticket.q = q then (f x).toList ++ r else x :: updFirst fn q f r

def updSub (x : Sub) (f : Sub → Option Sub) (s : State) : State :=
  setAe (x.ticket.fn % 8) (fun ae => { ae with subs := updFirst x.ticket.fn x.ticket.q f ae.subs }) s

/-- Refuse a submission (R242): one record, and the completion. -/
def refuseSub (x : Sub) (b : AdmBad) (s : State) : State :=
  let s := updSub x (fun _ => none) s
  let s := raise { EventRec.mk' b.code with fn := some x.ticket.fn, part := some x.part, cid := some x.ticket.cid,
                                            task := b.task, level := b.level, unit := some 0, info := b.info,
                                            addr := x.graphVa } s
  complete (Compl.refused x.ticket b.code (b.task.getD 0xFFFF)) s

/-- A plan has an execution queued or in progress. -/
def State.planBusy (s : State) (p : Plan) : Bool :=
  s.adm.execs.any (fun e => e.plan.key == p.key && (isQueued e.phase || e.phase == .running))

/-- The least recently started of the idle plans of a function. -/
def State.idlePlan (s : State) (fn : Nat) : Option Plan :=
  (s.adm.plans.filter (fun p => p.key.fn = fn ∧ !s.planBusy p)).foldl (fun (b : Option Plan) p =>
    match b with
    | none => some p
    | some x => if p.startedAt < x.startedAt then some p else some x) none

def State.plansHeld (s : State) (fn : Nat) : Nat := (s.adm.plans.filter (fun p => p.key.fn = fn)).length

def dropPlan (p : Plan) (s : State) : State := { s with adm := { s.adm with plans := s.adm.plans.filter (fun x => x.key != p.key) } }

/-- Remove idle plans of a function, least recently started first, while it holds more than `q`. -/
def trimPlans (fn q : Nat) : Nat → State → State
  | 0, s => s
  | n + 1, s =>
    if s.plansHeld fn ≤ q then s
    else
      match s.idlePlan fn with
      | none => s
      | some p => trimPlans fn q n (dropPlan p s)

/-- Put a plan into the cache (R258, R313): `none` where it must wait for an entry. -/
def cachePlan (p : Plan) (s : State) : Option State :=
  let q := planQuota s p.key.fn
  if p.noCache || q = 0 then some s
  else
    let s := dropPlan p s
    let s := trimPlans p.key.fn (q - 1) 4096 s
    if q ≤ s.plansHeld p.key.fn then none else some { s with adm := { s.adm with plans := s.adm.plans ++ [p] } }

/-- The start order of a function's executions is ascending `id` (R306): a fresh execution takes the next number, one
admitted afresh keeps its own. -/
def queueExec (x : Sub) (p : Plan) (s : State) : State :=
  let id := x.id.getD s.adm.nextId
  let e : Exec :=
    { id := id, ticket := x.ticket, plan := p, xs := x.xs, startTick := x.startTick, admitted := s.tick.st, phase := .queued,
      planTick := 0, tick0 := 0, heldCnt := 0, poisoned := 0, retired := [], committed := [], waitHeld := 0,
      swapsDue := [] }
  let n := if x.id.isSome then s.adm.nextId else s.adm.nextId + 1
  let s := { s with adm := { s.adm with execs := s.adm.execs ++ [e], nextId := n } }
  updSub x (fun _ => none) s

/-! ## Steps 1 to 4 (R242, R228, R258) -/

def State.level (s : State) (p : Nat) : Nat := (s.part p).level

/-- The key of a plan as the configuration stands. -/
def State.planKey (s : State) (fn p graphVa tag : Nat) (bs : List Nat) : PlanKey :=
  { fn := fn, graphVa := graphVa, tag := tag, buckets := bs, level := s.level p, part := p, period := periodOf (s.tickCfg p),
    mwin := mwinOf (s.tickCfg p), rr := s.rr, share := shareOf (s.fnPartEff fn p) }

/-- The bucket of one dimension: the smallest that covers the extent; an unused dimension takes bucket 0. -/
def selectBucket (es : List Nat) (x : Nat) : Option Nat := if es = [] then some 0 else es.findIdx? (fun e => x ≤ e)

/-- The bucket vector, or the first dimension whose extent no bucket covers. -/
def selectBuckets (bt : List (List Nat)) (xs : List Nat) : Except Nat (List Nat) :=
  (List.range 7).foldl (fun r i =>
    match r with
    | .error d => .error d
    | .ok bs =>
      match selectBucket (bt.getD (i + 1) []) (xs.getD i 0) with
      | some b => .ok (bs ++ [b])
      | none => .error (i + 1)) (.ok [])

/-- START_TICK has passed its lead point on a running partition (Table 8-12). -/
def startLate (s : State) (p : Nat) (st : Option Nat) : Bool :=
  match st with
  | none => false
  | some n => s.partTicks p && (n ≤ (s.part p).tick || (n == (s.part p).tick + 1 && (s.part p).lead))

/-- The turn that checks a submission and looks its plan up. -/
def checkTurn (x : Sub) (s : State) : State :=
  let fn := x.ticket.fn
  let (g, s) := readStruct fn x.part x.graphVa 64 s
  match g with
  | none => refuseSub x (.mk' 0x0101 (some 0)) s
  | some g =>
    let gd := parseGraph g
    match firstBad (graphChecks g gd) with
    | some o => refuseSub x (.mk' 0x0101 (some o)) s
    | none =>
      if s.level x.part < gd.feature then refuseSub x (.mk' 0x0103 (some 0)) s
      else
        let (b, s) := readStruct fn x.part gd.auxVa 256 s
        match b with
        | none => refuseSub x (.mk' 0x0101 (some 0)) s
        | some b =>
          match firstBad (bucketChecks b) with
          | some o => refuseSub x (.mk' 0x0101 (some o)) s
          | none =>
            match selectBuckets (parseBuckets b) x.xs with
            | .error d => refuseSub x (.mk' 0x0104 (some d)) s
            | .ok bs =>
              if x.id.isNone && startLate s x.part x.startTick then refuseSub x (.mk' 0x0105 none) s
              else
                let key := s.planKey fn x.part x.graphVa gd.tag bs
                match (if bitOf gd.flags 0 then none else s.adm.plans.find? (fun p => p.key == key)) with
                | some p => queueExec x p s
                | none => updSub x (fun y => some { y with phase := .fit gd (parseBuckets b) bs [] }) s

/-! ## Step 5 (R242, R233) -/

/-- The task of an ID with the bounds of the selected bucket. -/
def taskA (bt : List (List Nat)) (bs : List Nat) (stages : List StageEnt) (s : State) (fn i : Nat) (t : Task) : TaskA :=
  let ext := bucketExt bt bs
  let trips := tripsWith t.loops ext
  let core := (stages.getD t.stage { core := 0, asKib := 0, cmKib := 0 }).core
  { id := i, t := t, core := core, trips := trips, bm := boundDim t ext 0, bn := boundDim t ext 1, bk := boundDim t ext 2,
    frames := taskFrames s fn core t trips }

/-- Read and check one task. -/
def checkTask (x : Sub) (gd : GraphD) (bt : List (List Nat)) (bs : List Nat) (stages : List StageEnt) (i : Nat) (s : State) :
    Except AdmBad Task × State :=
  let fn := x.ticket.fn
  let bad (o : Nat) : AdmBad := { code := 0x0102, task := some i, level := none, info := some o }
  let (td, s) := readStruct fn x.part (gd.taskVa + 128 * i) 128 s
  let (op, s) := readStruct fn x.part (gd.opndVa + 64 * i) 64 s
  match td, op with
  | some td, some op =>
    let fv := gd.frecVa + 64 * stF td 0x1C 2
    let (f, s) := readStruct fn x.part fv 64 s
    match f with
    | none => (.error (bad 0x1C), s)
    | some f =>
      let t := parseTask td op (gd.opndVa + 64 * i) (parseFormat f fv)
      let a := taskA bt bs stages s fn i t
      match firstBad (tdChecks td t gd (if t.transposed then a.bn else a.bk)) <|> firstBad (oprChecks op t) <|>
          firstBad (frChecks f t) with
      | some o => (.error (bad o), s)
      | none =>
        match nestCheck s fn x.part a.core t bt a.trips a.bk with
        | some n => (.error { code := n.code, task := some i, level := some n.level, info := n.info }, s)
        | none => (.ok t, s)
  | _, _ => (.error (bad 0), s)

/-- Entries of 8 bytes of a table as numbers. -/
def words8 (n cnt : Nat) : List Nat := (List.range cnt).map (fun i => stF n (8 * i) 8)

/-- The Stage Map of a graph, zeros where it cannot be read. -/
def readStages (x : Sub) (gd : GraphD) (s : State) : Option (List Nat) × State :=
  if gd.nStages = 0 then (some [], s)
  else
    let (m, s) := readStruct x.ticket.fn x.part (gd.auxVa + 0x100) (8 * gd.nStages) s
    (m.map (fun m => words8 m gd.nStages), s)

/-- Check at most `n` further tasks. -/
def checkTasks (x : Sub) (gd : GraphD) (bt : List (List Nat)) (bs : List Nat) (stages : List StageEnt) :
    Nat → List Task → State → Except AdmBad (List Task) × State
  | 0, ts, s => (.ok ts, s)
  | n + 1, ts, s =>
    if gd.nTasks ≤ ts.length then (.ok ts, s)
    else
      match checkTask x gd bt bs stages ts.length s with
      | (.error e, s) => (.error e, s)
      | (.ok t, s) => checkTasks x gd bt bs stages n (ts ++ [t]) s

/-! ## Steps 6 and 7 -/

/-- The frames of a plan, each once: where a task counts it, its layout and the extent budgeted. -/
def planFrames (s : State) (c : AdmCtx) : List (Nat × Nat × Bool × Nat) :=
  let all := (c.tasks.flatMap (fun a => a.frames.map (fun lf => (lf, a.core)))).eraseDups
  all.map (fun x =>
    match c.tasks.find? (fun a => a.t.isCount && a.frames.contains x.1) with
    | some a =>
      let sp := countsSparse s c.fn c.dense a x.1
      (x.1, x.2, sp, if sp then ((s.frame? c.fn x.1).map (fun f => 8 * f.rowsHdr)).getD 64 else 64)
    | none => (x.1, x.2, ((s.frame? c.fn x.1).map (fun f => f.sparse)).getD false, 0))

/-- Admit the checked tasks as a plan. -/
def admitPlan (x : Sub) (gd : GraphD) (bt : List (List Nat)) (bs : List Nat) (ts : List Task) (s : State) :
    Except AdmBad Plan × State :=
  let fn := x.ticket.fn
  let fail (o : Option Nat) : Except AdmBad Plan := .error (.mk' 0x0101 o)
  let (sm, s) := readStages x gd s
  let (gt, s) := if gd.nGates = 0 then (some 0, s)
    else readStruct fn x.part (gd.auxVa + 0x100 + 8 * gd.nStages) (4 * gd.nGates) s
  let (et, s) := if gd.nEdges = 0 then (some 0, s) else readStruct fn x.part gd.edgeVa (8 * gd.nEdges) s
  match sm, gt, et with
  | some sm, some gt, some et =>
    let raw := words8 et gd.nEdges
    let es := raw.map parseEdge
    let targets := (List.range gd.nGates).map (fun g => stF gt (4 * g) 4)
    let stages := sm.map parseStage
    match stageBad s fn x.part sm with
    | some o => (fail (some o), s)
    | none =>
      match raw.findIdx? (fun r => !edgeOk gd.nTasks r) with
      | some k => (fail (some (8 * k)), s)
      | none =>
        if !gatesOk es targets || !scaleRecordsOk ts then (fail none, s)
        else
          let tas := ts.mapIdx (fun i t => taskA bt bs stages s fn i t)
          let pairs := depPairs s fn x.part tas es
          let topo := topoOrder pairs gd.nTasks [] (List.range gd.nTasks)
          if topo.length < gd.nTasks then (fail none, s)
          else
            let key := s.planKey fn x.part x.graphVa gd.tag bs
            let dense := transposedPages tas
            let c : AdmCtx := { fn := fn, part := x.part, gd := gd, stages := stages, targets := targets, edges := es,
                                tasks := tas, pairs := pairs, dense := dense, costs := tas.map (taskCost s fn dense),
                                window := key.window }
            let cps := criticalPaths pairs c.cost topo
            let cp (i : Nat) : Nat := ((cps.find? (fun y => y.1 = i)).map (·.2)).getD 0
            let stage (i : Nat) : Nat := (tas.getD i (taskA bt bs stages s fn i (parseTask 0 0 0 (parseFormat 0 0)))).t.stage
            match schedule s c (sortBy (keyLt stage cp) (List.range gd.nTasks)) gd.nTasks [] with
            | .error e => (.error { code := e.1, task := some e.2, level := none, info := none }, s)
            | .ok placed =>
              let len := (placed.map (fun y => y.tick + 1)).foldl max 0
              (.ok { key := key, tasks := ts, edges := es, stages := stages, gateBase := gd.gateBase, targets := targets,
                     placed := placed, length := len, trips := tas.map (·.trips), frames := planFrames s c,
                     swaps := (stages.flatMap (fun e => swappedOn c e.core (List.range gd.nTasks))).eraseDups,
                     noCache := bitOf gd.flags 0, thresh := bitsOf s.reg.sparseCfg.toNat 7 0,
                     ext := (List.range 7).map (fun d => bucketExt bt bs (d + 1)), startedAt := s.adm.startSeq }, s)
  | none, _, _ => (fail (some 0x100), s)
  | _, none, _ => (fail (some (0x100 + 8 * gd.nStages)), s)
  | _, _, none => (fail (some 0), s)

/-- The turn that admits at most 32 tasks of a graph; after the last of them the plan is complete. -/
def admitTurn (x : Sub) (gd : GraphD) (bt : List (List Nat)) (bs : List Nat) (ts : List Task) (s : State) : State :=
  let (sm, s) := readStages x gd s
  match checkTasks x gd bt bs ((sm.getD []).map parseStage) 32 ts s with
  | (.error e, s) => refuseSub x e s
  | (.ok ts, s) =>
    if ts.length < gd.nTasks then updSub x (fun y => some { y with phase := .fit gd bt bs ts }) s
    else if s.level x.part < gd.feature then refuseSub x (.mk' 0x0103 (some 0)) s
    else
      match admitPlan x gd bt bs ts s with
      | (.error e, s) => refuseSub x e s
      | (.ok p, s) =>
        match cachePlan p s with
        | some s => queueExec x p s
        | none => updSub x (fun y => some { y with phase := .fit gd bt bs ts }) s

/-! ## Turns (R241) -/

/-- The next of the keys after `last`, round-robin in ascending order. -/
def nextAfter (last : Nat) (ks : List Nat) : Option Nat :=
  let best (l : List Nat) : Option Nat :=
    l.foldl (fun (b : Option Nat) k => match b with | none => some k | some x => some (min x k)) none
  match best (ks.filter (fun k => last < k)) with
  | some k => some k
  | none => best ks

/-- A function's turn ends its wait behind other functions' turns, of which the longest is kept in microseconds (ADM_WAIT_MAX); the other
functions with work at the engine wait from here, where they did not already. -/
def noteWait (fn : Nat) (others : List Nat) (s : State) : State :=
  let w := min 0xFFFF ((s.tick.st - tgetD s.adm.behind fn s.tick.st) / 16000)
  let b := others.foldl (fun b g => tput b g (tgetD b g s.tick.st)) (tdel s.adm.behind fn)
  { s with adm := { s.adm with waitMax := if tgetD s.adm.waitMax fn 0 < w then tput s.adm.waitMax fn w else s.adm.waitMax,
                               behind := b } }

/-- One turn of an Admission Engine. -/
def aeTurn (a : Nat) (s : State) : State :=
  match s.adm.aes[a]? with
  | none => s
  | some ae =>
    match nextAfter ae.lastFn (ae.subs.map (·.ticket.fn)) with
    | none => s
    | some fn =>
      match nextAfter (tgetD ae.lastQ fn 0) ((ae.subs.filter (fun x => x.ticket.fn = fn)).map (·.ticket.q)) with
      | none => s
      | some q =>
        match ae.subs.find? (fun x => x.ticket.fn = fn ∧ x.ticket.q = q) with
        | none => s
        | some x =>
          let s := noteWait fn ((ae.subs.map (·.ticket.fn)).filter (· ≠ fn)) s
          let s := setAe a (fun ae => { ae with lastFn := fn, lastQ := tput ae.lastQ fn q }) s
          match x.phase with
          | .check => checkTurn x s
          | .fit gd bt bs ts => admitTurn x gd bt bs ts s

/-- AE_TURN (R241). -/
def execAeTurn (ae : Nat) (s : State) : Host.Outcome State Fault Refusal := .next (aeTurn ae s)

/-! ## SUBMIT and FLUSH -/

/-- A SUBMIT reaches the Admission Engine of its function; an engine without other work takes its first turn at once. -/
def submitEffect (e : Nat) (t : Ticket) (s : State) : State :=
  let p := entF e 0x18 1
  if 16 ≤ p ∨ shareOf (s.fnPartEff t.fn p) = 0 then completeSt t stDenied s
  else
    let start := if bitOf (entF e 0x01 1) 0 then some (entF e 0x10 8 % 2 ^ 48) else none
    let x : Sub := { id := none, ticket := t, graphVa := entF e 0x08 8, part := p,
                     xs := (List.range 7).map (fun i => entF e (0x1C + 4 * i) 4), startTick := start, phase := .check }
    let a := t.fn % 8
    let subs := (s.adm.aes.getD a Ae.reset).subs
    let idle := subs == []
    let s := if subs.any (fun y => y.ticket.fn == t.fn) then s
      else { s with adm := { s.adm with behind := tdel s.adm.behind t.fn } }
    let s := setAe a (fun ae => { ae with subs := ae.subs ++ [x] }) s
    if idle then aeTurn a s else s

/-- SUBMIT (R228, R242, R258, R493). -/
def execSubmit (fn q : Nat) (s : State) : Host.Outcome State Fault Refusal :=
  .next (onEntry opSubmit fn q submitEffect s)

/-- FLUSH: the plans of the function, all of them or those of one graph; INFO is the number removed (R258). -/
def flushEffect (e : Nat) (t : Ticket) (s : State) : State :=
  let va := entF e 0x08 8
  let hit (p : Plan) : Bool := p.key.fn == t.fn && (va == 0 || p.key.graphVa == va)
  let n := (s.adm.plans.filter hit).length
  complete { Compl.mk' t stOk with info := n } (flushPlans hit s)

/-- FLUSH (R258). -/
def execFlush (fn q : Nat) (s : State) : Host.Outcome State Fault Refusal :=
  .next (onEntry opFlush fn q flushEffect s)

end Sys2Proof.Machine
end

