-- ==== Sys2Proof/Machine/Attention.lean ====
section
/-!
DEFINITION. The Stream Engine's operations on attention (R202-R204): the partial state of a key block, the merge of partial states,
the combination of the blocks of a ring member and of the members of a ring. The manual gives no task field that selects them and no
layout of a partial state in memory, so no command runs them by itself (log entry 107).
-/

namespace Sys2Proof.Machine

open Sys2Proof

/-! ## The procedure of R100 with any operation -/

/-- push of R100: the older value stands on the left. -/
def pushBy {α : Type} (op : α → α → α) (v : α) : Nat → List (α × Nat) → List (α × Nat)
  | lvl, [] => [(v, lvl)]
  | lvl, e :: r => if e.2 = lvl then pushBy op (op e.1 v) (lvl + 1) r else (v, lvl) :: e :: r

/-- fold of R100. -/
def foldBy {α : Type} (op : α → α → α) : List (α × Nat) → Option α
  | [] => none
  | e :: r => some (r.foldl (fun a e => op e.1 a) e.1)

/-- Combine leaves in their order by the procedure of R100. -/
def pairwise {α : Type} (op : α → α → α) (vs : List α) : Option α := foldBy op (vs.foldl (fun st v => pushBy op v 0 st) [])

/-! ## Partial states (R202, R203) -/

/-- A partial state of one query token and head: the largest score, the sum of the probabilities, the head output. -/
structure AttnState where
  mx : Word
  l  : Word
  o  : List Word
  deriving DecidableEq, Repr

def fp32NegInf : Word := fp32Inf true

/-- The larger of two FP32 values; 0x7FC0_0000 where either is a NaN (R203). -/
def fmax32 (a b : Word) : Word :=
  match fval a, fval b with
  | .nan, _ => fp32Nan
  | _, .nan => fp32Nan
  | .inf n, _ => if n then b else a
  | _, .inf n => if n then a else b
  | x, y => if fvRat x < fvRat y then b else a

/-- Step 1 of R202: the score of lane n of block b stands where the token L·b + n does not come after the query's position and the
lane lies within the block's bound. -/
def maskScores (pos lanes b bound : Nat) (scores : List Word) : List Word :=
  scores.mapIdx (fun n s => if pos < lanes * b + n ∨ bound ≤ n then fp32NegInf else s)

/-- Step 2: the largest score. -/
def maxScore (ss : List Word) : Word := ss.foldl fmax32 fp32NegInf

/-- Step 3: the probability of a score. -/
def prob (mx s : Word) : Word := if mx = fp32NegInf then 0 else seExp (fadd32 s (fneg32 mx))

/-- The partial state of a key block (R202): `conv` converts a probability to the task's OUT_FMT (R134), and `value` is the value
product of the codes over the value block. -/
def attnPartial (pos lanes b bound : Nat) (conv : Word → Nat) (value : List Nat → List Word) (scores : List Word) : AttnState :=
  let ss := maskScores pos lanes b bound scores
  let mx := maxScore ss
  let ps := ss.map (prob mx)
  { mx := mx, l := (pairwise fadd32 ps).getD 0, o := value (ps.map conv) }

/-- merge of R203. -/
def attnMerge (a b : AttnState) : AttnState :=
  let m := fmax32 a.mx b.mx
  if m = fp32NegInf then a
  else
    let ea := seExp (fadd32 a.mx (fneg32 m))
    let eb := seExp (fadd32 b.mx (fneg32 m))
    { mx := m, l := fadd32 (fmul32 a.l ea) (fmul32 b.l eb),
      o := List.zipWith (fun x y => fadd32 (fmul32 x ea) (fmul32 y eb)) a.o b.o }

/-- The final output of R203. -/
def attnOut (a : AttnState) : List Word := a.o.map (fun x => fmul32 x (seRecip a.l))

/-! ## Rings (R203, R204) -/

/-- The ring member that holds a block of a sequence. -/
def blockMember (members b : Nat) : Nat := b % members

/-- The member to which a query tile passes next. -/
def ringNext (members i : Nat) : Nat := (i + 1) % members

/-- The blocks of a sequence of n blocks that a member holds, in ascending index. -/
def memberBlocks (members n i : Nat) : List Nat := (List.range n).filter (fun b => blockMember members b == i)

/-- The running partial state that a query tile takes on at a member: its blocks merged in ascending block index. -/
def memberState (members n : Nat) (block : Nat → AttnState) (i : Nat) : Option AttnState :=
  pairwise attnMerge ((memberBlocks members n i).map block)

/-- The output of a query tile at its home member: the states of the members merged in ascending member index. -/
def ringOut (members n : Nat) (block : Nat → AttnState) : Option (List Word) :=
  (pairwise attnMerge ((List.range members).filterMap (memberState members n block))).map attnOut

end Sys2Proof.Machine
end

