-- ==== Sys2Proof/Machine/Links.lean ====
section
/-!
DEFINITION. Chip links as the other blocks use them: topologies and peers (R318-R322), routes and detours (R334-R336),
record headers (R328), markers (R350), link modes (R337), the paths of spanning partitions (R347).
-/

namespace Sys2Proof.Machine

open Sys2Proof

/-! ## Topologies (Tables 11-1 and 11-2) -/

def State.topology (s : State) : Nat := odNat s 0x4000 0x01 0
def State.nGroups (s : State) : Nat := odNat s 0x4000 0x03 1

/-- The peer of global index x of group g: its group and its global index. -/
def globalPeer (g x : Nat) : Nat × Nat :=
  if x ≤ 126 then ((g + 1 + x) % 128, 126 - x) else ((g + x - 79) % 128, 286 - x)

/-- The module and link that R319 to R321 connect to link l of module m. -/
def peerOf (topo nGroups m l : Nat) : Option (Nat × Nat) :=
  let g := m / 32
  let p := m % 32
  let localPeer : Option (Nat × Nat) := if l ≤ 30 then some (32 * g + (p + 1 + l) % 32, 30 - l) else none
  match topo with
  | 1 => if m ≤ 1 && l < 36 then some (1 - m, l) else none
  | 2 => if g = 0 then localPeer else none
  | 3 =>
    if l ≤ 30 then localPeer
    else if l < 36 then
      let y := globalPeer g (5 * p + (l - 31))
      if y.1 < nGroups then some (32 * y.1 + y.2 / 5, 31 + y.2 % 5) else none
    else none
  | _ => none

def State.peer (s : State) (l : Nat) : Option (Nat × Nat) := peerOf s.topology s.nGroups s.moduleNo l

/-- The peer's position holds a module: in topology 2 a position may be empty (Table 11-1, log entry 69). -/
def State.peerPresent (s : State) (l : Nat) : Bool :=
  match s.peer l with
  | none => false
  | some (m, _) => s.topology != 2 || Config.present m

/-- A link that the topology connects and DISABLE leaves on. -/
def State.linkConnected (s : State) (l : Nat) : Bool := s.peerPresent l && odNat s (0x4040 + l) 0x0D 0 == 0

/-- The links of a module that waits for its start-up sequence or is HELD: connected ones in IDLE_TRAIN, but for those left DOWN or
REFUSED (R337, R431). -/
def idleLinks (s : State) : State :=
  (List.range 36).foldl (fun s l =>
    let k := s.link l
    let m := if !s.linkConnected l then .off else if k.mode == .down || k.mode == .refused then k.mode else .idleTrain
    s.setLink l { k with mode := m }) s

/-! ## Link modes -/

/-- Codes of Table 11-6. -/
def LinkMode.code : LinkMode → Nat
  | .off => 0
  | .idleTrain => 1
  | .train => 2
  | .soak => 3
  | .up => 4
  | .lowpwr => 5
  | .down => 6
  | .refused => 7

def LinkMode.usable : LinkMode → Bool
  | .up => true
  | .lowpwr => true
  | _ => false

/-- The lanes lose lock, and with it their history. -/
def Link.unlock (k : Link) : Link := { k with lock := false, cleanWin := 0, errNow := false }

/-- The last 2 s of the lanes meet the gate of R339. -/
def Link.historyOk (k : Link) : Bool := 2 ≤ k.cleanWin && !k.errNow

/-- The lanes that the spare replaces, and bit 7 of a failed spare. -/
def Link.replaced (k : Link) : Nat := k.laneMap ||| k.heldMap

def usableCode (c : Nat) : Bool := c == 4 || c == 5

/-- The state of a link of any module, as this module knows it; a remote link of which no LINKSTATE has come is taken
as UP (log entry 19). -/
def State.linkSt (s : State) (m l : Nat) : Nat :=
  if m = s.moduleNo then (s.link l).mode.code else (tgetD s.net.view (m * 64 + l) (4, 0)).1

def State.linkOk (s : State) (m l : Nat) : Bool := usableCode (s.linkSt m l)

/-! ## Records (Table 11-5) -/

def hdrF (h : BitVec 256) (hi lo : Nat) : Nat := bitsOf h.toNat hi lo

def recType (r : LinkRecord) : Nat := hdrF r.header 3 0
def recChk (r : LinkRecord) : Bool := r.header.getLsbD 4
def recHop (r : LinkRecord) : Nat := hdrF r.header 7 5
def recSrc (r : LinkRecord) : Nat := hdrF r.header 19 8
def recDst (r : LinkRecord) : Nat := hdrF r.header 31 20
def recPid (r : LinkRecord) : Nat := hdrF r.header 43 32
def recFn (r : LinkRecord) : Nat := hdrF r.header 52 44
def recStatus (r : LinkRecord) : Nat := hdrF r.header 55 53
def recNblk (r : LinkRecord) : Nat := hdrF r.header 60 56
def recCw (r : LinkRecord) : Nat := hdrF r.header 63 61
def recOff (r : LinkRecord) : Nat := hdrF r.header 103 64
def recTag (r : LinkRecord) : Nat := hdrF r.header 119 104

def mkHeader (rtype hop src dst pid func status nblk cw off tag : Nat) : BitVec 256 :=
  BitVec.ofNat 256 (rtype + hop * 2 ^ 5 + src * 2 ^ 8 + dst * 2 ^ 20 + pid * 2 ^ 32 + func * 2 ^ 44 + status * 2 ^ 53 +
    nblk * 2 ^ 56 + cw * 2 ^ 61 + off * 2 ^ 64 + tag * 2 ^ 104)

/-- The class of a record is DATA (R327). -/
def isData (rtype : Nat) : Bool := rtype == 1 || rtype == 3

/-! ## Routes (R334, R335) -/

/-- The link of position p that leads to global index x of its own group. -/
def toGlobal (p x : Nat) : Nat := if x / 5 = p then 31 + x % 5 else (x / 5 + 31 - p) % 32

def primaryIdx (g gd : Nat) : Nat := (gd + 128 - g) % 128 - 1

/-- The global link with index x of group g is usable. -/
def State.globalOk (s : State) (g x : Nat) : Bool := s.linkOk (32 * g + x / 5) (31 + x % 5)

/-- The global index by which a record leaves group g for group gd: the link of R334, else the pair's other link, else
the primary link toward the lowest group that can pass it on. -/
def State.globalIdx (s : State) (g gd src : Nat) : Option Nat :=
  let d := (gd + 128 - g) % 128
  let two := 48 ≤ d && d ≤ 80
  let first := if two && src % 2 == 1 then d + 79 else d - 1
  let other := if two then [if first = d - 1 then d + 79 else d - 1] else []
  match (first :: other).find? (s.globalOk g) with
  | some x => some x
  | none =>
    ((List.range s.nGroups).find? (fun gi => gi != g && gi != gd && s.globalOk g (primaryIdx g gi) &&
      s.globalOk gi (primaryIdx gi gd))).map (primaryIdx g)

/-- The local link toward position q of the own group, or the detour through a third position. -/
def State.localLink (s : State) (q : Nat) : Option Nat :=
  let m := s.moduleNo
  let p := m % 32
  let direct := (q + 31 - p) % 32
  if s.linkOk m direct then some direct
  else
    ((List.range 32).find? (fun r => r != p && r != q && s.linkOk m ((r + 31 - p) % 32) &&
      s.linkOk (m / 32 * 32 + r) ((q + 31 - r) % 32))).map (fun r => (r + 31 - p) % 32)

/-- The link on which a record leaves this module; `key` chooses the link of a pair. -/
def State.routeLink (s : State) (src dst key : Nat) : Option Nat :=
  let m := s.moduleNo
  match s.topology with
  | 1 => if s.linkOk m (key % 36) then some (key % 36) else none
  | 2 => s.localLink (dst % 32)
  | 3 =>
    if dst / 32 = m / 32 then s.localLink (dst % 32)
    else
      match s.globalIdx (m / 32) (dst / 32) src with
      | none => none
      | some x => if x / 5 = m % 32 then some (31 + x % 5) else s.localLink (x / 5)
  | _ => none

/-- The key by which the records of a pair choose their link (R334). -/
def pairKey (rtype pid off : Nat) : Nat := if rtype = 5 then off % 2 ^ 14 else pid + off / 2 ^ 21

/-! ## Messages -/

def sendMsg (m : OutMsg) (s : State) : State := { s with host := { s.host with out := s.host.out ++ [m] } }

/-! ## Markers (Table 11-7) -/

def mkMarker (type payload : Nat) : Dword := BitVec.ofNat 64 (type * 2 ^ 60 + payload)

/-- The links that carry a marker: all in UP and LOWPWR, and those in SOAK for SYNC and ANNOUNCE. -/
def State.markerLinks (s : State) (soak : Bool) : List Nat :=
  (List.range 36).filter (fun l => (s.link l).mode.usable || (soak && (s.link l).mode == .soak))

/-- Flood a marker on every link but one. -/
def flood (skip : Option Nat) (w : Dword) (s : State) : State :=
  (s.markerLinks false).foldl (fun s l => if skip = some l then s else sendMsg (.marker l w) s) s

/-! ## Spanning partitions (R347) -/

/-- PID of a local partition. -/
def State.pid (s : State) (p : Nat) : Nat := odNat s (0x4010 + p) 0x01 0xFFFF
def State.nMembers (s : State) (p : Nat) : Nat := odNat s (0x4010 + p) 0x02 1
def State.spanning (s : State) (p : Nat) : Bool := s.pid p != 0xFFFF

/-- ST of boundary 0 for a START_ST written now: START_ST, or for 0 in a local partition the next multiple of 2^24 (R348). -/
def State.startAt (s : State) (p st : Nat) : Nat := if st = 0 ∧ !s.spanning p then (s.tick.st / 2 ^ 24 + 1) * 2 ^ 24 else st

/-- The local partition that carries a PID. -/
def State.partOfPid (s : State) (pid : Nat) : Option Nat := (List.range 16).find? (fun p => s.pid p == pid)

/-- Modules joined to m by one usable link. -/
def State.neighbours (s : State) (m : Nat) : List Nat :=
  (List.range 36).filterMap (fun l =>
    match peerOf s.topology s.nGroups m l with
    | none => none
    | some (m', l') => if s.linkOk m l && s.linkOk m' l' then some m' else none)

/-- Modules of a set reached from m in at most n links through the set. -/
def State.reached (s : State) (ms : List Nat) (m : Nat) : Nat → List Nat
  | 0 => [m]
  | n + 1 =>
    let r := s.reached ms m n
    (r ++ r.flatMap (fun x => (s.neighbours x).filter ms.contains)).eraseDups

/-- Every two members are joined by at most three usable links, all of whose modules are members. -/
def State.pathsOk (s : State) (p : Nat) : Bool :=
  let ms := s.partMembers p
  ms.all (fun m => let r := s.reached ms m 3; ms.all r.contains)

/-- After a change of a link's state: each spanning partition whose path condition fails is FROZEN at its next boundary,
with 0x0407. -/
def checkPaths (s : State) : State :=
  ((List.range 16).filter (fun p => s.spanning p && s.partTicks p && !(s.part p).freezeNext && !s.pathsOk p)).foldl
    (fun s p =>
      raise { EventRec.mk' 0x0407 with part := some p, unit := some (s.pid p), info := some 0 }
        (s.setPart p { s.part p with freezeNext := true })) s

/-- A record of a link fault: the lane, 7 for none, and the link's state. -/
def linkEvent (code l lane : Nat) (s : State) : EventRec :=
  { EventRec.mk' code with unit := some l, info := some (lane + (s.link l).mode.code * 256) }

def raiseLink (code l lane : Nat) (s : State) : State := raise (linkEvent code l lane s) s

/-- At most once per link per second. -/
def raiseLinkSec (code l : Nat) (s : State) : State := raiseOncePer (1000 * msSt) l (linkEvent code l 7 s) [] s

/-- 0x040D, once for the record concerned. -/
def raiseRoute (link : Option Nat) (rtype status dst : Nat) (s : State) : State :=
  raise { EventRec.mk' 0x040D with unit := link, info := some (rtype + status * 16 + dst * 2 ^ 20) } s

end Sys2Proof.Machine
end

