-- ==== Sys2Proof/Machine/Clock.lean ====
section
/-!
DEFINITION. Clock, voltage and tick length of a partition (R364-R367), and the prediction of the energy model
(R368, R369, R373).
-/

namespace Sys2Proof.Machine

open Sys2Proof

/-! ## Frequencies -/

def State.fMax (s : State) : Nat := odNat s 0x3000 0x0C 2200

/-- ceil25 of `n / d`. -/
def ceil25 (n d : Nat) : Nat := ceilDiv n (25 * d) * 25

/-- k_min at a frequency, with the stretch allowance a in 1/16 (R367). -/
def kMin (a f : Nat) : Nat := ceilDiv (1000 * (16 + a)) f - 8

/-- f_L of R373. -/
def fOf (a fmax l : Nat) : Nat := max 800 (min fmax (ceil25 (1000 * (16 + a)) (8 + l)))

def lLoOf (a fmax : Nat) : Nat := kMin a fmax
def lHiOf (a : Nat) : Nat := ceilDiv (20 * (16 + a)) 16 - 8

/-- V(f) in mV, from the module's own table (object 0x3003). -/
def vOf (f : Nat) : Nat := fieldLE (Config.factoryObject 0x3003 0x01) ((f - 800) / 25 * 2) 2

/-- A coefficient of Table 12-3, as object 0x3002 holds it. -/
def energyCoef (sub : Nat) : Rat := fvRat (fval (BitVec.ofNat 32 (ofLE (Config.factoryObject 0x3002 sub))))

/-! ## Dies and partitions -/

/-- Dies on which a partition has clusters. -/
def State.partDies (s : State) (p : Nat) : List Nat := (List.range 4).filter (fun d => (s.partClusters p).any (fun c => c / 32 == d))

/-- Every cluster of a die that is in a partition is parked, and there is one. -/
def State.dieParked (s : State) (d : Nat) : Bool :=
  let ps := (List.range 16).filter (fun p => (s.partClusters p).any (fun c => c / 32 == d))
  ps != [] && ps.all (fun p => (s.part p).state == .parked)

/-- The highest CCLK on a die: clusters in no partition run at 800 MHz (R364). -/
def State.dieClk (s : State) (d : Nat) : Nat :=
  (List.range 16).foldl (fun m p => if (s.partDies p).contains d then max m (s.ppart p).cclk else m) 800

/-- A die whose clusters are held at 800 MHz for want of valid sensors (R385). -/
def State.held800 (s : State) (p : Nat) : Bool := (s.partDies p).any (fun d => (s.pdie d).hold800)

/-! ## Predicted power (R369) -/

/-- Energy in pJ of activity at reference conditions, by the coefficients 1 to 7 of Table 12-3. -/
def energyPj (work : List Nat) : Rat := (work.mapIdx (fun i n => energyCoef (i + 1) * (n : Rat))).sum

/-- The modelled dynamic energy of one plan tick of a plan, in pJ. -/
def Plan.tickEnergy (p : Plan) (t : Nat) : Rat := ((p.placed.filter (fun x => x.tick = t)).map (fun x => energyPj x.work)).sum

/-- D_p in W: the energy of the largest plan tick over PERIOD_US, of the executions in progress. -/
def State.dPart (s : State) (p : Nat) : Rat :=
  ((s.adm.execs.filter (fun e => e.phase = .running ∧ e.plan.key.part = p)).map (fun e =>
    ((List.range e.plan.length).foldl (fun (m : Rat) t => max m (e.plan.tickEnergy t)) 0) /
      (1000000 * (max 1 e.plan.key.period : Nat)))).sum

/-- The static draw of the dies (R368). -/
def staticDraw (parked : Nat → Bool) : Rat :=
  ((List.range 4).map (fun d => if parked d then energyCoef 0x09 else energyCoef 0x08)).sum

/-- pred(L, f) of the module, for the partitions that `run` counts as running and the dies that `parked` counts as parked. -/
def State.pred (s : State) (run parked : Nat → Bool) (l f : Nat) : Rat :=
  let v : Rat := (vOf f : Rat) / 750
  staticDraw parked +
  s.pwr.corr * (((List.range 16).filter run).map (fun p => s.dPart p * v * v * 8 / ((8 + l : Nat) : Rat))).sum

def State.running (s : State) (p : Nat) : Bool := (s.part p).state == .running

/-- The draw predicted for the partitions as they run: each at its CCLK, in ticks of its length. -/
def State.predNow (s : State) : Rat :=
  staticDraw s.dieParked + s.pwr.corr * (((List.range 16).filter s.running).map (fun p =>
    let v : Rat := (vOf (s.ppart p).cclk : Rat) / 750
    s.dPart p * v * v * 8 / ((8 + (s.part p).k : Nat) : Rat))).sum

/-! ## VCORE (R361, R364, R365) -/

/-- A commanded VCORE lies within the range of Table 12-1. -/
def vClamp (mv : Nat) : Nat := max 640 (min 820 mv)

/-- VCORE_d: V of the highest CCLK on the die; V(800) where every cluster is parked or in no partition. -/
def State.vcoreOf (s : State) (d : Nat) : Nat := vClamp (vOf (if s.dieParked d then 800 else s.dieClk d))

/-- At a lead point the higher voltage of a step up is commanded on the partition's dies. -/
def raiseVcore (p f : Nat) (s : State) : State :=
  (s.partDies p).foldl (fun s d => s.setPdie d { s.pdie d with vset := max (s.pdie d).vset (vClamp (vOf f)) }) s

/-- After a boundary every die whose rails are up follows the V/f table. -/
def settleVcore (s : State) : State :=
  if s.life.rails.rest then (List.range 4).foldl (fun s d => s.setPdie d { s.pdie d with vset := s.vcoreOf d }) s else s

/-! ## TLEN and CCLK (R365, R367) -/

/-- The TLEN that the Power Governor requests at a lead point, and the partition's state after it: L_p by level
dithering, f_next within an upward step of 75 MHz. -/
def tlenRequest (s : State) (p : Nat) : Nat × PowerPart :=
  let a := s.pwr.allow
  let g := s.ppart p
  let x := s.pwr.lstar + g.acc
  let l := x.floor.toNat
  let want := if s.held800 p then 800 else fOf a s.fMax s.pwr.lstar.floor.toNat
  let next := min want (g.cclk + 75)
  let ft := min g.cclk next
  (min 22 (max l (kMin a ft)), { g with nextClk := next, acc := x - l })

/-- A stretch is active on the partition's dies, or was released less than 1 microsecond ago (R365, R383). -/
def State.stretched (s : State) (p : Nat) : Bool :=
  s.pwr.excursion || s.pwr.overrun || s.pwr.thermStretch || s.pwr.railStretch ||
  (s.partDies p).any (fun d => (s.pdie d).droop != 0 || ((s.pdie d).stretchAt != 0 && s.tick.st < (s.pdie d).stretchAt + 16000))

/-- VCORE of every die of the partition has reached V(f), by its last reading. -/
def State.railsReach (s : State) (p f : Nat) : Bool := (s.partDies p).all (fun d => vOf f ≤ (s.pdie d).mv)

/-- The step of a partition's CCLK at a boundary, for a tick of length code k of which this module asked `own`. -/
def stepClock (p k own : Nat) (s : State) : State :=
  let g := s.ppart p
  let f := if s.stretched p then g.cclk
    else if g.nextClk ≤ g.cclk then g.nextClk
    else if s.railsReach p g.nextClk then g.nextClk else g.cclk
  let f := if own < k then min f (max 800 (ceil25 (1000 * (16 + s.pwr.allow)) (8 + k))) else f
  s.setPpart p { g with cclk := f }

end Sys2Proof.Machine
end

