-- ==== Sys2Proof/Machine/LinkPort.lean ====
section
/-!
DEFINITION. The Link Ports: records and their block segments (R328, R332), flits (R325, R326), the output port with credits and turns
(R327, R331, R333), sending and answering (R330), accesses that fail, and link modes with what a change of one does (R335, R337).
-/

namespace Sys2Proof.Machine

open Sys2Proof

/-! ## Stored and logical blocks (R180, R181) -/

/-- COMP_MAP of a block of containers of c bits: bit b is set when compression block b is not all zero. -/
def compMapOf (c : Nat) (d : BlockData) : Nat :=
  ((List.range (64 / c)).map (fun b => bit01 ((d.toNat >>> (32 * c * b)) % 2 ^ (32 * c) != 0) * 2 ^ b)).sum

/-- The stored form of a block: its stored compression blocks at the front (R180). -/
def compactData (c map : Nat) (d : BlockData) : BlockData :=
  let kept := (List.range (64 / c)).filter (fun b => bitOf map b)
  BitVec.ofNat 2048 ((kept.mapIdx (fun i b => ((d.toNat >>> (32 * c * b)) % 2 ^ (32 * c)) <<< (32 * c * i))).sum)

/-- The logical form of a stored block (R181). -/
def expandData (c map : Nat) (d : BlockData) : BlockData :=
  let kept := (List.range (64 / c)).filter (fun b => bitOf map b)
  BitVec.ofNat 2048 ((kept.mapIdx (fun i b => ((d.toNat >>> (32 * c * i)) % 2 ^ (32 * c)) <<< (32 * c * b))).sum)

/-! ## Segments and records (R328, R332) -/

/-- The logical form of a block segment. -/
def segBlock (cw : Nat) (seg : BitVec 128 × BlockData) : Block :=
  let b := Block.ofMeta seg.2 seg.1
  if b.comp then { b with data := expandData (2 ^ cw) b.compMap.toNat b.data } else b

/-- The segment of a block. -/
def blockSeg (cw : Nat) (b : Block) : BitVec 128 × BlockData :=
  (b.meta, if b.comp then compactData (2 ^ cw) b.compMap.toNat b.data else b.data)

/-- Stored bytes of a segment with this metadata, padded to 16. -/
def storedLen (cw : Nat) (m : BitVec 128) : Nat :=
  let n := m.toNat
  let map := if bitOf n 99 then bitsOf n 39 32 else bitsOf n 95 32
  if bitOf n 97 then ceilDiv (4 * 2 ^ cw * ((List.range 64).filter (bitOf map)).length) 16 * 16 else 256

/-- Bytes of one block segment: metadata and stored bytes. -/
def segBytes (cw : Nat) (b : BitVec 128 × BlockData) : Nat := 16 + storedLen cw b.1

/-- Bytes of a record. -/
def recLen (r : LinkRecord) : Nat := 32 + (r.blocks.map (segBytes (recCw r))).sum

/-- A record as bytes: header and segments. -/
def recBytes (r : LinkRecord) : List Byte :=
  leB r.header.toNat 32 ++ r.blocks.flatMap (fun b => leB b.1.toNat 16 ++ leB b.2.toNat (storedLen (recCw r) b.1))

/-- Units of 16 bytes that a record takes of a buffer. -/
def recUnits (r : LinkRecord) : Nat := recLen r / 16

/-- Flits whose bodies a record takes (R325). -/
def recFlits (r : LinkRecord) : Nat := ceilDiv (recLen r) 248

/-- The buffer of a record: class * 5 + VC, CTL being class 0 and DATA class 1 (R327, log entry 110). -/
def recBuf (r : LinkRecord) : Nat := bit01 (isData (recType r)) * 5 + min 4 (recHop r)

/-- Clear the CHECK of a block's metadata. -/
def dropCheck (b : BitVec 128 × BlockData) : BitVec 128 × BlockData := ((b.1 >>> 32) <<< 32, b.2)

/-- The record as a link of a protocol level sends it: CHK = 1 at level 4; CHK = 0 and no check words below (R332). -/
def recAtLevel (r : LinkRecord) (level : Nat) : LinkRecord :=
  if 4 ≤ level then { r with header := r.header ||| BitVec.ofNat 256 16 }
  else { header := r.header &&& ~~~(BitVec.ofNat 256 16), blocks := r.blocks.map dropCheck }

/-! ## Reading records from flit bodies -/

/-- The first n segments of a stream of bytes, and the rest; `none` while they are not whole. -/
def takeSegs (cw : Nat) : Nat → List Byte → Option (List (BitVec 128 × BlockData) × List Byte)
  | 0, bs => some ([], bs)
  | n + 1, bs =>
    let m := BitVec.ofNat 128 (fieldLE bs 0 16)
    let len := 16 + storedLen cw m
    if bs.length < len then none
    else (takeSegs cw n (bs.drop len)).map (fun x => ((m, BitVec.ofNat 2048 (fieldLE bs 16 (len - 16))) :: x.1, x.2))

/-- The records at the front of a stream of body bytes, and the bytes of one not yet whole. Where a record could begin with RTYPE 0,
the rest of the flit is filling (log entry 70). A record of any other type is its header alone. -/
def takeRecords : Nat → List Byte → List LinkRecord × List Byte
  | 0, bs => ([], bs)
  | n + 1, bs =>
    if fieldLE bs 0 1 % 16 = 0 then ([], [])
    else if bs.length < 32 then ([], bs)
    else
      let h : LinkRecord := { header := BitVec.ofNat 256 (fieldLE bs 0 32), blocks := [] }
      match takeSegs (recCw h) (if isData (recType h) then min 16 (recNblk h) else 0) (bs.drop 32) with
      | none => ([], bs)
      | some (segs, rest) =>
        let x := takeRecords n rest
        ({ h with blocks := segs } :: x.1, x.2)

/-! ## Flits (Table 11-4) -/

def flitBits (fseq ack : Nat) (nak null : Bool) (cred : Nat) (body : List Byte) : BlockData :=
  let w := fseq % 4096 + ack % 4096 * 2 ^ 12 + bit01 nak * 2 ^ 24 + bit01 null * 2 ^ 25 + cred % 64 * 2 ^ 26
  let bs := leB w 4 ++ (body ++ List.replicate 248 0).take 248
  blockOfBytes (bs ++ leB (crc32 bs).toNat 4)

/-- The largest credit return of at most n units: its code and its units. -/
def credCode (n : Nat) : Nat × Nat :=
  if 64 ≤ n then (3, 64) else if 16 ≤ n then (2, 16) else if 4 ≤ n then (1, 4) else (0, 1)

/-- CRED of the next flit, of the lowest buffer that owes, and what is then still owed. -/
def Link.cred (k : Link) : Nat × Tab Nat :=
  match k.owed with
  | [] => (60, [])
  | (b, n) :: rest =>
    let c := credCode n
    (4 * b + c.1, if n ≤ c.2 then rest else (b, n - c.2) :: rest)

def Link.ackSeq (k : Link) : Nat := (k.rxSeq + 4095) % 4096

/-- Send one sequenced flit: it is kept for replay. -/
def Link.txFlit (k : Link) (body : List Byte) : Link :=
  let c := k.cred
  let f := flitBits k.txSeq k.ackSeq false false c.1 body
  { k with txSeq := (k.txSeq + 1) % 4096, kept := (k.kept ++ [(k.txSeq, f)]).drop (k.kept.length + 1 - 512), owed := c.2,
           sinceAck := 0 }

/-- A NULL flit: it carries ACK_SEQ and a credit return. -/
def sendNull (l : Nat) (s : State) : State :=
  let k := s.link l
  let c := k.cred
  sendMsg (.flit l (flitBits k.txSeq k.ackSeq false true c.1 [])) (s.setLink l { k with owed := c.2, sinceAck := 0 })

/-- NULL flits until no credit is owed, or at most n. -/
def returnCredit (l : Nat) : Nat → State → State
  | 0, s => s
  | n + 1, s => if (s.link l).owed = [] then s else returnCredit l n (sendNull l s)

/-- A record has left a buffer of this end. -/
def oweFor (l : Nat) (r : LinkRecord) (s : State) : State :=
  let k := s.link l
  s.setLink l { k with owed := tputD 0 k.owed (recBuf r) (tgetD k.owed (recBuf r) 0 + recUnits r) }

/-! ## The output port (R327, R331, R333) -/

/-- Units of 16 bytes in a buffer of 8 KiB. -/
def bufUnits : Nat := 512

def sameFlow (a b : LinkRecord) : Bool :=
  isData (recType a) == isData (recType b) && recSrc a == recSrc b && recDst a == recDst b

/-- Records that none of their class, source and destination precedes, with their places (R331). -/
def flowHeads (q : List LinkRecord) : List (Nat × LinkRecord) :=
  (q.mapIdx (fun i r => (i, r))).filter (fun x => !(q.take x.1).any (sameFlow x.2))

/-- The link's state carries the record and the peer's buffer has credit for all of it. -/
def Link.canSend (k : Link) (r : LinkRecord) : Bool :=
  (k.mode == .up || (k.mode == .lowpwr && !isData (recType r))) && recUnits r ≤ tgetD k.credit (recBuf r) bufUnits

/-- How far a record's partition, then its function, lies from the one whose turn is next. -/
def Link.turnKey (k : Link) (r : LinkRecord) : Nat :=
  (recPid r + 4096 - k.rrPid) % 4096 * 512 + (recFn r + 512 - tgetD k.rrFn (recPid r) 0) % 512

/-- The entry with the least key; of equals the first. -/
def leastBy {α : Type} (key : α → Nat) (xs : List α) : Option α :=
  xs.foldl (fun (b : Option α) x =>
    match b with
    | none => some x
    | some y => if key x < key y then some x else some y) none

/-- The place of the record that leaves next: a CTL record, which takes one flit in four while a DATA record could leave; else the DATA
record whose turn it is. -/
def Link.pick (k : Link) : Option Nat :=
  let ok := (flowHeads k.queue).filter (fun x => k.canSend x.2)
  let ctl := ok.find? (fun x => !isData (recType x.2))
  let data := leastBy (fun x => k.turnKey x.2) (ok.filter (fun x => isData (recType x.2)))
  match ctl, data with
  | some c, some d => some (if 3 ≤ k.ctlGap then c.1 else d.1)
  | some c, none => some c.1
  | none, some d => some d.1
  | none, none => none

/-- The check at egress: a block whose check word does not hold leaves poisoned (Table 9-5). -/
def egressSeg (l : Nat) (r : LinkRecord) (i : Nat) (seg : BitVec 128 × BlockData) (s : State) : (BitVec 128 × BlockData) × State :=
  let b := segBlock (recCw r) seg
  let x := verifyBlk (recFn r) (l / 9) none (recOff r + 256 * i) b s
  (if x.1.poison = b.poison then seg else blockSeg (recCw r) x.1, x.2)

def egressAll (l : Nat) (r : LinkRecord) (s : State) : List (BitVec 128 × BlockData) × State :=
  (r.blocks.mapIdx (fun i b => (i, b))).foldl (fun (a : List (BitVec 128 × BlockData) × State) x =>
    let y := egressSeg l r x.1 x.2 a.2
    (a.1 ++ [y.1], y.2)) ([], s)

/-- The turns after a record has left. -/
def Link.afterTurn (k : Link) (r : LinkRecord) : Link :=
  if isData (recType r) then
    { k with rrPid := (recPid r + 1) % 4096, rrFn := tput k.rrFn (recPid r) ((recFn r + 1) % 512),
             ctlGap := min 3 (k.ctlGap + recFlits r) }
  else { k with ctlGap := 0 }

/-- A request of this module has been sent: its time, and its link. -/
def noteSent (l : Nat) (r : LinkRecord) (s : State) : State :=
  if recSrc r = s.moduleNo ∧ (recType r = 1 ∨ recType r = 2) then
    { s with net := { s.net with remote := s.net.remote.map (fun x =>
        if x.tag = recTag r then { x with sentAt := s.tick.st, link := l } else x) } }
  else s

/-- Send the record at a place of the queue: verified, at the link's level, laid out in flits of its own. -/
def transmit (l i : Nat) (r : LinkRecord) (s : State) : State :=
  let x := egressAll l r s
  let s := x.2
  let k := s.link l
  let r := recAtLevel { r with blocks := x.1 } k.level
  let left := tgetD k.credit (recBuf r) bufUnits - recUnits r
  let k := { k with queue := k.queue.eraseIdx i, credit := tputD bufUnits k.credit (recBuf r) left }
  let bytes := recBytes r
  let k := (List.range (recFlits r)).foldl (fun (k : Link) j => k.txFlit ((bytes.drop (248 * j)).take 248)) (k.afterTurn r)
  noteSent l r (noteWork 7 (l / 9) (recFn r) (recLen r) (sendMsg (.record l r) (s.setLink l k)))

/-- Send what can be sent, at most n records. -/
def pump (l : Nat) : Nat → State → State
  | 0, s => s
  | n + 1, s =>
    match (s.link l).pick with
    | none => s
    | some i =>
      match (s.link l).queue[i]? with
      | none => s
      | some r => pump l n (transmit l i r s)

/-- Put a record into a link's output queue. A DATA record for a LOWPWR link waits there until the link is UP (R342). -/
def sendOn (l : Nat) (r : LinkRecord) (s : State) : State :=
  let k := s.link l
  pump l (k.queue.length + 1) (s.setLink l { k with queue := k.queue ++ [r] })

/-- A credit return received: units of 16 bytes of a buffer of the peer. -/
def takeCredit (l code : Nat) (s : State) : State :=
  let b := code / 4
  let k := s.link l
  if b < 10 then
    let free := min bufUnits (tgetD k.credit b bufUnits + 4 ^ (code % 4))
    pump l k.queue.length (s.setLink l { k with credit := tputD bufUnits k.credit b free })
  else s

/-! ## Sending and answering (R330) -/

/-- The link on which a record leaves (R334, R335). -/
def State.routeOf (s : State) (r : LinkRecord) : Option Nat :=
  s.routeLink (recSrc r) (recDst r) (pairKey (recType r) (recPid r) (recOff r))

/-- Send a new record of this module: whether a route exists. -/
def sendRecord (r : LinkRecord) (s : State) : Bool × State :=
  match s.routeOf r with
  | none => (false, s)
  | some l => (true, sendOn l r s)

/-- Send an answer on the route back; an answer of a pair returns on the link of its request. -/
def sendAnswer (back : Nat) (r : LinkRecord) (s : State) : State :=
  if s.topology = 1 then sendOn back r s
  else
    match sendRecord r s with
    | (true, s) => s
    | (false, s) => raiseRoute none (recType r) 2 (recDst r) s

/-- Send an ARRIVE to the gate of another module (R240, R330). -/
def sendArrive (p fn m gate : Nat) (s : State) : State :=
  let r : LinkRecord := { header := mkHeader 5 0 s.moduleNo m (s.pid p % 4096) fn 0 0 0 gate 0, blocks := [] }
  match sendRecord r s with
  | (true, s) => s
  | (false, s) => raiseRoute none 5 2 m s

/-- An answer that carries only a status, to the requester. -/
def statusAnswer (back : Nat) (r : LinkRecord) (status : Nat) (s : State) : State :=
  sendAnswer back
    { header := mkHeader (if recType r = 1 then 4 else 3) 0 s.moduleNo (recSrc r) (recPid r) (recFn r) status 0 (recCw r) (recOff r)
        (recTag r), blocks := [] } s

/-! ## Accesses that fail (R330) -/

/-- Apply a change to the task that waits for a tag, which waits no more. -/
def onTag (core tag : Nat) (f : Run → Run) (s : State) : State :=
  let k := s.core core
  let g (r : Run) : Run := if r.remote.contains tag then f { r with remote := r.remote.filter (· != tag) } else r
  s.setCore core { k with run := k.run.map g, paused := k.paused.map g }

/-- The request leaves the table of those that wait. -/
def dropTag (tag : Nat) (s : State) : State :=
  { s with net := { s.net with remote := s.net.remote.filter (fun x => x.tag != tag) } }

/-- Blocks that a step of a run has put into the execution's store and that are not poisoned yet. -/
def stepBlocks (k : Core) (r : Run) (n : Nat) : List (Nat × Nat) :=
  (r.outs.filter (fun o => o.1 == n && k.staged.any (fun y => y.1 == r.exec && y.2.1 == o.2.1 && !y.2.2.poison))).map (·.2)

/-- A write of a step has failed: its `elems` and every output of the step are poisoned (R330). -/
def Core.failStep (k : Core) (n elems : Nat) (r : Run) : Run × Core :=
  let hit := stepBlocks k r n
  ({ r with failed := n :: r.failed, poisonedN := r.poisonedN + elems + (hit.map (·.2)).sum },
   { k with staged := k.staged.map (fun y =>
       if y.1 == r.exec && hit.any (fun o => o.1 == y.2.1) then (y.1, y.2.1, { y.2.2 with poison := true }) else y) })

/-- The write of a tag has failed. -/
def failWrite (core tag n elems : Nat) (s : State) : State :=
  let k := s.core core
  match (k.run.toList ++ k.paused).find? (fun r => r.remote.contains tag) with
  | none => s
  | some r =>
    let (r', k) := k.failStep n elems r
    onTag core tag (fun t => { t with failed := r'.failed, poisonedN := r'.poisonedN }) (s.setCore core k)

/-- An access ends with a status other than OK: a read delivers zeros, poisoned; a write has failed; WINDOW is an out-of-window
access. -/
def failAccess (x : Remote) (status : Nat) (s : State) : State :=
  let s := dropTag x.tag (if status = 1 then outOfWindow x.fn (some x.core) x.dst s else s)
  if x.write then failWrite x.core x.tag x.step x.elems s
  else onTag x.core x.tag (fun r => { r with buf := (x.dst / 256, Block.zeroPoison) :: r.buf }) s

/-- A record that cannot go on: STATUS NOROUTE for a request, 0x040D. -/
def noRoute (l : Nat) (r : LinkRecord) (s : State) : State :=
  let s := raiseRoute (some l) (recType r) 2 (recDst r) s
  if recType r = 1 ∨ recType r = 2 then
    if recSrc r = s.moduleNo then
      match s.net.remote.find? (fun x => x.tag == recTag r) with
      | some x => failAccess x 2 s
      | none => s
    else statusAnswer l r 2 s
  else s

/-! ## Link modes (R335, R337) -/

/-- A record queued for a link that carries it no more takes another way (R335, Table 11-10). -/
def reroute (l : Nat) (r : LinkRecord) (s : State) : State :=
  match s.routeOf r with
  | some o => sendOn o r s
  | none => noRoute l r s

/-- Set a link's mode: LINKSTATE tells the system, and the partitions' paths are checked again. A link that is UP again sends what
waits; the records of one that is usable no more are detoured. -/
def setLinkMode (l : Nat) (m : LinkMode) (s : State) : State :=
  let k := s.link l
  if k.mode = m then s
  else
    let s := s.setLink l { k with mode := m, queue := if m.usable then k.queue else [] }
    let s := { s with net := { s.net with mySeq := (s.net.mySeq + 1) % 256 } }
    let w := mkMarker 7 (s.moduleNo * 2 ^ 48 + l * 2 ^ 42 + m.code * 2 ^ 39 + s.net.mySeq * 2 ^ 31)
    let s := checkPaths (flood none w s)
    if m.usable then pump l k.queue.length s else k.queue.foldl (fun s r => reroute l r s) s

end Sys2Proof.Machine
end

