-- ==== Sys2Proof/Machine/Spares.lean ====
section
/-!
DEFINITION. Spare units (R406-R414): the states of physical units, the changes of the maps and how they take effect, core
and cluster substitution (R266, R411, R412), trim commits (R397, R399).
-/

namespace Sys2Proof.Machine

open Sys2Proof

/-! ## Physical units -/

/-- States of a physical unit: 0 in use, 1 free spare, 2 retired, 3 evacuating (Table 13-15). -/
def State.clusterSt (s : State) (pcl : Nat) : Nat := tgetD s.mnt.clusterSt pcl (if 32 ≤ pcl % 34 then 1 else 0)
def State.coreSt (s : State) (pc : Nat) : Nat := tgetD s.mnt.coreSt pc (if pc % 17 = 16 then 1 else 0)
def State.macroSt (s : State) (pm : Nat) : Nat := tgetD s.mnt.macroSt pm (if 64 ≤ pm % 66 then 1 else 0)

/-- The logical core that a physical core serves. -/
def State.logCore (s : State) (pc : Nat) : Option Nat :=
  let pcl := pc / 17
  match (List.range 32).find? (fun i => s.physCluster (pcl / 34 * 32 + i) == pcl) with
  | none => none
  | some i =>
    let cl := pcl / 34 * 32 + i
    ((List.range 16).find? (fun k => s.physCore (16 * cl + k) == pc)).map (fun k => 16 * cl + k)

/-- The logical macro of its core that a physical macro serves. -/
def State.logMac (s : State) (pm : Nat) : Option (Nat × Nat) :=
  match s.logCore (pm / 66) with
  | none => none
  | some c => ((List.range 64).find? (fun m => s.physMac c m == pm)).map (fun m => (c, m))

/-- The partition that holds the core of a physical macro. -/
def State.macPart (s : State) (pm : Nat) : Option Nat :=
  match s.logCore (pm / 66) with
  | none => none
  | some c => s.partOfCluster (clusterOfCore c)

/-- UNIT of the 0x06xx records (Table 16-14). -/
def mntUnit (pcl core mac : Nat) : Nat := pcl / 34 * 2 ^ 30 + pcl % 34 * 2 ^ 24 + core * 2 ^ 16 + mac
def macUnit (pm : Nat) : Nat := mntUnit (pm / (66 * 17)) (pm / 66 % 17) (pm % 66)

/-- INFO of the 0x06xx records: class, column, b. -/
def mntInfo (cls col b : Nat) : Nat := cls + col * 2 ^ 7 + b * 2 ^ 16

/-- A maintenance record, at most once per unit per second (R422). -/
def raiseMnt (code unit info : Nat) (s : State) : State :=
  raiseOncePer (1000 * msSt) unit { EventRec.mk' code with unit := some unit, info := some info } [] s

/-- Count a repair of a die (REPAIRS, R420). -/
def bumpRepairs (d : Nat) (s : State) : State :=
  { s with mnt := { s.mnt with repairs := tput s.mnt.repairs d (satAdd 0xFFFF (tgetD s.mnt.repairs d 0) 1) } }

/-! ## Moving contents -/

/-- What moves with a frame: rows in the columns of the new macro, Position Store, poison and suspect marks, ages. -/
def moveMac (src dst : Mac) : Mac :=
  { dst with
    rows := (src.rows.map (fun e => (e.1, rowWithRefs e.1 (placeRow dst (dataOf src e.1))))).filter
      (fun e => e.2 != rowWithRefs e.1 0),
    pos := src.pos, posOne := [], posTwo := src.posTwo, poisonRow := src.poisonRow, suspect := src.suspect, age := src.age }

/-- The physical macros of a logical core, as (logical macro, physical macro). -/
def State.coreMacs (s : State) (c : Nat) : List (Nat × Nat) := (List.range 64).map (fun m => (m, s.physMac c m))

/-- The frame check words move with the frame. -/
def moveChecks (src dst : Nat) (s : State) : State :=
  { s with fm := { s.fm with checks := tfill s.fm.checks (dst * 128) 128 (fun b => tgetD s.fm.checks (src * 128 + b) 0) } }

/-- Give a logical core another physical core: every macro's contents move. -/
def moveCore (c : Nat) (remap : State → State) (s : State) : State :=
  let old := s.coreMacs c
  let s' := remap s
  let new := s'.coreMacs c
  (old.zip new).foldl (fun t x =>
    if x.1.2 = x.2.2 then t
    else
      moveChecks x.1.2 x.2.2 (t.setMac x.2.2 (moveMac (s.macAt x.1.2) (s.macAt x.2.2)))) s'

/-! ## Changes of the maps (R397, R414) -/

/-- Whether a pending change concerns a logical core. -/
def changeCore : MapChange → Option Nat
  | .evacSwap c _ _ => some c
  | .coreSubst cl k _ => some (16 * cl + k)
  | _ => none

/-- The partition at whose boundary a change takes effect: `none` for a unit in no partition. -/
def State.changePart (s : State) : MapChange → Option Nat
  | .evacSwap c _ _ => s.partOfCluster (clusterOfCore c)
  | .remap m _ _ _ => s.macPart m
  | .retireMacro m _ => s.macPart m
  | .freeMacro m => s.macPart m
  | .coreSubst cl _ _ => s.partOfCluster cl
  | .clusterSubst cl _ => s.partOfCluster cl
  | .suspect m _ _ => s.macPart m

/-- Rank of a change at one boundary (R397). -/
def changeRank : MapChange → Nat
  | .evacSwap _ _ _ => 0
  | .remap _ _ _ _ => 1
  | _ => 2

/-- A spare has taken a logical core's place: its slip record starts afresh, and it is not degraded. -/
def freshSlips (c : Nat) (s : State) : State :=
  let v := (tgetD s.reg.tickStat c 0).toNat
  let s := s.setCore c { s.core c with timeSlips := [] }
  { s with reg := { s.reg with tickStat := tput s.reg.tickStat c (BitVec.ofNat 64 (setBits (setBits v 63 63 0) 41 32 0)) } }

def setMacroSt (pm v : Nat) (s : State) : State := { s with mnt := { s.mnt with macroSt := tput s.mnt.macroSt pm v } }

/-- The counters of a slice under way go with the logical columns they belong to. -/
def moveCtrs (src dst : Mac) : Mac :=
  { dst with
    ctr := src.ctr.foldl (fun t e => match logCol src (e.1 % 280) with
      | some c => tput t (e.1 / 280 * 280 + physCol dst c) e.2
      | none => t) [],
    rowCtr := src.rowCtr }

/-- A change takes effect. -/
def applyChange (ch : MapChange) (s : State) : State :=
  match ch with
  | .evacSwap c m new =>
    let pc := s.physCore c
    let old := s.physMac c m
    let s := s.setMac (pc * 66 + new) (moveCtrs (s.macAt old) (s.macAt (pc * 66 + new)))
    let s := { s with mnt := { s.mnt with macroMap := tput s.mnt.macroMap (pc * 64 + m) new } }
    bumpRepairs (dieOfCore c) (setMacroSt old 3 (setMacroSt (pc * 66 + new) 0 s))
  | .remap m e v info =>
    let s := s.setMac m { s.macAt m with remap := (s.macAt m).remap.set e v }
    if v.getLsbD 15 then bumpRepairs (dieOfPhysMac m) (raiseMnt 0x0604 (macUnit m) info s) else s
  | .retireMacro m info =>
    let s := raiseMnt 0x0605 (macUnit m) info (setMacroSt m 2 s)
    { s with mnt := { s.mnt with retired := (s.mnt.retired.1 + 1, s.mnt.retired.2) } }
  | .freeMacro m => setMacroSt m 1 s
  | .suspect m g lns =>
    let k := s.macAt m
    s.setMac m { k with suspect := (k.suspect ++ lns.map (fun n => (g, n))).eraseDups }
  | .coreSubst cl k phys =>
    let c := 16 * cl + k
    let old := s.physCore c
    let s := moveCore c (fun s => { s with mnt := { s.mnt with coreMap := tput s.mnt.coreMap c phys } }) s
    let s := { s with mnt := { s.mnt with
                coreSt := tput (tput s.mnt.coreSt old 2) (s.physCluster cl * 17 + phys) 0,
                retired := (s.mnt.retired.1, s.mnt.retired.2.1 + 1, s.mnt.retired.2.2),
                substCore := s.mnt.substCore.filter (· != c) } }
    bumpRepairs (cl / 32) (freshSlips c (raiseMnt 0x0606 (mntUnit (old / 17) (old % 17) 0x7F) 0 s))
  | .clusterSubst cl phys =>
    let old := s.physCluster cl
    let remap (s : State) : State := { s with mnt := { s.mnt with
      clusterMap := tput s.mnt.clusterMap cl phys,
      coreMap := (List.range 16).foldl (fun t k => tdel t (16 * cl + k)) s.mnt.coreMap } }
    let s0 := s
    let s := (List.range 16).foldl (fun t k =>
      let c := 16 * cl + k
      ((s0.coreMacs c).zip ((remap s0).coreMacs c)).foldl (fun t x =>
        moveChecks x.1.2 x.2.2 (t.setMac x.2.2 (moveMac (s0.macAt x.1.2) (s0.macAt x.2.2)))) t) (remap s)
    let s := { s with mnt := { s.mnt with
                clusterSt := tput (tput s.mnt.clusterSt old 2) (cl / 32 * 34 + phys) 0,
                retired := (s.mnt.retired.1, s.mnt.retired.2.1, s.mnt.retired.2.2 + 1),
                substCore := s.mnt.substCore.filter (fun c => clusterOfCore c != cl) },
                       mem := { s.mem with lines := s.mem.lines.filter (fun e => e.1 / 2 ^ 34 != cl) } }
    let s := (List.range 16).foldl (fun s k => freshSlips (16 * cl + k) s) s
    bumpRepairs (cl / 32) (raiseMnt 0x0607 (mntUnit old 0x1F 0x7F) 0 s)

/-- A substitution waits for the next execution that uses the unit (Table 13-7). -/
def isSubst : MapChange → Bool
  | .coreSubst _ _ _ => true
  | .clusterSubst _ _ => true
  | _ => false

/-- Queue a change of the maps; its journal commit comes first (R414). -/
def queueChange (ch : MapChange) (committed : Bool) (s : State) : State :=
  { s with mnt := { s.mnt with pend := s.mnt.pend ++ [{ change := ch, committed := committed }] } }

/-- A trim commit takes effect (R399 step 7). -/
def applyTrim (t : TrimPend) (s : State) : State :=
  let m := s.macAt t.mac
  let codes := t.codes.foldl (fun a x => tput a x.1 (x.2.1, x.2.2)) m.codes
  let s := s.setMac t.mac { m with stair := t.stair, codes := codes, recalAt := s.tick.st,
                                   recalTj := (s.pdie (dieOfPhysMac t.mac)).tjMax,
                                   guardDelta := (BitVec.ofNat 8 (odNat s 0x2800 0x01 0)).toInt }
  let d := dieOfPhysMac t.mac
  { s with mnt := { s.mnt with recals := tput s.mnt.recals d (satAdd 0xFFFF (tgetD s.mnt.recals d 0) 1) } }

/-- A macro returns to the free spares after its re-calibration (R408, Table 13-8). -/
def waitsRecal (s : State) (ch : MapChange) : Bool :=
  match ch with
  | .freeMacro m => s.mnt.queue.any (fun r => r.act == .cal && r.mac == m)
  | _ => false

/-- The committed changes of a partition's units (`none`: of units in no partition) take effect in the order of R397:
evacuation swaps, column remaps, the rest, trim commits. -/
def applyChanges (p : Option Nat) (s : State) : State :=
  let due := s.mnt.pend.filter (fun x => x.committed && !isSubst x.change && s.changePart x.change == p && !waitsRecal s x.change)
  let trims := s.mnt.trims.filter (fun t => s.macPart t.mac == p)
  let s := { s with mnt := { s.mnt with pend := s.mnt.pend.filter (fun x => !due.contains x),
                                        trims := s.mnt.trims.filter (fun t => !trims.contains t) } }
  let s := [0, 1, 2].foldl (fun s r =>
    (due.filter (fun x => changeRank x.change = r)).foldl (fun s x => applyChange x.change s) s) s
  trims.foldl (fun s t => applyTrim t s) s

/-! ## Windows (R417, R420) -/

/-- The ACTIVE bit of an activity, in MNT_DIE_STAT[63:58]. -/
def Activity.bit : Activity → Nat
  | .thm => 5
  | .rep => 4
  | .cal => 3
  | .rfc => 2
  | .scr => 1
  | .lnk => 0

def activeBits (rs : List MntReq) : Nat :=
  ([Activity.thm, .rep, .cal, .rfc, .scr, .lnk].map (fun a => bit01 (rs.any (fun r => r.act == a)) * 2 ^ a.bit)).sum

/-- MNT_DIE_STAT of a die (Table 13-12). -/
def mntDieWord (d active : Nat) (s : State) : Dword :=
  BitVec.ofNat 64 (active * 2 ^ 58 + min 0xFFFF (s.mnt.queue.filter (fun r => r.die == d)).length * 2 ^ 32 +
    tgetD s.mnt.recals d 0 * 2 ^ 16 + tgetD s.mnt.repairs d 0)

/-- The windows of a partition end: fences are released, and MNT_DIE_STAT is updated; the HBM volume of the tick is free again, but for
what a transfer has taken beyond it (R418). -/
def endWindows (p : Nat) (s : State) : State :=
  let mine := s.mnt.windows.filter (fun w => w.part = p)
  let beyond (n : Nat) : Nat := n - odNat s 0x7100 0x06 64 * 1024
  let s := { s with mnt := { s.mnt with
    windows := s.mnt.windows.filter (fun w => w.part ≠ p),
    hbmUsed := (s.mnt.hbmUsed.map (fun e => if e.1 / 8 = p then (e.1, beyond e.2) else e)).filter (fun e => e.2 != 0) } }
  mine.foldl (fun s w =>
    { s with reg := { s.reg with mntDieStat := tput s.reg.mntDieStat w.die (mntDieWord w.die (activeBits w.reqs) s) } }) s

/-! ## Substitution of cores and clusters -/

/-- The free spare core of a physical cluster. -/
def State.spareCore (s : State) (pcl : Nat) : Option Nat :=
  (List.range 17).find? (fun k => s.coreSt (pcl * 17 + k) == 1)

/-- A free spare cluster of a die that no pending substitution has taken. -/
def State.spareCluster (s : State) (d : Nat) : Option Nat :=
  (List.range 34).find? (fun k => s.clusterSt (d * 34 + k) == 1 &&
    !s.mnt.pend.any (fun x => match x.change with
      | .clusterSubst cl phys => cl / 32 == d && phys == k
      | _ => false))

/-- A logical core has a substitution pending, of itself or of its cluster. -/
def State.substPending (s : State) (c : Nat) : Bool :=
  s.mnt.pend.any (fun x => match x.change with
    | .coreSubst cl k _ => 16 * cl + k == c
    | .clusterSubst cl _ => cl == clusterOfCore c
    | _ => false)

/-- Ask for the substitution of a logical core: the cluster's spare core, else a spare cluster, else 0x0608 once for the
unit (R411, R413). -/
def requestSubst (c : Nat) (s : State) : State :=
  if s.substPending c then s
  else
    let cl := clusterOfCore c
    let pcl := s.physCluster cl
    let taken := s.mnt.pend.any (fun x => match x.change with | .coreSubst cl' _ _ => cl' == cl | _ => false)
    let s := { s with mnt := { s.mnt with substCore := (c :: s.mnt.substCore).eraseDups,
                                          queue := s.mnt.queue.filter (fun r => !(r.act == .rep && r.mac / 66 == s.physCore c)),
                                          pend := s.mnt.pend.filter (fun x => match x.change with
                                            | .evacSwap c' _ _ => c' != c
                                            | _ => true) } }
    match (if taken then none else s.spareCore pcl) with
    | some k => queueChange (.coreSubst cl (c % 16) k) false s
    | none =>
      match s.spareCluster (cl / 32) with
      | some k => queueChange (.clusterSubst cl k) false s
      | none =>
        let pc := s.physCore c
        if s.mnt.exhausted.contains pc then s
        else raiseMnt 0x0608 (mntUnit pcl (pc % 17) 0x7F) 0 { s with mnt := { s.mnt with exhausted := pc :: s.mnt.exhausted } }

/-- Logical units mapped to a retired physical unit: macros, cores, clusters (R29, R413). -/
def State.unworking (s : State) : List Nat :=
  (s.mnt.macroSt.filter (fun e => e.2 == 2 && (s.logMac e.1).isSome)).map (·.1) ++
  (s.mnt.coreSt.filter (fun e => e.2 == 2 && (s.logCore e.1).isSome)).map (·.1) ++
  (s.mnt.clusterSt.filter (fun e => e.2 == 2 && (List.range 32).any (fun i => s.physCluster (e.1 / 34 * 32 + i) == e.1))).map (·.1)

/-- Every logical unit of Table 1-1 is mapped to a working physical unit (R29). -/
def State.allMapped (s : State) : Bool := s.mnt.exhausted == [] && s.unworking == []

/-- Committed substitutions of some of these cores, or of their clusters. -/
def substDue (cores : List Nat) (s : State) : List MapPend :=
  s.mnt.pend.filter (fun x => x.committed && match x.change with
    | .coreSubst cl k _ => cores.contains (16 * cl + k)
    | .clusterSubst cl _ => cores.any (fun c => clusterOfCore c == cl)
    | _ => false)

/-- The substitutions due on cores with no execution in progress take effect. -/
def substituteFor (cores : List Nat) (s : State) : State :=
  let due := substDue cores s
  let s := { s with mnt := { s.mnt with pend := s.mnt.pend.filter (fun x => !due.contains x) } }
  due.foldl (fun s x => applyChange x.change s) s

end Sys2Proof.Machine
end

