-- ==== Sys2Proof/Machine/Tick.lean ====
section
/-!
DEFINITION. The tick (R207-R210, R253-R269, R348-R357, R519): windows, lead points, pennant words, boundaries, commits,
starts and ends of executions, park and resume: the meanings of LEAD_POINT, WAIT_TIMEOUT, PENNANT_ROUND, PENNANT_FINAL,
TICK_BOUNDARY, WINDOW_END, PARTITION_START, PARTITION_PARK and PARTITION_RESUME.
-/

namespace Sys2Proof.Machine

open Sys2Proof

/-! ## Module states (R424) -/

/-- Codes of Table 14-1. -/
def ModState.code : ModState → Nat
  | .off => 0
  | .aux => 1
  | .boot => 2
  | .training => 3
  | .held => 4
  | .ready => 5
  | .running => 6
  | .parked => 7
  | .recovery => 8
  | .faulted => 9

/-- Enter a module state: 0x070B with the old and the new state (R448, R449). -/
def enterState (m : ModState) (s : State) : State :=
  if s.life.state = m then s
  else
    raise { EventRec.mk' 0x070B with info := some (s.life.state.code + m.code * 256) }
      { s with life := { s.life with state := m } }

/-- Partitions that hold clusters. -/
def State.usedParts (s : State) : List Nat := (List.range 16).filter (fun p => s.partClusters p != [])

/-- Every partition that holds clusters is parked (R210, R342). -/
def State.partsParked (s : State) : Bool :=
  s.usedParts != [] && s.usedParts.all (fun p => (s.part p).state == .parked)

/-- ... and every connected link is in LOWPWR. -/
def State.allParked (s : State) : Bool :=
  s.partsParked && (List.range 36).all (fun l => (s.link l).mode != .up && (s.link l).mode != .soak)

/-- PARKED is left when a partition runs again. -/
def State.staysParked (s : State) : Bool :=
  s.life.state == .parked && s.usedParts.all (fun p => (s.part p).state != .running)

/-- READY, RUNNING and PARKED follow the executions and the partitions (Table 14-2). -/
def settleState (s : State) : State :=
  if s.serving then
    enterState (if s.allParked || s.staysParked then .parked
      else if s.adm.execs.any (fun e => e.phase == .running) then .running else .ready) s
  else s

/-! ## Windows of a tick (R260) -/

/-- The executions of a function that have started on a partition. -/
def State.execFn (s : State) (id : Nat) : Option Nat := (s.exec? id).map (·.ticket.fn)

def State.runFn (s : State) (r : Run) : Option Nat := s.execFn r.exec

/-- The windows of a core: the functions with a share of its partition, ascending. -/
def State.coreFns (s : State) (c : Nat) : List Nat :=
  match s.partOfCluster (clusterOfCore c) with
  | none => []
  | some p => s.partFns p

/-- Open a function's window: its paused task resumes. -/
def openWindow (fn : Nat) (s : State) (c : Core) : Core :=
  match c.paused.find? (fun r => s.runFn r == some fn) with
  | some r => { c with window := some fn, run := some r, paused := c.paused.filter (fun x => x != r) }
  | none => { c with window := some fn }

/-- The overflow region: the first function's paused work resumes. -/
def openOverflow (s : State) (fns : List Nat) (c : Core) : Core :=
  let c := { c with window := none }
  match fns.findSome? (fun f => c.paused.find? (fun r => s.runFn r == some f)) with
  | some r => { c with run := some r, paused := c.paused.filter (fun x => x != r) }
  | none => c

/-- The task that a core runs is paused between counts. -/
def pauseRun (c : Core) : Core :=
  match c.run with
  | none => c
  | some r => { c with run := none, paused := c.paused ++ [r] }

/-- WINDOW_END (R260): the window of `fn` ends; the next function's window opens, or the overflow region. -/
def windowEnd (c fn : Nat) (s : State) : State :=
  let k := s.core c
  if k.window = some fn then
    let k := pauseRun k
    let fns := s.coreFns c
    match (fns.filter (fun f => fn < f)).head? with
    | some f => s.setCore c (openWindow f s k)
    | none => s.setCore c (openOverflow s fns k)
  else s

/-- WINDOW_END (R260). -/
def execWindowEnd (core fn : Nat) (s : State) : Host.Outcome State Fault Refusal := .next (windowEnd core fn s)

/-- The first window of a tick. -/
def openFirst (c : Nat) (s : State) : State :=
  match s.coreFns c with
  | [] => s
  | f :: _ => s.setCore c (openWindow f s (s.core c))

/-! ## Waits (R256) -/

/-- The physical gates a task waits on: those of its WAIT edges and its LOCAL edges; not on the gate of a LOCAL edge from a producer
of its own stage, which slot order places before it (R256). -/
def Plan.waitsOf (p : Plan) (i : Nat) : List Nat :=
  let stage (j : Nat) : Nat := ((p.tasks[j]?).map (·.stage)).getD 0
  let mine := p.edges.filter (fun e => e.cons == i)
  let own (g : Nat) : Bool := mine.any (fun e => e.kind == 0 && e.gate == g && stage e.prod == stage i)
  ((mine.filter (fun e => e.kind = 1 ∨ (e.kind = 0 ∧ !own e.gate))).map (fun e => p.gateBase + e.gate)).eraseDups

def State.waitsMet (s : State) (p : Plan) (i : Nat) : Bool :=
  (p.waitsOf i).all (fun g => (s.gate g).target ≤ (s.gate g).count)

/-- The next task of an execution in a core's slot has not started because a WAIT is unmet. -/
def State.blockedOn (s : State) (c id : Nat) : Bool :=
  let k := s.core c
  let busy := (k.run.toList ++ k.paused).any (fun r => r.exec == id)
  !busy &&
  (match k.slot.find? (fun x => x.1 = id), s.exec? id with
   | some x, some e => !s.waitsMet e.plan x.2
   | _, _ => false)

/-! ## Lead points (R262, R263, R266, R267) -/

/-- All tasks of the core's slots have retired. -/
def Core.idle (c : Core) : Bool := c.run.isNone && c.paused.isEmpty && c.slot.isEmpty

/-- Slack of a core that has retired all its tasks. -/
def slackOf (c : Core) (rr : Nat) : Int := max (-32768) (min 32767 ((c.planned : Int) + rr - c.consumed))

/-- An unretired COPY would have retired in time at its budgeting rate: it is slower than its rate (R244, R263). -/
def State.copySlow (s : State) (k : Core) (r : Run) : Bool :=
  match s.exec? r.exec with
  | none => false
  | some e => (e.plan.tasks[r.task]?).any (fun t => t.isCopy) &&
      (e.plan.placed.find? (fun y => y.id == r.task)).any (fun y => decide (k.consumed + y.cost ≤ k.planned + s.rr))

/-- Causes: 0 TIME, 1 BUDGET, 2 GATE. A core that waits at an unmet WAIT with nothing under way slips for the gate; else an overrun of
a bound, a slow COPY, a host page waited for or masked rows in this tick make it BUDGET, a task that has retired included. -/
def State.slipCause (s : State) (c : Nat) : Nat :=
  let k := s.core c
  let under := k.run.toList ++ k.paused
  if under.any (fun r => r.cause == 1 || s.copySlow k r) then 1
  else if s.adm.execs.any (fun e => e.phase == .running && s.blockedOn c e.id) then 2
  else if k.budget then 1 else 0

/-- What a core reports at a lead point: slack, slip, cause; its runs of negative slack, its TIME slips and its register
follow. -/
def coreLead (c n : Nat) (s : State) : (Int × Bool × Nat) × State :=
  let k := s.core c
  let late := !k.idle
  let cause := if late then s.slipCause c else 0
  let slack := if late then -32768 else slackOf k s.rr
  -- the run of DRIFT counts ticks in which the core retired in time, NEG_RUN every tick of negative slack (R263, R267)
  let neg := if late || 0 ≤ slack then 0 else k.negRun + 1
  let drift := neg == 3
  let slip := late || drift
  let recent := k.timeSlips.filter (fun t => n < t + 1000)
  let times := if slip && cause == 0 then recent ++ [n] else recent
  let neg := if drift then 0 else neg
  let s := s.setCore c { pauseRun k with negRun := neg, timeSlips := times, window := none }
  let v := (tgetD s.reg.tickStat c 0).toNat
  let was := bitOf v 63
  let bad := 16 < times.length
  let v := setBits (setBits (setBits v 15 0 (wrapInt 16 slack)) 17 16 (if drift || 0 ≤ slack then 0 else min 2 (bitsOf v 17 16 + 1))) 41 32 (min 1023 times.length)
  let v := if slip then setBits v 31 24 (satAdd 255 (bitsOf v 31 24) 1) else v
  let v := if bad then setBits v 63 63 1 else v
  let s := { s with reg := { s.reg with tickStat := tput s.reg.tickStat c (BitVec.ofNat 64 v) } }
  -- R266: marked degraded once; the spare takes its place at the next execution
  let s := if bad && !was then
      requestSubst c (raise { EventRec.mk' 0x020B with part := s.partOfCluster (clusterOfCore c), unit := some c,
                                                       info := some times.length } s)
    else s
  ((slack, slip, cause), s)

/-- The executions of a partition whose WAIT has stayed unmet for WAIT_TIMEOUT held ticks, this tick included, are
absorbed, with 0x0201 of cause GATE (R316). -/
def waitTimeouts (p : Nat) (s : State) : State :=
  let held := !(s.part p).prevAdv
  let due := s.adm.execs.filter (fun e => e.phase == .running && e.plan.key.part == p && held &&
    waitTimeout s e.ticket.fn ≤ e.waitHeld + 1 && e.plan.cores.any (fun c => s.blockedOn c e.id))
  due.foldl (fun s e =>
    let core := (e.plan.cores.find? (fun c => s.blockedOn c e.id)).getD 0
    let fns := ((s.adm.execs.filter (fun x => x.phase = .running ∧ x.plan.key.part = p)).map (·.ticket.fn)).eraseDups
    let s := raiseOncePer msSt p { EventRec.mk' 0x0201 with part := some p, tick := some (s.part p).tick, unit := some core,
                                                            fn := some e.ticket.fn, info := some (s.moduleNo * 2 ^ 16 + 2) } fns s
    absorbExec true e.id s) s

/-- WAIT_TIMEOUT (R316): at the lead point, before the core words are formed. -/
def execWaitTimeout (part : Nat) (s : State) : Host.Outcome State Fault Refusal :=
  .next (if s.partTicks part && !(s.part part).lead then settleState (waitTimeouts part s) else s)

/-- Count the held ticks of unmet WAITs. -/
def countWaits (p : Nat) (s : State) : State :=
  let held := !(s.part p).prevAdv
  { s with adm := { s.adm with execs := s.adm.execs.map (fun e =>
      if e.phase == .running && e.plan.key.part == p then
        if e.plan.cores.any (fun c => s.blockedOn c e.id) then { e with waitHeld := if held then e.waitHeld + 1 else 0 }
        else { e with waitHeld := 0 }
      else e) } }

/-! ## Pennant words (Table 11-8) -/

def penSlip (w : Dword) : Bool := w.getLsbD 47
def penPark (w : Dword) : Bool := w.getLsbD 44
def penResume (w : Dword) : Bool := w.getLsbD 43
def penPid (w : Dword) : Nat := bitsOf w.toNat 59 48
def penCause (w : Dword) : Nat := bitsOf w.toNat 46 45
def penMod (w : Dword) : Nat := bitsOf w.toNat 27 16
def penCore (w : Dword) : Nat := bitsOf w.toNat 15 5
def penTlen (w : Dword) : Nat := w.toNat % 32

/-- Form the module word. -/
def penWord (pid : Nat) (slip : Option (Nat × Nat)) (park resume prevAdv : Bool) (tick : Nat) (slack : Int)
    (modNo tlen : Nat) : Dword :=
  let sm := max (-2048) (min 2047 (slack / 16))
  let r := match slip with
    | some (core, cause) => 2 ^ 47 + cause * 2 ^ 45 + modNo * 2 ^ 16 + core * 2 ^ 5
    | none => 0
  BitVec.ofNat 64 (2 ^ 60 + pid % 4096 * 2 ^ 48 + r + bit01 park * 2 ^ 44 + bit01 resume * 2 ^ 43 + bit01 prevAdv * 2 ^ 42 +
    tick % 4 * 2 ^ 40 + wrapInt 12 sm * 2 ^ 28 + tlen)

/-- Merge two words of one partition (the Merge column). -/
def penMerge (a b : Dword) : Dword :=
  let x := a.toNat
  let y := b.toNat
  let first := if !penSlip a then y
    else if !penSlip b then x
    else if penMod a < penMod b ∨ (penMod a = penMod b ∧ penCore a ≤ penCore b) then x else y
  let sl := min (signed 12 (bitsOf x 39 28)) (signed 12 (bitsOf y 39 28))
  let n := setBits x 47 47 (bit01 (penSlip a || penSlip b))
  let n := setBits n 46 45 (bitsOf first 46 45)
  let n := setBits n 44 44 (bit01 (penPark a || penPark b))
  let n := setBits n 43 43 (bit01 (penResume a || penResume b))
  let n := setBits n 39 28 (wrapInt 12 sl)
  let n := setBits n 27 16 (bitsOf first 27 16)
  let n := setBits n 15 5 (bitsOf first 15 5)
  BitVec.ofNat 64 (setBits n 4 0 (max (penTlen a) (penTlen b)))

/-! ## Feature levels (R356) -/

/-- The highest schedule feature level of the running firmware. -/
def State.ownLevel (s : State) : Nat := s.life.generation

/-- FEATURE marker of this module for a partition (Table 11-7). -/
def State.ownFeature (s : State) (p : Nat) : Dword :=
  mkMarker 2 (s.pid p % 4096 * 2 ^ 48 + s.moduleNo * 2 ^ 36 + s.ownLevel % 16 * 2 ^ 32 +
    periodOf (s.tickCfg p) * 2 ^ 22 + (s.nMembers p - 1) % 4096 * 2 ^ 10)

def featOrigin (w : Dword) : Nat := bitsOf w.toNat 47 36
def featLevel (w : Dword) : Nat := bitsOf w.toNat 35 32

/-- The FEATURE reports held for a partition, this module's own included. -/
def State.reports (s : State) (p : Nat) : List Dword :=
  s.ownFeature p :: ((s.part p).features.filter (fun x => x.1 ≠ s.moduleNo)).map (·.2)

/-- The least LEVEL_MAX of the reports; a partition confined to the module runs at its own level. -/
def State.levelNow (s : State) (p : Nat) : Nat :=
  if s.spanning p then (s.reports p).foldl (fun m w => min m (featLevel w)) s.ownLevel else s.ownLevel

/-- The members agree: reports of all N_MEMBERS members, with one PID, N_MEMBERS and PERIOD_US (R348). -/
def State.featuresAgree (s : State) (p : Nat) : Bool :=
  let ms := s.partMembers p
  let own := s.ownFeature p
  let key (w : Dword) : Nat × Nat × Nat := (bitsOf w.toNat 59 48, bitsOf w.toNat 31 22, bitsOf w.toNat 21 10)
  ms.length == s.nMembers p && ms.contains s.moduleNo &&
  ms.all (fun m => (s.reports p).any (fun w => featOrigin w == m && key w == key own))

/-! ## LEAD_POINT -/

/-- ST of the lead point of the running tick (R349). -/
def Part.leadSt (p : Part) : Nat := p.next - 2000 * (8 + p.k)

/-- The cores of a partition report; the least slack and the first raiser. -/
def coresLead (p n : Nat) (s : State) : (Int × Option (Nat × Nat)) × State :=
  (s.partCores p).foldl (fun a c =>
    let r := coreLead c n a.2
    ((min a.1.1 r.1.1, if a.1.2.isNone && r.1.2.1 then some (c, r.1.2.2) else a.1.2), r.2)) ((32767, none), s)

def leadPoint (p : Nat) (s : State) : State :=
  let pt := s.part p
  if !s.partTicks p || pt.lead then s
  else
    let s := advanceTo pt.leadSt s
    let s := countWaits p (waitTimeouts p s)
    let ((slack, slip), s) := coresLead p pt.tick s
    let (tlen, g) := tlenRequest s p
    let s := raiseVcore p g.nextClk (s.setPpart p g)
    let pt := s.part p
    let w := penWord (s.pid p) slip pt.parkReq pt.resumeReq pt.prevAdv pt.tick slack s.moduleNo tlen
    -- the reports of the tick that ends 2,048 boundaries before an epoch boundary fix that boundary's level
    let nl := if (pt.tick + 1) % 4096 = 2048 then some (s.levelNow p) else pt.nextLevel
    let s := s.setPart p { pt with lead := true, ownWord := w, merged := if pt.merged = 0 then w else penMerge w pt.merged, round := 0, hasFinal := false,
                                   parkReq := false, resumeReq := false, nextLevel := nl }
    settleState s

/-- LEAD_POINT (R262). -/
def execLeadPoint (part : Nat) (s : State) : Host.Outcome State Fault Refusal :=
  .next (if part < 16 then leadPoint part s else s)

/-! ## PENNANT_ROUND and PENNANT_FINAL (Table 11-9) -/

/-- Time of a round after the lead point, in ST units. -/
def roundSt (r : Nat) : Nat := match r with | 1 => 640 | 2 => 5120 | _ => 9600

/-- Round 1 sends the module's own word, rounds 2 and 3 the merge of own and received words (R352). -/
def pennantRound (p r : Nat) (s : State) : State :=
  let pt := s.part p
  if s.spanning p && s.partTicks p && pt.lead && !pt.hasFinal && r == pt.round + 1 && r ≤ 3 then
    let s := advanceTo (pt.leadSt + roundSt r) s
    let s := s.setPart p { pt with round := r }
    (s.markerLinks false).foldl (fun s l =>
      match s.peer l with
      | none => s
      | some (m, _) => if (s.partMembers p).contains m then sendMsg (.marker l (if r = 1 then pt.ownWord else pt.merged)) s else s) s
  else s

/-- PENNANT_ROUND (R352). -/
def execPennantRound (part round : Nat) (s : State) : Host.Outcome State Fault Refusal :=
  .next (if part < 16 then pennantRound part round s else s)

/-- Complete the tickets of a list whose boundary is `n`, with a status; the others stay. -/
def ticketsDue (n : Nat) (l : List (Nat × Ticket)) : List Ticket := (l.filter (fun x => x.1 = n)).map (·.2)

/-- The merge is taken as final (R352, R353): park and resume requests name boundary T + 2; both set together change
nothing, and their commands complete with STATE. A boundary already named stands. -/
def pennantFinal (p : Nat) (s : State) : State :=
  let pt := s.part p
  if !(s.partTicks p && pt.lead && !pt.hasFinal) then s
  else
    let s := advanceTo (pt.leadSt + 14080) s
    let w := pt.merged
    let due := pt.tick + 2
    let pt := { pt with final := w, hasFinal := true }
    if penPark w && penResume w then
      let gone := ticketsDue due pt.parkTk ++ ticketsDue due pt.resumeTk
      let s := s.setPart p { pt with parkTk := pt.parkTk.filter (fun x => x.1 ≠ due),
                                     resumeTk := pt.resumeTk.filter (fun x => x.1 ≠ due) }
      let s := if pt.state == .running then s.setPpart p { s.ppart p with parkedByGov := false } else s
      completeAll gone stState s
    else
      s.setPart p { pt with parkAt := if penPark w && pt.state == .running then some (pt.parkAt.getD due) else pt.parkAt,
                            resumeAt := if penResume w && pt.state == .parked then some (pt.resumeAt.getD due) else pt.resumeAt }

/-- PENNANT_FINAL (R352). -/
def execPennantFinal (part : Nat) (s : State) : Host.Outcome State Fault Refusal :=
  .next (if part < 16 then pennantFinal part s else s)

/-! ## Commit (R261) -/

/-- The distinct (producer, gate) pairs of the LOCAL edges of retired tasks, as physical gates. -/
def localArrivals (p : Plan) (retired : List Nat) : List Nat :=
  (((p.edges.filter (fun e => e.kind = 0 ∧ retired.contains e.prod)).map (fun e => (e.prod, e.gate))).eraseDups).map
    (fun x => p.gateBase + x.2)

/-- The distinct (producer, module, gate) triples of the ARRIVE edges of retired tasks. -/
def remoteArrivals (p : Plan) (retired : List Nat) : List (Nat × Nat) :=
  (((p.edges.filter (fun e => e.kind = 2 ∧ retired.contains e.prod)).map (fun e => (e.prod, e.aux, e.gate))).eraseDups).map
    (fun x => (x.2.1, x.2.2))

/-- The staged blocks of an execution's cores become visible. -/
def commitBlocks (e : Exec) (s : State) : State :=
  e.plan.cores.foldl (fun s c =>
    let k := s.core c
    let mine := k.staged.filter (fun x => x.1 = e.id)
    let s := s.setCore c { k with staged := k.staged.filter (fun x => x.1 ≠ e.id) }
    mine.foldl (fun s x => writeBlk e.ticket.fn e.plan.key.part (some c) (x.2.1 * 256) x.2.2 s) s) s

/-- The results of the tasks of one execution that retired commit: swaps, blocks, arrivals. -/
def commitExec (id : Nat) (s : State) : State :=
  match s.exec? id with
  | none => s
  | some e =>
    if e.phase ≠ .running then s
    else
      let fn := e.ticket.fn
      let p := e.plan.key.part
      let s := e.swapsDue.foldl (fun s x => swapFrame fn x.1 x.2 s) s
      let s := commitBlocks e s
      let s := (localArrivals e.plan e.retired).foldl (fun s g => addArrivals g 1 s) s
      let s := (remoteArrivals e.plan e.retired).foldl (fun s x =>
        if x.1 = s.moduleNo then addArrivals x.2 1 s else sendArrive p fn x.1 x.2 s) s
      setExec { e with retired := [], committed := e.committed ++ e.retired, swapsDue := [] } s

/-- Executions of a partition that have started: in progress or absorbed. -/
def State.startedOn (s : State) (p : Nat) : List Exec :=
  s.adm.execs.filter (fun e => (e.phase == .running || e.phase == .absorbed) && e.plan.key.part == p)

/-- An execution ends: its completion entry, unless it was absorbed. -/
def endExec (e : Exec) (n : Nat) (s : State) : State :=
  let s := dropExec e.id (disarmGates e.id s)
  if e.phase = .running then
    complete { Compl.mk' e.ticket stOk with tick0 := e.tick0, tickEnd := n, held := e.heldCnt, poisoned := e.poisoned } s
  else s

/-- The plan tick of an execution advances; after the last one it ends. -/
def nextPlanTick (n : Nat) (e : Exec) (s : State) : State :=
  match s.exec? e.id with
  | none => s
  | some e =>
    let e := { e with planTick := e.planTick + 1 }
    if e.plan.length ≤ e.planTick then endExec e n s else setExec e s

/-- An advancing boundary n of a partition commits. -/
def commitPart (p n : Nat) (s : State) : State :=
  let es := s.startedOn p
  let s := es.foldl (fun s e => commitExec e.id s) s
  es.foldl (fun s e => nextPlanTick n e s) s

/-! ## Starts (R259) -/

/-- The plan tick's tasks of an execution join its cores' slots, in slot order. -/
def loadSlots (e : Exec) (s : State) : State :=
  e.plan.stages.foldl (fun (a : Nat × State) st =>
    let mine := e.plan.placed.filter (fun x => x.stage = a.1 ∧ x.tick = e.planTick)
    let k := a.2.core st.core
    let s := a.2.setCore st.core { k with slot := k.slot ++ mine.map (fun x => (e.id, x.id)),
                                          planned := k.planned + (mine.map (·.cost)).sum }
    (a.1 + 1, s)) (0, s) |>.2

/-- Arm the plan's gates (Table 8-13). -/
def armGates (e : Exec) (s : State) : State :=
  (List.range e.plan.targets.length).foldl (fun s i =>
    let g := e.plan.gateBase + i
    s.setGate g { s.gate g with count := 0, target := e.plan.targets.getD i 0, armedBy := some e.id }) s

/-- The conditions of R259 for an execution at boundary n, apart from its preparation. R142 adds none: an earlier execution
of the same plan has its ticks on the same cores. -/
def State.mayStart (s : State) (e : Exec) (n : Nat) : Bool :=
  isQueued e.phase && e.admitted + 16000 ≤ s.tick.st && e.startTick.all (fun t => t ≤ n) &&
  !s.adm.execs.any (fun o => o.id != e.id && o.ticket.fn == e.ticket.fn &&
    ((isQueued o.phase && o.plan.key.part == e.plan.key.part && o.id < e.id) ||
     ((o.phase == .running || o.phase == .absorbed) && o.plan.cores.any e.plan.cores.contains))) &&
  !s.adm.aes.any (fun ae => ae.subs.any (fun x => x.ticket.fn == e.ticket.fn && x.part == e.plan.key.part &&
    x.id.any (fun i => i < e.id)))

/-- A substitution that an execution needs has not reached the journal (R412, R414). -/
def State.substWaits (s : State) (e : Exec) : Bool :=
  s.mnt.pend.any (fun x => !x.committed && match x.change with
    | .coreSubst cl k _ => e.plan.cores.contains (16 * cl + k)
    | .clusterSubst cl _ => e.plan.cores.any (fun c => clusterOfCore c == cl)
    | _ => false)

/-- Cores of an execution that no execution in progress uses. -/
def State.freeCoresOf (s : State) (e : Exec) : List Nat :=
  e.plan.cores.filter (fun c => !s.adm.execs.any (fun o => o.phase == .running && o.plan.cores.contains c))

/-- Substitutions due on the cores of an execution that is about to start complete first; for R259 its plan counts as admitted from
then on (R412). -/
def substFirst (e : Exec) (s : State) : State :=
  let s := substituteFor (s.freeCoresOf e) s
  { s with adm := { s.adm with execs := s.adm.execs.map (fun o => if o.id = e.id then { o with admitted := s.tick.st } else o) } }

/-- Start an execution at boundary n. -/
def startExec (n : Nat) (e : Exec) (s : State) : State :=
  let s := armGates e s
  let e := { e with phase := .running, tick0 := n, planTick := 0 }
  let s := setExec e s
  let p := e.plan.key.part
  let s := s.setPpart p { s.ppart p with acc := 0 }
  let s := { s with adm := { s.adm with startSeq := s.adm.startSeq + 1,
                                        plans := s.adm.plans.map (fun x =>
                                          if x.key = e.plan.key then { x with startedAt := s.adm.startSeq + 1 } else x) } }
  s

/-- An empty graph runs no tick and completes normally at the next tick boundary, held or advancing (R242). -/
def endEmpty (p n : Nat) (s : State) : State :=
  (s.adm.execs.filter (fun e => isQueued e.phase && e.plan.key.part == p && e.plan.tasks == [])).foldl (fun s e =>
    complete { Compl.mk' e.ticket stOk with tick0 := n, tickEnd := n } (dropExec e.id s)) s

/-- Prepare the next execution at a boundary: where every frame, companion and shadow it names is there already, the FM reported it
when the AE admitted the plan (R290). -/
def reportNext (fn p : Nat) (s : State) : State :=
  let s' := prepareNext fn p s
  if s'.fm = s.fm then
    { s' with adm := { s'.adm with execs := s'.adm.execs.map (fun e =>
        { e with admitted := ((s.exec? e.id).map (·.admitted)).getD e.admitted }) } }
  else s'

/-- The executions of a partition that may start at boundary n do: the FM has reported their frames resident at least 1 µs before
(R259, R290), and the layouts their plan was costed with still stand (R518). -/
def startAll (p n : Nat) (s : State) : State :=
  let ids := sortBy (fun a b => a < b) ((s.adm.execs.filter (fun e => isQueued e.phase && e.plan.key.part == p)).map (·.id))
  ids.foldl (fun s id =>
    match s.exec? id with
    | none => s
    | some e =>
      if s.mayStart e n && substDue (s.freeCoresOf e) s != [] then substFirst e s
      else if s.mayStart e n && !s.substWaits e then
        let s := if e.phase = .queued then reportNext e.ticket.fn p s else s
        match s.exec? id with
        | some e =>
          if e.phase != .prepared then s
          else if planStale s e.ticket.fn e.plan then readmit e s
          else if s.mayStart e n then startExec n e s else s
        | none => s
      else s) s

/-! ## The boundary (R261, R264, R208, R209, Table 8-15) -/

/-- Arrivals of a partition whose boundary n has come apply together, their commands complete, and host waiters that are
met complete (R255). -/
def applyArrivals (p n : Nat) (s : State) : State :=
  let due := s.tick.arrivals.filter (fun a => a.part = p ∧ a.after ≤ n)
  let s := { s with tick := { s.tick with arrivals := s.tick.arrivals.filter (fun a => !(a.part = p ∧ a.after ≤ n)) } }
  let s := due.foldl (fun s a => addArrivals a.gate a.n s) s
  let s := completeAll (due.filterMap (·.ticket)) stOk s
  let gs := (s.tick.gates.filter (fun e => e.2.waiters != [] && (s.gatePart e.1 == some p || s.gatePart e.1 == none))).map
    (·.1)
  gs.foldl (fun s g => meetWaiters g s) s

/-- Park and resume at boundary n: whether the partition resumes here. -/
def parkResume (p n : Nat) (held : Bool) (s : State) : Bool × State :=
  let pt := s.part p
  let parkNow := pt.state == .running && pt.parkAt.any (· ≤ n) && !held
  let resumeNow := pt.state == .parked && pt.resumeAt.any (· ≤ n)
  let pt' := { pt with state := if parkNow then .parked else if resumeNow then .running else pt.state,
                       parkAt := if parkNow || resumeNow then none else pt.parkAt,
                       resumeAt := if resumeNow || parkNow then none else pt.resumeAt }
  -- tickets whose boundary has come: done, or ignored; a park that a held boundary delays keeps waiting
  let waiting := pt'.state == .running && pt'.parkAt.isSome
  let due (l : List (Nat × Ticket)) : List Ticket := (l.filter (fun x => x.1 ≤ n)).map (·.2)
  let rest (l : List (Nat × Ticket)) : List (Nat × Ticket) := l.filter (fun x => n < x.1)
  let s := if resumeNow then s.setPpart p { s.ppart p with parkedByGov := false } else s
  let s := s.setPart p { pt' with parkTk := if waiting then pt.parkTk else rest pt.parkTk, resumeTk := rest pt.resumeTk }
  let s := if waiting then s else completeAll (due pt.parkTk) (if parkNow then stOk else stState) s
  let s := completeAll (due pt.resumeTk) (if resumeNow then stOk else stState) s
  (resumeNow, s)

/-- Recompute the feature level at an epoch boundary; plans of the old level are flushed (R356, R357). -/
def levelEpoch (p n : Nat) (s : State) : State :=
  let pt := s.part p
  if n % 4096 = 0 then
    match pt.nextLevel with
    | none => s
    | some l =>
      let s := s.setPart p { pt with level := l, nextLevel := none }
      if l = pt.level then s else flushPlans (fun x => x.key.part == p && x.key.level != l) s
  else s

/-- Changes that wait for a boundary of the partition (R277, R301, R519, R286, R292, R397). -/
def boundaryChanges (p : Nat) (adv : Bool) (s : State) : State :=
  let s := applyPartPend p s
  let s := ((s.mem.pend.map (·.fn)).eraseDups).foldl (fun s f => if s.fnRunning f then s else applyMmuPend f s) s
  let s := if adv then hostSwaps s else s
  let s := if (s.part p).state == .parked then s else applyChanges (some p) s
  retryWaits (evictExcess (settleShadows s))

/-- The window slots of the tick that begins, reserved for each function on the partition's cores (R370). -/
def reserveSlots (p : Nat) (s : State) : State :=
  let n := (s.partCores p).length
  let c := s.tickCfgEff p
  { s with pwr := { s.pwr with resSlots := (s.partFns p).foldl (fun t f =>
      tmod t f 0 (· + n * windowOf (periodOf c) (mwinOf c) s.rr (shareOf (s.fnPartEff f p)))) s.pwr.resSlots } }

/-- The tick that begins at the boundary: its length, its windows and its slots. -/
def beginTick (p n k : Nat) (fresh : Bool) (s : State) : State :=
  let s := { s with reg := { s.reg with tickCfgEff := tput s.reg.tickCfgEff p (BitVec.ofNat 32 (s.tickCfg p % 2 ^ 18)) } }
  let pt := s.part p
  let k := min 22 k
  let at_ := pt.next
  let s := s.setPart p { pt with tick := n, next := at_ + periodOf (s.tickCfgEff p) * 2000 * (8 + k), k := k,
                                 prevAdv := fresh, lead := false, merged := 0, round := 0, hasFinal := false }
  if (s.part p).state == .running then
    let cores := s.partCores p
    let s := reserveSlots p s
    let s := if fresh then
        let other (id : Nat) : Bool := (s.exec? id).any (fun e => e.plan.key.part != p)
        let s := mapCores cores.contains (fun c =>
          { c with planned := 0, consumed := 0, budget := false, glideFrom := none, slot := c.slot.filter (fun y => other y.1) }) s
        let s := startAll p n s
        (s.adm.execs.filter (fun e => e.phase == .running && e.plan.key.part == p)).foldl (fun s e => loadSlots e s) s
      else s
    cores.foldl (fun s c => if (tget s.cores c).isSome then openFirst c s else s) s
  else mapCores (s.partCores p).contains (fun c => { c with planned := 0, consumed := 0, glideFrom := none }) s

/-- 0x0201 once per partition per millisecond, with the cause and the first raiser (R264). -/
def raiseSlip (p : Nat) (w : Dword) (s : State) : State :=
  let fns := ((s.adm.execs.filter (fun x => x.phase = .running ∧ x.plan.key.part = p)).map (·.ticket.fn)).eraseDups
  let k := s.core (penCore w)
  let own := if penMod w = s.moduleNo then (k.run.toList ++ k.paused).findSome? s.runFn else none
  raiseOncePer msSt p { EventRec.mk' 0x0201 with part := some p, tick := some (s.part p).tick, unit := some (penCore w), fn := own,
                                                 info := some (penMod w * 2 ^ 16 + penCause w) } fns s

def heldBoundary (p : Nat) (slip : Bool) (s : State) : State :=
  let w := (s.part p).final
  let s := if slip then raiseSlip p w s else s
  { s with adm := { s.adm with execs := s.adm.execs.map (fun e =>
      if e.phase == .running && e.plan.key.part == p then { e with heldCnt := e.heldCnt + 1 } else e) } }

def tickBoundary (p : Nat) (s : State) : State :=
  if !(s.partTicks p && (s.part p).lead) then s
  else
    let s := pennantFinal p s
    let pt := s.part p
    let s := endWindows p (advanceTo pt.next s)
    let n := (pt.tick + 1) % 2 ^ 48
    if pt.freezeNext then
      settleState (applyPartPend p (s.setPart p { pt with state := .frozen, tick := n, freezeNext := false }))
    else
      let slip := penSlip pt.final
      let adv := pt.state == .running && !slip
      let s := if adv then commitPart p n (flushLines (s.partClusters p) s) else heldBoundary p slip s
      let s := applyArrivals p n (endEmpty p n s)
      let (resumed, s) := parkResume p n slip s
      let s := boundaryChanges p adv s
      let s := stepClock p (penTlen pt.final) (penTlen pt.ownWord) s
      let s := settleVcore (levelEpoch p n s)
      settleState (beginTick p n (penTlen pt.final) (adv || resumed) s)

/-- TICK_BOUNDARY (R261). -/
def execTickBoundary (part : Nat) (s : State) : Host.Outcome State Fault Refusal :=
  .next (if part < 16 then tickBoundary part s else s)

/-! ## PARTITION_START (R348) -/

def partitionStart (p : Nat) (s : State) : State :=
  let pt := s.part p
  match pt.state, pt.startReq with
  | .idle, some st =>
    if !s.serving then s
    else if s.spanning p && !s.featuresAgree p then
      raise { EventRec.mk' 0x040C with part := some p, unit := some (s.pid p), info := some 0 }
        (s.setPart p { pt with startReq := none })
    else
      let b := st
      let s := advanceTo b s
      let s := s.setPart p { Part.reset with state := .running, next := b, level := s.levelNow p, features := pt.features }
      let s := boundaryChanges p true s
      let s := settleState (beginTick p 0 0 true s)
      if s.spanning p then checkPaths s else s
  | _, _ => s

/-- PARTITION_START (R348). -/
def execPartitionStart (part : Nat) (s : State) : Host.Outcome State Fault Refusal :=
  .next (if part < 16 then partitionStart part s else s)

/-! ## PARTITION_PARK and PARTITION_RESUME (R207, R209, R210) -/

/-- The boundary that a request made now names: T + 2, or T + 3 once this tick's words have been formed. -/
def Part.requestAt (p : Part) : Nat := if p.lead then p.tick + 3 else p.tick + 2

/-- PARTITION_PARK: ignored with STATE at once where the partition does not run (R210), unless a resume is asked for that names the same
boundary: then both go into the pennant word and change nothing. -/
def parkEffect (e : Nat) (t : Ticket) (s : State) : State :=
  let p := entF e 0x08 2
  let pt := s.part p
  if 16 ≤ p then completeSt t stInvalid s
  else if pt.state ≠ .running ∧ !(pt.state = .parked ∧ pt.resumeReq) then completeSt t stState s
  else s.setPart p { pt with parkReq := true, parkTk := pt.parkTk ++ [(pt.requestAt, t)] }

/-- PARTITION_RESUME, in the same way. -/
def resumeEffect (e : Nat) (t : Ticket) (s : State) : State :=
  let p := entF e 0x08 2
  let pt := s.part p
  if 16 ≤ p then completeSt t stInvalid s
  else if pt.state ≠ .parked ∧ !(pt.state = .running ∧ pt.parkReq) then completeSt t stState s
  else
    let s := s.setPart p { pt with resumeReq := true, resumeTk := pt.resumeTk ++ [(pt.requestAt, t)] }
    s.setPpart p { s.ppart p with parkedByGov := false }

/-- PARTITION_PARK (R207). -/
def execPartitionPark (fn q : Nat) (s : State) : Host.Outcome State Fault Refusal :=
  .next (onEntry opPartitionPark fn q parkEffect s)

/-- PARTITION_RESUME (R209). -/
def execPartitionResume (fn q : Nat) (s : State) : Host.Outcome State Fault Refusal :=
  .next (onEntry opPartitionResume fn q resumeEffect s)

end Sys2Proof.Machine
end

