-- ==== Sys2Proof/Machine/Resets.lean ====
section
/-!
DEFINITION. Function, core, cluster and partition resets (R109, R281, R310, R439-R442) and VF Enable (R298): the meanings of
FN_RESET, FUNCTION_LEVEL_RESET, HOT_RESET, CORE_RESET, CLUSTER_RESET, PARTITION_RESET and VF_ENABLE.
-/

namespace Sys2Proof.Machine

open Sys2Proof

/-! ## Function reset (R310) -/

/-- The executions of a function: started ones are absorbed, queued ones discarded, submissions dropped, plans removed. -/
def fnResetWork (f : Nat) (s : State) : State :=
  let ids := (s.adm.execs.filter (fun e => e.ticket.fn = f)).map (·.id)
  let s := ids.foldl (fun s i => absorbExec false i s) s
  { s with adm := { s.adm with
      aes := s.adm.aes.map (fun ae => { ae with subs := ae.subs.filter (fun x => x.ticket.fn ≠ f) }),
      plans := s.adm.plans.filter (fun p => p.key.fn ≠ f) } }

/-- A command of function f that the Frame Manager holds. -/
def FmWait.fnOf : FmWait → Nat
  | .alloc _ f _ _ => f
  | .free _ f _ _ => f
  | .load _ f _ _ => f
  | .later t _ => t.fn

/-- Its frames are freed; transfers and commands of the Frame Manager for it end. -/
def fnResetFrames (f : Nat) (s : State) : State :=
  { s with fm := { s.fm with frames := s.fm.frames.filter (fun x => x.1 / 2 ^ 21 ≠ f),
                             waits := s.fm.waits.filter (fun w => w.fnOf ≠ f),
                             paging := s.fm.paging.map (fun e => (e.1, e.2.filter (fun p => p.fn ≠ f))) } }

/-- AS valid bits, CM lines, accumulator tiles and ACCM rows of its allotments. -/
def fnResetStores (f : Nat) (s : State) : State :=
  (s.fnParts f).foldl (fun s p =>
    let as0 := s.asBase p f
    let asN := 64 * as16kOf (s.fmCfg f)
    let cm0 := s.cmBase p f
    let cmN := 512 * cm128kOf (s.fmCfg f)
    let cores := s.partCores p
    let cls := s.partClusters p
    let t0 := s.tileBase p f
    let tN := tilesOf (s.fnPartEff f p)
    let a0 := s.accmBase p f
    let aN := 64 * accmOf (s.fnPartEff f p)
    let hit (base n key w : Nat) : Bool := base ≤ key % w && key % w < base + n
    let s := { s with mem := { s.mem with
      as := s.mem.as.filter (fun e => !(cores.contains (e.1 / 2 ^ 11) && hit as0 asN e.1 (2 ^ 11))),
      cm := s.mem.cm.filter (fun e => !(cls.contains (e.1 / 2 ^ 14) && hit cm0 cmN e.1 (2 ^ 14))) } }
    mapCores cores.contains (fun c => clearAccm a0 aN (clearTiles t0 tN c)) s) s

/-- Its gates keep their OWNER; COUNT and TARGET become 0, host waiters and pending arrivals are dropped. -/
def fnResetGates (f : Nat) (s : State) : State :=
  let mine (g : Nat) : Bool := (s.gate g).owner == f
  { s with tick := { s.tick with
      gates := s.tick.gates.map (fun e =>
        if e.2.owner = f then (e.1, { e.2 with count := 0, target := 0, waiters := [] }) else e),
      arrivals := s.tick.arrivals.filter (fun a => !(mine a.gate || a.ticket.any (fun t => t.fn == f))),
      parts := s.tick.parts.map (fun e => (e.1, { e.2 with
        parkTk := e.2.parkTk.filter (fun x => x.2.fn ≠ f), resumeTk := e.2.resumeTk.filter (fun x => x.2.fn ≠ f) })) } }

/-- The dirty HBM copies of its host-backed pages are discarded without write-back, clean ones stay; its fills end, and commands of it
that wait to change a translation are discarded (R310). -/
def fnResetPages (f : Nat) (s : State) : State :=
  let refs := (List.range 16).flatMap (fun w =>
    (s.pagesIn f w 0 (2 ^ 23)).map (fun (x : PteRef × Nat) => x.1))
  let s := { s with mem := { s.mem with fills := s.mem.fills.filter (fun x => x.fn ≠ f),
                                        pend := s.mem.pend.filter (fun x => !x.ticket.any (fun t => t.fn == f)) } }
  refs.foldl (fun s r => if pteHost (s.pte r) && bitOf (s.pte r) 7 then s.setPte r (setBits (s.pte r) 7 6 0) else s) s

/-- Its queues, registers and held register halves. -/
def fnResetHost (f : Nat) (s : State) : State :=
  let mine (k : Nat) : Bool := k / 2 ^ 28 / 8 == f
  { s with host := { s.host with qps := tclear s.host.qps (qkey f 0) 8, eqs := tdel s.host.eqs f,
                                 aqCfg := tdel s.host.aqCfg f, aqSqBase := tdel s.host.aqSqBase f,
                                 aqCqBase := tdel s.host.aqCqBase f, evtOvf := tdel s.host.evtOvf f,
                                 heldLow := tkeep s.host.heldLow (fun k => f == 0 || !mine k),
                                 capturedHi := tkeep s.host.capturedHi (fun k => f == 0 || !mine k) },
           reg := { s.reg with mmuFnStat := tdel s.reg.mmuFnStat f,
                               mmuFnCfg := (match tget s.reg.mmuFnCfg f with
                                 | some v => tput s.reg.mmuFnCfg f (v &&& 0x7FFFFFFF)
                                 | none => s.reg.mmuFnCfg) },
           net := { s.net with remote := s.net.remote.filter (fun x => x.fn ≠ f) } }

/-- A mailbox of a function of BAR2. -/
def isMailboxOf (fns : Nat → Bool) : Requester → Bool
  | .bar2 f _ => fns f
  | _ => false

def mbKey (fn m : Nat) : Nat := fn * 4 + m

/-- The mailboxes of functions: registers, staged values and snapshots (R471). -/
def resetMailboxes (fns : Nat → Bool) (s : State) : State :=
  { s with od := { s.od with mailbox := tkeep s.od.mailbox (fun k => !fns (k / 4)),
                             staged := s.od.staged.filter (fun x => !isMailboxOf fns x.who),
                             snaps := s.od.snaps.filter (fun x => !isMailboxOf fns x.who) } }

/-- The reset of one function. Changes of its translations that waited for its executions take effect (R277). -/
def fnReset (f : Nat) (s : State) : State :=
  let s := resetMailboxes (· == f) (fnResetWork f s)
  let s := fnResetHost f (fnResetPages f (fnResetGates f (fnResetStores f (fnResetFrames f s))))
  settlePend (settleState (applyMmuPend f s))

def fnResetEffect (e : Nat) (t : Ticket) (s : State) : State :=
  let f := entFn e
  if f = 0 ∨ !s.fnExists f then completeSt t stInvalid s else completeSt t stOk (fnReset f s)

/-- FN_RESET (R310, R493). -/
def execFnReset (fn q : Nat) (s : State) : Host.Outcome State Fault Refusal :=
  .next (onEntry opFnReset fn q fnResetEffect s)

/-- FUNCTION_LEVEL_RESET (R310). -/
def execFunctionLevelReset (fn : Nat) (s : State) : Host.Outcome State Fault Refusal :=
  .next (if s.fnExists fn then fnReset fn s else s)

/-- Reset the functions of a list that `which` names. -/
def resetFns (which : Nat → Bool) (fns : List Nat) (s : State) : State :=
  fns.foldl (fun s f => if which f then fnReset f s else s) s

/-- HOT_RESET (R441): a function reset of every function; the module state is unchanged. -/
def execHotReset (s : State) : Host.Outcome State Fault Refusal :=
  .next (resetFns s.fnExists (List.range Config.functions) s)

/-- VF_ENABLE (R298): the number of virtual functions and VF Enable, as the host's PCIe configuration writes set them;
a function that stops existing is reset (PCIe clears its state with VF Enable). -/
def vfEnableEffect (numVfs : Nat) (enable : Bool) (s : State) : State :=
  let s' := { s with host := { s.host with numVfs := min 511 numVfs, vfEn := enable } }
  resetFns (fun f => s.fnExists f && !s'.fnExists f) (List.range Config.functions) s'

/-- VF_ENABLE (R298). -/
def execVfEnable (numVfs : Nat) (enable : Bool) (s : State) : Host.Outcome State Fault Refusal :=
  .next (vfEnableEffect numVfs enable s)

/-! ## Core, cluster and partition resets (R439-R441) -/

/-- Cores of a Stage Map of a submission in admission. -/
def subNames (cores : Nat → Bool) (x : Sub) (s : State) : Bool :=
  match x.phase with
  | .check => false
  | .fit gd _ _ _ => (((readStages x gd s).1.getD []).map parseStage).any (fun e => cores e.core)

/-- Admissions of graphs that name the unit run to their end. -/
def drainAdmissions (cores : Nat → Bool) : Nat → State → State
  | 0, s => s
  | n + 1, s =>
    match (s.adm.aes.flatMap (·.subs)).find? (fun x => subNames cores x s) with
    | none => s
    | some x =>
      match x.phase with
      | .check => s
      | .fit gd bt bs ts => drainAdmissions cores n (admitTurn x gd bt bs ts s)

/-- COUNT and TARGET of the gates that an execution armed become 0; their host waiters complete with ABORTED. -/
def dropArmed (id : Nat) (s : State) : State :=
  let gs := (s.tick.gates.filter (fun e => e.2.armedBy = some id)).map (·.1)
  gs.foldl (fun s g =>
    let x := s.gate g
    completeAll x.waiters stAborted (s.setGate g { x with count := 0, target := 0, waiters := [], armedBy := none })) s

/-- Executions of a kind are absorbed, with ABORTED. -/
def absorbWhere (hit : Exec → Bool) (s : State) : State :=
  (s.adm.execs.filter (fun e => hit e && e.phase != .absorbed)).foldl (fun s e => absorbExec true e.id (dropArmed e.id s)) s

/-- Executions that use the cores. -/
def absorbOn (cores : Nat → Bool) (s : State) : State := absorbWhere (fun e => e.plan.cores.any cores) s

/-- Transfers and zeroing on the cores complete; fills and remote accesses they wait for have completed. -/
def drainCores (cores : List Nat) (s : State) : State :=
  let s := cores.foldl (fun s c =>
    (tgetD s.fm.paging c []).foldl (fun s p => if p.out then pageOutEffect c [] s else pageInEffect c [] s) s) s
  let zs := (s.fm.frames.filter (fun x => cores.contains x.2.core && x.2.state == .zeroing)).filterMap (fun x =>
    x.2.mac.map (fun m => (x.2.core, m)))
  let s := zs.foldl (fun s z => frameZeroingEffect z.1 z.2 s) s
  { s with net := { s.net with remote := s.net.remote.filter (fun x => !cores.contains x.core) } }

/-- Maintenance on the cores is abandoned: grants, staged trims, evacuation copies and map changes not yet committed. -/
def abandonMaintenance (cores : List Nat) (s : State) : State :=
  let onMac (pm : Nat) : Bool := match s.logCore (pm / 66) with
    | some c => cores.contains c
    | none => false
  let onChange (ch : MapChange) : Bool := match ch with
    | .evacSwap c _ _ => cores.contains c
    | .remap m _ _ _ => onMac m
    | .retireMacro m _ => onMac m
    | .freeMacro m => onMac m
    | .suspect m _ _ => onMac m
    | .coreSubst cl k _ => cores.contains (16 * cl + k)
    | .clusterSubst cl _ => cores.any (fun c => clusterOfCore c == cl)
  { s with mnt := { s.mnt with windows := s.mnt.windows.map (fun w => { w with reqs := w.reqs.filter (fun r => r.act == .lnk || !onMac r.mac) }),
                               trims := s.mnt.trims.filter (fun t => !onMac t.mac),
                               copied := s.mnt.copied.filter (fun e => !onMac e.1),
                               pend := s.mnt.pend.filter (fun x => x.committed || !onChange x.change) } }

/-- What every reset of units does: admissions are drained, executions absorbed, traffic drained, maintenance abandoned,
and each core cleared. -/
def resetCores (cores : List Nat) (s : State) : State :=
  let s := absorbOn cores.contains (drainAdmissions cores.contains 1024 s)
  let s := abandonMaintenance cores (drainCores cores s)
  settlePend (settleShadows (cores.foldl (fun s c => resetCoreState c s) s))

/-- Modified lines of clusters are written back, then their CM is zeroed and their directories are emptied. -/
def zeroClusters (cls : List Nat) (s : State) : State :=
  let s := flushLines cls s
  { s with mem := { s.mem with cm := s.mem.cm.filter (fun e => !cls.contains (e.1 / 2 ^ 14)) } }

def clusterCores (cl : Nat) : List Nat := (List.range 16).map (fun k => 16 * cl + k)

/-- The Tick Unit of a partition returns to IDLE with TICK 0: arrivals that waited apply, requests to park or resume
end with ABORTED, plans of the partition leave the cache. -/
def resetPart (p : Nat) (s : State) : State :=
  let due := s.tick.arrivals.filter (fun a => a.part = p)
  let s := { s with tick := { s.tick with arrivals := s.tick.arrivals.filter (fun a => a.part ≠ p) } }
  let s := due.foldl (fun s a => meetWaiters a.gate (addArrivals a.gate a.n s)) s
  let s := completeAll (due.filterMap (·.ticket)) stOk s
  let s := absorbWhere (fun e => e.plan.key.part == p) s
  let pt := s.part p
  let s := s.setPart p { Part.reset with features := pt.features }
  let s := completeAll ((pt.parkTk ++ pt.resumeTk).map (·.2)) stAborted s
  let s := { s with adm := { s.adm with execs := s.adm.execs.filter (fun e => e.plan.key.part ≠ p),
                                        plans := s.adm.plans.filter (fun x => x.key.part ≠ p) } }
  let s := s.setPpart p { s.ppart p with parkedByGov := false, acc := 0 }
  let s := ((s.mem.pend.map (·.fn)).eraseDups).foldl (fun s f => if s.fnRunning f then s else applyMmuPend f s) s
  applyPartPend p s

def coreResetEffect (e : Nat) (t : Ticket) (s : State) : State :=
  let c := entF e 0x08 2
  if 2048 ≤ c then completeSt t stInvalid s else completeSt t stOk (settleState (resetCores [c] s))

/-- CORE_RESET (R439-R441). -/
def execCoreReset (fn q : Nat) (s : State) : Host.Outcome State Fault Refusal :=
  .next (onEntry opCoreReset fn q coreResetEffect s)

def clusterResetEffect (e : Nat) (t : Ticket) (s : State) : State :=
  let c := entF e 0x08 2
  if 128 ≤ c then completeSt t stInvalid s
  else completeSt t stOk (settleState (zeroClusters [c] (resetCores (clusterCores c) s)))

/-- CLUSTER_RESET (R439-R441). -/
def execClusterReset (fn q : Nat) (s : State) : Host.Outcome State Fault Refusal :=
  .next (onEntry opClusterReset fn q clusterResetEffect s)

def partitionResetEffect (e : Nat) (t : Ticket) (s : State) : State :=
  let p := entF e 0x08 2
  if 16 ≤ p then completeSt t stInvalid s
  else
    let cls := s.partClusters p
    completeSt t stOk (settleState (resetPart p (zeroClusters cls (resetCores (s.partCores p) s))))

/-- PARTITION_RESET (R439-R441). -/
def execPartitionReset (fn q : Nat) (s : State) : Host.Outcome State Fault Refusal :=
  .next (onEntry opPartitionReset fn q partitionResetEffect s)

end Sys2Proof.Machine
end

