-- ==== Sys2Proof/Machine/Feed.lean ====
section
/-!
DEFINITION. What a task reads (chapter 7, R88-R93, R126, R133, R140, R147, R516): its context, blocks through the store of its
own execution, scales and tables at its start, remote blocks it waits for, the activations of a token, and the macros that
count them.
-/

namespace Sys2Proof.Machine

open Sys2Proof

/-! ## The task a core runs -/

/-- The task under way with its execution, trip counts and actual bounds (R227, R229); `part` is the partition on whose ticks it
runs. -/
structure TaskCtx where
  core  : Nat
  fn    : Nat
  part  : Nat
  id    : Nat
  i     : Nat
  t     : Task
  plan  : Plan
  trips : List Nat
  bm    : Nat
  bn    : Nat
  bk    : Nat
  deriving DecidableEq, Repr

def mkCtx (core : Nat) (e : Exec) (i : Nat) (t : Task) : TaskCtx :=
  let ext (d : Nat) : Nat := e.xs.getD (d - 1) 0
  { core := core, fn := e.ticket.fn, part := e.plan.key.part, id := e.id, i := i, t := t, plan := e.plan,
    trips := e.plan.trips.getD i [], bm := boundDim t ext 0, bn := boundDim t ext 1, bk := boundDim t ext 2 }

def State.taskCtx (s : State) (core : Nat) (r : Run) : Option TaskCtx :=
  match s.exec? r.exec with
  | none => none
  | some e => (e.plan.tasks[r.task]?).map (mkCtx core e r.task)

/-- A run at the start of a task. -/
def Run.start (exec task : Nat) : Run :=
  { exec := exec, task := task, setup := false, step := 0, busy := false, token := 0, round := 0, slice := 0, jobs := [],
    writes := [], outs := [], failed := [], buf := [], inp := [], trips := [], obuf := [], oStep := 0, remote := [], got := [], sa := { val := 0x3F800000, poison := false }, sw := [],
    sigma := { val := 0x3F800000, poison := false }, badScale := false, adapted := false, srStep := 0, coef := 0,
    coefBad := false, t0 := [], t1 := [], t0Bad := false, t1Bad := false, sCoef := 0, counted := 0, clipped := 0, nonfin := 0, amax := 0,
    poisonedN := 0, density := 0, overAt := none, rc := 64, sparse := false, base := 0, steered := 0, retries := [], slots := 0,
    accmAt := none, badStep := false, cause := 0, prepass := [], wrote := [], srecSent := false, hdrSent := false, finished := false }

/-! ## Reading -/

/-- A block as the task sees it: its O buffer, what its execution has produced on the core, what staging and the links have
brought, memory. -/
def fetchBlk (x : TaskCtx) (r : Run) (dva : Nat) (s : State) : Block × State :=
  let held (l : List (Nat × Block)) : Option Block := (l.find? (fun y => y.1 == dva / 256)).map (·.2)
  let made := ((s.core x.core).staged.find? (fun y => y.1 == x.id && y.2.1 == dva / 256)).map (·.2.2)
  match (held r.obuf).orElse (fun _ => made.orElse (fun _ => held r.buf)) with
  | some b => (b, s)
  | none => readBlk x.fn x.part (some x.core) dva s

/-- The blocks of a list, each read once. -/
def fetchBlks (x : TaskCtx) (r : Run) (ds : List Nat) (s : State) : List (Nat × Block) × State :=
  ds.foldl (fun (a : List (Nat × Block) × State) d =>
    let (b, s) := fetchBlk x r d a.2
    (a.1 ++ [(d / 256, b)], s)) ([], s)

/-- The block that holds an address, among blocks read. -/
def blockIn (bs : List (Nat × Block)) (va : Nat) : Block :=
  ((bs.find? (fun y => y.1 == va / 256)).map (·.2)).getD Block.zeroPoison

/-- The blocks that a range of bytes touches, by their first address. -/
def blocksAt (va n : Nat) : List Nat :=
  if n = 0 then [] else (List.range ((va + n - 1) / 256 - va / 256 + 1)).map (fun i => (va / 256 + i) * 256)

/-- Bytes with the poison of any block they touch. -/
def fetchBytes (x : TaskCtx) (r : Run) (va n : Nat) (s : State) : List Byte × Bool × State :=
  let (bs, s) := fetchBlks x r (blocksAt va n) s
  (((bs.flatMap (fun y => blockBytes y.2.data)).drop (va % 256)).take n, bs.any (fun y => y.2.poison), s)

/-- Bytes of a Format Record, Tensor Header or index list, which the CSQ reads through its core's Descriptor Cache: the cache takes
their lines in S, and a line that the cluster's CM holds modified is read from there (R32, R294). A block that the execution
itself has written is read as it wrote it. -/
def fetchDesc (x : TaskCtx) (r : Run) (va n : Nat) (s : State) : List Byte × Bool × State :=
  let lines := if n = 0 then [] else (List.range ((va + n - 1) / 64 - va / 64 + 1)).map (fun i => (va / 64 + i) * 64)
  let own (a : Nat) : Bool := r.obuf.any (fun y => y.1 == a / 256) ||
    (s.core x.core).staged.any (fun y => y.1 == x.id && y.2.1 == a / 256)
  let s := lines.foldl (fun s a => match s.lineOfDva x.fn x.part a with
    | some l => askLine x.core l false s
    | none => s) s
  let (bs, p, s) := fetchBytes x r (va / 64 * 64) (64 * lines.length) s
  let out := lines.zipIdx.flatMap (fun q =>
    let home := (bs.drop (64 * q.2)).take 64
    if own q.1 then home else s.cachedLine x.fn x.part x.core q.1 home)
  ((out.drop (va % 64)).take n, p, s)

/-- The first 64 containers of c bits of a number. -/
def rowCodes (c n : Nat) : List Nat := (List.range 64).map (fun k => n >>> (c * k) % 2 ^ c)

/-- A row of 64 containers in a data block: the codes, the exponent byte of its block, the poison mark. A block with
BLK = 0 gives exponent byte 0xFF (R282). -/
def Block.row (b : Block) (va c : Nat) : List Nat × Nat × Bool :=
  let o := va % 256
  (rowCodes c (fieldLE (blockBytes b.data) o (8 * c)), if b.blk then (b.exps.getD (o / 64) 0xFF).toNat else 0xFF, b.poison)

/-! ## The walk of the task -/

/-- The index list of the task, entry by position (R224). -/
def readIdx (x : TaskCtx) (r : Run) (s : State) : List Nat × State :=
  match x.t.indirLevel with
  | none => ([], s)
  | some l =>
    let n := x.trips.getD l 0
    let (bs, _, s) := fetchDesc x r x.t.idxVa (4 * n) s
    ((List.range n).map (fun i => fieldLE bs (4 * i) 4), s)

def ptsOf (x : TaskCtx) (idx : List Nat) (n : Nat) : List Pt := stepPts x.t.loops x.trips (fun p => idx.getD p 0) n

/-- A combination touches an element within the bounds; with an M, N or K bound of 0 none does (R230, R232). -/
def liveAt (x : TaskCtx) (p : Pt) : Bool := 8 * p.mg < x.bm && 64 * p.ng < x.bn && 64 * p.kg < x.bk

/-- The next step that is not skipped. -/
def nextLive (x : TaskCtx) (from_ : Nat) : Option Nat :=
  (List.range (nSteps x.t.loops x.trips)).find? (fun n => decide (from_ ≤ n) && (ptsOf x [] n).any (liveAt x))

def aAddr (t : Task) (q : Int) : Nat := addr64 ((t.aVa : Int) + q * t.unitA)
def oAddr (t : Task) (q : Int) : Nat := addr64 ((t.oVa : Int) + q * t.unitO)

/-- Tokens of an M granule, channels of an N granule, within the bounds. -/
def TaskCtx.toks (x : TaskCtx) (mg : Nat) : Nat := min 8 (x.bm - 8 * mg)
def TaskCtx.chans (x : TaskCtx) (ng : Nat) : Nat := min 64 (x.bn - 64 * ng)
/-- Columns of a COPY granule within the bounds. -/
def TaskCtx.cols (x : TaskCtx) (p : Pt) : Nat := if copyDim x.t = 2 then min 64 (x.bk - 64 * p.kg) else x.chans p.ng

/-- The A blocks that a step reads. -/
def aBlocks (x : TaskCtx) (pts : List Pt) : List Nat :=
  if !x.t.hasA || levelOf x.t.aVa == 0 then []
  else ((pts.filter (liveAt x)).flatMap (fun p =>
    let rows := if x.t.isWrite then min 64 (x.bk - 64 * p.kg) else x.toks p.mg
    blocksAt (aAddr x.t p.qA) (rows * 8 * (if x.t.isWrite then fmtBits x.t.fr.wFmt else fmtBits x.t.fr.aFmt)))).eraseDups

/-- The O blocks that a step may write. -/
def oBlocks (x : TaskCtx) (pts : List Pt) : List Nat :=
  if !x.t.hasO || levelOf x.t.oVa == 0 then []
  else ((pts.filter (liveAt x)).flatMap (fun p =>
    blocksAt (oAddr x.t p.qO) (x.toks p.mg * (x.t.unitO / 8)))).eraseDups

/-- The live combinations write every element of an O block: nothing of the old block is kept. -/
def oWhole (x : TaskCtx) (pts : List Pt) (d : Nat) : Bool :=
  let c := fmtBits x.t.oFmt
  (List.range (2048 / c)).all (fun i =>
    let e : Int := (((d : Int) - x.t.oVa) * 8) / c + i
    pts.any (fun p => liveAt x p && p.qO == e / 512 && decide (e % 512 / 64 < x.toks p.mg) && decide (e % 64 < (if x.t.isCopy then x.cols p else x.chans p.ng))))

/-- The egress operand blocks of a step (R112). -/
def eBlocks (x : TaskCtx) (pts : List Pt) : List Nat :=
  let at_ (en : Bool) (va : Nat) : List Nat :=
    if en && x.t.hasO then (pts.filter (liveAt x)).flatMap (fun p =>
      blocksAt (addr64 ((va : Int) + p.qO * x.t.unitE)) x.t.unitE) else []
  (at_ x.t.addEn x.t.addVa ++ at_ x.t.mulEn x.t.mulVa).eraseDups

/-! ## Staging (R223)

The CSQ stages A from a home level above 1: at each trip of a staging level the blocks of the trip lie in `Run.buf`, read once
from their home, and in the level's buffer in the stage's AS_SCRATCH or CM_SCRATCH area. O blocks collect in `Run.obuf` and the
buffers until the trip of O's outermost staging level ends. -/

def Task.aStaged (t : Task) : Bool := t.hasA && 1 < levelOf t.aVa
def Task.oStaged (t : Task) : Bool := t.hasO && 1 < levelOf t.oVa

/-- The trips of A's staging levels that hold step `n`, as (level, trip). -/
def aTrips (x : TaskCtx) (n : Nat) : List (Nat × Nat) :=
  if x.t.aStaged then
    ((List.range 6).filter (stagingAt x.t.loops (levelOf x.t.aVa))).map (fun l => (l, tripOf x.t.loops x.trips l n))
  else []

/-- The A blocks within the bounds that the trip of a level reads, the trip that holds step `n`. -/
def tripBlocks (x : TaskCtx) (idx : List Nat) (l n : Nat) : List Nat :=
  let k := tripLen x.t.loops x.trips l
  aBlocks x ((List.range k).flatMap (fun i => ptsOf x idx (n / k * k + i)))

/-- The A blocks that have to be at hand for step `n`: those of the trip of the outermost staging level, or the step's. -/
def aDue (x : TaskCtx) (idx : List Nat) (n : Nat) : List Nat :=
  match (if x.t.aStaged then outerStage x.t.loops (levelOf x.t.aVa) else none) with
  | some l => tripBlocks x idx l n
  | none => aBlocks x (ptsOf x idx n)

/-- The trip of O's outermost staging level that holds step `n`. -/
def oTrip (x : TaskCtx) (n : Nat) : Nat :=
  match outerStage x.t.loops (levelOf x.t.oVa) with
  | some l => tripOf x.t.loops x.trips l n
  | none => n

/-- The stage of the task's core. -/
def TaskCtx.stageNo (x : TaskCtx) : Nat := (x.plan.stages.findIdx? (fun e => e.core == x.core)).getD 0

/-- The first byte of the stage's scratch area in the function's allotment: AS_SCRATCH ends with the AS allotment, the CM_SCRATCH
areas of a cluster are stacked downward from the top of the CM allotment in ascending stage number (R237, Table 8-2). -/
def scratchAt (x : TaskCtx) (at_ : Nat) (s : State) : Nat :=
  if at_ = 1 then 16384 * as16kOf (s.fmCfg x.fn) - 1024 * ((x.plan.stages[x.stageNo]?).map (·.asKib)).getD 0
  else 131072 * cm128kOf (s.fmCfg x.fn) -
    1024 * (((x.plan.stages.take (x.stageNo + 1)).filter (fun e => clusterOfCore e.core == clusterOfCore x.core)).map (·.cmKib)).sum

/-- Write a block at a byte offset of the stage's scratch area. -/
def writeScratch (x : TaskCtx) (at_ off : Nat) (b : Block) (s : State) : State :=
  let line := (scratchAt x at_ s + off) / 256
  match s.partOfCluster (clusterOfCore x.core) with
  | none => s
  | some p => if at_ = 1 then s.setAs x.core (s.asBase p x.fn + line) b else s.setCm (clusterOfCore x.core) (s.cmBase p x.fn + line) b

/-- Where the buffers of a staging level begin in the scratch area: those of A before those of O, inner levels first (log entry 93). -/
def bufStart (x : TaskCtx) (o : Bool) (l : Nat) : Nat :=
  let t := x.t
  let at_ := innerBind t.loops l
  let mine (home unit : Nat) (st : LoopD → Int) : Nat :=
    (((stagesAt t.loops home at_).filter (· < l)).map (fun j => 2 * bufBytes t.loops x.trips unit j st)).sum
  if o then (if t.hasA then stagingBytes t.loops x.trips (levelOf t.aVa) t.unitA at_ (·.sA) else 0) + mine (levelOf t.oVa) t.unitO (·.sO)
  else mine (levelOf t.aVa) t.unitA (·.sA)

/-- The lowest offset of an operand in the trip of a level that holds step `n`. -/
def tripLow (x : TaskCtx) (idx : List Nat) (l n : Nat) (st : LoopD → Int) : Int :=
  let t := stepTrips x.t.loops x.trips n
  (offRange x.t.loops x.trips l st).1 + (((List.range 6).filter (l ≤ ·)).map (fun j =>
    let p := posAt x.t.loops x.trips t j
    (if (loopAt x.t.loops j).indir then (idx.getD p 0 % 2 ^ 20 : Int) else (p : Int)) * st (loopAt x.t.loops j))).sum

/-- Put a block of an operand into the buffer of a staging level: each keeps its offset from the lowest, and the two buffers
alternate with the trips. -/
def placeBlk (x : TaskCtx) (o : Bool) (idx : List Nat) (l n d : Nat) (b : Block) (s : State) : State :=
  let (va, unit) := if o then (x.t.oVa, x.t.unitO) else (x.t.aVa, x.t.unitA)
  let st : LoopD → Int := if o then (·.sO) else (·.sA)
  let size := bufBytes x.t.loops x.trips unit l st
  let off : Int := (d : Int) - ((va : Int) + tripLow x idx l n st * unit) / 256 * 256
  let at_ := innerBind x.t.loops l
  if (at_ = 1 ∨ at_ = 2) ∧ 0 ≤ off ∧ off < size then
    writeScratch x at_ (bufStart x o l + tripOf x.t.loops x.trips l n % 2 * size + off.toNat) b s
  else s

/-- The access of an indexed offset lies in its operand's window; one that does not is not performed (R224). -/
def TaskCtx.inOperand (x : TaskCtx) (va d : Nat) (s : State) : Bool :=
  x.t.indirLevel.isNone || s.operandOk x.fn x.part va ((d : Int), (d : Int) + 255)

/-- Read an A block. -/
def fetchA (x : TaskCtx) (r : Run) (d : Nat) (s : State) : Block × State :=
  if x.inOperand x.t.aVa d s then fetchBlk x r d s else (Block.zeroPoison, outOfWindow x.fn (some x.core) d s)

/-- Before a trip of A's staging levels: the blocks of the outermost trip are read from their home, and every level whose trip
begins takes its blocks into its buffer. -/
def stageA (x : TaskCtx) (n : Nat) (r : Run) (s : State) : Run × State :=
  let ts := aTrips x n
  let idx := (readIdx x r s).1
  let (r, s) := match ts.getLast? with
    | none => (r, s)
    | some o =>
      if r.trips.contains o then (r, s)
      else (tripBlocks x idx o.1 n).foldl (fun (a : Run × State) d =>
        if a.1.buf.any (fun y => y.1 == d / 256) then a
        else
          let (b, s) := fetchA x a.1 d a.2
          ({ a.1 with buf := a.1.buf ++ [(d / 256, b)] }, s)) (r, s)
  let s := (ts.filter (fun t => !r.trips.contains t)).foldl (fun s t =>
    (tripBlocks x idx t.1 n).foldl (fun s d => placeBlk x false idx t.1 n d (blockIn r.buf d) s) s) s
  ({ r with trips := ts }, s)

/-! ## Remote blocks (R223, R329) -/

/-- The blocks that the start of the task reads: headers, weight scales. -/
def setupBlocks (x : TaskCtx) : List Nat :=
  let f := x.t.fr
  (if f.aHdr = 0 then [] else blocksAt f.aHdr 32) ++ (if f.oHdr = 0 then [] else blocksAt f.oHdr 32) ++
  (if f.wScale = 0 then []
   else if f.t0 = 0x34 ∨ f.t1 = 0x34 then blocksAt f.wScale 32
   else blocksAt f.wScale (if f.wFlags % 2 = 1 then 4 * x.bn else 4))

def isPeerAt (x : TaskCtx) (s : State) (dva : Nat) : Bool :=
  match s.locate x.fn x.part dva with
  | .peer _ _ => true
  | _ => false

/-! ## The start of a task (R133, R140, R147, R516) -/

/-- A Tensor Header's scale and coefficients; poisoned where it cannot be read. -/
def readHdr (x : TaskCtx) (r : Run) (va : Nat) (s : State) : (PVal × Nat) × State :=
  let (bs, p, s) := fetchDesc x r va 32 s
  (({ val := BitVec.ofNat 32 (fieldLE bs 0 4), poison := p }, fieldLE bs 0x10 8), s)

/-- The weight scales: one, or one for each channel within the bound; 1.0 without an address. -/
def readScales (x : TaskCtx) (r : Run) (s : State) : List PVal × State :=
  let f := x.t.fr
  if !x.t.isCount || f.wScale = 0 then ([{ val := 0x3F800000, poison := false }], s)
  else
    let n := if f.wFlags % 2 = 1 then x.bn else 1
    let (bs, s) := fetchBlks x r (blocksAt f.wScale (4 * n)) s
    ((List.range n).map (fun i =>
      let a := f.wScale + 4 * i
      let b := blockIn bs a
      { val := BitVec.ofNat 32 (fieldLE (blockBytes b.data) (a % 256) 4), poison := b.poison }), s)

def posFinite (w : Word) : Bool := fvFinite (fval w) && decide (0 < fvRat (fval w))

/-- The Scale Record at the start of a task: σ, whether SCALE_NEXT was unusable, ADAPTED, STEP. -/
def readRecord (x : TaskCtx) (r : Run) (s : State) : Run × State :=
  if !x.t.scaled then (r, s)
  else
    let (bs, p, s) := readBytes x.fn x.part (some x.core) x.t.fr.srec 128 s
    let v : Word := BitVec.ofNat 32 (fieldLE bs 0 4)
    let bad := x.t.history && !posFinite v
    let sg : Word := if x.t.prepass || bad then 0x3F800000 else v
    ({ r with sigma := { val := sg, poison := p }, badScale := bad, adapted := bitOf (fieldLE bs 0x0A 1) 0,
              srStep := fieldLE bs 4 4 }, s)

/-- The code-product tables (R147). -/
def fillTables (x : TaskCtx) (r : Run) (s : State) : Run × State :=
  let f := x.t.fr
  if f.t0 = 0 ∧ f.t1 = 0 then (r, s)
  else
    let mul (j : Nat) (s : State) : Word × Bool × State :=
      let (b, p, s) := fetchDesc x r (f.recVa + 0x38 + 4 * j) 4 s
      (BitVec.ofNat 32 (ofLE b), p, s)
    let (m0, p0, s) := if f.t0 = 0 then ((0 : Word), false, s) else mul 0 s
    let (m1, p1, s) := if f.t1 = 0 then ((0 : Word), false, s) else mul 1 s
    let bg := f.t0 == 0x34 || f.t1 == 0x34
    let ((sg, coef), s) := if bg then readHdr x r f.wScale s else (({ val := 0x3F800000, poison := false }, 0), s)
    let bad (fmt : Nat) : Bool := fmt == 0x34 && (sg.poison || !bgOk 0x34 coef)
    let tab (fmt : Nat) (mu : Word) : List Word := if fmt = 0 then [] else (List.range 16).map (tableEntry fmt coef sg.val mu)
    ({ r with t0 := tab f.t0 m0, t1 := tab f.t1 m1, t0Bad := p0 || bad f.t0, t1Bad := p1 || bad f.t1 }, s)

/-- The pages that the task counts, with whether the plan counts them sparse (R169). -/
def countedPages (x : TaskCtx) (s : State) : List (Nat × Bool) :=
  (taskFrames s x.fn x.core x.t x.trips).map (fun lf => (lf, (x.plan.frames.find? (fun y => y.1 == lf)).any (fun y => y.2.2.1)))

/-- Take the scales, the record, the output coefficients, the tables and the core's extent. A BG source of a COPY without a header has
coefficients 0, which are no legal ones: its elements are poisoned (DEDUCED, log entry 102). -/
def setupRun (x : TaskCtx) (r : Run) (s : State) : Run × State :=
  let f := x.t.fr
  let ((sa, ac), s) := if f.aHdr = 0 then (({ val := (0x3F800000 : Word), poison := false }, 0), s) else readHdr x r f.aHdr s
  let (sw, s) := readScales x r s
  let (r, s) := readRecord x { r with sa := sa, sCoef := ac, sw := sw } s
  let ((_, oc), s) := if f.oHdr = 0 then (({ val := (0 : Word), poison := false }, 0), s) else readHdr x r f.oHdr s
  let r := { r with coef := oc, coefBad := isBg x.t.oFmt && !bgOk x.t.oFmt oc }
  let (r, s) := fillTables x r s
  let pages := if x.t.isCount then countedPages x s else []
  let ext (p : Nat × Bool) : Nat := if p.2 then (match s.frame? x.fn p.1 with | some f => 8 * f.rowsHdr | none => 64) else 64
  ({ r with setup := true, rc := pages.foldl (fun m p => max m (ext p)) 0, sparse := pages.any (·.2) }, s)

/-! ## Activations of a token (R88-R93, R126) -/

/-- The integers of one group, from its codes; how many were clipped (R88). -/
def mkInput (t : Task) (bk : Nat) (key : Nat × Int × Nat) (row : List Nat × Nat × Bool) : SegIn × Nat :=
  let sl := key.2.2
  let n := min 64 (bk - 64 * key.1)
  let cs := row.1.take n
  let pad (l : List Int) : List Int := l ++ List.replicate (64 - n) 0
  let base : SegIn := { kg := key.1, qA := key.2.1, slices := sl, qs := List.replicate 64 0, valid := n, shift := 0,
                        nonfin := false, poison := row.2.2 }
  let f := t.fr.aFmt
  if isBlock f then
    if row.2.1 = 0xFF then ({ base with nonfin := true }, 0)
    else
      let ms := cs.map (sintOf 8)
      let tt : Int := (row.2.1 : Int) - 127
      if 8 ≤ sl then ({ base with qs := pad ms, shift := tt }, 0)
      else ({ base with qs := pad (ms.map (fun (m : Int) => clampSym sl (rne ((m : Rat) * pow2 ((sl : Int) - 8))))), shift := tt + 8 - sl }, 0)
  else if isFloat f then
    let g := alignGroup sl (cs.map (floatOf f))
    ({ base with qs := pad g.1, shift := g.2.1, nonfin := g.2.2 }, 0)
  else
    let qs := cs.map (fun c => saturate (isUint f) sl (intOf f c))
    ({ base with qs := pad (qs.map (·.1)), valid := n }, (qs.filter (·.2)).length)

/-- The slices of a W granule's segment position. -/
def slicesAt (t : Task) (p : Pt) : Nat := slicesOf t.slicePlan (wNum t p % 16)

def inputKeys (x : TaskCtx) (pts : List Pt) : List (Nat × Int × Nat) :=
  (pts.map (fun p => (p.kg, p.qA, slicesAt x.t p))).eraseDups

/-- Read the inputs of token `m` of a step; saturated elements count in SLICER_CLIPS. -/
def readInputs (x : TaskCtx) (r : Run) (pts : List Pt) (m : Nat) (s : State) : List ((Nat × Int × Nat) × SegIn) × State :=
  let c := fmtBits x.t.fr.aFmt
  let ins := (inputKeys x pts).map (fun k =>
    let va := aAddr x.t k.2.1 + 8 * c * m
    (k, mkInput x.t x.bk k ((blockIn r.inp va).row va c)))
  let v := satField (tgetD s.reg.convStat x.core 0) 63 48 ((ins.map (·.2.2)).sum)
  (ins.map (fun i => (i.1, i.2.1)), { s with reg := { s.reg with convStat := tput s.reg.convStat x.core v } })

/-! ## The macros of a token -/

/-- The macro and layout behind a frame the task counts: the layout of the plan, else the one the frame has. -/
def countMac (x : TaskCtx) (lf : Nat) (s : State) : Option (Frame × Nat × Bool) :=
  match s.frame? x.fn lf with
  | none => none
  | some f =>
    if f.core ≠ x.core then none
    else
      let sp := (x.plan.frames.find? (fun y => y.1 == lf)).any (fun y => y.2.2.1)
      match f.macFor sp with
      | some m => some (f, m, sp)
      | none => f.mac.map (fun m => (f, m, f.sparse))

/-- Two parts of one macro that cannot share a count: one segment (normal) or one lane (transposed) fed by two inputs. -/
def clash (tr : Bool) (a b : LanePart) : Bool :=
  a.inp != b.inp && (if tr then decide (a.lane < b.lane + b.n) && decide (b.lane < a.lane + a.n) else a.seg == b.seg)

/-- The index of an input in a job, its length where the job has it not yet. -/
def inputIdx (j : Job) (i : SegIn) : Nat := (j.inputs.findIdx? (· == i)).getD j.inputs.length

/-- Add a part to the first job of the macro that can take it, else to a further round. -/
def addPart (tr : Bool) (jobs : List Job) (frame mac : Nat) (sparse : Bool) (i : SegIn) (p : LanePart) : List Job :=
  let fits (j : Job) : Bool := j.frame == frame && j.parts.all (fun q => !clash tr q { p with inp := inputIdx j i })
  match jobs.findIdx? fits with
  | some k => jobs.mapIdx (fun n j => if n = k then
      { j with inputs := if j.inputs.contains i then j.inputs else j.inputs ++ [i],
               parts := j.parts ++ [{ p with inp := inputIdx j i }] } else j)
  | none => jobs ++ [{ frame := frame, mac := mac, sparse := sparse, round := (jobs.filter (fun j => j.frame = frame)).length,
                       inputs := [i], parts := [{ p with inp := 0 }], next := 0, acc := [], failed := [],
                       bad := [], badLane := [] }]

/-- Segment (normal) or row (transposed) marks that poison a job from its start: a LOST frame, suspect pairs (R517), and
in transposed mode poisoned rows; position slots that are malformed or hold an uncorrectable word (0x0304, R156). -/
def initJob (x : TaskCtx) (s : State) (j : Job) : Job × State :=
  let m := s.macAt (s.physMac x.core j.mac)
  let lost := (s.frame? x.fn j.frame).any (fun f => f.state == .lost)
  if x.t.transposed then
    let hit (g : Nat) : Bool := j.parts.any (fun p => p.seg == g && m.suspect.any (fun q =>
      q.1 == g && decide (p.lane ≤ q.2) && decide (q.2 < p.lane + p.n)))
    ({ j with bad := (List.range 1024).filter (fun r => lost || m.poisonRow.contains r || hit (r / 64)) }, s)
  else
    let slots := j.parts.flatMap (fun p => (List.range p.n).map (fun i => (p.seg, p.lane + i)))
    -- single-bit errors are corrected in the read data; the other slots give no positions (R156)
    let fixed := if j.sparse then ((slots.eraseDups).map (fun q => (slotWords m.posOne q.1 q.2).length)).sum else 0
    let torn := if j.sparse then slots.filter (fun q => slotWords m.posTwo q.1 q.2 != [] || (decodePos (posSlot m q.1 q.2) 64).isNone) else []
    let s := { s with mnt := { s.mnt with posFixed := s.mnt.posFixed + fixed } }
    let s := if torn = [] then s else raiseMem 0x0304 x.fn (dieOfCore x.core) (some x.core) none 0 s
    ({ j with bad := if lost then List.range 16 else [], badLane := m.suspect ++ torn }, s)

/-- The jobs of token `m` of a step; whether a frame the step names is missing. -/
def buildJobs (x : TaskCtx) (r : Run) (pts : List Pt) (m : Nat) (s : State) : List Job × Bool × State :=
  let (ins, s) := readInputs x r pts m s
  let q := pts.foldl (fun (a : List Job × Bool) p =>
    match ins.find? (fun i => i.1 == (p.kg, p.qA, slicesAt x.t p)) with
    | none => a
    | some i =>
      let w := wNum x.t p
      (wParts x.t.planesW w).foldl (fun (a : List Job × Bool) y =>
        match countMac x y.1 s with
        | none => (a.1, true)
        | some (_, mac, sp) =>
          (addPart x.t.transposed a.1 y.1 mac sp i.2
            { seg := x.t.bandSeg + w % 16, inp := 0, ng := p.ng, qO := p.qO, lane := y.2.1, chan := y.2.2.1, n := y.2.2.2 }, a.2)) a)
    (([] : List Job), false)
  let z := q.1.foldl (fun (a : List Job × State) j => let (j, s) := initJob x a.2 j; (a.1 ++ [j], s)) ([], s)
  (z.1, q.2, z.2)

end Sys2Proof.Machine
end

