-- ==== Sys2Proof/Machine/Egress.lean ====
section
/-!
DEFINITION. What a task writes: fused egress (R112, R113), conversion and block encoding (R125, R128, R134, R135), merging
(R230), the Compressor (R179-R183), output blocks with their check words, remote writes (R329, R330), accumulator tiles as
operands of COPY tasks (R107), and COPY tasks.
-/

namespace Sys2Proof.Machine

open Sys2Proof

/-! ## The Compressor (R179, R180) -/

/-- A block as the SE makes it: check word, compression, the clean-zero mark that HBM keeps (Table 5-6). -/
def seBlock (c : Nat) (d : BlockData) (poison blk : Bool) (exps : List Byte) : Block :=
  let map := compMapOf c d
  { data := d, check := crc32c (blockBytes d), comp := true, compMap := BitVec.ofNat 64 map, poison := poison,
    cz := map == 0 && !poison && !blk, blk := blk, exps := if blk then exps else [0, 0, 0, 0] }

/-- SE_COMP_STAT counts the blocks examined and dropped (R183). -/
def countComp (core c : Nat) (d : BlockData) (s : State) : State :=
  let n := 64 / c
  let dropped := n - ((List.range n).filter (fun b => bitOf (compMapOf c d) b)).length
  let v := satField (satField (tgetD s.reg.compStat core 0) 63 32 n) 31 0 dropped
  { s with reg := { s.reg with compStat := tput s.reg.compStat core v } }

/-! ## Requests on the links (R329, R330) -/

/-- CW of a container width (Table 11-5). -/
def cwOf (c : Nat) : Nat := c.log2

/-- Send a request for one block of a peer, or with one block to it: the tag it waits for, `none` without a route. -/
def request (x : TaskCtx) (wr : Bool) (n dva m off c : Nat) (b : Block) (s : State) : Option Nat × State :=
  let tag := s.net.nextTag
  let blocks := if wr then [blockSeg (cwOf c) b] else []
  let r : LinkRecord :=
    { header := mkHeader (if wr then 1 else 2) 0 s.moduleNo m (s.pid x.part % 4096) x.fn 0 1 (cwOf c) off tag, blocks := blocks }
  match s.routeOf r with
  | none => (none, raiseRoute none (if wr then 1 else 2) 2 m s)
  | some l =>
    let w : Remote := { tag := tag, core := x.core, fn := x.fn, dst := dva, write := wr, sentAt := s.tick.st, dest := m, elems := 2048 / c,
                        step := n, link := l }
    (some tag, sendOn l r { s with net := { s.net with remote := s.net.remote ++ [w], nextTag := (tag + 1) % 2 ^ 16 } })

/-- Ask for the remote blocks of a list; a block without a route is zeros, poisoned. -/
def askBlocks (x : TaskCtx) (r : Run) (ds : List Nat) (s : State) : Run × State :=
  ds.foldl (fun (a : Run × State) d =>
    match a.2.locate x.fn x.part d with
    | .peer m off =>
      (match request x false 0 d m off (fmtBits x.t.fr.aFmt) Block.zero a.2 with
       | (some t, s) => ({ a.1 with remote := a.1.remote ++ [t] }, s)
       | (none, s) => ({ a.1 with buf := (d / 256, Block.zeroPoison) :: a.1.buf }, s))
    | _ => a) (r, s)

/-! ## Output blocks -/

/-- Put a block of a step into the execution's store; it becomes visible at the commit (R261). A remote block is sent at once and the
task waits for its acknowledgement; where it has no route the write has failed. A step with a failed write gives poison (R330). -/
def putBlk (x : TaskCtx) (c n dva : Nat) (b : Block) (r : Run) (s : State) : Run × State :=
  let (v, s) := resultBits 32 b.data.toNat s
  let b := if s.life.timingUndefined then Block.ofData (BitVec.ofNat 2048 v) else b
  let bad := r.failed.contains n && !b.poison
  let (b, r) := if bad then ({ b with poison := true }, { r with poisonedN := r.poisonedN + 2048 / c }) else (b, r)
  match s.locate x.fn x.part dva with
  | .peer m off =>
    (match request x true n dva m off c b s with
     | (some t, s) => ({ r with remote := r.remote ++ [t] }, s)
     | (none, s) =>
       let (r, k) := (s.core x.core).failStep n (2048 / c) r
       (r, s.setCore x.core k))
  | l =>
    if !l.writable then (r, outOfWindow x.fn (some x.core) dva s)
    else
      let k := s.core x.core
      let rest := k.staged.filter (fun y => !(y.1 == x.id && y.2.1 == dva / 256))
      ({ r with outs := r.outs ++ [(n, dva / 256, 2048 / c)] }, s.setCore x.core { k with staged := rest ++ [(x.id, dva / 256, b)] })

/-- Write an O block: one of a staged operand collects in the trip's buffer, written back after the trip (R223). -/
def putOut (x : TaskCtx) (c dva : Nat) (b : Block) (r : Run) (s : State) : Run × State :=
  if x.t.oStaged then
    let idx := (readIdx x r s).1
    let s := match (List.range 6).find? (stagingAt x.t.loops (levelOf x.t.oVa)) with
      | some l => placeBlk x true idx l r.step dva b s
      | none => s
    ({ r with obuf := r.obuf.filter (fun y => y.1 != dva / 256) ++ [(dva / 256, b)], oStep := r.step }, s)
  else putBlk x c r.step dva b r s

/-- After the trip its O blocks go back to the outer level, through the buffers of the outer staging levels (R223). -/
def endTrip (x : TaskCtx) (r : Run) (s : State) : Run × State :=
  let idx := (readIdx x r s).1
  let outer := ((List.range 6).filter (stagingAt x.t.loops (levelOf x.t.oVa))).drop 1
  r.obuf.foldl (fun (a : Run × State) y =>
    putBlk x (fmtBits x.t.oFmt) r.oStep (256 * y.1) y.2 a.1 (outer.foldl (fun s l => placeBlk x true idx l r.oStep (256 * y.1) y.2 s) a.2))
    ({ r with obuf := [] }, s)

/-- O blocks wait for their write-back: the next step lies in another trip, or there is none. -/
def oDue (x : TaskCtx) (r : Run) : Bool :=
  r.obuf != [] && (match nextLive x r.step with
    | some n => oTrip x n != oTrip x r.oStep
    | none => true)

/-- Replace bytes of a structure within one block. -/
def putBytes (x : TaskCtx) (va : Nat) (bs : List Byte) (r : Run) (s : State) : Run × State :=
  let (b, s) := fetchBlk x r (va / 256 * 256) s
  putBlk x 8 r.step (va / 256 * 256) (b.patch (va % 256) bs) r s

/-! ## Accumulator tiles (R104, R107, R302) -/

/-- The partition that holds the task's core. -/
def TaskCtx.home (x : TaskCtx) (s : State) : Nat := (s.partOfCluster (clusterOfCore x.core)).getD x.part
def TaskCtx.tile (x : TaskCtx) (s : State) (n : Nat) : Nat := s.tileBase (x.home s) x.fn + n
def TaskCtx.accm (x : TaskCtx) (s : State) (row : Nat) : Nat := s.accmBase (x.home s) x.fn + row
def TaskCtx.tileCount (x : TaskCtx) (s : State) : Nat := tilesOf (s.fnPartEff x.fn (x.home s))

/-- The tile of a level-0 operand at a granule number, where the function's allotment has it. -/
def TaskCtx.tileAt (x : TaskCtx) (s : State) (va : Nat) (q : Int) : Option Nat :=
  let n : Int := (tileOf va : Int) + q
  if 0 ≤ n ∧ n < x.tileCount s then some (x.tile s n.toNat) else none

def accAt (k : Core) (tile m n : Nat) : PVal := tgetD k.acc (accKey tile m n) pzero
def accmAt (k : Core) (row n : Nat) : PVal := tgetD k.accm (accmKey row n) pzero

/-- A folded element as the accumulator keeps it: 0x7FC0_0000 where it is poisoned (R110). -/
def sealed (v : PVal) : PVal := if v.poison then { v with val := fp32Nan } else v

/-- A tile takes written values: every stack of it is empty and its push counter 0 (R107). -/
def putTile (core tile : Nat) (es : List (Nat × Nat × PVal)) (s : State) : State :=
  let k := emptyStacks tile (s.core core)
  s.setCore core { k with acc := es.foldl (fun a e => tputD pzero a (accKey tile e.1 e.2.1) (sealed e.2.2)) k.acc }

/-! ## Egress (R113) -/

/-- Bytes of an element of an egress operand tile (FP32 or BF16), and its address. -/
def opndW (x : TaskCtx) : Nat := if x.t.opndBf16 then 2 else 4
def opndAddr (x : TaskCtx) (va : Nat) (gi : Int) : Nat := addr64 ((va : Int) + opndW x * gi)

/-- The egress operand blocks of elements, each read once. -/
def readOpnds (x : TaskCtx) (r : Run) (es : List (Int × PVal)) (s : State) : List (Nat × Block) × State :=
  let ds (en : Bool) (va : Nat) : List Nat := if en then es.map (fun e => opndAddr x va e.1 / 256 * 256) else []
  fetchBlks x r ((ds x.t.addEn x.t.addVa ++ ds x.t.mulEn x.t.mulVa).eraseDups) s

/-- An operand element, poisoned where its block is. -/
def opndAt (x : TaskCtx) (bs : List (Nat × Block)) (va : Nat) (gi : Int) : PVal :=
  let a := opndAddr x va gi
  let b := blockIn bs a
  let v := fieldLE (blockBytes b.data) (a % 256) (opndW x)
  { val := BitVec.ofNat 32 (if x.t.opndBf16 then v * 65536 else v), poison := b.poison }

/-- The operations before requantisation on one element; `gi` is the element's index from the operand bases. -/
def egressElem (x : TaskCtx) (bs : List (Nat × Block)) (gi : Int) (y : PVal) : PVal :=
  let t := x.t
  let ea := if t.addEn then opndAt x bs t.addVa gi else pzero
  let em := if t.mulEn then opndAt x bs t.mulVa gi else pzero
  let add (v : Word) : Word := if t.addEn then fadd32 v ea.val else v
  let mul (v : Word) : Word := if t.mulEn then fmul32 v em.val else v
  let v := if t.mulFirst then add (mul y.val) else mul (add y.val)
  let v := if t.rescaleEn then fmul32 v t.rescale else v
  { val := v, poison := y.poison || ea.poison || em.poison }

/-! ## Conversion (R134, R135, R130) -/

/-- The container of one element: its code, clipped, nonfinite. -/
def convOut (x : TaskCtx) (r : Run) (rho : Word) (v : PVal) : Nat × Bool × Bool :=
  let f := x.t.oFmt
  if f = 0x01 then ((if v.poison || fval v.val == .nan then fp32Nan else v.val).toNat, false, false)
  else if v.poison then
    ((if r.coefBad then 0 else (convertElem f x.t.fr.oZp r.coef rho fp32Nan).1), false, false)
  else convertElem f x.t.fr.oZp r.coef rho v.val

/-- Elements of a data block by their place in it, `none` where the block keeps its old element; the later entry of the list
stands. -/
def blockElems (epb : Nat) (k : Int) (es : List (Int × PVal)) : List (Option PVal) :=
  (List.range epb).map (fun i => (es.reverse.find? (fun e => e.1 == k * epb + i)).map (·.2))

/-- The address of data block `k` of the O operand. -/
def oBlkAddr (x : TaskCtx) (k : Int) : Nat := addr64 ((x.t.oVa : Int) + 256 * k)

/-- Statistics of the elements written: counted, clipped, nonfinite, poisoned, amax (R135). -/
def noteConv (x : TaskCtx) (counted clipped nonfin poisoned : Nat) (amax : Word) (r : Run) (s : State) : Run × State :=
  let v := satField (satField (tgetD s.reg.convStat x.core 0) 31 0 clipped) 47 32 nonfin
  ({ r with counted := r.counted + counted, clipped := r.clipped + clipped, nonfin := r.nonfin + nonfin,
            poisonedN := r.poisonedN + poisoned, amax := if fvRat (fval r.amax) < fvRat (fval amax) then amax else r.amax },
   { s with reg := { s.reg with convStat := tput s.reg.convStat x.core v } })

/-- The largest magnitude of the counted finite elements. -/
def amaxOf (vs : List PVal) : Word :=
  vs.foldl (fun (m : Word) v => if !v.poison && fvFinite (fval v.val) then fmaxAbs m (fvRat (fval v.val)) else m) 0

/-- Containers of c bits packed into a block. -/
def packCodes (c : Nat) (cs : List Nat) : BlockData :=
  BitVec.ofNat 2048 (cs.foldr (fun v a => v % 2 ^ c + a * 2 ^ c) 0)

/-- Write one data block of an element format: convert, merge, compress. -/
def writeElemBlk (x : TaskCtx) (rho : Word) (k : Int) (es : List (Int × PVal)) (r : Run) (s : State) : Run × State :=
  let c := fmtBits x.t.oFmt
  let epb := 2048 / c
  let dva := oBlkAddr x k
  let elems := blockElems epb k es
  let whole := elems.all Option.isSome
  let (old, s) := if whole then (Block.zero, s) else fetchBlk x r dva s
  let outs := elems.map (fun o => o.map (fun v => (v, convOut x r rho v)))
  let codes := outs.mapIdx (fun i o => match o with
    | some q => q.2.1
    | none => old.data.toNat >>> (c * i) % 2 ^ c)
  let vs := outs.filterMap id
  let good := vs.filter (fun q => !q.1.poison)
  let d := packCodes c codes
  let b := seBlock c d ((!whole && old.poison) || vs.any (fun q => q.1.poison)) false []
  let (r, s) := noteConv x good.length (good.filter (fun q => q.2.2.1)).length (good.filter (fun q => q.2.2.2)).length
    (vs.length - good.length) (amaxOf (vs.map (·.1))) r s
  putOut x c dva b r (countComp x.core c d s)

/-- Encode the four 64-element blocks of a data block of a block format; untouched blocks stay (R125, R128, R230). -/
def encodeBlocks (f : Nat) (old : Block) (elems : List (Option PVal)) : List (List Nat × Nat × Nat) :=
  (List.range 4).map (fun q =>
    let es := (elems.drop (64 * q)).take 64
    -- a clean-zero block reads as zeros, any other with BLK = 0 as non-finite (R230, R282)
    let x0 := if old.blk then (old.exps.getD q 0xFF).toNat else if old.cz then 0 else 0xFF
    let code (i : Nat) : Nat := old.data.toNat >>> (8 * (64 * q + i)) % 256
    if es.all Option.isNone then ((List.range 64).map code, x0, 0)
    else
      let ys := es.mapIdx (fun i e => match e with
        | some v => if v.poison then none else some v.val
        | none => some (blockElem f x0 (code i)))
      if f = 0x40 then
        let e := encodeBfg8 ys
        (e.1, e.2, 0)
      else
        let e := encodeMc (f == 0x42) ys
        -- only the written elements count (R230)
        let mcu := f == 0x42
        let clips := (es.filter (fun o => match o with
          | some v => !v.poison && e.2.1 != 0xFF && e.2.1 != 0 && (encodeMcCode mcu e.2.1 v.val).2
          | none => false)).length
        (e.1, e.2.1, clips))

/-- Write one data block of a block format. -/
def writeBlockBlk (x : TaskCtx) (k : Int) (es : List (Int × PVal)) (r : Run) (s : State) : Run × State :=
  let dva := oBlkAddr x k
  let elems := blockElems 256 k es
  let whole := elems.all Option.isSome
  let (old, s) := if whole then (Block.zero, s) else fetchBlk x r dva s
  let q := encodeBlocks x.t.oFmt old elems
  let vs := elems.filterMap id
  let good := vs.filter (fun v => !v.poison)
  let d := packCodes 8 (q.flatMap (·.1))
  let b := seBlock 8 d ((!whole && old.poison) || vs.any (·.poison)) true (q.map (fun y => BitVec.ofNat 8 y.2.1))
  let (r, s) := noteConv x good.length (q.map (·.2.2)).sum (good.filter (fun v => !fvFinite (fval v.val))).length
    (vs.length - good.length) (amaxOf vs) r s
  putOut x 8 dva b r (countComp x.core 8 d s)

/-- Write output elements, given by their index from the O base, with the scale σ. A tile takes element i of granule q as its
element i (R107); a block or a tile that an index puts outside the operand's window is not written (R224). -/
def writeOut (x : TaskCtx) (es : List (Int × PVal)) (r : Run) (s : State) : Run × State :=
  let es := es.map (fun e => (e.1, { e.2 with poison := e.2.poison || r.coefBad || (x.t.scaled && r.sigma.poison) }))
  if levelOf x.t.oVa = 0 then
    let s := ((es.map (fun e => e.1 / 512)).eraseDups).foldl (fun s q =>
      match x.tileAt s x.t.oVa q with
      | none => outOfWindow x.fn (some x.core) x.t.oVa s
      | some tile => putTile x.core tile ((es.filter (fun e => e.1 / 512 == q)).map (fun e =>
          let i := (e.1 % 512).toNat
          (i / 64, i % 64, e.2))) s) s
    ({ r with poisonedN := r.poisonedN + (es.filter (fun e => e.2.poison)).length }, s)
  else
    let epb := 2048 / fmtBits x.t.oFmt
    let rho := seRecip r.sigma.val
    ((es.map (fun e => e.1 / (epb : Int))).eraseDups).foldl (fun (a : Run × State) k =>
      let mine := es.filter (fun e => e.1 / (epb : Int) == k)
      if !x.inOperand x.t.oVa (oBlkAddr x k) a.2 then (a.1, outOfWindow x.fn (some x.core) (oBlkAddr x k) a.2)
      else if isBlock x.t.oFmt then writeBlockBlk x k mine a.1 a.2 else writeElemBlk x rho k mine a.1 a.2) (r, s)

/-- Put a value into the PREPASS staging area, at its place in pass-1 order (R143). -/
def stageVal (l : List (Int × PVal)) (e : Int × PVal) : List (Int × PVal) :=
  if l.any (fun y => y.1 == e.1) then l.map (fun y => if y.1 = e.1 then e else y) else l ++ [e]

/-- The PREPASS staging area in the AS behind the staging buffers: the staged values as FP32, in blocks with check words (R143,
R281). -/
def placePrepass (x : TaskCtx) (old l : List (Int × PVal)) (s : State) : State :=
  let start := x.t.staging x.trips 1
  ((List.range (ceilDiv l.length 64)).filter (fun i => (old.drop (64 * i)).take 64 != (l.drop (64 * i)).take 64)).foldl (fun s i =>
    let vs := ((l.drop (64 * i)).take 64).map (·.2)
    let b := Block.ofData (blockOfBytes (vs.flatMap (fun v => leB v.val.toNat 4)))
    writeScratch x 1 (start + 256 * i) { b with poison := vs.any (·.poison) } s) s

/-- An output leaves the SE: at once, or into the PREPASS staging area as FP32 (R143). -/
def emit (x : TaskCtx) (es : List (Int × PVal)) (r : Run) (s : State) : Run × State :=
  let (bs, s) := readOpnds x r es (noteWork 5 (dieOfCore x.core) x.fn es.length s)
  let es := es.map (fun e => (e.1, egressElem x bs e.1 e.2))
  if x.t.prepass then
    let l := es.foldl stageVal r.prepass
    ({ r with prepass := l }, placePrepass x r.prepass l s)
  else writeOut x es r s

/-- clampσ of R138. -/
def clampSigma (w : Word) : Word :=
  match fval w with
  | .fin _ m => if m < pow2 (-126) then 0x00800000 else if pow2 126 < m then 0x7E800000 else w
  | _ => 0x7E800000

/-- Pass 2 of PREPASS: σ from the largest magnitude, then the conversion in pass-1 order (R143). Where amax / qmax exceeds 2^126,
clampσ limits σ and the conversion clips, which R144 does not foresee (DEDUCED, log entry 99). -/
def prepassOut (x : TaskCtx) (r : Run) (s : State) : Run × State :=
  let vs := r.prepass.map (·.2)
  let am := amaxOf (vs.filter (fun v => !(v.poison || r.coefBad || r.sigma.poison)))
  let q := fvRat (fval am) / qmax x.t.oFmt x.t.fr.oZp r.coef
  let sg : Word := if am = 0 ∨ r.coefBad then 0x3F800000 else clampSigma (round32 q)
  let (r, s) := writeOut x r.prepass { r with sigma := { r.sigma with val := sg } } s
  endTrip x { r with prepass := [] } s

/-! ## COPY tasks (R107, log entry 17) -/

/-- The value of a COPY source element with container `code` under exponent byte `e`: through its code-product table where the task
has one for the format, else the value of the code times the tensor's scale (R119, R133, R149). -/
def copyValue (x : TaskCtx) (r : Run) (e code : Nat) (poison : Bool) : PVal :=
  let f := x.t.fr.aFmt
  let fr := x.t.fr
  if f != 0 && (fr.t0 == f || fr.t1 == f) then
    let bad := if fr.t0 = f then r.t0Bad else r.t1Bad
    { val := if bad then fp32Nan else tableLookup (if fr.t0 = f then r.t0 else r.t1) f code e, poison := poison || bad }
  else if isBlock f then { val := blockElem f e code, poison := poison }
  else
    let bad := isBg f && !bgOk f r.sCoef
    let v : Rat := if isBg f then bgValue (fmtW f) r.sCoef code else ((intOf f code - x.t.fr.aZp : Int) : Rat)
    let y : Word :=
      if bad then fp32Nan
      else if isFloat f || f = 0x01 then
        (match floatOf f code with
         | .fin n m => if fvFinite (fval r.sa.val) then
             (if m = 0 then fp32Zero (xor n (bitOf r.sa.val.toNat 31))
              else round32 (fvRat (.fin n m) * fvRat (fval r.sa.val))) else fmul32 (round32s n m) r.sa.val
         | .inf n => fmul32 (fp32Inf n) r.sa.val
         | .nan => fp32Nan)
      else if fvFinite (fval r.sa.val) then round32 (v * fvRat (fval r.sa.val))
      else fmul32 (round32 v) r.sa.val
    { val := y, poison := poison || r.sa.poison || bad }

/-- A row of a COPY source as values: of a tile the folded values (R107), of memory the values of its codes. -/
def copyRow (x : TaskCtx) (r : Run) (p : Pt) (m : Nat) (s : State) : List PVal :=
  if levelOf x.t.aVa = 0 then
    match x.tileAt s x.t.aVa p.qA with
    | none => List.replicate 64 { val := 0, poison := true }
    | some tile => (List.range 64).map (fun n => sealed (accAt (s.core x.core) tile m n))
  else
    let c := fmtBits x.t.fr.aFmt
    let va := aAddr x.t p.qA + 8 * c * m
    let row := (blockIn r.inp va).row va c
    row.1.map (fun v => copyValue x r row.2.1 v row.2.2)

/-- One step of a COPY task. -/
def copyStep (x : TaskCtx) (pts : List Pt) (r : Run) (s : State) : Run × State :=
  let es := (pts.filter (liveAt x)).flatMap (fun p =>
    (List.range (x.toks p.mg)).flatMap (fun (m : Nat) =>
      ((copyRow x r p m s).take (x.cols p)).zipIdx.map (fun v =>
        (p.qO * 512 + ((64 * m + v.2 : Nat) : Int), { v.1 with poison := v.1.poison || r.badStep }))))
  emit x es r s

end Sys2Proof.Machine
end

