-- ==== Sys2Proof/Machine/Count.lean ====
section
/-!
DEFINITION. Counts (chapters 2, 3, 5, 6): row grouping (R61-R63, R169, R170), the live check with its retry (R67-R69), the guard
monitor (R72), slice counters, recombination (R95-R97), the pairwise stack, fold and ACCM (R100-R106, R114, R115), transposed
counts (R195-R200), and the progress of a task from step to step.
-/

namespace Sys2Proof.Machine

open Sys2Proof

/-! ## Requests to the Maintenance Arbiter (R71, R72, R398) -/

/-- Queue a maintenance request, once for an activity on a macro. -/
def queueMnt (a : Activity) (pm : Nat) (guard : Bool) (s : State) : State :=
  if s.mnt.queue.any (fun r => r.act == a && r.mac == pm) then
    { s with mnt := { s.mnt with queue := s.mnt.queue.map (fun r =>
        if r.act = a ∧ r.mac = pm then { r with guard := r.guard || guard } else r) } }
  else
    let r : MntReq := { act := a, die := dieOfPhysMac pm, core := pm / 66, mac := pm, guard := guard, at_ := s.tick.st }
    { s with mnt := { s.mnt with queue := s.mnt.queue ++ [r] } }

def requestRecal (pm : Nat) (guard : Bool) (s : State) : State := queueMnt .cal pm guard s

/-- A flag queues an evacuation, with AUTO_REPAIR (R71, Table 13-16). -/
def requestDiag (pm : Nat) (s : State) : State := if odNat s 0x7100 0x05 1 = 1 then queueMnt .rep pm false s else s

/-! ## Event records of a macro (R80, Table 16-14) -/

/-- A record of a macro, for the function whose work the core does. -/
def macEvent (x : Option TaskCtx) (code core lm : Nat) (seg : Option Nat) (info : Nat) (s : State) : State :=
  raise { EventRec.mk' code with
    part := s.partOfCluster (clusterOfCore core), fn := x.map (·.fn), task := x.map (·.i), seg := seg,
    tick := (s.partOfCluster (clusterOfCore core)).map (fun p => (s.part p).tick), unit := some (macNo core lm),
    info := some info } s

/-! ## The guard monitor (R72) -/

def guardWindow : Nat := 512
def retryWindow : Nat := 65536

def guardThresh (s : State) (core : Nat) : Nat := max 1 (bitsOf (s.countCfg core) 27 16)
def retryThresh (s : State) (core : Nat) : Nat := max 1 (bitsOf (s.countCfg core) 15 8)

/-- One checked count of a segment: `g` reference GUARD decisions, `rt` whether it is a repeat. A window that is full ends
before the count. -/
def guardNote (x : Option TaskCtx) (core lm pm seg g : Nat) (rt : Bool) (s : State) : State :=
  let m := s.macAt pm
  let gf := m.guardN.getD seg 0 == guardWindow
  let rf := m.retryN.getD seg 0 == retryWindow
  let gh := if gf then 0 else m.guardHits.getD seg 0
  let rh := if rf then 0 else m.retryHits.getD seg 0
  let gn := (if gf then 0 else m.guardN.getD seg 0) + 1
  let rn := (if rf then 0 else m.retryN.getD seg 0) + 1
  let rh' := rh + bit01 rt
  let s := s.setMac pm { m with guardN := m.guardN.set seg gn, guardHits := m.guardHits.set seg (gh + g),
                                retryN := m.retryN.set seg rn, retryHits := m.retryHits.set seg rh' }
  let s := if gh < guardThresh s core ∧ guardThresh s core ≤ gh + g then
      requestRecal pm true (macEvent x 0x0204 core lm (some seg) (gh + g) s) else s
  if rh < retryThresh s core ∧ retryThresh s core ≤ rh' then
    requestRecal pm true (macEvent x 0x0203 core lm (some seg) rh' s) else s

/-- Add to a saturating field of CSQ_COUNT_STAT. -/
def addCountStat (core hi lo n : Nat) (s : State) : State :=
  { s with reg := { s.reg with countStat := tput s.reg.countStat core (satField (tgetD s.reg.countStat core 0) hi lo n) } }

/-- GUARD decisions of one count, by its deviations in the segments checked. -/
def noteGuards (core : Nat) (ref data : Nat) (s : State) : State := addCountStat core 47 32 data (addCountStat core 63 48 ref s)

/-- A segment that has failed twice: flagged until it is diagnosed, 0x0202 (R69, R71). -/
def flagSeg (x : Option TaskCtx) (core lm pm seg : Nat) (s : State) : State :=
  let m := s.macAt pm
  let s := s.setMac pm { m with flagged := insertSorted seg m.flagged }
  requestDiag pm (macEvent x 0x0202 core lm (some seg) 0 s)

/-! ## Rows and groups of a slice -/

/-- The input that feeds a frame segment (normal mode). -/
def Job.segInput (j : Job) (g : Nat) : Option SegIn :=
  (j.parts.find? (fun p => p.seg == g)).bind (fun p => j.inputs[p.inp]?)

def Job.segs (j : Job) : List (Nat × SegIn) :=
  ((j.parts.map (·.seg)).eraseDups).filterMap (fun g => (j.segInput g).map (fun i => (g, i)))

/-- Rows whose bit is 1 in slice `sl`, or every valid row in the zero-point slice (R86, R93). -/
def rowsIn (i : SegIn) (zp : Bool) (sl : Nat) : List Nat :=
  (List.range i.valid).filter (fun k => zp || (sl < i.slices && sliceBit (i.qs.getD k 0) sl))

/-- Positions of a lane in a segment of a sparse frame: none where the Position Store cannot give them (R156). -/
def lanePos (m : Mac) (g n : Nat) : List Nat :=
  if slotWords m.posTwo g n = [] then (decodePos (posSlot m g n) 64).getD [] else []

/-- Segment-rows of group h whose wordline a lane of a sparse frame raises (R168). -/
def laneRaised (m : Mac) (g n h : Nat) (rows : List Nat) : List Nat :=
  ((lanePos m g n).zipIdx.filter (fun q => q.2 / 8 = h ∧ rows.contains q.1)).map (·.2)

/-- What one segment does in one count: the segment, its row group, the rows its reference columns see, all rows of the
slice. -/
structure SegCount where
  seg  : Nat
  grp  : Nat
  refs : List Nat
  rows : List Nat
  deriving DecidableEq, Repr

def inGroup (h : Nat) (rows : List Nat) : List Nat := rows.filter (fun k => k / 8 == h)

/-- Lanes of a frame of a weight format. -/
def TaskCtx.lanes (x : TaskCtx) : Nat := Sys2Proof.Machine.lanes x.t.fr.wFmt
def TaskCtx.planes (x : TaskCtx) : Nat := Sys2Proof.Machine.planes x.t.fr.wFmt

def groupActive (x : TaskCtx) (m : Mac) (g h : Nat) (rows : List Nat) : Bool :=
  (List.range x.lanes).any (fun n => laneRaised m g n h rows != [])

/-- The counts of a normal slice on one macro, in order (R61-R63, R169, R170, R230). -/
def countsNormal (x : TaskCtx) (r : Run) (m : Mac) (j : Job) : List (List SegCount) :=
  let zp := r.slice == x.t.sMax
  let segs := j.segs.map (fun q => (q.1, q.2, rowsIn q.2 zp r.slice))
  let mk (g h : Nat) (refs rows : List Nat) : SegCount := { seg := g, grp := h, refs := refs, rows := rows }
  if j.sparse then
    if x.t.packed then
      let act := segs.map (fun q => (q.1, q.2.2, (List.range 8).filter (fun h => groupActive x m q.1 h q.2.2)))
      (List.range (act.foldl (fun n a => max n a.2.2.length) 0)).map (fun c =>
        act.filterMap (fun a => (a.2.2[c]?).map (fun h => mk a.1 h (inGroup h a.2.1) a.2.1)))
    else (List.range (r.rc / 8)).map (fun h => segs.map (fun q => mk q.1 h (inGroup h q.2.2) q.2.2))
  else if x.t.packed then
    (List.range (segs.foldl (fun n q => max n (ceilDiv q.2.2.length 8)) 0)).map (fun c =>
      segs.map (fun q => let rs := (q.2.2.drop (8 * c)).take 8; mk q.1 0 rs rs))
  else
    ((List.range (r.rc / 8)).filter (fun h => segs.any (fun q => 8 * h < q.2.1.valid))).map (fun h =>
      segs.map (fun q => let rs := inGroup h q.2.2; mk q.1 0 rs rs))

/-- Rows of a lane that a count raises. -/
def raisedRows (m : Mac) (j : Job) (c : SegCount) (n : Nat) : List Nat :=
  if j.sparse then laneRaised m c.seg n c.grp c.rows else c.refs

/-! ## Transposed passes (R196-R198) -/

/-- The input of a lane of the macro and its element. -/
def Job.laneInput (j : Job) (n : Nat) : Option (SegIn × Nat) :=
  (j.parts.find? (fun p => decide (p.lane ≤ n) && decide (n < p.lane + p.n))).bind (fun p =>
    (j.inputs[p.inp]?).map (fun i => (i, p.chan + n - p.lane)))

/-- Lanes of a data section whose activation bit in slice `sl` is 1. -/
def lanesIn (x : TaskCtx) (j : Job) (q sl : Nat) : List Nat :=
  let per := 64 / x.planes
  ((List.range per).map (fun i => per * q + i)).filter (fun n => match j.laneInput n with
    | some (i, k) => decide (k < i.valid) && sl < i.slices && sliceBit (i.qs.getD k 0) sl
    | none => false)

/-- The counts of a transposed pass: the lanes that each data section drives (R198). -/
def countsTransposed (x : TaskCtx) (r : Run) (j : Job) : List (List SegCount) :=
  let sl := r.slice / x.planes
  let per := 64 / x.planes
  let secs := (List.range 4).map (fun q => (q, lanesIn x j q sl))
  let mk (q : Nat) (ls : List Nat) : SegCount := { seg := q, grp := 0, refs := ls, rows := ls }
  if x.t.packed then
    (List.range (secs.foldl (fun n q => max n (ceilDiv q.2.length 8)) 0)).map (fun c =>
      secs.map (fun q => mk q.1 ((q.2.drop (8 * c)).take 8)))
  else
    (List.range (8 / x.planes)).map (fun h =>
      secs.map (fun q => mk q.1 (q.2.filter (fun n => (n - per * q.1) / 8 == h))))

def countsOf (x : TaskCtx) (r : Run) (m : Mac) (j : Job) : List (List SegCount) :=
  if x.t.transposed then countsTransposed x r j else countsNormal x r m j

/-- The count is a filler count: it raises no wordline (R62, R169), or drives no column (R198). -/
def isFiller (x : TaskCtx) (m : Mac) (j : Job) (c : List SegCount) : Bool :=
  c.all (fun q => if j.sparse && !x.t.transposed then !groupActive x m q.seg q.grp q.rows else q.refs == [])

/-- Passes of a token: slices of the plan with the zero-point slice, or slices by planes (R87, R93, R198). -/
def passesOf (x : TaskCtx) : Nat :=
  if x.t.transposed then x.t.sMax * x.planes else x.t.sMax + (if x.t.zp then 1 else 0)

/-! ## The counters of a count -/

/-- Key of the counter of a column-line section: segment and physical column (R44). -/
def ctrKey (seg col : Nat) : Nat := 280 * seg + col

/-- Key of the counter of a row-line section: row and section, 4 the reference section (R195). -/
def rowCtrKey (row sect : Nat) : Nat := 5 * row + sect

/-- A 7-bit counter takes a level (R57). -/
def addCtr (t : Tab (BitVec 7)) (k l : Nat) : Tab (BitVec 7) := if l = 0 then t else tputD 0 t k (tgetD t k 0 + BitVec.ofNat 7 l)

/-- The counters after the levels of the data sections of the segments given: every logical data column, lane by lane (R57). -/
def addLevels (x : TaskCtx) (m : Mac) (dev : List Deviation) (cs : List SegCount) (j : Job) : Tab (BitVec 7) :=
  let p := x.planes
  let add (t : Tab (BitVec 7)) (c : SegCount) : Tab (BitVec 7) :=
    (List.range (ceilDiv 256 p)).foldl (fun t n =>
      let rows := if j.sparse && x.lanes ≤ n then [] else raisedRows m j c n
      (List.range (min p (256 - p * n))).foldl (fun t b =>
        addCtr t (ctrKey c.seg (physCol m (p * n + b))) (dataLevel m dev c.seg (p * n + b) rows)) t) t
  cs.foldl add m.ctr

/-- Lanes whose partials a poisoned row poisons in a count (R110, R186). -/
def rowPoison (m : Mac) (j : Job) (cs : List SegCount) : List (Nat × Nat) :=
  if m.poisonRow = [] then []
  else
    cs.flatMap (fun c => (j.parts.filter (fun q => q.seg == c.seg)).flatMap (fun q =>
      ((List.range q.n).filter (fun i => (raisedRows m j c (q.lane + i)).any (fun k =>
        m.poisonRow.contains (64 * c.seg + k)))).map (fun i => (c.seg, q.lane + i))))

def replaceJob (k : Nat) (j : Job) (r : Run) : Run := { r with jobs := r.jobs.set k j }

/-- The rows that the reference columns of a segment see in a count. -/
def refRowsOf (cs : List SegCount) (g : Nat) : List Nat := ((cs.find? (fun c => c.seg == g)).map (·.refs)).getD []

/-- One data count of a macro: levels of the segments that pass, the others wait for their repeat (R68, R69). -/
def countJob (x : TaskCtx) (lm k : Nat) (dev : List Deviation) (j : Job) (r : Run) (s : State) : Run × State :=
  let pm := s.physMac x.core lm
  let m := s.macAt pm
  let cs := (countsOf x r m j).getD j.next []
  let failed := (List.range 16).filter (fun g => !segPasses m dev g (refRowsOf cs g))
  let s := noteWork 2 (dieOfCore x.core) x.fn 1 (noteWork 1 (dieOfCore x.core) x.fn 1 s)
  let s := s.setMac pm { m with ctr := addLevels x m dev (cs.filter (fun c => !failed.contains c.seg)) j }
  let j := { j with next := j.next + 1, failed := failed, badLane := (j.badLane ++ rowPoison m j cs).eraseDups }
  let s := noteGuards x.core (((List.range 16).map (refGuards m dev)).sum) (dataGuards m dev) s
  let s := (List.range 16).foldl (fun s g => guardNote (some x) x.core lm pm g (refGuards m dev g) false s) s
  (replaceJob k j r, s)

/-- The statistics of a repeat: RETRIES where a segment (a row in transposed mode) passes in it, MISMATCHES where one fails again
(R69, Table 2-8). -/
def noteRepeat (core : Nat) (passed failed : Bool) (s : State) : State :=
  let s := if passed then addCountStat core 31 16 1 s else s
  if failed then addCountStat core 15 8 1 s else s

/-- The repeat of the failed segments of the last count: levels are added either way; a segment that fails again is
flagged and poisons its partials (R69). -/
def retryJob (x : TaskCtx) (lm k : Nat) (dev : List Deviation) (j : Job) (r : Run) (s : State) : Run × State :=
  let pm := s.physMac x.core lm
  let m := s.macAt pm
  let cs := ((countsOf x r m j).getD (j.next - 1) [])
  let dev := dev.filter (fun d => j.failed.contains d.seg)
  let again := j.failed.filter (fun g => !segPasses m dev g (refRowsOf cs g))
  let tried := j.failed
  let s := noteWork 1 (dieOfCore x.core) x.fn 1 s
  let s := s.setMac pm { m with ctr := addLevels x m dev (cs.filter (fun c => tried.contains c.seg)) j }
  let j := { j with failed := [], bad := (j.bad ++ again).eraseDups }
  let s := noteGuards x.core ((tried.map (refGuards m dev)).sum) (dataGuards m dev) s
  let s := tried.foldl (fun s g => guardNote (some x) x.core lm pm g (refGuards m dev g) true s) s
  let s := noteRepeat x.core (tried.any (fun g => !again.contains g)) (again != []) s
  let s := again.foldl (fun s g => flagSeg (some x) x.core lm pm g s) s
  (replaceJob k j { r with retries := tmod r.retries lm 0 (· + 1) }, s)

/-! ## One transposed count (R195, R196, R199) -/

/-- Driven reference columns of reference set c mod 4 (Table 6-4). -/
def refSet (c : Nat) : List Nat :=
  match c % 4 with
  | 0 => [1]
  | 1 => [0, 2, 4, 6]
  | 2 => [0, 1, 2, 3, 4, 5, 6, 7]
  | _ => [0, 3, 5, 7]

/-- The level a row-line section reports for n packets under the ramp of its row's segment, unless it deviates; `none` for a range
error (R195). -/
def rowLevel (m : Mac) (dev : List RowDeviation) (row sect n : Nat) : Option (Nat × Bool) :=
  match dev.find? (fun d => d.row = row ∧ d.sect = sect) with
  | some d => m.levelAt (row / 64) d.uv
  | none => binLevel (some (centreBin n))

/-- Packets that reach a row from the plane-b columns of driven lanes. -/
def rowPackets (m : Mac) (p b row : Nat) (ls : List Nat) : Nat :=
  (ls.filter (fun n => (rowOf m row).getLsbD (physCol m (p * n + b)))).length

/-- Rows that fail the row-side live check of a count: only rows that deviate can. -/
def rowsFailing (m : Mac) (dev : List RowDeviation) (c : Nat) : List Nat :=
  ((dev.map (·.row)).eraseDups).filter (fun row =>
    let want := ((refSet c).filter (fun k => refBit k (row % 64))).length
    !((rowLevel m dev row 4 want).any (fun l => l.1 == want)) ||
    dev.any (fun d => d.row == row && d.sect < 4 && (m.levelAt (row / 64) d.uv).isNone))

/-- The row counters after the levels of the data sections of rows (R195, R199). -/
def addRowLevels (x : TaskCtx) (m : Mac) (dev : List RowDeviation) (b : Nat) (cs : List SegCount) (rows : List Nat) : Tab (BitVec 7) :=
  rows.foldl (fun t row => cs.foldl (fun t c =>
    match rowLevel m dev row c.seg (rowPackets m x.planes b row c.refs) with
    | some (l, _) => addCtr t (rowCtrKey row c.seg) l
    | none => t) t) m.rowCtr

def rowGuards (m : Mac) (dev : List RowDeviation) (g : Nat) : Nat :=
  (dev.filter (fun d => d.row / 64 == g && d.sect == 4 && m.guardAt g d.uv)).length

def rowDataGuards (m : Mac) (dev : List RowDeviation) : Nat :=
  (dev.filter (fun d => d.sect < 4 && m.guardAt (d.row / 64) d.uv)).length

/-- One transposed count of a macro; `again` for the repeat of the rows that failed. -/
def countRows (x : TaskCtx) (lm k : Nat) (dev : List RowDeviation) (again : Bool) (j : Job) (r : Run) (s : State) : Run × State :=
  let pm := s.physMac x.core lm
  let m := s.macAt pm
  let dev := dev.filter (fun d => d.row < 1024 && (!again || j.failed.contains d.row))
  let i := if again then j.next - 1 else j.next
  let cs := (countsOf x r m j).getD i []
  let failing := rowsFailing m dev (r.base + i)
  let rows := if again then j.failed else (List.range 1024).filter (fun row => !failing.contains row)
  let tried := if again then (j.failed.map (· / 64)).eraseDups else List.range 16
  let s := noteWork 1 (dieOfCore x.core) x.fn 1 s
  let s := if again then s else noteWork 2 (dieOfCore x.core) x.fn 1 s
  let s := s.setMac pm { m with rowCtr := addRowLevels x m dev (r.slice % x.planes) cs rows }
  let passed := j.failed.any (fun row => !failing.contains row)
  let j := if again then { j with failed := [], bad := (j.bad ++ failing).eraseDups }
    else { j with next := j.next + 1, failed := failing }
  let s := noteGuards x.core ((tried.map (rowGuards m dev)).sum) (rowDataGuards m dev) s
  let s := tried.foldl (fun s g => guardNote (some x) x.core lm pm g (rowGuards m dev g) again s) s
  let s := if again then noteRepeat x.core passed (failing != []) s else s
  let s := if again then ((failing.map (· / 64)).eraseDups).foldl (fun s g => flagSeg (some x) x.core lm pm g s) s else s
  (replaceJob k j (if again then { r with retries := tmod r.retries lm 0 (· + 1) } else r), s)

/-! ## The end of a slice (R57, R95) -/

/-- Weight of a slice in a segment with an input; slices from S_g upward contribute nothing (R86, R93). -/
def passWeight (x : TaskCtx) (sl : Nat) (i : SegIn) : Int :=
  if !x.t.transposed && sl == x.t.sMax then -(x.t.fr.aZp : Int)
  else if sl < i.slices then sliceWeight (isUint x.t.fr.aFmt) i.slices sl else 0

/-- The counters of a slice join the Recombiner's sums: those of the columns that the job's segments feed, or of its rows'
sections. -/
def endSlice (x : TaskCtx) (r : Run) (m : Mac) (j : Job) : Job :=
  let acc := if x.t.transposed then
      m.rowCtr.foldl (fun (t : Tab Int) e =>
        let q := e.1 % 5
        match j.laneInput (64 / x.planes * q) with
        | some (i, _) => tmod t ((r.slice % x.planes * 4 + q) * 1024 + e.1 / 5) 0 (· + passWeight x (r.slice / x.planes) i * e.2.toNat)
        | none => t) j.acc
    else
      m.ctr.foldl (fun (t : Tab Int) e =>
        match j.segInput (e.1 / 280), logCol m (e.1 % 280) with
        | some i, some c => tmod t (e.1 / 280 * 256 + c) 0 (· + passWeight x r.slice i * e.2.toNat)
        | _, _ => t) j.acc
  { j with acc := acc, next := 0 }

/-- The Input Slicer clears the counters of the macros of jobs (R57, R198). -/
def clearCtrs (core : Nat) (js : List Job) (s : State) : State :=
  js.foldl (fun s j =>
    let pm := s.physMac core j.mac
    s.setMac pm { s.macAt pm with ctr := [], rowCtr := [] }) s

/-! ## Recombination and the conversion point (R95-R97, R200) -/

/-- Plane weight u_b of R84. -/
def planeWeight (f coef b : Nat) : Rat :=
  if isBg f then bgCoef coef b
  else if planes f = 1 then 1
  else if b + 1 = planes f then -((2 ^ b : Nat) : Rat) else ((2 ^ b : Nat) : Rat)

/-- X from the sums A_b and the activation sum T. -/
def recombine (f coef : Nat) (a : Nat → Int) (t : Int) : Rat :=
  ((List.range (planes f)).map (fun b => planeWeight f coef b * (a b : Rat))).sum -
    (if isBg f then bgSum (planes f) coef / 2 * (t : Rat) else 0)

/-- T: the sum of the activations of elements lo to hi - 1 that lie within the bound, the zero point included. -/
def actSum (x : TaskCtx) (i : SegIn) (lo hi : Nat) : Int :=
  ((List.range (min hi i.valid - lo)).map (fun k => i.qs.getD (lo + k) 0 - (x.t.fr.aZp : Int))).sum

/-- The parts that make the partial of an output granule over one K granule. -/
def partsOf (x : TaskCtx) (r : Run) (ng kg n : Nat) : List (Job × LanePart × SegIn) :=
  r.jobs.flatMap (fun j => j.parts.filterMap (fun p => match j.inputs[p.inp]? with
    | some i => if p.ng = ng ∧ i.kg = kg ∧ (x.t.transposed ∨ (p.chan ≤ n ∧ n < p.chan + p.n)) then some (j, p, i) else none
    | none => none))

/-- The exact partial of one part at channel n. -/
def partX (x : TaskCtx) (n : Nat) (q : Job × LanePart × SegIn) : Rat :=
  let (j, p, i) := q
  let f := x.t.fr.wFmt
  let pl := x.planes
  if x.t.transposed then
    let row := 64 * p.seg + n
    let first := pl * p.lane / 64
    let last := (pl * (p.lane + p.n) - 1) / 64
    recombine f x.t.fr.bgCoef (fun b => ((List.range (last + 1 - first)).map (fun d =>
      tgetD j.acc ((b * 4 + first + d) * 1024 + row) 0)).sum) (actSum x i p.chan (p.chan + p.n))
  else
    recombine f x.t.fr.bgCoef (fun b => tgetD j.acc (p.seg * 256 + pl * (p.lane + n - p.chan) + b) 0) (actSum x i 0 64)

def partBad (x : TaskCtx) (n : Nat) (q : Job × LanePart × SegIn) : Bool :=
  let (j, p, i) := q
  i.poison || (if x.t.transposed then j.bad.contains (64 * p.seg + n)
    else j.bad.contains p.seg || j.badLane.contains (p.seg, p.lane + n - p.chan))

/-- The conversion point (R96, R97). -/
def toPartial (xv : Rat) (sw sa : Word) (t : Int) (nonfin : Bool) : Word :=
  if nonfin || !fvFinite (fval sw) || !fvFinite (fval sa) then fp32Nan
  else round32 (xv * fvRat (fval sw) * fvRat (fval sa) * pow2 t)

/-- The weight scale of an output channel (R133). -/
def scaleOf (x : TaskCtx) (r : Run) (ch : Nat) : PVal :=
  if x.t.fr.wFlags % 2 = 1 ∧ x.t.fr.wScale ≠ 0 then r.sw.getD ch pzero else r.sw.getD 0 pzero

/-- The FP32 partial of channel n of an output granule over one K granule. -/
def partialAt (x : TaskCtx) (r : Run) (ng kg n : Nat) : PVal :=
  let ps := partsOf x r ng kg n
  let sw := scaleOf x r (64 * ng + n)
  match ps with
  | [] => { val := 0, poison := true }
  | (_, _, i) :: _ =>
    { val := toPartial ((ps.map (partX x n)).sum) sw.val r.sa.val i.shift (ps.any (fun q => q.2.2.nonfin)),
      poison := r.badStep || r.sa.poison || sw.poison || ps.any (partBad x n) }

/-! ## The pairwise stack, fold and ACCM (R100-R106, R110, R114) -/

/-- push of R100. -/
def pushStk (p : PVal) : Nat → List StackEnt → List StackEnt
  | lvl, [] => [{ val := p.val, level := lvl, poison := p.poison }]
  | lvl, e :: r =>
    if e.level = lvl then pushStk { val := fadd32 e.val p.val, poison := p.poison || e.poison } (lvl + 1) r
    else { val := p.val, level := lvl, poison := p.poison } :: e :: r

/-- fold of R100. -/
def foldStk : List StackEnt → Option PVal
  | [] => none
  | e :: r => some (r.foldl (fun (a : PVal) e => { val := fadd32 e.val a.val, poison := a.poison || e.poison })
      { val := e.val, poison := e.poison })

/-- The folded value meets the accumulator (R106). -/
def meetAcc (add : Bool) (h v : PVal) : PVal :=
  sealed (if add then { val := fadd32 h.val v.val, poison := h.poison || v.poison } else v)

def pushElem (tile m n : Nat) (p : PVal) (k : Core) : Core :=
  { k with stk := tmod k.stk (accKey tile m n) [] (pushStk p 0) }

def foldElem (add : Bool) (tile m n : Nat) (k : Core) : Core :=
  match foldStk (tgetD k.stk (accKey tile m n) []) with
  | none => k
  | some v => { k with acc := tputD pzero k.acc (accKey tile m n) (meetAcc add (accAt k tile m n) v),
                       stk := tdel k.stk (accKey tile m n) }

/-- A partial arrives at the ACCM. -/
def accmElem (first add : Bool) (row n : Nat) (p : PVal) (k : Core) : Core :=
  let h := accmAt k row n
  let v := if first && !add then p else { val := fadd32 h.val p.val, poison := p.poison || h.poison }
  { k with accm := tputD pzero k.accm (accmKey row n) v }

/-- The output granules in the order in which the nest first visits them, and the ordinal of one (R104). -/
def visits (x : TaskCtx) : List (Nat × Nat) :=
  ((List.range (nSteps x.t.loops x.trips)).flatMap (fun n => (ptsOf x [] n).map (fun p => (p.mg, p.ng)))).eraseDups

def ordinal (x : TaskCtx) (mg ng : Nat) : Nat := ((visits x).findIdx? (· == (mg, ng))).getD 0

/-- The accumulator tile of an output granule (R104, R302). -/
def tileFor (x : TaskCtx) (s : State) (o : Nat) : Nat := x.tile s ((x.t.accTile + o % (x.t.accSpan + 1)) % 8)

/-- The first logical ACCM row of an output granule (R226). -/
def accmFirst (x : TaskCtx) (qO : Int) : Int := (x.t.accmRow : Int) + 8 * qO

def accmRows (x : TaskCtx) (s : State) : Nat := min 512 (64 * accmOf (s.fnPartEff x.fn (x.home s)))

/-- Output granules of the live combinations of a step, with the K granules each receives in ascending order. -/
def granules (pts : List Pt) : List (Nat × Int × List Nat) :=
  ((pts.map (fun p => (p.ng, p.qO))).eraseDups).map (fun g =>
    (g.1, g.2, sortBy (fun a b => a < b) (((pts.filter (fun p => p.ng == g.1 && p.qO == g.2)).map (·.kg)).eraseDups)))

/-- K granules within the bound (R100). -/
def kGranules (x : TaskCtx) : Nat := ceilDiv x.bk 64

/-- The order in which Zarlon mode presents the K granules of one step: the order of the walk (R114). -/
def kOrder (x : TaskCtx) (pts : List Pt) (g : Nat × Int × List Nat) : List Nat :=
  if x.t.zarlon then ((pts.filter (fun p => p.ng == g.1 && p.qO == g.2.1)).map (·.kg)).eraseDups else g.2.2

/-- One output granule of a token: its partials are pushed, and it folds after its last one. -/
def granuleToken (x : TaskCtx) (r : Run) (mg m : Nat) (pts : List Pt) (g : Nat × Int × List Nat) (s : State) : State :=
  let o := ordinal x mg g.1
  let before := tgetD r.got o 0
  let ks := kOrder x pts g
  let k := s.core x.core
  if x.t.zarlon then
    let row := accmFirst x g.2.1 + m
    if row < 0 ∨ (accmRows x s : Int) ≤ row then s
    else
      let pr := x.accm s row.toNat
      s.setCore x.core ((List.range (x.chans g.1)).foldl (fun k n =>
        let k := ks.zipIdx.foldl (fun k q => accmElem (before + q.2 == 0) x.t.addMode pr n (partialAt x r g.1 q.1 n) k) k
        if before + ks.length = kGranules x then
          { k with accm := tputD pzero k.accm (accmKey pr n) (sealed (accmAt k pr n)) } else k) k)
  else
    let tile := tileFor x s o
    s.setCore x.core ((List.range (x.chans g.1)).foldl (fun k n =>
      let k := ks.foldl (fun k kg => pushElem tile m n (partialAt x r g.1 kg n) k) k
      if before + ks.length = kGranules x then foldElem x.t.addMode tile m n k else k) k)

/-! ## Steps of a count task -/

/-- The live combinations of the step under way. -/
def livePts (x : TaskCtx) (r : Run) (s : State) : List Pt := (ptsOf x (readIdx x r s).1 r.step).filter (liveAt x)

/-- The largest number of 1-bits that one segment (row-line section in transposed mode) carries in one slice (R66, R198). -/
def onesOf (x : TaskCtx) (j : Job) : Nat :=
  (List.range x.t.sMax).foldl (fun m sl =>
    if x.t.transposed then (List.range 4).foldl (fun m q => max m (lanesIn x j q sl).length) m
    else j.segs.foldl (fun m q => max m (rowsIn q.2 false sl).length) m) 0

/-- A packed-grouping task beyond its declared bound: 0x0205 and OVERRUNS once per tick, in the tick in which a token exceeds it (R65);
the core's excess counts as BUDGET (R263). -/
def noteOverrun (x : TaskCtx) (d : Nat) (r : Run) (s : State) : Run × State :=
  let n := (s.part x.part).tick
  let k := s.core x.core
  let s := s.setCore x.core { k with budget := true }
  if r.overAt = some n then ({ r with cause := 1 }, s)
  else
    ({ r with cause := 1, overAt := some n },
     addCountStat x.core 7 0 1 (raise { EventRec.mk' 0x0205 with
       part := some x.part, fn := some x.fn, task := some x.i, tick := some n, unit := some x.core,
       info := some (max d r.density) } s))

/-- Begin a token: read its activations and give the macros their jobs; their counters start at 0 (R57). -/
def loadToken (x : TaskCtx) (r : Run) (s : State) : Run × State :=
  let pts := livePts x r s
  let (jobs, missing, s) := buildJobs x r pts r.token s
  let s := if missing then raiseMem 0x0301 x.fn (dieOfCore x.core) (some x.core) none 0 s else s
  let d := jobs.foldl (fun m j => max m (onesOf x j)) 0
  let s := clearCtrs x.core jobs s
  let (r, s) := if x.t.packed && !r.sparse && x.t.densB < d then noteOverrun x d r s else (r, s)
  ({ r with jobs := jobs, round := 0, slice := 0, badStep := r.badStep || missing, density := max r.density d }, s)

/-- An offset formed from an index leads an access of the step out of its operand's window: an A block or tile, an O block or tile
(R224). -/
def stepBad (x : TaskCtx) (pts : List Pt) (s : State) : Bool :=
  x.t.indirLevel.isSome &&
  ((aBlocks x pts).any (fun d => !x.inOperand x.t.aVa d s) || (oBlocks x pts).any (fun d => !x.inOperand x.t.oVa d s) ||
   (pts.filter (liveAt x)).any (fun p =>
     (x.t.hasA && levelOf x.t.aVa == 0 && (x.tileAt s x.t.aVa p.qA).isNone) ||
     (x.t.hasO && levelOf x.t.oVa == 0 && (x.tileAt s x.t.oVa p.qO).isNone)))

/-- The index list of the task cannot be read, or is poisoned (R224, R275). -/
def idxPoison (x : TaskCtx) (r : Run) (s : State) : Bool :=
  match x.t.indirLevel with
  | none => false
  | some l => (fetchDesc x r x.t.idxVa (4 * x.trips.getD l 0) s).2.1

/-- The frames that a step counts become the most recently counted (R290). -/
def touchFrames (x : TaskCtx) (pts : List Pt) (s : State) : State :=
  ((pts.flatMap (fun p => (wParts x.t.planesW (wNum x.t p)).map (·.1))).eraseDups).foldl (fun s lf =>
    match s.frame? x.fn lf with
    | none => s
    | some f =>
      let s := { s with fm := { s.fm with useSeq := s.fm.useSeq + 1 } }
      s.setFrame x.fn lf { f with lastUse := s.fm.useSeq }) s

/-- The A blocks of a step are read once; the Input Slicer verifies those that it reads from a staging buffer (Table 9-5). -/
def bufferStep (x : TaskCtx) (pts : List Pt) (r : Run) (s : State) : Run × State :=
  (aBlocks x pts).foldl (fun (a : Run × State) d =>
    let (b, s) := fetchA x a.1 d a.2
    let (b, s) := if x.t.aStaged && x.t.isCount then verifyBlk x.fn (dieOfCore x.core) (some x.core) d b s else (b, s)
    ({ a.1 with inp := a.1.inp ++ [(d / 256, b)] }, s)) ({ r with inp := [] }, s)

/-- After a step the blocks read for it are dropped; those of the trip of A's outermost staging level stay while it lasts. -/
def dropStep (x : TaskCtx) (r : Run) (s : State) : Run :=
  let idx := (readIdx x r s).1
  let keep := setupBlocks x ++ (match nextLive x (r.step + 1), (aTrips x r.step).getLast? with
    | some n, some o => if (aTrips x n).getLast? = some o then tripBlocks x idx o.1 n else []
    | _, _ => [])
  { r with step := r.step + 1, busy := false, badStep := false, inp := [],
           buf := r.buf.filter (fun y => keep.any (fun d => d / 256 == y.1)) }

def startCount (x : TaskCtx) (n : Nat) (r : Run) (s : State) : Run × State :=
  let r := { r with step := n, token := 0 }
  let pts := livePts x r s
  let s := touchFrames x pts s
  let (r, s) := bufferStep x pts r s
  let r := { r with busy := true, badStep := stepBad x pts s || idxPoison x r s }
  loadToken x r s

/-- The granules of a step that receive their last K granule in it. -/
def fullGranules (x : TaskCtx) (r : Run) (pts : List Pt) : List (Nat × Int × List Nat) :=
  let mg := ((pts.map (·.mg)).head?).getD 0
  (granules pts).filter (fun g => tgetD r.got (ordinal x mg g.1) 0 + g.2.2.length == kGranules x)

/-- An output granule has an ACCM row past the function's rows, or before its first: an indexed row below 0 is taken as one
beyond 511 (R115, R302, log entry 45). -/
def accmPast (x : TaskCtx) (s : State) (mg : Nat) (qO : Int) : Bool :=
  x.t.zarlon && (accmFirst x qO < 0 || (accmRows x s : Int) < accmFirst x qO + x.toks mg)

/-- The granules of a step that have folded leave through the SE (R113). -/
def endCountStep (x : TaskCtx) (r : Run) (s : State) : Run × State :=
  let pts := livePts x r s
  let mg := ((pts.map (·.mg)).head?).getD 0
  let gs := granules pts
  let past := gs.any (fun g => accmPast x s mg g.2.1)
  let tick := (s.part x.part).tick
  -- R115: once per task and tick; INFO is the highest row of the step (log entry 45)
  let s := if past && r.accmAt != some tick then
      raise { EventRec.mk' 0x0209 with
        part := some x.part, fn := some x.fn, task := some x.i, unit := some x.core, tick := some tick,
        info := some ((gs.foldl (fun m g => max m (accmFirst x g.2.1 + x.toks mg - 1)) 0).toNat) } s
    else s
  let es : List (Int × PVal) := (fullGranules x r pts).flatMap (fun g =>
    let tile := tileFor x s (ordinal x mg g.1)
    (List.range (x.toks mg)).flatMap (fun (m : Nat) => (List.range (x.chans g.1)).map (fun (n : Nat) =>
      let v := if !x.t.zarlon then accAt (s.core x.core) tile m n
        else if accmPast x s mg g.2.1 then { val := fp32Nan, poison := true }
        else accmAt (s.core x.core) (x.accm s (accmFirst x g.2.1 + (m : Int)).toNat) n
      (g.2.1 * 512 + ((64 * m + n : Nat) : Int), { v with poison := v.poison || r.badStep }))))
  let (r, s) := emit x es r s
  let got := gs.foldl (fun t g => tmod t (ordinal x mg g.1) 0 (· + g.2.2.length)) r.got
  -- the push counters (R102)
  let s := if x.t.zarlon then s else gs.foldl (fun s g =>
    let tile := tileFor x s (ordinal x mg g.1)
    let k := s.core x.core
    let c := tgetD got (ordinal x mg g.1) 0
    s.setCore x.core { k with pushCtr := tput k.pushCtr tile (if c = kGranules x then 0 else c % 2 ^ 21) }) s
  (dropStep x { r with jobs := [], got := got, accmAt := if past then some tick else r.accmAt } s, s)

/-- The end of a token: its partials are recombined, pushed and folded. -/
def endToken (x : TaskCtx) (r : Run) (s : State) : Run × State :=
  let pts := livePts x r s
  let mg := ((pts.map (·.mg)).head?).getD 0
  let s := (granules pts).foldl (fun s g => granuleToken x r mg r.token pts g s) s
  if r.token + 1 < x.toks mg then loadToken x { r with token := r.token + 1 } s else endCountStep x r s

/-- Every job of the round has run the counts of its slice and none waits for a repeat. -/
def sliceDone (x : TaskCtx) (r : Run) (s : State) : Bool :=
  (r.jobs.filter (fun j => j.round = r.round)).all (fun j =>
    j.failed == [] && (countsOf x r (s.macAt (s.physMac x.core j.mac)) j).length ≤ j.next)

/-- The slice ends on every macro of the core together (R47, R169). -/
def closeSlice (x : TaskCtx) (r : Run) (s : State) : Run × State :=
  let n := (r.jobs.filter (fun j => j.round = r.round)).foldl (fun m j => max m j.next) 0
  let jobs := r.jobs.map (fun j => if j.round = r.round then endSlice x r (s.macAt (s.physMac x.core j.mac)) j else j)
  let s := clearCtrs x.core (r.jobs.filter (fun j => j.round = r.round)) s
  let r := { r with jobs := jobs, base := r.base + n, slice := r.slice + 1 }
  if r.slice < passesOf x then (r, s)
  else if r.jobs.any (fun j => r.round < j.round) then ({ r with round := r.round + 1, slice := 0 }, s)
  else endToken x r s

/-! ## What a task waits for -/

/-- The O blocks that a step merges into: those of which it leaves elements (R230). -/
def mergeBlocks (x : TaskCtx) (r : Run) (pts : List Pt) : List Nat :=
  let live := pts.filter (liveAt x)
  let full := fullGranules x r live
  let mine := if x.t.isCopy then live else live.filter (fun p => full.any (fun g => g.1 == p.ng && g.2.1 == p.qO))
  (oBlocks x mine).filter (fun d => !oWhole x mine d)

/-- The remote blocks that the task needs before it can go on: for its start, and for its next step with the trip of A that holds
it. -/
def remoteNeeds (x : TaskCtx) (r : Run) (s : State) : List Nat :=
  let step := match nextLive x r.step with
    | none => []
    | some n =>
      let idx := (readIdx x r s).1
      let pts := ptsOf x idx n
      aDue x idx n ++ eBlocks x pts ++ (if x.t.prepass then [] else mergeBlocks x r pts)
  (((if r.setup then [] else setupBlocks x) ++ (if r.busy then [] else step)).filter (fun d =>
    isPeerAt x s d && !(r.buf ++ r.obuf).any (fun y => y.1 == d / 256) &&
    !(s.core x.core).staged.any (fun y => y.1 == x.id && y.2.1 == d / 256))).eraseDups

/-- A step waits for STAGING_COPY: of a COPY, at a trip of a staging level of A, for remote blocks (R223). -/
def needStage (x : TaskCtx) (n : Nat) (r : Run) (s : State) : Bool :=
  x.t.isCopy || (aTrips x n).any (fun t => !r.trips.contains t) || remoteNeeds x { r with step := n } s != []

/-! ## Write tasks and the progress of a task -/

/-- The elements of the lanes and rows that a step writes: (frame, segment, row in segment, lane, value, poison). -/
structure WElem where
  frame : Nat
  seg   : Nat
  k     : Nat
  lane  : Nat
  val   : Nat
  poison : Bool
  deriving DecidableEq, Repr

/-- The elements of the weight tiles of a step (R185, R211). -/
def readTiles (x : TaskCtx) (r : Run) (pts : List Pt) : List WElem :=
  let c := fmtBits x.t.fr.wFmt
  pts.flatMap (fun p =>
    let w := wNum x.t p
    (List.range (min 64 (x.bk - 64 * p.kg))).flatMap (fun k =>
      let va := aAddr x.t p.qA + 8 * c * k
      let row := (blockIn r.inp va).row va c
      (wParts x.t.planesW w).flatMap (fun y =>
        ((List.range y.2.2.2).filter (fun i => y.2.2.1 + i < x.chans p.ng ∧
            y.2.1 + i + x.t.laneFirst < x.lanes)).map (fun i =>
          { frame := y.1, seg := x.t.bandSeg + w % 16, k := k, lane := y.2.1 + i + x.t.laneFirst,
            val := row.1.getD (y.2.2.1 + i) 0 % 2 ^ x.planes, poison := row.2.2 }))))

/-- The rows that a macro of a frame receives: dense rows, or the rows of the positions written (R185, R178). -/
def rowsFor (x : TaskCtx) (m : Mac) (sparse full : Bool) (es : List WElem) : List WRow :=
  let p := x.planes
  let placed : List (Nat × WElem) :=
    if sparse then es.filterMap (fun e => ((lanePos m e.seg e.lane).findIdx? (· == e.k)).map (fun i => (64 * e.seg + i, e)))
    else es.map (fun e => (64 * e.seg + e.k, e))
  let rows := sortBy (fun a b => a < b) ((placed.map (·.1)).eraseDups)
  rows.map (fun row =>
    let mine := (placed.filter (fun q => q.1 == row)).map (·.2)
    let mask := mine.foldl (fun a e => a ||| ((2 ^ p - 1) <<< (p * e.lane))) 0
    let bits := mine.foldl (fun a e => a ||| (e.val <<< (p * e.lane))) 0
    let whole := (List.range x.lanes).all (fun n =>
      mine.any (fun e => e.lane == n) || (sparse && (lanePos m (row / 64) n).length ≤ row % 64))
    { row := row, mask := mask, bits := bits, full := full && whole, poison := mine.any (·.poison) })

/-- The macros that take a write of a frame: the plan's shadow where the frame has one, else the frame's own; with each
the macro of the other layout (R185, R192, R518). -/
def writeMacs (f : Frame) : List (Nat × Bool) :=
  match f.shadow with
  | some sh => if sh.host then (f.mac.toList.map (fun m => (m, f.sparse))) ++ (f.companion.toList.map (fun m => (m, !f.sparse)))
               else (sh.mac, sh.sparse) :: (sh.compMac.toList.map (fun m => (m, !sh.sparse)))
  | none => (f.mac.toList.map (fun m => (m, f.sparse))) ++ (f.companion.toList.map (fun m => (m, !f.sparse)))

/-- Begin a step of a write task. -/
def startWrite (x : TaskCtx) (n : Nat) (r : Run) (s : State) : Run × State :=
  let r := { r with step := n }
  let pts := livePts x r s
  let (r, s) := bufferStep x pts r s
  let bad := stepBad x pts s || idxPoison x r s
  let es := readTiles x r pts
  let fs := writeFrames x.t (ptsOf x (readIdx x r s).1 n) x.bn x.bk
  let ws := fs.flatMap (fun w =>
    match s.frame? x.fn w.frame with
    | none => []
    | some f =>
      if f.core ≠ x.core then []
      else (writeMacs f).map (fun y =>
        let rows := rowsFor x (s.macAt (s.physMac x.core y.1)) y.2 (w.full x.t) (es.filter (fun e => e.frame == w.frame))
        ({ frame := w.frame, mac := y.1, sparse := y.2, page := w.full x.t && w.rows == 1024,
           todo := rows.map (fun q => { q with poison := q.poison || bad }), written := [], done := rows == [] } : WriteRun)))
  let slots := (fs.map (·.slots x.t)).foldl max 0
  let missing := fs.any (fun w => match s.frame? x.fn w.frame with
    | some f => f.core != x.core
    | none => true)
  let s := if missing then raiseMem 0x0301 x.fn (dieOfCore x.core) (some x.core) none 0 s else s
  -- the choice that admission made from the bucket's bounds (R185)
  let ext (d : Nat) : Nat := x.plan.ext.getD (d - 1) 0
  let planned := writeFrames x.t (ptsOf x (readIdx x r s).1 n) (boundDim x.t ext 1) (boundDim x.t ext 2)
  let slower := fs.any (fun w => !w.full x.t && planned.any (fun q => q.frame == w.frame && q.full x.t))
  ({ r with busy := true, writes := ws, slots := r.slots + slots, cause := if slower then 1 else r.cause,
            wrote := (r.wrote ++ ws.map (·.frame)).eraseDups }, s)

/-- One step of progress that needs no further event, `none` where the task waits for one. -/
def progress (x : TaskCtx) (r : Run) (s : State) : Option (Run × State) :=
  if r.finished || !r.setup then none
  else if r.busy then
    if x.t.isCount then (if sliceDone x r s then some (closeSlice x r s) else none)
    else if r.writes.all (·.done) then
      some ({ dropStep x r s with writes := [] }, s)
    else none
  else if !(x.t.isCount || x.t.isWrite || x.t.isCopy) then some ({ r with finished := true }, s)
  else
    if oDue x r then none
    else match nextLive x r.step with
    | none => some ({ r with finished := true }, s)
    | some n =>
      if needStage x n r s then (if r.step = n then none else some ({ r with step := n }, s))
      else some (if x.t.isCount then startCount x n r s else startWrite x n r s)

/-- Progress until the task waits for an event. -/
def proceed (x : TaskCtx) : Nat → Run → State → Run × State
  | 0, r, s => (r, s)
  | n + 1, r, s =>
    match progress x r s with
    | none => (r, s)
    | some (r, s) => proceed x n r s

/-- More than the slices of every token of every step. -/
def fuelOf (x : TaskCtx) : Nat := (nSteps x.t.loops x.trips + 2) * 2 ^ 17

/-- Set the task a core runs. -/
def setRun (core : Nat) (r : Run) (s : State) : State := s.setCore core { s.core core with run := some r }

/-- Act on the task a core runs, then let it progress. -/
def withRun (core : Nat) (act : TaskCtx → Run → State → Run × State) (s : State) : State :=
  match (s.core core).run with
  | none => s
  | some r =>
    match s.taskCtx core r with
    | none => s
    | some x =>
      let (r, s) := act x r s
      let (r, s) := proceed x (fuelOf x) r s
      setRun core r s

end Sys2Proof.Machine
end

