-- ==== Sys2Proof/Machine/Run.lean ====
section
/-!
DEFINITION. The tasks of a core (R66, R73, R111, R132, R140, R143, R169, R172, R223, R256, R257, R260): the meanings of
TASK_START, STAGING_COPY, COUNT, COUNT_RETRY, FILLER_COUNT, TRANSPOSED_COUNT, STEERING_SLOT, GLIDE_FILLER, GUARD_WINDOW_END,
RETRY_WINDOW_END, SCALE_RECORD_UPDATE and TASK_RETIRE.
-/

namespace Sys2Proof.Machine

open Sys2Proof

/-! ## TASK_START (R256, R257, R260) -/

/-- The core's partition runs a tick and its lead point has not come. -/
def State.coreTicks (s : State) (c : Nat) : Bool :=
  match s.partOfCluster (clusterOfCore c) with
  | none => false
  | some p => (s.part p).state == .running && !(s.part p).lead

/-- The next task that a core may start: in slot order, of the function whose window is open, in the overflow region of
any. A task whose WAIT is unmet holds the later tasks of its execution. -/
def State.startable (s : State) (c : Nat) : Option (Nat × Nat) :=
  let k := s.core c
  let open_ (id : Nat) : Bool := match s.exec? id with
    | none => false
    | some e => e.phase == .running && (match k.window with
      | some f => e.ticket.fn == f
      | none => true)
  let head (x : Nat × Nat) : Bool := (k.slot.find? (fun y => y.1 == x.1)) == some x
  let met (x : Nat × Nat) : Bool := match s.exec? x.1 with
    | none => false
    | some e => s.waitsMet e.plan x.2
  k.slot.find? (fun x => open_ x.1 && head x && met x && !k.paused.any (fun r => r.exec == x.1))

/-- Start the next task: where it reads nothing over the links, its scales, record and tables are read at once. -/
def taskStart (c : Nat) (s : State) : State :=
  let k := s.core c
  if !(c < 2048 && s.coreTicks c && k.run.isNone) then s
  else
    match s.startable c with
    | none => s
    | some x =>
      let s := s.setCore c { k with slot := k.slot.filter (fun y => y != x), run := some (Run.start x.1 x.2) }
      withRun c (fun x r s =>
        let s := (readIdx x r s).2
        if remoteNeeds x r s = [] then setupRun x r s else (r, s)) s

/-- TASK_START (R256, R257, R133, R140, R147). -/
def execTaskStart (core : Nat) (s : State) : Host.Outcome State Fault Refusal := .next (taskStart core s)

/-! ## STAGING_COPY (R223, R224, R270) -/

/-- A trip of a staging level: O blocks of the trip before are written back; remote blocks are asked for; once they are here the
trip's A blocks are in its buffers, and a COPY moves its step. -/
def stageStep (x : TaskCtx) (r : Run) (s : State) : Run × State :=
  if r.remote ≠ [] ∨ r.finished then (r, s)
  else if r.setup && !r.busy && oDue x r then endTrip x r s
  else
    let need := remoteNeeds x r s
    if need ≠ [] then askBlocks x r need s
    else if !r.setup then setupRun x r s
    else if r.busy then (r, s)
    else
      match nextLive x r.step with
      | none => (r, s)
      | some n =>
        if !needStage x n r s then (r, s)
        else
          let (r, s) := stageA x n { r with step := n } s
          if x.t.isCopy then
            let pts := ptsOf x (readIdx x r s).1 n
            let (r, s) := bufferStep x (pts.filter (liveAt x)) r s
            let (r, s) := copyStep x pts { r with badStep := stepBad x pts s || idxPoison x r s } s
            let r := dropStep x r s
            if oDue x r then endTrip x r s else (r, s)
          else if x.t.isCount then startCount x n r s else startWrite x n r s

/-- STAGING_COPY (R223). -/
def execStagingCopy (core : Nat) (s : State) : Host.Outcome State Fault Refusal :=
  .next (if s.coreTicks core then withRun core stageStep s else s)

/-! ## COUNT and its kin -/

/-- Steering slots due before count i have been taken (R172). -/
def steered (r : Run) (i : Nat) : Bool := !r.sparse || 6 * i / 100 ≤ r.steered

/-- The job of a macro in the round under way. -/
def Run.jobOf (r : Run) (mac : Nat) : Option (Nat × Job) :=
  match r.jobs.findIdx? (fun j => j.round == r.round && j.mac == mac) with
  | none => none
  | some k => (r.jobs[k]?).map (fun j => (k, j))

/-- The count that is due on a macro: no repeat waits, the slice has a further count, no steering slot comes first. -/
def dueCount (x : TaskCtx) (r : Run) (mac : Nat) (s : State) : Option (Nat × Job × List SegCount) :=
  if !(x.t.isCount && r.busy) || s.fenced (s.physMac x.core mac) then none
  else
    match r.jobOf mac with
    | none => none
    | some (k, j) =>
      if j.failed ≠ [] ∨ !steered r (r.base + j.next) then none
      else ((countsOf x r (s.macAt (s.physMac x.core mac)) j)[j.next]?).map (fun c => (k, j, c))

/-- Act on a core that counts, outside the tail of a tick. -/
def onRun (core : Nat) (act : TaskCtx → Run → State → Run × State) (s : State) : State :=
  if s.coreTicks core then withRun core act s else s

/-- COUNT (R51-R72): the next data count of a macro. -/
def countEffect (core mac : Nat) (dev : List Deviation) (s : State) : State :=
  onRun core (fun x r s =>
    match dueCount x r mac s with
    | none => (r, s)
    | some (k, j, c) =>
      if x.t.transposed || isFiller x (s.macAt (s.physMac core mac)) j c then (r, s) else countJob x mac k dev j r s) s

/-- COUNT (R51). -/
def execCount (core mac : Nat) (dev : List Deviation) (s : State) : Host.Outcome State Fault Refusal :=
  .next (countEffect core mac dev s)

/-- COUNT_RETRY (R69): in transposed mode a deviation's `seg` is the row and its `col` the section. -/
def retryEffect (core mac : Nat) (dev : List Deviation) (s : State) : State :=
  onRun core (fun x r s =>
    match r.jobOf mac with
    | none => (r, s)
    | some (k, j) =>
      if j.failed = [] ∨ s.fenced (s.physMac x.core mac) then (r, s)
      else if x.t.transposed then
        countRows x mac k (dev.map (fun d => { row := d.seg, sect := d.col, uv := d.uv })) true j r s
      else retryJob x mac k dev j r s) s

/-- COUNT_RETRY (R69). -/
def execCountRetry (core mac : Nat) (dev : List Deviation) (s : State) : Host.Outcome State Fault Refusal :=
  .next (retryEffect core mac dev s)

/-- TRANSPOSED_COUNT (R195-R200). -/
def transposedEffect (core mac : Nat) (dev : List RowDeviation) (s : State) : State :=
  onRun core (fun x r s =>
    match dueCount x r mac s with
    | none => (r, s)
    | some (k, j, c) =>
      if !x.t.transposed || isFiller x (s.macAt (s.physMac core mac)) j c then (r, s) else countRows x mac k dev false j r s) s

/-- TRANSPOSED_COUNT (R199). -/
def execTransposedCount (core mac : Nat) (dev : List RowDeviation) (s : State) : Host.Outcome State Fault Refusal :=
  .next (transposedEffect core mac dev s)

/-! ## Filler counts (R62, R73, R172, R379) -/

/-- The live check of a filler count with `rows` raised in every segment: failures increment FILLER_MISMATCH and count
toward the guard monitor; nothing is retried, flagged or poisoned. -/
def fillerCheck (x : Option TaskCtx) (core mac : Nat) (rows : List Nat) (dev : List Deviation) (s : State) : State :=
  let pm := s.physMac core mac
  let m := s.macAt pm
  let rows := rows.take 8
  let bad := ((List.range 16).filter (fun g => !segPasses m dev g rows)).length
  let s := match x with
    | some x => noteWork 1 (dieOfCore core) x.fn 1 s
    | none => noteWork 3 (dieOfCore core) 512 1 s
  let s := { s with mnt := { s.mnt with fillerBad := (s.mnt.fillerBad + bad) % 2 ^ 64 } }
  let s := noteGuards core (((List.range 16).map (refGuards m dev)).sum) (dataGuards m dev) s
  (List.range 16).foldl (fun s g => guardNote x core mac pm g (refGuards m dev g) false s) s

/-- FILLER_COUNT (R62, R169): the count due on a macro raises no wordline of the slice. Which rows the filler raises instead is open in
R62; they are the command's operand, the same in every segment (DESIGN CHOICE, log entry 98). -/
def fillerEffect (core mac : Nat) (rows : List Nat) (dev : List Deviation) (s : State) : State :=
  onRun core (fun x r s =>
    match dueCount x r mac s with
    | none => (r, s)
    | some (k, j, c) =>
      if isFiller x (s.macAt (s.physMac core mac)) j c then
        (replaceJob k { j with next := j.next + 1 } r, fillerCheck (some x) core mac (rows.filter (· < 64)) dev s)
      else (r, s)) s

/-- FILLER_COUNT (R73). -/
def execFillerCount (core mac : Nat) (rows : List Nat) (dev : List Deviation) (s : State) :
    Host.Outcome State Fault Refusal :=
  .next (fillerEffect core mac rows dev s)

/-- A row group and a choice of its rows that the manual leaves open (log entry 2). -/
def freeRows (s : State) : List Nat × State :=
  let (v, s) := freshFree s
  (((List.range 8).filter (fun i => bitOf v.toNat (3 + i))).map (fun i => 8 * (v.toNat % 8) + i), s)

/-- STEERING_SLOT (R172): every macro of the core runs a filler count with identity steering. -/
def steeringEffect (core : Nat) (dev : List (Nat × Deviation)) (s : State) : State :=
  onRun core (fun x r s =>
    let i := r.base + (r.jobs.filter (fun j => j.round = r.round)).foldl (fun m j => max m j.next) 0
    if !r.sparse || 6 * i / 100 ≤ r.steered || r.jobs.any (fun j => j.failed != []) then (r, s)
    else
      let (rows, s) := freeRows s
      let s := ((List.range 64).filter (fun m => !s.fenced (s.physMac core m))).foldl (fun s m =>
        fillerCheck (some x) core m rows ((dev.filter (fun d => d.1 = m)).map (·.2)) s) s
      ({ r with steered := r.steered + 1 }, s)) s

/-- STEERING_SLOT (R172). -/
def execSteeringSlot (core : Nat) (dev : List (Nat × Deviation)) (s : State) : Host.Outcome State Fault Refusal :=
  .next (steeringEffect core dev s)

/-- PWR_GLIDE_CFG (Table 12-9). -/
def glideEn (s : State) : Bool := bitOf s.reg.glideCfg.toNat 0
def glideRows (s : State) : Nat := min 8 (bitsOf s.reg.glideCfg.toNat 7 4)
def glideStep (s : State) : Nat := max 1 (bitsOf s.reg.glideCfg.toNat 15 8)
def staggerSlots (s : State) : Nat := bitsOf s.reg.glideCfg.toNat 19 16
def staggerWaves (s : State) : Nat :=
  if staggerSlots s = 0 then 1
  else min (max 1 (min 8 (bitsOf s.reg.glideCfg.toNat 23 20))) (1 + s.rr / staggerSlots s)

/-- Count slots after a boundary in which a core waits for its wave (R380). -/
def staggerDelay (s : State) (c : Nat) : Nat := c % staggerWaves s * staggerSlots s

/-- Count slots of a partition's running tick at its CCLK: a slot is eight periods of CCLK (R50, R247). -/
def State.slotsNow (s : State) (p : Nat) : Nat :=
  periodOf (s.tickCfgEff p) * (8 + (s.part p).k) * (s.ppart p).cclk / 64

/-- The core has a task in the plan tick after the present one. -/
def State.nextWork (s : State) (c : Nat) : Bool :=
  s.adm.execs.any (fun e => e.phase == .running && e.plan.placed.any (fun x => x.tick == e.planTick + 1 &&
    (e.plan.stages[x.stage]?).any (fun st => st.core == c)))

/-- Rows per segment of a glide filler at count slot `slot` of the tick (R379, R380): all of GLIDE_ROWS in a hold and in the core's delay
slots; in a ramp down one row fewer every GLIDE_STEP slots from `from_`; in a ramp up one more every GLIDE_STEP slots, from
8 GLIDE_STEP slots before the boundary on; else none. -/
def glideDensity (s : State) (p core slot from_ : Nat) : Nat :=
  let k := s.core core
  let rows := glideRows s
  let up := 8 * glideStep s
  let left := s.slotsNow p - slot
  if k.slot != [] then (if slot < staggerDelay s core then rows else 0)
  else if k.planned != 0 then (if s.nextWork core then rows else rows - (slot - from_) / glideStep s)
  else if s.nextWork core && left ≤ up then min rows ((up - left) / glideStep s) else 0

/-- GLIDE_FILLER (R379, R380): the lowest rows of row group (slot mod 8), as many as the density. -/
def glideEffect (core mac slot : Nat) (dev : List Deviation) (s : State) : State :=
  let k := s.core core
  match s.partOfCluster (clusterOfCore core) with
  | none => s
  | some p =>
    if !(core < 2048 && mac < 64 && glideEn s && s.partTicks p && k.run.isNone && k.paused == [] && !s.fenced (s.physMac core mac)) then s
    else
      let from_ := k.glideFrom.getD slot
      let n := glideDensity s p core slot from_
      let s := s.setCore core { k with glideFrom := some from_ }
      if n = 0 then s else fillerCheck none core mac ((List.range n).map (fun i => 8 * (slot % 8) + i)) dev s

/-- GLIDE_FILLER (R379). -/
def execGlideFiller (core mac slot : Nat) (dev : List Deviation) (s : State) : Host.Outcome State Fault Refusal :=
  .next (glideEffect core mac slot dev s)

/-- GUARD_WINDOW_END (R72): the window of 512 checked counts of a segment ends. -/
def guardWindowEndEffect (mac seg : Nat) (s : State) : State :=
  let m := s.macAt mac
  if m.guardN.getD seg 0 < guardWindow then s
  else s.setMac mac { m with guardN := m.guardN.set seg 0, guardHits := m.guardHits.set seg 0 }

/-- GUARD_WINDOW_END (R72). -/
def execGuardWindowEnd (mac seg : Nat) (s : State) : Host.Outcome State Fault Refusal := .next (guardWindowEndEffect mac seg s)

/-- RETRY_WINDOW_END (R72): the window of 65,536 checked counts of a segment ends. -/
def retryWindowEndEffect (mac seg : Nat) (s : State) : State :=
  let m := s.macAt mac
  if m.retryN.getD seg 0 < retryWindow then s
  else s.setMac mac { m with retryN := m.retryN.set seg 0, retryHits := m.retryHits.set seg 0 }

/-- RETRY_WINDOW_END (R72). -/
def execRetryWindowEnd (mac seg : Nat) (s : State) : Host.Outcome State Fault Refusal := .next (retryWindowEndEffect mac seg s)

/-! ## SCALE_RECORD_UPDATE (R140, R143) -/

/-- The larger of two FP32 magnitudes. -/
def maxW (a b : Word) : Word := if fvRat (fval a) < fvRat (fval b) then b else a

/-- Replace bytes of a record. -/
def putAt (bs : List Byte) (o : Nat) (v : List Byte) : List Byte := bs.take o ++ v ++ bs.drop (o + v.length)

/-- The roll of R140 over a record whose step is complete. -/
def rollRecord (ctl fmt zp coef : Nat) (coefBad : Bool) (sigma : Word) (bs : List Byte) : List Byte :=
  let w (o : Nat) : Word := BitVec.ofNat 32 (fieldLE bs o 4)
  let n := max 1 (srN ctl)
  let pos := fieldLE bs 8 1 % n
  let bs := putAt bs (0x40 + 4 * pos) (leB (w 0x0C).toNat 4)
  let hist (i : Nat) : Word := BitVec.ofNat 32 (fieldLE bs (0x40 + 4 * i) 4)
  let h := (List.range n).foldl (fun m i => maxW m (hist i)) (0 : Word)
  let sn := if coefBad || !decide (0 < fvRat (fval h)) then sigma
    else clampSigma (round32 (fvRat (fval h) / qmax fmt zp coef))
  let counted := fieldLE bs 0x10 4
  let clipped := fieldLE bs 0x14 4
  let adapt := !coefBad && decide (0 < srBoost ctl) && decide (0 < counted) &&
    decide (srThresh ctl * counted < clipped * 65536)
  let sn := if adapt then clampSigma (round32 (fvRat (fval sn) * pow2 (srBoost ctl))) else sn
  let fl := setBits (fieldLE bs 0x0A 1) 0 0 (bit01 adapt)
  let fl := if coefBad then setBits fl 1 1 1 else fl
  let bs := putAt bs 0x1C ((bs.drop 0x0C).take 16)
  let bs := putAt bs 0x0C (List.replicate 16 0)
  let bs := putAt bs 0 (leB sn.toNat 4)
  let bs := putAt bs 4 (leB (fieldLE bs 4 4 + 1) 4)
  let bs := putAt bs 8 (leB (if pos + 1 = n then 0 else pos + 1) 1)
  let bs := putAt bs 9 [0]
  putAt bs 0x0A (leB fl 1)

/-- One producer's merge into the record, with the roll where it is the last (R140). -/
def mergeRecord (x : TaskCtx) (r : Run) (bs : List Byte) : List Byte :=
  let f := x.t.fr
  let add (bs : List Byte) (o n : Nat) : List Byte := putAt bs o (leB (satAdd 0xFFFFFFFF (fieldLE bs o 4) n) 4)
  let bs := if r.badScale then putAt bs 0x0A (leB (setBits (fieldLE bs 0x0A 1) 1 1 1) 1) else bs
  let bs := putAt bs 0x0C (leB (maxW (BitVec.ofNat 32 (fieldLE bs 0x0C 4)) r.amax).toNat 4)
  let bs := add (add (add bs 0x10 r.counted) 0x14 r.clipped) 0x18 r.nonfin
  let bs := putAt bs 9 (leB (fieldLE bs 9 1 + 1) 1)
  if fieldLE bs 9 1 = srPcnt f.scaleCtl then rollRecord f.scaleCtl x.t.oFmt f.oZp r.coef r.coefBad r.sigma.val bs else bs

/-- The record of a PREPASS producer (R143). -/
def prepassRecord (r : Run) (bs : List Byte) : List Byte :=
  let sat (n : Nat) : List Byte := leB (min 0xFFFFFFFF n) 4
  let bs := putAt bs 0x1C (leB r.amax.toNat 4)
  let bs := putAt bs 0x20 (sat r.counted ++ sat r.clipped ++ sat r.nonfin)
  putAt bs 4 (leB (fieldLE bs 4 4 + 1) 4)

/-- The update of the Scale Record as the task retires; a PREPASS producer makes its second pass first. -/
def recordUpdate (x : TaskCtx) (r : Run) (s : State) : Run × State :=
  if !(r.finished && r.remote == [] && x.t.scaled && !r.srecSent) then (r, s)
  else
    let (r, s) := if x.t.prepass then prepassOut x r s else (r, s)
    let va := x.t.fr.srec
    let (bs, _, s) := readBytes x.fn x.part (some x.core) va 128 s
    let out := if x.t.prepass then prepassRecord r bs else mergeRecord x r bs
    ({ r with srecSent := true }, writeBytesIn x.fn x.part (some x.core) va out s)

/-- SCALE_RECORD_UPDATE (R140, R143). -/
def execScaleRecordUpdate (core : Nat) (s : State) : Host.Outcome State Fault Refusal := .next (onRun core recordUpdate s)

/-! ## TASK_RETIRE -/

/-- The frames of a SWAP task whose shadows must be READY (R194). -/
def swapFramesOf (x : TaskCtx) (s : State) : List Nat :=
  if x.t.isSwap then taskFrames s x.fn x.core x.t x.trips else []

def swapsReady (x : TaskCtx) (s : State) : Bool :=
  (swapFramesOf x s).all (fun lf => match s.frame? x.fn lf with
    | none => true
    | some f => f.shadow.any (fun sh => sh.state == .ready && !sh.host))

/-- The task may retire. -/
def mayRetire (x : TaskCtx) (r : Run) (s : State) : Bool :=
  r.finished && r.remote == [] && steered r r.base && (!x.t.scaled || r.srecSent) && swapsReady x s

/-- The output's Tensor Header (R132). -/
def writeHeader (x : TaskCtx) (r : Run) (s : State) : Run × State :=
  if !x.t.hasO || x.t.fr.oHdr = 0 then (r, s)
  else
    let sg : Word := if x.t.scaled then r.sigma.val else 0x3F800000
    let fl := if x.t.prepass then 2 else if x.t.history then bit01 r.adapted else 0
    putBytes x x.t.fr.oHdr (leB sg.toNat 4 ++ leB (if x.t.scaled then r.srStep else 0) 4 ++ leB x.t.oFmt 1 ++
      leB x.t.fr.oZp 1 ++ leB fl 1) r s

/-- The smallest ROWS for what a macro holds: the positions of a sparse frame, zero weights included, the nonzero weights of a dense
one (R159). -/
def extNow (m : Mac) (w : Nat) (sparse : Bool) : Nat :=
  if sparse then ceilDiv (maxSlot (macSlots m w 64)) 8 else extOf (nzSlots w (denseOf m w false))

/-- DENSITY and ROWS of a page after a write: over the weights of its dense frame where it has one, and the positions of its frames
(R159, R518). -/
def writtenHdr (x : TaskCtx) (core : Nat) (forceDense : Bool) (macs : List (Nat × Bool)) (s : State) : PageHdr :=
  let w := x.t.fr.wFmt
  let at_ (y : Nat × Bool) : Mac := s.macAt (s.physMac core y.1)
  let weights := ((macs.find? (fun y => !y.2)).orElse (fun _ => macs.head?)).map (fun y => denseOf (at_ y) w y.2)
  let dense := weights.getD []
  { denseHdr w (nnzOf w dense) [] forceDense with ext := macs.foldl (fun e y => max e (extNow (at_ y) w y.2)) 0 }

/-- The header fields of a frame that a task has written (R290, R518). -/
def noteWritten (x : TaskCtx) (lf : Nat) (s : State) : State :=
  match s.frame? x.fn lf with
  | none => s
  | some f =>
    if f.shadow.isNone && f.mac.isNone then s
    else
      let h := writtenHdr x f.core f.forceDense (writeMacs f) s
      match f.shadow.filter (fun sh => !sh.host) with
      | some sh => s.setFrame x.fn lf { f with shadow := some { sh with hdr := [x.t.fr.wFmt, h.density, h.ext, 0, bit01 f.forceDense, 0] } }
      | none => s.setFrame x.fn lf { f.withHdr h with dirty := true }

/-- The density hint of a packed-grouping task, written to its DENS_HINT as it retires (R66). -/
def writeHint (x : TaskCtx) (r : Run) (s : State) : State :=
  if x.t.isCount && x.t.packed then
    writeBytesIn x.fn x.part none (x.t.opndVa + 0x3A) [BitVec.ofNat 8 (0x80 + min 64 r.density)] s
  else s

/-- 0x020A once for a task with poisoned elements, in the execution's completion too (R111). -/
def notePoison (x : TaskCtx) (r : Run) (s : State) : State :=
  if r.poisonedN = 0 then s
  else
    let s := raise { EventRec.mk' 0x020A with
      part := some x.part, fn := some x.fn, task := some x.i, tick := some (s.part x.part).tick, unit := some x.core,
      info := some (min 65535 r.poisonedN) } s
    match s.exec? x.id with
    | none => s
    | some e => setExec { e with poisoned := e.poisoned + 1 } s

/-- Count slots the task has used (Table 8-7, R69, R172); a COPY runs at its budgeting rate (log entry 20). -/
def usedSlots (x : TaskCtx) (r : Run) : Nat :=
  16 + (if x.t.fr.t0 != 0 || x.t.fr.t1 != 0 then 2 else 0) + r.base + r.steered +
    (r.retries.map (·.2)).foldl max 0 + r.slots + (if x.t.prepass then ceilDiv (x.bm * x.bn) 512 else 0) +
    (if x.t.isCopy then copyCost { id := x.i, t := x.t, core := x.core, trips := x.trips, bm := x.bm, bn := x.bn, bk := x.bk, frames := [] }
     else 0)

/-- The core is free for its next task: in the overflow region paused work resumes first. -/
def freeCore (c used : Nat) (s : State) : State :=
  let k := s.core c
  let k := { k with run := none, consumed := k.consumed + used, glideFrom := none }
  s.setCore c (if k.window.isNone then openOverflow s (s.coreFns c) k else k)

def retireTask (x : TaskCtx) (r : Run) (s : State) : State :=
  let s := r.wrote.foldl (fun s lf => noteWritten x lf s) s
  let s := notePoison x r (writeHint x r s)
  let s := match s.exec? x.id with
    | none => s
    | some e => setExec { e with retired := e.retired ++ [x.i],
                                 swapsDue := e.swapsDue ++ (swapFramesOf x s).map (fun lf => (lf, x.t.shadowKeep)) } s
  freeCore x.core (usedSlots x r) s

/-- TASK_RETIRE (R111, R132, R261). -/
def taskRetireEffect (c : Nat) (s : State) : State :=
  if !s.coreTicks c then s
  else
    match (s.core c).run with
    | none => s
    | some r =>
      match s.taskCtx c r with
      | none => s
      | some x =>
        if !mayRetire x r s then s
        else
          -- a header on another module has to be acknowledged first (R330)
          let (r', s) := if r.hdrSent then (r, s) else writeHeader x { r with hdrSent := true } s
          if r'.remote = [] then retireTask x r' s else setRun c r' s

/-- TASK_RETIRE (R261). -/
def execTaskRetire (core : Nat) (s : State) : Host.Outcome State Fault Refusal := .next (taskRetireEffect core s)

end Sys2Proof.Machine
end

