-- ==== Sys2Proof/Machine/Writes.lean ====
section
/-!
DEFINITION. Row writes and read-back of write tasks (R49, R178, R184-R186), the read-out of a frame (R190, R290) and refresh
(R75-R80): the meanings of FULL_ROW_WRITE, MASKED_ROW_WRITE, READ_BACK, FRAME_READ_OUT, REFRESH_SLOT, URGENT_REFRESH and
RETENTION_LOST.
-/

namespace Sys2Proof.Machine

open Sys2Proof

/-! ## Row writes -/

/-- The write under way on a macro of the core and its place. -/
def Run.writeOf (r : Run) (mac : Nat) : Option (Nat × WriteRun) :=
  match r.writes.findIdx? (fun w => w.mac == mac) with
  | none => none
  | some k => (r.writes[k]?).map (fun w => (k, w))

def replaceWrite (k : Nat) (w : WriteRun) (r : Run) : Run := { r with writes := r.writes.set k w }

def markPoison (row : Nat) (bad : Bool) (m : Mac) : Mac := if bad then poisonRows m [row] else m

/-- A masked row write (R184): the lanes take their new bits, every other column the bits sensed, the reference columns
those of Table 2-5. -/
def maskedWrite (m : Mac) (now : Nat) (flips : List CellFlip) (q : WRow) : Mac :=
  let sensed := refreshRow m now flips q.row |>.1
  let old := dataOf sensed q.row
  -- the columns of the lanes not written keep theirs
  let data := (old &&& ((2 ^ 256 - 1) ^^^ q.mask)) ||| (q.bits &&& q.mask)
  { sensed with rows := tputD (rowWithRefs q.row 0) sensed.rows q.row (rowWithRefs q.row (placeRow sensed data)) }

/-- The next row of the write on a macro, where it takes the form `full`. -/
def rowWrite (full : Bool) (mac : Nat) (flips : List CellFlip) (x : TaskCtx) (r : Run) (s : State) : Run × State :=
  match r.writeOf mac with
  | none => (r, s)
  | some (k, w) =>
    match w.todo with
    | [] => (r, s)
    | q :: rest =>
      if q.full != full || s.fenced (s.physMac x.core mac) then (r, s)
      else
        let (v, s) := resultBits 4 q.bits (noteWork 4 (dieOfCore x.core) x.fn 1 s)
        let q := { q with bits := v }
        let pm := s.physMac x.core mac
        let s := restartEvac pm s
        let m := s.macAt pm
        let m := if full then writeRow m s.tick.st q.row q.bits else maskedWrite m s.tick.st flips q
        (replaceWrite k { w with todo := rest, written := w.written ++ [q] } r, s.setMac pm (markPoison q.row q.poison m))

/-- FULL_ROW_WRITE (R49, R184, R185). -/
def execFullRowWrite (core mac : Nat) (s : State) : Host.Outcome State Fault Refusal :=
  .next (onRun core (rowWrite true mac []) s)

/-- MASKED_ROW_WRITE (R184). -/
def execMaskedRowWrite (core mac : Nat) (flips : List CellFlip) (s : State) : Host.Outcome State Fault Refusal :=
  .next (onRun core (rowWrite false mac flips) s)

/-! ## Read-back (R186, R192) -/

/-- Rows of a write that a reading-back finds other than they were written. -/
def mismatched (m : Mac) (w : WriteRun) (flips : List CellFlip) : List Nat :=
  (w.written.filter (fun q => flips.any (fun f => f.row == q.row &&
    (match logCol m f.col with
     | some c => q.full || bitOf q.mask c
     | none => false)))).map (·.row)

/-- Rows that a mismatch concerns: those of the data block in a full-page write of a dense frame. -/
def poisonedBy (w : WriteRun) (rows : List Nat) : List Nat :=
  if w.page && !w.sparse then (rows.flatMap (fun r => (List.range 8).map (fun i => r / 8 * 8 + i))).eraseDups else rows

/-- A frame after a write of rows of it has been read back: EMPTY and, after a full page, LOST become RESIDENT; the rows
count toward the shadow's READY. -/
def frameWritten (x : TaskCtx) (w : WriteRun) (s : State) : State :=
  match s.frame? x.fn w.frame with
  | none => s
  | some f =>
    match f.shadow with
    | some sh =>
      if sh.host then s
      else
        let rest := fun (l : List Nat) => l.filter (fun r => !(w.written.any (fun q => q.row == r)))
        let left := if sh.mac = w.mac then rest sh.left else sh.left
        let compLeft := if sh.compMac = some w.mac then rest sh.compLeft else sh.compLeft
        s.setFrame x.fn w.frame { f with shadow := some { sh with left := left, compLeft := compLeft,
                                                                  state := shadowState left compLeft (s.shadowRecal f.core sh.mac sh.compMac) } }
    | none =>
      let st : FrameState := if f.state = .empty ∨ (f.state = .lost ∧ w.page) then .resident else f.state
      s.setFrame x.fn w.frame { f with state := st, wFmt := x.t.fr.wFmt, dirty := true }

/-- Rewrite rows of a write as they were written (R186). -/
def rewriteRows (w : WriteRun) (rows : List Nat) (now : Nat) (m : Mac) : Mac :=
  (w.written.filter (fun q => rows.contains q.row)).foldl (fun m q =>
    markPoison q.row q.poison (if q.full then writeRow m now q.row q.bits else maskedWrite m now [] q)) m

/-- READ_BACK: `first` and `second` are the cells that sense otherwise in the two readings; the rows that the first finds wrong are
rewritten once, and those that the second finds wrong again are poisoned. -/
def readBack (mac : Nat) (first second : List CellFlip) (x : TaskCtx) (r : Run) (s : State) : Run × State :=
  match r.writeOf mac with
  | none => (r, s)
  | some (k, w) =>
    if w.todo ≠ [] ∨ w.done ∨ s.fenced (s.physMac x.core mac) then (r, s)
    else
      let pm := s.physMac x.core mac
      let m := s.macAt pm
      let again := poisonedBy w (mismatched m w first)
      let m := rewriteRows w again s.tick.st m
      let s := noteWork 4 (dieOfCore x.core) x.fn again.length s
      let bad := (poisonedBy w (mismatched m w second)).filter again.contains
      let m := poisonRows m bad
      let m := if w.page then { m with suspect := [] } else m
      let s := s.setMac pm m
      let s := setChecks pm (denseOf m x.t.fr.wFmt w.sparse) s
      let s := if bad = [] then s
        else raiseMem 0x0302 x.fn (dieOfCore x.core) (some x.core) none 0 (addMmuStat x.fn 47 32 1 s)
      (replaceWrite k { w with done := true } r, frameWritten x w s)

/-- READ_BACK (R186). -/
def execReadBack (core mac : Nat) (first second : List CellFlip) (s : State) : Host.Outcome State Fault Refusal :=
  .next (onRun core (readBack mac first second) s)

/-! ## FRAME_READ_OUT (R190, R290) -/

/-- The victim of the core's page-out is read out into its image area; PAGE_OUT then releases its macros. -/
def frameReadOut (core : Nat) (flips : List CellFlip) (s : State) : State :=
  match (tgetD s.fm.paging core []).find? (fun p => p.out) with
  | none => s
  | some p =>
    match s.frame? p.fn p.frame with
    | none => s
    | some f => if f.dirty && !s.frameFenced p.fn p.frame && s.imageOk p.fn f.backVa 33024 then pageOutImage p.fn p.frame f flips s else s

/-- FRAME_READ_OUT (R190). -/
def execFrameReadOut (core : Nat) (flips : List CellFlip) (s : State) : Host.Outcome State Fault Refusal :=
  .next (frameReadOut core flips s)

/-! ## Refresh (R75-R80) -/

/-- The frame that holds a physical macro. -/
def State.frameOfMac (s : State) (pm : Nat) : Option (Nat × Nat × Frame) :=
  (s.fm.frames.find? (fun e => e.2.macsHeld.any (fun m => s.physMac e.2.core m == pm))).map (fun e =>
    (e.1 / 2 ^ 21, e.1 % 2 ^ 21, e.2))

/-- A record of a physical macro for the function whose frame it holds. -/
def raiseMacro (code pm : Nat) (seg : Option Nat) (info : Nat) (s : State) : State :=
  match s.logMac pm with
  | none => s
  | some (c, lm) =>
    raise { EventRec.mk' code with
      part := s.macPart pm, fn := (s.frameOfMac pm).map (·.1), seg := seg,
      tick := (s.macPart pm).map (fun p => (s.part p).tick), unit := some (macNo c lm), info := some info } s

/-- The age of a row in ST units. -/
def rowAge (m : Mac) (now r : Nat) : Nat := now - tgetD m.age r now

/-- A refresh of rows of a macro: contents written back, ages noted for MNT_REFRESH_STATUS, a wrong reference bit flags
its segment with 0x0208 (Table 2-9). -/
def refreshRows (pm : Nat) (rows : List Nat) (flips : List CellFlip) (s : State) : State :=
  let now := s.tick.st
  let m := s.macAt pm
  let oldest := rows.foldl (fun a r => max a (rowAge m now r / 16000)) 0
  let q := rows.foldl (fun (a : Mac × List Nat) r =>
    let (m, bad) := refreshRow a.1 now flips r
    (m, if bad then a.2 ++ [r / 64] else a.2)) (m, ([] : List Nat))
  let d := dieOfPhysMac pm
  let s := (s.setMac pm { q.1 with flagged := q.2.foldl (fun l g => insertSorted g l) q.1.flagged })
  let s := { s with mnt := { s.mnt with maxAge := tput s.mnt.maxAge d (max (tgetD s.mnt.maxAge d 0) (min 0xFFFF oldest)) } }
  q.2.eraseDups.foldl (fun s g => requestDiag pm (raiseMacro 0x0208 pm (some g) 0 s)) s

/-- Physical macros of the module. -/
def physMacCount : Nat := 4 * 34 * 17 * 66

/-- REFRESH_SLOT (R76): one row of each segment, the segment-row index next in the pass. -/
def refreshSlotEffect (pm : Nat) (flips : List CellFlip) (s : State) : State :=
  if !(pm < physMacCount && s.life.diesUp) then s
  else
    let i := (s.macAt pm).refreshAt
    let s := refreshRows pm ((List.range 16).map (fun g => 64 * g + i)) flips s
    s.setMac pm { s.macAt pm with refreshAt := (i + 1) % 64 }

/-- REFRESH_SLOT (R76). -/
def execRefreshSlot (mac : Nat) (flips : List CellFlip) (s : State) : Host.Outcome State Fault Refusal :=
  .next (refreshSlotEffect mac flips s)

/-- The refresh interval of a die in ST units: 48 µs while HOT, else 96 µs (R75). -/
def State.refreshInterval (s : State) (d : Nat) : Nat := if (s.pdie d).hot then 768000 else 1536000

/-- URGENT_REFRESH (R78): a row of a macro that holds a frame reaches its interval. -/
def urgentRefreshEffect (pm row : Nat) (flips : List CellFlip) (s : State) : State :=
  match tget (s.macAt pm).age row, s.frameOfMac pm, s.logMac pm with
  | some at_, some _, some (c, lm) =>
    let d := dieOfPhysMac pm
    let s := advanceTo (at_ + s.refreshInterval d) s
    let age := rowAge (s.macAt pm) s.tick.st row / 16000
    let s := refreshRows pm [row] flips s
    let s := { s with mnt := { s.mnt with urgent := tput s.mnt.urgent d (satAdd 255 (tgetD s.mnt.urgent d 0) 1) } }
    raiseOncePer msSt pm { EventRec.mk' 0x0206 with
      part := s.macPart pm, fn := (s.frameOfMac pm).map (·.1), tick := (s.macPart pm).map (fun p => (s.part p).tick),
      seg := some (row / 64), unit := some (macNo c lm), info := some age } ((s.frameOfMac pm).map (·.1)).toList s
  | _, _, _ => s

/-- URGENT_REFRESH (R78). -/
def execUrgentRefresh (mac row : Nat) (flips : List CellFlip) (s : State) : Host.Outcome State Fault Refusal :=
  .next (urgentRefreshEffect mac row flips s)

/-- Counts under way on a macro that has lost retention contribute poison: every partial of their jobs is poisoned (R110). -/
def poisonJobs (fn core : Nat) (ms : List Nat) (pm : Nat) (s : State) : State :=
  let hit (r : Run) : Run := { r with jobs := r.jobs.map (fun j =>
    if ms.contains j.mac && s.physMac core j.mac == pm then { j with bad := List.range 1024 } else j) }
  let mine (r : Run) : Bool := (s.exec? r.exec).any (fun e => e.ticket.fn == fn)
  let k := s.core core
  if (k.run.toList ++ k.paused).any mine then
    s.setCore core { k with run := k.run.map (fun r => if mine r then hit r else r),
                            paused := k.paused.map (fun r => if mine r then hit r else r) }
  else s

/-- RETENTION_LOST (R78): a row's age exceeds twice its interval; the frame is LOST. -/
def retentionLostEffect (pm row : Nat) (s : State) : State :=
  match tget (s.macAt pm).age row, s.frameOfMac pm with
  | some at_, some (fn, lf, f) =>
    let s := advanceTo (at_ + 2 * s.refreshInterval (dieOfPhysMac pm) + 1) s
    let st : FrameState := match f.state with
      | .empty => .lost
      | .resident => .lost
      | x => x
    -- a shadow whose retention is lost carries its rows poisoned to the swap
    let own := (f.mac.toList ++ f.companion.toList).any (fun m => s.physMac f.core m == pm)
    let s := if own then s.setFrame fn lf { f with state := st }
      else s.setMac pm (poisonRows (s.macAt pm) (List.range 1024))
    let s := poisonJobs fn f.core (f.mac.toList ++ f.companion.toList) pm s
    raiseMacro 0x0207 pm (some (row / 64)) lf s
  | _, _ => s

/-- RETENTION_LOST (R78). -/
def execRetentionLost (mac row : Nat) (s : State) : Host.Outcome State Fault Refusal := .next (retentionLostEffect mac row s)

end Sys2Proof.Machine
end

