-- ==== Sys2Proof/Machine/OdTable.lean ====
section
/-!
DEFINITION. The entries of the object dictionary (R451-R454, R479-R481 and the object tables of chapters 10 to 15): type,
access, persistence, range, default, and whether a die holds them.
-/

namespace Sys2Proof.Machine

open Sys2Proof

/-! ## Types and access (Table 15-1, R454) -/

inductive OdType where
  | bool
  | uint (n : Nat)
  | sint (n : Nat)
  | f32
  | octets (n : Nat)
  | vstring (n : Nat)
  | domain (max : Nat)
  deriving DecidableEq, Repr

inductive OdAcc where
  | const | ro | rw | wo | rwh
  deriving DecidableEq, Repr

structure OdEnt where
  ty      : OdType
  acc     : OdAcc
  persist : Bool
  range   : Option (Int × Int)
  clamps  : Bool
  dieHeld : Bool
  dflt    : List Byte
  deriving DecidableEq, Repr

/-- Type codes of Table 15-1. -/
def OdType.code : OdType → Nat
  | .bool => 0x01
  | .uint 1 => 0x02
  | .uint 2 => 0x03
  | .uint 4 => 0x04
  | .uint _ => 0x05
  | .sint 1 => 0x06
  | .sint 2 => 0x07
  | .sint 4 => 0x08
  | .sint _ => 0x09
  | .f32 => 0x0A
  | .octets _ => 0x0B
  | .vstring _ => 0x0C
  | .domain _ => 0x0D

def OdAcc.code : OdAcc → Nat
  | .const => 0
  | .ro => 1
  | .rw => 2
  | .wo => 3
  | .rwh => 4

/-- Length, or MAX_LENGTH. -/
def OdType.len : OdType → Nat
  | .bool => 1
  | .uint n => n
  | .sint n => n
  | .f32 => 4
  | .octets n => n
  | .vstring n => n
  | .domain n => n

/-- A length legal for the type (R457). -/
def OdType.lenOk (t : OdType) (bs : List Byte) : Bool :=
  match t with
  | .vstring n => bs.length ≤ n && bs.all (fun b => 0x20 ≤ b.toNat && b.toNat ≤ 0x7E)
  | .domain n => bs.length ≤ n
  | t => bs.length == t.len

/-- A value as a number. -/
def OdType.num (t : OdType) (bs : List Byte) : Int :=
  match t with
  | .sint n => signed (8 * n) (ofLE bs)
  | _ => ofLE bs

/-- A value within its range; a BOOL is 0 or 1. -/
def OdEnt.inRange (e : OdEnt) (bs : List Byte) : Bool :=
  (match e.ty with
   | .bool => ofLE bs ≤ 1
   | _ => true) &&
  (match e.range with
   | none => true
   | some (lo, hi) => decide (lo ≤ e.ty.num bs) && decide (e.ty.num bs ≤ hi))

/-! ## Makers -/

def mkEnt (ty : OdType) (acc : OdAcc) (dflt : List Byte) : OdEnt :=
  { ty := ty, acc := acc, persist := false, range := none, clamps := false, dieHeld := false, dflt := dflt }

def OdEnt.pers (e : OdEnt) : OdEnt := { e with persist := true }
def OdEnt.held (e : OdEnt) : OdEnt := { e with dieHeld := true }
def OdEnt.within (e : OdEnt) (lo hi : Int) : OdEnt := { e with range := some (lo, hi) }

def constU (n v : Nat) : OdEnt := mkEnt (.uint n) .const (leB v n)
def roU (n v : Nat) : OdEnt := mkEnt (.uint n) .ro (leB v n)
def rwU (n v : Nat) : OdEnt := mkEnt (.uint n) .rw (leB v n)
def rwhU (n v : Nat) : OdEnt := mkEnt (.uint n) .rwh (leB v n)
def boolE (acc : OdAcc) (v : Nat) : OdEnt := mkEnt .bool acc (leB v 1)
def roBytes (ty : OdType) (bs : List Byte) : OdEnt := mkEnt ty .ro bs
def asciiB (s : String) : List Byte := s.toList.map (fun c => BitVec.ofNat 8 c.toNat)
def strE (n : Nat) (s : String) : OdEnt := mkEnt (.vstring n) .const (asciiB s)
def odMax : Nat := 65536

/-! ## Identity, transports (chapter 15) -/

/-- The default MAC of the Plant Port: 02 4E 4D, then UID bytes 0-2. -/
def defaultMac : List Byte := [0x02, 0x4E, 0x4D] ++ leB (Config.uid.toNat % 2 ^ 24) 3

def ents10 (index sub : Nat) : Option OdEnt :=
  match index, sub with
  | 0x1000, 0x00 => some (constU 1 0x0C)
  | 0x1000, 0x01 => some (strE 32 "Otgova Semiconductor")
  | 0x1000, 0x02 => some (strE 16 "Nimdor")
  | 0x1000, 0x03 => some (strE 16 "NM3600")
  | 0x1000, 0x04 => some (roBytes (.vstring 32) Config.partNumber)
  | 0x1000, 0x05 => some (roBytes (.vstring 16) Config.serial)
  | 0x1000, 0x06 => some (roU 4 Config.mfgDate.toNat)
  | 0x1000, 0x07 => some (constU 1 0x42)
  | 0x1000, 0x08 => some (roBytes (.domain odMax) [0xB1, 0xB1, 0xB1, 0xB1])
  | 0x1000, 0x09 => some (constU 2 0x1D7A)
  | 0x1000, 0x0A => some (constU 2 0x3600)
  | 0x1000, 0x0B => some (constU 2 0x3601)
  | 0x1000, 0x0C => some (roBytes (.octets 16) (leB Config.uid.toNat 16))
  | 0x1001, 0x00 => some (constU 1 0x09)
  | 0x1001, 0x01 => some (roU 1 4)
  | 0x1001, 0x02 => some (roBytes (.vstring 32) [])
  | 0x1001, 0x03 => some (roBytes (.vstring 16) Config.bootRomVersion)
  | 0x1001, 0x04 => some (roU 1 4)
  | 0x1001, 0x05 => some (roU 1 1)
  | 0x1001, 0x06 => some (roU 1 4)
  | 0x1001, 0x07 => some (roU 1 3)
  | 0x1001, 0x08 => some (constU 2 1)
  | 0x1001, 0x09 => some (roBytes (.octets 48) (leB Config.coreFwDigest.toNat 48))
  | 0x1002, 0x00 => some (constU 1 0x0B)
  | 0x1002, 0x01 => some (constU 2 128)
  | 0x1002, 0x02 => some (constU 2 2048)
  | 0x1002, 0x03 => some (constU 4 131072)
  | 0x1002, 0x04 => some (constU 4 32768)
  | 0x1002, 0x05 => some (constU 1 8)
  | 0x1002, 0x06 => some (constU 2 384)
  | 0x1002, 0x07 => some (constU 2 360)
  | 0x1002, 0x08 => some (constU 1 36)
  | 0x1002, 0x09 => some (constU 2 512)
  | 0x1002, 0x0A => some (constU 2 16384)
  | 0x1002, 0x0B => some (constU 2 4096)
  | 0x1003, 0x00 => some (constU 1 0x02)
  | 0x1003, 0x01 => some (roBytes (.domain odMax) Config.hbmId)
  | 0x1003, 0x02 => some (roBytes (.domain odMax) Config.regFw)
  | _, _ => none

def ents11 (index sub : Nat) : Option OdEnt :=
  match index, sub with
  | 0x1100, 0x00 => some (constU 1 0x0A)
  | 0x1100, 0x01 => some (constU 4 2097152)
  | 0x1100, 0x02 => some (roU 4 0)
  | 0x1100, 0x03 => some (roU 4 0).pers
  | 0x1100, 0x04 => some (roU 8 0).pers
  | 0x1100, 0x05 => some (roU 1 0)
  | 0x1100, 0x06 => some (roU 4 0).pers
  | 0x1100, 0x07 => some (mkEnt (.uint 1) .wo [])
  | 0x1100, 0x08 => some (roBytes (.octets 8) (List.replicate 8 0))
  | 0x1100, 0x09 => some (roU 8 0)
  | 0x1100, 0x0A => some (roU 8 0)
  | 0x1101, 0x00 => some (constU 1 0x04)
  | 0x1101, 0x01 => some (constU 1 4)
  | 0x1101, 0x02 => some (constU 4 1048576)
  | 0x1101, 0x03 => some (constU 4 4096)
  | 0x1101, 0x04 => some (roU 4 0)
  | 0x1102, 0x00 => some (constU 1 0x07)
  | 0x1102, 0x01 => some (roU 1 0)
  | 0x1102, 0x02 => some (roU 1 0)
  | 0x1102, 0x03 => some (roBytes (.octets 6) (leB Config.i3cPid.toNat 6))
  | 0x1102, 0x04 => some (constU 2 1024)
  | 0x1102, 0x05 => some (constU 2 1)
  | 0x1102, 0x06 => some (roU 8 0)
  | 0x1102, 0x07 => some (roU 4 0)
  | 0x1103, 0x00 => some (constU 1 0x0F)
  | 0x1103, 0x01 => some ((rwU 1 1).pers.within 0 2)
  | 0x1103, 0x02 => some (mkEnt (.octets 6) .rwh defaultMac).pers
  | 0x1103, 0x03 => some ((rwhU 2 0x88B5).pers.within 0x0600 0xFFFF)
  | 0x1103, 0x04 => some (rwhU 1 0xFF).pers
  | 0x1103, 0x05 => some ((rwhU 1 9).pers.within 2 255)
  | 0x1103, 0x06 => some ((rwhU 1 0x20).pers.within 1 255)
  | 0x1103, 0x07 => some (mkEnt (.octets 32) .wo (List.replicate 32 0)).pers
  | 0x1103, 0x08 => some (mkEnt (.octets 32) .wo (List.replicate 32 0)).pers
  | 0x1103, 0x09 => some (roU 1 0).pers
  | 0x1103, 0x0A => some ((mkEnt (.uint 1) .wo []).within 0 1)
  | 0x1103, 0x0B => some (roBytes (.domain odMax) (List.replicate 8 0))
  | 0x1103, 0x0C => some ((rwU 1 50).pers.within 1 200)
  | 0x1103, 0x0D => some (roU 4 0)
  | 0x1103, 0x0E => some (roU 8 0)
  | 0x1103, 0x0F => some (roU 1 0)
  | _, _ => none

/-! ## Module state, journal (Tables 14-11, 14-12) -/

def ents12 (index sub : Nat) : Option OdEnt :=
  match index, sub with
  | 0x1200, 0x00 => some (constU 1 0x0D)
  | 0x1200, 0x01 => some (roU 1 0)
  | 0x1200, 0x02 => some (roU 1 0)
  | 0x1200, 0x03 => some (roU 2 0)
  | 0x1200, 0x04 => some (roU 4 0)
  | 0x1200, 0x05 => some (boolE .wo 0)
  | 0x1200, 0x06 => some (boolE .rw 0).pers
  | 0x1200, 0x07 => some ((mkEnt (.uint 1) .wo []).within 0xA5 0xA5)
  | 0x1200, 0x08 => some (boolE .wo 0)
  | 0x1200, 0x09 => some (boolE .wo 0)
  | 0x1200, 0x0A => some ((rwU 2 10000).pers.within 0 60000)
  | 0x1200, 0x0B => some (roU 4 0)
  | 0x1200, 0x0C => some (roBytes (.domain odMax) []).pers
  | 0x1200, 0x0D => some (boolE .rw 0).pers
  | 0x1201, 0x00 => some (constU 1 0x06)
  | 0x1201, 0x01 => some (constU 2 8192)
  | 0x1201, 0x02 => some (roU 4 0).pers
  | 0x1201, 0x03 => some (roU 2 0).pers
  | 0x1201, 0x04 => some (rwU 4 0)
  | 0x1201, 0x05 => some (roBytes (.domain odMax) [])
  | 0x1201, 0x06 => some (boolE .wo 0)
  | _, _ => none

/-! ## Calibration (Table 13-14) -/

def ents20 (index sub : Nat) : Option OdEnt :=
  let fac := roBytes (.domain odMax) (Config.factoryObject index sub)
  if index = 0x2000 then
    match sub with
    | 0x00 => some (constU 1 0x02)
    | 0x01 => some (roU 2 1).pers
    | 0x02 => some (roBytes (.domain odMax) (Config.factoryObject 0x2000 0x02)).pers
    | _ => none
  else if 0x2010 ≤ index ∧ index < 0x2010 + 136 then
    if sub = 0 then some (constU 1 0x11) else if sub ≤ 0x11 then some fac.pers else none
  else if 0x2100 ≤ index ∧ index < 0x2100 + 36 then
    if sub = 0 then some (constU 1 0x01) else if sub = 1 then some fac.pers else none
  else if index = 0x2200 then
    if sub = 0 then some (constU 1 0x01) else if sub = 1 then some fac.pers else none
  else if index = 0x2800 then
    match sub with
    | 0x00 => some (constU 1 0x03)
    | 0x01 => some { ((mkEnt (.sint 1) .rw [0]).pers.within (-6) 6).held with clamps := true }
    | 0x02 => some { (mkEnt (.domain 72) .rw (List.replicate 72 0)).pers.held with clamps := true }
    | 0x03 => some (boolE .ro 0).pers
    | _ => none
  else if 0x2900 ≤ index ∧ index < 0x2900 + 36 then
    match sub with
    | 0x00 => some (constU 1 0x01)
    | 0x01 => some { (mkEnt (.domain 20) .rw (List.replicate 20 0)).pers.held with clamps := true }
    | _ => none
  else none

/-! ## Power and thermal (Tables 12-13 to 12-17) -/

def ents30 (index sub : Nat) : Option OdEnt :=
  if index = 0x3000 then
    (match sub with
     | 0x01 => some ((rwU 2 1800).pers.within 200 1800)
     | 0x02 => some ((rwU 1 0).pers.within 0 2)
     | 0x03 => some (rwU 2 1800)
     | 0x04 => some ((rwU 2 100).within 1 300)
     | 0x05 => some (rwU 2 0).pers
     | 0x06 => some (roU 2 0)
     | 0x07 => some (roU 2 0)
     | 0x08 => some (roU 2 0)
     | 0x09 => some (roU 2 0)
     | 0x0A => some (roU 1 0)
     | 0x0B => some ((rwU 1 0).pers.within 0 15)
     | 0x0C => some ((rwU 2 2200).pers.within 800 2200)
     | 0x0D => some (rwU 2 50)
     | 0x0E => some (mkEnt .f32 .ro (leB 0x3F800000 4))
     | 0x0F => some (roU 8 0)
     | 0x10 => some (roU 8 0)
     | _ => none).map OdEnt.held <|> (if sub = 0 then some (constU 1 0x10) else none)
  else if index = 0x3001 then
    match sub with
    | 0x00 => some (constU 1 0x02)
    | 0x01 => some (mkEnt (.octets 8) .wo []).held
    | 0x02 => some (roU 8 0).held
    | _ => none
  else if index = 0x3002 then
    if sub = 0 then some (constU 1 0x09)
    else if sub ≤ 0x09 then some (mkEnt .f32 .ro (Config.factoryObject 0x3002 sub)) else none
  else if index = 0x3003 then
    if sub = 0 then some (constU 1 0x01)
    else if sub = 1 then some (roBytes (.domain odMax) (Config.factoryObject 0x3003 1)) else none
  else if 0x3010 ≤ index ∧ index ≤ 0x301C then
    (match sub with
     | 0x00 => some (constU 1 0x06)
     | 0x01 => some (roU 2 0)
     | 0x02 => some (mkEnt .f32 .ro (leB 0 4))
     | 0x03 => some (mkEnt (.sint 2) .ro (leB 0 2))
     | 0x04 => some (roU 2 0)
     | 0x05 => some (roU 1 0)
     | 0x06 => some (mkEnt .f32 .ro (leB 0 4))
     | _ => none).map (fun (e : OdEnt) => if sub != 0 && index ≤ 0x3013 then e.held else e)
  else if 0x3040 ≤ index ∧ index < 0x3050 then
    match sub with
    | 0x00 => some (constU 1 0x04)
    | 0x01 => some (boolE .rw 0).held
    | 0x02 => some (rwU 1 0).held
    | 0x03 => some (boolE .ro 0).held
    | 0x04 => some (roU 2 800).held
    | _ => none
  else if index = 0x3100 then
    match sub with
    | 0x00 => some (constU 1 0x07)
    | 0x01 => some ((rwU 1 95).pers.within 80 95).held
    | 0x02 => some (constU 1 110)
    | 0x03 => some (roBytes (.domain odMax) []).held
    | 0x04 => some (roBytes (.domain odMax) []).held
    | 0x05 => some (roU 2 2200).held
    | 0x06 => some (roU 4 0).pers
    | 0x07 => some (roU 8 0).pers
    | _ => none
  else none

/-! ## Links (Tables 11-12 to 11-14) -/

def ents40 (index sub : Nat) : Option OdEnt :=
  if index = 0x4000 then
    match sub with
    | 0x00 => some (constU 1 0x11)
    | 0x01 => some ((rwhU 1 0).pers.within 0 3)
    | 0x02 => some ((rwhU 1 0).pers.within 0 127)
    | 0x03 => some ((rwhU 1 1).pers.within 1 128)
    | 0x04 => some (roU 1 0)
    | 0x05 => some (roU 2 0)
    | 0x06 => some (constU 2 75)
    | 0x07 => some (rwhU 1 0).pers.held
    | 0x08 => some (roU 2 0).held
    | 0x09 => some (roU 1 0xFF).held
    | 0x0A => some (roU 1 0).held
    | 0x0B => some (mkEnt (.sint 4) .ro (leB 0 4)).held
    | 0x0C => some (boolE .ro 0).held
    | 0x0D => some (roU 1 4)
    | 0x0E => some (roU 1 3)
    | 0x0F => some (roU 1 4)
    | 0x10 => some (rwU 4 10000).pers.held
    | 0x11 => some (rwU 4 1000).pers.held
    | _ => none
  else if 0x4010 ≤ index ∧ index < 0x4020 then
    match sub with
    | 0x00 => some (constU 1 0x08)
    | 0x01 => some (rwU 2 0xFFFF).held
    | 0x02 => some ((rwU 2 1).within 1 4096).held
    | 0x03 => some (mkEnt (.domain 8192) .rw []).held
    | 0x04 => some (rwU 8 0).held
    | 0x05 => some (roU 8 0).held
    | 0x06 => some (roU 1 0).held
    | 0x07 => some (roU 1 0).held
    | 0x08 => some (roU 8 0).held
    | _ => none
  else if 0x4040 ≤ index ∧ index < 0x4040 + 36 then
    match sub with
    | 0x00 => some (constU 1 0x0E)
    | 0x01 => some (roU 1 0).held
    | 0x02 => some (roU 1 0).held
    | 0x03 => some (roU 2 0).held
    | 0x04 => some (roU 1 0).held
    | 0x05 => some (roU 1 0).held
    | 0x06 => some (mkEnt .f32 .ro (leB 0 4)).held
    | 0x07 => some (roU 8 0).held
    | 0x08 => some (roU 8 0).held
    | 0x09 => some (roU 8 0).held
    | 0x0A => some (roU 2 0).held
    | 0x0B => some (roBytes (.domain odMax) []).pers
    | 0x0C => some (boolE .ro 0).pers
    | 0x0D => some (boolE .rwh 0).pers
    | 0x0E => some (boolE .wo 0)
    | _ => none
  else none

/-! ## Tenants, spares, firmware, maintenance -/

def ents50 (index sub : Nat) : Option OdEnt :=
  if 0x5000 ≤ index ∧ index < 0x5200 then
    match sub with
    | 0x00 => some (constU 1 0x0D)
    | 0x01 => some (boolE .ro 0).held
    | 0x02 => some ((rwU 1 8).within 1 8).held
    | 0x03 => some (roU 1 0).held
    | 0x04 => some (boolE .ro 0).held
    | 0x05 => some (roU 1 0).held
    | 0x06 => some (roU 4 0).held
    | 0x07 => some (rwU 2 8).held
    | 0x08 => some (roU 2 0).held
    | 0x09 => some ((rwU 2 1000).within 1 65535).held
    | 0x0A => some (roU 4 0).held
    | 0x0B => some (roU 4 0).held
    | 0x0C => some (roU 8 0).held
    | 0x0D => some (roU 2 0).held
    | _ => none
  else none

def ents60 (index sub : Nat) : Option OdEnt :=
  let dom := roBytes (.domain odMax) []
  if index = 0x6000 then
    match sub with
    | 0x00 => some (constU 1 0x0B)
    | 0x01 => some dom.pers
    | 0x02 => some (roU 2 0).pers
    | 0x03 => some (roU 4 0).pers
    | 0x04 => some (roU 4 0).pers
    | 0x05 => some (roU 1 0).pers
    | 0x06 => some dom.pers
    | 0x07 => some dom.pers
    | 0x08 => some (roU 8 0).pers.held
    | 0x09 => some (roU 8 0).pers.held
    | 0x0A => some (roU 4 0).pers.held
    | 0x0B => some (roU 4 0).held
    | _ => none
  else if 0x6010 ≤ index ∧ index < 0x6014 then
    if sub = 0 then some (constU 1 0x02) else if sub ≤ 2 then some dom.pers else none
  else if 0x6020 ≤ index ∧ index < 0x60A0 then
    if sub = 0 then some (constU 1 0x03) else if sub ≤ 3 then some dom.pers else none
  else none

/-- Table 13-10 row by row, THM to LNK: 0 none, 1 macro, 2 core, 3 die, 4 link. -/
def mntMatrix : List Byte :=
  [0, 0, 3, 0, 0, 0, 0, 2, 2, 1, 2, 0, 3, 2, 2, 1, 2, 3, 0, 1, 1, 0, 1, 0, 0, 2, 2, 1, 2, 0, 0, 0, 3, 0, 0, 4]

def ents70 (index sub : Nat) : Option OdEnt :=
  if index = 0x7000 then
    match sub with
    | 0x00 => some (constU 1 0x05)
    | 0x01 => some (roU 1 0)
    | 0x02 => some (roBytes (.octets 16) (List.replicate 16 0))
    | 0x03 => some (roU 2 0).pers
    | 0x04 => some ((mkEnt (.uint 1) .wo []).within 0 1)
    | 0x05 => some (boolE .wo 0)
    | _ => none
  else if index = 0x7010 ∨ index = 0x7011 then
    match sub with
    | 0x00 => some (constU 1 0x09)
    | 0x01 => some (roU 1 0).pers
    | 0x02 => some (roU 1 0)
    | 0x03 => some (roU 2 0)
    | 0x04 => some (roBytes (.vstring 32) [])
    | 0x05 => some ((rwU 4 0).within 1 33554432)
    | 0x06 => some (mkEnt (.domain 33554432) .wo [])
    | 0x07 => some (boolE .wo 0)
    | 0x08 => some (boolE .wo 0)
    | 0x09 => some (roBytes (.octets 48) (List.replicate 48 0))
    | _ => none
  else if index = 0x7100 then
    match sub with
    | 0x00 => some (constU 1 0x06)
    | 0x01 => some ((rwU 2 100).pers.within 10 10000).held
    | 0x02 => some ((rwU 2 1000).pers.within 100 60000).held
    | 0x03 => some ((rwU 1 10).pers.within 2 30).held
    | 0x04 => some ((rwU 1 4).pers.within 1 16).held
    | 0x05 => some (boolE .rw 1).pers.held
    | 0x06 => some ((rwU 2 64).pers.within 32 1024).held
    | _ => none
  else if index = 0x7101 then
    match sub with
    | 0x00 => some (constU 1 0x01)
    | 0x01 => some (mkEnt (.domain odMax) .const mntMatrix)
    | _ => none
  else if index = 0x7102 then
    match sub with
    | 0x00 => some (constU 1 0x01)
    | 0x01 => some (mkEnt (.octets 8) .wo []).held
    | _ => none
  else if index = 0x7103 then
    match sub with
    | 0x00 => some (constU 1 0x01)
    | 0x01 => some (roBytes (.octets 16) (List.replicate 16 0)).held
    | _ => none
  else none

/-- An entry of the dictionary; `none` where it does not exist (R481). -/
def odEnt (index sub : Nat) : Option OdEnt :=
  match index / 0x1000 with
  | 1 => if index < 0x1100 then ents10 index sub else if index < 0x1200 then ents11 index sub else ents12 index sub
  | 2 => ents20 index sub
  | 3 => ents30 index sub
  | 4 => ents40 index sub
  | 5 => ents50 index sub
  | 6 => ents60 index sub
  | 7 => ents70 index sub
  | _ => none

/-- The index exists. -/
def odIndex (index : Nat) : Bool := (odEnt index 0).isSome

/-- The current value of an entry that is written, its default where nothing has written it. -/
def State.odCur (s : State) (index sub : Nat) : List Byte :=
  match tget s.od.vals (odKey index sub) with
  | some v => v
  | none => match odEnt index sub with
    | some e => e.dflt
    | none => []

/-! ## Values the device keeps in the dictionary -/

/-- Set the current value of an entry. -/
def setOd (index sub : Nat) (v : List Byte) (s : State) : State :=
  { s with od := { s.od with vals := tput s.od.vals (odKey index sub) v } }

/-- Saved link settings and the peer they belong to (R338, R339). -/
def State.linkSaved (s : State) (l : Nat) : Bool := ofLE (s.odCur (0x4040 + l) 0x0C) == 1
def State.hbmSavedValid (s : State) : Bool := ofLE (s.odCur 0x1200 0x0D) == 1

/-- KEY_VALID, and the persistent ceiling HI of a key slot, an entry of the PTC's own beside the tabulated ones. -/
def State.keyValid (s : State) (k : Nat) : Bool := bitOf (ofLE (s.odCur 0x1103 0x09)) k
def hiKey (k : Nat) : Nat := odKey 0x1103 (0x80 + k)
def State.hiOf (s : State) (k : Nat) : Nat := match tget s.od.vals (hiKey k) with
  | some v => ofLE v
  | none => 0

end Sys2Proof.Machine
end

