-- ==== Sys2Proof/Machine/Store.lean ====
section
/-!
DEFINITION. The journal and the object store of the dictionary (R462-R466): transactions, DATA, COMMIT and APPLIED records, block
erases and the replay: the meanings of JOURNAL_DATA_RECORD, OBJECT_STORE_REWRITE, JOURNAL_APPLIED_RECORD and JOURNAL_BLOCK_ERASE.
-/

namespace Sys2Proof.Machine

open Sys2Proof

/-! ## Records (R464) -/

/-- The bytes over which a COMMIT computes its CRC-32C. -/
def jBytes : JRec → List Byte
  | .data t k o v => leB t 4 ++ leB k 3 ++ leB o 4 ++ leB v.length 4 ++ v
  | .commit t n c => leB t 4 ++ leB n 4 ++ leB c.toNat 4
  | .applied t => leB t 4

def jSeq : JRec → Nat
  | .data t _ _ _ => t
  | .commit t _ _ => t
  | .applied t => t

def isDataRec : JRec → Bool
  | .data _ _ _ _ => true
  | _ => false

/-- DATA records of one value: up to 224 bytes each, one for an empty value. -/
def dataRecs (t k : Nat) (v : List Byte) : List JRec :=
  (List.range (max 1 (ceilDiv v.length 224))).map (fun i => .data t k (224 * i) ((v.drop (224 * i)).take 224))

def commitRec (t : Nat) (ds : List JRec) : JRec := .commit t ds.length (crc32c (ds.flatMap jBytes))

/-- Put a transaction behind those queued (R463). -/
def newTxn (ents : List (Nat × List Byte)) (done : TxnDone) (host : Bool) (s : State) : State :=
  let n := s.od.txnSeq + (s.od.txns.filter (fun t => !t.committed)).length + 1
  let ds := ents.flatMap (fun e => dataRecs n e.1 e.2)
  let t : Txn := { seq := n, ents := ents, todo := ds ++ [commitRec n ds], committed := false, stored := false, done := done,
                   host := host }
  { s with od := { s.od with txns := s.od.txns ++ [t] } }

/-- A persistent change of the PTC's own (R463). -/
def ptcTxn (ents : List (Nat × List Byte)) (s : State) : State := newTxn ents .ptc false s

/-- Persistent transactions from transports that committed in the last second (R463). -/
def State.recentTxns (s : State) : Nat := (s.od.recent.filter (fun t => s.now < t + 1000 * msSt)).length

/-! ## Programming pages -/

def journalBlocks : Nat := 8
def blockPages : Nat := 256

def State.jBlock (s : State) (i : Nat) : List JRec := s.od.blocks.getD i []

/-- Every record the journal holds, oldest first. -/
def State.jAll (s : State) : List JRec :=
  (List.range journalBlocks).flatMap (fun i => s.jBlock ((s.od.blockAt + 1 + i) % journalBlocks))

/-- Program one record: `none` where the ring has no erased page. -/
def putRec (r : JRec) (s : State) : Option State :=
  let i := s.od.blockAt
  let put (i : Nat) : State := { s with od := { s.od with blockAt := i, blocks := s.od.blocks.set i (s.jBlock i ++ [r]) } }
  if (s.jBlock i).length < blockPages then some (put i)
  else
    let j := (i + 1) % journalBlocks
    if s.jBlock j = [] then some (put j) else none

/-- Replace the transaction at the head. -/
def setTxn (t : Txn) (s : State) : State :=
  { s with od := { s.od with txns := match s.od.txns with
    | [] => []
    | _ :: r => t :: r } }

/-- JOURNAL_DATA_RECORD (R465 step 2). -/
def journalDataEffect (s : State) : State :=
  match s.od.txns with
  | [] => s
  | t :: _ =>
    match t.todo with
    | .data a b c d :: rest => (match putRec (.data a b c d) s with
      | none => s
      | some s => setTxn { t with todo := rest } s)
    | _ => s

/-- JOURNAL_DATA_RECORD (R465). -/
def execJournalDataRecord (s : State) : Host.Outcome State Fault Refusal :=
  .next (if s.life.vaux then journalDataEffect s else s)

/-- Step 4 of Table 15-6 as far as the values go: the new values are current. -/
def makeCurrent (t : Txn) (s : State) : State :=
  { s with od := { s.od with
      vals := t.ents.foldl (fun v e => tput v e.1 e.2) s.od.vals, txnSeq := t.seq, persistN := s.od.persistN + 1,
      recent := if t.host then s.now :: s.od.recent.filter (fun x => s.now < x + 1000 * msSt) else s.od.recent } }

/-- The head transaction commits (step 3): the transaction and the state in which its values are current. -/
def commitHead (s : State) : Option (Txn × State) :=
  match s.od.txns with
  | [] => none
  | t :: _ =>
    match t.todo with
    | [.commit a b c] => (match putRec (.commit a b c) s with
      | none => none
      | some s =>
        let t := { t with todo := [], committed := true }
        some (t, makeCurrent t (setTxn t s)))
    | _ => none

def storeEnts (ents : List (Nat × List Byte)) (s : State) : State :=
  { s with od := { s.od with store := ents.foldl (fun (t : Tab StoreEnt) e => tput t e.1 { val := e.2, crc := crc32c e.2 })
                                        s.od.store } }

/-- OBJECT_STORE_REWRITE (R465 step 5). -/
def storeRewriteEffect (s : State) : State :=
  match s.od.txns with
  | [] => s
  | t :: _ => if t.committed && !t.stored then setTxn { t with stored := true } (storeEnts t.ents s) else s

/-- OBJECT_STORE_REWRITE (R465). -/
def execObjectStoreRewrite (s : State) : Host.Outcome State Fault Refusal :=
  .next (if s.life.vaux then storeRewriteEffect s else s)

/-- JOURNAL_APPLIED_RECORD (R465 step 6). -/
def journalAppliedEffect (s : State) : State :=
  match s.od.txns with
  | [] => s
  | t :: rest =>
    if t.stored then
      match putRec (.applied t.seq) s with
      | none => s
      | some s => { s with od := { s.od with txns := rest } }
    else s

/-- JOURNAL_APPLIED_RECORD (R464). -/
def execJournalAppliedRecord (s : State) : Host.Outcome State Fault Refusal :=
  .next (if s.life.vaux then journalAppliedEffect s else s)

def State.jApplied (s : State) (t : Nat) : Bool := s.jAll.any (fun r => r == .applied t)

/-- JOURNAL_BLOCK_ERASE (R464): the block after the one being programmed, once all its transactions are APPLIED; none
starts after a power-fail warning (R436). -/
def blockEraseEffect (s : State) : State :=
  let j := (s.od.blockAt + 1) % journalBlocks
  if !s.life.writesRefused && s.jBlock j != [] && (s.jBlock j).all (fun r => s.jApplied (jSeq r)) then
    { s with od := { s.od with blocks := s.od.blocks.set j [] } }
  else s

/-- JOURNAL_BLOCK_ERASE (R464). -/
def execJournalBlockErase (s : State) : Host.Outcome State Fault Refusal :=
  .next (if s.life.vaux then blockEraseEffect s else s)

/-! ## Replay (R466) -/

/-- Entries of a transaction from its DATA records. -/
def entsOf (ds : List JRec) : List (Nat × List Byte) :=
  ds.foldl (fun (a : List (Nat × List Byte)) r => match r with
    | .data _ k _ v =>
      if a.any (fun e => e.1 == k) then a.map (fun e => if e.1 = k then (k, e.2 ++ v) else e) else a ++ [(k, v)]
    | _ => a) []

/-- Mark a transaction as dealt with. -/
def markApplied (t : Nat) (s : State) : State :=
  match putRec (.applied t) s with
  | some s => s
  | none => { s with od := { s.od with blocks := s.od.blocks.map (fun b => b.filter (fun r => jSeq r != t)) } }

/-- Replay of one transaction: the first entry of one that is rolled back. -/
def replayTxn (t : Nat) (s : State) : Option Nat × State :=
  let rs := s.jAll.filter (fun r => jSeq r == t)
  let ds := rs.filter isDataRec
  if s.jApplied t then (none, s)
  else if rs.any (fun r => r == commitRec t ds) then
    let es := entsOf ds
    let s := storeEnts es s
    (none, markApplied t { s with od := { s.od with vals := es.foldl (fun v e => tput v e.1 e.2) s.od.vals, txnSeq := max s.od.txnSeq t } })
  else
    let s := markApplied t { s with od := { s.od with rollbacks := s.od.rollbacks + 1 } }
    (((entsOf ds).head?).map (·.1), s)

/-- JOURNAL_REPLAY: every transaction no longer under way, oldest first. -/
def replayJournal (s : State) : Option Nat × State :=
  let live := s.od.txns.map (·.seq)
  let ts := sortBy (fun a b => a < b) (((s.jAll.map jSeq).eraseDups).filter (fun t => !live.contains t))
  ts.foldl (fun (a : Option Nat × State) t =>
    let (k, s) := replayTxn t a.2
    (a.1 <|> k, s)) (none, s)

/-- The values that persist: those of entries marked persistent, and the PTC's own. -/
def persists (k : Nat) : Bool :=
  match odEnt (k / 256) (k % 256) with
  | some e => e.persist
  | none => k == hiKey 0 || k == hiKey 1

/-- Non-persistent entries return to their defaults (R462). -/
def dropVolatile (s : State) : State := { s with od := { s.od with vals := tkeep s.od.vals persists } }

/-- The PTC starts from the store (loss of AUX): values not stored are gone. -/
def loadStore (s : State) : State :=
  { s with od := { s.od with vals := s.od.store.map (fun e => (e.1, e.2.val)), txns := [] } }

/-- A stored entry whose check word fails. -/
def State.badStored (s : State) : Option Nat := (s.od.store.find? (fun e => crc32c e.2.val != e.2.crc)).map (·.1)

end Sys2Proof.Machine
end

