-- ==== Sys2Proof/Machine/Life.lean ====
section
/-!
DEFINITION. Module states, supplies and sideband pins, the start up to stage S4, module reset, the boot pointer, the event journal and
ALERT# (chapters 14 and 17).
-/

namespace Sys2Proof.Machine

open Sys2Proof

/-! ## The event journal and ALERT# (R448, R506) -/

def journalCap : Nat := 8192

/-- Classes whose records assert ALERT# for 10 ms. -/
def alertCode (code : Nat) : Bool := 0x0400 ≤ code && code < 0x0800 && code != 0x070B

/-- Commit the oldest waiting record: it takes the next sequence number and, in a full ring, the place of the oldest. -/
def journalCommit (s : State) : State :=
  match s.jr.waiting with
  | [] => s
  | e :: w =>
    let n := (s.jr.headSeq + 1) % 2 ^ 32
    let rs := s.jr.recs ++ [{ e with seq := n, full := true }]
    { s with jr := { s.jr with waiting := w, headSeq := n, recs := rs.drop (rs.length - journalCap),
                               lastAlert := if alertCode e.code then some s.now else s.jr.lastAlert } }

/-- EVENT_JOURNAL_COMMIT (R448). -/
def execEventJournalCommit (s : State) : Host.Outcome State Fault Refusal :=
  .next (if s.life.vaux then journalCommit s else s)

/-- Time of the PTC reaches an instant. -/
def advanceNow (t : Nat) (s : State) : State := { s with now := max s.now t }

/-- ALERT#: asserted or released. -/
def State.alert (s : State) : Bool :=
  s.life.vaux &&
  (s.life.state == .held || s.life.state == .recovery || s.life.state == .faulted ||
   decide (s.pwr.thCeil < 2200) || s.jr.lastAlert.isSome)

/-- ALERT_RELEASE (R506): the 10 ms after the last record of those classes are over. -/
def execAlertRelease (s : State) : Host.Outcome State Fault Refusal :=
  .next (match s.jr.lastAlert with
    | none => s
    | some t => advanceNow (t + 10 * msSt) { s with jr := { s.jr with lastAlert := none } })

/-! ## What a loss of the dies loses -/

/-- A link after the dies are reset: off, its objects at their defaults (R360); with the rails up the lanes of one that was not REFUSED
hold lock, with their history and the lane that the spare replaces (R340). -/
def Link.afterReset (rails : Bool) (k : Link) : Link :=
  if rails && k.lock && k.mode != .refused then
    { Link.reset with
        heldMap := k.replaced, spareBad := k.spareBad, level := k.level, peerModule := k.peerModule, peerLink := k.peerLink,
        ber := k.ber, overBer := k.overBer, propNs := k.propNs, lock := true, equal := k.equal, equalEff := k.equalEff, cleanWin := k.cleanWin, errNow := k.errNow,
        stateSeq := k.stateSeq }
  else Link.reset

/-- A macro whose contents and working trims are lost: its remap table persists (R414). -/
def Mac.afterReset (pm : Nat) (m : Mac) : Mac := { Mac.fresh pm with remap := m.remap }

/-- A rail's persistent state: the phases it has lost (R363). -/
def RailState.afterReset (r : RailState) : RailState := { RailState.reset with lost := r.lost }

/-- Maintenance after a reset: maps, states of units, health counters and committed changes persist (R414, R421). -/
def Mnt.afterReset (m : Mnt) : Mnt :=
  { Mnt.reset with clusterMap := m.clusterMap, clusterSt := m.clusterSt, coreMap := m.coreMap, coreSt := m.coreSt,
                   macroMap := m.macroMap, macroSt := m.macroSt, pend := m.pend.filter (·.committed),
                   fillerBad := m.fillerBad, posFixed := m.posFixed, transients := m.transients, retired := m.retired }

/-- The state of the dies is gone (Table 14-7, module; Table 14-4): the parts outside the PTC domain, but for host memory
and what was already sent. `hbm`: HBM keeps its contents and page tables (standby). `rails`: the rails stay up. -/
def clearDies (rails hbm : Bool) (s : State) : State :=
  { s with host := { HostIf.reset with mem := s.host.mem, memPoison := s.host.memPoison, out := s.host.out },
           reg := Regs.reset,
           mem := if hbm then { Mem.reset with hbm := s.mem.hbm, dir := s.mem.dir, leaf := s.mem.leaf }
                  else Mem.reset,
           fm := { Fm.reset with macs := s.fm.macs.map (fun e => (e.1, e.2.afterReset e.1)) },
           adm := Adm.reset,
           tick := Tick.reset,
           cores := [],
           net := { LinkNet.reset with links := s.net.links.map (fun e => (e.1, e.2.afterReset rails)) },
           pwr := { Pwr.reset with rails := s.pwr.rails.map (fun e => (e.1, e.2.afterReset)) },
           mnt := s.mnt.afterReset,
           jr := { s.jr with raised := [] } }

/-- The dictionary after a module reset (R462, R471): values that do not persist and counters return to their defaults. -/
def odModuleReset (s : State) : State :=
  let s := resetMailboxes (fun _ => true) (dropVolatile s)
  { s with od := { s.od with refused8 := [], requests := 0, refusedN := 0, goIgnored := 0, eid := 0, dynAddr := 0, msgsRx := 0,
                             msgsDropped := 0, authFails := 0, framesRx := 0 } }

/-! ## Boot pointer and slots (R443-R446) -/

def BootPtr.ok (p : BootPtr) : Bool := p.valid && p.slot ≤ 1 && (p.trial ≤ 3 || p.trial == 0xFF)

/-- The copy in use, by its number: the valid one with the higher SEQ. -/
def State.ptrCur (s : State) : Option Nat :=
  match s.life.ptrs with
  | [a, b] => if a.ok && (!b.ok || b.seq ≤ a.seq) then some 0 else if b.ok then some 1 else none
  | _ => none

def State.ptr (s : State) : Option BootPtr := s.ptrCur.bind (fun i => s.life.ptrs[i]?)

/-- Write the pointer: erase the other copy and program it one SEQ above the valid one. -/
def writePtr (slot trial : Nat) (s : State) : State :=
  let i := match s.ptrCur with
    | some 0 => 1
    | _ => 0
  let seq := match s.ptr with
    | some p => p.seq + 1
    | none => 1
  { s with life := { s.life with ptrs := s.life.ptrs.set i { seq := seq % 2 ^ 32, slot := slot, trial := trial, valid := true } } }

def State.slot (s : State) (k : Nat) : FwSlot := s.life.slots.getD k FwSlot.empty
def setSlot (k : Nat) (v : FwSlot) (s : State) : State := { s with life := { s.life with slots := s.life.slots.set k v } }
def setSlotSt (k : Nat) (v : SlotState) (s : State) : State := setSlot k { s.slot k with state := v } s

/-- TRIAL_REVERT (R446): the pointer names the other slot, the trial slot is UNVERIFIED, 0x0706. -/
def trialRevert (slot : Nat) (s : State) : State :=
  raise { EventRec.mk' 0x0706 with unit := some slot } (setSlotSt slot .unverified (writePtr (1 - slot) 0xFF s))

/-- Where the pointer's TRIAL is 0, a start reverts. -/
def revertIfSpent (s : State) : State :=
  match s.ptr with
  | some p => if p.trial = 0 then trialRevert p.slot s else s
  | none => s

/-- The reduction of TRIAL by one, before S3. -/
def reduceTrial (s : State) : State :=
  match s.ptr with
  | some p => if 1 ≤ p.trial ∧ p.trial ≤ 3 then writePtr p.slot (p.trial - 1) s else s
  | none => s

/-! ## Starting (R425) -/

def railsBoot (r : Rails) : Rails := { r with vbus := true, die0 := true }

/-- Enter RECOVERY: the boot ROM's loader runs (R434). -/
def enterRecovery (s : State) : State :=
  let s := { s with life := { s.life with rails := { Rails.off with vbus := true, die0 := true }, stage := 0, passed := 0,
                                          standby := false, warmUntil := none } }
  enterState .recovery s

/-- The sequence floors at a start (R475). -/
def floorKeys (s : State) : State := { s with od := { s.od with last := [s.hiOf 0, s.hiOf 1] } }

/-- The settings of HBM and of every connected link are saved (R425). -/
def State.allSaved (s : State) : Bool :=
  s.hbmSavedValid && (List.range 36).all (fun l => !s.linkConnected l || s.linkSaved l)

/-- The column of Table 14-3 of a start that begins now. -/
def State.startKind (s : State) : StartKind :=
  if s.life.standby then .leaveStandby
  else if s.life.rails.rest then .warm
  else if s.allSaved then .coldSaved else .coldFull

/-- AUX to BOOT: stage S2 begins. -/
def beginBoot (s : State) : State :=
  let k := s.startKind
  let s := floorKeys { s with life := { s.life with start := k, stage := 2, passed := 1, standby := false, warmUntil := none,
                                                    rails := railsBoot s.life.rails } }
  enterState .boot s

/-- The conditions of AUX to BOOT beside the event itself: VIN within limits, PERST# deasserted, no power-fail
warning (Table 17-6), no pending S1. -/
def State.mayBoot (s : State) : Bool :=
  s.life.vaux && s.life.vin && !s.life.perst && !s.life.writesRefused && s.life.stage != 1

/-- Start where the conditions hold: to RECOVERY with FORCE_RECOVERY# sampled asserted; a spent trial reverts and the boot
ROM verifies again first (R446). -/
def tryBoot (s : State) : State :=
  if s.life.state = .aux ∧ s.life.stage ≠ 1 ∧ s.life.vaux ∧ !s.life.perst ∧ !s.life.writesRefused ∧ s.life.forcePin then
    enterRecovery s
  else if s.life.state = .aux ∧ !s.life.standby ∧ s.mayBoot then
    match s.ptr with
    | some p =>
      if p.trial = 0 then
        let s := revertIfSpent s
        { s with life := { s.life with stage := 1, newImage := true } }
      else beginBoot s
    | none => beginBoot s
  else s

/-! ## Module reset (R435, Table 14-7) -/

/-- The whole module but the PTC domain. `hold`: the rails stay up, for ever (`none`) or until a time. -/
def moduleReset (keep : Bool) (until_ : Option Nat) (s : State) : State :=
  let up := keep && s.life.rails.rest
  let s := odModuleReset (clearDies up false s)
  let s := { s with life := { s.life with
      standby := false, stage := 0, passed := 0, heldCause := 0, heldObject := 0, timingUndefined := false,
      rails := if up then s.life.rails else Rails.off, warmUntil := if up then until_ else none } }
  enterState .aux s

/-- WARM_HOLD_MS. -/
def State.warmHoldMs (s : State) : Nat := odNat s 0x1200 0x0A 10000

/-- A module reset by PERST# or MODULE_RESET. -/
def commonReset (s : State) : State :=
  let h := s.warmHoldMs
  moduleReset (h != 0) (some (s.now + h * msSt)) s

/-- States that such a reset acts on (Table 14-2). -/
def ModState.resets : ModState → Bool
  | .off | .recovery | .faulted => false
  | _ => true

def moduleResetEffect (s : State) : State := if s.life.state.resets then tryBoot (commonReset s) else s

/-- The condition of R437: a latched trip has been released. -/
def leaveFaulted (s : State) : State :=
  if s.life.state = .faulted ∧ !s.life.thermtrip then
    moduleReset false none s
  else s

/-- PERST_ASSERT (R435, R437). -/
def execPerstAssert (s : State) : Host.Outcome State Fault Refusal :=
  let s := { s with life := { s.life with perst := true } }
  .next (if s.life.state.resets then commonReset s else leaveFaulted s)

/-- PERST_DEASSERT (Table 14-2, R433): FORCE_RECOVERY# at this moment decides. In RECOVERY the boot ROM verifies a slot next. -/
def perstDeassert (force : Bool) (s : State) : State :=
  let s := { s with life := { s.life with perst := false, forcePin := force, forceSince := s.now, forceRaised := false,
                                          pinDue := true } }
  if !s.life.vaux then s
  else
    match s.life.state with
    | .off => if force then enterRecovery s else s
    | .aux => tryBoot { s with life := { s.life with standby := false } }
    | .recovery => if force then s else { s with life := { s.life with stage := 1 } }
    | _ => s

/-- PERST_DEASSERT (R424). -/
def execPerstDeassert (forceRecovery : Bool) (s : State) : Host.Outcome State Fault Refusal :=
  .next (perstDeassert forceRecovery s)

/-- PIN_SAMPLE (R503): once for each deassertion of PERST#; SLOT_ID is held until the next one. -/
def execPinSample (slotId : Nat) (forceRecovery : Bool) (s : State) : Host.Outcome State Fault Refusal :=
  .next (if s.life.vaux && !s.life.perst && s.life.pinDue then
      let s := { s with life := { s.life with slotId := slotId % 32, forcePin := forceRecovery, pinDue := false } }
      if forceRecovery && s.life.state == .aux then tryBoot s else s
    else s)

/-- FORCE_RECOVERY_ASSERT (R433): at any other moment the pin is ignored and logged. -/
def execForceRecoveryAssert (s : State) : Host.Outcome State Fault Refusal :=
  .next (if s.life.vaux then raise (EventRec.mk' 0x0708) s else s)

/-- FORCE_RECOVERY_HELD_60S (R433). -/
def execForceRecoveryHeld60s (s : State) : Host.Outcome State Fault Refusal :=
  .next (if s.life.state == .recovery && s.life.forcePin && !s.life.forceRaised then
      raise (EventRec.mk' 0x0708)
        (advanceNow (s.life.forceSince + 60000 * msSt) { s with life := { s.life with forceRaised := true } })
    else s)

/-- The PTC turns the rails off. -/
def railsOff (s : State) : State :=
  { s with life := { s.life with rails := Rails.off, warmUntil := none },
           net := { s.net with links := s.net.links.map (fun e => (e.1, e.2.afterReset false)) } }

/-- WARM_HOLD_EXPIRY (R435). -/
def execWarmHoldExpiry (s : State) : Host.Outcome State Fault Refusal :=
  .next (match s.life.warmUntil with
    | none => s
    | some t => if s.life.state == .aux then railsOff (advanceNow t s) else s)

/-! ## Supplies (R436, R500, R501) -/

/-- VAUX_UP (R424): the boot ROM starts S1; the PTC takes the values of the store. -/
def execVauxUp (s : State) : Host.Outcome State Fault Refusal :=
  .next (if s.life.vaux then s
    else
      let s := loadStore s
      { s with life := { s.life with vaux := true, stage := 1, passed := 0 } })

/-- VAUX_LOST: OFF; what no flash holds is lost (Table 14-4). -/
def vauxLost (s : State) : State :=
  let s := odModuleReset (clearDies false false s)
  let s := { s with od := { s.od with txns := [], staged := [], snaps := [], recent := [], plantAt := [], authAt := [], waiting := [],
                                      last := [0, 0] },
                    jr := { s.jr with waiting := [], lastAlert := none } }
  { s with life := { s.life with
      state := .off, standby := false, stage := 0, passed := 0, vaux := false, writesRefused := false, thermtrip := false,
      rails := Rails.off, warmUntil := none, heldCause := 0, heldObject := 0, timingUndefined := false,
      slotId := 0, forcePin := false, forceRaised := false, pinDue := false, newImage := false } }

/-- VAUX_LOST (R501). -/
def execVauxLost (s : State) : Host.Outcome State Fault Refusal :=
  .next (if s.life.vaux then vauxLost s else s)

/-- VIN_WITHIN_LIMITS (R500). -/
def execVinWithinLimits (s : State) : Host.Outcome State Fault Refusal :=
  .next (tryBoot { s with life := { s.life with vin := true } })

/-- PWR_FAIL (R436): by the pin, or VIN below 44 V. Writes are refused, staged values are discarded (Table 15-9). -/
def pwrFail (byPin : Bool) (s : State) : State :=
  let fresh := if byPin then !s.life.pwrFailPin else s.life.vin
  let s := { s with life := { s.life with pwrFailPin := s.life.pwrFailPin || byPin, vin := s.life.vin && byPin } }
  if s.life.vaux then
    let s := { s with life := { s.life with writesRefused := true }, od := { s.od with staged := [] } }
    if fresh then raise (EventRec.mk' 0x0704) s else s
  else s

/-- PWR_FAIL (R436). -/
def execPwrFail (byPin : Bool) (s : State) : Host.Outcome State Fault Refusal := .next (pwrFail byPin s)

/-- PWR_FAIL_CLEARED (R508, Table 17-5): the pin deasserted and VIN within limits for 100 ms. -/
def execPwrFailCleared (s : State) : Host.Outcome State Fault Refusal :=
  .next (if s.life.vin then tryBoot { s with life := { s.life with pwrFailPin := false, writesRefused := false } } else s)

/-! ## FAULTED (R386, R389, R437) -/

/-- The rails go off and the module is FAULTED. -/
def enterFaulted (s : State) : State :=
  let s := clearDies false false s
  let s := { s with life := { s.life with rails := Rails.off, warmUntil := none, standby := false, stage := 0, passed := 0,
                                          timingUndefined := false } }
  enterState .faulted s

/-- THERMAL_TRIP (R386): a die sensor at 110 °C, or a regulator. TRIP_COUNT and LAST_TRIP are committed. -/
def thermalTrip (die : Nat) (tj : Int) (s : State) : State :=
  let at_ := s.tick.st
  let s := raise { EventRec.mk' 0x0512 with unit := some (die % 4), info := some (wrapInt 32 tj) } s
  let s := ptcTxn [(odKey 0x3100 0x06, leB (satAdd (2 ^ 32 - 1) (ofLE (s.odCur 0x3100 0x06)) 1) 4),
                   (odKey 0x3100 0x07, leB at_ 8)] s
  let s := enterFaulted { s with life := { s.life with thermtrip := true } }
  -- TRIPPED of the die (Table 12-11)
  { s with reg := { s.reg with thmStatus := tput s.reg.thmStatus (die % 4) (BitVec.ofNat 32 (2 ^ 31)) } }

/-- THERMAL_TRIP (R386). -/
def execThermalTrip (die : Nat) (tj : Int) (s : State) : Host.Outcome State Fault Refusal :=
  .next (if s.life.state = .off ∨ s.life.thermtrip then s else thermalTrip die tj s)

/-- THERMAL_TRIP_RELEASE (R437): THERMTRIP# is released at 70 °C or below; an assertion of PERST# that holds then completes
the reset. -/
def execThermalTripRelease (substrate : Int) (s : State) : Host.Outcome State Fault Refusal :=
  .next (if s.life.thermtrip && substrate ≤ 70 && s.life.state == .faulted then
      let s := { s with life := { s.life with thermtrip := false } }
      if s.life.perst then leaveFaulted s else s
    else s)

/-- PWR_RAIL_FAULT (R389). -/
def railFault (rail : Nat) (s : State) : State :=
  enterFaulted (raise { EventRec.mk' 0x0502 with unit := some rail, info := some s.pwr.input } s)

/-- PWR_RAIL_FAULT (R389). -/
def execPwrRailFault (rail : Nat) (s : State) : Host.Outcome State Fault Refusal :=
  .next (if s.life.state = .off ∨ 13 ≤ rail then s else railFault rail s)

/-! ## HELD and the stages (R426-R432) -/

/-- Enter HELD: connected links stay in IDLE_TRAIN (R431). -/
def enterHeld (cause obj : Nat) (s : State) : State :=
  let s := idleLinks s
  enterState .held { s with life := { s.life with heldCause := cause, heldObject := obj } }

/-- A stage fails (R426). -/
def failStage (n : Nat) (s : State) : State :=
  enterHeld 0x0703 0 (raise { EventRec.mk' 0x0703 with unit := some n } s)

/-- STAGE_TIMEOUT (R425, R426). -/
def execStageTimeout (s : State) : Host.Outcome State Fault Refusal :=
  .next (if s.life.state = .boot ∨ s.life.state = .training then failStage s.life.stage s else s)

/-- A persistent value outside its range or rule. -/
def State.outOfRange (s : State) : Option Nat :=
  (s.od.vals.find? (fun e => match odEnt (e.1 / 256) (e.1 % 256) with
    | some x => x.persist && !(x.ty.lenOk e.2 && x.inRange e.2)
    | none => false)).map (·.1)

/-- The inconsistencies of R430, by the object that is concerned. -/
def State.inconsistent (s : State) : Option Nat :=
  let g := odNat s 0x4000 0x02 0
  if s.topology = 1 ∧ 1 < s.life.slotId then some (odKey 0x4000 0x01)
  else if s.topology = 1 ∧ g ≠ 0 then some (odKey 0x4000 0x02)
  else if s.topology = 3 ∧ s.nGroups ≤ g then some (odKey 0x4000 0x02)
  else (((List.range 16).filter s.spanning)[2]?).map (fun p => odKey (0x4010 + p) 0x01)

/-- The first cause of R430: the fault code and the object. -/
def State.startCause (s : State) (rolled : Option Nat) : Option (Nat × Nat) :=
  rolled.map (fun k => (0x0702, k)) <|> s.badStored.map (fun k => (0x0701, k)) <|>
  s.life.calBad.map (fun k => (0x060B, k)) <|> s.outOfRange.map (fun k => (0x0701, k)) <|>
  s.inconsistent.map (fun k => (0x0701, k)) <|>
  (if odNat s 0x1200 0x06 0 = 1 then some (0, odKey 0x1200 0x06) else none)

/-- The unit of a factory object in a maintenance record. -/
def calUnit (k : Nat) : Option Nat :=
  let i := k / 256
  if 0x2010 ≤ i ∧ i < 0x2010 + 136 ∧ 1 ≤ k % 256 then some (mntUnit (i - 0x2010) (k % 256 - 1) 0x7F) else none

/-- HELD for a cause of R430. -/
def holdFor (c obj : Nat) (s : State) : State :=
  let s := if c = 0 then s
    else if c = 0x060B then raise { EventRec.mk' c with unit := calUnit obj, info := some 0 } s
    else raise { EventRec.mk' c with addr := obj } s
  enterHeld c obj s

/-- The maps with every committed change (R414). -/
def restoreMaps (s : State) : State :=
  let due := s.mnt.pend.filter (·.committed)
  due.foldl (fun s x => applyChange x.change s) { s with mnt := { s.mnt with pend := [] } }

/-- The first link stage: links that hold lock, and whose last 2 s meet the gate of R339, are up again from their history, unless the
image is new (R340, R445); one that holds lock without that history soaks; the others train. -/
def beginLinks (s : State) : State :=
  let s := (List.range 36).foldl (fun s l =>
    let k := s.link l
    if !s.linkConnected l then setLinkMode l .off s
    else if k.lock && !s.life.newImage && k.mode != .refused then
      if k.historyOk then setLinkMode l .up s
      else setLinkMode l .soak (s.setLink l { k with soakBad := false })
    else if k.mode == .down || k.mode == .refused then
      setLinkMode l .train { s with net := { s.net with links := tput s.net.links l { k with soakFails := 0 } } }
    else setLinkMode l .train s) s
  { s with life := { s.life with stage := 5, newImage := false } }

/-- Every connected link has trained: S5 is passed. -/
def linksDone (s : State) : State :=
  if s.life.state = .training ∧ s.life.passed = 4 ∧
     (List.range 36).all (fun l => !s.linkConnected l || (s.link l).mode == .up || (s.link l).mode == .soak) then
    { s with life := { s.life with passed := 5, stage := 6 } }
  else s

/-- READY once every stage has passed and R29 holds (Table 14-2). -/
def tryReady (s : State) : State :=
  if s.life.state = .training ∧ 7 ≤ s.life.passed ∧
     (List.range 36).all (fun l => !s.linkConnected l || (s.link l).mode == .up) then
    if s.allMapped then checkPaths (enterState .ready { s with life := { s.life with passed := 8, stage := 8 } })
    else failStage 7 s
  else s

/-- TRAINING resumes at the first stage not passed (R432). -/
def resumeStages (s : State) : State :=
  let s := enterState .training s
  let s := { s with life := { s.life with stage := min 8 (s.life.passed + 1) } }
  if 4 ≤ s.life.passed then
    let s := linksDone (beginLinks { s with life := { s.life with passed := 4 } })
    s
  else s

/-- What S2 leaves where no cause holds: connected links wait in IDLE_TRAIN (R337). -/
def passS2 (s : State) : State :=
  let s := idleLinks s
  enterState .training { s with life := { s.life with passed := 2, stage := 3 } }

/-- S2_CONFIG_CHECK (R430, R466, R504). -/
def s2Config (calBad : Option Nat) (refclkOk : Bool) (s : State) : State :=
  let (rolled, s) := replayJournal s
  let s := restoreMaps { s with life := { s.life with calBad := calBad } }
  if refclkOk then
    match s.startCause rolled with
    | some (c, o) => holdFor c o { s with life := { s.life with passed := 2 } }
    | none => passS2 s
  else failStage 2 s

/-- S2_CONFIG_CHECK (R430). -/
def execS2ConfigCheck (calBad : Option Nat) (refclkOk : Bool) (s : State) : Host.Outcome State Fault Refusal :=
  .next (if (s.life.state = .boot ∨ s.life.state = .training) ∧ s.life.passed = 1 then s2Config calBad refclkOk s else s)

/-- RELEASE in HELD (R432): the checks again, on the values as they stand. -/
def releaseEffect (s : State) : State :=
  if s.life.state = .held then
    match s.startCause none with
    | some (c, o) => holdFor c o s
    | none => resumeStages s
  else s

/-- S1_BOOT_VERIFY (R444, R446). -/
def s1Boot (ok : Nat → Bool) (s : State) : State :=
  let s := { s with life := { s.life with slots := s.life.slots.map (fun x =>
      if x.state = .downloading then FwSlot.empty else x) } }
  let s := revertIfSpent s
  let boots (k : Nat) : Bool := match (s.slot k).state with
    | .empty => false
    | _ => ok k
  let other (k : Nat) : Bool := ok k && ((s.slot k).state == .verified || (s.slot k).state == .confirmed)
  let run (k : Nat) (s : State) : State :=
    let s := floorKeys { s with life := { s.life with bootSlot := k, generation := (s.slot k).gen, fwVersion := (s.slot k).version,
                                                      stage := 0, passed := 1 } }
    match s.life.state with
    | .off => tryBoot (enterState .aux s)
    | .recovery => if s.mayBoot then beginBoot s else s
    | _ => tryBoot s
  match s.ptr with
  | none => enterRecovery s
  | some p =>
    if boots p.slot then run p.slot s
    else
      let s := raise { EventRec.mk' 0x0707 with unit := some p.slot } s
      if other (1 - p.slot) then run (1 - p.slot) s else enterRecovery s

/-- S1_BOOT_VERIFY (R444). -/
def execS1BootVerify (ok0 ok1 : Bool) (s : State) : Host.Outcome State Fault Refusal :=
  .next (if s.life.vaux ∧ s.life.stage = 1 ∧ (s.life.state = .off ∨ s.life.state = .aux ∨ s.life.state = .recovery) then
      s1Boot (fun k => if k = 0 then ok0 else ok1) s
    else s)

/-- S3_RAILS_UP (R425): VCORE at V(800) on every die. -/
def s3Rails (s : State) : State :=
  let s := reduceTrial s
  let s := (List.range 4).foldl (fun s d => s.setPdie d { s.pdie d with mv := vOf 800, vset := vClamp (vOf 800) }) s
  { s with life := { s.life with rails := { vbus := true, die0 := true, rest := true, vhbm := true }, passed := 3, stage := 4 } }

/-- S3_RAILS_UP (R425). -/
def execS3RailsUp (s : State) : Host.Outcome State Fault Refusal :=
  .next (if s.life.state = .training ∧ s.life.passed = 2 then s3Rails s else s)

/-- S4_HBM_TRAINING (R425): a restore or an exit from self-refresh where the start has one, else, or where that fails, full
training, whose result is saved. -/
def s4Hbm (restoreOk fullOk : Bool) (saved : List Byte) (s : State) : State :=
  let pass (s : State) : State :=
    linksDone (beginLinks { s with life := { s.life with passed := 4 } })
  let short := s.life.start = .leaveStandby ∨ (s.hbmSavedValid ∧ s.life.start ≠ .coldFull)
  if short ∧ restoreOk then pass s
  else
    let s := { s with mem := Mem.reset }
    if fullOk then pass (ptcTxn [(odKey 0x1200 0x0C, saved), (odKey 0x1200 0x0D, [1])] s) else failStage 4 s

/-- S4_HBM_TRAINING (R425). -/
def execS4HbmTraining (restoreOk fullOk : Bool) (saved : List Byte) (s : State) : Host.Outcome State Fault Refusal :=
  .next (if s.life.state = .training ∧ s.life.passed = 3 then s4Hbm restoreOk fullOk saved s else s)

/-- S6_CORE_FIRMWARE (R427): physical cores that mismatch twice are failed cores. -/
def s6Cores (bad1 bad2 : List Nat) (s : State) : State :=
  let bad := (bad2.filter bad1.contains).eraseDups.filter (· < 4 * 34 * 17)
  let s := bad.foldl (fun s pc =>
    let s := raise { EventRec.mk' 0x0709 with unit := some (match s.logCore pc with | some c => c | none => 2 ^ 32 - 1) } s
    match s.logCore pc with
    | some c => requestSubst c s
    | none => { s with mnt := { s.mnt with coreSt := tput s.mnt.coreSt pc 2 } }) s
  { s with life := { s.life with passed := 6, stage := 7 } }

/-- S6_CORE_FIRMWARE (R427). -/
def execS6CoreFirmware (bad1 bad2 : List Nat) (s : State) : Host.Outcome State Fault Refusal :=
  .next (if s.life.state = .training ∧ s.life.passed = 5 then s6Cores bad1 bad2 s else s)

/-- The core and VIO rails go off, HBM is in self-refresh (Table 12-5). -/
def goStandby (s : State) : State :=
  let s := clearDies false true s
  let s := { s with od := { s.od with vals := tkeep s.od.vals (fun k => persists k || !(match odEnt (k / 256) (k % 256) with
                                                                      | some e => e.dieHeld
                                                                      | none => false)) } }
  let s := enterState .aux s
  { s with life := { s.life with standby := true, stage := 0, passed := 0, warmUntil := none,
                                 rails := { Rails.off with vbus := true, vhbm := true } } }

/-- STANDBY in READY or PARKED. -/
def enterStandby (s : State) : State := if s.life.state = .ready ∨ s.life.state = .parked then goStandby s else s

/-- WAKE in standby: AUX to BOOT. -/
def wakeEffect (s : State) : State := if s.life.state = .aux ∧ s.life.standby ∧ s.life.vin ∧ s.life.stage ≠ 1 then beginBoot s else s

/-- TICK_REFCLK_REMOVED (R504): isolation stays; the timing and the results of the partitions are undefined from here, so the
system time is a free value (log entry 2). -/
def execTickRefclkRemoved (s : State) : Host.Outcome State Fault Refusal :=
  .next (if s.life.state = .off ∨ s.life.state = .aux then s
    else
      let (v, s) := freshFree s
      { s with life := { s.life with timingUndefined := true }, tick := { s.tick with st := v.toNat } })

end Sys2Proof.Machine
end

