-- ==== Sys2Proof/Machine/LinkRecs.lean ====
section
/-!
DEFINITION. Received flits and records (R325-R336): the meanings of WR, RD_REQ, RD_DATA, ACK, ARRIVE, RECORD_FORWARD and
REQUEST_TIMEOUT.
-/

namespace Sys2Proof.Machine

open Sys2Proof

/-! ## Flits and replay (R325, R326) -/

def replayThresh (s : State) : Nat := odNat s 0x4000 0x11 1000

/-- The link retrains from saved settings after 8 replays of one flit in a row. -/
def replayLimit (l : Nat) (s : State) : State :=
  setLinkMode l .train (raiseLink 0x0404 l 7 (s.setLink l { (s.link l).unlock with replayRow := 0 }))

/-- A NAK: the flits kept after ACK_SEQ are sent again. -/
def replayFlits (l ack : Nat) (s : State) : State :=
  let k := s.link l
  let n := min k.kept.length ((k.txSeq + 4096 - (ack + 1)) % 4096)
  let row := if k.replayRow != 0 && k.replayFrom == ack then k.replayRow + 1 else 1
  let s := s.setLink l { k with replays := (k.replays + n) % 2 ^ 64, replaysSec := k.replaysSec + n, replayRow := row,
                                replayFrom := ack }
  let s := sendMsg (.replay l ((ack + 1) % 4096) n) s
  let s := if replayThresh s < k.replaysSec + n then raiseLinkSec 0x040A l s else s
  if 8 ≤ row then replayLimit l s else s

/-- A flit that is discarded: the first one is answered with NAK. -/
def discardFlit (l : Nat) (s : State) : State :=
  let k := s.link l
  if k.nakSent then s
  else sendMsg (.nak l k.ackSeq) (s.setLink l { k with nakSent := true, sinceAck := 0 })

/-- The flit's code word and CRC are good. -/
def flitGood (flit : BlockData) (uncorrectable : Bool) : Bool :=
  let bs := blockBytes flit
  !uncorrectable && fieldLE bs 252 4 == (crc32 (bs.take 252)).toNat

/-- What a failed code word or CRC counts as: in FEC_UNCORR, and against the gate of R339. -/
def noteFlit (l : Nat) (good uncorrectable : Bool) (s : State) : State :=
  let k := s.link l
  if good then s
  else
    let s := s.setLink l { k with fecUncorr := if uncorrectable then (k.fecUncorr + 1) % 2 ^ 64 else k.fecUncorr,
                                  errNow := true, soakBad := true }
    if uncorrectable && k.mode == .up then raiseLinkSec 0x040B l s else s

/-- A received flit up to its body: whether it is accepted. -/
def flitReceive (l : Nat) (flit : BlockData) (uncorrectable : Bool) (s : State) : Bool × State :=
  let w := fieldLE (blockBytes flit) 0 4
  let good := flitGood flit uncorrectable
  let s := noteFlit l good uncorrectable s
  let k := s.link l
  let null := bitOf w 25
  if !good || (!null && w % 4096 != k.rxSeq) then (false, discardFlit l s)
  else
    let s := s.setLink l { k with rxSeq := if null then k.rxSeq else (k.rxSeq + 1) % 4096, nakSent := false,
                                  sinceAck := k.sinceAck + 1 }
    let s := takeCredit l (bitsOf w 31 26) s
    (true, if bitOf w 24 then replayFlits l (bitsOf w 23 12) s else s.setLink l { s.link l with replayRow := 0 })

/-! ## Blocks of records (R328, R332) -/

/-- The Link Port's check at ingress: verified at level 4; a new check word at level 3. -/
def ingress (l f dva : Nat) (b : Block) (s : State) : Block × State :=
  if 4 ≤ (s.link l).level then verifyBlk f (l / 9) none dva b s
  else ({ b with check := crc32c (blockBytes b.data) }, s)

def ingressAll (l : Nat) (r : LinkRecord) (s : State) : List Block × State :=
  ((r.blocks.take 16).mapIdx (fun i b => (i, b))).foldl (fun (a : List Block × State) x =>
    let (b, s) := ingress l (recFn r) (recOff r + 256 * x.1) (segBlock (recCw r) x.2) a.2
    (a.1 ++ [b], s)) ([], s)

/-! ## Forwarding (R334-R336) -/

/-- The record with HOP one higher. -/
def bumpHop (r : LinkRecord) : LinkRecord := { r with header := r.header + BitVec.ofNat 256 (2 ^ 5) }

def forward (l : Nat) (r : LinkRecord) (s : State) : State :=
  if 4 ≤ recHop r then noRoute l r s
  else
    match s.routeOf r with
    | none => noRoute l r s
    | some o =>
      let (bs, s) := ingressAll l r s
      sendOn o { bumpHop r with blocks := bs.map (blockSeg (recCw r)) } s

/-- What every received record meets: the link carries it, its buffer is free again and its credit owed, its RTYPE is good and a level-4
link brings it with CHK = 1 (R332), and it is for this module; else it is discarded or forwarded. -/
def onRecord (l rtype : Nat) (r : LinkRecord) (act : State → State) (s : State) : State :=
  if !(s.link l).mode.usable then s
  else
    let s := oweFor l r s
    if recType r ≠ rtype ∨ (4 ≤ (s.link l).level ∧ !recChk r) then raiseRoute (some l) (recType r) (recStatus r) (recDst r) s
    else if recDst r ≠ s.moduleNo then forward l r s
    else act s

/-- RECORD_FORWARD (R334): a record of any type for another module. -/
def execRecordForward (link : Nat) (rec : LinkRecord) (s : State) : Host.Outcome State Fault Refusal :=
  .next (if 1 ≤ recType rec ∧ recType rec ≤ 5 then onRecord link (recType rec) rec (fun s => s) s
    else onRecord link 0xFF rec (fun s => s) s)

/-! ## Requests at their target (R329, R330) -/

/-- The DVA of block i of a record in this module's own exchange window. -/
def exchDva (r : LinkRecord) (i : Nat) (s : State) : Nat := 10 * 2 ^ 44 + s.moduleNo * 2 ^ 32 + recOff r / 256 * 256 + 256 * i

/-- Every block of the record lies where the function's exchange window leads. -/
def exchOk (p : Nat) (r : LinkRecord) (n : Nat) (wr : Bool) (s : State) : Bool :=
  (List.range n).all (fun i =>
    let l := s.exchLoc (recFn r) p (recOff r / 256 * 256 + 256 * i)
    l != .bad && (!wr || l.writable))

def wrTarget (l : Nat) (r : LinkRecord) (s : State) : State :=
  match s.partOfPid (recPid r) with
  | none => statusAnswer l r 1 s
  | some p =>
    let n := min (recNblk r) (min 16 r.blocks.length)
    if exchOk p r n true s then
      let (bs, s) := ingressAll l { r with blocks := r.blocks.take n } s
      let s := (bs.mapIdx (fun i b => (i, b))).foldl (fun s x => writeBlk (recFn r) p none (exchDva r x.1 s) x.2 s) s
      statusAnswer l r 0 s
    else statusAnswer l r 1 s

/-- WR (R330): ACK once every block is written with its metadata; STATUS WINDOW where a translation fails. -/
def execWr (link : Nat) (rec : LinkRecord) (s : State) : Host.Outcome State Fault Refusal :=
  .next (onRecord link 1 rec (wrTarget link rec) s)

/-- Read the blocks `is` of a record's range, in order. -/
def readExch (p : Nat) (r : LinkRecord) (is : List Nat) (s : State) : List Block × State :=
  is.foldl (fun (a : List Block × State) i =>
    let x := readBlk (recFn r) p none (exchDva r i a.2) a.2
    (a.1 ++ [x.1], x.2)) ([], s)

def rdTarget (l : Nat) (r : LinkRecord) (s : State) : State :=
  match s.partOfPid (recPid r) with
  | none => statusAnswer l r 1 s
  | some p =>
    let n := min (recNblk r) 16
    if exchOk p r n false s then
      let x := readExch p r (List.range n) s
      sendAnswer l { header := mkHeader 3 0 s.moduleNo (recSrc r) (recPid r) (recFn r) 0 n (recCw r) (recOff r) (recTag r),
                     blocks := x.1.map (blockSeg (recCw r)) } x.2
    else statusAnswer l r 1 s

/-- RD_REQ (R330): RD_DATA. -/
def execRdReq (link : Nat) (rec : LinkRecord) (s : State) : Host.Outcome State Fault Refusal :=
  .next (onRecord link 2 rec (rdTarget link rec) s)

/-- ARRIVE (R254, R255, R330): to the Gate Array, whatever the gate's owner; not answered. -/
def execArrive (link : Nat) (rec : LinkRecord) (s : State) : Host.Outcome State Fault Refusal :=
  .next (onRecord link 5 rec (fun s => arriveAt (recOff rec % 2 ^ 14) 1 none s) s)

/-! ## Answers at the requester (R330) -/

def State.waiting (s : State) (tag : Nat) (write : Bool) : Option Remote :=
  s.net.remote.find? (fun x => x.tag == tag && x.write == write)

def rdDataIn (l : Nat) (r : LinkRecord) (s : State) : State :=
  match s.waiting (recTag r) false with
  | none => s
  | some x =>
    if recStatus r ≠ 0 then failAccess x (recStatus r) s
    else
      match r.blocks with
      | [] => failAccess x 3 s
      | seg :: _ =>
        let (b, s) := ingress l x.fn x.dst (segBlock (recCw r) seg) s
        onTag x.core x.tag (fun t => { t with buf := (x.dst / 256, b) :: t.buf }) (dropTag x.tag s)

/-- RD_DATA (R330): an answer that no request waits for is discarded. -/
def execRdData (link : Nat) (rec : LinkRecord) (s : State) : Host.Outcome State Fault Refusal :=
  .next (onRecord link 3 rec (rdDataIn link rec) s)

def ackIn (r : LinkRecord) (s : State) : State :=
  match s.waiting (recTag r) true with
  | none => s
  | some x => if recStatus r ≠ 0 then failAccess x (recStatus r) s else onTag x.core x.tag (fun t => t) (dropTag x.tag s)

/-- ACK (R330). -/
def execAck (link : Nat) (rec : LinkRecord) (s : State) : Host.Outcome State Fault Refusal :=
  .next (onRecord link 4 rec (ackIn rec) s)

/-- A request of this module still waits in an output queue. -/
def State.unsent (s : State) (tag : Nat) : Bool :=
  (List.range 36).any (fun l => (s.link l).queue.any (fun r =>
    recSrc r == s.moduleNo && (recType r == 1 || recType r == 2) && recTag r == tag))

/-- REQUEST_TIMEOUT (R330): 1 ms after the request was sent, without an answer. -/
def execRequestTimeout (tag : Nat) (s : State) : Host.Outcome State Fault Refusal :=
  .next (match s.net.remote.find? (fun x => x.tag == tag) with
    | none => s
    | some x =>
      if s.unsent tag then s
      else failAccess x 3 (raiseRoute (some x.link) (if x.write then 1 else 2) 3 x.dest (advanceTo (x.sentAt + msSt) s)))

end Sys2Proof.Machine
end

