-- ==== Sys2Proof/Machine/LinkMarks.lean ====
section
/-!
DEFINITION. Training, soak, lanes and power state of the links (R337-R342, R355), and the markers of the tick network (R343-R356): the
meanings of the link rows from S5_LINK_TRAINING to HOLDOVER_TIMEOUT.
-/

namespace Sys2Proof.Machine

open Sys2Proof

/-! ## Training (R322, R338, R355) -/

/-- SAVED: peer module, peer link, equalisation. -/
def savedBytes (k : Link) : List Byte := leB k.peerModule 2 ++ leB k.peerLink 1 ++ k.equal

/-- A code with a user delta, both clamped to their ranges (R391): three taps of I8 and a CTLE of U8 for each lane. -/
def effCode (i : Nat) (working delta : Byte) : Byte :=
  if i % 4 = 3 then BitVec.ofNat 8 (max 0 (min 255 ((working.toNat : Int) + max (-2) (min 2 delta.toInt)))).toNat
  else BitVec.ofInt 8 (max (-128) (min 127 (working.toInt + max (-3) (min 3 delta.toInt))))

/-- Equalisation in effect: the working value with the link's EQ_DELTA. -/
def State.equalWith (s : State) (l : Nat) (working : List Byte) : List Byte :=
  let d := s.odCur (0x2900 + l) 0x01
  working.mapIdx (fun i w => effCode i w (d.getD i 0))

/-- The saved settings are those of this peer. -/
def State.savedFor (s : State) (l : Nat) (res : TrainResult) : Bool :=
  let v := s.odCur (0x4040 + l) 0x0B
  s.linkSaved l && fieldLE v 0 2 == res.peerModule && fieldLE v 2 1 == res.peerLink

/-- The common protocol level of two ends, where both support the lower of the two highest. -/
def commonLevel (own peer peerMin : Nat) : Option Nat :=
  let c := min own peer
  if own - 1 ≤ c ∧ peerMin ≤ c then some c else none

/-- Leave a link DOWN. -/
def linkDown (code l lane : Nat) (s : State) : State :=
  let s := s.setLink l { (s.link l).unlock with downAt := s.tick.st }
  raiseLink code l lane (setLinkMode l .down s)

/-- Leave a link REFUSED: its lanes hold lock, but it has no history to come up from. -/
def linkRefused (code l : Nat) (s : State) : State :=
  raiseLink code l 7 (setLinkMode l .refused (s.setLink l { s.link l with cleanWin := 0 }))

/-- The outcome of a training: `fresh` forbids a restore. -/
def trainLink (l : Nat) (fresh : Bool) (res : TrainResult) (s : State) : State :=
  let k := s.link l
  let kept := k.lock && k.historyOk
  let restored := !fresh && s.savedFor l res && res.restoreOk
  let equal := if restored then (s.odCur (0x4040 + l) 0x0B).drop 3 else res.equal
  if !(restored || res.fullOk || res.secondOk) then linkDown 0x0401 l 7 s
  else
    let s := s.setLink l { k with peerModule := res.peerModule, peerLink := res.peerLink, propNs := res.propNs, lock := true, soakBad := false,
                                  equal := equal, equalEff := s.equalWith l equal }
    if s.peer l ≠ some (res.peerModule, res.peerLink) ∨ 75 < res.propNs then linkRefused 0x0406 l s
    else
      match commonLevel s.life.generation res.peerLevel res.peerLevelMin with
      | none => linkRefused 0x0405 l s
      | some v =>
        let s := s.setLink l { s.link l with level := v }
        setLinkMode l (if kept then .up else .soak) s

/-- A link that is neither usable nor in soak ends the start (R426). -/
def afterTraining (l n : Nat) (s : State) : State :=
  match (s.link l).mode with
  | .down => failStage n s
  | .refused => failStage n s
  | _ => tryReady (linksDone s)

/-- S5_LINK_TRAINING (R338). -/
def execS5LinkTraining (link : Nat) (res : TrainResult) (s : State) : Host.Outcome State Fault Refusal :=
  .next (if s.life.state = .training ∧ 4 ≤ s.life.passed ∧ link < 36 ∧ s.linkConnected link ∧
           ((s.link link).mode = .train ∨ (s.link link).mode = .idleTrain) then
      afterTraining link 5 (trainLink link ((s.link link).soakFails != 0) res s)
    else s)

/-! ## The error-rate gate (R339) -/

/-- The gate: every data lane in use below 1 x 10^-6, in units of 10^-9, no uncorrectable code word and no failed CRC. -/
def gateBer : Nat := 1000
def Link.gatePass (k : Link) (ber : List Nat) (bad : Bool) : Bool := ber.all (· < gateBer) && !(k.soakBad || bad)

/-- SOAK_END: 2 s of soak, with the bit error rate of every data lane in use, and whether a code word was uncorrectable or a CRC failed
beside those that FLIT_RECEIVE has shown. -/
def soakEnd (l : Nat) (ber : List Nat) (bad : Bool) (s : State) : State :=
  let k := s.link l
  if k.gatePass ber bad then
    let s := setLinkMode l .up (s.setLink l { k with soakFails := 0, cleanWin := 2, errNow := false })
    let s := ptcTxn [(odKey (0x4040 + l) 0x0B, savedBytes k), (odKey (0x4040 + l) 0x0C, [1])] s
    tryReady s
  else if k.soakFails = 0 then setLinkMode l .train (s.setLink l { k.unlock with soakFails := 1 })
  else
    let s := linkDown 0x0402 l 7 (s.setLink l { k with soakFails := 0 })
    if s.life.state = .training then failStage 8 s else s

/-- SOAK_END (R339). -/
def execSoakEnd (link : Nat) (ber : List Nat) (bad : Bool) (s : State) : Host.Outcome State Fault Refusal :=
  .next (if link < 36 ∧ (s.link link).mode = .soak then soakEnd link ber bad s else s)

/-- LINK_RETRY (R337): every 10 s for a DOWN link; a link that retrains while the module serves takes the same way. -/
def execLinkRetry (link : Nat) (res : TrainResult) (s : State) : Host.Outcome State Fault Refusal :=
  .next (if link < 36 ∧ s.serving ∧ s.linkConnected link then
      match (s.link link).mode with
      | .down => trainLink link false res (advanceTo ((s.link link).downAt + 10000 * msSt) s)
      | .train => trainLink link ((s.link link).soakFails != 0) res s
      | _ => s
    else s)

/-! ## Lanes (R341) -/

/-- The spare is healthy and replaces no lane. -/
def Link.spareFree (k : Link) : Bool := !k.spareBad && k.replaced == 0

def swapBer (s : State) : Nat := odNat s 0x4000 0x10 10000

/-- The marker slot at a system time: one slot in 20.48 ns, that is 327.68 units. -/
def slotAt (st : Nat) : Nat := st * 100 / 32768
def slotSt (slot : Nat) : Nat := ceilDiv (slot * 32768) 100

/-- The end of the exchange window that a slot lies in, of a partition whose words cross the link. -/
def State.exchangeEnd (s : State) (l slot : Nat) : Option Nat :=
  match s.peer l with
  | none => none
  | some (m, _) =>
    ((List.range 16).find? (fun p => s.spanning p && s.partTicks p && (s.partMembers p).contains m &&
      (s.part p).leadSt ≤ slotSt slot && slotSt slot ≤ (s.part p).leadSt + 14080)).map (fun p =>
        slotAt ((s.part p).leadSt + 14080) + 1)

/-- The first slot from `slot` on that lies outside every exchange window. -/
def State.freeSlot (s : State) (l : Nat) : Nat → Nat → Nat
  | 0, slot => slot
  | n + 1, slot => match s.exchangeEnd l slot with
    | none => slot
    | some e => s.freeSlot l n (max (slot + 1) e)

/-- A lane with three windows above SWAP_BER. -/
def Link.degraded (k : Link) : Option Nat :=
  (List.range 4).find? (fun i => 3 ≤ k.overBer.getD i 0 && !bitOf k.replaced i)

/-- Start a hitless swap: LANE_SWAP names the slot. -/
def startSwap (l : Nat) (s : State) : State :=
  let k := s.link l
  match k.degraded with
  | none => s
  | some lane =>
    if k.spareFree && k.swapLane.isNone && k.mode == .up then
      let slot := s.freeSlot l 64 (slotAt s.tick.st + 64)
      sendMsg (.marker l (mkMarker 5 (lane * 2 ^ 58 + slot % 2 ^ 32)))
        (s.setLink l { k with swapLane := some lane, swapSlot := slot % 2 ^ 32 })
    else s

/-- BER_WINDOW: one second of bit error rates, in units of 10^-9, and the symbols that the FEC corrected. -/
def berWindow (l : Nat) (ber : List Nat) (corrected : Nat) (s : State) : State :=
  let k := s.link l
  let counts := (List.range 4).map (fun i => if swapBer s < ber.getD i 0 then k.overBer.getD i 0 + 1 else 0)
  let clean := ber.all (· < gateBer) && !k.errNow
  let s := s.setLink l { k with ber := ber.foldl max 0, overBer := counts, fecCorr := (k.fecCorr + corrected) % 2 ^ 64,
                                replaysSec := 0, cleanWin := if clean then k.cleanWin + 1 else 0, errNow := false }
  let k := s.link l
  if k.degraded.isSome && k.spareFree && k.swapLane.isNone && k.mode == .up &&
     !s.mnt.queue.any (fun r => r.act == .lnk && r.mac == l) then
    { s with mnt := { s.mnt with queue := s.mnt.queue ++ [{ act := .lnk, die := l / 9, core := 0, mac := l, guard := false,
                                                            at_ := s.tick.st }] } }
  else s

/-- BER_WINDOW (R341). -/
def execBerWindow (link : Nat) (ber : List Nat) (corrected : Nat) (s : State) : Host.Outcome State Fault Refusal :=
  .next (if link < 36 ∧ (s.link link).lock then berWindow link ber corrected s else s)

/-- Take the spare into use for a lane. -/
def swapLane (l lane : Nat) (s : State) : State :=
  let k := s.link l
  raiseLink 0x0403 l lane (s.setLink l { k with laneMap := setBits k.laneMap lane lane 1, swapLane := none,
                                                overBer := k.overBer.set lane 0 })

/-- LANE_LOCK_LOST: a data lane (0-3) or the spare (4). -/
def laneLockLost (l lane : Nat) (retrainOk : Bool) (s : State) : State :=
  let k := s.link l
  if lane = 4 then
    let s := s.setLink l { k with spareBad := true, laneMap := setBits k.laneMap 7 7 1 }
    if k.replaced % 16 = 0 then s else linkDown 0x0404 l lane s
  else if bitOf k.replaced lane then s
  else if k.spareFree && retrainOk then swapLane l lane s
  else linkDown 0x0404 l lane s

/-- LANE_LOCK_LOST (R341). -/
def execLaneLockLost (link lane : Nat) (retrainOk : Bool) (s : State) : Host.Outcome State Fault Refusal :=
  .next (if link < 36 ∧ lane < 5 ∧ ((s.link link).mode.usable ∨ (s.link link).mode = .soak) then
      settleState (laneLockLost link lane retrainOk s)
    else s)

/-- What a received marker meets: a link that carries it. SYNC and ANNOUNCE also travel in SOAK. -/
def onMarker (l type : Nat) (w : Dword) (soak : Bool) (act : State → State) (s : State) : State :=
  if bitsOf w.toNat 63 60 = type ∧ ((s.link l).mode.usable ∨ (soak ∧ (s.link l).mode = .soak)) then act s else s

/-- A LANE_SWAP: the lane and the slot. -/
def laneSwapMark (link : Nat) (word : Dword) (s : State) : State :=
  onMarker link 5 word false (fun s =>
    s.setLink link { s.link link with swapLane := some (bitsOf word.toNat 59 58), swapSlot := word.toNat % 2 ^ 32 }) s

/-- LANE_SWAP (R341): the peer's transmitter moves a lane at a slot. -/
def execLaneSwap (link : Nat) (word : Dword) (s : State) : Host.Outcome State Fault Refusal :=
  .next (laneSwapMark link word s)

/-- LANE_SWAP_SLOT (R341): both ends move the lane's symbols to the spare. -/
def execLaneSwapSlot (link : Nat) (s : State) : Host.Outcome State Fault Refusal :=
  .next (match (s.link link).swapLane with
    | none => s
    | some lane =>
      let k := s.link link
      let now := slotAt s.tick.st
      let ahead := (k.swapSlot + 2 ^ 32 - now % 2 ^ 32) % 2 ^ 32
      let s := if ahead < 2 ^ 31 then advanceTo (slotSt (now + ahead)) s else s
      swapLane link lane s)

/-! ## LOWPWR (R342) -/

/-- LOWPWR_ENTRY (R342): both ends ask for it; a module asks when every one of its partitions is parked. -/
def execLowpwrEntry (link : Nat) (peerAsks : Bool) (s : State) : Host.Outcome State Fault Refusal :=
  .next (if link < 36 ∧ (s.link link).mode = .up then
      if s.partsParked && peerAsks then settleState (setLinkMode link .lowpwr s) else s
    else s)

/-- LOWPWR_WAKE (R342): a DATA record waits for the link. -/
def execLowpwrWake (link : Nat) (s : State) : Host.Outcome State Fault Refusal :=
  .next (if (s.link link).mode = .lowpwr then setLinkMode link .up s else s)

/-! ## Pennant words and FEATURE reports (R347-R356) -/

/-- The local partition of a marker's PID, when the link leads to a member. -/
def State.memberPart (s : State) (l pid : Nat) : Option Nat :=
  match s.partOfPid pid, s.peer l with
  | some p, some (m, _) => if (s.partMembers p).contains m then some p else none
  | _, _ => none

/-- Flood a marker of a partition to its members. -/
def floodMembers (p : Nat) (skip : Option Nat) (w : Dword) (s : State) : State :=
  (s.markerLinks false).foldl (fun s l =>
    if skip = some l then s
    else
      match s.peer l with
      | some (m, _) => if (s.partMembers p).contains m then sendMsg (.marker l w) s else s
      | none => s) s

/-- A word of the partition: compared with the module's PREV_ADV and TNUM, after the final merge too, and merged before it. A mismatch
freezes the partition here; the word goes on to the other members, so that every member freezes (R354). -/
def pennantIn (p l : Nat) (w : Dword) (s : State) : State :=
  let pt := s.part p
  if !s.partTicks p then s
  else if w.getLsbD 42 != pt.prevAdv || bitsOf w.toNat 41 40 != pt.tick % 4 then
    raise { EventRec.mk' 0x0408 with part := some p, unit := some (s.pid p), info := some 0, tick := some pt.tick }
      (settleState (applyPartPend p (floodMembers p (some l) w (s.setPart p { pt with state := .frozen }))))
  else if pt.hasFinal then s
  else s.setPart p { pt with merged := if pt.merged = 0 then w else penMerge pt.merged w }

/-- A PENNANT of a spanning partition that takes part (R351-R354). -/
def pennantMark (link : Nat) (word : Dword) (s : State) : State :=
  onMarker link 1 word false (fun s =>
    match s.memberPart link (penPid word) with
    | none => s
    | some p => pennantIn p link word s) s

/-- PENNANT (R351, R354). -/
def execPennant (link : Nat) (word : Dword) (s : State) : Host.Outcome State Fault Refusal :=
  .next (pennantMark link word s)

def featureIn (p l : Nat) (w : Dword) (s : State) : State :=
  let o := featOrigin w
  let pt := s.part p
  if o = s.moduleNo ∨ !(s.partMembers p).contains o ∨ pt.features.any (fun x => x.1 == o && x.2 == w) then s
  else
    let s := s.setPart p { pt with features := pt.features.filter (fun x => x.1 ≠ o) ++ [(o, w)] }
    floodMembers p (some l) w s

/-- A FEATURE of a spanning partition. -/
def featureMark (link : Nat) (word : Dword) (s : State) : State :=
  onMarker link 2 word false (fun s =>
    match s.memberPart link (bitsOf word.toNat 59 48) with
    | none => s
    | some p => featureIn p link word s) s

/-- FEATURE (R348, R350, R356): a report is kept and flooded when it is new. -/
def execFeature (link : Nat) (word : Dword) (s : State) : Host.Outcome State Fault Refusal :=
  .next (featureMark link word s)

/-- FEATURE_RESEND (R350, Table 11-7): each member resends its own report every 2^20 slots. -/
def execFeatureResend (part : Nat) (s : State) : Host.Outcome State Fault Refusal :=
  .next (if part < 16 ∧ s.spanning part then floodMembers part none (s.ownFeature part) s else s)

/-! ## System time (R343-R346) -/

def mod40 : Nat := 2 ^ 40

/-- A SYNC REQ: the answer carries the time that it took. -/
def syncReqMark (link : Nat) (word : Dword) (answerSlots : Nat) (s : State) : State :=
  if word.getLsbD 59 then s
    else onMarker link 3 word true (fun s =>
      let turn := answerSlots * 32768 / 100 % 2 ^ 16
      sendMsg (.marker link (mkMarker 3 (2 ^ 59 + turn * 2 ^ 40 + s.tick.st % mod40))) s) s

/-- SYNC_REQ (R345) received: the answer, `answerSlots` marker slots later. -/
def execSyncReq (link : Nat) (word : Dword) (answerSlots : Nat) (s : State) : Host.Outcome State Fault Refusal :=
  .next (syncReqMark link word answerSlots s)

/-- The arithmetic of R345: delay and offset. -/
def syncDelay (t1 t4 turn : Nat) : Nat := (t4 + 2 * mod40 - t1 - turn) % mod40 / 2
def syncOffset (t2 turn delay t4 : Nat) : Int := signed 40 ((t2 + turn + delay + mod40 - t4) % mod40)

def syncResp (l : Nat) (w : Dword) (t1 : Nat) (s : State) : State :=
  let t2 := w.toNat % mod40
  let turn := bitsOf w.toNat 55 40
  let t4 := s.tick.st % mod40
  let delay := syncDelay t1 t4 turn
  let off := syncOffset t2 turn delay t4
  let s := s.setLink l { s.link l with syncT1 := none, propNs := delay / 16 % 2 ^ 16 }
  if 75 * 16 < delay then linkRefused 0x0406 l s
  else
    { s with tick := { s.tick with st := (((s.tick.st : Int) + off) % (2 ^ 64 : Nat)).toNat },
             net := { s.net with syncOffset := off } }

/-- A SYNC RESP: the parent answers the request that this end sent. -/
def syncRespMark (link : Nat) (word : Dword) (s : State) : State :=
  if word.getLsbD 59 && s.net.parent == some link then
      onMarker link 3 word true (fun s =>
        match (s.link link).syncT1 with
        | none => s
        | some t1 => syncResp link word t1 s) s
    else s

/-- SYNC RESP received on the parent link (R345). -/
def execSyncResp (link : Nat) (word : Dword) (s : State) : Host.Outcome State Fault Refusal :=
  .next (syncRespMark link word s)

/-- SYNC_INTERVAL (R345): once every 1,024 marker slots a child asks its parent, on a link that carries markers (Table 11-6). -/
def execSyncInterval (s : State) : Host.Outcome State Fault Refusal :=
  .next (match s.net.parent with
    | none => s
    | some l =>
      if (s.markerLinks true).contains l then
        let t1 := s.tick.st % mod40
        sendMsg (.marker l (mkMarker 3 t1)) (s.setLink l { s.link l with syncT1 := some t1 })
      else s)

def masterPrio (s : State) : Nat := odNat s 0x4000 0x07 0

/-- What links announce, as (priority, module, hops, link), from usable and soaking links. -/
def State.announced (s : State) : List (Nat × Nat × Nat × Nat) :=
  (s.markerLinks true).filterMap (fun l =>
    match (s.link l).master with
    | some (m, prio, hops) => if prio ≠ 0 ∧ m ≠ s.moduleNo then some (prio, m, hops, l) else none
    | none => none)

/-- The election (R344): the highest priority, then the lowest module; the parent by fewest hops, then the lowest link. -/
def elect (s : State) : State :=
  let own := masterPrio s
  let cands := s.announced
  let all := (if own = 0 then [] else [(own, s.moduleNo)]) ++ cands.map (fun (c : Nat × Nat × Nat × Nat) => (c.1, c.2.1))
  let best := all.foldl (fun (b : Option (Nat × Nat)) c =>
    match b with
    | none => some c
    | some b => if b.1 < c.1 ∨ (b.1 = c.1 ∧ c.2 < b.2) then some c else some b) none
  match best with
  | none =>
    { s with net := { s.net with master := none, parent := none, hops := 0,
                                 lostSince := some (match s.net.lostSince with | some t => t | none => s.tick.st) } }
  | some (prio, m) =>
    if m = s.moduleNo then
      { s with net := { s.net with master := some (m, prio), parent := none, hops := 0, lostSince := none } }
    else
      let ways := cands.filter (fun (c : Nat × Nat × Nat × Nat) => c.1 == prio && c.2.1 == m)
      let w := ways.foldl (fun (b : Option (Nat × Nat)) (c : Nat × Nat × Nat × Nat) =>
        match b with
        | none => some (c.2.2.1, c.2.2.2)
        | some b => if c.2.2.1 < b.1 then some (c.2.2.1, c.2.2.2) else some b) none
      { s with net := { s.net with master := some (m, prio), parent := w.map (·.2),
                                   hops := min 7 ((w.map (·.1)).getD 0 + 1), lostSince := none } }

/-- An ANNOUNCE: the master the peer follows. -/
def announceMark (link : Nat) (word : Dword) (s : State) : State :=
  onMarker link 6 word true (fun s =>
    let n := word.toNat
    elect (s.setLink link { s.link link with master := some (bitsOf n 59 48, bitsOf n 47 40, bitsOf n 39 37) })) s

/-- ANNOUNCE (R344) received. -/
def execAnnounce (link : Nat) (word : Dword) (s : State) : Host.Outcome State Fault Refusal :=
  .next (announceMark link word s)

/-- ANNOUNCE_INTERVAL (R344): once every 8,192 marker slots on every link. -/
def execAnnounceInterval (s : State) : Host.Outcome State Fault Refusal :=
  let s := elect s
  let w := match s.net.master with
    | some (m, prio) => mkMarker 6 (m * 2 ^ 48 + prio * 2 ^ 40 + s.net.hops * 2 ^ 37)
    | none => mkMarker 6 (s.moduleNo * 2 ^ 48)
  .next ((s.markerLinks true).foldl (fun s l => sendMsg (.marker l w) s) s)

/-- PARENT_LINK_FAIL (R344): the next parent; ST stays continuous. -/
def execParentLinkFail (s : State) : Host.Outcome State Fault Refusal :=
  .next (match s.net.parent with
    | none => s
    | some l =>
      if (s.link l).mode.usable || (s.link l).mode == .soak then s
      else elect (s.setLink l { s.link l with master := none, syncT1 := none }))

/-- HOLDOVER_TIMEOUT (R346): 1 s without a path to a master. -/
def execHoldoverTimeout (s : State) : Host.Outcome State Fault Refusal :=
  .next (match s.net.master, s.net.lostSince with
    | none, some t =>
      let s := advanceTo (t + 1000 * msSt) s
      raiseOncePer (1000 * msSt) 0 { EventRec.mk' 0x0409 with info := some 0 } [] s
    | _, _ => s)

/-! ## LINKSTATE (R335, R350) -/

def linkstateIn (l : Nat) (w : Dword) (s : State) : State :=
  let n := w.toNat
  let m := bitsOf n 59 48
  let k := m * 64 + bitsOf n 47 42
  let seq := bitsOf n 38 31
  let new_ := match tget s.net.view k with
    | none => true
    | some (_, q) => let d := (seq + 256 - q) % 256; 1 ≤ d && d ≤ 127
  if m = s.moduleNo ∨ !new_ then s
  else
    let s := { s with net := { s.net with view := tput s.net.view k (bitsOf n 41 39, seq) } }
    checkPaths (flood (some l) w s)

/-- A LINKSTATE. -/
def linkstateMark (link : Nat) (word : Dword) (s : State) : State :=
  onMarker link 7 word false (linkstateIn link word) s

/-- LINKSTATE (R335) received: the view of remote links. -/
def execLinkstate (link : Nat) (word : Dword) (s : State) : Host.Outcome State Fault Refusal :=
  .next (linkstateMark link word s)

end Sys2Proof.Machine
end

