-- ==== Sys2Proof/Machine/Power.lean ====
section
/-!
DEFINITION. Telemetry, the Power Governor's loops, fleet commands, stretches, thermal limits and the refresh interval (chapter 12, R75,
R79): the meanings of the power and thermal rows.
-/

namespace Sys2Proof.Machine

open Sys2Proof

/-! ## Objects the Power Governor reads -/

def State.pwrCap (s : State) : Nat := odNat s 0x3000 0x01 1800
def State.rampMode (s : State) : Nat := odNat s 0x3000 0x02 0
def State.throttleC (s : State) : Int := odNat s 0x3100 0x01 95
def State.parkable (s : State) (p : Nat) : Bool := odNat s (0x3040 + p) 0x01 0 == 1
def State.parkPrio (s : State) (p : Nat) : Nat := odNat s (0x3040 + p) 0x02 0

/-- A record of the power chapter, at most once per second for a unit (R389). -/
def raisePwr (code unit info : Nat) (s : State) : State :=
  raiseOncePer (1000 * msSt) unit { EventRec.mk' code with unit := some unit, info := some info } [] s

/-! ## Rails (R361-R363) -/

def phasesOf (r : Nat) : Nat := if r < 4 then 24 else if r < 8 then 4 else if r = 8 then 8 else if r = 9 then 6 else if r = 10 then 2 else 0
def sparesOf (r : Nat) : Nat := if r < 4 then 2 else 0

def State.rail (s : State) (r : Nat) : RailState := tgetD s.pwr.rails r RailState.reset
def setRail (r : Nat) (v : RailState) (s : State) : State := { s with pwr := { s.pwr with rails := tput s.pwr.rails r v } }

def State.phasesActive (s : State) (r : Nat) : Nat := phasesOf r - ((s.rail r).lost - sparesOf r)
def State.freePhases (s : State) (r : Nat) : Nat := sparesOf r - (s.rail r).lost

/-- Rating of Table 12-1, in A (W for the inputs). -/
def nominalRating (r : Nat) : Nat :=
  if r < 4 then 640 else if r < 8 then 60 else if r = 8 then 160 else if r = 9 then 120 else if r = 10 then 190 else if r = 11 then 2200 else 25

/-- The rating of a VCORE rail after 1/24 for each phase lost beyond its spares (R363). -/
def State.rating (s : State) (r : Nat) : Rat :=
  (nominalRating r : Rat) * (24 - ((s.rail r).lost - sparesOf r : Nat)) / 24

/-- Nominal voltage of Table 12-1 in mV; VIN, 48 to 54 V, is not controlled. -/
def nominalMv (r : Nat) : Nat :=
  if r < 4 then 750 else if r < 8 then 900 else if r = 8 then 1050 else if r = 9 then 750 else if r = 10 then 12000 else if r = 12 then 12000 else 0

/-- A rail is on, by the groups in which the PTC switches them over PMBus (R425). -/
def State.railOn (s : State) (r : Nat) : Bool :=
  let g := s.life.rails
  if r = 0 ∨ r = 4 then g.die0 else if r < 8 then g.rest else if r < 10 then g.vhbm else if r = 10 then g.vbus
  else if r = 11 then s.life.vin else s.life.vaux

/-- The voltage commanded of a rail, in mV: VCORE over AVSBus, the others over PMBus (R361). -/
def State.commandedMv (s : State) (r : Nat) : Nat :=
  if !s.railOn r then 0 else if r < 4 ∧ (s.pdie r).vset ≠ 0 then (s.pdie r).vset else nominalMv r

/-- One rail of a telemetry read. -/
def readRail (r : Nat) (x : Option RailReading) (s : State) : State :=
  match x with
  | some v => setRail r { s.rail r with mv := v.mv, amps := v.amps, tempC := v.tempC, status := v.status, missed := 0 } s
  | none =>
    let n := (s.rail r).missed + 1
    let s := setRail r { s.rail r with missed := n } s
    if 3 ≤ n then raisePwr 0x0508 r s.pwr.input s else s

/-- TELEMETRY_READ (R362). -/
def execTelemetryRead (readings : List (Option RailReading)) (s : State) : Host.Outcome State Fault Refusal :=
  .next (if s.life.vaux then
      ((readings.take 13).mapIdx (fun i x => (i, x))).foldl (fun s x => readRail x.1 x.2 s) s
    else s)

/-- PHASE_RETIRE (R363). -/
def phaseRetire (r : Nat) (s : State) : State :=
  let k := s.rail r
  let s := setRail r { k with lost := min 26 (k.lost + 1) } s
  raisePwr (if k.lost < sparesOf r then 0x0503 else 0x0504) r s.pwr.input s

/-- PHASE_RETIRE (R363). -/
def execPhaseRetire (rail : Nat) (s : State) : Host.Outcome State Fault Refusal :=
  .next (if rail < 4 ∧ s.life.rails.rest then phaseRetire rail s else s)

/-! ## Sensors (R385, R393) -/

/-- The user delta of a sensor, in 1/16 °C. -/
def State.sensorDelta (s : State) (i : Nat) : Int := signed 8 ((s.odCur 0x2800 0x02).getD i 0).toNat

/-- The readings of a die's junction sensors that are valid. -/
def State.validTj (s : State) (d : Nat) (tj : List Int) : List Int :=
  (((tj.take 16).mapIdx (fun i v => v + s.sensorDelta (16 * d + i)))).filter (fun v => -640 ≤ v && v ≤ 2400)

def maxInt : List Int → Int
  | [] => 0
  | a :: r => r.foldl max a

/-- A reading of a die's hottest sensor starts, keeps or ends its stay at or below 83 °C (R75). -/
def noteCool (d : Nat) (tj : Int) (s : State) : State :=
  let k := s.pdie d
  s.setPdie d { k with coolSince := if tj ≤ 1328 then some (k.coolSince.getD s.tick.st) else none }

/-- The readings of a die: its hottest valid sensor, and the hold at 800 MHz with fewer than 8 valid ones. -/
def readSensors (d : Nat) (tj : List Int) (s : State) : State :=
  let v := s.validTj d tj
  let s := s.setPdie d { s.pdie d with sensorsOk := v.length, tjMax := maxInt v, hold800 := decide (v.length < 8) }
  let s := if v = [] then s else noteCool d (maxInt v) s
  if v.length < 8 then raisePwr 0x0513 d (wrapInt 32 (maxInt v)) s else s

/-- SENSOR_INVALID (R385). -/
def execSensorInvalid (die : Nat) (tj : List Int) (s : State) : Host.Outcome State Fault Refusal :=
  .next (if die < 4 ∧ s.life.rails.rest ∧ (s.validTj die tj).length < 8 then readSensors die tj s else s)

def readAll (tj : List (List Int)) (hbm : List Int) (s : State) : State :=
  let s := ((tj.take 4).mapIdx (fun i x => (i, x))).foldl (fun s x => readSensors x.1 x.2 s) s
  { s with pwr := { s.pwr with hbmT := if hbm = [] then s.pwr.hbmT
                                       else (hbm.take 8).mapIdx (fun i v => v + s.sensorDelta (64 + i)) } }

/-- The hottest junction or HBM stack. -/
def State.hottest (s : State) : Int :=
  maxInt ((List.range 4).map (fun d => (s.pdie d).tjMax) ++ s.pwr.hbmT)

/-! ## Averages of the input power -/

def avgOf (n : Nat) (l : List Nat) : Rat :=
  let w := l.take n
  if w = [] then 0 else (w.sum : Rat) / (w.length : Nat)

def State.avg100us (s : State) : Rat := avgOf 10 s.pwr.samples

/-! ## Trajectory (R371, R372) -/

/-- A change of the ramp setpoint: the trajectory starts from the recent input power. -/
def startTraj (setpoint : Nat) (s : State) : State :=
  { s with pwr := { s.pwr with setpoint := setpoint, traj := s.avg100us } }

/-- The rate of the mode in force, in W per ms. -/
def State.rampRate (s : State) : Nat := if s.rampMode = 2 then s.pwr.fleetRate else odNat s 0x3000 0x04 100

/-- The trajectory 10 µs on. -/
def stepTraj (s : State) : State :=
  -- a setpoint written while nothing was applied starts its trajectory now (R431)
  let want := if s.rampMode = 2 then (if s.pwr.fleetSet = 0 then s.pwr.setpoint else s.pwr.fleetSet) else odNat s 0x3000 0x03 1800
  let s := if s.rampMode ≠ 0 ∧ want ≠ s.pwr.setpoint then startTraj want s else s
  let goal : Rat := min s.pwr.setpoint s.pwrCap
  let d : Rat := (s.rampRate : Rat) / 100
  let t := s.pwr.traj
  let t := if t < goal then min goal (t + d) else max goal (t - d)
  { s with pwr := { s.pwr with traj := t } }

/-- P_R of R371. -/
def State.pR (s : State) : Rat :=
  if s.rampMode = 0 then 2200 else max (odNat s 0x3000 0x05 0 : Nat) s.pwr.traj

/-- P_T: 90 % of it while the input monitor is silent (R362). -/
def State.pT (s : State) : Rat :=
  let t := min (min (s.pwrCap : Rat) s.pwr.thCeil) s.pR
  if s.pwr.inputSilent then t * 9 / 10 else t

/-! ## Predictions and Lstar (R373) -/

def State.lLo (s : State) : Nat := lLoOf s.pwr.allow s.fMax
def State.lHi (s : State) : Nat := lHiOf s.pwr.allow

/-- g[L] for the running partitions and, with `extra`, one more as if it were running. -/
def State.gOf (s : State) (extra : Option Nat) (l : Nat) : Rat :=
  let run (p : Nat) : Bool := s.running p || extra == some p
  let parked (d : Nat) : Bool := s.dieParked d && !(match extra with
    | some p => (s.partDies p).contains d
    | none => false)
  s.pred run parked l (fOf s.pwr.allow s.fMax l)

/-- Lstar for a target. -/
def lstarOf (g : Nat → Rat) (lo hi : Nat) (pt : Rat) : Rat :=
  if g lo ≤ pt then lo
  else if pt < g hi then hi
  else
    let l0 := (List.range (hi + 1)).foldl (fun m l => if lo ≤ l ∧ pt < g l then l else m) lo
    l0 + (g l0 - pt) / (g l0 - g (l0 + 1))

/-! ## Parking by the Power Governor (R377) -/

def State.reqPending (s : State) (p : Nat) : Bool :=
  let x := s.part p
  x.parkReq || x.resumeReq || x.parkAt.isSome || x.resumeAt.isSome

def State.govPending (s : State) : Bool :=
  match s.pwr.govReq with
  | some p => s.reqPending p
  | none => false

/-- The first partition of a list under an order on (priority, number). -/
def pickPart (before : Nat × Nat → Nat × Nat → Bool) (ps : List (Nat × Nat)) : Option Nat :=
  (ps.foldl (fun (b : Option (Nat × Nat)) x => match b with
    | none => some x
    | some b => if before x b then some x else some b) none).map (·.2)

def State.parkCand (s : State) : Option Nat :=
  pickPart (fun a b => decide (a.1 < b.1))
    (((List.range 16).filter (fun p => s.running p && s.parkable p && s.partClusters p != [])).map (fun p => (s.parkPrio p, p)))

def State.resumeCand (s : State) : Option Nat :=
  pickPart (fun a b => decide (b.1 < a.1))
    (((List.range 16).filter (fun p => (s.part p).state == .parked && (s.ppart p).parkedByGov)).map (fun p => (s.parkPrio p, p)))

/-- Raise a park request for a partition. -/
def govPark (p : Nat) (s : State) : State :=
  let s := s.setPart p { s.part p with parkReq := true }
  let s := s.setPpart p { s.ppart p with parkedByGov := true }
  let s := { s with pwr := { s.pwr with govReq := some p, belowSince := none } }
  raise { EventRec.mk' 0x0507 with part := some p, info := some s.pwr.input } s

def govResume (p : Nat) (s : State) : State :=
  let s := s.setPart p { s.part p with resumeReq := true }
  let s := { s with pwr := { s.pwr with govReq := some p, aboveSince := none } }
  raise { EventRec.mk' 0x0507 with part := some p, info := some s.pwr.input } s

def us10 : Nat := 160000

/-- GOV_PARK_REQUEST. -/
def govParkRequest (s : State) : State :=
  match s.pwr.belowSince, s.parkCand with
  | some t, some p => govPark p (advanceTo (t + 10 * us10) s)
  | _, _ => s

/-- GOV_PARK_REQUEST (R377). -/
def execGovParkRequest (s : State) : Host.Outcome State Fault Refusal :=
  .next (if s.serving ∧ s.rampMode ≠ 0 ∧ !s.govPending then govParkRequest s else s)

/-- GOV_RESUME_REQUEST. -/
def govResumeRequest (s : State) : State :=
  match s.pwr.aboveSince, s.resumeCand with
  | some t, some p => govResume p (advanceTo (t + msSt) s)
  | _, _ => s

/-- GOV_RESUME_REQUEST (R377). -/
def execGovResumeRequest (s : State) : Host.Outcome State Fault Refusal :=
  .next (if s.serving ∧ s.rampMode ≠ 0 ∧ !s.govPending then govResumeRequest s else s)

/-! ## The 10 µs loop (R373) -/

/-- A condition's start time: kept while it lasts. -/
def since (c : Bool) (old : Option Nat) (st : Nat) : Option Nat :=
  if c then some (old.getD st) else none

/-- Whether the power stretch acts, and its depth in percent. -/
def Pwr.stretchPct (w : Pwr) : Nat :=
  if w.excursion || w.thermStretch || w.railStretch then 50 else if w.overrun then 25 else 0

/-- The stretch by droop: 25 % or 50 %. -/
def droopPct (n : Nat) : Nat := match n with
  | 0 => 0
  | 1 => 25
  | _ => 50

/-- STRETCH_NOW (Table 12-10): the larger stretch. -/
def State.stretchNow (s : State) (d : Nat) : Nat :=
  let p := s.pwr.stretchPct
  let x := droopPct (s.pdie d).droop
  if p = 0 ∧ x = 0 then 0 else if x ≤ p then 3 else (s.pdie d).droop

/-- PWR_DIE_STAT and THM_STATUS of a die. -/
def dieStatus (d : Nat) (s : State) : State :=
  let k := s.pdie d
  let w := min 0xFFFF k.events * 2 ^ 48 + min 255 k.loss * 2 ^ 40 + s.pwr.allow % 16 * 2 ^ 36 + s.stretchNow d * 2 ^ 34 +
    min 0xFFF k.mv * 2 ^ 20 + s.dieClk d % 4096
  let t := bit01 (decide (s.pwr.thCeil < 2200)) * 2 ^ 30 + min 16 k.sensorsOk * 2 ^ 16 + wrapInt 16 k.tjMax
  { s with reg := { s.reg with pwrDieStat := tput s.reg.pwrDieStat d (BitVec.ofNat 64 w),
                               thmStatus := tput s.reg.thmStatus d (BitVec.ofNat 32 t) } }

/-- The stretch at THROTTLE_C + 5 °C, until below THROTTLE_C + 3 °C. -/
def thermStretch (s : State) : State :=
  let t := maxInt ((List.range 4).map (fun d => (s.pdie d).tjMax))
  let c := s.throttleC * 16
  { s with pwr := { s.pwr with thermStretch := if c + 80 ≤ t then true else if t < c + 48 then false else s.pwr.thermStretch } }

/-- A derated VCORE rail stays below 90 % of its lowered rating (R363). -/
def railStretch (amps : List Nat) (s : State) : State :=
  { s with pwr := { s.pwr with railStretch := (List.range 4).any (fun d =>
      decide (sparesOf d < (s.rail d).lost) && decide (s.rating d * 9 / 10 ≤ (amps.getD d 0 : Nat))) } }

/-- Nothing is left to park, or to resume. -/
def State.nothingLeft (s : State) (low : Bool) : Bool :=
  s.rampMode == 0 || (if low then s.parkCand.isNone else s.resumeCand.isNone)

/-- Target, prediction and the conditions of R377 and 0x0505, in states that serve (R431). -/
def govern (s : State) : State :=
  let s := stepTraj s
  let pt := s.pT
  let lo := s.lLo
  let hi := s.lHi
  let gLo := s.gOf none lo
  let gHi := s.gOf none hi
  let st := s.tick.st
  let ls := lstarOf (s.gOf none) lo hi pt
  let above := match s.resumeCand with
    | some p => decide (s.gOf (some p) hi + (odNat s 0x3000 0x0D 50 : Nat) ≤ pt)
    | none => false
  let low := decide (pt < gHi)
  let high := decide (gLo < pt)
  let out := (low && s.nothingLeft true) || (high && s.nothingLeft false)
  let o := since out s.pwr.outSince st
  let sat := match o with
    | some t => decide (t + 1000 * us10 ≤ st)
    | none => false
  let satHigh := (sat && high) || (s.rampMode != 0 && decide (s.pwrCap < s.pwr.setpoint))
  let tracking := !low && !high && decide (2200 ≤ s.pwr.thCeil) && s.pwr.stretchPct == 0 && !s.pwr.inputSilent
  let stat := bit01 tracking + 2 * bit01 (sat && low) + 4 * bit01 satHigh + 8 * bit01 (decide (pt = s.pwrCap)) +
    16 * bit01 (decide (pt = s.pwr.thCeil ∧ s.pwr.thCeil < 2200)) + 32 * bit01 (s.pwr.stretchPct != 0) +
    64 * bit01 (bitOf s.pwr.status 6)
  let s := { s with pwr := { s.pwr with target := pt, lstar := ls, gMin := gHi, gMax := gLo, status := stat, outSince := o,
                                        belowSince := since low s.pwr.belowSince st,
                                        aboveSince := since above s.pwr.aboveSince st } }
  if sat then raisePwr 0x0505 11 s.pwr.input s else s

/-- A stretch by the Power Governor has been released on every die (R365, R375). -/
def noteReleased (s : State) : State :=
  (List.range 4).foldl (fun s d => s.setPdie d { s.pdie d with stretchAt := max (s.pdie d).stretchAt s.tick.st }) s

/-- POWER_GOVERNOR_LOOP. -/
def powerLoop (m : GovMeas) (s : State) : State :=
  let i := max (ceilDiv s.tick.st us10) (s.pwr.loopAt + 1)
  let s := advanceTo (i * us10) s
  let s := { s with pwr := { s.pwr with loopAt := i, inputSilent := m.inputW.isNone,
                                        samples := (m.inputW.toList ++ s.pwr.samples).take 1000 } }
  let s := (List.range 4).foldl (fun s d =>
    match m.coreMv[d]? with
    | some v => s.setPdie d { s.pdie d with mv := v }
    | none => s) s
  let before := s.pwr.thermStretch || s.pwr.railStretch
  let s := railStretch m.coreA (thermStretch (readAll m.tj m.hbmT s))
  let s := if before && !(s.pwr.thermStretch || s.pwr.railStretch) then noteReleased s else s
  let s := if s.serving then govern s else s
  let s := { s with pwr := { s.pwr with predSum := s.pwr.predSum + s.predNow, predN := s.pwr.predN + 1 } }
  (List.range 4).foldl (fun s d => dieStatus d s) s

/-- POWER_GOVERNOR_LOOP (R373). -/
def execPowerGovernorLoop (m : GovMeas) (s : State) : Host.Outcome State Fault Refusal :=
  .next (if s.life.rails.rest ∧ s.life.diesUp then powerLoop m s else s)

/-! ## FLEET (R376) -/

def fleetId (w : Dword) : Nat := bitsOf w.toNat 51 48
def fleetSetp (w : Dword) : Nat := bitsOf w.toNat 47 36
def fleetRateOf (w : Dword) : Nat := bitsOf w.toNat 35 27
def fleetCmd (w : Dword) : Nat := bitsOf w.toNat 26 25
def fleetEpoch (w : Dword) : Nat := w.toNat % 2 ^ 25
def fleetSeq (w : Dword) : Nat := bitsOf w.toNat 59 52

def fleetValid (w : Dword) : Bool := 1 ≤ fleetRateOf w && fleetRateOf w ≤ 300 && fleetCmd w != 3

def State.epochNow (s : State) : Nat := s.tick.st / msSt

def ahead (a b n : Nat) : Nat := (a + n - b) % n

/-- The epoch of a marker has begun. -/
def State.epochBegun (s : State) (w : Dword) : Bool := decide (2 ^ 24 ≤ ahead (fleetEpoch w) (s.epochNow % 2 ^ 25) (2 ^ 25))

/-- Whether the sequence number of a marker is new, by the last one seen of its fleet. -/
def State.fleetNew (s : State) (w : Dword) : Bool :=
  match s.net.fleetSeen.find? (fun x => x / 256 == fleetId w) with
  | none => true
  | some x => let d := ahead (fleetSeq w) (x % 256) 256; 1 ≤ d && d ≤ 127

def seeFleet (w : Dword) (s : State) : State :=
  let others := s.net.fleetSeen.filter (fun x => x / 256 != fleetId w)
  { s with net := { s.net with fleetSeen := (fleetId w * 256 + fleetSeq w) :: others } }

/-- Accept a marker of the own fleet: recorded, and due at its epoch's start, or at the next where that has begun. -/
def fleetAccept (w : Dword) (s : State) : State :=
  let d := match s.pwr.fleetLast with
    | some q => ahead (fleetSeq w) q 256
    | none => 1
  if fleetId w ≠ odNat s 0x3000 0x0B 0 ∨ d = 0 ∨ 127 < d then s
  else if !fleetValid w then raisePwr 0x0506 11 s.pwr.input s
  else
    { s with pwr := { s.pwr with fleetLast := some (fleetSeq w), fleetWord := BitVec.ofNat 64 (w.toNat % 2 ^ 60),
                                 fleetWait := s.pwr.fleetWait ++ [w],
                                 status := setBits s.pwr.status 6 6 (bit01 (s.epochBegun w)) } }

/-- A FLEET: a new one is flooded and accepted. -/
def fleetMark (link : Nat) (word : Dword) (s : State) : State :=
  onMarker link 4 word false (fun s =>
    if s.fleetNew word then fleetAccept word (flood (some link) word (seeFleet word s)) else s) s

/-- FLEET (R376) received. -/
def execFleet (link : Nat) (word : Dword) (s : State) : Host.Outcome State Fault Refusal :=
  .next (fleetMark link word s)

/-- FLEET_SEND as the origin: the next SEQ, the flood, and the marker applied here. -/
def fleetOrigin (payload : Nat) (s : State) : State :=
  let q := ((s.pwr.fleetLast.getD 0) + 1) % 256
  let w := mkMarker 4 (q * 2 ^ 52 + payload % 2 ^ 52)
  fleetAccept w (flood none w (seeFleet w s))

/-- FLEET_APPLY: the commands whose epoch has begun. -/
def fleetApplyOne (w : Dword) (s : State) : State :=
  let s := { s with pwr := { s.pwr with fleetSet := fleetSetp w, fleetRate := fleetRateOf w } }
  if s.rampMode ≠ 2 then s
  else
    let s := startTraj (fleetSetp w) s
    match fleetCmd w with
    | 1 => ((List.range 16).filter (fun p => s.running p && s.parkable p && s.partClusters p != [])).foldl (fun s p => govPark p s) s
    | 2 => ((List.range 16).filter (fun p => (s.part p).state == .parked && (s.ppart p).parkedByGov)).foldl
        (fun s p => govResume p s) s
    | _ => s

def fleetApply (s : State) : State :=
  let due := s.pwr.fleetWait.filter (fun w => s.epochBegun w || fleetEpoch w == s.epochNow % 2 ^ 25)
  due.foldl (fun s w => fleetApplyOne w s) { s with pwr := { s.pwr with fleetWait := s.pwr.fleetWait.filter (fun w => !due.contains w) } }

/-! ## The end of an epoch (R366, R370, R373, R385) -/

def clampRat (x lo hi : Rat) : Rat := max lo (min hi x)

/-- Modelled energy in mJ of what the epoch's activity holds for functions that `f` selects, at the VCORE commanded of each die
(R368). -/
def State.modelMj (s : State) (f : Nat → Bool) : Rat :=
  ((s.reg.work.filter (fun e => f (e.1 % 1024))).map (fun e =>
    let v : Rat := ((s.pdie (e.1 / 1024 % 4)).vset : Rat) / 750
    energyCoef (e.1 / 4096) * (e.2 : Rat) * v * v / 1000000000)).sum

/-- D_f and G of the epoch. -/
def State.dFn (s : State) (f : Nat) : Rat := s.modelMj (· == f)
def State.glideMj (s : State) : Rat := s.modelMj (· == 512)

/-- s_f: the window slots reserved for a function, of those of all cores. -/
def State.slotShare (s : State) (f : Nat) : Rat := ((tgetD s.pwr.resSlots f 0 : Nat) : Rat) / (2048 * 250000)

/-- ENERGY_ATTRIBUTION (R370), in whole mJ, of the measured energy of the epoch. -/
def shareEnergy (energy : Nat) (s : State) : State :=
  let e : Rat := energy
  let g := s.glideMj
  let fns := ((s.reg.work.map (fun (x : Nat × Nat) => x.1 % 1024) ++ s.pwr.resSlots.map (fun (x : Nat × Nat) => x.1)).filter (· < 512)).eraseDups
  let sum := (fns.map s.dFn).sum
  let q := e - sum - g
  let part (f : Nat) : Rat := if 0 ≤ q then s.dFn f + q * s.slotShare f else if sum = 0 then 0 else s.dFn f * max 0 (e - g) / sum
  let un : Rat := if 0 ≤ q then g + q * (1 - (fns.map s.slotShare).sum) else min g e
  { s with
      reg := { s.reg with work := [] },
      pwr := { s.pwr with
        fnEnergy := fns.foldl (fun t f => tput t f ((tgetD t f 0 + (part f).floor.toNat) % 2 ^ 64)) s.pwr.fnEnergy,
        unattribMj := (s.pwr.unattribMj + un.floor.toNat) % 2 ^ 64, energyMj := (s.pwr.energyMj + energy) % 2 ^ 64,
        input := energy, resSlots := [] } }

/-- c at the end of an epoch (R373): E_predicted is the mean of the loop's predictions over the epoch (log entry 112). -/
def correct (energy : Nat) (s : State) : State :=
  let p := s.pwr.predSum / ((max 1 s.pwr.predN : Nat) : Rat)
  let c := if s.pwr.inputSilent || decide (p ≤ 0) then s.pwr.corr
    else s.pwr.corr * clampRat ((energy : Rat) / p) (95 / 100) (105 / 100)
  { s with pwr := { s.pwr with corr := c, predSum := 0, predN := 0 } }

/-- Stretch loss and allowance (R366); 0x0509 above 1/16. -/
def stretchLoss (loss : List Nat) (s : State) : State :=
  let hist := (loss :: s.pwr.lossHist).take 32
  let top := (hist.map (fun l => l.foldl max 0)).foldl max 0
  let s := { s with pwr := { s.pwr with lossHist := hist, allow := min 8 (ceilDiv (16 * top) 256) } }
  (List.range 4).foldl (fun s d =>
    let v := loss.getD d 0
    let s := s.setPdie d { s.pdie d with loss := v }
    if 16 < v then raisePwr 0x0509 d s.pwr.input s else s) s

/-- THERMAL_THROTTLE (R385). -/
def throttle (power : Rat) (s : State) : State :=
  let c := s.throttleC * 16
  let t := s.hottest
  if c ≤ t then
    let first := decide (2200 ≤ s.pwr.thCeil)
    let s := { s with pwr := { s.pwr with thCeil := 95 / 100 * min s.pwr.thCeil power } }
    if first then
      let d := ((List.range 4).find? (fun d => (s.pdie d).tjMax == t)).getD 0
      raise { EventRec.mk' 0x0511 with unit := some d, info := some (wrapInt 32 t) } s
    else s
  else if t ≤ c - 32 then { s with pwr := { s.pwr with thCeil := min 2200 (s.pwr.thCeil + (s.pwrCap : Rat) / 50) } }
  else s

/-- EPOCH_END, and the fleet commands of the epoch that begins. -/
def epochEnd (m : EpochMeas) (s : State) : State :=
  let i := max (ceilDiv s.tick.st msSt) (s.pwr.epochAt + 1)
  let s := advanceTo (i * msSt) s
  let s := { s with pwr := { s.pwr with epochAt := i } }
  let s := shareEnergy m.energyMj (stretchLoss m.lossDie (correct m.energyMj s))
  let s := throttle m.energyMj (readAll m.tj m.hbmT s)
  if s.serving then fleetApply s else s

/-- EPOCH_END (R373). -/
def execEpochEnd (m : EpochMeas) (s : State) : Host.Outcome State Fault Refusal :=
  .next (if s.life.rails.rest ∧ s.life.diesUp then epochEnd m s else s)

/-! ## Stretches (R375, R382) -/

/-- DROOP: threshold 1 at 35 mV, 2 at 60 mV. -/
def droop (d n : Nat) (s : State) : State :=
  let k := s.pdie d
  s.setPdie d { k with droop := max k.droop n, events := if k.droop = 0 then satAdd 0xFFFF k.events 1 else k.events }

/-- DROOP (R382). -/
def execDroop (die threshold : Nat) (s : State) : Host.Outcome State Fault Refusal :=
  .next (if die < 4 ∧ 1 ≤ threshold ∧ threshold ≤ 2 ∧ s.life.rails.rest then droop die threshold s else s)

/-- STRETCH_RELEASE: 12.5 % at once and every 25 ns; the time of the last step counts for R365. -/
def stretchRelease (d : Nat) (s : State) : State :=
  let k := s.pdie d
  s.setPdie d { k with droop := 0, stretchAt := s.tick.st + (droopPct k.droop * 2 / 25 - 1) * 400 }

/-- STRETCH_RELEASE (R382). -/
def execStretchRelease (die : Nat) (s : State) : Host.Outcome State Fault Refusal :=
  .next (if die < 4 ∧ (s.pdie die).droop ≠ 0 then stretchRelease die s else s)

/-- POWER_STRETCH: the 100 µs average above 2,200 W, or the 10 ms average above 1.02 PWR_CAP. -/
def powerStretch (sustained : Bool) (watts : Nat) (s : State) : State :=
  let s := if sustained then { s with pwr := { s.pwr with overrun := true } } else { s with pwr := { s.pwr with excursion := true } }
  raisePwr 0x0501 11 watts s

/-- POWER_STRETCH (R375). -/
def execPowerStretch (sustained : Bool) (watts : Nat) (s : State) : Host.Outcome State Fault Refusal :=
  .next (if s.life.rails.rest ∧ (if sustained then 102 * s.pwrCap < 100 * watts else 2200 < watts) then powerStretch sustained watts s
    else s)

/-- POWER_STRETCH_RELEASE: below 2,000 W, or at PWR_CAP or below. -/
def powerRelease (sustained : Bool) (s : State) : State :=
  let s := if sustained then { s with pwr := { s.pwr with overrun := false } }
    else { s with pwr := { s.pwr with excursion := false } }
  noteReleased s

/-- POWER_STRETCH_RELEASE (R375). -/
def execPowerStretchRelease (sustained : Bool) (watts : Nat) (s : State) : Host.Outcome State Fault Refusal :=
  .next (if (if sustained then s.pwr.overrun ∧ watts ≤ s.pwrCap else s.pwr.excursion ∧ watts < 2000) then powerRelease sustained s
    else s)

/-! ## Refresh interval and status (R75, R79) -/

/-- The interval of a die changes, which is thermal activity of the die's Maintenance Arbiter (Table 13-9). -/
def setHot (d : Nat) (hot : Bool) (s : State) : State :=
  let r : MntReq := { act := .thm, die := d, core := 0, mac := 0, guard := false, at_ := s.tick.st }
  let s := s.setPdie d { s.pdie d with hot := hot }
  { s with mnt := { s.mnt with queue := s.mnt.queue.filter (fun x => !(x.act == .thm && x.die == d)) ++ [r] } }

/-- The interval follows the hottest sensor of a die, read at `tj`: 48 µs above 85 °C, 96 µs again once it has stayed at or below
83 °C for 1 ms (R75). -/
def refreshInterval (d : Nat) (tj : Int) (s : State) : State :=
  let since := (s.pdie d).coolSince
  let s := noteCool d tj s
  if 1360 < tj then (if (s.pdie d).hot then s else setHot d true s)
  else if tj ≤ 1328 ∧ (s.pdie d).hot then
    match since with
    | some t => setHot d false (advanceTo (t + msSt) s)
    | none => s
  else s

/-- REFRESH_INTERVAL_CHANGE (R75). -/
def execRefreshIntervalChange (die : Nat) (tj : Int) (s : State) : Host.Outcome State Fault Refusal :=
  .next (if 4 ≤ die ∨ !s.life.rails.rest then s else refreshInterval die tj s)

/-- REFRESH_STATUS_UPDATE. -/
def refreshStatus (d : Nat) (s : State) : State :=
  let w := bit01 (s.pdie d).hot * 2 ^ 31 + min 255 (tgetD s.mnt.urgent d 0) * 2 ^ 16 + min 0xFFFF (tgetD s.mnt.maxAge d 0)
  { s with reg := { s.reg with refreshStat := tput s.reg.refreshStat d (BitVec.ofNat 32 w) },
           mnt := { s.mnt with urgent := tdel s.mnt.urgent d, maxAge := tdel s.mnt.maxAge d } }

/-- REFRESH_STATUS_UPDATE (R79). -/
def execRefreshStatusUpdate (die : Nat) (s : State) : Host.Outcome State Fault Refusal :=
  .next (if die < 4 ∧ s.life.rails.rest then refreshStatus die s else s)

end Sys2Proof.Machine
end

