-- ==== Sys2Proof/Machine/LinkRx.lean ====
section
/-!
DEFINITION. A received flit with the marker slot beside it (R324-R328): the meaning of FLIT_RECEIVE.
-/

namespace Sys2Proof.Machine

open Sys2Proof

/-- A record unpacked from the flits, by its type. -/
def recordIn (l : Nat) (r : LinkRecord) (s : State) : State :=
  match recType r with
  | 1 => onRecord l 1 r (wrTarget l r) s
  | 2 => onRecord l 2 r (rdTarget l r) s
  | 3 => onRecord l 3 r (rdDataIn l r) s
  | 4 => onRecord l 4 r (ackIn r) s
  | 5 => onRecord l 5 r (fun s => arriveAt (recOff r % 2 ^ 14) 1 none s) s
  | _ => onRecord l 0xFF r (fun s => s) s

/-- A marker of the slot beside a flit, by its type; IDLE and the reserved types change nothing (Table 11-7). A SYNC REQ is answered
in the next slot (log entry 111). -/
def markerIn (l : Nat) (w : Dword) (s : State) : State :=
  match bitsOf w.toNat 63 60 with
  | 1 => pennantMark l w s
  | 2 => featureMark l w s
  | 3 => if w.getLsbD 59 then syncRespMark l w s else syncReqMark l w 1 s
  | 4 => fleetMark l w s
  | 5 => laneSwapMark l w s
  | 6 => announceMark l w s
  | 7 => linkstateMark l w s
  | _ => s

/-- The body of an accepted flit: its records act in order; a NULL flit has none. -/
def bodyIn (l : Nat) (flit : BlockData) (s : State) : State :=
  let bs := blockBytes flit
  if bitOf (fieldLE bs 0 4) 25 then s
  else
    let k := s.link l
    let x := takeRecords 16 (k.rxBody ++ (bs.drop 4).take 248)
    x.1.foldl (fun s r => recordIn l r s) (s.setLink l { k with rxBody := x.2 })

/-- ACK_SEQ is reported at least once every 64 flits, and credit is returned (R326, log entry 70). -/
def reportBack (l : Nat) (s : State) : State :=
  let s := returnCredit l 64 s
  if 64 ≤ (s.link l).sinceAck then sendNull l s else s

/-- FLIT_RECEIVE (R324, R326): links in UP and LOWPWR carry flits, those in SOAK carry NULL flits. The marker of an uncorrectable code
word is discarded. -/
def execFlitReceive (link : Nat) (flit : BlockData) (slot : FlitSlot) (s : State) :
    Host.Outcome State Fault Refusal :=
  .next (if (s.link link).mode.usable || (s.link link).mode == .soak then
      let (ok, s) := flitReceive link flit slot.uncorrectable s
      let s := if ok && (s.link link).mode.usable then reportBack link (bodyIn link flit s) else s
      if slot.uncorrectable then s else markerIn link slot.marker s
    else s)

end Sys2Proof.Machine
end

