-- ==== Sys2Proof/Machine/Maint.lean ====
section
/-!
DEFINITION. The Maintenance Arbiter (chapter 13) and stage S7: windows and grants, re-calibration, the patrol scrub, evacuation,
diagnosis and the commit of map changes.
-/

namespace Sys2Proof.Machine

open Sys2Proof

/-! ## Windows (R395, R396, R415-R417) -/

/-- The place of an activity in the priority order of R417. -/
def Activity.rank : Activity → Nat
  | .thm => 0
  | .rep => 1
  | .cal => 2
  | .rfc => 3
  | .scr => 4
  | .lnk => 5

/-- Table 13-10: 0 none, 1 macro, 2 core, 3 die, 4 link. -/
def mntScope (a b : Activity) : Nat := (mntMatrix.getD (6 * a.rank + b.rank) 0).toNat

/-- Whether two requests may not be granted together. -/
def mntConflict (a b : MntReq) : Bool :=
  match mntScope a.act b.act with
  | 0 => false
  | 1 => a.mac == b.mac
  | 2 => a.core == b.core
  | 3 => a.die == b.die
  | _ => a.mac == b.mac

/-- The macro holds a shadow in WRITING or VERIFIED: the Maintenance Arbiter does not fence it. -/
def State.shadowBusy (s : State) (pm : Nat) : Bool :=
  match s.frameOfMac pm with
  | none => false
  | some (_, _, f) => f.shadow.any (fun sh => sh.state != .ready && (sh.mac :: sh.compMac.toList).any (fun m => s.physMac f.core m == pm))

/-- The macro holds a shadow: its evacuation waits until the swap (R406, Table 6-3). -/
def State.holdsShadow (s : State) (pm : Nat) : Bool :=
  s.fm.frames.any (fun e => e.2.shadow.any (fun sh => (sh.mac :: sh.compMac.toList).any (fun m => s.physMac e.2.core m == pm)))

/-- A request competes in a window of a partition on a die. -/
def State.reqIn (s : State) (d p : Nat) (r : MntReq) : Bool :=
  r.die == d && (match r.act with
    | .thm | .lnk => true
    | _ => s.macPart r.mac == some p && !s.shadowBusy r.mac)

/-- Refresh catch-up of the partition's macros whose oldest row has passed 75 % of its interval. -/
def State.catchUps (s : State) (d p : Nat) : List MntReq :=
  ((s.fm.macs.filter (fun e => dieOfPhysMac e.1 == d && s.macPart e.1 == some p && (s.frameOfMac e.1).isSome &&
      e.2.age.any (fun a => 3 * s.refreshInterval d < 4 * (s.tick.st - a.2)))).map (fun e =>
    { act := .rfc, die := d, core := e.1 / 66, mac := e.1, guard := false, at_ := s.tick.st }))

/-- Requests from R72 first, the others in order of age. -/
def mntBefore (a b : MntReq) : Bool :=
  decide (a.act.rank < b.act.rank) ||
  (a.act.rank == b.act.rank && ((a.guard && !b.guard) || (a.guard == b.guard && decide (a.at_ ≤ b.at_))))

/-- Grant a request: a lane swap starts, refresh catch-up runs; the other activities run as their steps come. -/
def grantEffect (r : MntReq) (s : State) : State :=
  match r.act with
  | .rfc => refreshRows r.mac (List.range 1024) [] s
  | .lnk => startSwap r.mac { s with mnt := { s.mnt with queue := s.mnt.queue.filter (· != r) } }
  | .thm => { s with mnt := { s.mnt with queue := s.mnt.queue.filter (· != r) } }
  | _ => s

/-- The requests granted in the windows that are open. -/
def State.grants (s : State) : List MntReq := s.mnt.windows.flatMap (·.reqs)

/-- The requests granted in a window: in priority order, those that conflict with none granted before. -/
def grantList (before todo : List MntReq) : List MntReq :=
  todo.foldl (fun (g : List MntReq) r => if (before ++ g).any (mntConflict r) then g else g ++ [r]) []

/-- MAINTENANCE_WINDOW_START (R417): the window of a partition's clusters on a die opens. -/
def windowStart (d p : Nat) (s : State) : State :=
  let todo := sortBy mntBefore (s.mnt.queue.filter (s.reqIn d p) ++ s.catchUps d p)
  let g := grantList s.grants todo
  let s := { s with mnt := { s.mnt with windows := s.mnt.windows ++ [{ die := d, part := p, reqs := g }] } }
  g.foldl (fun s r => grantEffect r s) s

def State.mayOpen (s : State) (d p : Nat) : Bool :=
  s.partTicks p && (s.part p).state == .running && (s.partDies p).contains d &&
  !s.mnt.windows.any (fun w => w.die == d && w.part == p)

/-- MAINTENANCE_WINDOW_START (R417). -/
def execMaintenanceWindowStart (die part : Nat) (s : State) : Host.Outcome State Fault Refusal :=
  .next (if s.mayOpen die part then windowStart die part s else s)

/-- The self-test has passed and the rails are up: the Maintenance Arbiters run, but not in HELD (R431). -/
def State.mntUp (s : State) : Bool := s.life.rails.rest && 7 ≤ s.life.passed && s.life.state != .held

/-- The activity is granted on a macro in the open window; on units in no partition a queued activity runs at any time. -/
def State.mayRun (s : State) (a : Activity) (pm : Nat) : Bool :=
  s.mntUp && s.mnt.queue.any (fun r => r.act == a && r.mac == pm) &&
  ((s.macPart pm).isNone || s.grants.any (fun r => r.act == a && r.mac == pm))

/-- Take a request off the queue. -/
def dropReq (a : Activity) (pm : Nat) (s : State) : State :=
  { s with mnt := { s.mnt with queue := s.mnt.queue.filter (fun r => !(r.act == a && r.mac == pm)) } }

/-! ## Re-calibration (R398-R401) -/

/-- The time and the temperature of a macro's last commit: of the self-test where it has had none since. -/
def State.recalRef (s : State) (pm : Nat) : Nat × Int :=
  let m := s.macAt pm
  if m.recalAt = 0 then (s.mnt.calAt, tgetD s.mnt.calTj (dieOfPhysMac pm) 0) else (m.recalAt, m.recalTj)

def State.recalPeriod (s : State) : Nat := odNat s 0x7100 0x02 1000 * msSt

/-- RECAL_TRIGGER (R398): the period or the temperature of a macro in use or a free spare. -/
def recalTrigger (pm : Nat) (cause : RecalCause) (s : State) : State :=
  let ref := s.recalRef pm
  match cause with
  | .age => requestRecal pm false (advanceTo (ref.1 + s.recalPeriod) s)
  | .temperature =>
    if (odNat s 0x7100 0x03 10 : Int) * 16 ≤ ((s.pdie (dieOfPhysMac pm)).tjMax - ref.2).natAbs then requestRecal pm false s else s

/-- RECAL_TRIGGER (R398). -/
def execRecalTrigger (mac : Nat) (cause : RecalCause) (s : State) : Host.Outcome State Fault Refusal :=
  .next (if s.mntUp && mac < physMacCount && s.macroSt mac ≤ 1 then recalTrigger mac cause s else s)

def secKey (seg col : Nat) : Nat := seg * 2 ^ 16 + col

/-- The level that a section should report in each count of steps 2 to 5, from the bits sensed (Table 13-3, R400). -/
def calLevels (m : Mac) (seg col : Nat) : List Nat :=
  if col < 280 then
    0 :: (List.range 8).map (fun l => packets m seg col (List.range (l + 1))) ++
      (List.range 7).map (fun g => packets m seg col ((List.range 8).map (fun i => 8 * (g + 1) + i)))
  else
    let row := 64 * seg + (col - 280) / 5
    let q := (col - 280) % 5
    0 :: (List.range 8).map (fun h =>
      if q = 4 then ((refSet h).filter (fun k => refBit k (row % 64))).length
      else (((List.range 8).map (fun i => 64 * q + 8 * h + i)).filter (fun c => (rowOf m row).getLsbD c)).length)

/-- Codes of a section in force: of a column-line section its column's factory codes until a commit, of a row-line section unity and
zero (R391, log entry 114). -/
def Mac.codeOf (m : Mac) (pm seg col : Nat) : Nat × Nat :=
  (tget m.codes (secKey seg col)).getD (if col < 280 then factoryCode pm col else (32, 32))

/-- The factor of a gain code: 0.25 % a code, unity at 32. -/
def gainOf (g : Int) : Rat := 1 + ((g - 32 : Int) : Rat) / 400

/-- The nearest whole number. -/
def nearest (x : Rat) : Int := (x + 1 / 2).floor

/-- The highest measured level and its voltage. -/
def topPoint (pts : List (Nat × Int)) : Nat × Int := pts.foldl (fun t p => if t.1 < p.1 then p else t) (0, 0)

/-- The fit of a section (R400): O so that level 0 lies at V_0, G so that the highest measured level from 2 on lies on the staircase.
The codes, and whether every point corrected by them lies within 1.0 mV and the codes within 1 to 62. -/
def fitSection (old : Nat × Nat) (stair : List Nat) (pts : List (Nat × Int)) : (Int × Int) × Bool :=
  let v (l : Nat) : Int := ((stair.getD l 0 : Nat) : Int)
  let v0 := ((pts.head?).map (fun p => p.2)).getD (v 0)
  let top := topPoint pts
  let o : Int := (old.2 : Int) + nearest (((v 0 - v0 : Int) : Rat) / 2)
  let g : Int := if top.1 < 2 ∨ top.2 = v0 then (old.1 : Int)
    else 32 + nearest (400 * (((v top.1 - v 0 : Int) : Rat) / ((top.2 - v0 : Int) : Rat) * gainOf (old.1 : Int) - 1))
  let fixed (p : Nat × Int) : Rat :=
    ((v0 + 2 * (o - (old.2 : Int)) : Int) : Rat) + ((p.2 - v0 : Int) : Rat) * gainOf g / gainOf (old.1 : Int)
  let near (p : Nat × Int) : Bool :=
    let d := fixed p - ((v p.1 : Int) : Rat)
    decide (-4 ≤ d) && decide (d ≤ 4)
  ((g, o), decide (1 ≤ g ∧ g ≤ 62 ∧ 1 ≤ o ∧ o ≤ 62) && pts.all near)

/-- The staircase of a segment that a re-calibration measures: REF0's voltages in steps 2 and 3. -/
def measuredStair (m : RecalMeas) (old : List Nat) (seg : Nat) : List Nat :=
  match m.points.find? (fun p => p.seg == seg && p.col == 272) with
  | some p => (p.volts.take 9).map Int.toNat
  | none => old

/-- The fit of a measured section of a macro. -/
def fitOf (pm : Nat) (k : Mac) (m : RecalMeas) (p : RecalPoint) : (Int × Int) × Bool :=
  fitSection (k.codeOf pm p.seg p.col) (measuredStair m (k.stair.getD p.seg []) p.seg) ((calLevels k p.seg p.col).zip p.volts)

/-- The codes and the staircases that a re-calibration stages: a section that fails acceptance keeps its codes. -/
def trimOf (pm : Nat) (m : RecalMeas) (s : State) : TrimPend :=
  let k := s.macAt pm
  { mac := pm,
    stair := (List.range 16).map (fun g => measuredStair m (k.stair.getD g []) g),
    codes := (m.points.filter (fun p => (fitOf pm k m p).2)).map (fun p =>
      let c := (fitOf pm k m p).1
      (secKey p.seg p.col, c.1.toNat, c.2.toNat)) }

/-- Flag segments of a macro and ask for its evacuation. -/
def flagSegs (pm : Nat) (segs : List Nat) (s : State) : State :=
  let m := s.macAt pm
  requestDiag pm (s.setMac pm { m with flagged := segs.foldl (fun l g => insertSorted g l) m.flagged })

/-- The sections that fail acceptance: 0x0601, and the macro is flagged. -/
def recalFails (pm : Nat) (m : RecalMeas) (s : State) : State :=
  match m.points.filter (fun p => !(fitOf pm (s.macAt pm) m p).2) with
  | [] => s
  | p :: rest => flagSegs pm ((p :: rest).map (·.seg)) (raiseMnt 0x0601 (macUnit pm) (mntInfo 0 p.col 0) s)

/-- Abandoned (R401): no code changes, and the request queues again. -/
def recalAbandons (m : RecalMeas) : Bool := m.wrote || 10 < m.elapsedMs || 2 < m.dTemp

def requeue (a : Activity) (pm : Nat) (s : State) : State :=
  { s with mnt := { s.mnt with
      queue := s.mnt.queue.map (fun r => if r.act = a ∧ r.mac = pm then { r with at_ := s.tick.st } else r) } }

def recalibrate (pm : Nat) (m : RecalMeas) (s : State) : State :=
  if recalAbandons m || (s.macAt pm).flagged != [] then requeue .cal pm s
  else
    let t := trimOf pm m s
    let s := recalFails pm m (dropReq .cal pm s)
    if (s.macPart pm).isNone then applyTrim t s else { s with mnt := { s.mnt with trims := s.mnt.trims ++ [t] } }

/-- RECALIBRATION (R399): `m` is what its counts measured. A remap of the macro that waits for its boundary comes first. -/
def execRecalibration (mac : Nat) (m : RecalMeas) (s : State) : Host.Outcome State Fault Refusal :=
  let remaps := s.mnt.pend.any (fun x => match x.change with
    | .remap pm _ _ _ => pm == mac
    | _ => false)
  .next (if s.mayRun .cal mac && !remaps then recalibrate mac m s else s)

/-- CAL_DEADLINE (R417): a request from R72 has waited 10 ms. -/
def calDeadline (pm : Nat) (s : State) : State :=
  match s.mnt.queue.find? (fun r => r.act == .cal && r.mac == pm && r.guard) with
  | none => s
  | some r =>
    if s.grants.any (fun g => g.act == .cal && g.mac == pm) then s
    else raiseMnt 0x060A (macUnit pm) 0 (advanceTo (r.at_ + 10 * msSt) s)

/-- CAL_DEADLINE (R417). -/
def execCalDeadline (mac : Nat) (s : State) : Host.Outcome State Fault Refusal := .next (calDeadline mac s)

/-! ## The patrol scrub (R402-R405) -/

/-- The layout in which a macro holds its frame. -/
def State.layoutOf (s : State) (pm : Nat) (f : Frame) : Bool :=
  let at_ (m : Nat) : Bool := s.physMac f.core m == pm
  match f.shadow with
  | some sh => if at_ sh.mac then sh.sparse else if sh.compMac.any at_ then !sh.sparse else if f.mac.any at_ then f.sparse else !f.sparse
  | none => if f.mac.any at_ then f.sparse else !f.sparse

/-- Segments whose data blocks do not match their check words; a free spare is compared with KS2. -/
def State.scrubSegs (s : State) (pm : Nat) (flips : List CellFlip) : List Nat :=
  if s.macroSt pm = 1 then ((flips.filter (fun f => f.row < 1024 && f.col < 272)).map (fun f => f.row / 64)).eraseDups
  else
    match s.frameOfMac pm with
    | none => []
    | some (_, _, f) =>
      let dense := denseOf (sensedMac (s.macAt pm) flips) f.wFmt (s.layoutOf pm f)
      (((List.range 128).filter (fun b => crc32c (imageBlock dense b) != tgetD s.fm.checks (pm * 128 + b) 0)).map (· / 8)).eraseDups

/-- Segment-rows whose activation bit is 1 in LIVE (Table 13-4). -/
def liveRows : List Nat := (List.range 64).filter (fun i => i % 3 != 2)

/-- Levels that Table 13-4 expects of a column-line section in the 8 counts of LIVE, or of KS2 on a free spare. -/
def liveLevels (m : Mac) (spare sp : Bool) (p seg col : Nat) : List Nat :=
  (List.range 8).map (fun g =>
    if 272 ≤ col then ((inGroup g (if spare then List.range 64 else liveRows)).filter (refBit (col - 272))).length
    else if spare then (col + g) % 9
    else packets m seg col (match sp, logCol m col with
      | true, some c => laneRaised m seg (c / p) g liveRows
      | _, _ => inGroup g liveRows))

/-- Levels of a row-line section in the 8 transposed counts of LIVE, or of KS3. -/
def liveRowLevels (m : Mac) (spare : Bool) (row sect : Nat) : List Nat :=
  (List.range 8).map (fun h =>
    if sect = 4 then ((refSet h).filter (fun k => refBit k (row % 64))).length
    else
      let cs := (List.range 8).map (fun i => 64 * sect + 8 * h + i)
      if spare then (cs.filter (fun c => decide (row % 64 % 8 < (c + row % 64 / 8) % 9))).length
      else (cs.filter (fun c => c % 3 != 2 && (rowOf m row).getLsbD c)).length)

/-- A section that stays at a voltage through the counts of a pass reports another level than one of those expected. -/
def staysWrong (m : Mac) (seg : Nat) (uv : Int) (want : List Nat) : Bool :=
  want.any (fun n => (m.levelAt seg uv).map (·.1) != some n)

/-- Segments with a section that does not report the levels of LIVE, or of KS2 and KS3 on a free spare. A section in no use is left
out; LIVE counts transposed on dense frames of 1, 2, 4 or 8 planes (R403, R404). -/
def State.sumSegs (s : State) (pm : Nat) (dev : List Deviation) (rowDev : List RowDeviation) : List Nat :=
  let m := s.macAt pm
  let spare := s.macroSt pm == 1
  let bad (sp : Bool) (p : Nat) : List Nat :=
    ((dev.filter (fun d => d.seg < 16 && d.col < 280 && (spare || colInUse m d.col) &&
        staysWrong m d.seg d.uv (liveLevels m spare sp p d.seg d.col))).map (fun (d : Deviation) => d.seg) ++
     (rowDev.filter (fun d => d.row < 1024 && d.sect < 5 && (spare || (!sp && (p == 1 || p == 2 || p == 4 || p == 8))) &&
        staysWrong m (d.row / 64) d.uv (liveRowLevels m spare d.row d.sect))).map (fun (d : RowDeviation) => d.row / 64)).eraseDups
  if spare then bad false 1
  else
    match s.frameOfMac pm with
    | none => []
    | some (_, _, f) => bad (s.layoutOf pm f) (planes f.wFmt)

/-- The first column that a scrub saw differ. -/
def firstCol (flips : List CellFlip) : Nat := ((flips.head?).map (·.col)).getD 0

/-- The core's pass goes on to the next macro; after the last one the pass has ended. -/
def scrubNext (pm : Nat) (s : State) : State :=
  let pc := pm / 66
  let n := pm % 66 + 1
  if n < 66 then { s with mnt := { s.mnt with scrubNext := tput s.mnt.scrubNext pc n } }
  else
    { s with mnt := { s.mnt with scrubNext := tdel s.mnt.scrubNext pc, scrubAt := tput s.mnt.scrubAt pc s.tick.st,
                                 scrubLastMs := (s.tick.st - tgetD s.mnt.scrubAt pc s.mnt.calAt) / msSt % 2 ^ 32 } }

/-- A scrub of one macro. -/
def scrub (pm : Nat) (flips : List CellFlip) (dev : List Deviation) (rowDev : List RowDeviation) (s : State) : State :=
  let bad := s.scrubSegs pm flips
  let sums := s.sumSegs pm dev rowDev
  let s := if bad = [] then s else raiseMnt 0x0602 (macUnit pm) (mntInfo 0 (firstCol flips) 0) s
  let s := if sums = [] then s else raiseMnt 0x0609 (macUnit pm) (mntInfo 0 (((dev.head?).map (·.col)).getD 0) 0) s
  if bad ++ sums = [] then s else flagSegs pm (bad ++ sums) s

/-- A macro that the patrol passes over: retired, evacuating, or not to be fenced. -/
def State.scrubSkips (s : State) (pm : Nat) : Bool := 2 ≤ s.macroSt pm || s.shadowBusy pm

/-- The macro is the next one of its core's pass. -/
def State.scrubDue (s : State) (pm : Nat) : Bool :=
  let n := tgetD s.mnt.scrubNext (pm / 66) 0
  !s.scrubSkips pm && n ≤ pm % 66 &&
  (List.range (pm % 66)).all (fun i => i < n || s.scrubSkips (pm / 66 * 66 + i))

/-- A patrol scrub may run on the macro now: a window is open, and nothing granted conflicts with it. -/
def State.mayScrub (s : State) (pm : Nat) : Bool :=
  match s.macPart pm with
  | none => true
  | some p =>
    let r : MntReq := { act := .scr, die := dieOfPhysMac pm, core := pm / 66, mac := pm, guard := false, at_ := 0 }
    s.mnt.windows.any (fun w => w.die == dieOfPhysMac pm && w.part == p) &&
    !s.grants.any (fun g => g.act != .scr && mntConflict r g)

/-- The scrub shows in the window's activities. -/
def noteScrub (pm : Nat) (s : State) : State :=
  let r : MntReq := { act := .scr, die := dieOfPhysMac pm, core := pm / 66, mac := pm, guard := false, at_ := s.tick.st }
  let p := s.macPart pm
  { s with mnt := { s.mnt with windows := s.mnt.windows.map (fun w =>
      if w.die == r.die && some w.part == p && !w.reqs.any (fun g => g.act == .scr && g.mac == pm) then { w with reqs := w.reqs ++ [r] }
      else w) } }

/-- SCRUB_PASS (R404): the next macro of its core's pass, or one that a host REQUEST names. -/
def scrubPass (pm : Nat) (flips : List CellFlip) (dev : List Deviation) (rowDev : List RowDeviation) (s : State) : State :=
  if !(s.mntUp && pm < physMacCount) then s
  else if s.mayRun .scr pm then scrub pm flips dev rowDev (dropReq .scr pm s)
  else if s.scrubDue pm && s.mayScrub pm then scrub pm flips dev rowDev (scrubNext pm (noteScrub pm s))
  else s

/-- SCRUB_PASS (R404). -/
def execScrubPass (mac : Nat) (flips : List CellFlip) (dev : List Deviation) (rowDev : List RowDeviation) (s : State) :
    Host.Outcome State Fault Refusal :=
  .next (scrubPass mac flips dev rowDev s)

/-- SCRUB_DEADLINE (R404): a core's pass has not ended within SCRUB_PERIOD_MS. -/
def scrubDeadline (pc : Nat) (s : State) : State :=
  let s := advanceTo (tgetD s.mnt.scrubAt pc s.mnt.calAt + odNat s 0x7100 0x01 100 * msSt) s
  let s := { s with mnt := { s.mnt with scrubAt := tput s.mnt.scrubAt pc s.tick.st } }
  raiseMnt 0x060A (mntUnit (pc / 17) (pc % 17) 0x7F) 0 s

/-- SCRUB_DEADLINE (R404). -/
def execScrubDeadline (core : Nat) (s : State) : Host.Outcome State Fault Refusal :=
  .next (if s.mntUp && core < 4 * 34 * 17 then scrubDeadline core s else s)

/-! ## Evacuation (R406, R407) -/

/-- The lowest free spare macro of a physical core that no pending swap has taken and nothing has flagged. -/
def State.spareMacro (s : State) (pc : Nat) : Option Nat :=
  (List.range 66).find? (fun i => s.macroSt (pc * 66 + i) == 1 && (s.macAt (pc * 66 + i)).flagged == [] &&
    !s.mnt.queue.any (fun r => r.act == .rep && r.mac == pc * 66 + i) &&
    !s.mnt.pend.any (fun x => match x.change with
      | .evacSwap c _ new => s.physCore c == pc && new == i
      | _ => false))

/-- The HBM stack of an address of function f, of the eight of the module (R27). -/
def State.stackOf (s : State) (f dva : Nat) : Nat :=
  match s.locate f 0 dva with
  | .hbm _ _ hpa _ _ => hpa / 2 ^ 36
  | _ => 0

/-- Maintenance may use HBM for a macro: the stack has volume left in the tick of the macro's partition (R418). -/
def State.mntHbmFree (s : State) (pm stack : Nat) : Bool :=
  match s.macPart pm with
  | none => true
  | some p => tgetD s.mnt.hbmUsed (8 * p + stack) 0 < odNat s 0x7100 0x06 64 * 1024

def useMntHbm (pm stack n : Nat) (s : State) : State :=
  match s.macPart pm with
  | none => s
  | some p => { s with mnt := { s.mnt with hbmUsed := tmod s.mnt.hbmUsed (8 * p + stack) 0 (· + n) } }

/-- The copy of a macro is taken from its frame's image: the stack that holds it. -/
def State.imageStack (s : State) (pm : Nat) : Option Nat :=
  match s.frameOfMac pm with
  | none => none
  | some (fn, _, f) =>
    let own := (f.mac.toList ++ f.companion.toList).any (fun m => s.physMac f.core m == pm)
    if own ∧ f.backVa ≠ 0 ∧ !f.dirty ∧ s.imageOk fn f.backVa 33024 then some (s.stackOf fn f.backVa) else none

/-- The page of a backed frame that is not dirty, from its image. -/
def evacImage (fn : Nat) (f : Frame) (pm : Nat) (s : State) : Option Page × State :=
  if (s.imageStack pm).isSome then readPage fn 0 (f.backVa + 256) s else (none, s)

/-- Copy the contents of a macro to a spare: from the frame's image, else from the bits that its cells sense. -/
def evacCopy (pm new : Nat) (flips : List CellFlip) (s : State) : State :=
  match s.frameOfMac pm with
  | none => s.setMac new (zeroMac (s.macAt new) s.tick.st)
  | some (fn, _, f) =>
    let sp := s.layoutOf pm f
    match evacImage fn f pm s with
    | (some pg, s) =>
      -- a sparse frame keeps its positions: the Position Store is copied with it (R157, R406)
      let m := s.macAt pm
      let pg := if sp then { pg with slots := macSlots m f.wFmt 64, codes := (List.range 1024).map (fun i => posSlot m (i / 64) (i % 64)) } else pg
      let s := writePage fn f.core new sp pg [] s
      s.setMac new { s.macAt new with posTwo := m.posTwo }
    | (none, s) =>
      let k := moveMac (sensedMac (s.macAt pm) flips) (s.macAt new)
      let s := setChecks new (denseOf k f.wFmt sp) (s.setMac new k)
      { s with mnt := { s.mnt with copied := tput s.mnt.copied pm new } }

/-- A write task that writes the frame of a macro is under way: the copy waits until it retires. -/
def State.writesOn (s : State) (c pm : Nat) : Bool :=
  match s.frameOfMac pm with
  | none => false
  | some (_, lf, _) => ((s.core c).run.toList ++ (s.core c).paused).any (fun r => r.wrote.contains lf)

/-- EVACUATION_COPY (R406): the frame of a macro in use is copied and verified, and its swap waits for its boundary; with no free
spare the core's substitution is requested. -/
def evacuationCopy (pm : Nat) (flips : List CellFlip) (s : State) : State :=
  match s.logMac pm with
  | none => s
  | some (c, m) =>
    if s.macroSt pm ≠ 0 ∨ s.evacPending c m ∨ s.holdsShadow pm ∨ s.writesOn c pm then s
    else
      match s.spareMacro (pm / 66) with
      | none => requestSubst c s
      | some i =>
        let copy (s : State) : State := queueChange (.evacSwap c m i) false (evacCopy pm (pm / 66 * 66 + i) flips s)
        match s.imageStack pm with
        | none => copy s
        | some k => if s.mntHbmFree pm k then copy (useMntHbm pm k 33024 s) else s

/-- EVACUATION_COPY (R406). -/
def execEvacuationCopy (mac : Nat) (flips : List CellFlip) (s : State) : Host.Outcome State Fault Refusal :=
  .next (if s.mayRun .rep mac then evacuationCopy mac flips s else s)

/-! ## Diagnosis (R408-R410) -/

/-- A segment's class in the order of Table 13-5, with its column and b. -/
structure SegClass where
  seg : Nat
  cls : Nat
  col : Nat
  b   : Nat
  deriving DecidableEq, Repr

/-- Rows b to 63. -/
def isTail (rows : List Nat) (b : Nat) : Bool :=
  (List.range 64).all (fun r => rows.contains r == decide (b ≤ r))

/-- Class of the differences of one column: in KS0 the rows, in KS1 and KS2 the row groups that differ. -/
def columnClass (cellMax col : Nat) (ks : Nat → List Nat) : Nat × Nat × Nat :=
  let rows := (ks 0).eraseDups
  let groups := (ks 1).eraseDups
  let b := rows.foldl min 63
  let n := rows.length + groups.length
  if groups = [] ∧ rows ≠ [] ∧ 1 ≤ b ∧ isTail rows b then (2, col, b)
  else if 1 ≤ n ∧ n ≤ cellMax ∧ !(rows ≠ [] ∧ isTail rows b) ∧ (ks 2).all (fun g => groups.contains g || rows.any (fun r => r / 8 == g)) then
    (1, col, 0)
  else (3, col, 0)

/-- Class of one segment (Table 13-5). A difference names its vector, its row (KS1, KS2: its row group) and its physical column; in
KS3 its row and its row-line section, where the section differs beyond what the column's cells give. Differences in columns
that another column has replaced are none. -/
def classOf (m : Mac) (cellMax : Nat) (e : SegEvidence) : SegClass :=
  let ds := e.diffs.filter (fun d => d.1 == 3 || (d.2.2 < 280 && (256 ≤ d.2.2 || (logCol m d.2.2).isSome)))
  let cols := (ds.map (·.2.2)).eraseDups
  let rows := ((ds.filter (fun d => d.1 == 0)).map (·.2.1)).eraseDups
  let whole (c : Nat × Nat × Nat) : SegClass := { seg := e.seg, cls := c.1, col := c.2.1, b := c.2.2 }
  if ds = [] then whole (0, 0, 0)
  else if ds.any (fun d => d.1 == 3 || 272 ≤ d.2.2) then whole (5, (cols.head?).getD 0, 0)
  else
    match cols with
    | [c] => whole (columnClass cellMax c (fun k => (ds.filter (fun d => d.1 == k)).map (·.2.1)))
    | _ =>
      match rows with
      | [r] =>
        if 4 ≤ cols.length ∧ (ds.filter (fun d => d.1 != 0)).all (fun d => d.2.1 == r / 8) then whole (4, (cols.head?).getD 0, 0)
        else whole (5, (cols.head?).getD 0, 0)
      | _ => whole (5, (cols.head?).getD 0, 0)

/-- The most severe class, the first of its segments. -/
def worst (cs : List SegClass) : SegClass :=
  cs.foldl (fun a c => if a.cls < c.cls then c else a) ((cs.head?).getD { seg := 0, cls := 0, col := 0, b := 0 })

/-- The remap table after a column fails (R410): `none` where its section has no free spare. A spare that serves a column, or
none, sets FAILED; its logical column moves to the next free spare of the section. -/
def remapCol (t : List Half) (col : Nat) : Option (List Half) :=
  let free (q : Nat) (t : List Half) : Option Nat := (List.range 16).find? (fun i => i / 4 == q && (t.getD i 0).toNat / 2 ^ 14 == 0)
  let take (c : Nat) (t : List Half) : Option (List Half) := (free (c / 64) t).map (fun i => t.set i (BitVec.ofNat 16 (2 ^ 15 + c)))
  if col < 256 then take col t
  else
    let i := col - 256
    let e := t.getD i 0
    let t' := t.set i (BitVec.ofNat 16 (2 ^ 14 + e.toNat % 256))
    if e.getLsbD 15 then take (e.toNat % 256) t' else some t'

/-- The remap table after every failing column. -/
def remapAll (t : List Half) (cols : List Nat) : Option (List Half) :=
  cols.foldl (fun (t : Option (List Half)) c => t.bind (fun t => remapCol t c)) (some t)

/-- What a diagnosis leads to: the entries that change, or retirement. -/
inductive DiagOutcome where
  | clean
  | remaps (table : List Half)
  | retire
  deriving DecidableEq, Repr

def diagOutcome (m : Mac) (cs : List SegClass) : DiagOutcome :=
  if cs.all (fun c => c.cls == 0) then .clean
  else if cs.any (fun c => 4 ≤ c.cls) then .retire
  else
    match remapAll m.remap (((cs.filter (fun c => c.cls != 0)).map (·.col)).eraseDups) with
    | some t => .remaps t
    | none => .retire

/-- INFO of a diagnosed segment. -/
def SegClass.info (c : SegClass) : Nat := mntInfo c.cls c.col c.b

/-- The lanes that a class makes suspect: those of the differing logical column, or every lane of the segment. -/
def suspectLanes (m : Mac) (wFmt : Nat) (c : SegClass) : List Nat :=
  if 4 ≤ c.cls then List.range (lanes wFmt)
  else if c.cls = 0 then []
  else match logCol m c.col with
    | some l => if l / planes wFmt < lanes wFmt then [l / planes wFmt] else []
    | none => []

/-- The page that was copied from sensed bits becomes suspect (R409). -/
def markSuspect (pm : Nat) (cs : List SegClass) (s : State) : State :=
  match tget s.mnt.copied pm with
  | none => s
  | some new =>
    let s := { s with mnt := { s.mnt with copied := tdel s.mnt.copied pm } }
    match s.frameOfMac new with
    | none => s
    | some (_, _, f) =>
      let hits := (cs.map (fun c => (c, suspectLanes (s.macAt pm) f.wFmt c))).filter (fun x => x.2 != [])
      match hits with
      | [] => s
      | x :: _ =>
        let s := hits.foldl (fun s x => queueChange (.suspect new x.1.seg x.2) true s) s
        raiseMnt 0x0603 (macUnit new) x.1.info s

/-- LAST_DIAG: die, physical cluster, core, macro, segment, class, column, b. -/
def lastDiagOf (pm : Nat) (c : SegClass) : List Byte :=
  [pm / (66 * 17 * 34), pm / (66 * 17) % 34, pm / 66 % 17, pm % 66, c.seg, c.cls, c.col, c.b].flatMap (fun v => leB v 2)

/-- The entries of two remap tables that differ, with the class that brought each. -/
def queueRemaps (pm : Nat) (t : List Half) (cs : List SegClass) (s : State) : State :=
  let old := (s.macAt pm).remap
  (List.range 16).foldl (fun s i =>
    if old.getD i 0 = t.getD i 0 then s
    else
      let l := (t.getD i 0).toNat % 256
      let c := (cs.find? (fun c => c.cls != 0 && (c.col == l || logCol (s.macAt pm) c.col == some l))).getD (worst cs)
      queueChange (.remap pm i (t.getD i 0) c.info) false s) s

/-- Diagnosis of an evacuated macro, or of a free spare. -/
def diagnose (pm : Nat) (ev : List SegEvidence) (s : State) : State :=
  let m := s.macAt pm
  let cs := (ev.filter (fun e => e.seg < 16)).map (classOf m (odNat s 0x7100 0x04 4))
  let w := worst cs
  let w := if w.cls = 0 then { w with seg := (m.flagged.head?).getD 0 } else w
  let s := { s with mnt := { s.mnt with lastDiag := lastDiagOf pm w } }
  let s := markSuspect pm cs (dropReq .rep pm s)
  let s := s.setMac pm { s.macAt pm with rows := [], pos := [], poisonRow := [], suspect := [], age := [], flagged := [] }
  match diagOutcome m cs with
  | .clean => queueChange (.freeMacro pm) false (requestRecal pm false
      { s with mnt := { s.mnt with transients := satAdd (2 ^ 32 - 1) s.mnt.transients 1 } })
  | .remaps t => queueChange (.freeMacro pm) false (requestRecal pm false (queueRemaps pm t cs s))
  | .retire => queueChange (.retireMacro pm w.info) false s

/-- DIAGNOSIS (R408). -/
def execDiagnosis (mac : Nat) (ev : List SegEvidence) (s : State) : Host.Outcome State Fault Refusal :=
  .next (if s.mayRun .rep mac && (s.macroSt mac == 3 || s.macroSt mac == 1) then diagnose mac ev s else s)

/-! ## SPARE_MAP_COMMIT (R414) -/

/-- Mark the first change that is not committed. -/
def commitFirst : List MapPend → List MapPend
  | [] => []
  | x :: r => if x.committed then x :: commitFirst r else { x with committed := true } :: r

/-- A change that takes effect at once: of units in no partition, and a substitution before the self-test. -/
def State.atOnce (s : State) (ch : MapChange) : Bool :=
  if isSubst ch then s.life.state == .training else (s.changePart ch).isNone && !waitsRecal s ch

/-- The commit of the oldest change completes. -/
def spareMapCommit (s : State) : State :=
  match s.mnt.pend.find? (fun x => !x.committed) with
  | none => s
  | some x =>
    let s := { s with mnt := { s.mnt with pend := commitFirst s.mnt.pend } }
    if s.atOnce x.change then
      applyChange x.change { s with mnt := { s.mnt with pend := s.mnt.pend.filter (fun y => y != { x with committed := true }) } }
    else s

/-- SPARE_MAP_COMMIT (R414). -/
def execSpareMapCommit (s : State) : Host.Outcome State Fault Refusal := .next (spareMapCommit s)

/-! ## S7_SELF_TEST (R428) -/

/-- A logical core takes a spare at once, before any execution. -/
def substNow (c : Nat) (s : State) : State :=
  let s := requestSubst c s
  let s := { s with mnt := { s.mnt with pend := s.mnt.pend.map (fun x => if isSubst x.change then { x with committed := true } else x) } }
  substituteFor [c] s

/-- A macro that the self-test retires: a free spare of its core takes its place, else its core is substituted. -/
def replaceNow (pm info : Nat) (s : State) : State :=
  let s0 := applyChange (.retireMacro pm info) s
  match s.macroSt pm, s.logMac pm with
  | 0, some (c, m) =>
    (match s.spareMacro (pm / 66) with
     | some i => setMacroSt (pm / 66 * 66 + i) 0
        { s0 with mnt := { s0.mnt with macroMap := tput s0.mnt.macroMap (pm / 66 * 64 + m) i } }
     | none => substNow c s0)
  | _, _ => s0

/-- A logical macro still on a retired macro takes a free spare of its core, else its core is substituted; with no spare left,
0x0608 (R29, R413). -/
def remapRetired (pm : Nat) (s : State) : State :=
  match s.logMac pm with
  | none => s
  | some (c, m) =>
    match s.spareMacro (pm / 66) with
    | some i => setMacroSt (pm / 66 * 66 + i) 0 { s with mnt := { s.mnt with macroMap := tput s.mnt.macroMap (pm / 66 * 64 + m) i } }
    | none => substNow c s

/-- Repair of one macro that mismatched. -/
def selfRepair (pm : Nat) (ev : List SegEvidence) (s : State) : State :=
  let m := s.macAt pm
  let cs := (ev.filter (fun e => e.seg < 16)).map (classOf m (odNat s 0x7100 0x04 4))
  match diagOutcome m cs with
  | .clean => s
  | .remaps t => (List.range 16).foldl (fun s i =>
      if m.remap.getD i 0 = t.getD i 0 then s else applyChange (.remap pm i (t.getD i 0) (worst cs).info) s) s
  | .retire => replaceNow pm (worst cs).info s

/-- The re-calibration of one macro in the self-test: its codes commit, a section that fails flags it. -/
def selfCal (pm : Nat) (m : RecalMeas) (s : State) : State := applyTrim (trimOf pm m s) (recalFails pm m s)

/-- The self-test of every macro: `bad` names those that mismatched, `cal` what the re-calibrations measured. -/
def selfTest (bad : List (Nat × List SegEvidence)) (cal : List (Nat × RecalMeas)) (s : State) : State :=
  let s := bad.foldl (fun s x => if x.1 < physMacCount && s.macroSt x.1 ≤ 1 then selfRepair x.1 x.2 s else s) s
  let s := cal.foldl (fun s x => if x.1 < physMacCount && s.macroSt x.1 ≤ 1 then selfCal x.1 x.2 s else s) s
  let s := (s.mnt.macroSt.filter (fun e => e.2 == 2)).foldl (fun s e => remapRetired e.1 s) s
  if !s.allMapped then failStage 7 s
  else
    tryReady { s with
      fm := { s.fm with frames := [], checks := [], waits := [], paging := [] }, mem := { s.mem with as := [] },
      mnt := { s.mnt with calAt := s.tick.st, calTj := (List.range 4).map (fun d => (d, (s.pdie d).tjMax)) },
      life := { s.life with passed := 7, stage := 8 } }

/-- S7_SELF_TEST (R428). -/
def execS7SelfTest (bad : List (Nat × List SegEvidence)) (cal : List (Nat × RecalMeas)) (s : State) :
    Host.Outcome State Fault Refusal :=
  .next (if s.life.state == .training && s.life.passed == 6 && s.mnt.pend.all (·.committed) then selfTest bad cal s else s)

end Sys2Proof.Machine
end

