-- ==== Sys2Proof/Machine/OdLive.lean ====
section
/-!
DEFINITION. What the entries of the object dictionary read as (Tables 10-6, 11-12 to 11-14, 12-13 to 12-17, 13-14 to 13-16, 14-11 to
14-13, 15-10 to 15-17): the values that the device itself sets.
-/

namespace Sys2Proof.Machine

open Sys2Proof

/-- Whole part of a value that is not negative, in an unsigned field. -/
def wholeOf (x : Rat) : Nat := x.floor.toNat

/-- An I16 and an I32. -/
def i16 (i : Int) : List Byte := leB (wrapInt 16 i) 2
def i32 (i : Int) : List Byte := leB (wrapInt 32 i) 4

def f32B (x : Rat) : List Byte := leB (round32 x).toNat 4

def boolB (b : Bool) : List Byte := leB (bit01 b) 1

/-! ## Identity, transports, module state -/

def live10 (s : State) (index sub : Nat) : Option (List Byte) :=
  let g := s.life.generation
  match index, sub with
  | 0x1001, 0x01 => some (leB g 1)
  | 0x1001, 0x02 => some s.life.fwVersion
  | 0x1001, 0x04 => some (leB g 1)
  | 0x1001, 0x06 => some (leB g 1)
  | 0x1001, 0x07 => some (leB (g - 1) 1)
  | 0x1100, 0x02 => some (leB ((s.od.store.map (fun e => e.2.val.length + 4)).sum) 4)
  | 0x1100, 0x03 => some (leB s.od.txnSeq 4)
  | 0x1100, 0x04 => some (leB s.od.persistN 8)
  | 0x1100, 0x05 => some (leB (s.od.persistN / 500000) 1)
  | 0x1100, 0x06 => some (leB s.od.rollbacks 4)
  | 0x1100, 0x08 => some (if s.od.refused8 = [] then List.replicate 8 0 else s.od.refused8)
  | 0x1100, 0x09 => some (leB s.od.requests 8)
  | 0x1100, 0x0A => some (leB s.od.refusedN 8)
  | 0x1101, 0x04 => some (leB s.od.goIgnored 4)
  | 0x1102, 0x01 => some (leB s.od.eid 1)
  | 0x1102, 0x02 => some (leB s.od.dynAddr 1)
  | 0x1102, 0x06 => some (leB s.od.msgsRx 8)
  | 0x1102, 0x07 => some (leB s.od.msgsDropped 4)
  | 0x1103, 0x0B => some (leB (s.od.last.getD 0 0) 4 ++ leB (s.od.last.getD 1 0) 4)
  | 0x1103, 0x0D => some (leB s.od.authFails 4)
  | 0x1103, 0x0E => some (leB s.od.framesRx 8)
  | 0x1103, 0x0F => some (leB (2 * bit01 (odNat s 0x1103 0x04 0xFF == 0)) 1)
  | _, _ => none

/-- FORCE_RECOVERY_S (R433). -/
def State.forceSeconds (s : State) : Nat :=
  if s.life.state = .recovery ∧ s.life.forcePin then (s.now - s.life.forceSince) / (1000 * msSt) % 2 ^ 32 else 0

def live12 (s : State) (index sub : Nat) : Option (List Byte) :=
  match index, sub with
  | 0x1200, 0x01 => some (leB s.life.state.code 1)
  | 0x1200, 0x02 => some (leB s.life.stage 1)
  | 0x1200, 0x03 => some (leB s.life.heldCause 2)
  | 0x1200, 0x04 => some (leB s.life.heldObject 4)
  | 0x1200, 0x0B => some (leB s.forceSeconds 4)
  | 0x1201, 0x02 => some (leB s.jr.headSeq 4)
  | 0x1201, 0x03 => some (leB s.jr.recs.length 2)
  | 0x1201, 0x05 => some (match s.jr.recs.find? (fun e => e.seq == odNat s 0x1201 0x04 0) with
    | some e => eventBytes e false
    | none => [])
  | _, _ => none

/-! ## Power and thermal -/

def live30 (s : State) (index sub : Nat) : Option (List Byte) :=
  let rail := s.rail (index - 0x3010)
  let g := s.ppart (index - 0x3040)
  if index = 0x3000 then
    match sub with
    | 0x06 => some (leB (wholeOf s.pwr.target) 2)
    | 0x07 => some (leB s.pwr.input 2)
    | 0x08 => some (leB (wholeOf s.pwr.gMin) 2)
    | 0x09 => some (leB (wholeOf s.pwr.gMax) 2)
    | 0x0A => some (leB s.pwr.status 1)
    | 0x0E => some (f32B s.pwr.corr)
    | 0x0F => some (leB s.pwr.energyMj 8)
    | 0x10 => some (leB s.pwr.unattribMj 8)
    | _ => none
  else if index = 0x3001 then (if sub = 2 then some (leB s.pwr.fleetWord.toNat 8) else none)
  else if 0x3010 ≤ index ∧ index ≤ 0x301C then
    match sub with
    | 0x01 => some (leB rail.mv 2)
    | 0x02 => some (leB rail.amps.toNat 4)
    | 0x03 => some (i16 rail.tempC)
    | 0x04 => some (leB rail.status.toNat 2)
    | 0x05 => some (leB (s.phasesActive (index - 0x3010)) 1)
    | 0x06 => some (f32B (s.rating (index - 0x3010)))
    | _ => none
  else if 0x3040 ≤ index ∧ index < 0x3050 then
    match sub with
    | 0x03 => some (boolB g.parkedByGov)
    | 0x04 => some (leB g.cclk 2)
    | _ => none
  else if index = 0x3100 then
    match sub with
    | 0x03 => some ((List.range 4).flatMap (fun d => i16 (s.pdie d).tjMax))
    | 0x04 => some ((List.range 8).flatMap (fun i => i16 (s.pwr.hbmT.getD i 0)))
    | 0x05 => some (leB (wholeOf s.pwr.thCeil) 2)
    | _ => none
  else none

/-! ## Links, time, partitions, tenants -/

def PartState.code : PartState → Nat
  | .idle => 0
  | .running => 1
  | .parked => 2
  | .frozen => 3

def live40 (s : State) (index sub : Nat) : Option (List Byte) :=
  let p := s.part (index - 0x4010)
  let k := s.link (index - 0x4040)
  if index = 0x4000 then
    match sub with
    | 0x04 => some (leB s.life.slotId 1)
    | 0x05 => some (leB s.moduleNo 2)
    | 0x08 => some (leB (match s.net.master with | some (m, _) => m | none => 0) 2)
    | 0x09 => some (leB (s.net.parent.getD 0xFF) 1)
    | 0x0A => some (leB s.net.hops 1)
    | 0x0B => some (i32 s.net.syncOffset)
    | 0x0C => some (boolB s.net.lostSince.isSome)
    | 0x0D => some (leB s.life.generation 1)
    | 0x0E => some (leB (s.life.generation - 1) 1)
    | 0x0F => some (leB s.life.generation 1)
    | _ => none
  else if 0x4010 ≤ index ∧ index < 0x4020 then
    match sub with
    | 0x05 => some (leB p.tick 8)
    | 0x06 => some (leB p.level 1)
    | 0x07 => some (leB p.state.code 1)
    | 0x08 => some (leB p.final.toNat 8)
    | _ => none
  else if 0x4040 ≤ index ∧ index < 0x4040 + 36 then
    match sub with
    | 0x01 => some (leB k.mode.code 1)
    | 0x02 => some (leB k.level 1)
    | 0x03 => some (leB k.peerModule 2)
    | 0x04 => some (leB k.peerLink 1)
    | 0x05 => some (leB k.laneMap 1)
    | 0x06 => some (f32B ((k.ber : Rat) / 1000000000))
    | 0x07 => some (leB k.fecCorr 8)
    | 0x08 => some (leB k.fecUncorr 8)
    | 0x09 => some (leB k.replays 8)
    | 0x0A => some (leB k.propNs 2)
    | _ => none
  else none

def live50 (s : State) (index sub : Nat) : Option (List Byte) :=
  let f := index - 0x5000
  if 0x5000 ≤ index ∧ index < 0x5200 then
    match sub with
    | 0x01 => some (boolB (s.fnEnabled f))
    | 0x03 => some (leB (s.qpairs f) 1)
    | 0x04 => some (boolB (tget s.host.eqs f).isSome)
    | 0x05 => some (leB ((List.range 16).filter (fun w => winEn (s.winCfg f w))).length 1)
    | 0x06 => some (leB (s.fm.frames.filter (fun e => e.1 / 2 ^ 21 = f)).length 4)
    | 0x08 => some (leB (s.plansHeld f) 2)
    | 0x0A => some (leB (tgetD s.host.dbErrors f 0) 4)
    | 0x0B => some (leB (tgetD s.host.evtDropped f 0) 4)
    | 0x0C => some (leB (tgetD s.pwr.fnEnergy f 0) 8)
    | 0x0D => some (leB (min 0xFFFF (tgetD s.adm.waitMax f 0)) 2)
    | _ => none
  else none

/-! ## Spares, health, maintenance, firmware -/

/-- Units in state 1 among `n`, from the table of the states that differ from manufacture. -/
def countFree (t : Tab Nat) (atFirst : Nat → Bool) (made : Nat) : Nat :=
  let lost := (t.filter (fun e => atFirst e.1 && e.2 != 1)).length
  let won := (t.filter (fun e => !atFirst e.1 && e.2 == 1)).length
  made + won - lost

/-- Spare columns that are neither VALID nor FAILED in macros in use and free spares. -/
def State.freeColumns (s : State) : Nat :=
  let out := (s.mnt.macroSt.filter (fun e => 2 ≤ e.2)).length
  let used := (s.fm.macs.filter (fun e => s.macroSt e.1 ≤ 1)).map (fun e => (e.2.remap.filter (fun x => x.toNat / 2 ^ 14 != 0)).length)
  16 * (physMacCount - out) - used.sum

/-- MACRO_MAP of a logical cluster: of each logical core its maps, then its states. -/
def State.macroMapB (s : State) (n : Nat) : List Byte :=
  (List.range 16).flatMap (fun k =>
    let c := 16 * n + k
    let pc := s.physCore c
    (List.range 64).flatMap (fun m => leB (s.physMac c m % 66) 1) ++ (List.range 66).flatMap (fun i => leB (s.macroSt (pc * 66 + i)) 1))

def live60 (s : State) (index sub : Nat) : Option (List Byte) :=
  let n := index - 0x6020
  let d := index - 0x6010
  if index = 0x6000 then
    match sub with
    | 0x01 => some ((List.range 4).flatMap (fun d => leB ((List.range 34).filter (fun k => s.clusterSt (d * 34 + k) == 1)).length 1))
    | 0x02 => some (leB (countFree s.mnt.coreSt (fun k => k % 17 == 16) 136) 2)
    | 0x03 => some (leB (countFree s.mnt.macroSt (fun k => 64 ≤ k % 66) 4624) 4)
    | 0x04 => some (leB s.freeColumns 4)
    | 0x05 => some (leB ((List.range 36).filter (fun l => (s.link l).laneMap % 16 == 0 && !(s.link l).spareBad)).length 1)
    | 0x06 => some ((List.range 4).flatMap (fun r => leB (s.freePhases r) 1))
    | 0x07 => some (leB s.mnt.retired.1 4 ++ leB s.mnt.retired.2.1 4 ++ leB s.mnt.retired.2.2 4)
    | 0x08 => some (leB s.mnt.fillerBad 8)
    | 0x09 => some (leB s.mnt.posFixed 8)
    | 0x0A => some (leB s.mnt.transients 4)
    | 0x0B => some (leB s.mnt.scrubLastMs 4)
    | _ => none
  else if 0x6010 ≤ index ∧ index < 0x6014 then
    match sub with
    | 0x01 => some ((List.range 32).flatMap (fun i => leB (s.physCluster (32 * d + i) % 34) 1))
    | 0x02 => some ((List.range 34).flatMap (fun i => leB (s.clusterSt (34 * d + i)) 1))
    | _ => none
  else if 0x6020 ≤ index ∧ index < 0x60A0 then
    match sub with
    | 0x01 => some ((List.range 16).flatMap (fun k => leB (s.physCore (16 * n + k) % 17) 1) ++
        (List.range 17).flatMap (fun k => leB (s.coreSt (s.physCluster n * 17 + k)) 1))
    | 0x02 => some (s.macroMapB n)
    | 0x03 => some ((List.range (17 * 66)).flatMap (fun i =>
        (s.macAt (s.physCluster n * 17 * 66 + i)).remap.flatMap (fun e => leB e.toNat 2)))
    | _ => none
  else none

def SlotState.code : SlotState → Nat
  | .empty => 0
  | .downloading => 1
  | .unverified => 2
  | .verified => 3
  | .trial => 4
  | .confirmed => 5
  | .invalid => 6

/-- The 16 bytes of a boot pointer copy (R444). -/
def ptrBytes (p : BootPtr) : List Byte :=
  let b := leB p.seq 4 ++ leB p.slot 1 ++ leB p.trial 1 ++ List.replicate 6 0
  b ++ leB (crc32c b).toNat 4

def live70 (s : State) (index sub : Nat) : Option (List Byte) :=
  let k := s.slot (index - 0x7010)
  if index = 0x7000 then
    match sub with
    | 0x01 => some (leB s.life.bootSlot 1)
    | 0x02 => some (match s.ptr with
      | some p => ptrBytes p
      | none => List.replicate 16 0)
    | 0x03 => some (leB s.life.minSvn 2)
    | _ => none
  else if index = 0x7010 ∨ index = 0x7011 then
    match sub with
    | 0x01 => some (leB k.state.code 1)
    | 0x02 => some (leB k.gen 1)
    | 0x03 => some (leB k.svn 2)
    | 0x04 => some k.version
    | 0x09 => some (leB k.digest.toNat 48)
    | _ => none
  else if index = 0x7103 ∧ sub = 1 then some (if s.mnt.lastDiag = [] then List.replicate 16 0 else s.mnt.lastDiag)
  else none

/-- The value an entry reads as: what the device sets, else what was written, else the default. CLAMPED (R393) is kept with
the deltas. -/
def State.odValue (s : State) (index sub : Nat) : List Byte :=
  let live := match index / 0x1000 with
    | 1 => if index < 0x1200 then live10 s index sub else live12 s index sub
    | 2 => if index = 0x2800 ∧ sub = 3 then some (boolB s.mnt.clamped) else none
    | 3 => live30 s index sub
    | 4 => live40 s index sub
    | 5 => live50 s index sub
    | 6 => live60 s index sub
    | 7 => live70 s index sub
    | _ => none
  live.getD (s.odCur index sub)

end Sys2Proof.Machine
end

