-- ==== Sys2Proof/Machine/Od.lean ====
section
/-!
DEFINITION. Requests to the object dictionary (R455-R461, R467-R477): acceptance on the three transports, the checks in their order,
reading, staging, writing, and the commit of a transaction.
-/

namespace Sys2Proof.Machine

open Sys2Proof

/-! ## Operations and status codes (Tables 15-3 and 15-4) -/

def odRead : Nat := 1
def odWrite : Nat := 2
def odSegWrite : Nat := 3
def odSegCommit : Nat := 4
def odSegAbort : Nat := 5
def odDescribe : Nat := 6
def odList : Nat := 7

/-- The write operations (R474). -/
def isWriteOp (op : Nat) : Bool := odWrite ≤ op && op ≤ odSegAbort

def odOk : Nat := 0x00
def odClamped : Nat := 0x01
def odMalformed : Nat := 0x10
def odPowerFail : Nat := 0x11
def odReach : Nat := 0x12
def odNoObject : Nat := 0x13
def odNoSub : Nat := 0x14
def odAccess : Nat := 0x15
def odState : Nat := 0x16
def odTypeLength : Nat := 0x17
def odRange : Nat := 0x18
def odBusy : Nat := 0x19
def odSegment : Nat := 0x1A
def odTimeout : Nat := 0x1B
def odUnavailable : Nat := 0x1C
def odAuth : Nat := 0x1D
def odSeqStale : Nat := 0x1E

/-- The number of a transport in LAST_REFUSED. -/
def transportOf : Requester → Nat
  | .bar2 _ _ => 0
  | .mctp _ => 1
  | .plant _ => 2

def plantZero : PlantFrame := { dstMac := 0, srcMac := 0, version := 0, flags := 0, keyId := 0, rsv := 0, seq := 0, tag := 0 }

/-- The requester as staging and snapshots know it: of a Plant frame only the source address counts (R459). -/
def identOf : Requester → Requester
  | .plant f => .plant { plantZero with srcMac := f.srcMac }
  | w => w

def reqKey (r : OdReq) : Nat := odKey r.index r.sub

/-! ## Mailboxes (Tables 15-7 and 15-8) -/

def Mailbox.reset : Mailbox :=
  { req := 0, offset := 0, length := 0, resp := 0, respLen := 0, total := 0, ctl := 0, buf := [] }

def State.mb (s : State) (fn m : Nat) : Mailbox := tgetD s.od.mailbox (mbKey fn m) Mailbox.reset
def setMb (fn m : Nat) (v : Mailbox) (s : State) : State :=
  { s with od := { s.od with mailbox := tput s.od.mailbox (mbKey fn m) v } }

def Mailbox.busy (m : Mailbox) : Bool := m.ctl.getLsbD 31

/-- Bytes of the data buffer. -/
def mbSize (fn : Nat) : Nat := if fn = 0 then 2 ^ 20 else 4096

/-- BAR2 answers: from TRAINING on, and in RECOVERY (Table 14-1). -/
def State.bar2Up (s : State) : Bool :=
  match s.life.state with
  | .training | .held | .ready | .running | .parked | .recovery => true
  | _ => false

def State.mbExists (s : State) (fn m : Nat) : Bool := s.bar2Up && s.fnExists fn && (if fn = 0 then m < 4 else m == 0)

def putBuf (t : Tab Byte) (bs : List Byte) : Tab Byte := bs.zipIdx.foldl (fun t x => tputD 0 t x.2 x.1) t

/-- The first `n` bytes of a buffer. -/
def getBuf (t : Tab Byte) (n : Nat) : List Byte := (List.range n).map (fun i => tgetD t i 0)

/-! ## The unit of Table 15-2 -/

def hdrUnit (op tag index sub status rsv offset length : Nat) : List Byte :=
  leB op 1 ++ leB tag 1 ++ leB index 2 ++ leB sub 1 ++ leB status 1 ++ leB rsv 2 ++ leB offset 4 ++ leB length 4

/-- The data limit of the transport. -/
def dataLimit : Requester → Nat
  | .bar2 fn _ => mbSize fn
  | _ => 1024

/-! ## The Plant Port envelope (R473-R475) -/

def macB (m : BitVec 48) : List Byte := leB m.toNat 6

/-- The bytes under the tag: both addresses, then the payload from VERSION through DATA. -/
def plantMsg (f : PlantFrame) (unit : List Byte) : List Byte :=
  macB f.dstMac ++ macB f.srcMac ++ leB f.version 1 ++ leB f.flags 1 ++ leB f.keyId 1 ++ leB f.rsv 1 ++ leB f.seq 4 ++ unit

def State.keyOf (s : State) (k : Nat) : List Byte := s.odCur 0x1103 (0x07 + k)

def plantTag (key : List Byte) (f : PlantFrame) (unit : List Byte) : BitVec 96 :=
  BitVec.ofNat 96 (ofLE ((hmacSha256 key (plantMsg f unit)).take 12))

def tagged (f : PlantFrame) : Bool := bitOf f.flags 0

/-- The frame of a response: tagged with the request's key, unless it is AUTH. -/
def plantReply (f : PlantFrame) (st : Nat) (unit : List Byte) (s : State) : PlantFrame :=
  let t := tagged f && st != odAuth
  let g : PlantFrame :=
    { dstMac := f.srcMac, srcMac := f.dstMac, version := 1, flags := 2 + bit01 t, keyId := f.keyId, rsv := 0, seq := f.seq, tag := 0 }
  if t then { g with tag := plantTag (s.keyOf f.keyId) g unit } else g

/-! ## Responses (R455, R471) -/

/-- A response leaves: to the mailbox, which sets DONE, or over its transport. A mailbox that has been reset meanwhile receives
nothing. -/
def respond (op : Nat) (r : OdReq) (st : Nat) (data : List Byte) (total : Nat) (s : State) : State :=
  let h := hdrUnit (op + 0x80) r.tag r.index r.sub st 0 0 data.length
  match r.who with
  | .bar2 fn m =>
    let b := s.mb fn m
    if !b.busy then s
    else
      let ctl := setBits (setBits (setBits b.ctl.toNat 31 31 0) 30 30 1) 15 8 st
      let s := setMb fn m { b with
        resp := BitVec.ofNat 64 (ofLE (h.take 8)), respLen := BitVec.ofNat 32 data.length, total := BitVec.ofNat 32 total,
        ctl := BitVec.ofNat 32 ctl, buf := putBuf b.buf data } s
      if bitOf ctl 0 then { s with host := s.host.signal fn (bitsOf ctl 5 1) } else s
  | .mctp e => sendMsg (.odResponse (.mctp e) (BitVec.ofNat 128 (ofLE h)) data) s
  | .plant f => sendMsg (.odResponse (.plant (plantReply f st (h ++ data) s)) (BitVec.ofNat 128 (ofLE h)) data) s

/-- A refusal: it changes no entry, and LAST_REFUSED and REFUSED note it. -/
def refuse (op : Nat) (r : OdReq) (st : Nat) (data : List Byte) (s : State) : State :=
  let s := { s with od := { s.od with
    refusedN := (s.od.refusedN + 1) % 2 ^ 64,
    refused8 := leB r.index 2 ++ leB r.sub 1 ++ leB st 1 ++ leB op 1 ++ leB (transportOf r.who) 1 ++ leB 0 2 } }
  respond op r st data 0 s

/-! ## Reach (Table 15-5, R434, R471, R477) -/

def inRange (i lo hi : Nat) : Bool := lo ≤ i && i ≤ hi

/-- Table 15-5. -/
def reachTable (who : Requester) (i sub : Nat) (wr : Bool) : Bool :=
  let readable := inRange i 0x1000 0x12FF || inRange i 0x2000 0x2FFF || inRange i 0x3000 0x31FF || inRange i 0x4000 0x40FF ||
    inRange i 0x5000 0x51FF || inRange i 0x6000 0x60FF || inRange i 0x7000 0x71FF
  let writable := readable && !inRange i 0x1000 0x10FF && !inRange i 0x6000 0x60FF
  match who with
  | .bar2 fn _ => if fn = 0 then (if wr then writable else readable) else !wr && i == 0x5000 + fn
  | .mctp _ => if wr then writable && !inRange i 0x5000 0x51FF else readable
  | .plant _ =>
    if wr then inRange i 0x3000 0x30FF
    else inRange i 0x1000 0x10FF || (i == 0x1103 && sub == 0x0B) || (i == 0x1200 && sub == 0x01) || inRange i 0x3000 0x31FF ||
      inRange i 0x6000 0x60FF

/-- What RECOVERY and PLANT_MODE leave of it. -/
def State.reaches (s : State) (who : Requester) (i sub : Nat) (wr : Bool) : Bool :=
  reachTable who i sub wr &&
  (s.life.state != .recovery || (match who with
    | .plant _ => !wr && inRange i 0x1000 0x10FF
    | _ => inRange i 0x7000 0x70FF || (!wr && (inRange i 0x1000 0x10FF || i == 0x1200)))) &&
  (match who with
    | .plant _ => !wr || odNat s 0x1103 0x01 1 == 2
    | _ => true)

/-! ## Checks 1 and 2 -/

/-- Check 1: the header and its carrier. -/
def wellFormed (op : Nat) (r : OdReq) : Bool :=
  let carries := op == odWrite || op == odSegWrite
  1 ≤ op && op ≤ odList && r.status == 0 && r.rsv == 0 && r.length ≤ dataLimit r.who &&
  (if carries then r.data.length == r.length else r.data == []) && !(op == odWrite && r.offset != 0) &&
  (match r.who with
   | .plant f => f.version == 1 && f.flags ≤ 1 && f.rsv == 0
   | _ => true)

def reqUnit (op : Nat) (r : OdReq) : List Byte := hdrUnit op r.tag r.index r.sub r.status r.rsv r.offset r.length ++ r.data

/-- Check 2 of a Plant request: AUTH, SEQ_STALE. -/
def plantCheck (op : Nat) (r : OdReq) (f : PlantFrame) (s : State) : Option Nat :=
  if tagged f then
    if !(f.keyId < 2 && s.keyValid f.keyId && plantTag (s.keyOf f.keyId) f (reqUnit op r) == f.tag) then some odAuth
    else if f.seq ≤ s.od.last.getD f.keyId 0 then some odSeqStale else none
  else if isWriteOp op then some odAuth else none

/-- An AUTH failure: counted, and answered at most ten times a second. -/
def authFail (op : Nat) (r : OdReq) (s : State) : State :=
  let recent := s.od.authAt.filter (fun t => s.now < t + 1000 * msSt)
  let s := { s with od := { s.od with authFails := satAdd (2 ^ 32 - 1) s.od.authFails 1 } }
  if 10 ≤ recent.length then { s with od := { s.od with authAt := recent } }
  else refuse op r odAuth [] { s with od := { s.od with authAt := s.now :: recent } }

/-! ## Checks 3 to 8 -/

/-- The dies are not running (R468). -/
def State.diesOff (s : State) : Bool :=
  match s.life.state with
  | .off | .aux | .boot | .recovery | .faulted => true
  | _ => false

def State.slotBusy (s : State) (k : Nat) : Bool :=
  (s.life.state != .recovery && k == s.life.bootSlot) || (s.slot k).state == .trial

/-- An execution is queued or in progress. -/
def State.anyExec (s : State) : Bool := s.adm.execs != [] || s.adm.aes.any (fun a => a.subs != [])

def State.partBusy (s : State) (p : Nat) : Bool :=
  s.adm.execs.any (fun e => e.plan.key.part == p) || s.adm.aes.any (fun a => a.subs.any (fun x => x.part == p))

/-- State rules of the owning chapters: a write of `v` is refused now. -/
def State.ownerRefuses (s : State) (i sub : Nat) (v : List Byte) : Bool :=
  let st := s.life.state
  let n := ofLE v
  match i, sub with
  | 0x1100, 0x07 => st != .held
  | 0x1200, 0x05 => st != .held
  | 0x1200, 0x07 => !st.resets
  | 0x1200, 0x08 => st != .ready && st != .parked
  | 0x1200, 0x09 => !(st == .aux && s.life.standby)
  | 0x3001, 0x01 => st == .held
  | 0x7000, 0x04 => !(st == .ready || st == .held || st == .recovery) || s.anyExec || (n ≤ 1 && (s.slot n).state != .verified)
  | 0x7000, 0x05 => !(st == .ready || st == .running) || (s.slot 0).state != .trial && (s.slot 1).state != .trial
  | i, sub =>
    let k := i - 0x7010
    if i = 0x7010 ∨ i = 0x7011 then
      match sub with
      | 0x05 => (s.slot k).state == .downloading
      | 0x06 => s.slotBusy k || odNat s i 0x05 0 == 0
      | 0x07 => (s.slot k).state != .unverified
      | 0x08 => s.slotBusy k
      | _ => false
    else if 0x4010 ≤ i ∧ i < 0x4020 then s.partBusy (i - 0x4010)
    else false

/-- Checks 3 to 7. -/
def checkEarly (op : Nat) (r : OdReq) (s : State) : Option Nat :=
  let wr := isWriteOp op
  if wr && s.life.writesRefused then some odPowerFail
  else if op = odList then none
  else if !s.reaches r.who r.index r.sub wr then some odReach
  else if !odIndex r.index then some odNoObject
  else
    match odEnt r.index r.sub with
    | none => some odNoSub
    | some e =>
      if wr && (e.acc == .const || e.acc == .ro) then some odAccess
      else if e.dieHeld && s.diesOff && !(wr && e.persist) then some odUnavailable
      else none

/-- Check 8. -/
def checkState (r : OdReq) (e : OdEnt) (v : List Byte) (s : State) : Option Nat :=
  if (e.acc == .rwh && s.life.state != .held) || s.ownerRefuses r.index r.sub v then some odState else none

/-! ## Checks 9 and 10 -/

def clampI8 (lo hi : Int) (b : Byte) : Byte := BitVec.ofInt 8 (max lo (min hi b.toInt))

/-- A value within its ranges (R393): the sensor deltas −32 to 32, taps −3 to 3 and CTLE −2 to 2, a number within its range. -/
def clampTo (i sub : Nat) (e : OdEnt) (v : List Byte) : List Byte :=
  if !e.clamps then v
  else if i = 0x2800 ∧ sub = 0x02 then v.map (clampI8 (-32) 32)
  else if 0x2900 ≤ i ∧ i < 0x2900 + 36 then v.zipIdx.map (fun x => if x.2 % 4 = 3 then clampI8 (-2) 2 x.1 else clampI8 (-3) 3 x.1)
  else
    match e.range with
    | some (lo, hi) => v.map (clampI8 lo hi)
    | none => v

/-- A PLAN_QUOTA keeps the quotas of all functions within 4,096 (R317). -/
def State.quotaFits (s : State) (f q : Nat) : Bool :=
  (List.range 512).foldl (fun a g => a + (if g = f then q else planQuota s g)) 0 ≤ 4096

/-- The fields of a maintenance REQUEST. -/
def reqOk (n : Nat) : Bool :=
  let a := n % 16
  1 ≤ a && a ≤ 3 && bitsOf n 7 5 == 0 && bitsOf n 63 32 == 0 && (if bitOf n 4 then bitsOf n 31 8 < 2048 else bitsOf n 31 8 < 131072)

/-- The rules of the owners beside a plain range. -/
def State.ruleOk (s : State) (i sub : Nat) (v : List Byte) : Bool :=
  let n := ofLE v
  match i, sub with
  | 0x1100, 0x07 => n == 0x5A
  | 0x1103, 0x07 => n != 0
  | 0x1103, 0x08 => n != 0
  | 0x1200, 0x0D => n == 0
  | 0x3000, 0x0C => n % 25 == 0
  | 0x3001, 0x01 => fleetValid (BitVec.ofNat 64 n)
  | 0x7102, 0x01 => reqOk n
  | i, sub =>
    if 0x4010 ≤ i ∧ i < 0x4020 ∧ sub = 0x01 then
      n == 0xFFFF || (n < 4096 && ((List.range 16).filter (fun p => p != i - 0x4010 && s.spanning p)).length < 2)
    else if 0x4010 ≤ i ∧ i < 0x4020 ∧ sub = 0x03 then v.length % 2 == 0
    else if 0x5000 ≤ i ∧ i < 0x5200 ∧ sub = 0x07 then s.quotaFits (i - 0x5000) n
    else true

/-- Checks 9 and 10 of a value. -/
def checkValue (r : OdReq) (e : OdEnt) (v : List Byte) (s : State) : Option Nat :=
  if !e.ty.lenOk v then some odTypeLength
  else if !(e.inRange v && s.ruleOk r.index r.sub v) then some odRange
  else none

/-! ## READ, DESCRIBE, LIST (R454, R458) -/

/-- READ: the value as it is now, or the snapshot of an earlier part. -/
def doRead (r : OdReq) (e : OdEnt) (s : State) : State :=
  let id := identOf r.who
  if e.acc == .wo then respond odRead r odOk [] 0 s
  else
    let old := s.od.snaps.find? (fun x => x.who == id)
    let v := match old with
      | some x => if x.key = reqKey r ∧ r.offset ≠ 0 then x.data else s.odValue r.index r.sub
      | none => s.odValue r.index r.sub
    let s := { s with od := { s.od with snaps := { who := id, key := reqKey r, data := v } :: s.od.snaps.filter (fun x => x.who != id) } }
    respond odRead r odOk ((v.drop r.offset).take r.length) v.length s

/-- The 24 bytes of an entry descriptor. -/
def descriptor (i sub : Nat) (e : OdEnt) : List Byte :=
  let rng := match e.ty, e.range with
    | .sint _, some (lo, hi) => leB (wrapInt 64 lo) 8 ++ leB (wrapInt 64 hi) 8
    | _, some (lo, hi) => leB lo.toNat 8 ++ leB hi.toNat 8
    | _, none => List.replicate 16 0
  let fl := bit01 e.persist + 2 * bit01 e.range.isSome + 4 * bit01 e.clamps + 8 * bit01 e.dieHeld +
    16 * bit01 (reachTable (.plant plantZero) i sub false) + 32 * bit01 (reachTable (.plant plantZero) i sub true) +
    64 * bit01 (reachTable (.mctp 0) i sub true)
  leB e.ty.code 1 ++ leB e.acc.code 1 ++ leB fl 1 ++ [0] ++ leB e.ty.len 4 ++ rng

/-- Every index that exists, in ascending order. -/
def odIndices : List Nat :=
  [0x1000, 0x1001, 0x1002, 0x1003, 0x1100, 0x1101, 0x1102, 0x1103, 0x1200, 0x1201, 0x2000] ++ (List.range 136).map (0x2010 + ·) ++
  (List.range 36).map (0x2100 + ·) ++ [0x2200, 0x2800] ++ (List.range 36).map (0x2900 + ·) ++ [0x3000, 0x3001, 0x3002, 0x3003] ++
  (List.range 13).map (0x3010 + ·) ++ (List.range 16).map (0x3040 + ·) ++ [0x3100, 0x4000] ++ (List.range 16).map (0x4010 + ·) ++
  (List.range 36).map (0x4040 + ·) ++ (List.range 512).map (0x5000 + ·) ++ [0x6000] ++ (List.range 4).map (0x6010 + ·) ++
  (List.range 128).map (0x6020 + ·) ++ [0x7000, 0x7010, 0x7011, 0x7100, 0x7101, 0x7102, 0x7103]

/-- The transport reaches some entry of an index. -/
def State.reachesIndex (s : State) (who : Requester) (i : Nat) : Bool :=
  [0x00, 0x01, 0x0B].any (fun sub => s.reaches who i sub false)

def doList (r : OdReq) (s : State) : State :=
  let is := (odIndices.filter (fun i => r.index ≤ i && s.reachesIndex r.who i)).take (r.length / 2)
  let d := is.flatMap (fun i => leB i 2)
  respond odList r odOk d d.length s

/-! ## What a write does beside storing its value -/

/-- Links whose TOPOLOGY, GROUP, N_GROUPS or DISABLE changed train anew (R432); in HELD those connected wait in IDLE_TRAIN, the others
are OFF (R319, R431). -/
def relinks (before s : State) : State :=
  let s := if s.life.state = .held then idleLinks s else s
  (List.range 36).foldl (fun s l =>
    if before.linkConnected l = s.linkConnected l ∧ before.peer l = s.peer l then s
    else s.setLink l (s.link l).unlock) s

/-- The owning block applies a new value (R465 step 4). -/
def applyWrite (i sub : Nat) (v : List Byte) (before s : State) : State :=
  match i, sub with
  | 0x3000, 0x02 => if s.serving then startTraj s.pwr.setpoint s else s
  | 0x3000, 0x03 => if s.serving ∧ s.rampMode ≠ 2 then startTraj (ofLE v) s else s
  | 0x4000, 0x01 => relinks before s
  | 0x4000, 0x02 => relinks before s
  | 0x4000, 0x03 => relinks before s
  | i, sub =>
    if 0x4040 ≤ i ∧ i < 0x4040 + 36 ∧ sub = 0x0D then relinks before s
    else if 0x4010 ≤ i ∧ i < 0x4020 ∧ sub = 0x04 then
      s.setPart (i - 0x4010) { s.part (i - 0x4010) with startReq := some (s.startAt (i - 0x4010) (ofLE v)) }
    else if 0x5000 ≤ i ∧ i < 0x5200 ∧ sub = 0x07 then trimPlans (i - 0x5000) (ofLE v) 4096 s
    else s

/-- A host REQUEST of maintenance: of one macro, or of a whole core. -/
def hostRequest (n : Nat) (s : State) : State :=
  let num := bitsOf n 31 8
  let a : Activity := if n % 16 = 1 then .rep else if n % 16 = 2 then .cal else .scr
  if bitOf n 4 then
    if n % 16 = 1 then requestSubst num s
    else (List.range 66).foldl (fun s i =>
      let pm := s.physCore num * 66 + i
      if s.macroSt pm ≤ 1 then queueMnt a pm false s else s) s
  else queueMnt a (s.physMac (num / 64) (num % 64)) false s

/-- VERIFY (R443). -/
def verifySlot (k : Nat) (img : ImageFacts) (s : State) : State :=
  let ok := img.sigOk && s.life.minSvn ≤ img.svn && img.gen ≤ s.life.generation + 1 && s.life.generation ≤ img.gen + 1
  let s := setSlot k { s.slot k with state := if ok then .verified else .invalid, gen := img.gen, svn := img.svn,
                                     version := img.version, digest := img.digest } s
  if ok then s else raise { EventRec.mk' 0x0705 with unit := some k } s

/-- A DOWNLOAD segment (R461): `none` where it is out of order. -/
def downloadSeg (k off : Nat) (data : List Byte) (s : State) : Option State :=
  let x := s.slot k
  let size := if off = 0 then odNat s (0x7010 + k) 0x05 0 else x.imageSize
  let have_ := if off = 0 then [] else x.image
  let img := have_ ++ data
  if (off ≠ 0 ∧ x.state ≠ .downloading) ∨ have_.length ≠ off ∨ size < img.length then none
  else some (setSlot k { FwSlot.empty with state := if img.length = size then .unverified else .downloading, imageSize := size,
                                           image := img } s)

/-- Every persistent entry of access RW or RWH at its default, and both keys invalid (R467). -/
def factoryEnts (s : State) : List (Nat × List Byte) :=
  (s.od.vals.filterMap (fun x => match odEnt (x.1 / 256) (x.1 % 256) with
    | some e => if e.persist && (e.acc == .rw || e.acc == .rwh) && x.1 != odKey 0x1200 0x0D && x.2 != e.dflt then some (x.1, e.dflt) else none
    | none => none)) ++ [(odKey 0x1103 0x09, [0])]

/-- KEY_VALID with one bit changed. -/
def keyValidWith (k : Nat) (v : Bool) (s : State) : Nat × List Byte :=
  (odKey 0x1103 0x09, leB (setBits (ofLE (s.odCur 0x1103 0x09)) k k (bit01 v)) 1)

/-- The entries that CONFIRM changes (R446). -/
def confirmEnts (s : State) : List (Nat × List Byte) :=
  let k := if (s.slot 0).state = .trial then 0 else 1
  [(odKey (0x7010 + k) 0x01, leB SlotState.confirmed.code 1), (odKey (0x7011 - k) 0x01, leB SlotState.verified.code 1),
   (odKey 0x7000 0x03, leB (max s.life.minSvn (s.slot k).svn) 2)]

/-- Writes of WO entries: what they do, with their response. -/
def doAction (op : Nat) (r : OdReq) (v : List Byte) (s : State) : State :=
  let n := ofLE v
  let ok (s : State) : State := respond op r odOk [] 0 s
  let k := r.index - 0x7010
  match r.index, r.sub with
  | 0x1100, 0x07 => newTxn (factoryEnts s) (.factory r op) true s
  | 0x1103, 0x07 => newTxn [(reqKey r, v), keyValidWith 0 true s, (hiKey 0, leB 0 8)] (.key r op 0) true s
  | 0x1103, 0x08 => newTxn [(reqKey r, v), keyValidWith 1 true s, (hiKey 1, leB 0 8)] (.key r op 1) true s
  | 0x1103, 0x0A => newTxn [keyValidWith n false s] (.revoke r op n) true s
  | 0x1200, 0x05 => if n = 1 then releaseEffect (ok s) else ok s
  | 0x1200, 0x07 => moduleResetEffect (ok s)
  | 0x1200, 0x08 => if n = 1 then enterStandby (ok s) else ok s
  | 0x1200, 0x09 => if n = 1 then wakeEffect (ok s) else ok s
  | 0x1201, 0x06 => ok (if n = 1 then { s with jr := { s.jr with recs := [] } } else s)
  | 0x3001, 0x01 => ok (fleetOrigin n s)
  | 0x7000, 0x04 => newTxn [(odKey (0x7010 + n) 0x01, leB SlotState.trial.code 1)] (.activate r op n) true s
  | 0x7000, 0x05 => if n = 1 then newTxn (confirmEnts s) (.confirm r op) true s else ok s
  | 0x7102, 0x01 => ok (hostRequest n s)
  | i, sub =>
    if (i = 0x7010 ∨ i = 0x7011) ∧ sub = 0x07 then ok (if n = 1 then verifySlot k r.img s else s)
    else if (i = 0x7010 ∨ i = 0x7011) ∧ sub = 0x08 then ok (if n = 1 then setSlot k FwSlot.empty s else s)
    else if 0x4040 ≤ i ∧ i < 0x4040 + 36 ∧ sub = 0x0E then
      if n = 1 ∧ s.linkSaved (i - 0x4040) then newTxn [(odKey i 0x0C, [0])] (.respond r op false) true s else ok s
    else ok s

/-- A write of a WO entry that makes a transaction. -/
def actionPersists (r : OdReq) (v : List Byte) (s : State) : Bool :=
  match r.index, r.sub with
  | 0x1100, 0x07 => true
  | 0x1103, 0x07 => true
  | 0x1103, 0x08 => true
  | 0x1103, 0x0A => true
  | 0x7000, 0x04 => true
  | 0x7000, 0x05 => ofLE v == 1
  | i, sub => decide (0x4040 ≤ i ∧ i < 0x4040 + 36 ∧ sub = 0x0E) && ofLE v == 1 && s.linkSaved (i - 0x4040)

/-- More tagged writes than WRITE_RATE in the last second (R477). -/
def State.plantBusy (s : State) (who : Requester) : Bool :=
  match who with
  | .plant _ => odNat s 0x1103 0x0C 50 < (s.od.plantAt.filter (fun t => s.now < t + 1000 * msSt)).length
  | _ => false

/-- An accepted tagged write of the Plant Port. -/
def notePlant (who : Requester) (s : State) : State :=
  match who with
  | .plant _ => { s with od := { s.od with plantAt := s.now :: s.od.plantAt.filter (fun t => s.now < t + 1000 * msSt) } }
  | _ => s

/-- The whole value of an entry is written: checks 8 to 11, then the effect (R457, R465). -/
def writeValue (op : Nat) (r : OdReq) (e : OdEnt) (v0 : List Byte) (s : State) : State :=
  match checkState r e v0 s with
  | some st => refuse op r st [] s
  | none =>
    if r.sub = 0x06 ∧ (r.index = 0x7010 ∨ r.index = 0x7011) then refuse op r odTypeLength [] s
    else
      let v := if e.ty.lenOk v0 then clampTo r.index r.sub e v0 else v0
      let clamped := v != v0
      match checkValue r e v s with
      | some st => refuse op r st [] s
      | none =>
        let same := e.acc != .wo && v == s.odCur r.index r.sub
        let txn := if e.acc == .wo then actionPersists r v s else e.persist && !same
        if (txn && 16 < s.recentTxns) || s.plantBusy r.who then refuse op r odBusy [] s
        else
          let s := notePlant r.who s
          let s := if clamped then { s with mnt := { s.mnt with clamped := true } } else s
          let st := if clamped then odClamped else odOk
          if e.acc == .wo then doAction op r v s
          else if same then respond op r st [] 0 (if reqKey r / 256 / 16 = 0x401 ∧ r.sub = 0x04 then applyWrite r.index r.sub v s s else s)
          else if e.persist then newTxn [(reqKey r, v)] (.respond r op clamped) true s
          else respond op r st [] 0 (applyWrite r.index r.sub v s (setOd r.index r.sub v s))

/-! ## Staging (R459, R461) -/

def State.stagedOf (s : State) (who : Requester) : Option Staged := s.od.staged.find? (fun x => x.who == identOf who)

def dropStaged (who : Requester) (s : State) : State :=
  { s with od := { s.od with staged := s.od.staged.filter (fun x => x.who != identOf who) } }

def stagingMax : Nat := 65536

/-- SEG_WRITE. -/
def doSegWrite (r : OdReq) (e : OdEnt) (s : State) : State :=
  let op := odSegWrite
  let put (d : List Byte) (s : State) : State :=
    let x : Staged := { who := identOf r.who, key := reqKey r, data := d, last := s.now, expired := false }
    respond op r odOk [] d.length (notePlant r.who { dropStaged r.who s with
      od := { (dropStaged r.who s).od with staged := x :: (dropStaged r.who s).od.staged } })
  match checkState r e r.data s with
  | some st => refuse op r st [] s
  | none =>
    if s.plantBusy r.who then refuse op r odBusy [] s
    else if (r.index = 0x7010 ∨ r.index = 0x7011) ∧ r.sub = 0x06 then
      match downloadSeg (r.index - 0x7010) r.offset r.data s with
      | none => refuse op r odSegment [] s
      | some s => respond op r odOk [] (s.slot (r.index - 0x7010)).image.length (notePlant r.who s)
    else if r.offset = 0 then
      if s.od.staged.any (fun x => x.key == reqKey r && x.who != identOf r.who && !x.expired) then refuse op r odBusy [] s
      else if stagingMax < r.data.length then refuse op r odTypeLength [] s
      else put r.data s
    else
      match s.stagedOf r.who with
      | none => refuse op r odSegment [] s
      | some x =>
        if x.expired then refuse op r odTimeout [] (dropStaged r.who s)
        else if x.key ≠ reqKey r ∨ x.data.length ≠ r.offset then refuse op r odSegment [] s
        else if stagingMax < (x.data ++ r.data).length then refuse op r odTypeLength [] s
        else put (x.data ++ r.data) s

/-- SEG_COMMIT: the staged value is checked and written as one WRITE. -/
def doSegCommit (r : OdReq) (e : OdEnt) (s : State) : State :=
  match s.stagedOf r.who with
  | none => refuse odSegCommit r odSegment [] s
  | some x =>
    if x.expired then refuse odSegCommit r odTimeout [] (dropStaged r.who s)
    else if x.key ≠ reqKey r ∨ x.data.length ≠ r.length then refuse odSegCommit r odSegment [] s
    else writeValue odSegCommit r e x.data (dropStaged r.who s)

/-! ## Executing a request (R456, R460) -/

/-- From check 3 on. -/
def runRequest (op : Nat) (r : OdReq) (s : State) : State :=
  match checkEarly op r s with
  | some st => refuse op r st [] s
  | none =>
    if op = odList then doList r s
    else
      match odEnt r.index r.sub with
      | none => refuse op r odNoSub [] s
      | some e =>
        if op = odRead then doRead r e s
        else if op = odWrite then writeValue odWrite r e r.data s
        else if op = odSegWrite then doSegWrite r e s
        else if op = odSegCommit then doSegCommit r e s
        else if op = odSegAbort then
          if s.plantBusy r.who then refuse op r odBusy [] s else respond op r odOk [] 0 (notePlant r.who (dropStaged r.who s))
        else
          let d := descriptor r.index r.sub e
          respond op r odOk (d.take r.length) d.length s

/-- LAST of a key slot. -/
def setLast (k v : Nat) (s : State) : State := { s with od := { s.od with last := s.od.last.set k v } }

/-- The transaction that raises a ceiling; one that records the last sequence number clears KEY_VALID with it. -/
def ceilingEnts (k seq : Nat) (s : State) : List (Nat × List Byte) :=
  (hiKey k, leB (min (2 ^ 32 - 1) (seq + 65536)) 8) :: (if seq = 2 ^ 32 - 1 then [keyValidWith k false s] else [])

/-- Begin a request: checks 1 and 2, and the sequence ceiling of a tagged one. -/
def startRequest (op : Nat) (r : OdReq) (s : State) : State :=
  let s := { s with od := { s.od with requests := (s.od.requests + 1) % 2 ^ 64 } }
  if !wellFormed op r then refuse op r odMalformed [] s
  else
    match r.who with
    | .plant f =>
      match plantCheck op r f s with
      | some st => if st = odAuth then authFail op r s else refuse op r st (leB (s.od.last.getD f.keyId 0) 4) s
      | none =>
        if !tagged f then runRequest op r s
        else if s.hiOf f.keyId ≤ f.seq then newTxn (ceilingEnts f.keyId f.seq s) (.ceiling f.keyId f.seq r op) false s
        else runRequest op r (setLast f.keyId f.seq s)
    | _ => runRequest op r s

/-- A request waits for its transaction. -/
def State.odBusyNow (s : State) : Bool := s.od.txns.any (fun t => !t.committed && t.done != .ptc)

/-- Accept a request: it executes after those accepted before it. -/
def acceptRequest (op : Nat) (r : OdReq) (s : State) : State :=
  if s.odBusyNow || s.od.waiting != [] then { s with od := { s.od with waiting := s.od.waiting ++ [(op, r)] } }
  else startRequest op r s

/-- The waiting requests execute in order until one waits for a transaction. -/
def drainRequests : Nat → State → State
  | 0, s => s
  | n + 1, s =>
    if s.odBusyNow then s
    else
      match s.od.waiting with
      | [] => s
      | x :: rest => drainRequests n (startRequest x.1 x.2 { s with od := { s.od with waiting := rest } })

/-- Requests of an MCTP endpoint that have not been answered. -/
def State.outstanding (s : State) (e : Nat) : Nat :=
  (s.od.waiting.filter (fun x => x.2.who == .mctp e)).length + (s.od.txns.filter (fun t => !t.committed && (match t.done with
    | .respond r _ _ => r.who == .mctp e
    | .confirm r _ => r.who == .mctp e
    | .activate r _ _ => r.who == .mctp e
    | .factory r _ => r.who == .mctp e
    | .key r _ _ => r.who == .mctp e
    | .revoke r _ _ => r.who == .mctp e
    | _ => false))).length

/-- A request reaches the PTC on its transport. -/
def receiveRequest (op : Nat) (r : OdReq) (s : State) : State :=
  match r.who with
  | .bar2 fn m =>
    let b := s.mb fn m
    if !s.mbExists fn m then s
    else if b.busy then { s with od := { s.od with goIgnored := satAdd (2 ^ 32 - 1) s.od.goIgnored 1 } }
    else
      let h := hdrUnit op r.tag r.index r.sub r.status r.rsv 0 0
      acceptRequest op r (setMb fn m { b with
        req := BitVec.ofNat 64 (ofLE (h.take 8)), offset := BitVec.ofNat 32 r.offset, length := BitVec.ofNat 32 r.length,
        ctl := BitVec.ofNat 32 (setBits b.ctl.toNat 31 31 1), buf := putBuf b.buf r.data } s)
  | .mctp e =>
    if s.life.state = .off then s
    else
      let s := { s with od := { s.od with msgsRx := (s.od.msgsRx + 1) % 2 ^ 64 } }
      if 8 ≤ s.outstanding e then { s with od := { s.od with msgsDropped := satAdd (2 ^ 32 - 1) s.od.msgsDropped 1 } }
      else acceptRequest op r s
  | .plant f =>
    if s.life.state = .off ∨ odNat s 0x1103 0x01 1 = 0 ∨ macB f.dstMac ≠ s.odCur 0x1103 0x02 then s
    else acceptRequest op r { s with od := { s.od with framesRx := (s.od.framesRx + 1) % 2 ^ 64 } }

/-! ## The commit of a transaction (R465 step 4, R445, R446, R467, R475, R476) -/

/-- The pointer and the slots after a confirmation. -/
def confirmNow (s : State) : State :=
  let k := if (s.slot 0).state = .trial then 0 else 1
  let s := { s with life := { s.life with minSvn := max s.life.minSvn (s.slot k).svn } }
  let s := setSlotSt k .confirmed (writePtr k 0xFF s)
  if (s.slot (1 - k)).state = .confirmed then setSlotSt (1 - k) .verified s else s

/-- An activation: the pointer, the slot, and the reboot. It takes effect at the next PERST# deassertion in RECOVERY (R434);
FAULTED is left only by PERST# (R437). -/
def activateNow (k : Nat) (s : State) : State :=
  let s := setSlotSt k .trial (writePtr k 3 s)
  if s.life.state.resets then
    let s := moduleReset true none s
    { s with life := { s.life with stage := 1, newImage := true } }
  else s

/-- What follows when a transaction's values are current. -/
def afterCommit (t : Txn) (before s : State) : State :=
  let s := t.ents.foldl (fun s e => applyWrite (e.1 / 256) (e.1 % 256) e.2 before s) s
  match t.done with
  | .ptc => s
  | .respond r op clamped => respond op r (if clamped then odClamped else odOk) [] 0 s
  | .confirm r op => respond op r odOk [] 0 (confirmNow s)
  | .activate r op k => activateNow k (respond op r odOk [] 0 s)
  | .factory r op => respond op r odOk [] 0 s
  | .key r op k => respond op r odOk [] 0 (setLast k 0 s)
  | .revoke r op _ => respond op r odOk [] 0 s
  | .ceiling k seq r op => runRequest op r (setLast k seq s)

/-- The COMMIT record of the transaction at the head is programmed; the requests behind it go on. -/
def journalCommitEffect (s : State) : State :=
  match commitHead s with
  | none => s
  | some (t, s') => drainRequests (s.od.waiting.length + 1) (afterCommit t s s')

/-- JOURNAL_COMMIT_RECORD (R465). -/
def execJournalCommitRecord (s : State) : Host.Outcome State Fault Refusal :=
  .next (if s.life.vaux then journalCommitEffect s else s)

end Sys2Proof.Machine
end

