-- ==== Sys2Proof/Machine/OdCmds.lean ====
section
/-!
DEFINITION. The rows of the object dictionary, the MCTP control messages (R472), the mailbox registers of BAR2 (R470, R471) and the
register accesses without a row of their own (R16, R485).
-/

namespace Sys2Proof.Machine

open Sys2Proof

/-! ## The operations of Table 15-3 -/

/-- READ (R455, R458). -/
def execRead (r : OdReq) (s : State) : Host.Outcome State Fault Refusal := .next (receiveRequest odRead r s)

/-- WRITE (R455, R457). -/
def execWrite (r : OdReq) (s : State) : Host.Outcome State Fault Refusal := .next (receiveRequest odWrite r s)

/-- SEG_WRITE (R459). -/
def execSegWrite (r : OdReq) (s : State) : Host.Outcome State Fault Refusal := .next (receiveRequest odSegWrite r s)

/-- SEG_COMMIT (R459). -/
def execSegCommit (r : OdReq) (s : State) : Host.Outcome State Fault Refusal := .next (receiveRequest odSegCommit r s)

/-- SEG_ABORT (R459). -/
def execSegAbort (r : OdReq) (s : State) : Host.Outcome State Fault Refusal := .next (receiveRequest odSegAbort r s)

/-- DESCRIBE (R454). -/
def execDescribe (r : OdReq) (s : State) : Host.Outcome State Fault Refusal := .next (receiveRequest odDescribe r s)

/-- LIST (R455). -/
def execList (r : OdReq) (s : State) : Host.Outcome State Fault Refusal := .next (receiveRequest odList r s)

/-- A staged value is 10 s without a segment. -/
def stagingExpiryEffect (who : Requester) (s : State) : State :=
  match s.stagedOf who with
  | none => s
  | some x =>
    if x.expired then s
    else
      let s := advanceNow (x.last + 10000 * msSt) s
      { s with od := { s.od with staged := s.od.staged.map (fun (y : Staged) => if y.who == identOf who then { y with expired := true } else y) } }

/-- STAGING_EXPIRY (R459). -/
def execStagingExpiry (who : Requester) (s : State) : Host.Outcome State Fault Refusal := .next (stagingExpiryEffect who s)

/-! ## Rows that write one entry -/

def noFacts : ImageFacts := { sigOk := false, gen := 0, svn := 0, version := [], digest := 0 }

/-- A WRITE of a whole value. -/
def writeReq (who : Requester) (index sub : Nat) (data : List Byte) : OdReq :=
  { who := who, tag := 0, index := index, sub := sub, status := 0, rsv := 0, offset := 0, length := data.length, data := data, img := noFacts }

/-- A write of an entry reaches the PTC. -/
def writeEntry (who : Requester) (index sub : Nat) (data : List Byte) (s : State) : State :=
  receiveRequest odWrite (writeReq who index sub data) s

/-- RELEASE (R432). -/
def execRelease (who : Requester) (data : List Byte) (s : State) : Host.Outcome State Fault Refusal :=
  .next (writeEntry who 0x1200 0x05 data s)

/-- MODULE_RESET (R435). -/
def execModuleReset (who : Requester) (data : List Byte) (s : State) : Host.Outcome State Fault Refusal :=
  .next (writeEntry who 0x1200 0x07 data s)

/-- STANDBY (R424, Table 12-5). -/
def execStandby (who : Requester) (data : List Byte) (s : State) : Host.Outcome State Fault Refusal :=
  .next (writeEntry who 0x1200 0x08 data s)

/-- WAKE (R424). -/
def execWake (who : Requester) (data : List Byte) (s : State) : Host.Outcome State Fault Refusal :=
  .next (writeEntry who 0x1200 0x09 data s)

/-- FACTORY_DEFAULTS (R467). -/
def execFactoryDefaults (who : Requester) (data : List Byte) (s : State) : Host.Outcome State Fault Refusal :=
  .next (writeEntry who 0x1100 0x07 data s)

/-- KEY_WRITE (R476). -/
def execKeyWrite (who : Requester) (slot : Nat) (data : List Byte) (s : State) : Host.Outcome State Fault Refusal :=
  .next (if slot < 2 then writeEntry who 0x1103 (0x07 + slot) data s else s)

/-- KEY_REVOKE (R476). -/
def execKeyRevoke (who : Requester) (data : List Byte) (s : State) : Host.Outcome State Fault Refusal :=
  .next (writeEntry who 0x1103 0x0A data s)

/-- CLEAR_SAVED of a link (R360). -/
def execClearSaved (who : Requester) (link : Nat) (data : List Byte) (s : State) : Host.Outcome State Fault Refusal :=
  .next (if link < 36 then writeEntry who (0x4040 + link) 0x0E data s else s)

/-- FLEET_SEND (R376). -/
def execFleetSend (who : Requester) (data : List Byte) (s : State) : Host.Outcome State Fault Refusal :=
  .next (writeEntry who 0x3001 0x01 data s)

/-- PWR_CAP_WRITE (R371, R372). -/
def execPwrCapWrite (who : Requester) (data : List Byte) (s : State) : Host.Outcome State Fault Refusal :=
  .next (writeEntry who 0x3000 0x01 data s)

/-- SETPOINT_CHANGE (R372). -/
def execSetpointChange (who : Requester) (data : List Byte) (s : State) : Host.Outcome State Fault Refusal :=
  .next (writeEntry who 0x3000 0x03 data s)

/-- ACTIVATE (R445). -/
def execActivate (who : Requester) (data : List Byte) (s : State) : Host.Outcome State Fault Refusal :=
  .next (writeEntry who 0x7000 0x04 data s)

/-- CONFIRM (R446). -/
def execConfirm (who : Requester) (data : List Byte) (s : State) : Host.Outcome State Fault Refusal :=
  .next (writeEntry who 0x7000 0x05 data s)

/-- DOWNLOAD: one segment of an image (R461). -/
def execDownload (who : Requester) (slot offset : Nat) (data : List Byte) (s : State) : Host.Outcome State Fault Refusal :=
  .next (if slot < 2 then receiveRequest odSegWrite { writeReq who (0x7010 + slot) 0x06 data with offset := offset } s else s)

/-- VERIFY (R443). -/
def execVerify (who : Requester) (slot : Nat) (data : List Byte) (img : ImageFacts) (s : State) : Host.Outcome State Fault Refusal :=
  .next (if slot < 2 then receiveRequest odWrite { writeReq who (0x7010 + slot) 0x07 data with img := img } s else s)

/-- ERASE (R450). -/
def execErase (who : Requester) (slot : Nat) (data : List Byte) (s : State) : Host.Outcome State Fault Refusal :=
  .next (if slot < 2 then writeEntry who (0x7010 + slot) 0x08 data s else s)

/-- CLEAR of the event journal (R448). -/
def execClear (who : Requester) (data : List Byte) (s : State) : Host.Outcome State Fault Refusal :=
  .next (writeEntry who 0x1201 0x06 data s)

/-- REQUEST of maintenance (R421). -/
def execRequest (who : Requester) (data : List Byte) (s : State) : Host.Outcome State Fault Refusal :=
  .next (writeEntry who 0x7102 0x01 data s)

/-! ## MCTP control messages (R472) -/

/-- A control message is received and answered; the PTC runs wherever AUX power is. -/
def mctpControl (code : Nat) (data : State → List Byte) (eff : State → State) (s : State) : State :=
  if s.life.state = .off then s
  else
    let s := eff { s with od := { s.od with msgsRx := (s.od.msgsRx + 1) % 2 ^ 64 } }
    sendMsg (.mctpControl code (data s)) s

/-- Completion codes. PRESUMED (DSP0236). -/
def mctpSuccess : Byte := 0
def mctpInvalid : Byte := 0x02
def mctpTypeUnsupported : Byte := 0x80

/-- SET_ENDPOINT_ID (R472): an ID from 8 to 254 is assigned. -/
def execSetEndpointId (eid : Nat) (s : State) : Host.Outcome State Fault Refusal :=
  .next (if 8 ≤ eid ∧ eid ≤ 254 then
      mctpControl 1 (fun s => [mctpSuccess, 0] ++ leB s.od.eid 1 ++ [0]) (fun s => { s with od := { s.od with eid := eid } }) s
    else mctpControl 1 (fun _ => [mctpInvalid]) (fun s => s) s)

/-- GET_ENDPOINT_ID (R472). -/
def execGetEndpointId (s : State) : Host.Outcome State Fault Refusal :=
  .next (mctpControl 2 (fun s => [mctpSuccess] ++ leB s.od.eid 1 ++ [0, 0]) (fun s => s) s)

/-- GET_MCTP_VERSION_SUPPORT (R472): version 1.3 of the base specification. -/
def execGetMctpVersionSupport (msgType : Nat) (s : State) : Host.Outcome State Fault Refusal :=
  .next (mctpControl 4 (fun _ =>
    if msgType = 0xFF ∨ msgType = 0 then [mctpSuccess, 1, 0xF1, 0xF3, 0xF0, 0x00] else [mctpTypeUnsupported]) (fun s => s) s)

/-- GET_MESSAGE_TYPE_SUPPORT (R472): vendor defined, PCI. -/
def execGetMessageTypeSupport (s : State) : Host.Outcome State Fault Refusal :=
  .next (mctpControl 5 (fun _ => [mctpSuccess, 1, 0x7E]) (fun s => s) s)

/-- GET_VENDOR_DEFINED_MESSAGE_SUPPORT (R472): the one set, PCI vendor 0x1D7A, command set 0x01. -/
def execGetVendorDefinedMessageSupport (selector : Nat) (s : State) : Host.Outcome State Fault Refusal :=
  .next (mctpControl 6 (fun _ =>
    if selector = 0 then [mctpSuccess, 0xFF, 0, 0x1D, 0x7A, 0x00, 0x01] else [mctpInvalid]) (fun s => s) s)

/-- DYNAMIC_ADDRESS_ASSIGNMENT (R472). -/
def execDynamicAddressAssignment (addr : Nat) (s : State) : Host.Outcome State Fault Refusal :=
  .next (if s.life.state = .off then s else { s with od := { s.od with dynAddr := addr % 128 } })

/-! ## The mailbox registers (Tables 15-7 and 15-8) -/

/-- A byte of a BAR2 window as a mailbox register page: the mailbox and the offset. -/
def mbPage (fn off : Nat) : Option (Nat × Nat) :=
  if fn = 0 then (if off < 0x4000 then some (off / 0x1000, off % 0x1000) else none)
  else (if off < 0x1000 then some (0, off) else none)

/-- A byte of a BAR2 window as a byte of a data buffer. -/
def mbBuffer (fn off : Nat) : Option (Nat × Nat) :=
  if fn = 0 then (if 0x100000 ≤ off ∧ off < 0x500000 then some ((off - 0x100000) / 0x100000, (off - 0x100000) % 0x100000) else none)
  else (if 0x1000 ≤ off ∧ off < 0x2000 then some (0, off - 0x1000) else none)

/-- What VERIFY finds in an image. -/
def factsOf (img : List Byte) : ImageFacts :=
  { sigOk := Config.imageSigOk img, gen := Config.imageGen img, svn := Config.imageSvn img, version := Config.imageVersion img,
    digest := Config.imageDigest img }

/-- The request that the registers and the buffer of a mailbox hold. -/
def mbRequest (fn m : Nat) (s : State) : OdReq :=
  let b := s.mb fn m
  let q := b.req.toNat
  let op := bitsOf q 7 0
  let index := bitsOf q 31 16
  let carries := op == odWrite || op == odSegWrite
  let slot := if index = 0x7010 ∨ index = 0x7011 then index - 0x7010 else 0
  { who := .bar2 fn m, tag := bitsOf q 15 8, index := index, sub := bitsOf q 39 32, status := bitsOf q 47 40, rsv := bitsOf q 63 48,
    offset := b.offset.toNat, length := b.length.toNat,
    data := if carries && b.length.toNat ≤ mbSize fn then getBuf b.buf b.length.toNat else [],
    img := factsOf (s.slot slot).image }

/-- A write of OD_MB_GO. -/
def mbGo (fn m : Nat) (s : State) : State :=
  receiveRequest (bitsOf (s.mb fn m).req.toNat 7 0) (mbRequest fn m s) s

/-- The fields of OD_MB_CTL that software writes: VECTOR and IRQ_EN; DONE is cleared by 1. -/
def mbCtlWrite (old v : Nat) : Nat :=
  let x := setBits old 5 0 (bitsOf v 5 0)
  if bitOf v 30 then setBits x 30 30 0 else x

/-- A write of a mailbox register, at offset `x` of its page. -/
def mbRegWrite (fn m x v n : Nat) (s : State) : State :=
  let b := s.mb fn m
  let w : Word := BitVec.ofNat 32 v
  if x < 8 then
    if x + n ≤ 8 then
      let half : Half64 := if n = 8 then .whole else if x = 0 then .low else .high
      withHalf (heldKey fn 2 (0x1000 * m)) b.req.toNat half v (fun q s => setMb fn m { s.mb fn m with req := BitVec.ofNat 64 q } s) s
    else s
  else if n ≠ 4 then s
  else if x = 0x08 then setMb fn m { b with offset := w } s
  else if x = 0x0C then setMb fn m { b with length := w } s
  else if x = 0x10 then (if w.getLsbD 0 then mbGo fn m s else s)
  else if x = 0x28 then setMb fn m { b with ctl := BitVec.ofNat 32 (mbCtlWrite b.ctl.toNat v) } s
  else s

/-- A host write of BAR2 (R470, R471, R485). -/
def bar2Write (fn off v width : Nat) (s : State) : State :=
  let n := width / 8
  if !(width == 32 || width == 64) || off % n != 0 then s
  else
    match mbPage fn off, mbBuffer fn off with
    | some (m, x), _ => if s.mbExists fn m then mbRegWrite fn m x (v % 2 ^ width) n s else s
    | _, some (m, x) =>
      let b := s.mb fn m
      if s.mbExists fn m && !b.busy then
        setMb fn m { b with buf := (leB v n).zipIdx.foldl (fun t y => tputD 0 t (x + y.2) y.1) b.buf } s
      else s
    | _, _ => s

/-- A host write of the function's own doorbell page (R493). -/
def bar4Write (fn off v width : Nat) (s : State) : State :=
  if 0x1000 ≤ off then s
  else if off < 0x40 then
    let q := off / 8
    if off % 8 = 0 then sqTailEffect fn q (BitVec.ofNat 32 v) width s
    else if off % 8 = 4 then cqHeadEffect fn q (BitVec.ofNat 32 v) width s
    else s
  else if off = 0x40 then eqHeadEffect fn (BitVec.ofNat 32 v) width s
  else s

/-- REG_WRITE (R16, R484, R485). -/
def execRegWrite (fn bar off : Nat) (value : Dword) (width : Nat) (s : State) : Host.Outcome State Fault Refusal :=
  .next (match bar with
    | 0 => bar0Write fn off value.toNat width s
    | 2 => bar2Write fn off value.toNat width s
    | 4 => if s.serving && s.fnExists fn then bar4Write fn off value.toNat width s else s
    | _ => s)

/-- A 32-bit read of the low half of OD_MB_REQ or OD_MB_RESP. -/
def mbLowRead (fn off : Nat) (s : State) : State :=
  match mbPage fn off with
  | none => s
  | some (m, x) =>
    let cap (v : Dword) (s : State) : State :=
      { s with host := { s.host with capturedHi := tput s.host.capturedHi (heldKey fn 2 off) (BitVec.ofNat 32 (v.toNat / 2 ^ 32)) } }
    if !s.mbExists fn m then s
    else if x = 0x00 then cap (s.mb fn m).req s
    else if x = 0x18 then cap (s.mb fn m).resp s
    else s

/-- LOW_HALF_READ (R485). -/
def execLowHalfRead (fn bar off : Nat) (s : State) : Host.Outcome State Fault Refusal :=
  .next (match bar with
    | 0 => if (s.serving || s.life.state == .held) && s.fnExists fn then lowHalfReadEffect fn off s else s
    | 2 => mbLowRead fn off s
    | _ => s)

end Sys2Proof.Machine
end

