-- ==== Sys2Proof/Machine/Dispatch.lean ====
section
/-!
DEFINITION. What each command does: one arm for each constructor of `Instr`.
-/

namespace Sys2Proof.Machine

open Sys2Proof

def exec (i : Instr) (s : State) : Host.Outcome State Fault Refusal :=
  match i with
  | .sqTail fn q value width host => Sys2Proof.Machine.execSqTail fn q value width host s
  | .cqHead fn q value width => Sys2Proof.Machine.execCqHead fn q value width s
  | .eqHead fn value width => Sys2Proof.Machine.execEqHead fn value width s
  | .submit fn q => Sys2Proof.Machine.execSubmit fn q s
  | .flush fn q => Sys2Proof.Machine.execFlush fn q s
  | .gateArm fn q => Sys2Proof.Machine.execGateArm fn q s
  | .gateArrive fn q => Sys2Proof.Machine.execGateArrive fn q s
  | .gateWait fn q => Sys2Proof.Machine.execGateWait fn q s
  | .createQp fn q => Sys2Proof.Machine.execCreateQp fn q s
  | .deleteQp fn q => Sys2Proof.Machine.execDeleteQp fn q s
  | .createEq fn q => Sys2Proof.Machine.execCreateEq fn q s
  | .alloc fn q => Sys2Proof.Machine.execAlloc fn q s
  | .frameZeroing core mac => Sys2Proof.Machine.execFrameZeroing core mac s
  | .free fn q => Sys2Proof.Machine.execFree fn q s
  | .load fn q flips => Sys2Proof.Machine.execLoad fn q flips s
  | .map fn q => Sys2Proof.Machine.execMap fn q s
  | .unmap fn q => Sys2Proof.Machine.execUnmap fn q s
  | .protect fn q => Sys2Proof.Machine.execProtect fn q s
  | .syncIn fn q => Sys2Proof.Machine.execSyncIn fn q s
  | .syncOut fn q => Sys2Proof.Machine.execSyncOut fn q s
  | .gateOwn fn q => Sys2Proof.Machine.execGateOwn fn q s
  | .fnReset fn q => Sys2Proof.Machine.execFnReset fn q s
  | .coreReset fn q => Sys2Proof.Machine.execCoreReset fn q s
  | .clusterReset fn q => Sys2Proof.Machine.execClusterReset fn q s
  | .partitionReset fn q => Sys2Proof.Machine.execPartitionReset fn q s
  | .partitionPark fn q => Sys2Proof.Machine.execPartitionPark fn q s
  | .partitionResume fn q => Sys2Proof.Machine.execPartitionResume fn q s
  | .regWrite fn bar off value width => Sys2Proof.Machine.execRegWrite fn bar off value width s
  | .mmuWinCfgWrite fn win half value => Sys2Proof.Machine.execMmuWinCfgWrite fn win half value s
  | .fmFnCfgWrite fn value => Sys2Proof.Machine.execFmFnCfgWrite fn value s
  | .fnPartCfgWrite fn part value => Sys2Proof.Machine.execFnPartCfgWrite fn part value s
  | .tickCfgWrite part value => Sys2Proof.Machine.execTickCfgWrite part value s
  | .admBudgetCfgWrite value => Sys2Proof.Machine.execAdmBudgetCfgWrite value s
  | .gateOwnerWrite gate value => Sys2Proof.Machine.execGateOwnerWrite gate value s
  | .partClWrite part hi half value => Sys2Proof.Machine.execPartClWrite part hi half value s
  | .fnAqCfgWrite fn value => Sys2Proof.Machine.execFnAqCfgWrite fn value s
  | .csqCountClrStats core value => Sys2Proof.Machine.execCsqCountClrStats core value s
  | .seConvClrStats core value => Sys2Proof.Machine.execSeConvClrStats core value s
  | .seCompClrStats core value => Sys2Proof.Machine.execSeCompClrStats core value s
  | .mmuFnClrStats fn value => Sys2Proof.Machine.execMmuFnClrStats fn value s
  | .mntDieClrStats die value => Sys2Proof.Machine.execMntDieClrStats die value s
  | .msixUnmask fn vector => Sys2Proof.Machine.execMsixUnmask fn vector s
  | .coalescingTimeout fn queue => Sys2Proof.Machine.execCoalescingTimeout fn queue s
  | .vfEnable numVfs enable => Sys2Proof.Machine.execVfEnable numVfs enable s
  | .functionLevelReset fn => Sys2Proof.Machine.execFunctionLevelReset fn s
  | .hotReset => Sys2Proof.Machine.execHotReset s
  | .read r => Sys2Proof.Machine.execRead r s
  | .write r => Sys2Proof.Machine.execWrite r s
  | .segWrite r => Sys2Proof.Machine.execSegWrite r s
  | .segCommit r => Sys2Proof.Machine.execSegCommit r s
  | .segAbort r => Sys2Proof.Machine.execSegAbort r s
  | .describe r => Sys2Proof.Machine.execDescribe r s
  | .list r => Sys2Proof.Machine.execList r s
  | .stagingExpiry who => Sys2Proof.Machine.execStagingExpiry who s
  | .setEndpointId eid => Sys2Proof.Machine.execSetEndpointId eid s
  | .getEndpointId => Sys2Proof.Machine.execGetEndpointId s
  | .getMctpVersionSupport msgType => Sys2Proof.Machine.execGetMctpVersionSupport msgType s
  | .getMessageTypeSupport => Sys2Proof.Machine.execGetMessageTypeSupport s
  | .getVendorDefinedMessageSupport selector => Sys2Proof.Machine.execGetVendorDefinedMessageSupport selector s
  | .dynamicAddressAssignment addr => Sys2Proof.Machine.execDynamicAddressAssignment addr s
  | .release who data => Sys2Proof.Machine.execRelease who data s
  | .moduleReset who data => Sys2Proof.Machine.execModuleReset who data s
  | .standby who data => Sys2Proof.Machine.execStandby who data s
  | .wake who data => Sys2Proof.Machine.execWake who data s
  | .factoryDefaults who data => Sys2Proof.Machine.execFactoryDefaults who data s
  | .keyWrite who slot data => Sys2Proof.Machine.execKeyWrite who slot data s
  | .keyRevoke who data => Sys2Proof.Machine.execKeyRevoke who data s
  | .clearSaved who link data => Sys2Proof.Machine.execClearSaved who link data s
  | .fleetSend who data => Sys2Proof.Machine.execFleetSend who data s
  | .pwrCapWrite who data => Sys2Proof.Machine.execPwrCapWrite who data s
  | .setpointChange who data => Sys2Proof.Machine.execSetpointChange who data s
  | .activate who data => Sys2Proof.Machine.execActivate who data s
  | .confirm who data => Sys2Proof.Machine.execConfirm who data s
  | .download who slot offset data => Sys2Proof.Machine.execDownload who slot offset data s
  | .verify who slot data img => Sys2Proof.Machine.execVerify who slot data img s
  | .erase who slot data => Sys2Proof.Machine.execErase who slot data s
  | .clear who data => Sys2Proof.Machine.execClear who data s
  | .request who data => Sys2Proof.Machine.execRequest who data s
  | .journalDataRecord => Sys2Proof.Machine.execJournalDataRecord s
  | .journalCommitRecord => Sys2Proof.Machine.execJournalCommitRecord s
  | .objectStoreRewrite => Sys2Proof.Machine.execObjectStoreRewrite s
  | .journalAppliedRecord => Sys2Proof.Machine.execJournalAppliedRecord s
  | .journalBlockErase => Sys2Proof.Machine.execJournalBlockErase s
  | .eventJournalCommit => Sys2Proof.Machine.execEventJournalCommit s
  | .vauxUp => Sys2Proof.Machine.execVauxUp s
  | .vauxLost => Sys2Proof.Machine.execVauxLost s
  | .vinWithinLimits => Sys2Proof.Machine.execVinWithinLimits s
  | .perstAssert => Sys2Proof.Machine.execPerstAssert s
  | .perstDeassert forceRecovery => Sys2Proof.Machine.execPerstDeassert forceRecovery s
  | .pinSample slotId forceRecovery => Sys2Proof.Machine.execPinSample slotId forceRecovery s
  | .pwrFail byPin => Sys2Proof.Machine.execPwrFail byPin s
  | .pwrFailCleared => Sys2Proof.Machine.execPwrFailCleared s
  | .forceRecoveryAssert => Sys2Proof.Machine.execForceRecoveryAssert s
  | .forceRecoveryHeld60s => Sys2Proof.Machine.execForceRecoveryHeld60s s
  | .warmHoldExpiry => Sys2Proof.Machine.execWarmHoldExpiry s
  | .s1BootVerify ok0 ok1 => Sys2Proof.Machine.execS1BootVerify ok0 ok1 s
  | .s2ConfigCheck calBad refclkOk => Sys2Proof.Machine.execS2ConfigCheck calBad refclkOk s
  | .s3RailsUp => Sys2Proof.Machine.execS3RailsUp s
  | .s4HbmTraining restoreOk fullOk saved => Sys2Proof.Machine.execS4HbmTraining restoreOk fullOk saved s
  | .s5LinkTraining link res => Sys2Proof.Machine.execS5LinkTraining link res s
  | .s6CoreFirmware bad1 bad2 => Sys2Proof.Machine.execS6CoreFirmware bad1 bad2 s
  | .s7SelfTest bad cal => Sys2Proof.Machine.execS7SelfTest bad cal s
  | .stageTimeout => Sys2Proof.Machine.execStageTimeout s
  | .thermalTrip die tj => Sys2Proof.Machine.execThermalTrip die tj s
  | .thermalTripRelease substrate => Sys2Proof.Machine.execThermalTripRelease substrate s
  | .pwrRailFault rail => Sys2Proof.Machine.execPwrRailFault rail s
  | .phaseRetire rail => Sys2Proof.Machine.execPhaseRetire rail s
  | .telemetryRead readings => Sys2Proof.Machine.execTelemetryRead readings s
  | .powerGovernorLoop m => Sys2Proof.Machine.execPowerGovernorLoop m s
  | .epochEnd m => Sys2Proof.Machine.execEpochEnd m s
  | .sensorInvalid die tj => Sys2Proof.Machine.execSensorInvalid die tj s
  | .droop die threshold => Sys2Proof.Machine.execDroop die threshold s
  | .stretchRelease die => Sys2Proof.Machine.execStretchRelease die s
  | .powerStretch sustained watts => Sys2Proof.Machine.execPowerStretch sustained watts s
  | .powerStretchRelease sustained watts => Sys2Proof.Machine.execPowerStretchRelease sustained watts s
  | .govParkRequest => Sys2Proof.Machine.execGovParkRequest s
  | .govResumeRequest => Sys2Proof.Machine.execGovResumeRequest s
  | .refreshIntervalChange die tj => Sys2Proof.Machine.execRefreshIntervalChange die tj s
  | .refreshStatusUpdate die => Sys2Proof.Machine.execRefreshStatusUpdate die s
  | .leadPoint part => Sys2Proof.Machine.execLeadPoint part s
  | .waitTimeout part => Sys2Proof.Machine.execWaitTimeout part s
  | .pennantRound part round => Sys2Proof.Machine.execPennantRound part round s
  | .pennantFinal part => Sys2Proof.Machine.execPennantFinal part s
  | .tickBoundary part => Sys2Proof.Machine.execTickBoundary part s
  | .windowEnd core fn => Sys2Proof.Machine.execWindowEnd core fn s
  | .partitionStart part => Sys2Proof.Machine.execPartitionStart part s
  | .aeTurn ae => Sys2Proof.Machine.execAeTurn ae s
  | .executionPrepare fn part => Sys2Proof.Machine.execExecutionPrepare fn part s
  | .pageOut core flips => Sys2Proof.Machine.execPageOut core flips s
  | .pageIn core flips => Sys2Proof.Machine.execPageIn core flips s
  | .taskStart core => Sys2Proof.Machine.execTaskStart core s
  | .stagingCopy core => Sys2Proof.Machine.execStagingCopy core s
  | .count core mac dev => Sys2Proof.Machine.execCount core mac dev s
  | .countRetry core mac dev => Sys2Proof.Machine.execCountRetry core mac dev s
  | .fillerCount core mac rows dev => Sys2Proof.Machine.execFillerCount core mac rows dev s
  | .glideFiller core mac slot dev => Sys2Proof.Machine.execGlideFiller core mac slot dev s
  | .steeringSlot core dev => Sys2Proof.Machine.execSteeringSlot core dev s
  | .transposedCount core mac dev => Sys2Proof.Machine.execTransposedCount core mac dev s
  | .guardWindowEnd mac seg => Sys2Proof.Machine.execGuardWindowEnd mac seg s
  | .retryWindowEnd mac seg => Sys2Proof.Machine.execRetryWindowEnd mac seg s
  | .refreshSlot mac flips => Sys2Proof.Machine.execRefreshSlot mac flips s
  | .urgentRefresh mac row flips => Sys2Proof.Machine.execUrgentRefresh mac row flips s
  | .retentionLost mac row => Sys2Proof.Machine.execRetentionLost mac row s
  | .fullRowWrite core mac => Sys2Proof.Machine.execFullRowWrite core mac s
  | .maskedRowWrite core mac flips => Sys2Proof.Machine.execMaskedRowWrite core mac flips s
  | .readBack core mac first second => Sys2Proof.Machine.execReadBack core mac first second s
  | .frameReadOut core flips => Sys2Proof.Machine.execFrameReadOut core flips s
  | .taskRetire core => Sys2Proof.Machine.execTaskRetire core s
  | .scaleRecordUpdate core => Sys2Proof.Machine.execScaleRecordUpdate core s
  | .hostFill fn dva write => Sys2Proof.Machine.execHostFill fn dva write s
  | .hostFillComplete fn dva failed => Sys2Proof.Machine.execHostFillComplete fn dva failed s
  | .rd core line => Sys2Proof.Machine.execRd core line s
  | .own core line => Sys2Proof.Machine.execOwn core line s
  | .wb core line data => Sys2Proof.Machine.execWb core line data s
  | .flitReceive link flit slot => Sys2Proof.Machine.execFlitReceive link flit slot s
  | .wr link rec => Sys2Proof.Machine.execWr link rec s
  | .rdReq link rec => Sys2Proof.Machine.execRdReq link rec s
  | .rdData link rec => Sys2Proof.Machine.execRdData link rec s
  | .ack link rec => Sys2Proof.Machine.execAck link rec s
  | .arrive link rec => Sys2Proof.Machine.execArrive link rec s
  | .recordForward link rec => Sys2Proof.Machine.execRecordForward link rec s
  | .requestTimeout tag => Sys2Proof.Machine.execRequestTimeout tag s
  | .pennant link word => Sys2Proof.Machine.execPennant link word s
  | .feature link word => Sys2Proof.Machine.execFeature link word s
  | .syncReq link word answerSlots => Sys2Proof.Machine.execSyncReq link word answerSlots s
  | .syncResp link word => Sys2Proof.Machine.execSyncResp link word s
  | .syncInterval => Sys2Proof.Machine.execSyncInterval s
  | .fleet link word => Sys2Proof.Machine.execFleet link word s
  | .laneSwap link word => Sys2Proof.Machine.execLaneSwap link word s
  | .laneSwapSlot link => Sys2Proof.Machine.execLaneSwapSlot link s
  | .announce link word => Sys2Proof.Machine.execAnnounce link word s
  | .announceInterval => Sys2Proof.Machine.execAnnounceInterval s
  | .featureResend part => Sys2Proof.Machine.execFeatureResend part s
  | .linkstate link word => Sys2Proof.Machine.execLinkstate link word s
  | .soakEnd link ber bad => Sys2Proof.Machine.execSoakEnd link ber bad s
  | .berWindow link ber corrected => Sys2Proof.Machine.execBerWindow link ber corrected s
  | .laneLockLost link lane retrainOk => Sys2Proof.Machine.execLaneLockLost link lane retrainOk s
  | .linkRetry link res => Sys2Proof.Machine.execLinkRetry link res s
  | .lowpwrEntry link peerAsks => Sys2Proof.Machine.execLowpwrEntry link peerAsks s
  | .lowpwrWake link => Sys2Proof.Machine.execLowpwrWake link s
  | .parentLinkFail => Sys2Proof.Machine.execParentLinkFail s
  | .holdoverTimeout => Sys2Proof.Machine.execHoldoverTimeout s
  | .maintenanceWindowStart die part => Sys2Proof.Machine.execMaintenanceWindowStart die part s
  | .recalibration mac m => Sys2Proof.Machine.execRecalibration mac m s
  | .recalTrigger mac cause => Sys2Proof.Machine.execRecalTrigger mac cause s
  | .scrubPass mac flips dev rowDev => Sys2Proof.Machine.execScrubPass mac flips dev rowDev s
  | .scrubDeadline core => Sys2Proof.Machine.execScrubDeadline core s
  | .calDeadline mac => Sys2Proof.Machine.execCalDeadline mac s
  | .evacuationCopy mac flips => Sys2Proof.Machine.execEvacuationCopy mac flips s
  | .diagnosis mac ev => Sys2Proof.Machine.execDiagnosis mac ev s
  | .spareMapCommit => Sys2Proof.Machine.execSpareMapCommit s
  | .alertRelease => Sys2Proof.Machine.execAlertRelease s
  | .tickRefclkRemoved => Sys2Proof.Machine.execTickRefclkRemoved s
  | .lowHalfRead fn bar off => Sys2Proof.Machine.execLowHalfRead fn bar off s

end Sys2Proof.Machine
end

