-- ==== Sys2Proof/Safety.lean ====
section
/-!
DEFINITION. What a safe run is, and which components of the state a command may change.
-/

namespace Sys2Proof

open Sys2Proof.Machine

/-- The step answers a next state. -/
def Safe (s : State) : Prop := ∃ t, step s = .next t

end Sys2Proof

namespace Sys2Proof.Machine

open Sys2Proof

/-- Every rail the module has is up. -/
def Rails.all : Rails := { vbus := true, die0 := true, rest := true, vhbm := true }

/-- The module states of a start and of service, in which PERST# is deasserted (Table 14-2). -/
def ModState.started : ModState → Bool
  | .boot | .training | .held | .ready | .running | .parked => true
  | .off | .aux | .recovery | .faulted => false

/-- The module states in which the module serves its host (Table 14-1). -/
def ModState.serves : ModState → Bool
  | .ready | .running | .parked => true
  | _ => false

/-- The module states in which a start is under way or stopped (Tables 14-1 and 14-3). -/
def ModState.starting : ModState → Bool
  | .boot | .training | .held => true
  | _ => false

/-- What Tables 14-1 to 14-3 require of the module state, the supplies, PERST#, the rails and the stages passed. -/
structure Life.ok (l : Life) : Prop where
  /-- Every state but OFF needs the 12 V AUX supply. -/
  powered : l.state ≠ .off → l.vaux
  /-- A start runs, and the module serves, with PERST# deasserted. -/
  released : l.state.started → l.perst = false
  /-- Standby is a form of AUX, and PERST# is deasserted in it. -/
  standby : l.standby → l.state = .aux ∧ l.perst = false
  /-- From S3 on the rails are up. -/
  rails : l.state.starting → 3 ≤ l.passed → l.rails = Rails.all
  /-- The module serves only after every stage has passed. -/
  serves : l.state.serves → l.passed = 8 ∧ l.rails = Rails.all

/-- The components of the state, one for each field of `State`. -/
inductive Comp where
  /-- The queue of commands. -/
  | pending
  /-- The PTC's own clock. -/
  | now
  /-- The counter of free values. -/
  | free
  /-- Life cycle: module state, stages, supplies, pins, firmware slots. -/
  | life
  /-- Event journal and alert. -/
  | jr
  /-- Host interface: queues, gates of MSI-X, host memory, responses. -/
  | host
  /-- Register files. -/
  | reg
  /-- HBM, AS and CM lines, page tables, fills, directory. -/
  | mem
  /-- Frames and macros. -/
  | fm
  /-- Admission: engines, plans, executions. -/
  | adm
  /-- Ticks, partitions, gates, arrivals. -/
  | tick
  /-- Tasks in the cores. -/
  | cores
  /-- Chip links and the link network. -/
  | net
  /-- Power, clocks, throttles. -/
  | pwr
  /-- Maintenance and the spare maps. -/
  | mnt
  /-- Object dictionary, store and journal. -/
  | od
  deriving DecidableEq, Repr

/-- A component is the same in two states. -/
def Comp.same : Comp → State → State → Prop
  | .pending, s, t => t.pending = s.pending
  | .now, s, t => t.now = s.now
  | .free, s, t => t.free = s.free
  | .life, s, t => t.life = s.life
  | .jr, s, t => t.jr = s.jr
  | .host, s, t => t.host = s.host
  | .reg, s, t => t.reg = s.reg
  | .mem, s, t => t.mem = s.mem
  | .fm, s, t => t.fm = s.fm
  | .adm, s, t => t.adm = s.adm
  | .tick, s, t => t.tick = s.tick
  | .cores, s, t => t.cores = s.cores
  | .net, s, t => t.net = s.net
  | .pwr, s, t => t.pwr = s.pwr
  | .mnt, s, t => t.mnt = s.mnt
  | .od, s, t => t.od = s.od

/-- Two states agree on every component outside `L`. -/
structure SameOff (L : List Comp) (s t : State) : Prop where
  same : ∀ c, c ∉ L → c.same s t

/-- The components that a command may change. Every other component it leaves as it was. -/
def footprint : Instr → List Comp
  | .sqTail _ _ _ _ _ => [.host]
  | .cqHead _ _ _ _ => [.host]
  | .eqHead _ _ _ => [.host]
  | .submit _ _ => [.jr, .host, .reg, .mem, .adm, .cores]
  | .flush _ _ => [.host, .adm]
  | .gateArm _ _ => [.host, .tick]
  | .gateArrive _ _ => [.jr, .host, .tick]
  | .gateWait _ _ => [.host, .tick]
  | .createQp _ _ => [.host]
  | .deleteQp _ _ => [.host]
  | .createEq _ _ => [.host]
  | .alloc _ _ => [.jr, .host, .reg, .mem, .fm, .cores]
  | .frameZeroing _ _ => [.jr, .host, .reg, .mem, .fm, .cores, .mnt]
  | .free _ _ => [.jr, .host, .reg, .mem, .fm, .cores, .mnt]
  | .load _ _ _ => [.jr, .host, .reg, .mem, .fm, .cores, .mnt]
  | .map _ _ => [.host, .mem]
  | .unmap _ _ => [.jr, .host, .reg, .mem]
  | .protect _ _ => [.jr, .host, .reg, .mem]
  | .syncIn _ _ => [.jr, .host, .reg, .mem]
  | .syncOut _ _ => [.jr, .host, .reg, .mem]
  | .gateOwn _ _ => [.host, .adm, .tick]
  | .fnReset _ _ => [.life, .jr, .host, .reg, .mem, .fm, .adm, .tick, .cores, .net, .od]
  | .coreReset _ _ => [.life, .jr, .host, .reg, .mem, .fm, .adm, .tick, .cores, .net, .mnt]
  | .clusterReset _ _ => [.life, .jr, .host, .reg, .mem, .fm, .adm, .tick, .cores, .net, .mnt]
  | .partitionReset _ _ => [.life, .jr, .host, .reg, .mem, .fm, .adm, .tick, .cores, .net, .pwr, .mnt]
  | .partitionPark _ _ => [.host, .tick]
  | .partitionResume _ _ => [.host, .tick, .pwr]
  | .regWrite _ _ _ _ _ => [.life, .jr, .host, .reg, .mem, .fm, .adm, .tick, .cores, .net, .pwr, .mnt, .od]
  | .mmuWinCfgWrite _ _ _ _ => [.jr, .host, .reg, .mem]
  | .fmFnCfgWrite _ _ => [.jr, .host, .reg, .mem, .fm, .cores]
  | .fnPartCfgWrite _ _ _ => [.reg, .mem, .adm, .cores]
  | .tickCfgWrite _ _ => [.reg, .adm]
  | .admBudgetCfgWrite _ => [.reg, .adm]
  | .gateOwnerWrite _ _ => [.host, .reg, .adm, .tick]
  | .partClWrite _ _ _ _ => [.host, .reg, .mem]
  | .fnAqCfgWrite _ _ => [.host]
  | .csqCountClrStats _ _ => [.reg]
  | .seConvClrStats _ _ => [.reg]
  | .seCompClrStats _ _ => [.reg]
  | .mmuFnClrStats _ _ => [.reg]
  | .mntDieClrStats _ _ => [.reg, .mnt]
  | .msixUnmask _ _ => [.host]
  | .coalescingTimeout _ _ => [.host]
  | .vfEnable _ _ => [.life, .jr, .host, .reg, .mem, .fm, .adm, .tick, .cores, .net, .od]
  | .functionLevelReset _ => [.life, .jr, .host, .reg, .mem, .fm, .adm, .tick, .cores, .net, .od]
  | .hotReset => [.life, .jr, .host, .reg, .mem, .fm, .adm, .tick, .cores, .net, .od]
  | .read _ => [.life, .jr, .host, .reg, .mem, .fm, .adm, .tick, .cores, .net, .pwr, .mnt, .od]
  | .write _ => [.life, .jr, .host, .reg, .mem, .fm, .adm, .tick, .cores, .net, .pwr, .mnt, .od]
  | .segWrite _ => [.life, .jr, .host, .reg, .mem, .fm, .adm, .tick, .cores, .net, .pwr, .mnt, .od]
  | .segCommit _ => [.life, .jr, .host, .reg, .mem, .fm, .adm, .tick, .cores, .net, .pwr, .mnt, .od]
  | .segAbort _ => [.life, .jr, .host, .reg, .mem, .fm, .adm, .tick, .cores, .net, .pwr, .mnt, .od]
  | .describe _ => [.life, .jr, .host, .reg, .mem, .fm, .adm, .tick, .cores, .net, .pwr, .mnt, .od]
  | .list _ => [.life, .jr, .host, .reg, .mem, .fm, .adm, .tick, .cores, .net, .pwr, .mnt, .od]
  | .stagingExpiry _ => [.now, .od]
  | .setEndpointId _ => [.host, .od]
  | .getEndpointId => [.host, .od]
  | .getMctpVersionSupport _ => [.host, .od]
  | .getMessageTypeSupport => [.host, .od]
  | .getVendorDefinedMessageSupport _ => [.host, .od]
  | .dynamicAddressAssignment _ => [.od]
  | .release _ _ => [.life, .jr, .host, .reg, .mem, .fm, .adm, .tick, .cores, .net, .pwr, .mnt, .od]
  | .moduleReset _ _ => [.life, .jr, .host, .reg, .mem, .fm, .adm, .tick, .cores, .net, .pwr, .mnt, .od]
  | .standby _ _ => [.life, .jr, .host, .reg, .mem, .fm, .adm, .tick, .cores, .net, .pwr, .mnt, .od]
  | .wake _ _ => [.life, .jr, .host, .reg, .mem, .fm, .adm, .tick, .cores, .net, .pwr, .mnt, .od]
  | .factoryDefaults _ _ => [.life, .jr, .host, .reg, .mem, .fm, .adm, .tick, .cores, .net, .pwr, .mnt, .od]
  | .keyWrite _ _ _ => [.life, .jr, .host, .reg, .mem, .fm, .adm, .tick, .cores, .net, .pwr, .mnt, .od]
  | .keyRevoke _ _ => [.life, .jr, .host, .reg, .mem, .fm, .adm, .tick, .cores, .net, .pwr, .mnt, .od]
  | .clearSaved _ _ _ => [.life, .jr, .host, .reg, .mem, .fm, .adm, .tick, .cores, .net, .pwr, .mnt, .od]
  | .fleetSend _ _ => [.life, .jr, .host, .reg, .mem, .fm, .adm, .tick, .cores, .net, .pwr, .mnt, .od]
  | .pwrCapWrite _ _ => [.life, .jr, .host, .reg, .mem, .fm, .adm, .tick, .cores, .net, .pwr, .mnt, .od]
  | .setpointChange _ _ => [.life, .jr, .host, .reg, .mem, .fm, .adm, .tick, .cores, .net, .pwr, .mnt, .od]
  | .activate _ _ => [.life, .jr, .host, .reg, .mem, .fm, .adm, .tick, .cores, .net, .pwr, .mnt, .od]
  | .confirm _ _ => [.life, .jr, .host, .reg, .mem, .fm, .adm, .tick, .cores, .net, .pwr, .mnt, .od]
  | .download _ _ _ _ => [.life, .jr, .host, .reg, .mem, .fm, .adm, .tick, .cores, .net, .pwr, .mnt, .od]
  | .verify _ _ _ _ => [.life, .jr, .host, .reg, .mem, .fm, .adm, .tick, .cores, .net, .pwr, .mnt, .od]
  | .erase _ _ _ => [.life, .jr, .host, .reg, .mem, .fm, .adm, .tick, .cores, .net, .pwr, .mnt, .od]
  | .clear _ _ => [.life, .jr, .host, .reg, .mem, .fm, .adm, .tick, .cores, .net, .pwr, .mnt, .od]
  | .request _ _ => [.life, .jr, .host, .reg, .mem, .fm, .adm, .tick, .cores, .net, .pwr, .mnt, .od]
  | .journalDataRecord => [.od]
  | .journalCommitRecord => [.life, .jr, .host, .reg, .mem, .fm, .adm, .tick, .cores, .net, .pwr, .mnt, .od]
  | .objectStoreRewrite => [.od]
  | .journalAppliedRecord => [.od]
  | .journalBlockErase => [.od]
  | .eventJournalCommit => [.jr]
  | .vauxUp => [.life, .od]
  | .vauxLost => [.life, .jr, .host, .reg, .mem, .fm, .adm, .tick, .cores, .net, .pwr, .mnt, .od]
  | .vinWithinLimits => [.life, .jr, .host, .od]
  | .perstAssert => [.life, .jr, .host, .reg, .mem, .fm, .adm, .tick, .cores, .net, .pwr, .mnt, .od]
  | .perstDeassert _ => [.life, .jr, .host, .od]
  | .pinSample _ _ => [.life, .jr, .host, .od]
  | .pwrFail _ => [.life, .jr, .host, .od]
  | .pwrFailCleared => [.life, .jr, .host, .od]
  | .forceRecoveryAssert => [.jr, .host]
  | .forceRecoveryHeld60s => [.now, .life, .jr, .host]
  | .warmHoldExpiry => [.now, .life, .net]
  | .s1BootVerify _ _ => [.life, .jr, .host, .od]
  | .s2ConfigCheck _ _ => [.life, .jr, .host, .reg, .mem, .fm, .cores, .net, .mnt, .od]
  | .s3RailsUp => [.life, .pwr]
  | .s4HbmTraining _ _ _ => [.life, .jr, .host, .reg, .mem, .tick, .cores, .net, .od]
  | .s5LinkTraining _ _ => [.life, .jr, .host, .reg, .tick, .cores, .net]
  | .s6CoreFirmware _ _ => [.life, .jr, .host, .mnt]
  | .s7SelfTest _ _ => [.life, .jr, .host, .reg, .mem, .fm, .tick, .cores, .net, .mnt]
  | .stageTimeout => [.life, .jr, .host, .net]
  | .thermalTrip _ _ => [.life, .jr, .host, .reg, .mem, .fm, .adm, .tick, .cores, .net, .pwr, .mnt, .od]
  | .thermalTripRelease _ => [.life, .jr, .host, .reg, .mem, .fm, .adm, .tick, .cores, .net, .pwr, .mnt, .od]
  | .pwrRailFault _ => [.life, .jr, .host, .reg, .mem, .fm, .adm, .tick, .cores, .net, .pwr, .mnt]
  | .phaseRetire _ => [.jr, .host, .pwr]
  | .telemetryRead _ => [.jr, .host, .pwr]
  | .powerGovernorLoop _ => [.jr, .host, .reg, .tick, .pwr]
  | .epochEnd _ => [.jr, .host, .reg, .tick, .pwr]
  | .sensorInvalid _ _ => [.jr, .host, .pwr]
  | .droop _ _ => [.pwr]
  | .stretchRelease _ => [.pwr]
  | .powerStretch _ _ => [.jr, .host, .pwr]
  | .powerStretchRelease _ _ => [.pwr]
  | .govParkRequest => [.jr, .host, .tick, .pwr]
  | .govResumeRequest => [.jr, .host, .tick, .pwr]
  | .refreshIntervalChange _ _ => [.tick, .pwr, .mnt]
  | .refreshStatusUpdate _ => [.reg, .mnt]
  | .leadPoint _ => [.life, .jr, .host, .reg, .adm, .tick, .cores, .pwr, .mnt]
  | .waitTimeout _ => [.life, .jr, .host, .adm, .tick, .cores]
  | .pennantRound _ _ => [.host, .tick]
  | .pennantFinal _ => [.host, .tick, .pwr]
  | .tickBoundary _ => [.life, .jr, .host, .reg, .mem, .fm, .adm, .tick, .cores, .net, .pwr, .mnt]
  | .windowEnd _ _ => [.cores]
  | .partitionStart _ => [.life, .jr, .host, .reg, .mem, .fm, .adm, .tick, .cores, .pwr, .mnt]
  | .aeTurn _ => [.jr, .host, .reg, .mem, .adm, .cores]
  | .executionPrepare _ _ => [.jr, .host, .fm, .adm, .tick, .cores, .mnt]
  | .pageOut _ _ => [.jr, .host, .reg, .mem, .fm, .adm, .tick, .cores, .mnt]
  | .pageIn _ _ => [.jr, .host, .reg, .mem, .fm, .adm, .tick, .cores, .mnt]
  | .taskStart _ => [.free, .jr, .host, .reg, .mem, .fm, .cores, .net, .mnt]
  | .stagingCopy _ => [.free, .jr, .host, .reg, .mem, .fm, .cores, .net, .mnt]
  | .count _ _ _ => [.free, .jr, .host, .reg, .mem, .fm, .cores, .net, .mnt]
  | .countRetry _ _ _ => [.free, .jr, .host, .reg, .mem, .fm, .cores, .net, .mnt]
  | .fillerCount _ _ _ _ => [.free, .jr, .host, .reg, .mem, .fm, .cores, .net, .mnt]
  | .glideFiller _ _ _ _ => [.jr, .host, .reg, .fm, .cores, .mnt]
  | .steeringSlot _ _ => [.free, .jr, .host, .reg, .mem, .fm, .cores, .net, .mnt]
  | .transposedCount _ _ _ => [.free, .jr, .host, .reg, .mem, .fm, .cores, .net, .mnt]
  | .guardWindowEnd _ _ => [.fm]
  | .retryWindowEnd _ _ => [.fm]
  | .refreshSlot _ _ => [.jr, .host, .fm, .mnt]
  | .urgentRefresh _ _ _ => [.jr, .host, .fm, .tick, .mnt]
  | .retentionLost _ _ => [.jr, .host, .fm, .tick, .cores]
  | .fullRowWrite _ _ => [.free, .jr, .host, .reg, .mem, .fm, .cores, .net, .mnt]
  | .maskedRowWrite _ _ _ => [.free, .jr, .host, .reg, .mem, .fm, .cores, .net, .mnt]
  | .readBack _ _ _ _ => [.free, .jr, .host, .reg, .mem, .fm, .cores, .net, .mnt]
  | .frameReadOut _ _ => [.jr, .host, .reg, .mem, .fm, .cores]
  | .taskRetire _ => [.free, .jr, .host, .reg, .mem, .fm, .adm, .cores, .net]
  | .scaleRecordUpdate _ => [.free, .jr, .host, .reg, .mem, .fm, .cores, .net, .mnt]
  | .hostFill _ _ _ => [.mem]
  | .hostFillComplete _ _ _ => [.jr, .host, .reg, .mem]
  | .rd _ _ => [.free, .mem]
  | .own _ _ => [.free, .mem]
  | .wb _ _ _ => [.mem]
  | .flitReceive _ _ _ => [.life, .jr, .host, .reg, .mem, .adm, .tick, .cores, .net, .pwr]
  | .wr _ _ => [.jr, .host, .reg, .mem, .cores, .net]
  | .rdReq _ _ => [.jr, .host, .reg, .mem, .cores, .net]
  | .rdData _ _ => [.jr, .host, .reg, .cores, .net]
  | .ack _ _ => [.jr, .host, .reg, .cores, .net]
  | .arrive _ _ => [.jr, .host, .reg, .tick, .cores, .net]
  | .recordForward _ _ => [.jr, .host, .reg, .cores, .net]
  | .requestTimeout _ => [.jr, .host, .tick, .cores, .net]
  | .pennant _ _ => [.life, .jr, .host, .reg, .mem, .adm, .tick, .cores]
  | .feature _ _ => [.host, .tick]
  | .syncReq _ _ _ => [.host]
  | .syncResp _ _ => [.jr, .host, .reg, .tick, .cores, .net]
  | .syncInterval => [.host, .net]
  | .fleet _ _ => [.jr, .host, .net, .pwr]
  | .laneSwap _ _ => [.net]
  | .laneSwapSlot _ => [.jr, .host, .tick, .net]
  | .announce _ _ => [.net]
  | .announceInterval => [.host, .net]
  | .featureResend _ => [.host]
  | .linkstate _ _ => [.jr, .host, .tick, .net]
  | .soakEnd _ _ _ => [.life, .jr, .host, .reg, .tick, .cores, .net, .od]
  | .berWindow _ _ _ => [.net, .mnt]
  | .laneLockLost _ _ _ => [.life, .jr, .host, .reg, .tick, .cores, .net]
  | .linkRetry _ _ => [.jr, .host, .reg, .tick, .cores, .net]
  | .lowpwrEntry _ _ => [.life, .jr, .host, .reg, .tick, .cores, .net]
  | .lowpwrWake _ => [.jr, .host, .reg, .tick, .cores, .net]
  | .parentLinkFail => [.net]
  | .holdoverTimeout => [.jr, .host, .tick]
  | .maintenanceWindowStart _ _ => [.jr, .host, .fm, .net, .mnt]
  | .recalibration _ _ => [.jr, .host, .fm, .mnt]
  | .recalTrigger _ _ => [.tick, .mnt]
  | .scrubPass _ _ _ _ => [.jr, .host, .fm, .mnt]
  | .scrubDeadline _ => [.jr, .host, .tick, .mnt]
  | .calDeadline _ => [.jr, .host, .tick]
  | .evacuationCopy _ _ => [.jr, .host, .reg, .mem, .fm, .cores, .mnt]
  | .diagnosis _ _ => [.jr, .host, .fm, .mnt]
  | .spareMapCommit => [.jr, .host, .reg, .mem, .fm, .cores, .mnt]
  | .alertRelease => [.now, .jr]
  | .tickRefclkRemoved => [.free, .life, .tick]
  | .lowHalfRead _ _ _ => [.host]

/-! ## What the statements speak of -/

/-- The entry that pair q of function fn executes next is e, of opcode op, and no check turns it away; k is its command. -/
structure Front (op fn q e : Nat) (k : Ticket) (s : State) : Prop where
  entry : frontEntry fn q s = some (e, k)
  opcode : entOp e = op
  accepted : entryCheck fn q e = none

/-- The command a row of the queue commands is, with its function, its pair and its opcode (Table 16-10). -/
def queueCommand : Instr → Option (Nat × Nat × Nat)
  | .submit fn q => some (fn, q, opSubmit)
  | .flush fn q => some (fn, q, opFlush)
  | .gateArm fn q => some (fn, q, opGateArm)
  | .gateArrive fn q => some (fn, q, opGateArrive)
  | .gateWait fn q => some (fn, q, opGateWait)
  | .createQp fn q => some (fn, q, opCreateQp)
  | .deleteQp fn q => some (fn, q, opDeleteQp)
  | .createEq fn q => some (fn, q, opCreateEq)
  | .alloc fn q => some (fn, q, opAlloc)
  | .free fn q => some (fn, q, opFree)
  | .load fn q _ => some (fn, q, opLoad)
  | .map fn q => some (fn, q, opMap)
  | .unmap fn q => some (fn, q, opUnmap)
  | .protect fn q => some (fn, q, opProtect)
  | .syncIn fn q => some (fn, q, opSyncIn)
  | .syncOut fn q => some (fn, q, opSyncOut)
  | .gateOwn fn q => some (fn, q, opGateOwn)
  | .fnReset fn q => some (fn, q, opFnReset)
  | .coreReset fn q => some (fn, q, opCoreReset)
  | .clusterReset fn q => some (fn, q, opClusterReset)
  | .partitionReset fn q => some (fn, q, opPartitionReset)
  | .partitionPark fn q => some (fn, q, opPartitionPark)
  | .partitionResume fn q => some (fn, q, opPartitionResume)
  | _ => none

/-- What R310 leaves of a function: no frame, no plan, no execution that has not been absorbed, no queue, no count or waiter on
its gates; its windows, FN_PART_CFG and FM_FN_CFG stand. -/
structure FnCleared (f : Nat) (s t : State) : Prop where
  frames : ∀ x ∈ t.fm.frames, x.1 / 2 ^ 21 ≠ f
  plans : ∀ p ∈ t.adm.plans, p.key.fn ≠ f
  execs : ∀ e ∈ t.adm.execs, e.ticket.fn = f → e.phase = .absorbed
  subs : ∀ ae ∈ t.adm.aes, ∀ x ∈ ae.subs, x.ticket.fn ≠ f
  pairs : ∀ q < 8, tget t.host.qps (qkey f q) = none
  events : tget t.host.eqs f = none
  gates : ∀ g, (s.gate g).owner = f → (t.gate g).count = 0 ∧ (t.gate g).target = 0 ∧ (t.gate g).waiters = [] ∧ (t.gate g).owner = f
  windows : ∀ w, t.winCfg f w = s.winCfg f w
  shares : ∀ p, t.fnPart f p = s.fnPart f p
  quotas : t.fmCfg f = s.fmCfg f

/-- The request of a row of Table 15-3, with its operation. -/
def requestCommand : Instr → Option (Nat × OdReq)
  | .read r => some (odRead, r)
  | .write r => some (odWrite, r)
  | .segWrite r => some (odSegWrite, r)
  | .segCommit r => some (odSegCommit, r)
  | .segAbort r => some (odSegAbort, r)
  | .describe r => some (odDescribe, r)
  | .list r => some (odList, r)
  | _ => none

/-- The PTC has AUX power, and no request or transaction is before it (R460). -/
structure PtcIdle (s : State) : Prop where
  powered : s.life.state ≠ .off
  txns : s.od.txns = []
  waiting : s.od.waiting = []

/-- The response of Table 15-2 to a request that came by MCTP. -/
def odReply (op : Nat) (r : OdReq) (st : Nat) (data : List Byte) : OutMsg :=
  .odResponse r.who (BitVec.ofNat 128 (ofLE (hdrUnit (op + 0x80) r.tag r.index r.sub st 0 0 data.length))) data

/-- A request that came by MCTP is refused: answered with its status, with no entry changed (R456). -/
structure OdRefused (op : Nat) (r : OdReq) (st : Nat) (s t : State) : Prop where
  out : t.host.out = s.host.out ++ [odReply op r st []]
  vals : t.od.vals = s.od.vals
  txns : t.od.txns = []
  count : t.od.refusedN = (s.od.refusedN + 1) % 2 ^ 64

/-- A request that came by MCTP is answered OK without data, with no entry changed. -/
structure OdDone (op : Nat) (r : OdReq) (data : List Byte) (s t : State) : Prop where
  out : t.host.out = s.host.out ++ [odReply op r odOk data]
  vals : t.od.vals = s.od.vals
  txns : t.od.txns = []

/-- The state in which a request that came by MCTP executes: it has been counted. -/
def requestCounted (s : State) : State :=
  { s with od := { s.od with msgsRx := (s.od.msgsRx + 1) % 2 ^ 64, requests := (s.od.requests + 1) % 2 ^ 64 } }

/-- The request passes the checks that do not look at a value (R456, checks 1 and 3 to 7), and names entry e. -/
structure OdPasses (op : Nat) (r : OdReq) (e : OdEnt) (s : State) : Prop where
  formed : wellFormed op r
  accepts : isWriteOp op → s.life.writesRefused = false
  reach : s.reaches r.who r.index r.sub (isWriteOp op)
  index : odIndex r.index
  entry : odEnt r.index r.sub = some e
  access : isWriteOp op → e.acc ≠ .const ∧ e.acc ≠ .ro
  held : e.dieHeld → s.diesOff → isWriteOp op ∧ e.persist

/-- A control message is answered with data and counted (R472). -/
def ControlAnswered (code : Nat) (data : List Byte) (c : Instr) (s : State) : Prop :=
  ∃ t, exec c s = .next t ∧ SameOff [.host, .od] s t ∧ t.host = { s.host with out := s.host.out ++ [.mctpControl code data] } ∧
    t.od.msgsRx = (s.od.msgsRx + 1) % 2 ^ 64 ∧ t.od.vals = s.od.vals

/-- A value that a write of an entry leaves as it is (R456, checks 8 to 10), v after clamping (R393). -/
structure OdAccepts (r : OdReq) (e : OdEnt) (d v : List Byte) (s : State) : Prop where
  kind : e.acc = .rw ∨ e.acc = .rwh
  held : e.acc = .rwh → s.life.state = .held
  owner : s.ownerRefuses r.index r.sub d = false
  length : e.ty.lenOk d
  clamp : v = clampTo r.index r.sub e d
  fits : e.ty.lenOk v
  range : e.inRange v
  rule : s.ruleOk r.index r.sub v

/-- What a WRITE or SEG_COMMIT of the value d does once the checks of the header have passed (R457, R463, R465): it is answered at once
where it equals the value held or the entry is not persistent; a new value of a persistent entry is a transaction, answered at its
commit. -/
structure OdWritten (op : Nat) (r : OdReq) (e : OdEnt) (d v : List Byte) (s t : State) : Prop where
  same : v = s.odCur r.index r.sub → t.od.vals = s.od.vals ∧ t.od.txns = [] ∧
    t.host.out = s.host.out ++ [odReply op r (if v ≠ d then odClamped else odOk) []]
  now : v ≠ s.odCur r.index r.sub → e.persist = false → t.odCur r.index r.sub = v ∧ t.od.txns = [] ∧
    t.od.vals = tput s.od.vals (odKey r.index r.sub) v ∧
    t.host.out = s.host.out ++ [odReply op r (if v ≠ d then odClamped else odOk) []]
  later : v ≠ s.odCur r.index r.sub → e.persist → s.recentTxns ≤ 16 → t.od.vals = s.od.vals ∧ t.host.out = s.host.out ∧
    ∃ x, t.od.txns = [x] ∧ x.ents = [(odKey r.index r.sub, v)] ∧ x.committed = false ∧ x.host ∧
      x.seq = s.od.txnSeq + 1
  rate : v ≠ s.odCur r.index r.sub → e.persist → 16 < s.recentTxns → OdRefused op r odBusy s t

/-- The PTC takes a write that comes by MCTP: it is idle, writes are not refused (R436), no rate limit is reached (R463), and the module is not
in RECOVERY, where fewer entries are reached (R434). -/
structure TakesWrites (s : State) : Prop where
  idle : PtcIdle s
  writes : s.life.writesRefused = false
  rate : s.recentTxns ≤ 16
  normal : s.life.state ≠ .recovery

/-- A persistent write is a transaction of its own, answered at its commit (R463, R465). -/
structure OdQueued (ents : List (Nat × List Byte)) (done : TxnDone) (s t : State) : Prop where
  vals : t.od.vals = s.od.vals
  out : t.host.out = s.host.out
  txn : ∃ x, t.od.txns = [x] ∧ x.ents = ents ∧ x.done = done ∧ x.committed = false ∧ x.host

/-- The dies have lost their state: no frame, no core state, no execution, no partition under way (Tables 14-4 and 14-7). -/
structure DiesCleared (t : State) (regs : Regs := Regs.reset) : Prop where
  frames : t.fm.frames = []
  cores : t.cores = []
  adm : t.adm = Adm.reset
  tick : t.tick = Tick.reset
  registers : t.reg = regs

/-- A record of a code waits for the event journal. -/
def Journalled (code : Nat) (t : State) : Prop := ∃ e ∈ t.jr.waiting, e.code = code

/-- Link l brings the module a record of a type that it takes: the link is UP or LOWPWR, the type and CHK are good, and the record is for this
module (R328, R332). -/
structure LinkTakes (l n : Nat) (r : LinkRecord) (s : State) : Prop where
  usable : (s.link l).mode.usable
  rtype : recType r = n
  check : 4 ≤ (s.link l).level → recChk r
  mine : recDst r = s.moduleNo

/-- The answer to a record (R328, R330). -/
def answerTo (rtype status : Nat) (blocks : List (BitVec 128 × BlockData)) (r : LinkRecord) (s : State) : LinkRecord :=
  { header := mkHeader rtype 0 s.moduleNo (recSrc r) (recPid r) (recFn r) status blocks.length (recCw r) (recOff r) (recTag r),
    blocks := blocks }

/-- The output port of link l has no other record to send, and the link's state and the peer's buffer let record a leave (R327). -/
structure PortReady (l : Nat) (a : LinkRecord) (s : State) : Prop where
  alone : (s.link l).queue = []
  can : (s.link l).canSend a

/-- Record a, and nothing else, has left on link l: at the link's level, its units taken off the credit of its buffer, its flits
numbered from TXSEQ (R325, R327, R332). -/
structure RecordSent (l : Nat) (a : LinkRecord) (s t : State) : Prop where
  out : t.host.out = s.host.out ++ [.record l (recAtLevel a (s.link l).level)]
  queue : (t.link l).queue = []
  credit : tgetD (t.link l).credit (recBuf a) bufUnits = tgetD (s.link l).credit (recBuf a) bufUnits -
    recUnits (recAtLevel a (s.link l).level)
  flits : (t.link l).txSeq = ((s.link l).txSeq + recFlits (recAtLevel a (s.link l).level)) % 4096

/-- A task that waits for a tag waits no more, and change f has been made to it. -/
def TagDone (x : Remote) (f : Run → Run) (s t : State) : Prop :=
  t.net.remote = s.net.remote.filter (fun y => y.tag != x.tag) ∧
  ∀ r, (s.core x.core).run = some r → r.remote.contains x.tag →
    (t.core x.core).run = some (f { r with remote := r.remote.filter (· != x.tag) })

/-- A marker of a type reaches the module on a link that carries it: UP or LOWPWR, and SOAK for SYNC and ANNOUNCE (R337, R350). -/
def MarkerOn (l type : Nat) (w : Dword) (soak : Bool) (s : State) : Prop :=
  bitsOf w.toNat 63 60 = type ∧ ((s.link l).mode.usable ∨ (soak ∧ (s.link l).mode = .soak))

/-- A maintenance fault of a unit has been raised, now or within the second before (R422). -/
def MntRaised (code unit : Nat) (t : State) : Prop := ∃ a, (code, unit, a) ∈ t.jr.raised ∧ t.tick.st < a + 1000 * msSt

/-- A request for an activity on a macro waits in the Maintenance Arbiter's queue. -/
def Requested (a : Activity) (pm : Nat) (t : State) : Prop := ∃ q ∈ t.mnt.queue, q.act = a ∧ q.mac = pm

/-- Segments of a macro are flagged, beside those that were, and with AUTO_REPAIR its evacuation is queued (R405). -/
def Flagged (pm : Nat) (segs : List Nat) (s t : State) : Prop :=
  (∀ g, g ∈ (t.macAt pm).flagged ↔ g ∈ segs ∨ g ∈ (s.macAt pm).flagged) ∧ (odNat s 0x7100 0x05 1 = 1 → Requested .rep pm t)

/-- A core runs a task in a tick whose lead point has not come, and the task's context. -/
structure CoreRuns (c : Nat) (r : Run) (x : TaskCtx) (s : State) : Prop where
  ticks : s.coreTicks c
  run : (s.core c).run = some r
  ctx : s.taskCtx c r = some x

/-- After a count of job k the slice of the token goes on: the job's slice has a further count. -/
def SliceGoesOn (x : TaskCtx) (r : Run) (mac : Nat) (j : Job) (i : Nat) (s : State) : Prop :=
  i < (countsOf x r (s.macAt (s.physMac x.core mac)) j).length

/-- Job k of the run of a core has become j', and with `f` made to the run nothing else of it has changed. -/
def JobBecomes (c k : Nat) (r : Run) (f : Run → Run) (j' : Job) (t : State) : Prop :=
  (t.core c).run = some (f { r with jobs := r.jobs.set k j' })

/-- A count leaves cells alone, and touches no memory (R48). -/
def CellsKept (s t : State) : Prop :=
  SameOff [.fm, .mnt, .reg, .jr, .host, .cores] s t ∧
  ∀ pm, (t.macAt pm).rows = (s.macAt pm).rows ∧ (t.macAt pm).pos = (s.macAt pm).pos ∧ (t.macAt pm).age = (s.macAt pm).age

/-- Each segment of a list has one more checked count in its guard window; a full window ends before the count (R72). -/
def GuardCounted (pm : Nat) (segs : List Nat) (s t : State) : Prop :=
  (s.macAt pm).guardN.length = 16 → ∀ g ∈ segs,
    (t.macAt pm).guardN.getD g 0 = (if (s.macAt pm).guardN.getD g 0 = 512 then 0 else (s.macAt pm).guardN.getD g 0) + 1

/-- The row that is next in the write of a macro, with the rows after it and the place of the write in the run. -/
structure RowNext (c mac k : Nat) (r : Run) (x : TaskCtx) (w : WriteRun) (q : WRow) (rest : List WRow) (s : State) : Prop
    extends CoreRuns c r x s where
  write : r.writeOf mac = some (k, w)
  row : w.todo = q :: rest
  undone : w.done = false
  free : s.fenced (s.physMac c mac) = false
  busy : r.busy
  kind : x.t.isCount = false

/-- A row has left the write of a macro: the macro is m, the others are as they were, and no memory has changed. -/
structure RowWritten (c pm k : Nat) (r : Run) (w : WriteRun) (q : WRow) (rest : List WRow) (m : Mac) (s t : State) : Prop where
  off : SameOff [.fm, .mnt, .cores, .reg] s t
  mac : t.macAt pm = m
  others : ∀ k, k ≠ pm → t.macAt k = s.macAt k
  run : (t.core c).run = some { r with writes := r.writes.set k { w with todo := rest, written := w.written ++ [q] } }

end Sys2Proof.Machine
end

