-- ==== Sys2Proof/Certificates/Slice0/Obligations.lean ====
section
/-!
DEFINITION. The statements for the provers.
-/

open Sys2Proof Sys2Proof.Machine

/-- The command at the front of the queue takes its effect on the state with the queue's rest. -/
def Obligations.StepRunsFrontCommand : Prop :=
  ∀ (c : Instr) (rest : List Instr) (s : State), s.pending = c :: rest → step s = exec c { s with pending := rest }

/-- On an empty queue one unit of time passes and nothing else changes (log entry 1, the model's choice). -/
def Obligations.EmptyQueueLetsTimePass : Prop :=
  ∀ s : State, s.pending = [] →
    ∃ t, step s = .next t ∧ t.now = s.now + 1 ∧
      t.tick = { s.tick with st := if s.life.diesUp then (s.tick.st + 1) % 2 ^ 64 else s.tick.st } ∧
      SameOff [.now, .tick] s t

/-- A command never stops the module: it answers a next state that takes nothing off the queue but itself, and that has every
component outside the command's footprint as it was. -/
def Obligations.CommandsAnswerWithinTheirFootprints : Prop :=
  ∀ (i : Instr) (s : State), ∃ t, exec i s = .next t ∧ t.pending = s.pending ∧ SameOff (footprint i) s t

/-- SQ_TAIL: every entry from the head up to the new tail is fetched, in ring order, each once, with the SQ_HEAD behind it
(R304); entries of unknown opcode are another statement's. -/
def Obligations.SqTailFetchesInRingOrder : Prop :=
  ∀ (s : State) (fn q : Nat) (v : Word) (ws : List HostWrite) (p : QPair),
    let h := s.host.hostWrites ws
    let size := 2 ^ p.sqLog2
    let entry := fun i => hostRead h.mem (p.sqBase + 64 * ((p.head + i) % size)) 64
    let n := (v.toNat + size - p.head) % size
    s.fnEnabled fn → q < 8 → v.toNat < 65536 → v.toNat < size → p.head < size →
    tget s.host.qps (qkey fn q) = some p → p.full = false → p.ready = [] → p.deleting = none →
    (∀ i < n, (operandFields (entOp (ofLE (entry i)))).isSome) →
    ∃ t, exec (.sqTail fn q v 32 ws) s = .next t ∧ SameOff [.host] s t ∧
      tget t.host.qps (qkey fn q) = some { p with
        tail := v.toNat, head := v.toNat, open_ := p.open_ + n,
        fetched := p.fetched ++ (List.range n).map (fun i => { bytes := entry i, sqHead := (p.head + i + 1) % size }) } ∧
      (∀ k, k ≠ qkey fn q → tget t.host.qps k = tget s.host.qps k) ∧ t.host.mem = h.mem

/-- Doorbells of head pointers: a valid write moves the head, and one that the module ignores counts in DB_ERRORS, as a malformed
tail write does (R491). -/
def Obligations.DoorbellsMoveTheHeadOrAreCounted : Prop :=
  (∀ (s : State) (fn q : Nat) (v : Word) (p : QPair),
    s.fnEnabled fn → q < 8 → v.toNat < 65536 → v.toNat < 2 ^ p.cqLog2 → tget s.host.qps (qkey fn q) = some p →
    p.ready = [] → p.deleting = none → p.head = p.tail →
    ∃ t, exec (.cqHead fn q v 32) s = .next t ∧ SameOff [.host] s t ∧
      t.host = { s.host with qps := tput s.host.qps (qkey fn q) { p with cqHead := v.toNat } }) ∧
  (∀ (s : State) (fn : Nat) (v : Word) (e : EQueue),
    s.fnEnabled fn → v.toNat < 65536 → v.toNat < 2 ^ e.log2 → tget s.host.eqs fn = some e →
    ∃ t, exec (.eqHead fn v 32) s = .next t ∧ SameOff [.host] s t ∧
      t.host = { s.host with eqs := tput s.host.eqs fn { e with head := v.toNat } }) ∧
  (∀ (s : State) (fn q : Nat) (v : Word) (width : Nat),
     s.fnEnabled fn → q < 8 →
     (65536 ≤ v.toNat ∨ width ≠ 32 ∨ (∀ p, tget s.host.qps (qkey fn q) = some p → 2 ^ p.sqLog2 ≤ v.toNat) →
       exec (.sqTail fn q v width []) s = .next { s with host := s.host.dbError fn }) ∧
     (65536 ≤ v.toNat ∨ width ≠ 32 ∨ (∀ p, tget s.host.qps (qkey fn q) = some p → 2 ^ p.cqLog2 ≤ v.toNat) →
       exec (.cqHead fn q v width) s = .next { s with host := s.host.dbError fn }) ∧
     (65536 ≤ v.toNat ∨ width ≠ 32 ∨ (∀ e, tget s.host.eqs fn = some e → 2 ^ e.log2 ≤ v.toNat) →
       exec (.eqHead fn v width) s = .next { s with host := s.host.dbError fn }) ∧
     (s.host.dbError fn).dbErrors = tput s.host.dbErrors fn (min (2 ^ 32 - 1) (tgetD s.host.dbErrors fn 0 + 1)))

/-- A completion: its 64 bytes stand at the tail of the queue with the phase of the pass, every other byte of host memory is as it
was, the tail moves on, and the phase inverts at the wrap; a full completion queue holds the completion back: nothing is written, and
the entry waits behind those before it (R305, R494). -/
def Obligations.CompletionsAreWrittenOrHeld : Prop :=
  (∀ (h : HostIf) (c : Compl) (p : QPair),
     tget h.qps (qkey c.ticket.fn c.ticket.q) = some p → p.ready = [] → p.deleting = none → p.full = false →
     hostRead (h.complete c).mem (p.cqBase + 64 * p.cqTail) 64 = complBytes c p.cqPhase ∧
     (∀ a, (∀ i < 64, a % 2 ^ 64 ≠ (p.cqBase + 64 * p.cqTail + i) % 2 ^ 64) →
       hostByte (h.complete c).mem a = hostByte h.mem a) ∧
     ∃ u, tget (h.complete c).qps (qkey c.ticket.fn c.ticket.q) = some { p with
       cqTail := (p.cqTail + 1) % 2 ^ p.cqLog2, open_ := p.open_ - 1, unsig := u,
       cqPhase := if (p.cqTail + 1) % 2 ^ p.cqLog2 = 0 then !p.cqPhase else p.cqPhase }) ∧
  (∀ (h : HostIf) (c : Compl) (p : QPair),
     tget h.qps (qkey c.ticket.fn c.ticket.q) = some p → p.deleting = none → p.full = true →
     (h.complete c).mem = h.mem ∧ (h.complete c).out = h.out ∧
     tget (h.complete c).qps (qkey c.ticket.fn c.ticket.q) = some { p with open_ := p.open_ - 1, ready := p.ready ++ [c] })

/-- The checks of an entry before its command acts: a reserved field before the queue and issuer restrictions (R492, R493). -/
def Obligations.EntryChecksComeFirst : Prop :=
  (∀ (i : Instr) (fn q op e st : Nat) (k : Ticket) (s : State),
    queueCommand i = some (fn, q, op) → frontEntry fn q s = some (e, k) → entOp e = op → entryCheck fn q e = some st →
    exec i s = .next (completeSt k st (popEntry fn q s))) ∧
  (∀ fn q e, (∃ b, e.testBit b ∧ (namedMask (entOp e)).testBit b = false) → entryCheck fn q e = some stInvalid) ∧
  (∀ fn q e, (∀ b, e.testBit b → (namedMask (entOp e)).testBit b) → q ≠ 0 →
    entOp e ∈ [opCreateQp, opDeleteQp, opCreateEq] → entryCheck fn q e = some stInvalid) ∧
  (∀ fn q e, (∀ b, e.testBit b → (namedMask (entOp e)).testBit b) → fn ≠ 0 →
    entOp e ∈ [opMap, opUnmap, opProtect, opSyncIn, opSyncOut, opGateOwn, opFnReset, opCoreReset, opClusterReset,
      opPartitionReset, opPartitionPark, opPartitionResume] → entryCheck fn q e = some stDenied)

/-- CREATE_QP and CREATE_EQ within the limits of Table 10-3 create the queue and complete OK; beyond them they create nothing
and complete INVALID (R303). -/
def Obligations.QueuesAreCreatedWithinLimits : Prop :=
  (∀ (s : State) (fn e : Nat) (k : Ticket), Front opCreateQp fn 0 e k s →
    let n := entF e 0x08 1
    let u := popEntry fn 0 s
    let p := QPair.new (entF e 0x10 8) (entF e 0x18 8) (entF e 0x0C 1) (entF e 0x0D 1) (entF e 0x09 1) (entF e 0x0A 1) (entF e 0x0B 1)
    if 1 ≤ n ∧ n ≤ 7 ∧ n < qpairsMax s fn ∧ tget s.host.qps (qkey fn n) = none ∧ entF e 0x09 1 < 32 ∧
        4 ≤ entF e 0x0C 1 ∧ entF e 0x0C 1 ≤ 12 ∧ 4 ≤ entF e 0x0D 1 ∧ entF e 0x0D 1 ≤ 12 ∧
        entF e 0x10 8 % 4096 = 0 ∧ entF e 0x18 8 % 4096 = 0 then
      exec (.createQp fn 0) s = .next (completeSt k stOk { u with host := { u.host with qps := tput u.host.qps (qkey fn n) p } })
    else exec (.createQp fn 0) s = .next (completeSt k stInvalid u)) ∧
  (∀ (s : State) (fn e : Nat) (k : Ticket), Front opCreateEq fn 0 e k s →
    let u := popEntry fn 0 s
    let x := EQueue.new (entF e 0x10 8) (entF e 0x0C 1) (entF e 0x09 1) (entF e 0x0A 1) (entF e 0x0B 1)
    if tget s.host.eqs fn = none ∧ entF e 0x09 1 < 32 ∧ 6 ≤ entF e 0x0C 1 ∧ entF e 0x0C 1 ≤ 16 ∧ entF e 0x10 8 % 4096 = 0 then
      exec (.createEq fn 0) s = .next (completeSt k stOk { u with host := { u.host with eqs := tput u.host.eqs fn x } })
    else exec (.createEq fn 0) s = .next (completeSt k stInvalid u))

/-- DELETE_QP (R303): a pair with no command under way is gone and the command completes OK on pair 0: with room in its completion
queue the entry stands at the tail; else it waits, and the pair takes no further command. -/
def Obligations.DeleteQpWaitsForItsCommands : Prop :=
  ∀ (s : State) (fn e : Nat) (k : Ticket) (p p0 : QPair), Front opDeleteQp fn 0 e k s →
    let n := entF e 0x08 1
    let u := popEntry fn 0 s
    1 ≤ n → n ≤ 7 → tget s.host.qps (qkey fn n) = some p → p.deleting = none → tget u.host.qps (qkey fn 0) = some p0 →
    p0.deleting = none →
    (p.open_ = 0 → p.ready = [] → p.fetched = [] → p0.ready = [] → p0.full = false →
      ∃ t, exec (.deleteQp fn 0) s = .next t ∧ SameOff [.host] s t ∧ tget t.host.qps (qkey fn n) = none ∧
        hostRead t.host.mem (p0.cqBase + 64 * p0.cqTail) 64 = complBytes (Compl.mk' k stOk) p0.cqPhase ∧
        (tget t.host.qps (qkey fn 0)).map (fun x => (x.cqTail, x.open_)) = some ((p0.cqTail + 1) % 2 ^ p0.cqLog2, p0.open_ - 1)) ∧
    (p.open_ ≠ 0 ∨ p.ready ≠ [] ∨ p.fetched ≠ [] →
      ∃ t, exec (.deleteQp fn 0) s = .next t ∧ SameOff [.host] s t ∧
        tget t.host.qps (qkey fn n) = some { p with deleting := some k } ∧ t.host.mem = s.host.mem ∧ t.host.out = s.host.out)

/-- FN_AQ_CFG_WRITE with EN creates pair 0 from the registers; a depth code or a base out of rule is refused with CFG_REJ; with
pair 0 in existence the write is ignored (R490). -/
def Obligations.PairZeroFromItsRegisters : Prop :=
  ∀ (s : State) (fn : Nat) (v : Word), s.serving → v.getLsbD 30 →
    (tget s.host.qps (qkey fn 0) ≠ none → exec (.fnAqCfgWrite fn v) s = .next s) ∧
    (tget s.host.qps (qkey fn 0) = none → s.fnExists fn → 
      let sq := bitsOf v.toNat 29 26
      let cq := bitsOf v.toNat 25 22
      let sb := (aqSqBaseOf s fn).toNat
      let cb := (aqCqBaseOf s fn).toNat
      ∃ t, exec (.fnAqCfgWrite fn v) s = .next t ∧ SameOff [.host] s t ∧
        if 4 ≤ sq ∧ sq ≤ 12 ∧ 4 ≤ cq ∧ cq ≤ 12 ∧ sb % 4096 = 0 ∧ cb % 4096 = 0 then
          tget t.host.qps (qkey fn 0) = some (QPair.new sb cb sq cq (bitsOf v.toNat 20 16) (bitsOf v.toNat 15 8) (bitsOf v.toNat 7 0)) ∧
          (aqCfgOf t fn).getLsbD 30
        else t.host.qps = s.host.qps ∧ (aqCfgOf t fn).getLsbD 31)

/-- MSI-X: a masked vector keeps its message pending, an unmask sends it, and the coalescing timeout sends the message of entries
not yet signalled (R308). -/
def Obligations.InterruptsAreSentOnce : Prop :=
  (∀ (s : State) (fn v : Nat), s.fnExists fn → v < 32 →
    ∃ t, exec (.msixUnmask fn v) s = .next t ∧ SameOff [.host] s t ∧ t.host.masked fn v = false ∧
      if (tgetD s.host.msixPend fn 0).getLsbD v then
        t.host.out = s.host.out ++ [.msix fn v] ∧ (tgetD t.host.msixPend fn 0).getLsbD v = false
      else t.host.out = s.host.out ∧ t.host.msixPend = s.host.msixPend) ∧
  (∀ (s : State) (fn q : Nat) (p : QPair), q < 8 → tget s.host.qps (qkey fn q) = some p → p.unsig ≠ 0 → p.vec < 32 →
    ∃ t, exec (.coalescingTimeout fn q) s = .next t ∧ SameOff [.host] s t ∧
      tget t.host.qps (qkey fn q) = some { p with unsig := 0 } ∧
      if s.host.masked fn p.vec then t.host.out = s.host.out ∧ (tgetD t.host.msixPend fn 0).getLsbD p.vec
      else t.host.out = s.host.out ++ [.msix fn p.vec])

/-- Gate commands of a gate's owner: ARM, ARRIVE and WAIT (R253, R255, R519); a command on another function's gate is DENIED
and changes nothing (R254). -/
def Obligations.GateCommandsOfTheOwner : Prop :=
  ∀ (s : State) (fn q e : Nat) (k : Ticket),
    let g := entF e 0x08 2 % 2 ^ 14
    let x := s.gate g
    let u := popEntry fn q s
    (Front opGateArm fn q e k s → x.owner = fn → s.gatePart g ≠ none ∨ entF e 0x0C 4 ≠ 0 →
      exec (.gateArm fn q) s = .next (completeSt k stOk (u.setGate g { x with count := 0, target := entF e 0x0C 4 }))) ∧
    (Front opGateArrive fn q e k s → x.owner = fn → 1 ≤ entF e 0x0C 4 → entF e 0x0C 4 ≤ 65536 →
      match s.gatePart g with
      | none => x.count + entF e 0x0C 4 < x.target → x.target < 2 ^ 32 →
          exec (.gateArrive fn q) s = .next (completeSt k stOk (u.setGate g { x with count := x.count + entF e 0x0C 4 }))
      | some p => ∃ t, exec (.gateArrive fn q) s = .next t ∧ SameOff [.host, .tick] s t ∧ t.host = u.host ∧
          t.tick = { s.tick with arrivals := s.tick.arrivals ++
            [{ gate := g, n := entF e 0x0C 4, part := p,
               after := if (s.part p).lead then (s.part p).tick + 2 else (s.part p).tick + 1, ticket := some k }] }) ∧
    (Front opGateWait fn q e k s → x.owner = fn →
      exec (.gateWait fn q) s = .next (
        if s.gatePart g = none ∧ x.target ≤ x.count then complete { Compl.mk' k stOk with info := x.count } u
        else if 16 ≤ x.waiters.length then completeSt k stGateBusy u
        else u.setGate g { x with waiters := x.waiters ++ [k] })) ∧
    (x.owner ≠ fn →
      (Front opGateArm fn q e k s → exec (.gateArm fn q) s = .next (completeSt k stDenied u)) ∧
      (Front opGateArrive fn q e k s → exec (.gateArrive fn q) s = .next (completeSt k stDenied u)) ∧
      (Front opGateWait fn q e k s → exec (.gateWait fn q) s = .next (completeSt k stDenied u)))

/-- GATE_OWN and a write of GATE_OWNER: an accepted change sets COUNT and TARGET to 0 and the owner; with the gate armed by an
execution queued or in progress, or with host waiters, it is refused, with STATE or with CFG_REJ (R487). -/
def Obligations.GateOwnerChanges : Prop :=
  (∀ (s : State) (e : Nat) (k : Ticket) (q : Nat), Front opGateOwn 0 q e k s →
    let g := entF e 0x08 2 % 2 ^ 14
    (s.gate g).owner ≠ entFn e →
    if s.gateArmed g ∨ (s.gate g).waiters ≠ [] then exec (.gateOwn 0 q) s = .next (completeSt k stState (popEntry 0 q s))
    else ∃ t, exec (.gateOwn 0 q) s = .next t ∧ SameOff [.host, .adm, .tick] s t ∧
      t.gate g = { s.gate g with count := 0, target := 0, owner := entFn e } ∧ (∀ j, j ≠ g → t.gate j = s.gate j) ∧
      (∀ p ∈ t.adm.plans, p.namesGate g = false)) ∧
  (∀ (s : State) (g : Nat) (v : Word), s.serving → g < 16384 → (s.gate g).owner ≠ bitsOf v.toNat 8 0 →
    ∃ t, exec (.gateOwnerWrite g v) s = .next t ∧ (∀ j, j ≠ g → t.gate j = s.gate j) ∧
      if s.gateArmed g ∨ (s.gate g).waiters ≠ [] then t.gate g = s.gate g ∧ tgetD t.reg.gateCtl g false = true
      else t.gate g = { s.gate g with count := 0, target := 0, owner := bitsOf v.toNat 8 0 } ∧
        (∀ p ∈ t.adm.plans, p.namesGate g = false))

/-- SUBMIT: a PART that is no partition of the function is DENIED (R493); otherwise the submission goes behind those at Admission
Engine f mod 8 (R241). FLUSH: the function's plans, or those of one graph, leave the cache, and INFO counts them (R258). -/
def Obligations.SubmissionsQueueAndFlushRemovesPlans : Prop :=
  (∀ (s : State) (fn q e : Nat) (k : Ticket), Front opSubmit fn q e k s →
    (16 ≤ entF e 0x18 1 ∨ shareOf (s.fnPartEff fn (entF e 0x18 1)) = 0 →
      exec (.submit fn q) s = .next (completeSt k stDenied (popEntry fn q s))) ∧
    (∀ ae, entF e 0x18 1 < 16 → shareOf (s.fnPartEff fn (entF e 0x18 1)) ≠ 0 → s.adm.aes[fn % 8]? = some ae → ae.subs ≠ [] →
      ∃ t x, exec (.submit fn q) s = .next t ∧ SameOff [.host, .adm] s t ∧ t.host = (popEntry fn q s).host ∧
        t.adm = { s.adm with aes := s.adm.aes.set (fn % 8) { ae with subs := ae.subs ++ [x] },
                             behind := if ae.subs.any (fun y => y.ticket.fn == fn) then s.adm.behind else tdel s.adm.behind fn } ∧
        x.ticket = k ∧ x.graphVa = entF e 0x08 8 ∧ x.part = entF e 0x18 1 ∧
        x.xs = (List.range 7).map (fun i => entF e (0x1C + 4 * i) 4) ∧
        x.startTick = if bitOf (entF e 0x01 1) 0 then some (entF e 0x10 8 % 2 ^ 48) else none)) ∧
  (∀ (s : State) (fn q e : Nat) (k : Ticket), Front opFlush fn q e k s →
    let hit := fun (p : Plan) => p.key.fn == fn && (entF e 0x08 8 == 0 || p.key.graphVa == entF e 0x08 8)
    ∃ t, exec (.flush fn q) s = .next t ∧ SameOff [.host, .adm] s t ∧ (∀ p, p ∈ t.adm.plans ↔ p ∈ s.adm.plans ∧ hit p = false) ∧
      t.host = (complete { Compl.mk' k stOk with info := (s.adm.plans.filter hit).length } (popEntry fn q s)).host)

/-- AE_TURN: the engine serves its functions round-robin in ascending number from the one after the one it served last: the
submission whose turn it is belongs to the function next above, or to the lowest where none is above (R241). -/
def Obligations.AdmissionEnginesServeRoundRobin : Prop :=
  ∀ (s : State) (a : Nat) (ae : Ae), s.adm.aes[a]? = some ae → ae.subs ≠ [] →
    ∃ t u x, exec (.aeTurn a) s = .next t ∧ x ∈ ae.subs ∧
      (∀ y ∈ ae.subs, ae.lastFn < y.ticket.fn → ae.lastFn < x.ticket.fn ∧ x.ticket.fn ≤ y.ticket.fn) ∧
      (x.ticket.fn ≤ ae.lastFn → ∀ y ∈ ae.subs, x.ticket.fn ≤ y.ticket.fn) ∧
      (u.adm.aes[a]?).map (·.lastFn) = some x.ticket.fn ∧ SameOff [.adm] s u ∧
      t = match x.phase with
        | .check => checkTurn x u
        | .fit gd bt bs ts => admitTurn x gd bt bs ts u

/-- The plan that the list scheduler of R250 makes is legal: no slot exceeds the tick budget, every LOCAL and implicit
predecessor lies in an earlier tick, or in the same tick of the same stage before the task, and no tick passes 4,095. -/
def Obligations.SchedulesRespectBudgetAndPrecedence : Prop :=
  ∀ (s : State) (c : AdmCtx) (order : List Nat) (n : Nat) (ps : List Placed), schedule s c order n [] = .ok ps →
    (∀ st t, usedIn ps st t ≤ c.window) ∧
    (∀ x ∈ ps, x.tick ≤ 4095 ∧ ∀ p ∈ predsOf c.pairs x.id, ∃ y ∈ ps, y.id = p ∧
      if y.stage = x.stage then y.tick ≤ x.tick else y.tick < x.tick) ∧
    (ps.map (·.id)).Nodup

/-- The registers of BAR0 read their stated reset values right after reset, the module is OFF and no command waits. -/
def Obligations.ResetValuesAreAsStated : Prop :=
  let s := State.reset
  s.life.state = .off ∧ s.pending = [] ∧ s.host.qps = [] ∧ s.host.eqs = [] ∧ s.host.dbErrors = [] ∧
  s.readReg .budgetCfg = 0x20 ∧
  (∀ p, s.readReg (.tickCfg p) = 0x14 * 2 ^ 10 + 0x20 ∧ s.readReg (.partCtl p) = 0 ∧
    s.readReg (.partCl p false) = 0 ∧ s.readReg (.partCl p true) = 0) ∧
  (∀ f, s.readReg (.mmuFnCfg f) = 0x08 * 2 ^ 8 ∧ s.readReg (.fmFnCfg f) = 4 * 2 ^ 24 ∧ s.readReg (.mmuFnStat f) = 0 ∧
    s.readReg (.fnStatus f) = 0 ∧ s.readReg (.aqSq f) = 0 ∧ s.readReg (.aqCq f) = 0) ∧
  (∀ f p, s.readReg (.fnPart f p) = 0) ∧
  (∀ c, s.readReg (.countCfg c) = 0x100 * 2 ^ 16 + 0x08 * 2 ^ 8 ∧ s.readReg (.countStat c) = 0 ∧
    s.readReg (.convStat c) = 0 ∧ s.readReg (.compStat c) = 0) ∧
  (∀ d, s.readReg (.mntStat d) = 0 ∧ s.readReg (.mntCtl d) = 0)

/-- The machine right after reset has its memories in canonical form and obeys the life-cycle rules. -/
def Obligations.ResetMeetsTheInvariants : Prop := State.reset.memWf ∧ State.reset.life.ok

/-- Every step keeps every memory in canonical form: equal memories are equal data. -/
def Obligations.StepKeepsMemoryCanonical : Prop :=
  ∀ s t : State, s.memWf → step s = .next t → t.memWf

/-- Every step keeps what Tables 14-1 to 14-3 require of the module state, the supplies, PERST#, the rails and the stages. -/
def Obligations.StepKeepsLifeCycleRules : Prop :=
  ∀ s t : State, s.life.ok → step s = .next t → t.life.ok

/-- FN_PART_CFG (R301): an over-large or over-committed value is refused, an accepted one reads back; the accumulator
allotments and the share take effect at once only where the partition has no running tick. -/
def Obligations.PartitionSharesAreChecked : Prop :=
  ∀ (s : State) (f p : Nat) (v : Word), s.serving → f < 512 → p < 16 →
    let n := v.toNat
    let refused := 256 < shareOf n ∨ 8 < tilesOf n ∨ 8 < accmOf n ∨
      256 < s.partSum f p shareOf + shareOf n ∨ 8 < s.partSum f p tilesOf + tilesOf n ∨ 8 < s.partSum f p accmOf + accmOf n ∨
      (shareOf n = 0 ∧ (tilesOf n ≠ 0 ∨ accmOf n ≠ 0 ∨
        (∃ x ∈ s.fm.frames, x.1 / 2 ^ 21 = f ∧ s.partHas p (clusterOfCore x.2.core)) ∨
        (∃ e ∈ s.adm.execs, e.ticket.fn = f ∧ e.plan.key.part = p ∧ (e.phase = .running ∨ isQueued e.phase)) ∨
        (∃ ae ∈ s.adm.aes, ∃ x ∈ ae.subs, x.ticket.fn = f ∧ x.part = p ∧ x.id.isSome)))
    (refused → ∃ t, exec (.fnPartCfgWrite f p v) s = .next t ∧ SameOff [.reg] s t ∧
      t.fnPart f p = setBits (s.fnPart f p) 31 31 1 ∧ (∀ g q, t.fnPartEff g q = s.fnPartEff g q)) ∧
    (¬ refused → ∃ t, exec (.fnPartCfgWrite f p v) s = .next t ∧
      shareOf (t.fnPart f p) = shareOf n ∧ tilesOf (t.fnPart f p) = tilesOf n ∧ accmOf (t.fnPart f p) = accmOf n ∧
      (s.partTicks p → SameOff [.reg] s t ∧ (∀ g q, t.fnPartEff g q = s.fnPartEff g q) ∧
        (bitOf (t.fnPartRead f p) 30 ↔ tilesOf n ≠ tilesOf (s.fnPartEff f p) ∨ accmOf n ≠ accmOf (s.fnPartEff f p))) ∧
      (s.partTicks p = false → s.partRunning p = false → (∀ y ∈ s.reg.partPend, y.part = p → y.fn = f) →
        shareOf (t.fnPartEff f p) = shareOf n ∧ tilesOf (t.fnPartEff f p) = tilesOf n ∧ accmOf (t.fnPartEff f p) = accmOf n))

/-- TICK_CFG and ADM_BUDGET_CFG (R245, R246, R258): a field outside its range keeps its value and sets CFG_REJ; the plans of
another period, window or reserve leave the cache. -/
def Obligations.TickAndBudgetWritesFlushPlans : Prop :=
  (∀ (s : State) (p : Nat) (v : Word), s.serving → p < 16 →
    let per := if 8 ≤ bitsOf v.toNat 9 0 ∧ bitsOf v.toNat 9 0 ≤ 1000 then bitsOf v.toNat 9 0 else periodOf (s.tickCfg p)
    let mw := if 1 ≤ bitsOf v.toNat 17 10 ∧ bitsOf v.toNat 17 10 ≤ 100 then bitsOf v.toNat 17 10 else mwinOf (s.tickCfg p)
    ∃ t, exec (.tickCfgWrite p v) s = .next t ∧ SameOff [.reg, .adm] s t ∧ periodOf (t.tickCfg p) = per ∧
      mwinOf (t.tickCfg p) = mw ∧
      (bitOf (t.tickCfg p) 31 ↔ ¬ (8 ≤ bitsOf v.toNat 9 0 ∧ bitsOf v.toNat 9 0 ≤ 1000) ∨
        ¬ (1 ≤ bitsOf v.toNat 17 10 ∧ bitsOf v.toNat 17 10 ≤ 100) ∨ (bitOf (s.tickCfg p) 31 ∧ ¬ bitOf v.toNat 31)) ∧
      (∀ q, q ≠ p → t.tickCfg q = s.tickCfg q) ∧ (∀ q, t.tickCfgEff q = s.tickCfgEff q) ∧
      (∀ x ∈ t.adm.plans, x ∈ s.adm.plans ∧ (x.key.part = p → x.key.period = per ∧ x.key.mwin = mw))) ∧
  (∀ (s : State) (v : Word), s.serving →
    ∃ t, exec (.admBudgetCfgWrite v) s = .next t ∧ SameOff [.reg, .adm] s t ∧ t.rr = bitsOf v.toNat 15 0 ∧
      (∀ x ∈ t.adm.plans, x ∈ s.adm.plans ∧ x.key.rr = bitsOf v.toNat 15 0))

/-- PART_CL_LO and PART_CL_HI (R488): a cluster of another partition, or a function with a share, refuses the write and leaves
both registers; an accepted write assigns the clusters, and clears the AS valid bits and the CM of those that change; a
module reset returns the registers to their reset values. -/
def Obligations.ClusterAssignmentIsExclusive : Prop :=
  (∀ (s : State) (p : Nat) (hi : Bool) (v : Dword), s.serving → p < 16 →
     let base := if hi then 64 else 0
     let taken := ∃ q < 16, q ≠ p ∧ ∃ i < 64, v.getLsbD i ∧ s.partHas q (base + i)
     let shared := (∃ e ∈ s.reg.fnPartCfg, e.1 % 16 = p ∧ shareOf e.2.toNat ≠ 0) ∨ s.partFns p ≠ []
     ∃ t, exec (.partClWrite p hi .whole v) s = .next t ∧ SameOff [.reg, .mem] s t ∧
       (taken ∨ shared → (∀ q c, t.partHas q c = s.partHas q c) ∧ t.mem = s.mem ∧ (tgetD t.reg.partCtl p 0).getLsbD 31) ∧
       (¬ taken → ¬ shared → (∀ i < 64, t.partHas p (base + i) = v.getLsbD i) ∧
         (∀ q c, q ≠ p → t.partHas q c = s.partHas q c) ∧
         (∀ core line, v.getLsbD (clusterOfCore core - base) ≠ s.partHas p (clusterOfCore core) →
           base ≤ clusterOfCore core → clusterOfCore core < base + 64 → line < 2 ^ 11 → tget t.mem.as (asKey core line) = none) ∧
         (∀ c line, v.getLsbD (c - base) ≠ s.partHas p c → base ≤ c → c < base + 64 → line < 2 ^ 14 → t.cmBlk c line = Block.zero))) ∧
  (∀ s : State, s.life.state.resets → ∃ t, exec .perstAssert s = .next t ∧
    ∀ p, t.readReg (.partCtl p) = 0 ∧ t.readReg (.partCl p false) = 0 ∧ t.readReg (.partCl p true) = 0)

/-- FM_FN_CFG and MMU_WIN_CFG (R271, R272, R286): a value out of rule sets CFG_REJ and changes nothing else; an accepted
quota is in force, and a window that is enabled starts without a page. -/
def Obligations.QuotasAndWindowsAreChecked : Prop :=
  (∀ (s : State) (f : Nat) (v : Word), s.serving → f < 512 →
    let n := v.toNat
    let refused := pageSlotsOf n = 0 ∨ 64 < framesOf n ∨ 32 < as16kOf n ∨ 32 < cm128kOf n ∨
      (∃ p ∈ s.fnParts f, s.partClusters p ≠ [] ∧ (64 < s.quotaSum p f n framesOf ∨ 32 < s.quotaSum p f n as16kOf ∨
        32 < s.quotaSum p f n cm128kOf)) ∨
      (∃ x ∈ s.fm.frames, x.1 / 2 ^ 21 = f ∧ framesOf n < s.unbacked f x.2.core)
    (refused → ∃ t, exec (.fmFnCfgWrite f v) s = .next t ∧ SameOff [.reg] s t ∧ (∀ g, t.fmCfg g = s.fmCfg g) ∧
      bitOf (t.mmuCfg f) 31) ∧
    (¬ refused → ∃ t, exec (.fmFnCfgWrite f v) s = .next t ∧ framesOf (t.fmCfg f) = framesOf n ∧
      as16kOf (t.fmCfg f) = as16kOf n ∧ cm128kOf (t.fmCfg f) = cm128kOf n ∧ pageSlotsOf (t.fmCfg f) = pageSlotsOf n ∧
      (∀ g, g ≠ f → t.fmCfg g = s.fmCfg g))) ∧
  (∀ (s : State) (f w : Nat) (v : Dword), s.serving → f < 512 → w < 16 →
    (winRefused s f w (winMask v.toNat) →
      ∃ t, exec (.mmuWinCfgWrite f w .whole v) s = .next t ∧ SameOff [.reg] s t ∧ (∀ g x, t.winCfg g x = s.winCfg g x) ∧
        bitOf (t.mmuCfg f) 31) ∧
    (winEn (winMask v.toNat) → winEn (s.winCfg f w) = false → winRefused s f w (winMask v.toNat) = false →
      ∃ t, exec (.mmuWinCfgWrite f w .whole v) s = .next t ∧ SameOff [.reg, .mem] s t ∧ t.winCfg f w = winMask v.toNat ∧
        (∀ dva, winBase2M (t.winCfg f w) ≤ dva / 2 ^ 21 →
          dva / 2 ^ 21 < winBase2M (t.winCfg f w) + winSize2M (t.winCfg f w) → t.walk f w dva = .bad)))

/-- The CLR_STATS rows: a 1 clears every field of the statistics register of that instance (in MNT_DIE_STAT, RECALS and
REPAIRS), a 0 leaves it; no other instance changes (R74, R145, R183, R285, R420). -/
def Obligations.StatisticsAreCleared : Prop :=
  (∀ (s : State) (c : Nat) (v : Word), s.serving → c < 2048 →
    (∃ t, exec (.csqCountClrStats c v) s = .next t ∧ SameOff [.reg] s t ∧ t.readReg (.countCfg c) = (v &&& 0x0FFFFF00).toNat ∧
      t.readReg (.countStat c) = (if v.getLsbD 0 then 0 else s.readReg (.countStat c)) ∧
      (∀ d, d ≠ c → t.readReg (.countStat d) = s.readReg (.countStat d) ∧ t.readReg (.countCfg d) = s.readReg (.countCfg d))) ∧
    (∃ t, exec (.seConvClrStats c v) s = .next t ∧ SameOff [.reg] s t ∧
      t.readReg (.convStat c) = (if v.getLsbD 0 then 0 else s.readReg (.convStat c)) ∧
      (∀ d, d ≠ c → t.readReg (.convStat d) = s.readReg (.convStat d))) ∧
    (∃ t, exec (.seCompClrStats c v) s = .next t ∧ SameOff [.reg] s t ∧
      t.readReg (.compStat c) = (if v.getLsbD 0 then 0 else s.readReg (.compStat c)) ∧
      (∀ d, d ≠ c → t.readReg (.compStat d) = s.readReg (.compStat d)))) ∧
  (∀ (s : State) (f : Nat) (v : Word), s.serving → f < 512 → 1 ≤ bitsOf v.toNat 13 8 → bitsOf v.toNat 13 8 ≤ 32 →
    ∃ t, exec (.mmuFnClrStats f v) s = .next t ∧ SameOff [.reg] s t ∧
      t.readReg (.mmuFnStat f) = (if v.getLsbD 1 then 0 else s.readReg (.mmuFnStat f)) ∧
      bitsOf (t.mmuCfg f) 13 8 = bitsOf v.toNat 13 8 ∧ bitOf (t.mmuCfg f) 0 = v.getLsbD 0 ∧
      (∀ g, g ≠ f → t.readReg (.mmuFnStat g) = s.readReg (.mmuFnStat g) ∧ t.mmuCfg g = s.mmuCfg g)) ∧
  (∀ (s : State) (d : Nat) (v : Word), s.serving → d < 4 →
    ∃ t, exec (.mntDieClrStats d v) s = .next t ∧ SameOff [.reg, .mnt] s t ∧
      (∀ i, (tgetD t.reg.mntDieStat d 0).getLsbD i =
        ((tgetD s.reg.mntDieStat d 0).getLsbD i && (!v.getLsbD 0 || decide (32 ≤ i)))) ∧
      (∀ x, x ≠ d → t.readReg (.mntStat x) = s.readReg (.mntStat x)))

/-- A host write of BAR0 (R16, R484, R485): outside the map, misaligned, across a register or through a read-only view it
changes nothing; within a 32-bit register it has the register's effect; a low half is held, and a high half applies it. -/
def Obligations.RegisterWritesFollowTheMap : Prop :=
  ∀ (s : State) (fn off : Nat) (v : Dword), s.serving → s.fnExists fn →
    (regAt fn off = none ∨ off % 4 ≠ 0 → exec (.regWrite fn 0 off v 32) s = .next s) ∧
    (∀ r rw base, regAt fn off = some (r, rw, base, true) → exec (.regWrite fn 0 off v 32) s = .next s) ∧
    (∀ r, regAt fn off = some (r, 4, off, false) → off % 4 = 0 →
      exec (.regWrite fn 0 off v 32) s = .next (writeReg r (v.toNat % 2 ^ 32) s)) ∧
    (∀ r, regAt fn off = some (r, 8, off, false) → off % 8 = 0 → ∀ u : Dword, regAt fn (off + 4) = some (r, 8, off, false) →
      ∃ t, exec (.regWrite fn 0 off v 32) s = .next t ∧ SameOff [.host] s t ∧
        exec (.regWrite fn 0 (off + 4) u 32) t =
          .next (writeReg r (v.toNat % 2 ^ 32 + u.toNat % 2 ^ 32 * 2 ^ 32)
            { t with host := { t.host with heldLow := tdel t.host.heldLow (heldKey fn 0 off) } })) ∧
    (∀ r, regAt fn off = some (r, 8, off, false) → off % 8 = 0 →
      exec (.regWrite fn 0 off v 64) s = .next (writeReg r v.toNat s) ∧
      ∃ t, exec (.lowHalfRead fn 0 off) s = .next t ∧ SameOff [.host] s t ∧
        (∀ t' : State, t'.host.capturedHi = t.host.capturedHi → regAt fn (off + 4) = some (r, 8, off, false) →
          t'.highHalf fn (off + 4) = s.readReg r / 2 ^ 32 % 2 ^ 32))

/-- ALLOC and FRAME_ZEROING (R288, R289): unbacked frames take the lowest free macros and wait for their zeroing, with no completion
yet; a zeroed macro holds zeros and its frame enters EMPTY. -/
def Obligations.AllocatedFramesAreZeroed : Prop :=
  (∀ (s : State) (fn q e : Nat) (k : Ticket), Front opAlloc fn q e k s →
    let c := entF e 0x08 2
    let first := entF e 0x0C 4 % 2 ^ 21
    let count := entF e 0x10 4
    entF e 0x18 8 = 0 → count ≠ 0 → first + count ≤ 2 ^ 21 → s.fnHasCore fn c →
    (∀ i < count, s.frame? fn (first + i) = none) → s.freeWaits fn first count = false →
    s.unbacked fn c + count ≤ framesOf (s.fmCfg fn) → count ≤ (s.freeMacs c).length →
    ∃ t, exec (.alloc fn q) s = .next t ∧ SameOff [.host, .fm] s t ∧ t.host = (popEntry fn q s).host ∧
      (∀ i < count, t.frame? fn (first + i) = some (Frame.new .zeroing c ((s.freeMacs c)[i]?) 0)) ∧
      (∀ g lf, (∀ i < count, fkey g lf ≠ fkey fn (first + i)) → t.frame? g lf = s.frame? g lf) ∧
      t.fm.waits = s.fm.waits ++ [.alloc k fn first count] ∧ t.fm.macs = s.fm.macs) ∧
  (∀ (s : State) (core mac fn lf : Nat) (f : Frame), lf < 2 ^ 21 →
    s.fm.frames.find? (fun x => x.2.core = core ∧ x.2.mac = some mac ∧ x.2.state = .zeroing) = some (fkey fn lf, f) →
    s.fenced (s.physMac core mac) = false → (∀ w ∈ s.fm.waits, ∃ k g a n, w = .alloc k g a n) →
    ∃ t, exec (.frameZeroing core mac) s = .next t ∧ SameOff [.host, .fm, .mnt] s t ∧
      t.frame? fn lf = some { f with state := .empty } ∧
      (∀ k, k ≠ fkey fn lf → tget t.fm.frames k = tget s.fm.frames k) ∧
      (∀ r, rowOf (t.macAt (s.physMac core mac)) r = rowWithRefs r 0) ∧
      (∀ pm, pm ≠ s.physMac core mac → t.macAt pm = s.macAt pm))

/-- FREE (R289): frames that no execution in progress names, and that no ALLOC before it still zeroes, are gone and the command
completes; else it waits. -/
def Obligations.FreeReleasesFrames : Prop :=
  ∀ (s : State) (fn q e : Nat) (k : Ticket), Front opFree fn q e k s → s.fm.waits = [] →
    let first := entF e 0x0C 4 % 2 ^ 21
    let count := entF e 0x10 4
    let mine := fun (x : Nat) => x / 2 ^ 21 = fn ∧ first ≤ x % 2 ^ 21 ∧ x % 2 ^ 21 < first + count
    let busy := ∃ x ∈ s.fm.frames, mine x.1 ∧ (s.namedRunning fn (x.1 % 2 ^ 21) ∨ x.2.state = .zeroing)
    ∃ t, exec (.free fn q) s = .next t ∧ SameOff [.host, .fm] s t ∧ t.fm.macs = s.fm.macs ∧
      (busy → t.fm.frames = s.fm.frames ∧ t.fm.waits = [.free k fn first count] ∧ t.host = (popEntry fn q s).host) ∧
      (¬ busy → (∀ x, mine x → tget t.fm.frames x = none) ∧ (∀ x, ¬ mine x → tget t.fm.frames x = tget s.fm.frames x) ∧
        t.fm.waits = [] ∧ t.host = (completeSt k stOk (popEntry fn q s)).host)

/-- LOAD (R292): an unaligned image address or an unknown frame is INVALID, an image outside the windows is refused with 0x0301;
the page of an accepted image goes to the image area of an evicted frame, or into the macro of one that no execution names, in the
layout of the frame (of an EMPTY frame: log entry 97), and the command completes OK. -/
def Obligations.LoadReplacesAPage : Prop :=
  ∀ (s : State) (fn q e : Nat) (k : Ticket) (flips : List CellFlip), Front opLoad fn q e k s →
    let lf := entF e 0x0C 4 % 2 ^ 21
    let va := entF e 0x18 8
    let u := popEntry fn q s
    (va % 256 ≠ 0 ∨ s.frame? fn lf = none → exec (.load fn q flips) s = .next (completeSt k stInvalid u)) ∧
    (∀ f, va % 256 = 0 → s.frame? fn lf = some f → u.loadInWindow fn va = false →
      exec (.load fn q flips) s = .next (refuseCmd k 0x0301 (some f.core) (s.winOf fn va) va u)) ∧
    (∀ f v, va % 256 = 0 → s.frame? fn lf = some f → u.loadInWindow fn va → readPage fn 0 va u = (none, v) →
      exec (.load fn q flips) s = .next (refuseCmd k 0x0305 (some f.core) (some lf) va v)) ∧
    (∀ f pg v, va % 256 = 0 → s.frame? fn lf = some f → u.loadInWindow fn va → readPage fn 0 va u = (some pg, v) →
      s.freeWaits fn lf 1 = false →
      (f.state = .evicted →
        ∃ t, exec (.load fn q flips) s = .next t ∧
          t = completeSt k stOk ((loadImageArea fn f pg v).setFrame fn lf { f.withHdr pg.hdr with dirty := false }) ∧
          t.frame? fn lf = some { f.withHdr pg.hdr with dirty := false } ∧
          (∀ g, g ≠ fkey fn lf → tget t.fm.frames g = tget s.fm.frames g) ∧ t.fm.macs = s.fm.macs) ∧
      (∀ m, f.mac = some m → isHeld f.state → s.pagingOf fn lf = false → f.shadow = none → f.companion = none →
        s.namedRunning fn lf = false → s.namedQueued fn lf = false → s.swapPending fn lf = false →
        s.evacPending f.core m = false → s.fenced (s.physMac f.core m) = false →
        let sp := s.loadSparse fn lf f pg.hdr
        ∃ t, exec (.load fn q flips) s = .next t ∧ t = completeSt k stOk (loadInPlace fn lf f pg flips v) ∧
          t.frame? fn lf = some { f.withHdr pg.hdr with state := .resident, sparse := sp, companion := none, dirty := false } ∧
          t.macAt (s.physMac f.core m) =
            poisonRows (buildFrame (s.macAt (s.physMac f.core m)) s.tick.st sp pg) (failedRows sp flips) ∧
          (∀ g, g ≠ fkey fn lf → tget t.fm.frames g = tget s.fm.frames g) ∧
          (∀ pm, pm ≠ s.physMac f.core m → t.macAt pm = s.macAt pm)))

/-- EXECUTION_PREPARE (R290, R291, R518): an execution of a stale plan goes back to its Admission Engine; one whose frames all hold a
macro of the layout its plan counts, with a shadow for each frame that a SWAP names, is prepared, and its admission counts from then
(R259). -/
def Obligations.ExecutionsArePrepared : Prop :=
  ∀ (s : State) (fn part : Nat) (e : Exec), s.nextExec fn part = some e → e.phase = .queued →
    (planStale s fn e.plan → exec (.executionPrepare fn part) s = .next (readmit e s) ∧
      (∀ p ∈ (readmit e s).adm.plans, p.key ≠ e.plan.key) ∧ (∀ x ∈ (readmit e s).adm.execs, x.id ≠ e.id)) ∧
    (planStale s fn e.plan = false →
      (∀ x ∈ e.plan.frames, ∃ f, s.frame? fn x.1 = some f ∧ isHeld f.state ∧
        (x.2.2.2 = 0 ∨ (f.macFor x.2.2.1).isSome)) →
      (∀ lf ∈ e.plan.swaps, ∃ f sh, s.frame? fn lf = some f ∧ f.shadow = some sh ∧ sh.host = false ∧
        (f.companion = none ∨ sh.compMac.isSome)) →
      ∃ t, exec (.executionPrepare fn part) s = .next t ∧ SameOff [.adm] s t ∧
        t = setExec { e with phase := .prepared, admitted := s.tick.st } s)

/-- PAGE_OUT and FRAME_READ_OUT (R190, R288, R290): the read-out writes the page's dense form to the image area, and the frame is clean; the
page-out then releases the victim's macros. -/
def Obligations.PageOutReleasesTheVictim : Prop :=
  ∀ (s : State) (core : Nat) (p : Paging) (f : Frame) (flips : List CellFlip),
    (tgetD s.fm.paging core []).find? (fun x => x.out) = some p → s.frame? p.fn p.frame = some f →
    s.frameFenced p.fn p.frame = false → s.fm.waits = [] →
    (∀ m sp, f.dirty → s.imageOk p.fn f.backVa 33024 → f.source = some (m, sp) →
      ∃ t h, exec (.frameReadOut core flips) s = .next t ∧ SameOff [.jr, .host, .reg, .mem, .fm, .cores] s t ∧
        t.frame? p.fn p.frame = some { f.withHdr h with dirty := false } ∧
        h.nnz = nnzOf f.wFmt (denseOf (sensedMac (s.macAt (s.physMac f.core m)) flips) f.wFmt sp) ∧
        (∀ g, g ≠ fkey p.fn p.frame → tget t.fm.frames g = tget s.fm.frames g) ∧ t.fm.macs = s.fm.macs) ∧
    (f.dirty = false → (∀ x ∈ s.adm.execs, x.ticket.fn = p.fn → x.phase ≠ .queued) →
      ∃ t, exec (.pageOut core flips) s = .next t ∧ SameOff [.fm] s t ∧
        t.frame? p.fn p.frame = some { f with state := .evicted, mac := none, companion := none, shadow := none, dirty := false } ∧
        (∀ g, g ≠ fkey p.fn p.frame → tget t.fm.frames g = tget s.fm.frames g) ∧
        tgetD t.fm.paging core [] = (tgetD s.fm.paging core []).filter (· != p))

/-- PAGE_IN (R288, R290, R297): the frame takes the page of its image, or is LOST where the image cannot be read or fails the checks of R161. -/
def Obligations.PageInTakesTheImage : Prop :=
  ∀ (s : State) (core m : Nat) (p : Paging) (f : Frame) (flips : List CellFlip),
    (tgetD s.fm.paging core []).find? (fun x => !x.out) = some p → s.frame? p.fn p.frame = some f → f.mac = some m →
    s.frameFenced p.fn p.frame = false → (∀ x ∈ s.adm.execs, x.ticket.fn = p.fn → x.phase ≠ .queued) → s.fm.waits = [] →
    let u := addMmuStat p.fn 15 0 1 (endPaging core p s)
    ∃ t, exec (.pageIn core flips) s = .next t ∧
      (∀ g, g ≠ fkey p.fn p.frame → tget t.fm.frames g = tget s.fm.frames g) ∧
      (u.rangeOk p.fn 0 f.backVa 33024 false = false ∨ (readPage p.fn 0 (f.backVa + 256) u).1 = none →
        t.frame? p.fn p.frame = some { f with state := .lost } ∧ t.fm.macs = s.fm.macs) ∧
      (∀ pg, u.rangeOk p.fn 0 f.backVa 33024 false → (readPage p.fn 0 (f.backVa + 256) u).1 = some pg →
        t.frame? p.fn p.frame = some { f.withHdr pg.hdr with
          state := if pg.hdr.wFmt = 0 then .empty else .resident, sparse := p.sparse && pageSparseOk pg.hdr, companion := none,
          dirty := false } ∧
        (∀ pm, pm ≠ s.physMac f.core m → t.macAt pm = s.macAt pm))

/-- MAP (R276): an accepted MAP makes each page of the range usable at once, with the frame or the host page that the image names for
it, PRESENT and DIRTY 0; a page that is valid already refuses it. -/
def Obligations.MapMakesPagesUsable : Prop :=
  ∀ (s : State) (q e : Nat) (k : Ticket), Front opMap 0 q e k s →
    let f := entFn e
    let w := entF e 0x08 1
    let psize := entF e 0x09 1
    let pages := entF e 0x18 4
    let dva := entF e 0x10 8
    let img := entF e 0x20 8
    let ba := entF e 0x28 8
    let n := if psize = 1 then 32 * pages else pages
    s.fnExists f → pages ≠ 0 → ∀ lo, s.pageIn f w dva n = some lo →
    (s.mapBusy f w lo (lo + n) psize → exec (.map 0 q) s = .next (completeSt k stInvalid (popEntry 0 q s))) ∧
    (psize ≤ 1 → pteV img → pteTbl img = false → bitsOf img 63 39 = 0 → bitsOf img 15 8 = 0 →
      (pteHost img → winHostOk (s.winCfg f w) ∧ psize = 0 ∧ ba % 65536 = 0 ∧ ba + 65536 * pages ≤ 2 ^ 64) →
      (psize = 1 → lo % 32 = 0 ∧ ptePfn img % 32 = 0) →
      (pteHost img = false ∨ pteHcache img → hpaWindowable (ptePfn img) n ∧
        ∀ r ∈ s.mappedHpa, r.1 + r.2 ≤ ptePfn img ∨ ptePfn img + n ≤ r.1) →
      s.mapBusy f w lo (lo + n) psize = false →
      ∃ t, exec (.map 0 q) s = .next t ∧ SameOff [.host, .mem] s t ∧ t.host = (completeSt k stOk (popEntry 0 q s)).host ∧
        (∀ j < n, ∀ o < 65536, ∃ r pte wr,
          t.walk f w (dva + 65536 * j + o) =
            (if pteHost img ∧ pteHcache img = false then .host (ba + 65536 * j + o) w wr
             else .hbm r pte (65536 * (ptePfn img + j) + o) w wr) ∧
          (wr → pteW img ∧ winRo (s.winCfg f w) = false) ∧
          (pteHost img = false ∨ pteHcache img → t.pte r = pte ∧ ptePresent pte = false ∧ pteDirty pte = false)))

/-- UNMAP, PROTECT, SYNC_IN and SYNC_OUT (R276, R277): with an execution of the function in progress the first three wait for a
boundary; with none, each takes effect on every page of the range at once and completes OK, and SYNC_OUT always does. -/
def Obligations.RangeCommandsTakeEffect : Prop :=
  ∀ (s : State) (q e : Nat) (k : Ticket) (lo : Nat), s.memWf →
    let f := entFn e
    let w := entF e 0x08 1
    let n := entF e 0x18 4
    let dva := entF e 0x10 8
    let u := popEntry 0 q s
    s.fnExists f → n ≠ 0 → s.pageIn f w dva n = some lo → s.partial2M f w lo (lo + n) = false →
    let waits := fun (op : MmuOp) => ({ u with mem := { s.mem with pend := s.mem.pend ++
      [{ fn := f, op := op, dva := w * 2 ^ 32 + lo, pages := n, ticket := some k }] } } : State)
    (Front opUnmap 0 q e k s →
      (s.fnRunning f → exec (.unmap 0 q) s = .next (waits .unmap)) ∧
      (s.fnRunning f = false → (∀ m ∈ s.mem.pend, m.fn ≠ f) →
        ∃ v, exec (.unmap 0 q) s = .next (completeSt k stOk v) ∧ SameOff [.jr, .host, .reg, .mem] s v ∧
          (∀ a, dva ≤ a → a < dva + 65536 * n → v.walk f w a = .bad))) ∧
    (Front opProtect 0 q e k s →
      (s.fnRunning f → exec (.protect 0 q) s = .next (waits (.protect (pteW (entF e 0x20 8))))) ∧
      (s.fnRunning f = false → (∀ m ∈ s.mem.pend, m.fn ≠ f) →
        ∃ v, exec (.protect 0 q) s = .next (completeSt k stOk v) ∧ SameOff [.host, .mem] s v ∧
          (∀ r ∈ s.pagesIn f w lo (lo + n), v.pte r.1 = setBits (s.pte r.1) 2 2 (bit01 (pteW (entF e 0x20 8)))))) ∧
    (Front opSyncIn 0 q e k s →
      (s.fnRunning f → exec (.syncIn 0 q) s = .next (waits .syncIn)) ∧
      (s.fnRunning f = false → (∀ m ∈ s.mem.pend, m.fn ≠ f) →
        ∃ v, exec (.syncIn 0 q) s = .next (completeSt k stOk v) ∧ SameOff [.jr, .host, .reg, .mem] s v ∧
          (∀ r ∈ s.pagesIn f w lo (lo + n), pteHost (s.pte r.1) →
            ptePresent (v.pte r.1) = false ∧ pteDirty (v.pte r.1) = false))) ∧
    (Front opSyncOut 0 q e k s →
      ∃ v, exec (.syncOut 0 q) s = .next (completeSt k stOk v) ∧ SameOff [.jr, .host, .reg, .mem] s v ∧
        (∀ r ∈ s.pagesIn f w lo (lo + n), pteHost (s.pte r.1) → pteDirty (v.pte r.1) = false ∧
          ptePresent (v.pte r.1) = ptePresent (s.pte r.1)) ∧ v.mem.hbm = s.mem.hbm)

/-- HOST_FILL and HOST_FILL_COMPLETE (R278): the first access to a page that is not present asks for its fill, of which the oldest
HOST_INFLIGHT of a function are in flight; the completed fill puts the host's page into the copy and sets PRESENT, and DIRTY where a
device write waited. -/
def Obligations.HostPagesAreFilled : Prop :=
  ∀ (s : State) (f dva : Nat),
    (∀ r wr, s.absentPage f dva = some r → (∀ x ∈ s.mem.fills, x.fn = f → pageOf x.dva ≠ pageOf dva) →
      exec (.hostFill f dva wr) s = .next
        { s with mem := { s.mem with fills := s.mem.fills ++ [{ fn := f, dva := dva, wrote := wr }] } }) ∧
    (∀ r x, s.absentPage f dva = some r → (s.inFlight f).find? (fun x => pageOf x.dva = pageOf dva) = some x →
      (∀ i < 256, ¬ s.host.memPoison.contains ((pteHostBa (s.pte r) + 256 * i) / 256)) →
      ∃ t, exec (.hostFillComplete f dva []) s = .next t ∧ SameOff [.reg, .mem] s t ∧
        ptePresent (t.pte r) ∧ (pteDirty (t.pte r) ↔ pteDirty (s.pte r) ∨ (x.wrote ∧ (s.locate f 0 dva).writable)) ∧
        (∀ y ∈ t.mem.fills, y ∈ s.mem.fills ∧ ¬ (y.fn = f ∧ pageOf y.dva = pageOf dva)) ∧
        (∀ i < 256, ∀ j < 256, byteOf (t.hbmBlk (ptePfn (s.pte r) * 256 + i)).data j =
            hostByte s.host.mem (pteHostBa (s.pte r) + 256 * i + j) ∧
          (t.hbmBlk (ptePfn (s.pte r) * 256 + i)).poison = false)) ∧
    ((s.inFlight f).find? (fun x => pageOf x.dva = pageOf dva) = none → exec (.hostFillComplete f dva []) s = .next s)

/-- RD, OWN and WB (R294, R295): of a line that may be cached, OWN makes the core the one holder and RD puts it among the holders
where no other core owns it; a request that needs a recall is held back and served by the WB of the M holder, which puts its data into
the CM; no other line changes. A Descriptor Cache that is full gives up a line first (log entry 91). -/
def Obligations.LinesHaveOneWriter : Prop :=
  ∀ (s : State) (core line : Nat),
    let key := lineKey (clusterOfCore core) line
    let d := s.dirLine core line
    let only := fun (t : State) => ∀ k, k ≠ key → tget t.mem.lines k = tget s.mem.lines k
    (core < 2048 → (s.lineFn line).isSome → (s.heldLines core).length < 1024 → d.waiting = [] →
      (d.owner = none ∨ d.owner = some core →
        ∃ t, exec (.own core line) s = .next t ∧ SameOff [.mem] s t ∧
          t.dirLine core line = { d with owner := some core, holders := [] } ∧ only t) ∧
      (d.owner = some core → ∃ t, exec (.rd core line) s = .next t ∧ SameOff [.mem] s t ∧ t.dirLine core line = d ∧ only t) ∧
      (d.owner = none → ∃ t, exec (.rd core line) s = .next t ∧ SameOff [.mem] s t ∧
        t.dirLine core line = { d with holders := insertSorted core d.holders } ∧ only t) ∧
      (∀ o, d.owner = some o → o ≠ core →
        (∃ t, exec (.rd core line) s = .next t ∧ SameOff [.mem] s t ∧ t.dirLine core line = { d with waiting := [(core, false)] } ∧
          only t) ∧
        (∃ t, exec (.own core line) s = .next t ∧ SameOff [.mem] s t ∧ t.dirLine core line = { d with waiting := [(core, true)] } ∧
          only t))) ∧
    (2048 ≤ core ∨ s.lineFn line = none → exec (.rd core line) s = .next s ∧ exec (.own core line) s = .next s) ∧
    (∀ data, d.owner = some core → ∃ t, exec (.wb core line data) s = .next t ∧ SameOff [.mem] s t ∧ only t ∧
      (d.waiting = [] → t.dirLine core line = { d with owner := none, data := data, dirty := true }) ∧
      (∀ c, d.waiting = [(c, true)] →
        t.dirLine core line = { d with owner := some c, holders := [], data := data, dirty := true, waiting := [] }) ∧
      (∀ c, d.waiting = [(c, false)] → t.dirLine core line =
        { d with owner := none, holders := insertSorted c d.holders, data := data, dirty := true, waiting := [] })) ∧
    (∀ data, d.owner ≠ some core → exec (.wb core line data) s = .next s)

/-- A function reset (R310), started by a Function Level Reset or by FN_RESET; HOT_RESET resets every function, and VF_ENABLE those
that stop existing (R298, R441). -/
def Obligations.FunctionResetClearsTheFunction : Prop :=
  (∀ (s : State) (f : Nat), s.fnExists f → ∃ t, exec (.functionLevelReset f) s = .next t ∧ FnCleared f s t) ∧
  (∀ (s : State) (q e : Nat) (k : Ticket), Front opFnReset 0 q e k s →
    (entFn e = 0 ∨ s.fnExists (entFn e) = false → exec (.fnReset 0 q) s = .next (completeSt k stInvalid (popEntry 0 q s))) ∧
    (entFn e ≠ 0 → s.fnExists (entFn e) → ∃ v, exec (.fnReset 0 q) s = .next (completeSt k stOk v) ∧
      FnCleared (entFn e) s v)) ∧
  (∀ s : State, ∃ t, exec .hotReset s = .next t ∧ ∀ f, s.fnExists f → ∀ w, (∀ x ∈ t.fm.frames, x.1 / 2 ^ 21 ≠ f) ∧
    (∀ p ∈ t.adm.plans, p.key.fn ≠ f) ∧ tget t.host.eqs f = none ∧ t.winCfg f w = s.winCfg f w) ∧
  (∀ (s : State) (n : Nat) (en : Bool), ∃ t, exec (.vfEnable n en) s = .next t ∧ t.host.vfEn = en ∧
    t.host.numVfs = min 511 n ∧ ∀ f < 512, s.fnExists f → t.fnExists f = false →
      (∀ x ∈ t.fm.frames, x.1 / 2 ^ 21 ≠ f) ∧ (∀ p ∈ t.adm.plans, p.key.fn ≠ f) ∧ tget t.host.eqs f = none)

/-- CORE_RESET, CLUSTER_RESET and PARTITION_RESET (R109, R281, R439-R441): the cores concerned hold no task, +0 accumulators and no valid AS
line; a cluster's CM reads zero; a partition's Tick Unit is IDLE at tick 0 and its plans are gone. -/
def Obligations.UnitResetsClearTheUnit : Prop :=
  (∀ (s : State) (q e : Nat) (k : Ticket), Front opCoreReset 0 q e k s →
    let c := entF e 0x08 2
    if 2048 ≤ c then exec (.coreReset 0 q) s = .next (completeSt k stInvalid (popEntry 0 q s))
    else ∃ v, exec (.coreReset 0 q) s = .next (completeSt k stOk v) ∧ v.core c = Core.reset ∧
      (∀ line < 2 ^ 11, tget v.mem.as (asKey c line) = none) ∧ v.readReg (.countStat c) = 0 ∧ v.readReg (.tickStat c) = 0) ∧
  (∀ (s : State) (q e : Nat) (k : Ticket), Front opClusterReset 0 q e k s →
    let cl := entF e 0x08 2
    if 128 ≤ cl then exec (.clusterReset 0 q) s = .next (completeSt k stInvalid (popEntry 0 q s))
    else ∃ v, exec (.clusterReset 0 q) s = .next (completeSt k stOk v) ∧
      (∀ c, clusterOfCore c = cl → v.core c = Core.reset ∧ ∀ line < 2 ^ 11, tget v.mem.as (asKey c line) = none) ∧
      (∀ line < 2 ^ 14, v.cmBlk cl line = Block.zero) ∧ (∀ x ∈ v.mem.lines, x.1 / 2 ^ 34 ≠ cl)) ∧
  (∀ (s : State) (q e : Nat) (k : Ticket), Front opPartitionReset 0 q e k s →
    let p := entF e 0x08 2
    if 16 ≤ p then exec (.partitionReset 0 q) s = .next (completeSt k stInvalid (popEntry 0 q s))
    else ∃ v, exec (.partitionReset 0 q) s = .next (completeSt k stOk v) ∧ (v.part p).state = .idle ∧ (v.part p).tick = 0 ∧
      (v.part p).startReq = none ∧ (∀ x ∈ v.adm.plans, x.key.part ≠ p) ∧ (∀ x ∈ v.adm.execs, x.plan.key.part ≠ p) ∧
      (∀ c ∈ s.partCores p, v.core c = Core.reset ∧ ∀ line < 2 ^ 11, tget v.mem.as (asKey c line) = none))

/-- PARTITION_PARK and PARTITION_RESUME (R207, R209, R353): the request names boundary T + 2 of the running tick, T + 3 once its words
are formed; it completes at that boundary. A park of a partition that does not run, and a resume of one that is not parked,
complete with STATE, unless the other request was made for the same boundary: then both go into the word (R210). -/
def Obligations.ParkRequestsNameABoundary : Prop :=
  (∀ (s : State) (q e : Nat) (k : Ticket), Front opPartitionPark 0 q e k s →
    let p := entF e 0x08 2
    let pt := s.part p
    let u := popEntry 0 q s
    if 16 ≤ p then exec (.partitionPark 0 q) s = .next (completeSt k stInvalid u)
    else if pt.state ≠ .running ∧ ¬(pt.state = .parked ∧ pt.resumeReq) then
      exec (.partitionPark 0 q) s = .next (completeSt k stState u)
    else exec (.partitionPark 0 q) s = .next (u.setPart p { pt with
      parkReq := true, parkTk := pt.parkTk ++ [(if pt.lead then pt.tick + 3 else pt.tick + 2, k)] })) ∧
  (∀ (s : State) (q e : Nat) (k : Ticket), Front opPartitionResume 0 q e k s →
    let p := entF e 0x08 2
    let pt := s.part p
    let u := popEntry 0 q s
    if 16 ≤ p then exec (.partitionResume 0 q) s = .next (completeSt k stInvalid u)
    else if pt.state ≠ .parked ∧ ¬(pt.state = .running ∧ pt.parkReq) then
      exec (.partitionResume 0 q) s = .next (completeSt k stState u)
    else ∃ t, exec (.partitionResume 0 q) s = .next t ∧ SameOff [.host, .tick, .pwr] s t ∧ t.host = u.host ∧
      t.part p = { pt with resumeReq := true, resumeTk := pt.resumeTk ++ [(if pt.lead then pt.tick + 3 else pt.tick + 2, k)] })

/-- LEAD_POINT (R262, R263, R351, Table 11-8): the module word names the partition, its tick, its requests and whether the last boundary advanced,
and has SLIP where a core has not retired its tasks; it joins the words received. -/
def Obligations.LeadPointFormsTheWord : Prop :=
  ∀ (s : State) (p : Nat), p < 16 → s.partTicks p → (s.part p).lead = false → s.moduleNo < 4096 →
    let pt := s.part p
    ∃ t w, exec (.leadPoint p) s = .next t ∧ t.part p = { pt with
        lead := true, ownWord := w, merged := if pt.merged = 0 then w else penMerge w pt.merged, round := 0, hasFinal := false,
        parkReq := false, resumeReq := false, nextLevel := (t.part p).nextLevel } ∧
      bitsOf w.toNat 63 60 = 1 ∧ penPid w = s.pid p % 4096 ∧ penPark w = pt.parkReq ∧ penResume w = pt.resumeReq ∧
      w.getLsbD 42 = pt.prevAdv ∧ bitsOf w.toNat 41 40 = pt.tick % 4 ∧ penTlen w ≤ 22 ∧
      (penSlip w = false → penCause w = 0 ∧ penMod w = 0 ∧ penCore w = 0) ∧
      ((∀ e ∈ s.adm.execs, e.phase = .running → e.plan.key.part = p → e.waitHeld + 1 < waitTimeout s e.ticket.fn) →
        (∃ c ∈ s.partCores p, (s.core c).idle = false) → penSlip w)

/-- WAIT_TIMEOUT (R316): an execution whose WAIT has stayed unmet for WAIT_TIMEOUT held ticks is absorbed; no other execution of the
partition is. -/
def Obligations.UnmetWaitsTimeOut : Prop :=
  ∀ (s : State) (p : Nat), s.partTicks p → (s.part p).lead = false → (s.adm.execs.map (·.id)).Nodup →
    let due := fun (e : Exec) => e.phase = .running ∧ e.plan.key.part = p ∧ (s.part p).prevAdv = false ∧
      waitTimeout s e.ticket.fn ≤ e.waitHeld + 1 ∧ ∃ c ∈ e.plan.cores, s.blockedOn c e.id
    ∃ t, exec (.waitTimeout p) s = .next t ∧
      (∀ e ∈ s.adm.execs, due e → { e with phase := .absorbed } ∈ t.adm.execs) ∧
      (∀ e ∈ s.adm.execs, ¬ due e → e ∈ t.adm.execs)

/-- PENNANT_ROUND and PENNANT_FINAL (R352, R353): round 1 sends the module's own word, rounds 2 and 3 the merge, on every usable link to a
member; the final merge is taken, and a PARK of a running partition, or a RESUME of a parked one, names boundary T + 2 where none is
named already, but not when both are set. -/
def Obligations.PennantWordsAreExchanged : Prop :=
  ∀ (s : State) (p : Nat), p < 16 → s.partTicks p → (s.part p).lead → (s.part p).hasFinal = false →
    let pt := s.part p
    let toMember := fun l => match s.peer l with
      | some (m, _) => (s.partMembers p).contains m
      | none => false
    (∀ r, s.spanning p → r = pt.round + 1 → r ≤ 3 →
      ∃ t, exec (.pennantRound p r) s = .next t ∧ SameOff [.host, .tick] s t ∧ t.part p = { pt with round := r } ∧
        t.host.out = s.host.out ++ ((s.markerLinks false).filter toMember).map (fun l => .marker l (if r = 1 then pt.ownWord else pt.merged)) ∧
        pt.leadSt + roundSt r ≤ t.tick.st) ∧
    (let w := pt.merged
     ∃ t, exec (.pennantFinal p) s = .next t ∧ SameOff [.host, .tick, .pwr] s t ∧ pt.leadSt + 14080 ≤ t.tick.st ∧
      (penPark w = false ∨ penResume w = false → t.part p = { pt with
        final := w, hasFinal := true,
        parkAt := if penPark w ∧ pt.state = .running then some (pt.parkAt.getD (pt.tick + 2)) else pt.parkAt,
        resumeAt := if penResume w ∧ pt.state = .parked then some (pt.resumeAt.getD (pt.tick + 2)) else pt.resumeAt }) ∧
      (penPark w → penResume w → (t.part p).parkAt = pt.parkAt ∧ (t.part p).resumeAt = pt.resumeAt ∧
        (t.part p).final = w ∧ (t.part p).hasFinal ∧ (t.part p).state = pt.state))

/-- TICK_BOUNDARY (R207, R261, R264, R349): the tick number advances and the next boundary lies a period of the final TLEN later; a slip makes
the boundary held, which leaves every plan tick and counts it, and an advancing one takes every execution in progress to its next
plan tick. -/
def Obligations.BoundariesAdvanceOrHold : Prop :=
  ∀ (s : State) (p : Nat), p < 16 → (s.part p).state = .running → (s.part p).lead → (s.adm.execs.map (·.id)).Nodup →
    let pt := s.part p
    let w := if pt.hasFinal then pt.final else pt.merged
    ∃ t, exec (.tickBoundary p) s = .next t ∧ (t.part p).tick = (pt.tick + 1) % 2 ^ 48 ∧
      (pt.freezeNext → (t.part p).state = .frozen ∧ ((∀ y ∈ s.reg.partPend, y.part ≠ p) → t.adm = s.adm)) ∧
      (pt.freezeNext = false →
        (t.part p).next = pt.next + periodOf (s.tickCfg p) * 2000 * (8 + min 22 (penTlen w)) ∧
        (t.part p).lead = false ∧ (t.part p).hasFinal = false ∧ (t.part p).merged = 0 ∧ (t.part p).prevAdv = !penSlip w ∧
        (∀ e ∈ s.adm.execs, e.phase = .running → e.plan.key.part = p →
          if penSlip w then ∃ e' ∈ t.adm.execs, e'.id = e.id ∧ e'.planTick = e.planTick ∧ e'.heldCnt = e.heldCnt + 1
          else ∀ e' ∈ t.adm.execs, e'.id = e.id → e'.planTick = e.planTick + 1 ∧ e.planTick + 1 < e.plan.length))

/-- WINDOW_END (R260): the window of the next function in ascending number opens, or the overflow region; the task that ran is paused and no
work is lost. -/
def Obligations.WindowsFollowInOrder : Prop :=
  ∀ (s : State) (c fn : Nat),
    ((s.core c).window ≠ some fn → exec (.windowEnd c fn) s = .next s) ∧
    ((s.core c).window = some fn → ∃ t, exec (.windowEnd c fn) s = .next t ∧ SameOff [.cores] s t ∧
      (t.core c).window = ((s.coreFns c).filter (fun f => fn < f)).head? ∧
      (∀ r, r ∈ (t.core c).run.toList ++ (t.core c).paused ↔ r ∈ (s.core c).run.toList ++ (s.core c).paused) ∧
      (∀ r f, (t.core c).window = some f → (t.core c).run = some r → s.runFn r = some f) ∧
      (∀ d, d ≠ c → t.core d = s.core d))

/-- PARTITION_START (R348): a partition whose START_ST has been written runs from tick 0, which begins at that time and lasts one period, at the
level its members share; a spanning one whose members' FEATURE reports do not agree stays IDLE. -/
def Obligations.PartitionsStartTogether : Prop :=
  ∀ (s : State) (p st : Nat), p < 16 → s.serving → (s.part p).state = .idle → (s.part p).startReq = some st →
    (s.spanning p = false →
      ∃ t, exec (.partitionStart p) s = .next t ∧ (t.part p).state = .running ∧ (t.part p).tick = 0 ∧ (t.part p).startReq = none ∧
        (t.part p).next = st + periodOf (s.tickCfg p) * 2000 * 8 ∧ st ≤ t.tick.st ∧ (t.part p).level = s.levelNow p) ∧
    (s.spanning p → s.featuresAgree p →
      ∃ t, exec (.partitionStart p) s = .next t ∧ (t.part p).state = .running ∧ (t.part p).tick = 0 ∧ (t.part p).startReq = none ∧
        (t.part p).next = st + periodOf (s.tickCfg p) * 2000 * 8 ∧ st ≤ t.tick.st ∧ (t.part p).level = s.levelNow p) ∧
    (s.spanning p → s.featuresAgree p = false → ∃ t, exec (.partitionStart p) s = .next t ∧ SameOff [.jr, .host, .tick] s t ∧
      t.part p = { s.part p with startReq := none })

/-- Requests that come by MCTP (R454-R458, R460, R468, R469): the first check of R456 that fails gives the status of the answer,
for the checks before those of a value. READ answers the part asked of the value as it is, or of the snapshot, DESCRIBE the descriptor, LIST the
indices that the transport reaches. -/
def Obligations.RequestsAreCheckedInOrder : Prop :=
  (∀ (c : Instr) (op ep : Nat) (r : OdReq) (s : State), requestCommand c = some (op, r) → r.who = .mctp ep → PtcIdle s →
    ∃ t, exec c s = .next t ∧
      if wellFormed op r = false then OdRefused op r odMalformed s t
      else if isWriteOp op ∧ s.life.writesRefused then OdRefused op r odPowerFail s t
      else if op ≠ odList ∧ s.reaches r.who r.index r.sub (isWriteOp op) = false then OdRefused op r odReach s t
      else if op ≠ odList ∧ odIndex r.index = false then OdRefused op r odNoObject s t
      else if op ≠ odList ∧ odEnt r.index r.sub = none then OdRefused op r odNoSub s t
      else ∀ e, op ≠ odList → odEnt r.index r.sub = some e →
        if isWriteOp op ∧ (e.acc = .const ∨ e.acc = .ro) then OdRefused op r odAccess s t
        else e.dieHeld → s.diesOff → ¬(isWriteOp op ∧ e.persist) → OdRefused op r odUnavailable s t) ∧
  (∀ (r : OdReq) (ep : Nat) (e : OdEnt) (s : State), r.who = .mctp ep → PtcIdle s → OdPasses odRead r e s →
    ∃ t, exec (.read r) s = .next t ∧
      (e.acc = .wo → OdDone odRead r [] s t) ∧
      (e.acc ≠ .wo → ∀ v, v = (match s.od.snaps.find? (fun x => x.who == r.who) with
          | some x => if x.key = odKey r.index r.sub ∧ r.offset ≠ 0 then x.data else (requestCounted s).odValue r.index r.sub
          | none => (requestCounted s).odValue r.index r.sub) →
        OdDone odRead r ((v.drop r.offset).take r.length) s t ∧
        t.od.snaps.find? (fun x => x.who == r.who) = some { who := r.who, key := odKey r.index r.sub, data := v })) ∧
  (∀ (r : OdReq) (ep : Nat) (e : OdEnt) (s : State), r.who = .mctp ep → PtcIdle s → OdPasses odDescribe r e s →
    ∃ t, exec (.describe r) s = .next t ∧ OdDone odDescribe r ((descriptor r.index r.sub e).take r.length) s t) ∧
  (∀ (r : OdReq) (ep : Nat) (s : State), r.who = .mctp ep → PtcIdle s → wellFormed odList r →
    ∃ t, exec (.list r) s = .next t ∧ OdDone odList r
      (((odIndices.filter (fun i => r.index ≤ i && s.reachesIndex r.who i)).take (r.length / 2)).flatMap (fun i => leB i 2)) s t) ∧
  (∀ s : State, s.life.state ≠ .off →
    (∀ eid, 8 ≤ eid → eid ≤ 254 → ControlAnswered 1 ([0x00, 0x00] ++ leB eid 1 ++ [0x00]) (.setEndpointId eid) s ∧
      ∃ t, exec (.setEndpointId eid) s = .next t ∧ t.od.eid = eid) ∧
    (∀ eid, ¬(8 ≤ eid ∧ eid ≤ 254) → ControlAnswered 1 [0x02] (.setEndpointId eid) s ∧
      ∃ t, exec (.setEndpointId eid) s = .next t ∧ t.od.eid = s.od.eid) ∧
    ControlAnswered 2 ([0x00] ++ leB s.od.eid 1 ++ [0x00, 0x00]) .getEndpointId s ∧
    (∀ m, ControlAnswered 4 (if m = 0xFF ∨ m = 0 then [0x00, 0x01, 0xF1, 0xF3, 0xF0, 0x00] else [0x80]) (.getMctpVersionSupport m) s) ∧
    ControlAnswered 5 [0x00, 0x01, 0x7E] .getMessageTypeSupport s ∧
    (∀ n, ControlAnswered 6 (if n = 0 then [0x00, 0xFF, 0x00, 0x1D, 0x7A, 0x00, 0x01] else [0x02])
      (.getVendorDefinedMessageSupport n) s) ∧
    (∀ a, ∃ t, exec (.dynamicAddressAssignment a) s = .next t ∧ SameOff [.od] s t ∧ t.od = { s.od with dynAddr := a % 128 }))

/-- WRITE, SEG_WRITE, SEG_COMMIT, SEG_ABORT and STAGING_EXPIRY (R456, R457, R459, R463), of requests that come by MCTP. -/
def Obligations.WritesAndStagingFollowTheRules : Prop :=
  (∀ (r : OdReq) (ep : Nat) (e : OdEnt) (s : State), r.who = .mctp ep → PtcIdle s → OdPasses odWrite r e s →
    r.index ≠ 0x7010 ∧ r.index ≠ 0x7011 ∨ r.sub ≠ 0x06 →
    ∃ t, exec (.write r) s = .next t ∧
      (e.acc = .rwh → s.life.state ≠ .held → OdRefused odWrite r odState s t) ∧
      (∀ v, OdAccepts r e r.data v s → OdWritten odWrite r e r.data v s t) ∧
      (e.acc = .rw → s.ownerRefuses r.index r.sub r.data = false → e.ty.lenOk r.data = false →
        OdRefused odWrite r odTypeLength s t) ∧
      (e.acc = .rw → s.ownerRefuses r.index r.sub r.data = false → e.ty.lenOk r.data → e.clamps = false → e.inRange r.data = false →
        OdRefused odWrite r odRange s t)) ∧
  (∀ (r : OdReq) (ep : Nat) (e : OdEnt) (s : State), r.who = .mctp ep → PtcIdle s → OdPasses odSegWrite r e s →
    r.index ≠ 0x7010 ∧ r.index ≠ 0x7011 ∨ r.sub ≠ 0x06 → e.acc = .rw → s.ownerRefuses r.index r.sub r.data = false →
    ∃ t, exec (.segWrite r) s = .next t ∧
      (r.offset = 0 → (∃ x ∈ s.od.staged, x.key = odKey r.index r.sub ∧ x.who ≠ r.who ∧ x.expired = false) →
        OdRefused odSegWrite r odBusy s t ∧ t.od.staged = s.od.staged) ∧
      (r.offset = 0 → (∀ x ∈ s.od.staged, x.key = odKey r.index r.sub → x.who ≠ r.who → x.expired) →
        OdDone odSegWrite r [] s t ∧ t.stagedOf r.who = some { who := r.who, key := odKey r.index r.sub, data := r.data,
                                                               last := s.now, expired := false }) ∧
      (r.offset ≠ 0 → ∀ x, s.stagedOf r.who = some x →
        if x.expired then OdRefused odSegWrite r odTimeout s t ∧ t.stagedOf r.who = none
        else if x.key ≠ odKey r.index r.sub ∨ x.data.length ≠ r.offset then
          OdRefused odSegWrite r odSegment s t ∧ t.stagedOf r.who = some x
        else x.data.length + r.data.length ≤ 65536 → OdDone odSegWrite r [] s t ∧
          t.stagedOf r.who = some { x with who := r.who, data := x.data ++ r.data, last := s.now }) ∧
      (r.offset ≠ 0 → s.stagedOf r.who = none → OdRefused odSegWrite r odSegment s t)) ∧
  (∀ (r : OdReq) (ep : Nat) (e : OdEnt) (s : State), r.who = .mctp ep → PtcIdle s → OdPasses odSegCommit r e s →
    r.index ≠ 0x7010 ∧ r.index ≠ 0x7011 ∨ r.sub ≠ 0x06 →
    ∃ t, exec (.segCommit r) s = .next t ∧
      (s.stagedOf r.who = none → OdRefused odSegCommit r odSegment s t) ∧
      (∀ x, s.stagedOf r.who = some x →
        if x.expired then OdRefused odSegCommit r odTimeout s t ∧ t.stagedOf r.who = none
        else if x.key ≠ odKey r.index r.sub ∨ x.data.length ≠ r.length then OdRefused odSegCommit r odSegment s t
        else t.stagedOf r.who = none ∧ ∀ v, OdAccepts r e x.data v s → OdWritten odSegCommit r e x.data v s t)) ∧
  (∀ (r : OdReq) (ep : Nat) (e : OdEnt) (s : State), r.who = .mctp ep → PtcIdle s → OdPasses odSegAbort r e s →
    ∃ t, exec (.segAbort r) s = .next t ∧ OdDone odSegAbort r [] s t ∧ t.stagedOf r.who = none) ∧
  (∀ (ep : Nat) (x : Staged) (s : State), s.stagedOf (.mctp ep) = some x → x.expired = false →
    ∃ t, exec (.stagingExpiry (.mctp ep)) s = .next t ∧ t.now = max s.now (x.last + 10000 * msSt) ∧
      t.stagedOf (.mctp ep) = some { x with expired := true }) ∧
  (∀ (s : State) (x : Txn) (rest : List Txn), s.life.vaux → s.od.txns = x :: rest →
    let room := (s.jBlock s.od.blockAt).length < 256
    let put (r : JRec) := s.od.blocks.set s.od.blockAt (s.jBlock s.od.blockAt ++ [r])
    (∀ a b c d todo, x.todo = .data a b c d :: todo → room →
      exec .journalDataRecord s = .next { s with od := { s.od with blocks := put (.data a b c d),
                                                                   txns := { x with todo := todo } :: rest } }) ∧
    (∀ a b c i j v op r ep cl, x.todo = [.commit a b c] → room → x.ents = [(odKey i j, v)] → x.done = .respond r op cl →
      r.who = .mctp ep → s.od.waiting = [] →
      ∃ t, exec .journalCommitRecord s = .next t ∧ t.odCur i j = v ∧ t.od.txnSeq = x.seq ∧ t.od.blocks = put (.commit a b c) ∧
        t.od.txns = { x with todo := [], committed := true } :: rest ∧
        t.host.out = s.host.out ++ [odReply op r (if cl then odClamped else odOk) []]) ∧
    (∀ a b c, x.todo = [.commit a b c] → room → x.done = .ptc → s.od.waiting = [] →
      ∃ t, exec .journalCommitRecord s = .next t ∧ t.od.vals = x.ents.foldl (fun v e => tput v e.1 e.2) s.od.vals ∧
        t.od.txnSeq = x.seq ∧ t.od.txns = { x with todo := [], committed := true } :: rest ∧ t.host.out = s.host.out) ∧
    (x.committed → x.stored = false → ∃ t, exec .objectStoreRewrite s = .next t ∧ SameOff [.od] s t ∧
      t.od.txns = { x with stored := true } :: rest ∧ t.od.vals = s.od.vals ∧
      (∀ k v, x.ents = [(k, v)] → tget t.od.store k = some { val := v, crc := crc32c v })) ∧
    (x.stored → room → exec .journalAppliedRecord s = .next { s with od := { s.od with blocks := put (.applied x.seq), txns := rest } })) ∧
  (∀ s : State, s.life.vaux → s.life.writesRefused = false →
    let j := (s.od.blockAt + 1) % 8
    s.jBlock j ≠ [] → if ∀ r ∈ s.jBlock j, s.jApplied (jSeq r) then
        exec .journalBlockErase s = .next { s with od := { s.od with blocks := s.od.blocks.set j [] } }
      else exec .journalBlockErase s = .next s) ∧
  (∀ (s : State) (e : EventRec) (w : List EventRec), s.life.vaux → s.jr.waiting = e :: w → s.jr.recs.length ≤ 8192 →
    ∃ t, exec .eventJournalCommit s = .next t ∧ SameOff [.jr] s t ∧ t.jr.waiting = w ∧ t.jr.headSeq = (s.jr.headSeq + 1) % 2 ^ 32 ∧
      t.jr.recs.getLast? = some { e with seq := (s.jr.headSeq + 1) % 2 ^ 32, full := true } ∧
      t.jr.recs.length = min 8192 (s.jr.recs.length + 1) ∧
      (s.jr.recs.length < 8192 → t.jr.recs = s.jr.recs ++ [{ e with seq := (s.jr.headSeq + 1) % 2 ^ 32, full := true }]))

/-- The rows that write one entry of access WO, or a power object, by MCTP (R355, R371, R372, R386, R421, R432, R435, R438, R443, R445-R447,
R461, R467, R476, R504): each has its effect where its owner allows it, and STATE answers it elsewhere. -/
def Obligations.ActionEntriesTakeEffect : Prop :=
  (∀ (ep : Nat) (s : State), TakesWrites s →
    let w : Requester := .mctp ep
    let ok (i sub : Nat) (d : List Byte) (t : State) : Prop := odReply odWrite (writeReq w i sub d) odOk [] ∈ t.host.out
    let no (i sub : Nat) (d : List Byte) (st : Nat) (t : State) : Prop := OdRefused odWrite (writeReq w i sub d) st s t
    (∃ t, exec (.release w [1]) s = .next t ∧
      if s.life.state ≠ .held then no 0x1200 0x05 [1] odState t
      else ok 0x1200 0x05 [1] t ∧ (match s.startCause none with
        | some (c, o) => t.life.state = .held ∧ t.life.heldCause = c ∧ t.life.heldObject = o
        | none => t.life.state = .training)) ∧
    (∃ t, exec (.moduleReset w [0xA5]) s = .next t ∧
      if s.life.state = .faulted then no 0x1200 0x07 [0xA5] odState t
      else ok 0x1200 0x07 [0xA5] t ∧ t.cores = [] ∧ t.adm = Adm.reset ∧ t.tick = Tick.reset ∧ t.fm.frames = [] ∧ t.mem = Mem.reset ∧
        (t.life.state = .aux ∨ t.life.state = .boot ∨ t.life.state = .recovery)) ∧
    (∃ t, exec (.moduleReset w [0x5A]) s = .next t ∧
      if s.life.state = .faulted then no 0x1200 0x07 [0x5A] odState t else no 0x1200 0x07 [0x5A] odRange t) ∧
    (∃ t, exec (.standby w [1]) s = .next t ∧
      if s.life.state = .ready ∨ s.life.state = .parked then ok 0x1200 0x08 [1] t ∧ t.life.state = .aux ∧ t.life.standby ∧
        t.mem.hbm = s.mem.hbm ∧ t.mem.dir = s.mem.dir ∧ t.mem.leaf = s.mem.leaf ∧ t.cores = [] ∧ t.fm.frames = [] ∧
        t.life.rails = { Rails.off with vbus := true, vhbm := true }
      else no 0x1200 0x08 [1] odState t) ∧
    (∃ t, exec (.wake w [1]) s = .next t ∧
      if s.life.state = .aux ∧ s.life.standby then ok 0x1200 0x09 [1] t ∧
        (s.life.vin → s.life.stage ≠ 1 → t.life.state = .boot ∧ t.life.stage = 2 ∧ t.life.start = .leaveStandby)
      else no 0x1200 0x09 [1] odState t) ∧
    (∃ t, exec (.factoryDefaults w [0x5A]) s = .next t ∧
      if s.life.state ≠ .held then no 0x1100 0x07 [0x5A] odState t
      else ∃ ents, OdQueued ents (.factory (writeReq w 0x1100 0x07 [0x5A]) odWrite) s t ∧ ∀ k v, (k, v) ∈ ents ↔
        (k, v) = (odKey 0x1103 0x09, [0]) ∨
        ∃ e old, odEnt (k / 256) (k % 256) = some e ∧ e.persist ∧ (e.acc = .rw ∨ e.acc = .rwh) ∧ k ≠ odKey 0x1200 0x0D ∧
          (k, old) ∈ s.od.vals ∧ old ≠ e.dflt ∧ v = e.dflt) ∧
    (∀ k data, k < 2 → data.length = 32 → ofLE data ≠ 0 → ∃ t, exec (.keyWrite w k data) s = .next t ∧
      OdQueued [(odKey 0x1103 (7 + k), data), (odKey 0x1103 0x09, leB (setBits (ofLE (s.odCur 0x1103 0x09)) k k 1) 1), (hiKey k, leB 0 8)]
        (.key (writeReq w 0x1103 (7 + k) data) odWrite k) s t) ∧
    (∀ k, k < 2 → ∃ t, exec (.keyRevoke w (leB k 1)) s = .next t ∧
      OdQueued [(odKey 0x1103 0x09, leB (setBits (ofLE (s.odCur 0x1103 0x09)) k k 0) 1)]
        (.revoke (writeReq w 0x1103 0x0A (leB k 1)) odWrite k) s t) ∧
    (∀ l, l < 36 → ∃ t, exec (.clearSaved w l [1]) s = .next t ∧
      if s.linkSaved l then OdQueued [(odKey (0x4040 + l) 0x0C, [0])] (.respond (writeReq w (0x4040 + l) 0x0E [1]) odWrite false) s t
      else ok (0x4040 + l) 0x0E [1] t) ∧
    (∀ v : Dword, s.diesOff = false → fleetValid v → (∀ q ∈ s.pwr.fleetLast, q < 256) → ∃ t, exec (.fleetSend w (leB v.toNat 8)) s = .next t ∧
      if s.life.state = .held then no 0x3001 0x01 (leB v.toNat 8) odState t
      else ok 0x3001 0x01 (leB v.toNat 8) t ∧ (bitsOf v.toNat 51 48 = odNat s 0x3000 0x0B 0 →
        t.pwr.fleetLast = some ((s.pwr.fleetLast.getD 0 + 1) % 256) ∧ ∃ m, t.pwr.fleetWait = s.pwr.fleetWait ++ [m] ∧
          fleetSetp m = fleetSetp v ∧ fleetRateOf m = fleetRateOf v ∧ fleetCmd m = fleetCmd v ∧ fleetEpoch m = fleetEpoch v)) ∧
    (∀ n, n < 65536 → ∃ t, exec (.pwrCapWrite w (leB n 2)) s = .next t ∧
      if 200 ≤ n ∧ n ≤ 1800 then (leB n 2 ≠ s.odCur 0x3000 0x01 →
        OdQueued [(odKey 0x3000 0x01, leB n 2)] (.respond (writeReq w 0x3000 0x01 (leB n 2)) odWrite false) s t)
      else no 0x3000 0x01 (leB n 2) odRange t) ∧
    (∀ n, n < 65536 → ∃ t, exec (.setpointChange w (leB n 2)) s = .next t ∧
      if s.diesOff then no 0x3000 0x03 (leB n 2) odUnavailable t
      else ok 0x3000 0x03 (leB n 2) t ∧ t.odCur 0x3000 0x03 = leB n 2 ∧
        (s.serving → s.rampMode ≠ 2 → leB n 2 ≠ s.odCur 0x3000 0x03 → t.pwr.setpoint = n ∧ t.pwr.traj = s.avg100us)) ∧
    (∃ t, exec (.clear w [1]) s = .next t ∧ ok 0x1201 0x06 [1] t ∧ t.jr.recs = [] ∧ t.jr.headSeq = s.jr.headSeq) ∧
    (∀ a m, s.diesOff = false → 1 ≤ a → a ≤ 3 → m < 131072 → ∃ t, exec (.request w (leB (a + 256 * m) 8)) s = .next t ∧
      ok 0x7102 0x01 (leB (a + 256 * m) 8) t ∧ ∃ r ∈ t.mnt.queue, r.mac = s.physMac (m / 64) (m % 64) ∧
        r.act = (if a = 1 then .rep else if a = 2 then .cal else .scr)) ∧
    (∀ k, k < 2 → ∃ t, exec (.activate w (leB k 1)) s = .next t ∧
      if (s.life.state = .ready ∨ s.life.state = .held) ∧ s.anyExec = false ∧ (s.slot k).state = .verified then
        OdQueued [(odKey (0x7010 + k) 0x01, leB SlotState.trial.code 1)] (.activate (writeReq w 0x7000 0x04 (leB k 1)) odWrite k) s t
      else no 0x7000 0x04 (leB k 1) odState t) ∧
    (∃ t, exec (.confirm w [1]) s = .next t ∧
      if (s.life.state = .ready ∨ s.life.state = .running) ∧ ((s.slot 0).state = .trial ∨ (s.slot 1).state = .trial) then
        OdQueued (confirmEnts s) (.confirm (writeReq w 0x7000 0x05 [1]) odWrite) s t
      else no 0x7000 0x05 [1] odState t)) ∧
  (∀ (ep k : Nat) (s : State), PtcIdle s → s.life.writesRefused = false → k < 2 → s.life.slots.length = 2 →
    let w : Requester := .mctp ep
    let ok (r : OdReq) (op : Nat) (t : State) : Prop := odReply op r odOk [] ∈ t.host.out
    (∀ off data, 1 ≤ odNat s (0x7010 + k) 0x05 0 → data.length ≤ 1024 → off < 2 ^ 32 → ∃ t, exec (.download w k off data) s = .next t ∧
      let r := { writeReq w (0x7010 + k) 0x06 data with offset := off }
      let x := s.slot k
      if s.slotBusy k then OdRefused odSegWrite r odState s t
      else if off = 0 then (data.length ≤ odNat s (0x7010 + k) 0x05 0 → ok r odSegWrite t ∧ t.slot k =
        { FwSlot.empty with state := if data.length = odNat s (0x7010 + k) 0x05 0 then .unverified else .downloading,
                            imageSize := odNat s (0x7010 + k) 0x05 0, image := data })
      else if x.state = .downloading ∧ x.image.length = off then (off + data.length ≤ x.imageSize → ok r odSegWrite t ∧ t.slot k =
        { FwSlot.empty with state := if off + data.length = x.imageSize then .unverified else .downloading,
                            imageSize := x.imageSize, image := x.image ++ data })
      else OdRefused odSegWrite r odSegment s t) ∧
    (∀ img : ImageFacts, ∃ t, exec (.verify w k [1] img) s = .next t ∧
      let r := { writeReq w (0x7010 + k) 0x07 [1] with img := img }
      if (s.slot k).state ≠ .unverified then OdRefused odWrite r odState s t
      else ok r odWrite t ∧ t.slot k = { s.slot k with
        state := if img.sigOk ∧ s.life.minSvn ≤ img.svn ∧ img.gen ≤ s.life.generation + 1 ∧ s.life.generation ≤ img.gen + 1 then .verified
                 else .invalid,
        gen := img.gen, svn := img.svn, version := img.version, digest := img.digest }) ∧
    (∃ t, exec (.erase w k [1]) s = .next t ∧
      if s.slotBusy k then OdRefused odWrite (writeReq w (0x7010 + k) 0x08 [1]) odState s t
      else ok (writeReq w (0x7010 + k) 0x08 [1]) odWrite t ∧ t.slot k = FwSlot.empty)) ∧
  (∀ (s : State) (x : Txn) (rest : List Txn) (k ep op : Nat) (r : OdReq) (a b : Nat) (c : Word), s.life.vaux → s.od.txns = x :: rest →
    x.todo = [.commit a b c] → (s.jBlock s.od.blockAt).length < 256 → x.ents = [(odKey (0x7010 + k) 0x01, leB SlotState.trial.code 1)] →
    x.done = .activate r op k → r.who = .mctp ep → s.od.waiting = [] → s.life.state.resets → k < 2 → s.life.slots.length = 2 →
    ∃ t, exec .journalCommitRecord s = .next t ∧ (t.slot k).state = .trial ∧ t.life.state = .aux ∧ t.life.stage = 1 ∧ t.life.newImage)

/-- The power and thermal rows (R75, R79, R362, R363, R366, R370-R373, R375, R377, R382, R385): the readings of a telemetry read, the retirement of
a phase, the target and the trajectory of a governor loop, the park and resume requests, the ceiling and the energy of an epoch,
the stretches and their release, the refresh interval and its status. -/
def Obligations.PowerFollowsItsRules : Prop :=
  (∀ (s : State) (rs : List (Option RailReading)), s.life.vaux → ∃ t, exec (.telemetryRead rs) s = .next t ∧ ∀ i < 13,
    (∀ v, rs[i]? = some (some v) → t.rail i = { s.rail i with mv := v.mv, amps := v.amps, tempC := v.tempC, status := v.status,
                                                              missed := 0 }) ∧
    (rs[i]? = some none → t.rail i = { s.rail i with missed := (s.rail i).missed + 1 }) ∧
    (rs[i]? = none → t.rail i = s.rail i)) ∧
  (∀ (s : State) (r : Nat), r < 4 → s.life.rails.rest → ∃ t, exec (.phaseRetire r) s = .next t ∧
    SameOff [.pwr, .jr, .host] s t ∧
    ((s.rail r).lost < 2 → t.phasesActive r = 24 ∧ t.freePhases r + 1 = s.freePhases r) ∧
    (2 ≤ (s.rail r).lost → (s.rail r).lost < 26 → t.phasesActive r + 1 = s.phasesActive r ∧
      t.rating r = 640 * (t.phasesActive r : Rat) / 24) ∧
    ∀ q, q ≠ r → t.rail q = s.rail q) ∧
  (∀ (s : State) (d : Nat) (tj : List Int), d < 4 → s.life.rails.rest → (s.validTj d tj).length < 8 →
    ∃ t, exec (.sensorInvalid d tj) s = .next t ∧ SameOff [.pwr, .jr, .host] s t ∧
      t.pdie d = { s.pdie d with sensorsOk := (s.validTj d tj).length, tjMax := maxInt (s.validTj d tj), hold800 := true,
                                        coolSince := (t.pdie d).coolSince }) ∧
  (∀ (s : State) (m : GovMeas), s.life.rails.rest → s.life.diesUp →
    ∃ t, exec (.powerGovernorLoop m) s = .next t ∧ s.pwr.loopAt < t.pwr.loopAt ∧ t.tick.st = t.pwr.loopAt * 160000 ∧
      s.tick.st ≤ t.tick.st ∧ t.pwr.inputSilent = m.inputW.isNone ∧ t.pwr.samples = (m.inputW.toList ++ s.pwr.samples).take 1000 ∧
      (∀ d < 4, ∀ v, m.coreMv[d]? = some v → (t.pdie d).mv = v) ∧
      (s.serving → ∀ x, x = min (min (s.pwrCap : Rat) s.pwr.thCeil)
          (if s.rampMode = 0 then 2200 else max (odNat s 0x3000 0x05 0 : Nat) t.pwr.traj) →
        t.pwr.target = if m.inputW = none then x * 9 / 10 else x) ∧
      (s.serving → s.rampMode = 1 → odNat s 0x3000 0x03 1800 = s.pwr.setpoint →
        let goal : Rat := min s.pwr.setpoint s.pwrCap
        let d : Rat := (odNat s 0x3000 0x04 100 : Rat) / 100
        t.pwr.traj = if s.pwr.traj < goal then min goal (s.pwr.traj + d) else max goal (s.pwr.traj - d))) ∧
  (∀ (s : State) (t0 p : Nat), s.serving → s.rampMode ≠ 0 → s.govPending = false → s.pwr.belowSince = some t0 → p < 16 →
    (∀ q < 16, s.running q → s.parkable q → s.partClusters q ≠ [] → s.parkPrio p < s.parkPrio q ∨ (s.parkPrio p = s.parkPrio q ∧ p ≤ q)) →
    s.running p → s.parkable p → s.partClusters p ≠ [] →
    ∃ t, exec .govParkRequest s = .next t ∧ t.tick.st = max s.tick.st (t0 + 1600000) ∧ t.part p = { s.part p with parkReq := true } ∧
      (t.ppart p).parkedByGov ∧ t.pwr.govReq = some p ∧ ∀ q, q ≠ p → t.part q = s.part q) ∧
  (∀ (s : State) (t0 p : Nat), s.serving → s.rampMode ≠ 0 → s.govPending = false → s.pwr.aboveSince = some t0 → p < 16 →
    (∀ q < 16, (s.part q).state = .parked → (s.ppart q).parkedByGov →
      s.parkPrio q < s.parkPrio p ∨ (s.parkPrio p = s.parkPrio q ∧ p ≤ q)) →
    (s.part p).state = .parked → (s.ppart p).parkedByGov →
    ∃ t, exec .govResumeRequest s = .next t ∧ t.tick.st = max s.tick.st (t0 + 16000000) ∧
      t.part p = { s.part p with resumeReq := true } ∧ t.pwr.govReq = some p ∧ ∀ q, q ≠ p → t.part q = s.part q) ∧
  (∀ (s : State) (m : EpochMeas), s.life.rails.rest → s.life.diesUp →
    ∃ t, exec (.epochEnd m) s = .next t ∧ s.pwr.epochAt < t.pwr.epochAt ∧ t.tick.st = t.pwr.epochAt * 16000000 ∧ s.tick.st ≤ t.tick.st ∧
      t.pwr.energyMj = (s.pwr.energyMj + m.energyMj) % 2 ^ 64 ∧ t.pwr.input = m.energyMj ∧
      (let pred : Rat := s.pwr.predSum / ((max 1 s.pwr.predN : Nat) : Rat)
       t.pwr.corr = (if s.pwr.inputSilent ∨ pred ≤ 0 then s.pwr.corr
        else s.pwr.corr * max (95 / 100) (min (105 / 100) ((m.energyMj : Rat) / pred)))) ∧
      (let fns := ((s.reg.work.map (fun (y : Nat × Nat) => y.1 % 1024) ++ s.pwr.resSlots.map (fun (y : Nat × Nat) => y.1)).filter (· < 512)).eraseDups
       let sum := (fns.map s.dFn).sum
       let q : Rat := (m.energyMj : Rat) - sum - s.glideMj
       t.reg.work = [] ∧ t.pwr.resSlots = [] ∧ ∀ f ∈ fns, tgetD t.pwr.fnEnergy f 0 = (tgetD s.pwr.fnEnergy f 0 +
         (if 0 ≤ q then s.dFn f + q * s.slotShare f
          else if sum = 0 then 0 else s.dFn f * max 0 ((m.energyMj : Rat) - s.glideMj) / sum).floor.toNat) % 2 ^ 64) ∧
      (∀ d < 4, (t.pdie d).loss = m.lossDie.getD d 0) ∧
      t.pwr.thCeil = (if s.throttleC * 16 ≤ t.hottest then 95 / 100 * min s.pwr.thCeil m.energyMj
        else if t.hottest ≤ s.throttleC * 16 - 32 then min 2200 (s.pwr.thCeil + (s.pwrCap : Rat) / 50)
        else s.pwr.thCeil)) ∧
  (∀ (s : State) (d n : Nat), d < 4 → n = 1 ∨ n = 2 → s.life.rails.rest → ∃ t, exec (.droop d n) s = .next t ∧ SameOff [.pwr] s t ∧
    (t.pdie d).droop = max (s.pdie d).droop n ∧
    ((s.pdie d).droop = 0 → (t.pdie d).events = min 0xFFFF ((s.pdie d).events + 1)) ∧
    ((s.pdie d).droop ≠ 0 → (t.pdie d).events = (s.pdie d).events)) ∧
  (∀ (s : State) (d : Nat), d < 4 → (s.pdie d).droop ≠ 0 → ∃ t, exec (.stretchRelease d) s = .next t ∧ SameOff [.pwr] s t ∧
    (t.pdie d).droop = 0 ∧ (t.pdie d).stretchAt = s.tick.st + (if (s.pdie d).droop = 1 then 400 else 1200)) ∧
  (∀ (s : State) (w : Nat), s.life.rails.rest →
    (2200 < w → ∃ t, exec (.powerStretch false w) s = .next t ∧ t.pwr.excursion ∧ t.pwr.stretchPct = 50) ∧
    (102 * s.pwrCap < 100 * w → ∃ t, exec (.powerStretch true w) s = .next t ∧ t.pwr.overrun ∧ 25 ≤ t.pwr.stretchPct)) ∧
  (∀ (s : State) (w : Nat),
    (s.pwr.excursion → if w < 2000 then ∃ t, exec (.powerStretchRelease false w) s = .next t ∧ SameOff [.pwr] s t ∧ t.pwr.excursion = false
      else exec (.powerStretchRelease false w) s = .next s) ∧
    (s.pwr.overrun → if w ≤ s.pwrCap then ∃ t, exec (.powerStretchRelease true w) s = .next t ∧ SameOff [.pwr] s t ∧ t.pwr.overrun = false
      else exec (.powerStretchRelease true w) s = .next s)) ∧
  (∀ (s : State) (d : Nat) (tj : Int), d < 4 → s.life.rails.rest →
    let since := (s.pdie d).coolSince
    let new := if 85 * 16 < tj then true else if tj ≤ 83 * 16 ∧ since.isSome then false else (s.pdie d).hot
    ∃ t, exec (.refreshIntervalChange d tj) s = .next t ∧ SameOff [.tick, .pwr, .mnt] s t ∧
      t.pdie d = { s.pdie d with hot := new, coolSince := if tj ≤ 83 * 16 then some (since.getD s.tick.st) else none } ∧
      (∀ u, since = some u → new = false → (s.pdie d).hot → u + msSt ≤ t.tick.st) ∧
      (new = (s.pdie d).hot → t.mnt = s.mnt) ∧
      (new ≠ (s.pdie d).hot → ∃ r ∈ t.mnt.queue, r.act = .thm ∧ r.die = d)) ∧
  (∀ (s : State) (d : Nat), d < 4 → s.life.rails.rest → ∃ t, exec (.refreshStatusUpdate d) s = .next t ∧ SameOff [.reg, .mnt] s t ∧
    (let w := ((tget t.reg.refreshStat d).getD 0).toNat
     bitOf w 31 = (s.pdie d).hot ∧ bitsOf w 30 24 = 0 ∧ bitsOf w 23 16 = min 255 (tgetD s.mnt.urgent d 0) ∧
     bitsOf w 15 0 = min 0xFFFF (tgetD s.mnt.maxAge d 0)) ∧
    tget t.mnt.urgent d = none ∧ tget t.mnt.maxAge d = none)

/-- Supplies and sideband pins move the module between the states of Table 14-2 and clear what Table 14-4 loses: VAUX, VIN, PERST#, the
sampled pins, PWRFAIL#, FORCE_RECOVERY, the warm hold and ALERT# (R433-R437, R500-R504). -/
def Obligations.SuppliesAndPinsMoveTheModule : Prop :=
  (∀ s : State, s.life.vaux = false → ∃ t, exec .vauxUp s = .next t ∧ SameOff [.life, .od] s t ∧ t.life.vaux ∧ t.life.stage = 1 ∧
    t.life.passed = 0 ∧ t.life.state = s.life.state ∧ t.od.store = s.od.store ∧ t.od.txns = [] ∧
    t.od.vals = s.od.store.map (fun e => (e.1, e.2.val))) ∧
  (∀ s : State, s.life.vaux → ∃ t, exec .vauxLost s = .next t ∧ t.life.state = .off ∧ t.life.vaux = false ∧ t.life.rails = Rails.off ∧
    DiesCleared t ∧ t.mem = Mem.reset ∧ t.od.store = s.od.store ∧ t.od.blocks = s.od.blocks ∧ t.jr.recs = s.jr.recs ∧
    t.life.slots = s.life.slots ∧ t.life.ptrs = s.life.ptrs ∧ t.host.mem = s.host.mem) ∧
  (∀ s : State, ∃ t, exec .vinWithinLimits s = .next t ∧ t.life.vin ∧
    (s.life.perst → t.life = { s.life with vin := true }) ∧
    (∀ p, s.ptr = some p → p.trial ≠ 0 → s.life.state = .aux → s.life.standby = false → s.life.vaux → s.life.perst = false →
      s.life.writesRefused = false → s.life.stage ≠ 1 → s.life.forcePin = false →
      t.life.state = .boot ∧ t.life.stage = 2 ∧ t.life.passed = 1 ∧ t.life.rails.die0 ∧
      t.life.start = (if s.life.rails.rest then .warm else if s.allSaved then .coldSaved else .coldFull))) ∧
  (∀ s : State, ∃ t, exec .perstAssert s = .next t ∧ t.life.perst ∧
    (s.life.state.resets → t.life.state = .aux ∧ DiesCleared t ∧ t.life.standby = false ∧
      (if s.warmHoldMs ≠ 0 ∧ s.life.rails.rest then
         t.life.rails = s.life.rails ∧ t.life.warmUntil = some (s.now + s.warmHoldMs * msSt)
       else t.life.rails = Rails.off ∧ t.life.warmUntil = none)) ∧
    (s.life.state = .faulted → if s.life.thermtrip then t = { s with life := { s.life with perst := true } }
      else t.life.state = .aux ∧ t.life.rails = Rails.off) ∧
    (s.life.state = .off ∨ s.life.state = .recovery → t = { s with life := { s.life with perst := true } })) ∧
  (∀ (s : State) (force : Bool), ∃ t, exec (.perstDeassert force) s = .next t ∧ t.life.perst = false ∧ t.life.forcePin = force ∧
    (s.life.vaux → s.life.state = .aux → s.life.stage ≠ 1 → s.life.writesRefused = false →
      (force → t.life.state = .recovery) ∧
      (∀ p, force = false → s.life.vin → s.ptr = some p → p.trial ≠ 0 → t.life.state = .boot ∧ t.life.stage = 2)) ∧
    (s.life.vaux → s.life.state = .recovery → t.life.state = .recovery ∧ (force = false → t.life.stage = 1))) ∧
  (∀ (s : State) (id : Nat), s.life.vaux → s.life.perst = false → id < 32 →
    (s.life.pinDue → exec (.pinSample id false) s = .next { s with life := { s.life with slotId := id, forcePin := false, pinDue := false } } ∧
      ∃ t, exec (.pinSample id true) s = .next t ∧ t.life.slotId = id ∧ t.life.forcePin) ∧
    (s.life.pinDue = false → ∀ f, exec (.pinSample id f) s = .next s)) ∧
  (∀ (s : State) (pin : Bool), s.life.vaux → ∃ t, exec (.pwrFail pin) s = .next t ∧ SameOff [.life, .od, .jr, .host] s t ∧
    t.life.writesRefused ∧ t.od = { s.od with staged := [] } ∧ t.life.state = s.life.state ∧
    (pin → t.life.pwrFailPin ∧ t.life.vin = s.life.vin) ∧ (pin = false → t.life.vin = false) ∧
    (pin = false → s.life.vin → Journalled 0x0704 t) ∧ (pin → s.life.pwrFailPin = false → Journalled 0x0704 t)) ∧
  (∀ s : State, if s.life.vin then ∃ t, exec .pwrFailCleared s = .next t ∧ t.life.writesRefused = false ∧ t.life.pwrFailPin = false
    else exec .pwrFailCleared s = .next s) ∧
  (∀ s : State, s.life.vaux → ∃ t, exec .forceRecoveryAssert s = .next t ∧ SameOff [.jr, .host] s t ∧ Journalled 0x0708 t) ∧
  (∀ s : State, s.life.state = .recovery → s.life.forcePin → s.life.forceRaised = false →
    ∃ t, exec .forceRecoveryHeld60s s = .next t ∧ SameOff [.now, .life, .jr, .host] s t ∧ Journalled 0x0708 t ∧
      t.life = { s.life with forceRaised := true } ∧ t.now = max s.now (s.life.forceSince + 60000 * msSt)) ∧
  (∀ (s : State) (u : Nat), s.life.warmUntil = some u → s.life.state = .aux →
    ∃ t, exec .warmHoldExpiry s = .next t ∧ SameOff [.now, .life, .net] s t ∧ t.now = max s.now u ∧
      t.life = { s.life with rails := Rails.off, warmUntil := none }) ∧
  (∀ (s : State) (u : Nat), s.jr.lastAlert = some u →
    exec .alertRelease s = .next { s with now := max s.now (u + 10 * msSt), jr := { s.jr with lastAlert := none } })

/-- Each stage of a start runs after the one before it and leads to the next, to HELD or to FAULTED (Table 14-3, R425-R430, R443-R446,
R466); a stage timeout, a thermal trip and its release, a rail fault and the loss of the tick reference end it as Table 14-2 states (R386,
R389, R437, R504). -/
def Obligations.StagesFollowInOrder : Prop :=
  (∀ (s : State) (ok0 ok1 : Bool) (p : BootPtr), s.life.vaux → s.life.stage = 1 → s.life.state = .off ∨ s.life.state = .aux →
    s.life.perst → s.life.slots.length = 2 → s.ptr = some p → p.trial ≠ 0 → (s.slot 0).state ≠ .downloading → (s.slot 1).state ≠ .downloading →
    let ok (k : Nat) : Bool := if k = 0 then ok0 else ok1
    ∃ t, exec (.s1BootVerify ok0 ok1) s = .next t ∧
      if (s.slot p.slot).state ≠ .empty ∧ ok p.slot then
        t.life.state = .aux ∧ t.life.passed = 1 ∧ t.life.bootSlot = p.slot ∧ t.life.generation = (s.slot p.slot).gen ∧
        t.od.last = [s.hiOf 0, s.hiOf 1]
      else if ok (1 - p.slot) ∧ ((s.slot (1 - p.slot)).state = .verified ∨ (s.slot (1 - p.slot)).state = .confirmed) then
        t.life.state = .aux ∧ t.life.passed = 1 ∧ t.life.bootSlot = 1 - p.slot ∧ Journalled 0x0707 t
      else t.life.state = .recovery ∧ Journalled 0x0707 t) ∧
  (∀ (s : State) (bad : Option Nat), s.life.state = .boot ∨ s.life.state = .training → s.life.passed = 1 → s.jAll = [] →
    (∃ t, exec (.s2ConfigCheck bad false) s = .next t ∧ t.life.state = .held ∧ t.life.heldCause = 0x0703) ∧
    (∃ t, exec (.s2ConfigCheck bad true) s = .next t ∧
      match ({ s with life := { s.life with calBad := bad } } : State).startCause none with
      | some (c, o) => t.life.state = .held ∧ t.life.heldCause = c ∧ t.life.heldObject = o ∧ t.life.passed = 2
      | none => t.life.state = .training ∧ t.life.passed = 2 ∧ t.life.stage = 3)) ∧
  (∀ (s : State) (n k : Nat) (v : List Byte), s.life.state = .boot ∨ s.life.state = .training → s.life.passed = 1 → s.od.txns = [] →
    s.jAll = [.data n k 0 v] → ∃ t, exec (.s2ConfigCheck none true) s = .next t ∧ t.life.state = .held ∧ t.life.heldCause = 0x0702 ∧
      t.life.heldObject = k ∧ t.od.vals = s.od.vals ∧ t.od.rollbacks = s.od.rollbacks + 1) ∧
  (∀ s : State, s.life.state = .training → s.life.passed = 2 → ∃ t, exec .s3RailsUp s = .next t ∧ SameOff [.life, .pwr] s t ∧
    t.life.rails = Rails.all ∧ t.life.passed = 3 ∧ t.life.stage = 4 ∧ (∀ d < 4, (t.pdie d).mv = vOf 800 ∧ (t.pdie d).vset = vClamp (vOf 800)) ∧
    (∀ p, s.ptr = some p → 1 ≤ p.trial → p.trial ≤ 3 → p.seq + 1 < 2 ^ 32 →
      ∃ q, t.ptr = some q ∧ q.slot = p.slot ∧ q.trial = p.trial - 1 ∧ q.seq = p.seq + 1)) ∧
  (∀ (s : State) (r f : Bool) (saved : List Byte), s.life.state = .training → s.life.passed = 3 →
    ∃ t, exec (.s4HbmTraining r f saved) s = .next t ∧
      if (s.life.start = .leaveStandby ∨ (s.hbmSavedValid ∧ s.life.start ≠ .coldFull)) ∧ r then
        t.life.state = .training ∧ 4 ≤ t.life.passed ∧ t.mem = s.mem ∧ t.od = s.od
      else if f then t.life.state = .training ∧ 4 ≤ t.life.passed ∧ t.mem = Mem.reset ∧
        ∃ x, t.od.txns = s.od.txns ++ [x] ∧ x.ents = [(odKey 0x1200 0x0C, saved), (odKey 0x1200 0x0D, [1])]
      else t.life.state = .held ∧ t.life.heldCause = 0x0703 ∧ t.mem = Mem.reset) ∧
  (∀ (s : State) (l : Nat) (res : TrainResult), s.life.state = .training → 4 ≤ s.life.passed → l < 36 → s.linkConnected l →
    (s.link l).mode = .train → s.allMapped →
    ∃ t, exec (.s5LinkTraining l res) s = .next t ∧
      (res.restoreOk = false → res.fullOk = false → res.secondOk = false → t.life.state = .held ∧ (t.link l).mode = .down) ∧
      (res.fullOk → s.peer l ≠ some (res.peerModule, res.peerLink) ∨ 75 < res.propNs →
        t.life.state = .held ∧ (t.link l).mode = .refused) ∧
      (res.fullOk → s.peer l = some (res.peerModule, res.peerLink) → res.propNs ≤ 75 →
        let c := min s.life.generation res.peerLevel
        if s.life.generation - 1 ≤ c ∧ res.peerLevelMin ≤ c then
          (t.link l).mode = (if (s.link l).lock ∧ (s.link l).historyOk then .up else .soak) ∧ (t.link l).level = c ∧ t.life.state ≠ .held
        else (t.link l).mode = .refused ∧ t.life.state = .held)) ∧
  (∀ (s : State) (a b : List Nat), s.life.state = .training → s.life.passed = 5 →
    ∃ t, exec (.s6CoreFirmware a b) s = .next t ∧ t.life.passed = 6 ∧ t.life.stage = 7 ∧ t.life.state = .training ∧
      ((∀ x ∈ b, x ∉ a) → t = { s with life := { s.life with passed := 6, stage := 7 } }) ∧
      (∀ pc, pc < 2312 → a = [pc] → b = [pc] → Journalled 0x0709 t ∧ (s.logCore pc = none → t.coreSt pc = 2))) ∧
  (∀ s : State, s.life.state = .training → s.life.passed = 6 → (∀ x ∈ s.mnt.pend, x.committed) →
    (s.allMapped → ∃ t, exec (.s7SelfTest [] []) s = .next t ∧ t.fm.frames = [] ∧ t.mem.as = [] ∧
      ((∀ l < 36, s.linkConnected l → (s.link l).mode = .up) → t.life.state = .ready ∧ t.life.passed = 8) ∧
      ((∃ l < 36, s.linkConnected l ∧ (s.link l).mode ≠ .up) → t.life.state = .training ∧ t.life.passed = 7)) ∧
    (s.mnt.exhausted ≠ [] → ∃ t, exec (.s7SelfTest [] []) s = .next t ∧ t.life.state = .held ∧ t.life.heldCause = 0x0703)) ∧
  (∀ s : State, s.life.state = .boot ∨ s.life.state = .training → ∃ t, exec .stageTimeout s = .next t ∧ t.life.state = .held ∧
    t.life.heldCause = 0x0703 ∧ Journalled 0x0703 t) ∧
  (∀ (s : State) (d : Nat) (tj : Int), s.life.state ≠ .off → s.life.thermtrip = false → ∃ t, exec (.thermalTrip d tj) s = .next t ∧
    t.life.state = .faulted ∧ t.life.thermtrip ∧ t.life.rails = Rails.off ∧
    DiesCleared t (regs := { Regs.reset with thmStatus := [(d % 4, BitVec.ofNat 32 (2 ^ 31))] }) ∧ Journalled 0x0512 t ∧
    ∃ x, t.od.txns = s.od.txns ++ [x] ∧ x.done = .ptc) ∧
  (∀ (s : State) (deg : Int), s.life.state = .faulted → s.life.thermtrip →
    if deg ≤ 70 then ∃ t, exec (.thermalTripRelease deg) s = .next t ∧ t.life.thermtrip = false ∧
      t.life.state = (if s.life.perst then .aux else .faulted)
    else exec (.thermalTripRelease deg) s = .next s) ∧
  (∀ (s : State) (r : Nat), s.life.state ≠ .off → r < 13 → ∃ t, exec (.pwrRailFault r) s = .next t ∧ t.life.state = .faulted ∧
    t.life.rails = Rails.off ∧ DiesCleared t ∧ Journalled 0x0502 t) ∧
  (∀ s : State, s.life.state ≠ .off → s.life.state ≠ .aux → ∃ t, exec .tickRefclkRemoved s = .next t ∧ SameOff [.life, .tick, .free] s t ∧
    t.life = { s.life with timingUndefined := true } ∧ ∃ v, t.tick = { s.tick with st := v })

/-- Flits and records: a flit that fails its check or its sequence asks for a replay (R325, R326); a record leaves a port when the peer has
credit for it, a CTL record in one flit of four while DATA waits, in the order of its flow (R327, R331, R333); an ARRIVE counts at its gate
or waits for the boundary (R255); a WR and an RD_REQ are answered, with status 1 where the partition is not known (R328, R330); RD_DATA
and ACK end the wait of their tag, as its timeout does, a failed write with the outputs of its step poisoned (R330, R334); a record of
another module goes on by its route (R335, R336). -/
def Obligations.RecordsAreAnswered : Prop :=
  (∀ (s : State) (l : Nat) (f : BlockData) (bad : Bool) (m : Dword), (s.link l).mode.usable ∨ (s.link l).mode = .soak →
    bitsOf m.toNat 63 60 = 0 →
    let w := fieldLE (blockBytes f) 0 4
    let k := s.link l
    let good := bad = false ∧ fieldLE (blockBytes f) 252 4 = (crc32 ((blockBytes f).take 252)).toNat
    let noted := if good then k else
      { k with fecUncorr := if bad then (k.fecUncorr + 1) % 2 ^ 64 else k.fecUncorr, errNow := true, soakBad := true }
    ∃ t, exec (.flitReceive l f ⟨bad, m⟩) s = .next t ∧
      (¬ good ∨ (bitOf w 25 = false ∧ w % 4096 ≠ k.rxSeq) →
        t.link l = (if k.nakSent then noted else { noted with nakSent := true, sinceAck := 0 }) ∧ t.mem = s.mem ∧ t.cores = s.cores ∧
        (k.nakSent = false → OutMsg.nak l ((k.rxSeq + 4095) % 4096) ∈ t.host.out)) ∧
      (good → bitOf w 25 ∨ (w % 4096 = k.rxSeq ∧ k.rxBody = [] ∧ fieldLE (blockBytes f) 4 1 % 16 = 0) →
        40 ≤ bitsOf w 31 26 → k.owed = [] → k.sinceAck + 1 < 64 →
        let taken := { k with rxSeq := if bitOf w 25 then k.rxSeq else (k.rxSeq + 1) % 4096, nakSent := false, sinceAck := k.sinceAck + 1 }
        (bitOf w 24 = false → SameOff [.net] s t ∧ t.link l = { taken with replayRow := 0 }) ∧
        (bitOf w 24 → let ack := bitsOf w 23 12
          let n := min k.kept.length ((k.txSeq + 4096 - (ack + 1)) % 4096)
          k.replaysSec + n ≤ replayThresh s → k.replayRow < 7 ∨ k.replayFrom ≠ ack →
          t.host.out = s.host.out ++ [.replay l ((ack + 1) % 4096) n] ∧ (t.link l).replays = (k.replays + n) % 2 ^ 64))) ∧
  (∀ (k : Link) (i : Nat) (r : LinkRecord), k.pick = some i → k.queue[i]? = some r →
    k.canSend r ∧ (∀ j q, j < i → k.queue[j]? = some q → sameFlow q r = false) ∧
    (∀ c d : Nat × LinkRecord, c ∈ flowHeads k.queue → k.canSend c.2 → isData (recType c.2) = false →
      d ∈ flowHeads k.queue → k.canSend d.2 → isData (recType d.2) → (isData (recType r) = false ↔ 3 ≤ k.ctlGap)) ∧
    (isData (recType r) → ∀ d ∈ flowHeads k.queue, k.canSend d.2 → isData (recType d.2) → k.turnKey r ≤ k.turnKey d.2)) ∧
  (∀ (s : State) (l : Nat) (r : LinkRecord), LinkTakes l 5 r s →
    let g := recOff r % 2 ^ 14
    let u := oweFor l r s
    match s.gatePart g with
    | none => (s.gate g).count + 1 < (s.gate g).target → (s.gate g).target < 2 ^ 32 →
        exec (.arrive l r) s = .next (u.setGate g { s.gate g with count := (s.gate g).count + 1 })
    | some p => exec (.arrive l r) s = .next { u with tick := { s.tick with arrivals := s.tick.arrivals ++
        [{ gate := g, n := 1, part := p, after := if (s.part p).lead then (s.part p).tick + 2 else (s.part p).tick + 1, ticket := none }] } }) ∧
  (∀ (s : State) (l p : Nat) (r : LinkRecord) (seg : BitVec 128 × BlockData), LinkTakes l 1 r s → s.topology = 1 →
    (s.partOfPid (recPid r) = none → PortReady l (answerTo 4 1 [] r s) s →
      ∃ t, exec (.wr l r) s = .next t ∧ SameOff [.net, .host, .reg] s t ∧ RecordSent l (answerTo 4 1 [] r s) s t) ∧
    (∀ ref pte hpa w, s.partOfPid (recPid r) = some p → recNblk r = 1 → r.blocks = [seg] → exchOk p r 1 true s →
      s.locate (recFn r) p (exchDva r 0 s) = .hbm ref pte hpa w true → pteHost pte = false → pteZero (s.pte ref) = false →
      crc32c (blockBytes (segBlock (recCw r) seg).data) = (segBlock (recCw r) seg).check → PortReady l (answerTo 4 0 [] r s) s →
      ∃ t, exec (.wr l r) s = .next t ∧ t.hbmBlk (hpa / 256) = (segBlock (recCw r) seg).inHbm ∧
        (∀ k, k ≠ hpa / 256 → t.hbmBlk k = s.hbmBlk k) ∧ RecordSent l (answerTo 4 0 [] r s) s t)) ∧
  (∀ (s : State) (l p : Nat) (r : LinkRecord), LinkTakes l 2 r s → s.topology = 1 →
    (s.partOfPid (recPid r) = none → PortReady l (answerTo 3 1 [] r s) s →
      ∃ t, exec (.rdReq l r) s = .next t ∧ SameOff [.net, .host, .reg] s t ∧ RecordSent l (answerTo 3 1 [] r s) s t) ∧
    (∀ ref pte hpa w wr, s.partOfPid (recPid r) = some p → recNblk r = 1 → exchOk p r 1 false s →
      s.locate (recFn r) p (exchDva r 0 s) = .hbm ref pte hpa w wr → pteHost pte = false → pteZero pte = false →
      let b := s.hbmBlk (hpa / 256)
      let seg := blockSeg (recCw r) b
      b.cz = false → s.mem.eccBad.contains (eccKey 0 (hpa / 256)) = false → crc32c (blockBytes b.data) = b.check →
      crc32c (blockBytes (segBlock (recCw r) seg).data) = (segBlock (recCw r) seg).check → PortReady l (answerTo 3 0 [seg] r s) s →
      ∃ t, exec (.rdReq l r) s = .next t ∧ SameOff [.net, .host, .reg] s t ∧ RecordSent l (answerTo 3 0 [seg] r s) s t)) ∧
  (∀ (s : State) (l : Nat) (r : LinkRecord) (x : Remote), LinkTakes l 3 r s →
    s.net.remote.find? (fun y => y.tag == recTag r && y.write == false) = some x →
    ∃ t, exec (.rdData l r) s = .next t ∧
      (recStatus r ≠ 0 → TagDone x (fun k => { k with buf := (x.dst / 256, Block.zeroPoison) :: k.buf }) s t) ∧
      (∀ seg rest, recStatus r = 0 → r.blocks = seg :: rest →
        crc32c (blockBytes (segBlock (recCw r) seg).data) = (segBlock (recCw r) seg).check →
        TagDone x (fun k => { k with buf := (x.dst / 256, segBlock (recCw r) seg) :: k.buf }) s t)) ∧
  (∀ (s : State) (l : Nat) (r : LinkRecord) (x : Remote), LinkTakes l 4 r s →
    s.net.remote.find? (fun y => y.tag == recTag r && y.write == true) = some x →
    ∃ t, exec (.ack l r) s = .next t ∧
      TagDone x (fun k => if recStatus r = 0 then k else ((s.core x.core).failStep x.step x.elems k).1) s t) ∧
  (∀ (s : State) (l : Nat) (r : LinkRecord), (∀ x ∈ s.net.remote, x.tag ≠ recTag r) →
    (LinkTakes l 3 r s → exec (.rdData l r) s = .next (oweFor l r s)) ∧ (LinkTakes l 4 r s → exec (.ack l r) s = .next (oweFor l r s))) ∧
  (∀ (s : State) (tag : Nat) (x : Remote), s.net.remote.find? (fun y => y.tag == tag) = some x →
    (s.unsent tag → exec (.requestTimeout tag) s = .next s) ∧
    (s.unsent tag = false →
      ∃ t, exec (.requestTimeout tag) s = .next t ∧ t.tick.st = max s.tick.st (x.sentAt + 16000000) ∧ Journalled 0x040D t ∧
        TagDone x (fun k => if x.write then ((s.core x.core).failStep x.step x.elems k).1
          else { k with buf := (x.dst / 256, Block.zeroPoison) :: k.buf }) s t)) ∧
  (∀ (s : State) (l o : Nat) (r : LinkRecord), (s.link l).mode.usable → 1 ≤ recType r → recType r ≤ 5 →
    (4 ≤ (s.link l).level → recChk r) → recDst r ≠ s.moduleNo →
    let a : LinkRecord := { r with header := r.header + BitVec.ofNat 256 (2 ^ 5) }
    (recHop r < 4 → s.routeLink (recSrc r) (recDst r) (pairKey (recType r) (recPid r) (recOff r)) = some o → r.blocks = [] →
      (s.link o).queue = [] → recSrc r ≠ s.moduleNo →
      ((s.link o).canSend a → ∃ t, exec (.recordForward l r) s = .next t ∧ SameOff [.net, .host, .reg] s t ∧ RecordSent o a s t) ∧
      ((s.link o).canSend a = false → ∃ t, exec (.recordForward l r) s = .next t ∧ SameOff [.net] s t ∧ (t.link o).queue = [a])) ∧
    (4 ≤ recHop r → recSrc r ≠ s.moduleNo →
      ∃ t, exec (.recordForward l r) s = .next t ∧ Journalled 0x040D t ∧ t.mem = s.mem ∧ t.cores = s.cores))

/-- Markers of the tick network: each type of Table 11-7 has its effect where the link takes it and its CRC is good, and the timed ones
are sent at their intervals (R335, R344, R345, R350-R356, R376). -/
def Obligations.MarkersAreTaken : Prop :=
  (∀ (s : State) (l p : Nat) (w : Dword), MarkerOn l 1 w false s → s.memberPart l (penPid w) = some p →
    let pt := s.part p
    if s.partTicks p = false then exec (.pennant l w) s = .next s
    else if w.getLsbD 42 = pt.prevAdv ∧ bitsOf w.toNat 41 40 = pt.tick % 4 then
      exec (.pennant l w) s = .next (if pt.hasFinal then s
        else s.setPart p { pt with merged := if pt.merged = 0 then w else penMerge pt.merged w })
    else ∃ t, exec (.pennant l w) s = .next t ∧ (t.part p).state = .frozen ∧ Journalled 0x0408 t ∧
      (∀ q, q ≠ p → t.part q = s.part q) ∧
      ∀ j ∈ s.markerLinks false, j ≠ l → ((s.peer j).map (fun x => (s.partMembers p).contains x.1)).getD false →
        OutMsg.marker j w ∈ t.host.out) ∧
  (∀ (s : State) (l p : Nat) (w : Dword), MarkerOn l 2 w false s → s.memberPart l (bitsOf w.toNat 59 48) = some p →
    let o := bitsOf w.toNat 47 36
    let old := (s.part p).features
    o ≠ s.moduleNo → (s.partMembers p).contains o →
    if (o, w) ∈ old then exec (.feature l w) s = .next s
    else ∃ t, exec (.feature l w) s = .next t ∧ SameOff [.tick, .host] s t ∧
      t.part p = { s.part p with features := old.filter (fun x => x.1 ≠ o) ++ [(o, w)] } ∧ (∀ q, q ≠ p → t.part q = s.part q) ∧
      t.host.out = s.host.out ++ ((s.markerLinks false).filter (fun j => j ≠ l ∧
        ((s.peer j).map (fun x => (s.partMembers p).contains x.1)).getD false)).map (fun j => OutMsg.marker j w)) ∧
  (∀ (s : State) (p : Nat), p < 16 → s.spanning p → ∃ t, exec (.featureResend p) s = .next t ∧ SameOff [.host] s t ∧
    t.host.out = s.host.out ++ ((s.markerLinks false).filter (fun j =>
      ((s.peer j).map (fun x => (s.partMembers p).contains x.1)).getD false)).map (fun j => OutMsg.marker j (s.ownFeature p))) ∧
  (∀ (s : State) (l n : Nat) (w : Dword), MarkerOn l 3 w true s → w.getLsbD 59 = false →
    exec (.syncReq l w n) s = .next { s with host := { s.host with out := s.host.out ++
      [.marker l (mkMarker 3 (2 ^ 59 + n * 32768 / 100 % 2 ^ 16 * 2 ^ 40 + s.tick.st % 2 ^ 40))] } }) ∧
  (∀ (s : State) (l t1 : Nat) (w : Dword), MarkerOn l 3 w true s → w.getLsbD 59 → s.net.parent = some l → (s.link l).syncT1 = some t1 →
    t1 < 2 ^ 40 → ∀ t4 turn t2 delay, t4 = s.tick.st % 2 ^ 40 → turn = bitsOf w.toNat 55 40 → t2 = bitsOf w.toNat 39 0 →
    delay = (((t4 : Int) - t1 - turn) % 2 ^ 40).toNat / 2 → ∀ off : Int, off = ((t2 : Int) + turn + delay - t4).bmod (2 ^ 40) →
    ∃ t, exec (.syncResp l w) s = .next t ∧ (t.link l).syncT1 = none ∧
      if 1200 < delay then (t.link l).mode = .refused ∧ Journalled 0x0406 t ∧ t.tick.st = s.tick.st
      else (t.tick.st : Int) = (s.tick.st + off) % 2 ^ 64 ∧ t.net.syncOffset = off ∧ (t.link l).propNs = delay / 16) ∧
  (∀ (s : State) (l : Nat), s.net.parent = some l → l ∉ s.markerLinks true → exec .syncInterval s = .next s) ∧
  (∀ (s : State) (l : Nat), s.net.parent = some l → l ∈ s.markerLinks true →
    ∃ t, exec .syncInterval s = .next t ∧ SameOff [.net, .host] s t ∧
    t.link l = { s.link l with syncT1 := some (s.tick.st % 2 ^ 40) } ∧
    t.host.out = s.host.out ++ [.marker l (mkMarker 3 (s.tick.st % 2 ^ 40))]) ∧
  (∀ (s : State) (l : Nat) (w : Dword), MarkerOn l 4 w false s →
    if s.fleetNew w = false then exec (.fleet l w) s = .next s
    else ∃ t, exec (.fleet l w) s = .next t ∧ t.fleetNew w = false ∧
      (fleetId w = odNat s 0x3000 0x0B 0 → (∀ q ∈ s.pwr.fleetLast, 1 ≤ (fleetSeq w + 256 - q) % 256 ∧ (fleetSeq w + 256 - q) % 256 ≤ 127) →
        if fleetValid w then t.pwr.fleetLast = some (fleetSeq w) ∧ t.pwr.fleetWait = s.pwr.fleetWait ++ [w] else t.pwr = s.pwr) ∧
      (fleetId w ≠ odNat s 0x3000 0x0B 0 → t.pwr = s.pwr ∧ ∀ j ∈ s.markerLinks false, j ≠ l → OutMsg.marker j w ∈ t.host.out)) ∧
  (∀ (s : State) (l : Nat) (w : Dword), MarkerOn l 6 w true s → l < 36 → (∀ j, j ≠ l → (s.link j).master = none) →
    let m := bitsOf w.toNat 59 48
    let prio := bitsOf w.toNat 47 40
    ∃ t, exec (.announce l w) s = .next t ∧ SameOff [.net] s t ∧ (t.link l).master = some (m, prio, bitsOf w.toNat 39 37) ∧
      (m ≠ s.moduleNo → masterPrio s < prio → t.net.master = some (m, prio) ∧ t.net.parent = some l ∧
        t.net.hops = min 7 (bitsOf w.toNat 39 37 + 1) ∧ t.net.lostSince = none) ∧
      (prio < masterPrio s → t.net.master = some (s.moduleNo, masterPrio s) ∧ t.net.parent = none ∧ t.net.lostSince = none)) ∧
  (∀ s : State, ∃ t w, exec .announceInterval s = .next t ∧ SameOff [.net, .host] s t ∧
    t.host.out = s.host.out ++ (s.markerLinks true).map (fun j => OutMsg.marker j w) ∧
    w = (match t.net.master with
      | some (m, prio) => mkMarker 6 (m * 2 ^ 48 + prio * 2 ^ 40 + t.net.hops * 2 ^ 37)
      | none => mkMarker 6 (s.moduleNo * 2 ^ 48)) ∧
    ((s.announced = [] ∧ masterPrio s ≠ 0) → t.net.master = some (s.moduleNo, masterPrio s) ∧ t.net.parent = none)) ∧
  (∀ (s : State) (l : Nat) (w : Dword), MarkerOn l 7 w false s →
    let m := bitsOf w.toNat 59 48
    let k := m * 64 + bitsOf w.toNat 47 42
    let seq := bitsOf w.toNat 38 31
    m ≠ s.moduleNo →
    match tget s.net.view k with
    | none => ∃ t, exec (.linkstate l w) s = .next t ∧ t.net = { s.net with view := tput s.net.view k (bitsOf w.toNat 41 39, seq) }
    | some (_, q) => if 1 ≤ (seq + 256 - q) % 256 ∧ (seq + 256 - q) % 256 ≤ 127 then
        ∃ t, exec (.linkstate l w) s = .next t ∧ t.net = { s.net with view := tput s.net.view k (bitsOf w.toNat 41 39, seq) }
      else exec (.linkstate l w) s = .next s)

/-- Links in service: the lane swap, the end of the soak, a window of bit error rates, lost lane lock, the retry of a link that is down,
LOWPWR and its wake, and the loss of the time parent (R337-R339, R341, R342, R344, R346). -/
def Obligations.LinkModesFollowTheLanes : Prop :=
  (∀ (s : State) (l : Nat) (w : Dword), MarkerOn l 5 w false s → exec (.laneSwap l w) s =
    .next (s.setLink l { s.link l with swapLane := some (bitsOf w.toNat 59 58), swapSlot := bitsOf w.toNat 31 0 })) ∧
  (∀ (s : State) (l n : Nat), (s.link l).swapLane = some n → n < 4 → ∃ t, exec (.laneSwapSlot l) s = .next t ∧
    (t.link l).swapLane = none ∧ bitOf (t.link l).laneMap n ∧ (∀ i, i ≠ n → bitOf (t.link l).laneMap i = bitOf (s.link l).laneMap i) ∧
    (t.link l).mode = (s.link l).mode ∧ s.tick.st ≤ t.tick.st ∧ Journalled 0x0403 t) ∧
  (∀ (s : State) (l : Nat) (ber : List Nat) (bad : Bool), l < 36 → (s.link l).mode = .soak → s.allMapped → s.linkConnected l →
    let pass := (∀ b ∈ ber, b < 1000) ∧ (s.link l).soakBad = false ∧ bad = false
    (pass → ∃ t x, exec (.soakEnd l ber bad) s = .next t ∧ (t.link l).mode = .up ∧ (t.link l).soakFails = 0 ∧
      t.od.txns = s.od.txns ++ [x] ∧ x.ents =
        [(odKey (0x4040 + l) 0x0B, leB (s.link l).peerModule 2 ++ leB (s.link l).peerLink 1 ++ (s.link l).equal), (odKey (0x4040 + l) 0x0C, [1])]) ∧
    (¬ pass → ∃ t, exec (.soakEnd l ber bad) s = .next t ∧
      if (s.link l).soakFails = 0 then (t.link l).mode = .train ∧ (t.link l).soakFails = 1
      else (t.link l).mode = .down ∧ Journalled 0x0402 t ∧ (s.life.state = .training → t.life.state = .held))) ∧
  (∀ (s : State) (l corr : Nat) (ber : List Nat), l < 36 → (s.link l).lock → ∃ t, exec (.berWindow l ber corr) s = .next t ∧
    SameOff [.net, .mnt] s t ∧ (t.link l).fecCorr = ((s.link l).fecCorr + corr) % 2 ^ 64 ∧ (t.link l).mode = (s.link l).mode ∧
    (t.link l).errNow = false ∧
    (t.link l).cleanWin = (if (∀ b ∈ ber, b < 1000) ∧ (s.link l).errNow = false then (s.link l).cleanWin + 1 else 0) ∧
    ∀ i < 4, (t.link l).overBer[i]? = some (if odNat s 0x4000 0x10 10000 < ber.getD i 0 then (s.link l).overBer.getD i 0 + 1 else 0)) ∧
  (∀ (s : State) (l n : Nat) (ok : Bool), l < 36 → n < 4 → (s.link l).mode.usable ∨ (s.link l).mode = .soak →
    bitOf (s.link l).replaced n = false → ∃ t, exec (.laneLockLost l n ok) s = .next t ∧
      if (s.link l).spareBad = false ∧ (s.link l).replaced = 0 ∧ ok then
        bitOf (t.link l).laneMap n ∧ (t.link l).mode = (s.link l).mode ∧ Journalled 0x0403 t
      else (t.link l).mode = .down ∧ (t.link l).lock = false ∧ Journalled 0x0404 t) ∧
  (∀ (s : State) (l : Nat) (ok : Bool), l < 36 → (s.link l).mode.usable ∨ (s.link l).mode = .soak →
    ∃ t, exec (.laneLockLost l 4 ok) s = .next t ∧ (t.link l).spareBad ∧
      if (s.link l).replaced % 16 = 0 then (t.link l).mode = (s.link l).mode else (t.link l).mode = .down ∧ Journalled 0x0404 t) ∧
  (∀ (s : State) (l : Nat) (res : TrainResult), l < 36 → s.serving → s.linkConnected l → (s.link l).mode = .down →
    ∃ t, exec (.linkRetry l res) s = .next t ∧ t.tick.st = max s.tick.st ((s.link l).downAt + 10000 * msSt) ∧
      (res.restoreOk = false → res.fullOk = false → res.secondOk = false → (t.link l).mode = .down ∧ Journalled 0x0401 t) ∧
      (res.fullOk → s.peer l ≠ some (res.peerModule, res.peerLink) ∨ 75 < res.propNs → (t.link l).mode = .refused ∧ Journalled 0x0406 t) ∧
      (res.fullOk → s.peer l = some (res.peerModule, res.peerLink) → res.propNs ≤ 75 →
        let c := min s.life.generation res.peerLevel
        if s.life.generation - 1 ≤ c ∧ res.peerLevelMin ≤ c then
          (t.link l).mode = (if (s.link l).lock ∧ (s.link l).historyOk then .up else .soak) ∧ (t.link l).level = c
        else (t.link l).mode = .refused ∧ Journalled 0x0405 t)) ∧
  (∀ (s : State) (l : Nat) (asks : Bool), l < 36 → (s.link l).mode = .up →
    if s.partsParked ∧ asks then ∃ t, exec (.lowpwrEntry l asks) s = .next t ∧ (t.link l).mode = .lowpwr
    else exec (.lowpwrEntry l asks) s = .next s) ∧
  (∀ (s : State) (l : Nat), (s.link l).mode = .lowpwr → ∃ t, exec (.lowpwrWake l) s = .next t ∧ (t.link l).mode = .up) ∧
  (∀ (s : State) (l : Nat), s.net.parent = some l → (s.link l).mode.usable = false → (s.link l).mode ≠ .soak →
    ∃ t, exec .parentLinkFail s = .next t ∧ SameOff [.net] s t ∧ t.link l = { s.link l with master := none, syncT1 := none } ∧
      (∀ j, j ≠ l → t.link j = s.link j) ∧ t.net.parent ≠ some l) ∧
  (∀ (s : State) (u : Nat), s.net.master = none → s.net.lostSince = some u → (∀ x ∈ s.jr.raised, x.1 ≠ 0x0409) →
    ∃ t, exec .holdoverTimeout s = .next t ∧ t.tick.st = max s.tick.st (u + 16000000000) ∧ Journalled 0x0409 t ∧ t.net = s.net)

/-- Maintenance: a window grants requests in the order of R417, none that conflicts with one granted (R416); a re-calibration is requested
by age or temperature (R398), abandoned (R401), or committed, where a section that fails keeps its codes and flags its segment (R400); a
scrub flags the segments that mismatch (R405); the two deadlines (R404, R417); an evacuation waits as a swap to a free spare of the core,
or asks for the core's substitution (R406, R407); a diagnosis frees a clean macro, retires one whose row-line section differs, remaps a
broken column (R408, R410); a journal commit lets the oldest change wait for its boundary (R414). -/
def Obligations.MaintenanceRunsAsGranted : Prop :=
  (∀ (s : State) (d p : Nat), s.mayOpen d p → ∃ t reqs, exec (.maintenanceWindowStart d p) s = .next t ∧
    t.mnt.windows = s.mnt.windows ++ [{ die := d, part := p, reqs := reqs }] ∧
    reqs.Pairwise (fun a b => a.act.rank ≤ b.act.rank ∧ mntConflict b a = false) ∧
    (∀ a ∈ reqs, ∀ g ∈ s.grants, mntConflict a g = false) ∧
    (∀ a ∈ reqs, a ∈ s.mnt.queue ∨ a.act = .rfc) ∧
    (∀ r ∈ s.mnt.queue, s.reqIn d p r → r ∈ reqs ∨ (∃ g ∈ s.grants, mntConflict r g) ∨
      ∃ g ∈ reqs, g.act.rank ≤ r.act.rank ∧ mntConflict r g)) ∧
  (∀ (s : State) (pm : Nat), s.mntUp → pm < physMacCount → s.macroSt pm ≤ 1 →
    (∃ t, exec (.recalTrigger pm .age) s = .next t ∧ SameOff [.tick, .mnt] s t ∧ Requested .cal pm t ∧
      t.tick = { s.tick with st := max s.tick.st ((s.recalRef pm).1 + s.recalPeriod) }) ∧
    (if (odNat s 0x7100 0x03 10 : Int) * 16 ≤ ((s.pdie (dieOfPhysMac pm)).tjMax - (s.recalRef pm).2).natAbs then
      ∃ t, exec (.recalTrigger pm .temperature) s = .next t ∧ SameOff [.mnt] s t ∧ Requested .cal pm t
     else exec (.recalTrigger pm .temperature) s = .next s)) ∧
  (∀ (s : State) (pm : Nat) (m : RecalMeas), s.mayRun .cal pm → (∀ x ∈ s.mnt.pend, ∀ e v i, x.change ≠ .remap pm e v i) →
    ((recalAbandons m ∨ (s.macAt pm).flagged ≠ []) → ∃ t, exec (.recalibration pm m) s = .next t ∧ SameOff [.mnt] s t ∧
      t.mnt.trims = s.mnt.trims ∧ Requested .cal pm t) ∧
    (recalAbandons m = false → (s.macAt pm).flagged = [] → ∃ t, exec (.recalibration pm m) s = .next t ∧
      ¬ Requested .cal pm t ∧
      (if (s.macPart pm).isSome then t.mnt.trims = s.mnt.trims ++ [trimOf pm m s] ∧
          (t.macAt pm).codes = (s.macAt pm).codes ∧ (t.macAt pm).stair = (s.macAt pm).stair
       else t.mnt.trims = s.mnt.trims ∧ (t.macAt pm).stair = (trimOf pm m s).stair ∧ (t.macAt pm).recalAt = s.tick.st ∧
        (∀ k, (∀ q ∈ m.points, secKey q.seg q.col = k → (fitOf pm (s.macAt pm) m q).2 = false) →
          tget (t.macAt pm).codes k = tget (s.macAt pm).codes k) ∧
        (∀ q ∈ m.points, (fitOf pm (s.macAt pm) m q).2 → (∀ q' ∈ m.points, secKey q'.seg q'.col = secKey q.seg q.col → q' = q) →
          tget (t.macAt pm).codes (secKey q.seg q.col) =
            some ((fitOf pm (s.macAt pm) m q).1.1.toNat, (fitOf pm (s.macAt pm) m q).1.2.toNat))) ∧
      (∀ q ∈ m.points, (fitOf pm (s.macAt pm) m q).2 = false → q.seg ∈ (t.macAt pm).flagged ∧ MntRaised 0x0601 (macUnit pm) t ∧
        (odNat s 0x7100 0x05 1 = 1 → Requested .rep pm t)))) ∧
  (∀ (s : State) (pm : Nat) (flips : List CellFlip) (dev : List Deviation) (rowDev : List RowDeviation),
    s.mntUp → pm < physMacCount → s.mayRun .scr pm ∨ (s.scrubDue pm ∧ s.mayScrub pm) →
    ∃ t, exec (.scrubPass pm flips dev rowDev) s = .next t ∧
      (if s.scrubSegs pm flips ++ s.sumSegs pm dev rowDev = [] then SameOff [.mnt] s t
       else Flagged pm (s.scrubSegs pm flips ++ s.sumSegs pm dev rowDev) s t) ∧
      (s.scrubSegs pm flips ≠ [] → MntRaised 0x0602 (macUnit pm) t) ∧
      (s.sumSegs pm dev rowDev ≠ [] → MntRaised 0x0609 (macUnit pm) t) ∧
      (if s.mayRun .scr pm then ¬ Requested .scr pm t
       else if pm % 66 = 65 then tget t.mnt.scrubAt (pm / 66) = some s.tick.st ∧ tget t.mnt.scrubNext (pm / 66) = none
       else tget t.mnt.scrubNext (pm / 66) = some (pm % 66 + 1))) ∧
  (∀ (s : State) (pc : Nat), s.mntUp → pc < 2312 → ∃ t, exec (.scrubDeadline pc) s = .next t ∧
    SameOff [.tick, .mnt, .host, .jr] s t ∧ MntRaised 0x060A (mntUnit (pc / 17) (pc % 17) 0x7F) t ∧
    t.tick = { s.tick with st := max s.tick.st (tgetD s.mnt.scrubAt pc s.mnt.calAt + odNat s 0x7100 0x01 100 * msSt) } ∧
    tget t.mnt.scrubAt pc = some t.tick.st) ∧
  (∀ (s : State) (pm : Nat) (q : MntReq), s.mnt.queue.find? (fun r => r.act == .cal && r.mac == pm && r.guard) = some q →
    if ∃ g ∈ s.grants, g.act = .cal ∧ g.mac = pm then exec (.calDeadline pm) s = .next s
    else ∃ t, exec (.calDeadline pm) s = .next t ∧ SameOff [.tick, .host, .jr] s t ∧ MntRaised 0x060A (macUnit pm) t ∧
      t.tick = { s.tick with st := max s.tick.st (q.at_ + 10 * msSt) }) ∧
  (∀ (s : State) (pm c m : Nat) (flips : List CellFlip), s.mayRun .rep pm → s.logMac pm = some (c, m) → s.macroSt pm = 0 →
    s.evacPending c m = false → s.holdsShadow pm = false → s.writesOn c pm = false →
    (∀ i k, s.spareMacro (pm / 66) = some i → s.imageStack pm = some k → s.mntHbmFree pm k = false →
      exec (.evacuationCopy pm flips) s = .next s) ∧
    ((∀ k, s.imageStack pm = some k → s.mntHbmFree pm k) → ∃ t, exec (.evacuationCopy pm flips) s = .next t ∧
    match s.spareMacro (pm / 66) with
    | some i =>
      { change := .evacSwap c m i, committed := false } ∈ t.mnt.pend ∧
      (∀ k, k ≠ pm / 66 * 66 + i → t.macAt k = s.macAt k) ∧ t.mnt.macroMap = s.mnt.macroMap ∧
      (∀ fn lf f, s.frameOfMac pm = some (fn, lf, f) → f.backVa = 0 ∨ f.dirty →
        t.macAt (pm / 66 * 66 + i) = moveMac (sensedMac (s.macAt pm) flips) (s.macAt (pm / 66 * 66 + i)) ∧
        tget t.mnt.copied pm = some (pm / 66 * 66 + i))
    | none =>
      (∀ k, t.macAt k = s.macAt k) ∧
      (∀ k, s.substPending c = false → s.spareCore (s.physCluster (clusterOfCore c)) = some k →
        (∀ x ∈ s.mnt.pend, isSubst x.change = false) → { change := .coreSubst (clusterOfCore c) (c % 16) k, committed := false } ∈ t.mnt.pend))) ∧
  (∀ (s : State) (pm : Nat) (ev : List SegEvidence), s.mayRun .rep pm → s.macroSt pm = 3 ∨ s.macroSt pm = 1 →
    ∃ t, exec (.diagnosis pm ev) s = .next t ∧ ¬ Requested .rep pm t ∧ (t.macAt pm).flagged = [] ∧
      ((∀ e ∈ ev, e.diffs = []) → SameOff [.fm, .mnt] s t ∧ t.mnt.transients = satAdd (2 ^ 32 - 1) s.mnt.transients 1 ∧ Requested .cal pm t ∧
        ∃ l, t.mnt.pend = l ++ [{ change := .freeMacro pm, committed := false }]) ∧
      ((∃ e ∈ ev, e.seg < 16 ∧ ∃ x ∈ e.diffs, x.1 = 3) →
        ∃ l info, t.mnt.pend = l ++ [{ change := .retireMacro pm info, committed := false }]) ∧
      (∀ g c b i, ev = [{ seg := g, diffs := ((List.range 64).filter (b ≤ ·)).map (fun r => (0, r, c)) }] → g < 16 → c < 256 →
        1 ≤ b → b < 64 → (s.macAt pm).remap.length = 16 → (∀ e ∈ (s.macAt pm).remap, e.getLsbD 15 → e.toNat % 256 ≠ c) →
        (List.range 16).find? (fun i => i / 4 == c / 64 && ((s.macAt pm).remap.getD i 0).toNat / 2 ^ 14 == 0) = some i →
        t.mnt.lastDiag = lastDiagOf pm { seg := g, cls := 2, col := c, b := b } ∧ Requested .cal pm t ∧
        { change := .remap pm i (BitVec.ofNat 16 (2 ^ 15 + c)) (mntInfo 2 c b), committed := false } ∈ t.mnt.pend)) ∧
  (∀ (s : State) (before after : List MapPend) (x : MapPend), s.mnt.pend = before ++ x :: after → (∀ y ∈ before, y.committed) →
    x.committed = false →
    (s.atOnce x.change = false → exec .spareMapCommit s =
      .next { s with mnt := { s.mnt with pend := before ++ { x with committed := true } :: after } }) ∧
    (∀ pm, x.change = .freeMacro pm → s.atOnce x.change → (∀ y ∈ before ++ after, y.change ≠ x.change) →
      exec .spareMapCommit s = .next (setMacroSt pm 1 { s with mnt := { s.mnt with pend := before ++ after } }))) ∧
  (∀ s : State, (∀ y ∈ s.mnt.pend, y.committed) → exec .spareMapCommit s = .next s)

/-- A section flips in the first bin whose threshold lies below its voltage (R513), and the count logic maps each flip bin to its level
and class by the fixed rule of Table 2-4 (R55). -/
def Obligations.FlipBinsMapToLevels : Prop :=
  binLevel none = none ∧ binLevel (some 0) = none ∧
  (∀ f, 1 ≤ f → f ≤ 27 → binLevel (some f) = some (8 - (f - 1) / 3, decide ((f - 1) % 3 ≠ 1))) ∧
  (∀ f, 28 ≤ f → f ≤ 31 → binLevel (some f) = some (0, true)) ∧ (∀ f, 32 ≤ f → binLevel (some f) = none) ∧
  (∀ (m : Mac) (seg : Nat) (uv : Int) (b : Nat), m.flipBin seg uv = some b ↔
    b < 32 ∧ 250 * m.threshold seg b < uv ∧ ∀ i < b, uv ≤ 250 * m.threshold seg i)

/-- The levels of the counts of one slice sum up, in fixed and in packed grouping alike, to the number of rows of the segment whose
activation bit and weight bit are both 1 (R64). -/
def Obligations.SliceSumsAreExact : Prop :=
  ∀ (x : TaskCtx) (r : Run) (m : Mac) (j : Job) (g c : Nat) (i : SegIn), x.t.transposed = false → j.sparse = false → r.rc = 64 →
    i.valid ≤ 64 → (g, i) ∈ j.segs →
    ((countsOf x r m j).map (fun l => ((l.filter (fun q => q.seg == g)).map (fun q => dataLevel m [] g c q.refs)).sum)).sum =
      packets m g (physCol m c) (rowsIn i (r.slice == x.t.sMax) r.slice)

/-- A count adds the levels of the segments that pass and holds back the others; its repeat adds theirs, and a segment that fails again
is flagged and poisons its partials (R57, R67-R69); transposed counts do the same by rows (R199); fillers of a task, of a steering slot
and of glide load add nothing and count in FILLER_MISMATCH (R62, R73, R172, R379); every checked count advances the guard window (R72);
no count changes a cell (R48). -/
def Obligations.CountsAddTheirLevels : Prop :=
  (∀ (m : Mac) (g : Nat) (rows : List Nat), rows.length ≤ 8 →
    (∀ k < 8, ∀ r ∈ rows, (rowOf m (64 * g + r)).getLsbD (272 + k) = refBit k r) →
    segPasses m [] g rows ∧ ∀ c, dataLevel m [] g c rows = packets m g (physCol m c) rows) ∧
  (∀ (s : State) (c mac k : Nat) (dev : List Deviation) (r : Run) (x : TaskCtx) (j : Job) (cs : List SegCount),
    CoreRuns c r x s → dueCount x r mac s = some (k, j, cs) → x.t.transposed = false →
    isFiller x (s.macAt (s.physMac c mac)) j cs = false → SliceGoesOn x r mac j (j.next + 1) s →
    let m := s.macAt (s.physMac c mac)
    let failed := (List.range 16).filter (fun g => !segPasses m dev g (refRowsOf cs g))
    ∃ t, exec (.count c mac dev) s = .next t ∧ CellsKept s t ∧ GuardCounted (s.physMac c mac) (List.range 16) s t ∧
      (t.macAt (s.physMac c mac)).ctr = addLevels x m dev (cs.filter (fun q => !failed.contains q.seg)) j ∧
      JobBecomes c k r id
        { j with next := j.next + 1, failed := failed, badLane := (j.badLane ++ rowPoison m j cs).eraseDups } t) ∧
  (∀ (s : State) (c mac k : Nat) (dev : List Deviation) (r : Run) (x : TaskCtx) (j : Job),
    CoreRuns c r x s → r.jobOf mac = some (k, j) → j.failed ≠ [] → s.fenced (s.physMac c mac) = false → x.t.isCount → r.busy →
    x.t.transposed = false → SliceGoesOn x r mac j j.next s →
    let m := s.macAt (s.physMac c mac)
    let cs := (countsOf x r m j).getD (j.next - 1) []
    let dev' := dev.filter (fun d => j.failed.contains d.seg)
    let again := j.failed.filter (fun g => !segPasses m dev' g (refRowsOf cs g))
    ∃ t, exec (.countRetry c mac dev) s = .next t ∧ CellsKept s t ∧
      (t.macAt (s.physMac c mac)).ctr = addLevels x m dev' (cs.filter (fun q => j.failed.contains q.seg)) j ∧
      JobBecomes c k r (fun r => { r with retries := tmod r.retries mac 0 (· + 1) })
        { j with failed := [], bad := (j.bad ++ again).eraseDups } t ∧
      ∀ g ∈ again, g ∈ (t.macAt (s.physMac c mac)).flagged) ∧
  (∀ (s : State) (c mac k : Nat) (dev : List Deviation) (r : Run) (x : TaskCtx) (j : Job),
    CoreRuns c r x s → r.jobOf mac = some (k, j) → j.failed ≠ [] → s.fenced (s.physMac c mac) = false → x.t.isCount → r.busy →
    x.t.transposed → SliceGoesOn x r mac j j.next s →
    let m := s.macAt (s.physMac c mac)
    let cs := (countsOf x r m j).getD (j.next - 1) []
    let dev' := (dev.map (fun d => ({ row := d.seg, sect := d.col, uv := d.uv } : RowDeviation))).filter
      (fun d => d.row < 1024 && j.failed.contains d.row)
    ∃ t, exec (.countRetry c mac dev) s = .next t ∧ CellsKept s t ∧
      (t.macAt (s.physMac c mac)).rowCtr = addRowLevels x m dev' (r.slice % x.planes) cs j.failed ∧
      JobBecomes c k r (fun r => { r with retries := tmod r.retries mac 0 (· + 1) })
        { j with failed := [], bad := (j.bad ++ rowsFailing m dev' (r.base + (j.next - 1))).eraseDups } t) ∧
  (∀ (s : State) (c mac k : Nat) (dev : List RowDeviation) (r : Run) (x : TaskCtx) (j : Job) (cs : List SegCount),
    CoreRuns c r x s → dueCount x r mac s = some (k, j, cs) → x.t.transposed →
    isFiller x (s.macAt (s.physMac c mac)) j cs = false → SliceGoesOn x r mac j (j.next + 1) s →
    let m := s.macAt (s.physMac c mac)
    let dev' := dev.filter (fun d => d.row < 1024)
    let failing := rowsFailing m dev' (r.base + j.next)
    ∃ t, exec (.transposedCount c mac dev) s = .next t ∧ CellsKept s t ∧ GuardCounted (s.physMac c mac) (List.range 16) s t ∧
      (t.macAt (s.physMac c mac)).rowCtr =
        addRowLevels x m dev' (r.slice % x.planes) cs ((List.range 1024).filter (fun row => !failing.contains row)) ∧
      JobBecomes c k r id { j with next := j.next + 1, failed := failing } t) ∧
  (∀ (s : State) (c mac k : Nat) (rows : List Nat) (dev : List Deviation) (r : Run) (x : TaskCtx) (j : Job) (cs : List SegCount),
    CoreRuns c r x s → dueCount x r mac s = some (k, j, cs) →
    isFiller x (s.macAt (s.physMac c mac)) j cs → SliceGoesOn x r mac j (j.next + 1) s →
    let m := s.macAt (s.physMac c mac)
    let raised := (rows.filter (· < 64)).take 8
    ∃ t, exec (.fillerCount c mac rows dev) s = .next t ∧ CellsKept s t ∧ GuardCounted (s.physMac c mac) (List.range 16) s t ∧
      JobBecomes c k r id { j with next := j.next + 1 } t ∧
      (t.macAt (s.physMac c mac)).flagged = m.flagged ∧
      t.mnt.fillerBad = (s.mnt.fillerBad + ((List.range 16).filter (fun g => !segPasses m dev g raised)).length) % 2 ^ 64) ∧
  (∀ (s : State) (c : Nat) (dev : List (Nat × Deviation)) (r : Run) (x : TaskCtx),
    CoreRuns c r x s → r.sparse → r.busy → x.t.isCount → (∀ j ∈ r.jobs, j.failed = []) → sliceDone x r s = false →
    r.steered < 6 * (r.base + (r.jobs.filter (fun j => j.round = r.round)).foldl (fun m j => max m j.next) 0) / 100 →
    ∃ t, exec (.steeringSlot c dev) s = .next t ∧ SameOff [.free, .fm, .mnt, .reg, .jr, .host, .cores] s t ∧
      (t.core c).run = some { r with steered := r.steered + 1 } ∧ t.free = s.free + 1 ∧
      ∀ pm, (t.macAt pm).rows = (s.macAt pm).rows ∧ (t.macAt pm).flagged = (s.macAt pm).flagged) ∧
  (∀ (s : State) (c mac slot p : Nat) (dev : List Deviation), c < 2048 → mac < 64 → glideEn s →
    s.partOfCluster (clusterOfCore c) = some p → s.partTicks p → (s.core c).run = none → (s.core c).paused = [] →
    s.fenced (s.physMac c mac) = false →
    let a := (s.core c).glideFrom.getD slot
    let n := glideDensity s p c slot a
    n ≤ glideRows s ∧
    (s.nextWork c → (s.core c).planned ≠ 0 → (s.core c).slot = [] → n = glideRows s) ∧
    ∃ t, exec (.glideFiller c mac slot dev) s = .next t ∧ SameOff [.fm, .mnt, .reg, .jr, .host, .cores] s t ∧
      t.core c = { s.core c with glideFrom := some a } ∧
      (if n = 0 then SameOff [.cores] s t
       else GuardCounted (s.physMac c mac) (List.range 16) s t ∧
        t.mnt.fillerBad = (s.mnt.fillerBad + ((List.range 16).filter (fun g =>
          !segPasses (s.macAt (s.physMac c mac)) dev g ((List.range n).map (fun i => 8 * (slot % 8) + i)))).length) % 2 ^ 64)) ∧
  (∀ (s : State) (pm g : Nat),
    (if (s.macAt pm).guardN.getD g 0 < 512 then exec (.guardWindowEnd pm g) s = .next s
     else exec (.guardWindowEnd pm g) s = .next (s.setMac pm { s.macAt pm with
       guardN := (s.macAt pm).guardN.set g 0, guardHits := (s.macAt pm).guardHits.set g 0 })) ∧
    (if (s.macAt pm).retryN.getD g 0 < 65536 then exec (.retryWindowEnd pm g) s = .next s
     else exec (.retryWindowEnd pm g) s = .next (s.setMac pm { s.macAt pm with
       retryN := (s.macAt pm).retryN.set g 0, retryHits := (s.macAt pm).retryHits.set g 0 })))

/-- A core starts the next startable task of its slot (R256, R257); a trip of a staging level asks for a remote block or moves a COPY a
step on (R223, R329); the Scale Record takes a producer's statistics (R140); a task that may retire leaves its core and counts as retired
in its execution, and one that may not stays (R261). -/
def Obligations.TasksStartAndRetire : Prop :=
  (∀ (s : State) (c : Nat) (y : Nat × Nat) (x : TaskCtx), c < 2048 → s.coreTicks c → (s.core c).run = none → s.startable c = some y →
    s.taskCtx c (Run.start y.1 y.2) = some x → x.t.isCopy ∨ ((x.t.isCount || x.t.isWrite) = false) →
    ∃ t r, exec (.taskStart c) s = .next t ∧ (t.core c).run = some r ∧ r.exec = y.1 ∧ r.task = y.2 ∧ r.busy = false ∧
      (t.core c).slot = (s.core c).slot.filter (fun z => z != y) ∧
      (x.t.fr.aHdr = 0 → r.setup → r.sa = { val := 0x3F800000, poison := false })) ∧
  (∀ (s : State) (c : Nat), s.startable c = none → exec (.taskStart c) s = .next s) ∧
  (∀ (s : State) (c n : Nat) (r : Run) (x : TaskCtx), CoreRuns c r x s → r.remote = [] → remoteNeeds x r s = [] → r.setup →
    r.busy = false → r.finished = false → x.t.isCopy → oDue x r = false → nextLive x r.step = some n →
    ∃ t r', exec (.stagingCopy c) s = .next t ∧ (t.core c).run = some r' ∧ r'.busy = false ∧
      match nextLive x (n + 1) with
      | some n' => r'.step = n' ∧ r'.finished = false
      | none => r'.finished) ∧
  (∀ (s : State) (c l m off d : Nat) (r : Run) (x : TaskCtx), CoreRuns c r x s → r.remote = [] → remoteNeeds x r s = [d] → r.setup = false →
    s.locate x.fn x.part d = .peer m off →
    let q : LinkRecord := { header := mkHeader 2 0 s.moduleNo m (s.pid x.part % 4096) x.fn 0 1 (cwOf (fmtBits x.t.fr.aFmt)) off s.net.nextTag,
                            blocks := [] }
    s.routeOf q = some l →
    let w : Remote := { tag := s.net.nextTag, core := x.core, fn := x.fn, dst := d, write := false, sentAt := s.tick.st, dest := m,
                        elems := 2048 / fmtBits x.t.fr.aFmt, step := 0, link := l }
    exec (.stagingCopy c) s = .next (setRun c { r with remote := [s.net.nextTag] }
      (sendOn l q { s with net := { s.net with remote := s.net.remote ++ [w], nextTag := (s.net.nextTag + 1) % 2 ^ 16 } }))) ∧
  (∀ (bs : List Byte) (r : Run) (x : TaskCtx), bs.length = 128 → r.badScale = false → fieldLE bs 9 1 + 1 < srPcnt x.t.fr.scaleCtl →
    srPcnt x.t.fr.scaleCtl ≤ 255 →
    fieldLE (mergeRecord x r bs) 0x0C 4 = (maxW (BitVec.ofNat 32 (fieldLE bs 0x0C 4)) r.amax).toNat ∧
    fieldLE (mergeRecord x r bs) 0x10 4 = satAdd 0xFFFFFFFF (fieldLE bs 0x10 4) r.counted ∧
    fieldLE (mergeRecord x r bs) 0x14 4 = satAdd 0xFFFFFFFF (fieldLE bs 0x14 4) r.clipped ∧
    fieldLE (mergeRecord x r bs) 0x18 4 = satAdd 0xFFFFFFFF (fieldLE bs 0x18 4) r.nonfin ∧
    fieldLE (mergeRecord x r bs) 9 1 = fieldLE bs 9 1 + 1 ∧ fieldLE (mergeRecord x r bs) 0 9 = fieldLE bs 0 9 ∧
    (mergeRecord x r bs).drop 0x1C = bs.drop 0x1C) ∧
  (∀ (s s1 : State) (c : Nat) (bs : List Byte) (bad : Bool) (r : Run) (x : TaskCtx), CoreRuns c r x s → r.finished → r.remote = [] → x.t.scaled →
    r.srecSent = false → x.t.prepass = false → readBytes x.fn x.part (some x.core) x.t.fr.srec 128 s = (bs, bad, s1) →
    exec (.scaleRecordUpdate c) s =
      .next (setRun c { r with srecSent := true } (writeBytesIn x.fn x.part (some x.core) x.t.fr.srec (mergeRecord x r bs) s1))) ∧
  (∀ (s : State) (c f : Nat) (r : Run) (x : TaskCtx) (e : Exec), CoreRuns c r x s → mayRetire x r s → x.t.hasO = false ∨ x.t.fr.oHdr = 0 ∨ r.hdrSent →
    (s.core c).window = some f → s.exec? x.id = some e →
    ∃ t e', exec (.taskRetire c) s = .next t ∧ (t.core c).run = none ∧
      (t.core c).consumed = (s.core c).consumed + usedSlots x { r with hdrSent := true } ∧ (t.core c).slot = (s.core c).slot ∧
      t.exec? x.id = some e' ∧ e'.retired = e.retired ++ [x.i] ∧ e'.phase = e.phase ∧
      e'.poisoned = e.poisoned + (if r.poisonedN = 0 then 0 else 1)) ∧
  (∀ (s : State) (c : Nat) (r : Run) (x : TaskCtx), CoreRuns c r x s → mayRetire x r s = false → exec (.taskRetire c) s = .next s)

/-- A full row write stores the row with its reference bits and resets its age (R49, R184); a masked one changes only the columns of its
mask (R184); a read-back poisons what mismatches twice and makes the frame RESIDENT and dirty (R186, R290); a refresh slot rewrites one
row of each segment and keeps its data (R76); a late row takes an urgent refresh, and a row beyond twice its interval makes the frame
LOST (R78). -/
def Obligations.RowsAreWrittenAndRefreshed : Prop :=
  (∀ (m : Mac) (now r data : Nat), (rowOf (writeRow m now r data) r) = rowWithRefs r (placeRow m data) ∧
    tget (writeRow m now r data).age r = some now ∧ r ∉ (writeRow m now r data).poisonRow ∧
    (∀ k < 8, (rowOf (writeRow m now r data) r).getLsbD (272 + k) = refBit k (r % 64)) ∧
    (∀ r', r' ≠ r → rowOf (writeRow m now r data) r' = rowOf m r')) ∧
  (∀ (s : State) (c mac k : Nat) (r : Run) (x : TaskCtx) (w : WriteRun) (q : WRow) (rest : List WRow),
    RowNext c mac k r x w q rest s → s.life.timingUndefined = false → q.full →
    ∃ t, exec (.fullRowWrite c mac) s = .next t ∧ RowWritten c (s.physMac c mac) k r w q rest
      (markPoison q.row q.poison (writeRow (s.macAt (s.physMac c mac)) s.tick.st q.row q.bits)) s t) ∧
  (∀ (s : State) (c mac k : Nat) (flips : List CellFlip) (r : Run) (x : TaskCtx) (w : WriteRun) (q : WRow) (rest : List WRow),
    RowNext c mac k r x w q rest s → s.life.timingUndefined = false → q.full = false →
    ∃ t, exec (.maskedRowWrite c mac flips) s = .next t ∧ RowWritten c (s.physMac c mac) k r w q rest
      (markPoison q.row q.poison (maskedWrite (s.macAt (s.physMac c mac)) s.tick.st flips q)) s t) ∧
  (∀ (m : Mac) (now : Nat) (q : WRow), remapped m = false → q.row < 1024 → q.mask < 2 ^ 256 → q.bits < 2 ^ 256 →
    ∀ c < 256, bitOf (dataOf (maskedWrite m now [] q) q.row) c = if bitOf q.mask c then bitOf q.bits c else bitOf (dataOf m q.row) c) ∧
  (∀ (s : State) (c mac k : Nat) (first second : List CellFlip) (r : Run) (x : TaskCtx) (w : WriteRun) (f : Frame),
    CoreRuns c r x s → r.writeOf mac = some (k, w) → w.todo = [] → w.done = false → s.fenced (s.physMac c mac) = false →
    r.busy → r.setup → r.finished = false → x.t.isCount = false → r.obuf = [] → s.frame? x.fn w.frame = some f →
    let ws := r.writes.set k { w with done := true }
    (ws.all (·.done) → nextLive x (r.step + 1) = none) →
    let pm := s.physMac c mac
    let again := poisonedBy w (mismatched (s.macAt pm) w first)
    let m := rewriteRows w again s.tick.st (s.macAt pm)
    let bad := (poisonedBy w (mismatched m w second)).filter again.contains
    ∃ t, exec (.readBack c mac first second) s = .next t ∧
      (t.core c).run = some (if ws.all (·.done) then
          { r with busy := false, badStep := false, step := r.step + 1, writes := [], inp := [],
                   buf := r.buf.filter (fun y => (setupBlocks x).any (fun d => d / 256 == y.1)), finished := true }
        else { r with writes := ws }) ∧
      (t.macAt pm).rows = m.rows ∧ (t.macAt pm).poisonRow = (poisonRows m bad).poisonRow ∧
      (again = [] → m = s.macAt pm) ∧
      (bad = [] → SameOff [.fm, .cores, .reg] s t) ∧
      (f.shadow = none → ∃ f', t.frame? x.fn w.frame = some f' ∧ f'.wFmt = x.t.fr.wFmt ∧ f'.dirty ∧ f'.mac = f.mac ∧
        f'.state = (if f.state = .empty ∨ (f.state = .lost ∧ w.page) then .resident else f.state))) ∧
  (∀ (s : State) (pm : Nat), pm < physMacCount → s.life.diesUp →
    ∃ t, exec (.refreshSlot pm []) s = .next t ∧ (t.macAt pm).refreshAt = ((s.macAt pm).refreshAt + 1) % 64 ∧
      (∀ g < 16, tget (t.macAt pm).age (64 * g + (s.macAt pm).refreshAt) = some s.tick.st) ∧
      (∀ k, k ≠ pm → t.macAt k = s.macAt k) ∧
      (∀ row, dataOf (t.macAt pm) row = dataOf (s.macAt pm) row)) ∧
  (∀ (s : State) (pm row a fn lf c lm : Nat) (f : Frame), tget (s.macAt pm).age row = some a → s.frameOfMac pm = some (fn, lf, f) →
    s.logMac pm = some (c, lm) →
    ∃ t, exec (.urgentRefresh pm row []) s = .next t ∧
      t.tick = { s.tick with st := max s.tick.st (a + s.refreshInterval (dieOfPhysMac pm)) } ∧
      tgetD t.mnt.urgent (dieOfPhysMac pm) 0 = satAdd 255 (tgetD s.mnt.urgent (dieOfPhysMac pm) 0) 1 ∧
      tget (t.macAt pm).age row = some t.tick.st ∧ (∀ r', dataOf (t.macAt pm) r' = dataOf (s.macAt pm) r') ∧
      ∃ u, (0x0206, pm, u) ∈ t.jr.raised ∧ t.tick.st < u + msSt) ∧
  (∀ (s : State) (pm row a fn lf : Nat) (f : Frame), tget (s.macAt pm).age row = some a → s.frameOfMac pm = some (fn, lf, f) →
    f.state = .resident ∨ f.state = .empty → f.shadow = none →
    ∃ t, exec (.retentionLost pm row) s = .next t ∧ SameOff [.tick, .fm, .jr, .host, .cores] s t ∧
      t.tick = { s.tick with st := max s.tick.st (a + 2 * s.refreshInterval (dieOfPhysMac pm) + 1) } ∧
      t.frame? fn lf = some { f with state := .lost } ∧ (∀ k, t.macAt k = s.macAt k))
end

