-- ==== Sys2Proof/Laws/Tables.lean ====
section
/-!
SUPPORT. Sparse tables and memories: what a read gives after a write, and that every memory operation keeps the
canonical form.
-/

namespace Sys2Proof.Machine

open Sys2Proof

/-! ## Reading after writing -/

@[simp] theorem tget_tput_self {α : Type} (t : Tab α) (k : Nat) (v : α) : tget (tput t k v) k = some v := by
  induction t with
  | nil => simp [tput, tget]
  | cons e r ih =>
    obtain ⟨j, w⟩ := e
    unfold tput
    split
    · simp [tget]
    · split
      · simp [tget]
      · next h => simp [tget, show j ≠ k from fun e => h e.symm, ih]

theorem tget_tput_ne {α : Type} (t : Tab α) {k j : Nat} (v : α) (h : j ≠ k) : tget (tput t k v) j = tget t j := by
  induction t with
  | nil => simp [tput, tget, h.symm]
  | cons e r ih =>
    obtain ⟨i, w⟩ := e
    unfold tput
    split
    · simp [tget, h.symm]
    · split
      · next hk => subst hk; simp [tget, h.symm]
      · simp [tget, ih]

theorem tget_tput {α : Type} (t : Tab α) (k j : Nat) (v : α) :
    tget (tput t k v) j = if j = k then some v else tget t j := by
  split
  · next h => subst h; simp
  · next h => exact tget_tput_ne t v h

@[simp] theorem tgetD_tput_self {α : Type} (t : Tab α) (k : Nat) (v d : α) : tgetD (tput t k v) k d = v := by
  simp [tgetD]

theorem tgetD_tput_ne {α : Type} (t : Tab α) {k j : Nat} (v d : α) (h : j ≠ k) :
    tgetD (tput t k v) j d = tgetD t j d := by
  simp [tgetD, tget_tput_ne t v h]

theorem tget_filter {α : Type} (t : Tab α) (p : Nat → Bool) (j : Nat) :
    tget (t.filter (fun e => p e.1)) j = if p j then tget t j else none := by
  induction t with
  | nil => simp [tget]
  | cons e r ih =>
    obtain ⟨i, w⟩ := e
    by_cases hi : i = j
    · subst hi
      by_cases hp : p i <;> simp [tget, hp, ih]
    · by_cases hp : p i <;> simp [tget, hi, hp, ih]

@[simp] theorem tget_tdel_self {α : Type} (t : Tab α) (k : Nat) : tget (tdel t k) k = none := by
  have h := tget_filter t (fun j => j != k) k
  simpa [tdel] using h

theorem tget_tdel_ne {α : Type} (t : Tab α) {k j : Nat} (h : j ≠ k) : tget (tdel t k) j = tget t j := by
  have e := tget_filter t (fun j => j != k) j
  simpa [tdel, h] using e

/-- The value read at a key just written is the value written, listed or not. -/
@[simp] theorem tgetD_tputD_self {α : Type} [DecidableEq α] (d : α) (t : Tab α) (k : Nat) (v : α) :
    tgetD (tputD d t k v) k d = v := by
  unfold tputD
  split
  · next h => subst h; simp [tgetD]
  · simp

theorem tgetD_tputD_ne {α : Type} [DecidableEq α] (d : α) (t : Tab α) {k j : Nat} (v : α) (h : j ≠ k) :
    tgetD (tputD d t k v) j d = tgetD t j d := by
  unfold tputD
  split
  · simp [tgetD, tget_tdel_ne t h]
  · exact tgetD_tput_ne t v d h

/-! ## Rising keys -/

theorem tput_keys {α : Type} {t : Tab α} {k : Nat} {v : α} {e : Nat × α} (h : e ∈ tput t k v) :
    e = (k, v) ∨ e ∈ t := by
  induction t with
  | nil => exact .inl (by simpa [tput] using h)
  | cons x r ih =>
    obtain ⟨j, w⟩ := x
    unfold tput at h
    split at h
    · rcases List.mem_cons.1 h with h | h
      · exact .inl h
      · exact .inr h
    · split at h
      · rcases List.mem_cons.1 h with h | h
        · exact .inl h
        · exact .inr (List.mem_cons_of_mem _ h)
      · rcases List.mem_cons.1 h with h | h
        · exact .inr (h ▸ List.mem_cons_self ..)
        · exact (ih h).imp id (List.mem_cons_of_mem _)

theorem twf_tput {α : Type} {t : Tab α} {k : Nat} {v : α} (h : twf t) : twf (tput t k v) := by
  induction t with
  | nil => simp [tput]
  | cons e r ih =>
    obtain ⟨j, w⟩ := e
    replace h := List.pairwise_cons.1 h
    unfold tput
    split
    · next hk =>
      refine List.pairwise_cons.2 ⟨fun x hx => ?_, List.pairwise_cons.2 h⟩
      rcases List.mem_cons.1 hx with hx | hx
      · subst hx; exact hk
      · exact Nat.lt_trans hk (h.1 x hx)
    · split
      · next hk => subst hk; exact List.pairwise_cons.2 h
      · next h1 h2 =>
        refine List.pairwise_cons.2 ⟨fun x hx => ?_, ih h.2⟩
        rcases tput_keys hx with hx | hx
        · subst hx; show j < k; omega
        · exact h.1 x hx

theorem twf_map {α : Type} {t : Tab α} {f : Nat × α → Nat × α} (hf : ∀ e, (f e).1 = e.1) (h : twf t) :
    twf (t.map f) := by
  refine List.pairwise_map.2 (h.imp fun {a b} hab => ?_)
  rw [hf, hf]
  exact hab

theorem twf_filter {α : Type} {t : Tab α} (p : Nat × α → Bool) (h : twf t) : twf (t.filter p) := h.filter p

theorem tcanon_nil {α : Type} (d : α) : tcanon d ([] : Tab α) := ⟨.nil, fun _ h => nomatch h⟩

theorem tcanon_filter {α : Type} {d : α} {t : Tab α} (p : Nat × α → Bool) (h : tcanon d t) : tcanon d (t.filter p) :=
  ⟨h.1.filter p, fun e he => h.2 e (List.mem_filter.1 he).1⟩

theorem tcanon_tput {α : Type} {d : α} {t : Tab α} {k : Nat} {v : α} (hv : v ≠ d) (h : tcanon d t) :
    tcanon d (tput t k v) := by
  refine ⟨twf_tput h.1, fun e he => ?_⟩
  rcases tput_keys he with he | he
  · subst he; exact hv
  · exact h.2 e he

theorem tcanon_tputD {α : Type} [DecidableEq α] {d : α} {t : Tab α} {k : Nat} {v : α} (h : tcanon d t) :
    tcanon d (tputD d t k v) := by
  unfold tputD
  split
  · exact tcanon_filter _ h
  · next hv => exact tcanon_tput hv h

theorem twf_tfill {α : Type} {t : Tab α} {lo n : Nat} {v : Nat → α} (h : twf t) : twf (tfill t lo n v) := by
  unfold tfill twf
  rw [List.pairwise_append, List.pairwise_append]
  refine ⟨⟨h.filter _, ?_, ?_⟩, h.filter _, ?_⟩
  · rw [List.pairwise_map]
    exact List.pairwise_lt_range.imp (fun hab => Nat.add_lt_add_left hab lo)
  · intro a ha b hb
    simp only [List.mem_filter, decide_eq_true_eq] at ha
    obtain ⟨i, -, rfl⟩ := List.mem_map.1 hb
    have := ha.2
    show a.1 < lo + i
    omega
  · intro a ha b hb
    simp only [List.mem_filter, decide_eq_true_eq] at hb
    rcases List.mem_append.1 ha with ha | ha
    · simp only [List.mem_filter, decide_eq_true_eq] at ha; omega
    · obtain ⟨i, hi, rfl⟩ := List.mem_map.1 ha
      have := List.mem_range.1 hi
      show lo + i < b.1
      omega

/-! ## Host memory -/

theorem hostPut_wf {m : Tab Byte} {a : Nat} {b : Byte} (h : tcanon (0 : Byte) m) : tcanon (0 : Byte) (hostPut m a b) :=
  tcanon_tputD h

theorem hostWrite_wf {bs : List Byte} {m : Tab Byte} {a : Nat} (h : tcanon (0 : Byte) m) :
    tcanon (0 : Byte) (hostWrite m a bs) := by
  induction bs generalizing m a with
  | nil => exact h
  | cons b r ih => exact ih (hostPut_wf h)

/-- A byte written reads as written. -/
@[simp] theorem hostByte_hostPut_self (m : Tab Byte) (a : Nat) (b : Byte) : hostByte (hostPut m a b) a = b := by
  simp [hostByte, hostPut]

/-- A write of one byte leaves every other byte. -/
theorem hostByte_hostPut_ne (m : Tab Byte) {a c : Nat} (b : Byte) (h : c % 2 ^ 64 ≠ a % 2 ^ 64) :
    hostByte (hostPut m a b) c = hostByte m c := by
  simp only [hostByte, hostPut]
  exact tgetD_tputD_ne 0 m b h

/-- A write leaves every byte outside the bytes it covers. -/
theorem hostByte_hostWrite_out (bs : List Byte) (m : Tab Byte) (a c : Nat)
    (h : ∀ i, i < bs.length → c % 2 ^ 64 ≠ (a + i) % 2 ^ 64) : hostByte (hostWrite m a bs) c = hostByte m c := by
  induction bs generalizing m a with
  | nil => rfl
  | cons b r ih =>
    rw [hostWrite, ih]
    · exact hostByte_hostPut_ne m b (by simpa using h 0 (by simp))
    · intro i hi
      have := h (i + 1) (by simp; omega)
      rwa [show a + 1 + i = a + (i + 1) by omega]

theorem HostIf.wf_mem {h k : HostIf} (e : k.mem = h.mem) (hw : h.wf) : k.wf := by
  unfold HostIf.wf
  rw [e]
  exact hw

theorem HostIf.devWrite_wf (h : HostIf) (a : Nat) (bs : List Byte) (hw : h.wf) : (h.devWrite a bs).wf := hostWrite_wf hw

theorem HostIf.hostWrites_wf (h : HostIf) (ws : List HostWrite) (hw : h.wf) : (h.hostWrites ws).wf := by
  induction ws generalizing h with
  | nil => exact hw
  | cons w r ih => exact ih _ (h.devWrite_wf _ _ hw)

theorem HostIf.signal_wf (h : HostIf) (fn v : Nat) (hw : h.wf) : (h.signal fn v).wf := by
  unfold HostIf.signal
  split <;> exact hw

theorem HostIf.postOne_wf (h : HostIf) (fn q : Nat) (p : QPair) (c : Compl) (hw : h.wf) : (h.postOne fn q p c).wf := by
  have hd := h.devWrite_wf (p.cqBase + 64 * p.cqTail) (complBytes c p.cqPhase) hw
  unfold HostIf.postOne
  extract_lets h1 t p1 fire p2 h2
  have h1w : h1.wf := hd
  clear_value h1 t
  have h2w : h2.wf := h1w
  clear_value h2
  split
  · exact HostIf.signal_wf _ _ _ h2w
  · exact h2w

theorem HostIf.postReady_wf (h : HostIf) (fn q : Nat) (cs : List Compl) (hw : h.wf) : (h.postReady fn q cs).wf := by
  induction cs generalizing h with
  | nil => exact hw
  | cons c r ih =>
    unfold HostIf.postReady
    split
    · exact hw
    · split
      · exact hw
      · exact ih _ (h.postOne_wf _ _ _ _ hw)

theorem HostIf.finishDelete_wf (h : HostIf) (fn q : Nat) (hw : h.wf) : (h.finishDelete fn q).wf := by
  unfold HostIf.finishDelete
  split
  · exact hw
  · split
    · exact hw
    · split
      · dsimp only
        split
        · exact hw
        · exact HostIf.postReady_wf _ _ _ _ hw
      · exact hw

theorem HostIf.complete_wf (h : HostIf) (c : Compl) (hw : h.wf) : (h.complete c).wf := by
  unfold HostIf.complete
  split
  · exact hw
  · exact HostIf.finishDelete_wf _ _ _ (HostIf.postReady_wf _ _ _ _ hw)

theorem HostIf.pushEvent_wf (h : HostIf) (fn : Nat) (e : EventRec) (hw : h.wf) : (h.pushEvent fn e).wf := by
  unfold HostIf.pushEvent
  split
  · exact hw
  · split
    · exact hw
    · next q _ _ =>
      have hd := h.devWrite_wf (q.base + 64 * q.tail) (eventBytes { e with seq := q.seq } q.phase) hw
      extract_lets h1 t q1 fire q2 h2
      have h1w : h1.wf := hd
      clear_value h1 t
      have h2w : h2.wf := h1w
      clear_value h2
      split
      · exact HostIf.signal_wf _ _ _ h2w
      · exact h2w

theorem HostIf.route_wf (h : HostIf) (e : EventRec) (fns : List Nat) (hw : h.wf) : (h.route e fns).wf := by
  have hf : ∀ (l : List Nat) (h : HostIf), h.wf → (l.foldl (fun h f => h.pushEvent f (e.viewOf f)) h).wf := by
    intro l
    induction l with
    | nil => exact fun h hw => hw
    | cons f r ih => exact fun h hw => ih _ (h.pushEvent_wf _ _ hw)
  unfold HostIf.route
  dsimp only
  split
  · refine HostIf.pushEvent_wf _ _ _ ?_
    split
    · exact hf _ _ hw
    · exact hw
  · split
    · exact hf _ _ hw
    · exact hw

theorem HostIf.fetchOne_wf (h : HostIf) (fn q : Nat) (p : QPair) (hw : h.wf) : (h.fetchOne fn q p).wf := by
  unfold HostIf.fetchOne
  extract_lets bs hd e p1
  clear_value p1 e hd bs
  split
  · exact hw
  · exact HostIf.complete_wf _ _ hw

theorem HostIf.fetch_wf (h : HostIf) (fn q n : Nat) (hw : h.wf) : (h.fetch fn q n).wf := by
  induction n generalizing h with
  | zero => exact hw
  | succ n ih =>
    unfold HostIf.fetch
    split
    · exact hw
    · split
      · exact hw
      · exact ih _ (h.fetchOne_wf _ _ _ hw)

theorem HostIf.fetchAll_wf (h : HostIf) (fn q : Nat) (hw : h.wf) : (h.fetchAll fn q).wf := by
  unfold HostIf.fetchAll
  split
  · exact hw
  · exact h.fetch_wf _ _ _ hw

theorem HostIf.dbError_wf (h : HostIf) (fn : Nat) (hw : h.wf) : (h.dbError fn).wf := hw

theorem HostIf.unmask_wf (h : HostIf) (fn v : Nat) (hw : h.wf) : (h.unmask fn v).wf := by
  unfold HostIf.unmask
  dsimp only
  split <;> exact HostIf.wf_mem rfl hw

theorem HostIf.coalesced_wf (h : HostIf) (fn q : Nat) (hw : h.wf) : (h.coalesced fn q).wf := by
  unfold HostIf.coalesced
  repeat' split
  all_goals first
    | exact hw
    | exact HostIf.signal_wf _ _ _ (HostIf.wf_mem rfl hw)

theorem HostIf.wf_ite {h k : HostIf} {p : Prop} {_ : Decidable p} (hh : h.wf) (hk : k.wf) : (if p then h else k).wf := by
  split <;> assumption

theorem HostIf.wf_foldl {α : Type} {f : HostIf → α → HostIf} {l : List α} {h : HostIf} (hf : ∀ k x, k.wf → (f k x).wf)
    (hw : h.wf) : (l.foldl f h).wf := by
  induction l generalizing h with
  | nil => exact hw
  | cons x r ih => exact ih (hf _ _ hw)

theorem HostIf.blkWrite_wf (h : HostIf) (a : Nat) (b : Block) (hw : h.wf) : (h.blkWrite a b).wf := by
  have hd := h.devWrite_wf a (blockBytes b.data) hw
  unfold HostIf.blkWrite
  generalize h.devWrite a (blockBytes b.data) = k at hd ⊢
  dsimp only
  split <;> exact hd

/-! ## The module's memories -/

theorem Mem.wf_reset : Mem.reset.wf := by decide

theorem State.setHbm_wf (s : State) (k : Nat) (b : Block) (h : s.mem.wf) : (s.setHbm k b).mem.wf :=
  ⟨twf_tput h.1, h.2⟩

theorem State.setAs_wf (s : State) (core line : Nat) (b : Block) (h : s.mem.wf) : (s.setAs core line b).mem.wf :=
  ⟨h.1, twf_tput h.2.1, h.2.2⟩

theorem State.setCm_wf (s : State) (cluster line : Nat) (b : Block) (h : s.mem.wf) :
    (s.setCm cluster line b).mem.wf := ⟨h.1, h.2.1, h.2.2.1, tcanon_tputD h.2.2.2.1, h.2.2.2.2⟩

theorem State.setPte_wf (s : State) (r : PteRef) (v : Nat) (h : s.mem.wf) : (s.setPte r v).mem.wf := by
  unfold State.setPte
  split
  · exact ⟨h.1, h.2.1, h.2.2.1, h.2.2.2.1, h.2.2.2.2.1, tcanon_tputD h.2.2.2.2.2⟩
  · exact ⟨h.1, h.2.1, h.2.2.1, h.2.2.2.1, tcanon_tputD h.2.2.2.2.1, h.2.2.2.2.2⟩

end Sys2Proof.Machine
end

