-- ==== Sys2Proof/Laws/Bits.lean ====
section
/-!
SUPPORT. What a bit-field read, a bit-field write and a table update give: one lemma each, for the
proofs about register fields.
-/

namespace Sys2Proof.Machine
open Sys2Proof

theorem bitsOf_testBit (n hi lo i : Nat) : (bitsOf n hi lo).testBit i = (decide (i < hi + 1 - lo) && n.testBit (lo + i)) := by
  unfold bitsOf
  rw [Nat.testBit_mod_two_pow, Nat.testBit_shiftRight]

theorem setBits_eq (n hi lo v : Nat) (h : lo ≤ hi) :
    setBits n hi lo v = 2 ^ lo * (2 ^ (hi + 1 - lo) * (n / 2 ^ (hi + 1)) + v % 2 ^ (hi + 1 - lo)) + n % 2 ^ lo := by
  unfold setBits bitsOf
  simp only [Nat.shiftLeft_eq, Nat.shiftRight_eq_div_pow]
  generalize hw : hi + 1 - lo = w
  have e : hi + 1 = lo + w := by omega
  rw [e, Nat.pow_add, ← Nat.div_div_eq_div_mul]
  have a := Nat.div_add_mod n (2 ^ lo)
  have b := Nat.div_add_mod (n / 2 ^ lo) (2 ^ w)
  generalize n / 2 ^ lo / 2 ^ w = x at *
  generalize n / 2 ^ lo % 2 ^ w = y at *
  generalize n % 2 ^ lo = z at *
  generalize v % 2 ^ w = u at *
  rw [← b] at a
  rw [← a]
  generalize 2 ^ w * x = p
  rw [Nat.mul_add, Nat.mul_add, Nat.mul_comm y, Nat.mul_comm u]
  omega

theorem setBits_testBit (n hi lo v i : Nat) (h : lo ≤ hi) :
    (setBits n hi lo v).testBit i = if lo ≤ i ∧ i ≤ hi then v.testBit (i - lo) else n.testBit i := by
  rw [setBits_eq n hi lo v h, Nat.testBit_two_pow_mul_add _ (Nat.mod_lt _ (by positivity)),
    Nat.testBit_two_pow_mul_add _ (Nat.mod_lt _ (by positivity))]
  simp only [Nat.testBit_mod_two_pow, Nat.testBit_div_two_pow]
  by_cases c : i < lo
  · rw [if_pos c, if_neg (by omega)]; simp [c]
  · rw [if_neg c]
    by_cases d : i ≤ hi
    · rw [if_pos (by omega), if_pos (by omega)]; simp; omega
    · rw [if_neg (by omega), if_neg (by omega)]; congr 1; omega

theorem bitsOf_setBits_self (n hi lo v : Nat) (h : lo ≤ hi) : bitsOf (setBits n hi lo v) hi lo = v % 2 ^ (hi + 1 - lo) := by
  apply Nat.eq_of_testBit_eq; intro i
  rw [bitsOf_testBit, setBits_testBit _ _ _ _ _ h, Nat.testBit_mod_two_pow]
  by_cases c : i < hi + 1 - lo
  · rw [if_pos (by omega)]; simp
  · simp [c]

theorem bitsOf_setBits_ne (n hi lo v h2 l2 : Nat) (h : lo ≤ hi) (d : h2 < lo ∨ hi < l2) :
    bitsOf (setBits n hi lo v) h2 l2 = bitsOf n h2 l2 := by
  apply Nat.eq_of_testBit_eq; intro i
  rw [bitsOf_testBit, bitsOf_testBit, setBits_testBit _ _ _ _ _ h]
  by_cases c : i < h2 + 1 - l2
  · rw [if_neg (by omega)]
  · simp [c]

theorem bitOf_setBits (n hi lo v i : Nat) (h : lo ≤ hi) :
    bitOf (setBits n hi lo v) i = if lo ≤ i ∧ i ≤ hi then bitOf v (i - lo) else bitOf n i := setBits_testBit n hi lo v i h

theorem bitsOf_lt (n hi lo : Nat) : bitsOf n hi lo < 2 ^ (hi + 1 - lo) := Nat.mod_lt _ (by positivity)

theorem setBits_lt (n hi lo v k : Nat) (h : lo ≤ hi) (hk : hi < k) (hn : n < 2 ^ k) : setBits n hi lo v < 2 ^ k := by
  apply Nat.lt_pow_two_of_testBit
  intro i hi'
  rw [setBits_testBit _ _ _ _ _ h, if_neg (by omega)]
  exact Nat.testBit_lt_two_pow (Nat.lt_of_lt_of_le hn (Nat.pow_le_pow_right (by omega) hi'))

theorem bitsOf_toNat_and {w : Nat} (v m : BitVec w) (hi lo : Nat) (h : ∀ i, lo ≤ i → i ≤ hi → i < w → m.getLsbD i = true) :
    bitsOf (v &&& m).toNat hi lo = bitsOf v.toNat hi lo := by
  apply Nat.eq_of_testBit_eq; intro i
  rw [bitsOf_testBit, bitsOf_testBit]
  by_cases c : i < hi + 1 - lo
  · change (_ && (v &&& m).getLsbD _) = (_ && v.getLsbD _)
    rw [BitVec.getLsbD_and]
    by_cases d : lo + i < w
    · rw [h _ (by omega) (by omega) d]; simp
    · rw [BitVec.getLsbD_of_ge v _ (by omega)]; simp
  · simp [c]

theorem bitsOf_toNat_or {w : Nat} (v m : BitVec w) (hi lo : Nat) (h : ∀ i, lo ≤ i → i ≤ hi → i < w → m.getLsbD i = false) :
    bitsOf (v ||| m).toNat hi lo = bitsOf v.toNat hi lo := by
  apply Nat.eq_of_testBit_eq; intro i
  rw [bitsOf_testBit, bitsOf_testBit]
  by_cases c : i < hi + 1 - lo
  · change (_ && (v ||| m).getLsbD _) = (_ && v.getLsbD _)
    rw [BitVec.getLsbD_or]
    by_cases d : lo + i < w
    · rw [h _ (by omega) (by omega) d]; simp
    · rw [BitVec.getLsbD_of_ge v _ (by omega), BitVec.getLsbD_of_ge m _ (by omega)]; simp
  · simp [c]

theorem bitOf_toNat {w : Nat} (v : BitVec w) (i : Nat) : bitOf v.toNat i = v.getLsbD i := rfl

theorem tgetD_tdel {α : Type} (t : Tab α) (k j : Nat) (d : α) : tgetD (tdel t k) j d = if j = k then d else tgetD t j d := by
  split
  · next h => subst h; simp [tgetD]
  · next h => simp [tgetD, tget_tdel_ne _ h]

theorem tgetD_tput {α : Type} (t : Tab α) (k j : Nat) (v d : α) : tgetD (tput t k v) j d = if j = k then v else tgetD t j d := by
  simp only [tgetD, tget_tput]; split <;> rfl

end Sys2Proof.Machine
end

