-- ==== Sys2Proof/Laws/Frame.lean ====
section
/-!
SUPPORT. How a change of the state is followed component by component: a state that agrees with another outside a list
of components and keeps the memories in canonical form, through updates, branches and folds.
-/

namespace Sys2Proof.Machine

open Sys2Proof

theorem SameOff.refl (L : List Comp) (s : State) : SameOff L s s := by
  constructor; intro c _; cases c <;> rfl

theorem Comp.same_trans {c : Comp} {s t u : State} (h : c.same s t) (k : c.same t u) : c.same s u := by
  cases c <;> exact Eq.trans k h

/-- What every operation of the machine keeps: the components outside `L`, and the canonical form of the memories. -/
structure Kept (L : List Comp) (s t : State) : Prop where
  off : SameOff L s t
  wf : s.memWf → t.memWf

theorem Kept.refl (L : List Comp) (s : State) : Kept L s s := ⟨.refl L s, fun h => h⟩

/-- Follow a change by another of a smaller footprint. -/
theorem Kept.step {L M : List Comp} {s t u : State} (hM : M ⊆ L) (h : Kept L s t) (k : Kept M t u) : Kept L s u :=
  ⟨⟨fun c hc => Comp.same_trans (h.off.same c hc) (k.off.same c (fun hm => hc (hM hm)))⟩, fun w => k.wf (h.wf w)⟩

theorem Kept.upd {L : List Comp} {s t : State} {a0} {a1} {a2} {a3} {a4} {a5} {a6} {a7} {a8} {a9} {a10} {a11} {a12} {a13} {a14} {a15}
    (h0 : a0 = t.pending) (k : Kept L s t) (hh : t.host.wf → a5.wf) (hm : t.mem.wf → a7.wf)
    (h1 : Comp.now ∈ L ∨ a1 = t.now)
    (h2 : Comp.free ∈ L ∨ a2 = t.free)
    (h3 : Comp.life ∈ L ∨ a3 = t.life)
    (h4 : Comp.jr ∈ L ∨ a4 = t.jr)
    (h5 : Comp.host ∈ L ∨ a5 = t.host)
    (h6 : Comp.reg ∈ L ∨ a6 = t.reg)
    (h7 : Comp.mem ∈ L ∨ a7 = t.mem)
    (h8 : Comp.fm ∈ L ∨ a8 = t.fm)
    (h9 : Comp.adm ∈ L ∨ a9 = t.adm)
    (h10 : Comp.tick ∈ L ∨ a10 = t.tick)
    (h11 : Comp.cores ∈ L ∨ a11 = t.cores)
    (h12 : Comp.net ∈ L ∨ a12 = t.net)
    (h13 : Comp.pwr ∈ L ∨ a13 = t.pwr)
    (h14 : Comp.mnt ∈ L ∨ a14 = t.mnt)
    (h15 : Comp.od ∈ L ∨ a15 = t.od) :
    Kept L s (State.mk a0 a1 a2 a3 a4 a5 a6 a7 a8 a9 a10 a11 a12 a13 a14 a15) := by
  refine ⟨?_, fun w => ⟨hh (k.wf w).1, hm (k.wf w).2⟩⟩
  constructor
  intro c hc
  have hk := k.off.same c hc
  cases c
  · exact h0.trans hk
  · exact (h1.resolve_left hc).trans hk
  · exact (h2.resolve_left hc).trans hk
  · exact (h3.resolve_left hc).trans hk
  · exact (h4.resolve_left hc).trans hk
  · exact (h5.resolve_left hc).trans hk
  · exact (h6.resolve_left hc).trans hk
  · exact (h7.resolve_left hc).trans hk
  · exact (h8.resolve_left hc).trans hk
  · exact (h9.resolve_left hc).trans hk
  · exact (h10.resolve_left hc).trans hk
  · exact (h11.resolve_left hc).trans hk
  · exact (h12.resolve_left hc).trans hk
  · exact (h13.resolve_left hc).trans hk
  · exact (h14.resolve_left hc).trans hk
  · exact (h15.resolve_left hc).trans hk

theorem kept_ite {L : List Comp} {s a b : State} {p : Prop} {_ : Decidable p} (ha : Kept L s a)
    (hb : Kept L s b) : Kept L s (if p then a else b) := by
  split <;> assumption

theorem foldl_inv {α β : Type} (P : β → Prop) (f : β → α → β) (l : List α) (b : β) (h0 : P b)
    (hf : ∀ b x, P b → P (f b x)) : P (l.foldl f b) := by
  induction l generalizing b with
  | nil => exact h0
  | cons x xs ih => exact ih _ (hf _ _ h0)

theorem kept_foldl {α : Type} {L : List Comp} {s b : State} {f : State → α → State} {l : List α}
    (hf : ∀ t x, Kept L s t → Kept L s (f t x)) (h0 : Kept L s b) : Kept L s (l.foldl f b) :=
  foldl_inv (Kept L s ·) f l b h0 (fun t x h => hf t x h)

theorem kept_foldl_snd {α β : Type} {L : List Comp} {s : State} {b : β × State} {f : β × State → α → β × State}
    {l : List α} (hf : ∀ t x, Kept L s t.2 → Kept L s (f t x).2) (h0 : Kept L s b.2) :
    Kept L s (l.foldl f b).2 :=
  foldl_inv (fun (q : β × State) => Kept L s q.2) f l b h0 (fun t x h => hf t x h)
theorem Kept.snd {α : Type} {L : List Comp} {s t : State} {a : α} (h : Kept L s t) : Kept L s (a, t).2 := h

theorem Kept.of_pair {α : Type} {L : List Comp} {s b : State} {p : α × State} {a : α} (he : p = (a, b))
    (h : Kept L s p.2) : Kept L s b := by subst he; exact h

theorem Kept.of_pair2 {α β : Type} {L : List Comp} {s b : State} {p : α × β × State} {a : α} {c : β}
    (he : p = (a, c, b)) (h : Kept L s p.2.2) : Kept L s b := by subst he; exact h

theorem kept_ite_snd {α : Type} {L : List Comp} {s : State} {a b : α × State} {p : Prop} {_ : Decidable p}
    (ha : Kept L s a.2) (hb : Kept L s b.2) : Kept L s (if p then a else b).2 := by
  split <;> assumption

theorem kept_ite_snd2 {α β : Type} {L : List Comp} {s : State} {a b : α × β × State} {p : Prop} {_ : Decidable p}
    (ha : Kept L s a.2.2) (hb : Kept L s b.2.2) : Kept L s (if p then a else b).2.2 := by
  split <;> assumption

theorem kept_foldl_snd2 {α β γ : Type} {L : List Comp} {s : State} {b : β × γ × State} {f : β × γ × State → α → β × γ × State}
    {l : List α} (hf : ∀ t x, Kept L s t.2.2 → Kept L s (f t x).2.2) (h0 : Kept L s b.2.2) :
    Kept L s (l.foldl f b).2.2 :=
  foldl_inv (fun (q : β × γ × State) => Kept L s q.2.2) f l b h0 (fun t x h => hf t x h)

theorem Kept.now {L : List Comp} {s t : State} (hL : Comp.now ∈ L) (h : Kept L s t) {v} :
    Kept L s { t with now := v } := by
  refine ⟨⟨fun c hc => ?_⟩, fun w => h.wf w⟩
  have hk := h.off.same c hc
  cases c <;> first | exact hk | exact absurd hL hc

theorem Kept.free {L : List Comp} {s t : State} (hL : Comp.free ∈ L) (h : Kept L s t) {v} :
    Kept L s { t with free := v } := by
  refine ⟨⟨fun c hc => ?_⟩, fun w => h.wf w⟩
  have hk := h.off.same c hc
  cases c <;> first | exact hk | exact absurd hL hc

theorem Kept.life {L : List Comp} {s t : State} (hL : Comp.life ∈ L) (h : Kept L s t) {v} :
    Kept L s { t with life := v } := by
  refine ⟨⟨fun c hc => ?_⟩, fun w => h.wf w⟩
  have hk := h.off.same c hc
  cases c <;> first | exact hk | exact absurd hL hc

theorem Kept.jr {L : List Comp} {s t : State} (hL : Comp.jr ∈ L) (h : Kept L s t) {v} :
    Kept L s { t with jr := v } := by
  refine ⟨⟨fun c hc => ?_⟩, fun w => h.wf w⟩
  have hk := h.off.same c hc
  cases c <;> first | exact hk | exact absurd hL hc

theorem Kept.host {L : List Comp} {s t : State} {v : HostIf} (hL : Comp.host ∈ L) (hw : t.host.wf → v.wf) (h : Kept L s t) :
    Kept L s { t with host := v } := by
  refine ⟨⟨fun c hc => ?_⟩, fun w => ⟨hw (h.wf w).1, (h.wf w).2⟩⟩
  have hk := h.off.same c hc
  cases c <;> first | exact hk | exact absurd hL hc

theorem Kept.reg {L : List Comp} {s t : State} (hL : Comp.reg ∈ L) (h : Kept L s t) {v} :
    Kept L s { t with reg := v } := by
  refine ⟨⟨fun c hc => ?_⟩, fun w => h.wf w⟩
  have hk := h.off.same c hc
  cases c <;> first | exact hk | exact absurd hL hc

theorem Kept.mem {L : List Comp} {s t : State} {v : Mem} (hL : Comp.mem ∈ L) (hw : t.mem.wf → v.wf) (h : Kept L s t) :
    Kept L s { t with mem := v } := by
  refine ⟨⟨fun c hc => ?_⟩, fun w => ⟨(h.wf w).1, hw (h.wf w).2⟩⟩
  have hk := h.off.same c hc
  cases c <;> first | exact hk | exact absurd hL hc

theorem Kept.fm {L : List Comp} {s t : State} (hL : Comp.fm ∈ L) (h : Kept L s t) {v} :
    Kept L s { t with fm := v } := by
  refine ⟨⟨fun c hc => ?_⟩, fun w => h.wf w⟩
  have hk := h.off.same c hc
  cases c <;> first | exact hk | exact absurd hL hc

theorem Kept.adm {L : List Comp} {s t : State} (hL : Comp.adm ∈ L) (h : Kept L s t) {v} :
    Kept L s { t with adm := v } := by
  refine ⟨⟨fun c hc => ?_⟩, fun w => h.wf w⟩
  have hk := h.off.same c hc
  cases c <;> first | exact hk | exact absurd hL hc

theorem Kept.tick {L : List Comp} {s t : State} (hL : Comp.tick ∈ L) (h : Kept L s t) {v} :
    Kept L s { t with tick := v } := by
  refine ⟨⟨fun c hc => ?_⟩, fun w => h.wf w⟩
  have hk := h.off.same c hc
  cases c <;> first | exact hk | exact absurd hL hc

theorem Kept.cores {L : List Comp} {s t : State} (hL : Comp.cores ∈ L) (h : Kept L s t) {v} :
    Kept L s { t with cores := v } := by
  refine ⟨⟨fun c hc => ?_⟩, fun w => h.wf w⟩
  have hk := h.off.same c hc
  cases c <;> first | exact hk | exact absurd hL hc

theorem Kept.net {L : List Comp} {s t : State} (hL : Comp.net ∈ L) (h : Kept L s t) {v} :
    Kept L s { t with net := v } := by
  refine ⟨⟨fun c hc => ?_⟩, fun w => h.wf w⟩
  have hk := h.off.same c hc
  cases c <;> first | exact hk | exact absurd hL hc

theorem Kept.pwr {L : List Comp} {s t : State} (hL : Comp.pwr ∈ L) (h : Kept L s t) {v} :
    Kept L s { t with pwr := v } := by
  refine ⟨⟨fun c hc => ?_⟩, fun w => h.wf w⟩
  have hk := h.off.same c hc
  cases c <;> first | exact hk | exact absurd hL hc

theorem Kept.mnt {L : List Comp} {s t : State} (hL : Comp.mnt ∈ L) (h : Kept L s t) {v} :
    Kept L s { t with mnt := v } := by
  refine ⟨⟨fun c hc => ?_⟩, fun w => h.wf w⟩
  have hk := h.off.same c hc
  cases c <;> first | exact hk | exact absurd hL hc

theorem Kept.od {L : List Comp} {s t : State} (hL : Comp.od ∈ L) (h : Kept L s t) {v} :
    Kept L s { t with od := v } := by
  refine ⟨⟨fun c hc => ?_⟩, fun w => h.wf w⟩
  have hk := h.off.same c hc
  cases c <;> first | exact hk | exact absurd hL hc

end Sys2Proof.Machine
end

