-- ==== Sys2Proof/Laws/FrameMemory.lean ====
section
/-!
SUPPORT. What each operation leaves as it was: memory, the queues' completions, events and paging.

The lemma `f_frame` says that `f` changes no component of the state outside the list it names, and keeps the
memories in canonical form.
-/

namespace Sys2Proof.Machine

open Sys2Proof

theorem State.setAs_frame (s core line b) : Kept [.mem] s (State.setAs s core line b) := by
  unfold State.setAs
  refine .mem (by decide) (fun w => ⟨w.1, twf_tput w.2.1, w.2.2.1, w.2.2.2.1, w.2.2.2.2.1, w.2.2.2.2.2⟩) ?_
  exact .refl _ _

theorem State.setCm_frame (s cluster line b) : Kept [.mem] s (State.setCm s cluster line b) := by
  unfold State.setCm
  refine .mem (by decide) (fun w => ⟨w.1, w.2.1, w.2.2.1, tcanon_tputD w.2.2.2.1, w.2.2.2.2.1, w.2.2.2.2.2⟩) ?_
  exact .refl _ _

theorem State.setCore_frame (s c v) : Kept [.cores] s (State.setCore s c v) := by
  unfold State.setCore
  refine .cores (by decide) ?_
  exact .refl _ _

theorem State.setGate_frame (s g v) : Kept [.tick] s (State.setGate s g v) := by
  unfold State.setGate
  refine .tick (by decide) ?_
  exact .refl _ _

theorem State.setHbm_frame (s k b) : Kept [.mem] s (State.setHbm s k b) := by
  unfold State.setHbm
  refine .mem (by decide) (fun w => ⟨twf_tput w.1, w.2.1, w.2.2.1, w.2.2.2.1, w.2.2.2.2.1, w.2.2.2.2.2⟩) ?_
  exact .refl _ _

theorem State.setLink_frame (s l v) : Kept [.net] s (State.setLink s l v) := by
  unfold State.setLink
  refine .net (by decide) ?_
  exact .refl _ _

theorem State.setMac_frame (s pm v) : Kept [.fm] s (State.setMac s pm v) := by
  unfold State.setMac
  refine .fm (by decide) ?_
  exact .refl _ _

theorem State.setPart_frame (s p v) : Kept [.tick] s (State.setPart s p v) := by
  unfold State.setPart
  refine .tick (by decide) ?_
  exact .refl _ _

theorem State.setPdie_frame (s d v) : Kept [.pwr] s (State.setPdie s d v) := by
  unfold State.setPdie
  refine .pwr (by decide) ?_
  exact .refl _ _

theorem State.setPpart_frame (s p v) : Kept [.pwr] s (State.setPpart s p v) := by
  unfold State.setPpart
  refine .pwr (by decide) ?_
  exact .refl _ _

theorem State.setPte_frame (s r v) : Kept [.mem] s (State.setPte s r v) := by
  unfold State.setPte
  refine kept_ite ?_ ?_
  · refine .mem (by decide) (fun w => ⟨w.1, w.2.1, w.2.2.1, w.2.2.2.1, w.2.2.2.2.1, tcanon_tputD w.2.2.2.2.2⟩) ?_
    exact .refl _ _
  · refine .mem (by decide) (fun w => ⟨w.1, w.2.1, w.2.2.1, w.2.2.2.1, tcanon_tputD w.2.2.2.2.1, w.2.2.2.2.2⟩) ?_
    exact .refl _ _

theorem disarmGates_frame (id s) : Kept [.tick] s (disarmGates id s) := by
  unfold disarmGates
  refine .tick (by decide) ?_
  exact .refl _ _

theorem mapCores_frame (p f s) : Kept [.cores] s (mapCores p f s) := by
  unfold mapCores
  refine .cores (by decide) ?_
  exact .refl _ _

theorem dropExec_frame (id s) : Kept [.adm] s (dropExec id s) := by
  unfold dropExec
  refine .adm (by decide) ?_
  exact .refl _ _

theorem setExec_frame (e s) : Kept [.adm] s (setExec e s) := by
  unfold setExec
  refine .adm (by decide) ?_
  exact .refl _ _

theorem complete_frame (c s) : Kept [.host] s (complete c s) := by
  unfold complete
  refine .host (by decide) (fun w => HostIf.complete_wf (hw := w) ..) ?_
  exact .refl _ _

theorem absorbExec_frame (withCompletion id s) :
    Kept [.host, .adm, .tick, .cores] s (absorbExec withCompletion id s) := by
  unfold absorbExec
  split
  · rename_i y0 y1
    exact .refl _ _
  · rename_i y2 y3 y4
    extract_lets z5 z6
    rename_i w7
    have h8 : Kept [.host, .adm, .tick, .cores] s z5 := by
      unfold z5
      exact .step (by decide) (.step (by decide) (.refl _ _) (mapCores_frame ..)) (disarmGates_frame ..)
    clear_value z5
    have h9 : Kept [.host, .adm, .tick, .cores] s z6 := by
      unfold z6
      refine kept_ite ?_ ?_
      · exact .step (by decide) h8 (dropExec_frame ..)
      · exact .step (by decide) h8 (setExec_frame ..)
    clear_value z6
    refine kept_ite ?_ ?_
    · exact .step (by decide) h9 (complete_frame ..)
    · exact h9

theorem completeSt_frame (t' status s) : Kept [.host] s (completeSt t' status s) := by
  unfold completeSt
  exact .step (by decide) (.refl _ _) (complete_frame ..)

theorem completeAll_frame (ts status s) : Kept [.host] s (completeAll ts status s) := by
  unfold completeAll
  refine kept_foldl (fun t0 x1 h2 => ?_) ?_
  · exact .step (by decide) h2 (completeSt_frame ..)
  · exact .refl _ _

theorem raiseFor_frame (e fns s) : Kept [.jr, .host] s (raiseFor e fns s) := by
  unfold raiseFor
  extract_lets z0
  rename_i w1
  refine .upd rfl ?_ (fun w => HostIf.route_wf (hw := w) ..) (fun w => w) (.inr rfl) (.inr rfl) (.inr rfl) (.inl (by decide)) (.inl (by decide)) (.inr rfl) (.inr rfl) (.inr rfl) (.inr rfl) (.inr rfl) (.inr rfl) (.inr rfl) (.inr rfl) (.inr rfl) (.inr rfl)
  exact .refl _ _

theorem raise_frame (e s) : Kept [.jr, .host] s (raise e s) := by
  unfold raise
  exact .step (by decide) (.refl _ _) (raiseFor_frame ..)

theorem raiseOncePer_frame (gap key e fns s) : Kept [.jr, .host] s (raiseOncePer gap key e fns s) := by
  unfold raiseOncePer
  refine kept_ite ?_ ?_
  · exact .refl _ _
  · extract_lets z0
    rename_i w1
    have h2 : Kept [.jr, .host] s z0 := by
      unfold z0
      exact .step (by decide) (.refl _ _) (raiseFor_frame ..)
    clear_value z0
    refine .jr (by decide) ?_
    exact h2

theorem raiseMem_frame (code f die core info dva s) : Kept [.jr, .host] s (raiseMem code f die core info dva s) := by
  unfold raiseMem
  exact .step (by decide) (.refl _ _) (raiseOncePer_frame ..)

theorem addMmuStat_frame (f hi lo n s) : Kept [.reg] s (addMmuStat f hi lo n s) := by
  unfold addMmuStat
  refine .reg (by decide) ?_
  exact .refl _ _

theorem verifyBlk_frame (f die core dva b s) : Kept [.jr, .host, .reg] s (verifyBlk f die core dva b s).2 := by
  unfold verifyBlk
  refine kept_ite_snd ?_ ?_
  · exact .refl _ _
  · exact .step (by decide) (.step (by decide) (.refl _ _) (addMmuStat_frame ..)) (raiseMem_frame ..)

theorem noteWork_frame (kind die f n s) : Kept [.reg] s (noteWork kind die f n s) := by
  unfold noteWork
  refine .reg (by decide) ?_
  exact .refl _ _

theorem outOfWindow_frame (f core dva s) : Kept [.jr, .host] s (outOfWindow f core dva s) := by
  unfold outOfWindow
  exact .step (by decide) (.refl _ _) (raiseMem_frame ..)

theorem deliver_frame (f die key core dva b s) : Kept [.jr, .host, .reg] s (deliver f die key core dva b s).2 := by
  unfold deliver
  refine kept_ite_snd ?_ ?_
  · exact .step (by decide) (.step (by decide) (.refl _ _) (raiseMem_frame ..)) (verifyBlk_frame ..)
  · exact .step (by decide) (.refl _ _) (verifyBlk_frame ..)

theorem noteHostWait_frame (core s) : Kept [.cores] s (noteHostWait core s) := by
  unfold noteHostWait
  split
  · rename_i y0
    exact .refl _ _
  · rename_i y1 y2
    exact .step (by decide) (.refl _ _) (State.setCore_frame ..)

theorem fillPage_frame (f dva r failed s) : Kept [.jr, .host, .reg, .mem] s (fillPage f dva r failed s) := by
  unfold fillPage
  extract_lets z0 z1 z2 z3 z4 z5 z6
  rename_i w7
  have h8 : Kept [.jr, .host, .reg, .mem] s z5 := by
    unfold z5
    refine .mem (by decide) (fun w => ⟨twf_tfill w.1, w.2.1, w.2.2.1, w.2.2.2.1, w.2.2.2.2.1, w.2.2.2.2.2⟩) ?_
    exact .refl _ _
  clear_value z5
  have h9 : Kept [.jr, .host, .reg, .mem] s z6 := by
    unfold z6
    exact .step (by decide) h8 (State.setPte_frame ..)
  clear_value z6
  have h10 : Kept [.jr, .host, .reg, .mem] s w7 := by
    unfold w7
    exact .step (by decide) h9 (addMmuStat_frame ..)
  clear_value w7
  refine kept_ite ?_ ?_
  · exact h10
  · exact .step (by decide) h10 (raiseMem_frame ..)

theorem ensurePresent_frame (f dva core l s) :
    Kept [.jr, .host, .reg, .mem, .cores] s (ensurePresent f dva core l s) := by
  unfold ensurePresent
  split
  · rename_i y0 y1 y2 y3 y4 y5
    refine kept_ite ?_ ?_
    · extract_lets z6 z7 z8
      rename_i w9
      have h10 : Kept [.jr, .host, .reg, .mem, .cores] s w9 := by
        unfold w9
        refine .step (by decide) ?_ (noteHostWait_frame ..)
        refine .step (by decide) ?_ (fillPage_frame ..)
        refine .mem (by decide) (fun w => w) ?_
        exact .refl _ _
      clear_value w9
      refine kept_ite ?_ ?_
      · exact .step (by decide) h10 (State.setPte_frame ..)
      · exact h10
    · exact .refl _ _
  · rename_i y11 y12
    exact .refl _ _

theorem readBlk_frame (f p core dva s) : Kept [.jr, .host, .reg, .mem, .cores] s (readBlk f p core dva s).2 := by
  unfold readBlk
  split
  · rename_i y0 y1
    exact .step (by decide) (.refl _ _) (outOfWindow_frame ..)
  · rename_i y2 y3 y4 y5
    exact .step (by decide) (.refl _ _) (outOfWindow_frame ..)
  · rename_i y6 y7 y8 y9 y10
    extract_lets z11 z12
    refine kept_ite_snd ?_ ?_
    · exact .step (by decide) (.refl _ _) (raiseMem_frame ..)
    · exact .refl _ _
  · rename_i y13 y14 y15 y16
    split
    · rename_i y17 y18 y19
      exact .step (by decide) (.refl _ _) (deliver_frame ..)
    · rename_i y20 y21
      extract_lets z22
      have h23 : Kept [.jr, .host, .reg, .mem, .cores] s z22 := by
        unfold z22
        exact .step (by decide) (.refl _ _) (addMmuStat_frame ..)
      clear_value z22
      refine kept_ite_snd ?_ ?_
      · exact .step (by decide) h23 (raiseMem_frame ..)
      · exact h23
  · rename_i y24 y25 y26 y27
    exact .step (by decide) (.refl _ _) (deliver_frame ..)
  · rename_i y28 y29 y30 y31 y32 y33 y34
    refine kept_ite_snd ?_ ?_
    · exact .refl _ _
    · extract_lets z35 z36
      rename_i w37
      have h38 : Kept [.jr, .host, .reg, .mem, .cores] s z35 := by
        unfold z35
        exact .step (by decide) (.refl _ _) (ensurePresent_frame ..)
      clear_value z35
      refine kept_ite_snd ?_ ?_
      · exact h38
      · exact .step (by decide) (.step (by decide) h38 (noteWork_frame ..)) (deliver_frame ..)

theorem readBytes_frame (f p core dva n s) :
    Kept [.jr, .host, .reg, .mem, .cores] s (readBytes f p core dva n s).2.2 := by
  unfold readBytes
  extract_lets z0 z1 z2
  have h3 : Kept [.jr, .host, .reg, .mem, .cores] s z2.2.2 := by
    unfold z2
    refine kept_foldl_snd2 (fun t4 x5 h6 => ?_) ?_
    · split
      · rename_i y7 y8 y9 y10
        have h11 : Kept [.jr, .host, .reg, .mem, .cores] s y9 := by
          refine .of_pair y10 ?_
          exact .step (by decide) h6 (readBlk_frame ..)
        exact h11
    · exact .refl _ _
  clear_value z2
  exact h3

theorem advanceTo_frame (t' s) : Kept [.tick] s (advanceTo t' s) := by
  unfold advanceTo
  refine .tick (by decide) ?_
  exact .refl _ _

theorem openZeroPage_frame (r s) : Kept [.mem] s (openZeroPage r s) := by
  unfold openZeroPage
  extract_lets z0
  rename_i w1 w2
  refine kept_ite ?_ ?_
  · refine .step (by decide) ?_ (State.setPte_frame ..)
    refine .mem (by decide) (fun w => ⟨twf_tfill w.1, w.2.1, w.2.2.1, w.2.2.2.1, w.2.2.2.2.1, w.2.2.2.2.2⟩) ?_
    exact .refl _ _
  · exact .refl _ _

theorem writeBlk_frame (f p core dva b s) : Kept [.jr, .host, .reg, .mem, .cores] s (writeBlk f p core dva b s) := by
  unfold writeBlk
  extract_lets z0
  refine kept_ite ?_ ?_
  · exact .step (by decide) (.refl _ _) (outOfWindow_frame ..)
  · split
    · rename_i y1 y2 y3 y4
      have h5 : Kept [.jr, .host, .reg, .mem, .cores] s y3 := by
        refine .of_pair y4 ?_
        exact .step (by decide) (.refl _ _) (verifyBlk_frame ..)
      clear_value z0
      split
      · rename_i y6
        exact h5
      · rename_i y7 y8 y9
        exact .step (by decide) h5 (outOfWindow_frame ..)
      · rename_i y10 y11 y12 y13
        refine .host (by decide) (fun w => HostIf.blkWrite_wf (hw := w) ..) ?_
        exact h5
      · rename_i y14 y15 y16
        exact .step (by decide) h5 (State.setAs_frame ..)
      · rename_i y17 y18 y19
        exact .step (by decide) h5 (State.setCm_frame ..)
      · rename_i y20 y21 y22 y23 y24 y25
        extract_lets z26 z27 z28
        have h29 : Kept [.jr, .host, .reg, .mem, .cores] s z26 := by
          unfold z26
          exact .step (by decide) h5 (ensurePresent_frame ..)
        clear_value z26
        have h30 : Kept [.jr, .host, .reg, .mem, .cores] s z27 := by
          unfold z27
          exact .step (by decide) h29 (openZeroPage_frame ..)
        clear_value z27
        have h31 : Kept [.jr, .host, .reg, .mem, .cores] s z28 := by
          unfold z28
          refine kept_ite ?_ ?_
          · exact .step (by decide) h30 (State.setPte_frame ..)
          · exact h30
        clear_value z28
        exact .step (by decide) (.step (by decide) h31 (noteWork_frame ..)) (State.setHbm_frame ..)

theorem writeZeroImage_frame (fn va s) : Kept [.jr, .host, .reg, .mem, .cores] s (writeZeroImage fn va s) := by
  unfold writeZeroImage
  extract_lets z0
  rename_i w1
  have h2 : Kept [.jr, .host, .reg, .mem, .cores] s z0 := by
    unfold z0
    exact .step (by decide) (.refl _ _) (writeBlk_frame ..)
  clear_value z0
  refine kept_foldl (fun t3 x4 h5 => ?_) ?_
  · exact .step (by decide) h5 (writeBlk_frame ..)
  · exact h2

theorem writeImage_frame (fn va h' dense bad s) :
    Kept [.jr, .host, .reg, .mem, .cores] s (writeImage fn va h' dense bad s) := by
  unfold writeImage
  extract_lets z0
  have h1 : Kept [.jr, .host, .reg, .mem, .cores] s z0 := by
    unfold z0
    exact .step (by decide) (.refl _ _) (writeBlk_frame ..)
  clear_value z0
  refine kept_foldl (fun t2 x3 h4 => ?_) ?_
  · exact .step (by decide) h4 (writeBlk_frame ..)
  · exact h1

theorem egressBlk_frame (f k dva s) : Kept [.jr, .host, .reg] s (egressBlk f k dva s).2 := by
  unfold egressBlk
  extract_lets z0
  refine kept_ite_snd ?_ ?_
  · exact .refl _ _
  · exact .step (by decide) (.refl _ _) (deliver_frame ..)

theorem writeBack_frame (r s) : Kept [.jr, .host, .reg, .mem] s (writeBack r s) := by
  unfold writeBack
  extract_lets z0
  rename_i w1 w2
  have h3 : Kept [.jr, .host, .reg, .mem] s w2 := by
    unfold w2
    refine kept_foldl (fun t4 x5 h6 => ?_) ?_
    · split
      · rename_i y7 y8 y9 y10
        have h11 : Kept [.jr, .host, .reg, .mem] s y9 := by
          refine .of_pair y10 ?_
          exact .step (by decide) h6 (egressBlk_frame ..)
        refine .host (by decide) (fun w => HostIf.blkWrite_wf (hw := w) ..) ?_
        exact h11
    · exact .refl _ _
  clear_value w2
  refine kept_ite ?_ ?_
  · exact .step (by decide) h3 (State.setPte_frame ..)
  · exact .refl _ _

theorem clearPte_frame (f w page r s) : Kept [.mem] s (clearPte f w page r s) := by
  unfold clearPte
  extract_lets z0
  have h1 : Kept [.mem] s z0 := by
    unfold z0
    exact .step (by decide) (.refl _ _) (State.setPte_frame ..)
  clear_value z0
  refine kept_ite ?_ ?_
  · exact .step (by decide) h1 (State.setPte_frame ..)
  · exact h1

theorem mmuOpPage_frame (op f w s rp) : Kept [.jr, .host, .reg, .mem] s (mmuOpPage op f w s rp) := by
  unfold mmuOpPage
  extract_lets z0
  have h1 : Kept [.jr, .host, .reg, .mem] s z0 := by
    unfold z0
    split
    · rename_i y2 y3
      exact .refl _ _
    · rename_i y4 y5
      exact .step (by decide) (.refl _ _) (writeBack_frame ..)
  clear_value z0
  split
  · rename_i y6
    exact .step (by decide) h1 (clearPte_frame ..)
  · rename_i y7 y8
    exact .step (by decide) h1 (clearPte_frame ..)
  · rename_i y9 y10
    exact .step (by decide) h1 (State.setPte_frame ..)
  · rename_i y11
    refine kept_ite ?_ ?_
    · exact .step (by decide) h1 (State.setPte_frame ..)
    · exact h1

theorem applyMmuOp_frame (op f w lo n s) : Kept [.jr, .host, .reg, .mem] s (applyMmuOp op f w lo n s) := by
  unfold applyMmuOp
  extract_lets z0
  rename_i w1
  have h2 : Kept [.jr, .host, .reg, .mem] s z0 := by
    unfold z0
    refine kept_foldl (fun t3 x4 h5 => ?_) ?_
    · exact .step (by decide) h5 (mmuOpPage_frame ..)
    · exact .refl _ _
  clear_value z0
  split
  · rename_i y6 y7
    refine .reg (by decide) ?_
    exact h2
  · rename_i y8 y9
    exact h2

theorem applyMmuPend_frame (f s) : Kept [.jr, .host, .reg, .mem] s (applyMmuPend f s) := by
  unfold applyMmuPend
  extract_lets z0 z1
  rename_i w2
  have h3 : Kept [.jr, .host, .reg, .mem] s w2 := by
    unfold w2
    refine .mem (by decide) (fun w => w) ?_
    exact .refl _ _
  clear_value w2
  refine kept_foldl (fun t4 x5 h6 => ?_) ?_
  · extract_lets z7 z8
    have h9 : Kept [.jr, .host, .reg, .mem] s z8 := by
      unfold z8
      exact .step (by decide) h6 (applyMmuOp_frame ..)
    clear_value z8
    split
    · rename_i y10 y11
      exact h9
    · rename_i y12 y13 y14
      exact .step (by decide) h9 (completeSt_frame ..)
  · exact h3

theorem freshFree_frame (s) : Kept [.free] s (freshFree s).2 := by
  unfold freshFree
  refine .free (by decide) ?_
  exact .refl _ _

theorem evictLine_frame (core line s) : Kept [.free, .mem] s (evictLine core line s) := by
  unfold evictLine
  extract_lets z0
  refine kept_ite ?_ ?_
  · exact .refl _ _
  · split
    · rename_i y1 y2 y3 y4
      have h5 : Kept [.free, .mem] s y3 := by
        refine .of_pair y4 ?_
        exact .step (by decide) (.refl _ _) (freshFree_frame ..)
      split
      · rename_i y6 y7
        exact h5
      · rename_i y8 y9 y10
        refine .mem (by decide) (fun w => ⟨w.1, w.2.1, twf_tput w.2.2.1, w.2.2.2.1, w.2.2.2.2.1, w.2.2.2.2.2⟩) ?_
        exact h5

theorem setDirLine_frame (core line d s) : Kept [.mem] s (setDirLine core line d s) := by
  unfold setDirLine
  refine .mem (by decide) (fun w => ⟨w.1, w.2.1, twf_tput w.2.2.1, w.2.2.2.1, w.2.2.2.2.1, w.2.2.2.2.2⟩) ?_
  exact .refl _ _

theorem askLine_frame (core line m s) : Kept [.free, .mem] s (askLine core line m s) := by
  unfold askLine
  refine kept_ite ?_ ?_
  · extract_lets z0
    have h1 : Kept [.free, .mem] s z0 := by
      unfold z0
      exact .step (by decide) (.refl _ _) (evictLine_frame ..)
    clear_value z0
    exact .step (by decide) h1 (setDirLine_frame ..)
  · exact .refl _ _

theorem mmuCfgRej_frame (f s) : Kept [.reg] s (mmuCfgRej f s) := by
  unfold mmuCfgRej
  refine .reg (by decide) ?_
  exact .refl _ _

theorem setWinCfg_frame (f w v s) : Kept [.reg] s (setWinCfg f w v s) := by
  unfold setWinCfg
  refine .reg (by decide) ?_
  exact .refl _ _

theorem deferMmu_frame (op f w lo n t' s) : Kept [.jr, .host, .reg, .mem] s (deferMmu op f w lo n t' s) := by
  unfold deferMmu
  extract_lets z0 z1
  rename_i w2
  have h3 : Kept [.jr, .host, .reg, .mem] s w2 := by
    unfold w2
    refine .mem (by decide) (fun w => w) ?_
    exact .refl _ _
  clear_value w2
  refine kept_ite ?_ ?_
  · exact h3
  · exact .step (by decide) h3 (applyMmuPend_frame ..)

theorem winCfgEffect_frame (f w v s) : Kept [.jr, .host, .reg, .mem] s (winCfgEffect f w v s) := by
  unfold winCfgEffect
  extract_lets z0 z1
  rename_i w2 w3 w4 w5
  have h6 : Kept [.jr, .host, .reg, .mem] s w2 := by
    unfold w2
    exact .step (by decide) (.refl _ _) (setWinCfg_frame ..)
  clear_value w2
  have h7 : Kept [.jr, .host, .reg, .mem] s w4 := by
    unfold w4
    refine .reg (by decide) ?_
    exact h6
  clear_value w4
  refine kept_ite ?_ ?_
  · exact .step (by decide) (.refl _ _) (mmuCfgRej_frame ..)
  · refine kept_ite ?_ ?_
    · exact .step (by decide) h7 (deferMmu_frame ..)
    · refine kept_ite ?_ ?_
      · refine .step (by decide) ?_ (setWinCfg_frame ..)
        refine .mem (by decide) (fun w => ⟨w.1, w.2.1, w.2.2.1, w.2.2.2.1, tcanon_filter _ w.2.2.2.2.1, w.2.2.2.2.2⟩) ?_
        exact .refl _ _
      · exact .step (by decide) (.refl _ _) (setWinCfg_frame ..)

theorem withHalf_frame {L : List Comp} {s t : State} {key cur : Nat} {half : Half64} {value : Nat} {act : Nat → State → State} (hL : [.host] ⊆ L)
    (ha : ∀ v u, Kept L s u → Kept L s (act v u)) (h : Kept L s t) : Kept L s (withHalf key cur half value act t) := by
  unfold withHalf
  split
  · rename_i y0
    refine .host (hL (by decide)) (fun w => w) ?_
    exact h
  · rename_i y1
    refine ha _ _ ?_
    exact h
  · rename_i y2
    extract_lets z3
    rename_i w4
    refine ha _ _ ?_
    refine .host (hL (by decide)) (fun w => w) ?_
    exact h

theorem restartEvac_frame (pm s) : Kept [.mnt] s (restartEvac pm s) := by
  unfold restartEvac
  refine .mnt (by decide) ?_
  exact .refl _ _

theorem setChecks_frame (pm dense s) : Kept [.fm] s (setChecks pm dense s) := by
  unfold setChecks
  refine .fm (by decide) ?_
  exact .refl _ _

theorem writePage_frame (fn core pm sparse pg flips s) :
    Kept [.jr, .host, .fm, .mnt] s (writePage fn core pm sparse pg flips s) := by
  unfold writePage
  extract_lets z0 z1 z2 z3
  have h4 : Kept [.jr, .host, .fm, .mnt] s z0 := by
    unfold z0
    exact .step (by decide) (.refl _ _) (restartEvac_frame ..)
  clear_value z0
  have h5 : Kept [.jr, .host, .fm, .mnt] s z3 := by
    unfold z3
    exact .step (by decide) (.step (by decide) h4 (State.setMac_frame ..)) (setChecks_frame ..)
  clear_value z3
  refine kept_ite ?_ ?_
  · exact h5
  · exact .step (by decide) h5 (raiseMem_frame ..)

theorem readPage_frame (fn p imageVa s) : Kept [.jr, .host, .reg, .mem, .cores] s (readPage fn p imageVa s).2 := by
  unfold readPage
  split
  · rename_i y0 y1 y2 y3
    have h4 : Kept [.jr, .host, .reg, .mem, .cores] s y2 := by
      refine .of_pair y3 ?_
      exact .step (by decide) (.refl _ _) (readBlk_frame ..)
    extract_lets z5
    rename_i w6 w7
    have h8 : Kept [.jr, .host, .reg, .mem, .cores] s w7.2.2 := by
      unfold w7
      refine kept_foldl_snd2 (fun t9 x10 h11 => ?_) ?_
      · split
        · rename_i y12 y13 y14 y15
          have h16 : Kept [.jr, .host, .reg, .mem, .cores] s y14 := by
            refine .of_pair y15 ?_
            exact .step (by decide) h11 (readBlk_frame ..)
          exact h16
      · exact h4
    clear_value w7
    refine kept_ite_snd ?_ ?_
    · exact h4
    · exact h8

theorem freeBits_frame (n s) : Kept [.free] s (freeBits n s).2 := by
  induction n generalizing s with
  | zero =>
    unfold freeBits
    exact .refl _ _
  | succ n ih =>
    unfold freeBits
    split
    · rename_i y0 y1 y2 y3
      have h4 : Kept [.free] s y2 := by
        refine .of_pair y3 ?_
        exact .step (by decide) (.refl _ _) (freshFree_frame ..)
      split
      · rename_i y5 y6 y7 y8
        have h9 : Kept [.free] s y7 := by
          refine .of_pair y8 ?_
          refine .step (fun _ h => h) ?_ (ih ..)
          exact h4
        exact h9

theorem resultBits_frame (n v s) : Kept [.free] s (resultBits n v s).2 := by
  unfold resultBits
  refine kept_ite_snd ?_ ?_
  · exact .step (by decide) (.refl _ _) (freeBits_frame ..)
  · exact .refl _ _

theorem writeHome_frame (line v s) : Kept [.mem] s (writeHome line v s) := by
  unfold writeHome
  refine kept_ite ?_ ?_
  · extract_lets z0
    have h1 : Kept [.mem] s z0 := by
      unfold z0
      split
      · rename_i y2 y3
        exact .refl _ _
      · rename_i y4 y5 y6
        extract_lets z7
        have h8 : Kept [.mem] s z7 := by
          unfold z7
          exact .step (by decide) (.refl _ _) (openZeroPage_frame ..)
        clear_value z7
        refine kept_ite ?_ ?_
        · exact .step (by decide) h8 (State.setPte_frame ..)
        · exact h8
    clear_value z0
    exact .step (by decide) h1 (State.setHbm_frame ..)
  · exact .step (by decide) (.refl _ _) (State.setCm_frame ..)

theorem flushLines_frame (clusters s) : Kept [.mem] s (flushLines clusters s) := by
  unfold flushLines
  extract_lets z0 z1
  rename_i w2
  have h3 : Kept [.mem] s w2 := by
    unfold w2
    refine .mem (by decide) (fun w => ⟨w.1, w.2.1, twf_filter _ w.2.2.1, w.2.2.2.1, w.2.2.2.2.1, w.2.2.2.2.2⟩) ?_
    exact .refl _ _
  clear_value w2
  refine kept_foldl (fun t4 x5 h6 => ?_) ?_
  · refine kept_ite ?_ ?_
    · exact .step (by decide) h6 (writeHome_frame ..)
    · exact h6
  · exact h3

theorem popEntry_frame (fn q s) : Kept [.host] s (popEntry fn q s) := by
  unfold popEntry
  split
  · rename_i y0 y1
    exact .refl _ _
  · rename_i y2 y3 y4
    refine .host (by decide) (fun w => w) ?_
    exact .refl _ _

theorem onEntry_frame {L : List Comp} {s t : State} {op fn q : Nat} {act : Nat → Ticket → State → State} (hL : [.host] ⊆ L)
    (ha : ∀ e k u, Kept L s u → Kept L s (act e k u)) (h : Kept L s t) : Kept L s (onEntry op fn q act t) := by
  unfold onEntry
  split
  · rename_i y0 y1
    exact h
  · rename_i y2 y3 y4 y5
    refine kept_ite ?_ ?_
    · exact h
    · split
      · rename_i y6 y7 y8
        exact .step (List.Subset.trans (by decide) hL) (.step (List.Subset.trans (by decide) hL) h (popEntry_frame ..)) (completeSt_frame ..)
      · rename_i y9 y10
        refine ha _ _ _ ?_
        exact .step (List.Subset.trans (by decide) hL) h (popEntry_frame ..)

theorem mapLeaf_frame (f w page e ba s) : Kept [.mem] s (mapLeaf f w page e ba s) := by
  unfold mapLeaf
  extract_lets z0 z1 z2
  rename_i w3
  have h4 : Kept [.mem] s w3 := by
    unfold w3
    refine kept_ite ?_ ?_
    · exact .refl _ _
    · refine .mem (by decide) (fun w => ⟨w.1, w.2.1, w.2.2.1, w.2.2.2.1, tcanon_tput (by decide) w.2.2.2.2.1, tcanon_filter _ w.2.2.2.2.2⟩) ?_
      exact .refl _ _
  clear_value w3
  exact .step (by decide) h4 (State.setPte_frame ..)

theorem mapPages_frame (f w psize e ba n page s) : Kept [.mem] s (mapPages f w psize e ba n page s) := by
  induction n generalizing e ba page s with
  | zero =>
    unfold mapPages
    exact .refl _ _
  | succ n ih =>
    unfold mapPages
    refine kept_ite ?_ ?_
    · refine .step (fun _ h => h) ?_ (ih ..)
      exact .step (by decide) (.refl _ _) (State.setPte_frame ..)
    · refine .step (fun _ h => h) ?_ (ih ..)
      exact .step (by decide) (.refl _ _) (mapLeaf_frame ..)

theorem mapEffect_frame (e t' s) : Kept [.host, .mem] s (mapEffect e t' s) := by
  unfold mapEffect
  extract_lets z0 z1 z2 z3 z4 z5 z6 z7
  rename_i w8 w9
  refine kept_ite ?_ ?_
  · exact .step (by decide) (.refl _ _) (completeSt_frame ..)
  · refine kept_ite ?_ ?_
    · exact .step (by decide) (.refl _ _) (completeSt_frame ..)
    · split
      · rename_i y10 y11
        exact .step (by decide) (.refl _ _) (completeSt_frame ..)
      · rename_i y12 y13 y14
        extract_lets z15
        refine kept_ite ?_ ?_
        · exact .step (by decide) (.refl _ _) (completeSt_frame ..)
        · exact .step (by decide) (.step (by decide) (.refl _ _) (mapPages_frame ..)) (completeSt_frame ..)

theorem execMap_frame (fn q s t) (h : execMap fn q s = .next t) :
    Kept [.host, .mem] s t := by
  have e := Host.Outcome.next.inj h
  subst e
  refine onEntry_frame (by decide) (fun u0 u1 u2 u3 => ?_) ?_
  · exact .step (by decide) u3 (mapEffect_frame ..)
  · exact .refl _ _

theorem rangeCmd_frame {L : List Comp} {s t : State} {act : Nat → Nat → Nat → Nat → Ticket → State → State} {e : Nat} {k : Ticket} (hL : [.host] ⊆ L)
    (ha : ∀ a b c d k u, Kept L s u → Kept L s (act a b c d k u)) (h : Kept L s t) : Kept L s (rangeCmd act e k t) := by
  unfold rangeCmd
  extract_lets z0 z1 z2
  refine kept_ite ?_ ?_
  · exact .step (List.Subset.trans (by decide) hL) h (completeSt_frame ..)
  · refine kept_ite ?_ ?_
    · exact .step (List.Subset.trans (by decide) hL) h (completeSt_frame ..)
    · split
      · rename_i y3 y4
        exact .step (List.Subset.trans (by decide) hL) h (completeSt_frame ..)
      · rename_i y5 y6 y7
        refine kept_ite ?_ ?_
        · exact .step (List.Subset.trans (by decide) hL) h (completeSt_frame ..)
        · refine ha _ _ _ _ _ _ ?_
          exact h

theorem execUnmap_frame (fn q s t) (h : execUnmap fn q s = .next t) :
    Kept [.jr, .host, .reg, .mem] s t := by
  have e := Host.Outcome.next.inj h
  subst e
  refine onEntry_frame (by decide) (fun u0 u1 u2 u3 => ?_) ?_
  · refine rangeCmd_frame (by decide) (fun u4 u5 u6 u7 u8 u9 u10 => ?_) ?_
    · exact .step (by decide) u10 (deferMmu_frame ..)
    · exact u3
  · exact .refl _ _

theorem execProtect_frame (fn q s t) (h : execProtect fn q s = .next t) :
    Kept [.jr, .host, .reg, .mem] s t := by
  have e := Host.Outcome.next.inj h
  subst e
  refine onEntry_frame (by decide) (fun u0 u1 u2 u3 => ?_) ?_
  · refine rangeCmd_frame (by decide) (fun u4 u5 u6 u7 u8 u9 u10 => ?_) ?_
    · exact .step (by decide) u10 (deferMmu_frame ..)
    · exact u3
  · exact .refl _ _

theorem execSyncIn_frame (fn q s t) (h : execSyncIn fn q s = .next t) :
    Kept [.jr, .host, .reg, .mem] s t := by
  have e := Host.Outcome.next.inj h
  subst e
  refine onEntry_frame (by decide) (fun u0 u1 u2 u3 => ?_) ?_
  · refine rangeCmd_frame (by decide) (fun u4 u5 u6 u7 u8 u9 u10 => ?_) ?_
    · exact .step (by decide) u10 (deferMmu_frame ..)
    · exact u3
  · exact .refl _ _

theorem execSyncOut_frame (fn q s t) (h : execSyncOut fn q s = .next t) :
    Kept [.jr, .host, .reg, .mem] s t := by
  have e := Host.Outcome.next.inj h
  subst e
  refine onEntry_frame (by decide) (fun u0 u1 u2 u3 => ?_) ?_
  · refine rangeCmd_frame (by decide) (fun u4 u5 u6 u7 u8 u9 u10 => ?_) ?_
    · refine .step (by decide) ?_ (completeSt_frame ..)
      refine kept_foldl (fun t11 x12 h13 => ?_) ?_
      · exact .step (by decide) h13 (writeBack_frame ..)
      · exact u10
    · exact u3
  · exact .refl _ _

theorem execMmuWinCfgWrite_frame (fn win half value s t) (h : execMmuWinCfgWrite fn win half value s = .next t) :
    Kept [.jr, .host, .reg, .mem] s t := by
  have e := Host.Outcome.next.inj h
  subst e
  refine kept_ite ?_ ?_
  · refine withHalf_frame (by decide) (fun u0 u1 u2 => ?_) ?_
    · exact .step (by decide) u2 (winCfgEffect_frame ..)
    · exact .refl _ _
  · exact .refl _ _

theorem writeBytesIn_frame (f p core dva bs s) :
    Kept [.jr, .host, .reg, .mem, .cores] s (writeBytesIn f p core dva bs s) := by
  unfold writeBytesIn
  split
  · rename_i y0 y1 y2 y3
    have h4 : Kept [.jr, .host, .reg, .mem, .cores] s y2 := by
      refine .of_pair y3 ?_
      exact .step (by decide) (.refl _ _) (readBlk_frame ..)
    exact .step (by decide) h4 (writeBlk_frame ..)

theorem hostFillEffect_frame (f dva write s) : Kept [.mem] s (hostFillEffect f dva write s) := by
  unfold hostFillEffect
  split
  · rename_i y0 y1
    exact .refl _ _
  · rename_i y2 y3 y4
    split
    · rename_i y5 y6 y7
      refine .mem (by decide) (fun w => w) ?_
      exact .refl _ _
    · rename_i y8 y9
      refine .mem (by decide) (fun w => w) ?_
      exact .refl _ _

theorem execHostFill_frame (fn dva write s t) (h : execHostFill fn dva write s = .next t) :
    Kept [.mem] s t := by
  have e := Host.Outcome.next.inj h
  subst e
  exact .step (by decide) (.refl _ _) (hostFillEffect_frame ..)

theorem hostFillCompleteEffect_frame (f dva failed s) :
    Kept [.jr, .host, .reg, .mem] s (hostFillCompleteEffect f dva failed s) := by
  unfold hostFillCompleteEffect
  split
  · rename_i y0 y1
    exact .refl _ _
  · rename_i y2 y3 y4
    extract_lets z5
    rename_i w6
    have h7 : Kept [.jr, .host, .reg, .mem] s w6 := by
      unfold w6
      refine .mem (by decide) (fun w => w) ?_
      exact .refl _ _
    clear_value w6
    split
    · rename_i y8 y9
      exact h7
    · rename_i y10 y11 y12
      extract_lets z13
      have h14 : Kept [.jr, .host, .reg, .mem] s z13 := by
        unfold z13
        exact .step (by decide) h7 (fillPage_frame ..)
      clear_value z13
      refine kept_ite ?_ ?_
      · exact .step (by decide) h14 (State.setPte_frame ..)
      · exact h14

theorem execHostFillComplete_frame (fn dva failed s t) (h : execHostFillComplete fn dva failed s = .next t) :
    Kept [.jr, .host, .reg, .mem] s t := by
  have e := Host.Outcome.next.inj h
  subst e
  exact .step (by decide) (.refl _ _) (hostFillCompleteEffect_frame ..)

theorem execRd_frame (core line s t) (h : execRd core line s = .next t) :
    Kept [.free, .mem] s t := by
  have e := Host.Outcome.next.inj h
  subst e
  exact .step (by decide) (.refl _ _) (askLine_frame ..)

theorem execOwn_frame (core line s t) (h : execOwn core line s = .next t) :
    Kept [.free, .mem] s t := by
  have e := Host.Outcome.next.inj h
  subst e
  exact .step (by decide) (.refl _ _) (askLine_frame ..)

theorem execWb_frame (core line data s t) (h : execWb core line data s = .next t) :
    Kept [.mem] s t := by
  have e := Host.Outcome.next.inj h
  subst e
  refine kept_ite ?_ ?_
  · exact .step (by decide) (.refl _ _) (setDirLine_frame ..)
  · exact .refl _ _

theorem passTime_frame (s) : Kept [.now, .tick] s (passTime s) := by
  unfold passTime
  refine .upd rfl ?_ (fun w => w) (fun w => w) (.inl (by decide)) (.inr rfl) (.inr rfl) (.inr rfl) (.inr rfl) (.inr rfl) (.inr rfl) (.inr rfl) (.inr rfl) (.inl (by decide)) (.inr rfl) (.inr rfl) (.inr rfl) (.inr rfl) (.inr rfl)
  exact .refl _ _

end Sys2Proof.Machine
end

