-- ==== Sys2Proof/Laws/FrameQueues.lean ====
section
/-!
SUPPORT. What each operation leaves as it was: frames, gates, queue commands, registers and admission.

The lemma `f_frame` says that `f` changes no component of the state outside the list it names, and keeps the
memories in canonical form.
-/

namespace Sys2Proof.Machine

open Sys2Proof

theorem State.setFrame_frame (s fn lf v) : Kept [.fm] s (State.setFrame s fn lf v) := by
  unfold State.setFrame
  refine .fm (by decide) ?_
  exact .refl _ _

theorem dropPlan_frame (p s) : Kept [.adm] s (dropPlan p s) := by
  unfold dropPlan
  refine .adm (by decide) ?_
  exact .refl _ _

theorem trimPlans_frame (fn q n s) : Kept [.adm] s (trimPlans fn q n s) := by
  induction n generalizing s with
  | zero =>
    unfold trimPlans
    exact .refl _ _
  | succ n ih =>
    unfold trimPlans
    refine kept_ite ?_ ?_
    · exact .refl _ _
    · split
      · rename_i y0 y1
        exact .refl _ _
      · rename_i y2 y3 y4
        refine .step (fun _ h => h) ?_ (ih ..)
        exact .step (by decide) (.refl _ _) (dropPlan_frame ..)

theorem addArrivals_frame (g n s) : Kept [.jr, .host, .tick] s (addArrivals g n s) := by
  unfold addArrivals
  extract_lets z0 z1
  rename_i w2
  have h3 : Kept [.jr, .host, .tick] s z1 := by
    unfold z1
    exact .step (by decide) (.refl _ _) (State.setGate_frame ..)
  clear_value z1
  refine kept_ite ?_ ?_
  · exact .step (by decide) h3 (raise_frame ..)
  · exact h3

theorem addPaging_frame (c p s) : Kept [.fm] s (addPaging c p s) := by
  unfold addPaging
  refine .fm (by decide) ?_
  exact .refl _ _

theorem readStruct_frame (fn p va n s) : Kept [.jr, .host, .reg, .mem, .cores] s (readStruct fn p va n s).2 := by
  unfold readStruct
  refine kept_ite_snd ?_ ?_
  · exact .refl _ _
  · extract_lets z0
    have h1 : Kept [.jr, .host, .reg, .mem, .cores] s z0.2.2 := by
      unfold z0
      exact .step (by decide) (.refl _ _) (readBytes_frame ..)
    clear_value z0
    exact h1

theorem readStages_frame (x gd s) : Kept [.jr, .host, .reg, .mem, .cores] s (readStages x gd s).2 := by
  unfold readStages
  refine kept_ite_snd ?_ ?_
  · exact .refl _ _
  · split
    · rename_i y0 y1 y2 y3
      have h4 : Kept [.jr, .host, .reg, .mem, .cores] s y2 := by
        refine .of_pair y3 ?_
        exact .step (by decide) (.refl _ _) (readStruct_frame ..)
      exact h4

theorem admitPlan_frame (x gd bt bs ts s) : Kept [.jr, .host, .reg, .mem, .cores] s (admitPlan x gd bt bs ts s).2 := by
  unfold admitPlan
  extract_lets z0 z1
  split
  · rename_i y2 y3 y4 y5
    have h6 : Kept [.jr, .host, .reg, .mem, .cores] s y4 := by
      refine .of_pair y5 ?_
      exact .step (by decide) (.refl _ _) (readStages_frame ..)
    split
    · rename_i y7 y8 y9 y10
      have h11 : Kept [.jr, .host, .reg, .mem, .cores] s y9 := by
        refine .of_pair y10 ?_
        refine kept_ite_snd ?_ ?_
        · exact h6
        · exact .step (by decide) h6 (readStruct_frame ..)
      split
      · rename_i y12 y13 y14 y15
        have h16 : Kept [.jr, .host, .reg, .mem, .cores] s y14 := by
          refine .of_pair y15 ?_
          refine kept_ite_snd ?_ ?_
          · exact h11
          · exact .step (by decide) h11 (readStruct_frame ..)
        split
        · rename_i y17 y18 y19 y20 y21 y22
          extract_lets z23 z24 z25 z26
          rename_i w27 w28 w29 w30 w31 w32 w33 w34 w35
          split
          · rename_i y36 y37 y38
            exact h16
          · rename_i y39 y40
            split
            · rename_i y41 y42 y43
              exact h16
            · rename_i y44 y45
              refine kept_ite_snd ?_ ?_
              · exact h16
              · refine kept_ite_snd ?_ ?_
                · exact h16
                · split
                  · rename_i y46 y47 y48
                    exact h16
                  · rename_i y49 y50 y51
                    extract_lets z52
                    exact h16
        · rename_i y53 y54 y55
          exact h16
        · rename_i y56 y57 y58 y59
          exact h16
        · rename_i y60 y61 y62 y63 y64
          exact h16

theorem checkTask_frame (x gd bt bs stages i s) :
    Kept [.jr, .host, .reg, .mem, .cores] s (checkTask x gd bt bs stages i s).2 := by
  unfold checkTask
  extract_lets z0 z1
  split
  · rename_i y2 y3 y4 y5
    have h6 : Kept [.jr, .host, .reg, .mem, .cores] s y4 := by
      refine .of_pair y5 ?_
      exact .step (by decide) (.refl _ _) (readStruct_frame ..)
    split
    · rename_i y7 y8 y9 y10
      have h11 : Kept [.jr, .host, .reg, .mem, .cores] s y9 := by
        refine .of_pair y10 ?_
        exact .step (by decide) h6 (readStruct_frame ..)
      split
      · rename_i y12 y13 y14 y15
        extract_lets z16
        split
        · rename_i y17 y18 y19 y20
          have h21 : Kept [.jr, .host, .reg, .mem, .cores] s y19 := by
            refine .of_pair y20 ?_
            exact .step (by decide) h11 (readStruct_frame ..)
          split
          · rename_i y22
            exact h21
          · rename_i y23 y24
            extract_lets z25 z26
            split
            · rename_i y27 y28 y29
              exact h21
            · rename_i y30 y31
              split
              · rename_i y32 y33 y34
                exact h21
              · rename_i y35 y36
                exact h21
      · rename_i y37 y38 y39
        exact h11

theorem checkTasks_frame (x gd bt bs st n ts s) : Kept [.jr, .host, .reg, .mem, .cores] s (checkTasks x gd bt bs st n ts s).2 := by
  induction n generalizing ts s with
  | zero =>
    unfold checkTasks
    exact .refl _ _
  | succ n ih =>
    unfold checkTasks
    refine kept_ite_snd ?_ ?_
    · exact .refl _ _
    · split
      · rename_i y0 y1 y2 y3
        have h4 : Kept [.jr, .host, .reg, .mem, .cores] s y2 := by
          refine .of_pair y3 ?_
          exact .step (by decide) (.refl _ _) (checkTask_frame ..)
        exact h4
      · rename_i y5 y6 y7 y8
        have h9 : Kept [.jr, .host, .reg, .mem, .cores] s y7 := by
          refine .of_pair y8 ?_
          exact .step (by decide) (.refl _ _) (checkTask_frame ..)
        refine .step (fun _ h => h) ?_ (ih ..)
        exact h9

theorem setAe_frame (a f s) : Kept [.adm] s (setAe a f s) := by
  unfold setAe
  refine .adm (by decide) ?_
  exact .refl _ _

theorem updSub_frame (x f s) : Kept [.adm] s (updSub x f s) := by
  unfold updSub
  exact .step (by decide) (.refl _ _) (setAe_frame ..)

theorem refuseSub_frame (x b s) : Kept [.jr, .host, .adm] s (refuseSub x b s) := by
  unfold refuseSub
  extract_lets z0 z1
  rename_i w2
  have h3 : Kept [.jr, .host, .adm] s z0 := by
    unfold z0
    exact .step (by decide) (.refl _ _) (updSub_frame ..)
  clear_value z0
  have h4 : Kept [.jr, .host, .adm] s w2 := by
    unfold w2
    exact .step (by decide) h3 (raise_frame ..)
  clear_value w2
  exact .step (by decide) h4 (complete_frame ..)

theorem cachePlan_frame (p s t) (h : cachePlan p s = some t) : Kept [.adm] s t := by
  unfold cachePlan at h
  dsimp only at h
  split at h
  · cases h
    exact .refl _ _
  · split at h
    · cases h
    · cases h
      exact .adm (by decide) (.step (by decide) (dropPlan_frame ..) (trimPlans_frame ..))

theorem queueExec_frame (x p s) : Kept [.adm] s (queueExec x p s) := by
  unfold queueExec
  extract_lets z0 z1 z2 z3
  rename_i w4
  have h5 : Kept [.adm] s w4 := by
    unfold w4
    refine .adm (by decide) ?_
    exact .refl _ _
  clear_value w4
  exact .step (by decide) h5 (updSub_frame ..)

theorem admitTurn_frame (x gd bt bs ts s) :
    Kept [.jr, .host, .reg, .mem, .adm, .cores] s (admitTurn x gd bt bs ts s) := by
  unfold admitTurn
  split
  · rename_i y0 y1 y2 y3
    have h4 : Kept [.jr, .host, .reg, .mem, .adm, .cores] s y2 := by
      refine .of_pair y3 ?_
      exact .step (by decide) (.refl _ _) (readStages_frame ..)
    split
    · rename_i y5 y6 y7 y8
      have h9 : Kept [.jr, .host, .reg, .mem, .adm, .cores] s y7 := by
        refine .of_pair y8 ?_
        exact .step (by decide) h4 (checkTasks_frame ..)
      exact .step (by decide) h9 (refuseSub_frame ..)
    · rename_i y10 y11 y12 y13
      have h14 : Kept [.jr, .host, .reg, .mem, .adm, .cores] s y12 := by
        refine .of_pair y13 ?_
        exact .step (by decide) h4 (checkTasks_frame ..)
      refine kept_ite ?_ ?_
      · exact .step (by decide) h14 (updSub_frame ..)
      · refine kept_ite ?_ ?_
        · exact .step (by decide) h14 (refuseSub_frame ..)
        · split
          · rename_i y15 y16 y17 y18
            have h19 : Kept [.jr, .host, .reg, .mem, .adm, .cores] s y17 := by
              refine .of_pair y18 ?_
              exact .step (by decide) h14 (admitPlan_frame ..)
            exact .step (by decide) h19 (refuseSub_frame ..)
          · rename_i y20 y21 y22 y23
            have h24 : Kept [.jr, .host, .reg, .mem, .adm, .cores] s y22 := by
              refine .of_pair y23 ?_
              exact .step (by decide) h14 (admitPlan_frame ..)
            split
            · rename_i y25 y26 y27
              have h28 : Kept [.jr, .host, .reg, .mem, .adm, .cores] s y26 := by
                refine .step (by decide) ?_ (cachePlan_frame (h := y27) ..)
                exact h24
              exact .step (by decide) h28 (queueExec_frame ..)
            · rename_i y29 y30
              exact .step (by decide) h24 (updSub_frame ..)

theorem noteWait_frame (fn others s) : Kept [.adm] s (noteWait fn others s) := by
  unfold noteWait
  extract_lets z0 z1
  rename_i w2
  refine .adm (by decide) ?_
  exact .refl _ _

theorem checkTurn_frame (x s) : Kept [.jr, .host, .reg, .mem, .adm, .cores] s (checkTurn x s) := by
  unfold checkTurn
  extract_lets z0
  split
  · rename_i y1 y2 y3 y4
    have h5 : Kept [.jr, .host, .reg, .mem, .adm, .cores] s y3 := by
      refine .of_pair y4 ?_
      exact .step (by decide) (.refl _ _) (readStruct_frame ..)
    split
    · rename_i y6
      exact .step (by decide) h5 (refuseSub_frame ..)
    · rename_i y7 y8
      extract_lets z9
      split
      · rename_i y10 y11 y12
        exact .step (by decide) h5 (refuseSub_frame ..)
      · rename_i y13 y14
        refine kept_ite ?_ ?_
        · exact .step (by decide) h5 (refuseSub_frame ..)
        · split
          · rename_i y15 y16 y17 y18
            have h19 : Kept [.jr, .host, .reg, .mem, .adm, .cores] s y17 := by
              refine .of_pair y18 ?_
              exact .step (by decide) h5 (readStruct_frame ..)
            split
            · rename_i y20
              exact .step (by decide) h19 (refuseSub_frame ..)
            · rename_i y21 y22
              split
              · rename_i y23 y24 y25
                exact .step (by decide) h19 (refuseSub_frame ..)
              · rename_i y26 y27
                split
                · rename_i y28 y29 y30
                  exact .step (by decide) h19 (refuseSub_frame ..)
                · rename_i y31 y32 y33
                  refine kept_ite ?_ ?_
                  · exact .step (by decide) h19 (refuseSub_frame ..)
                  · extract_lets z34
                    split
                    · rename_i y35 y36 y37
                      exact .step (by decide) h19 (queueExec_frame ..)
                    · rename_i y38 y39
                      exact .step (by decide) h19 (updSub_frame ..)

theorem aeTurn_frame (a s) : Kept [.jr, .host, .reg, .mem, .adm, .cores] s (aeTurn a s) := by
  unfold aeTurn
  split
  · rename_i y0 y1
    exact .refl _ _
  · rename_i y2 y3 y4
    split
    · rename_i y5 y6
      exact .refl _ _
    · rename_i y7 y8 y9
      split
      · rename_i y10 y11
        exact .refl _ _
      · rename_i y12 y13 y14
        split
        · rename_i y15 y16
          exact .refl _ _
        · rename_i y17 y18 y19
          extract_lets z20 z21
          have h22 : Kept [.jr, .host, .reg, .mem, .adm, .cores] s z20 := by
            unfold z20
            exact .step (by decide) (.refl _ _) (noteWait_frame ..)
          clear_value z20
          have h23 : Kept [.jr, .host, .reg, .mem, .adm, .cores] s z21 := by
            unfold z21
            exact .step (by decide) h22 (setAe_frame ..)
          clear_value z21
          split
          · rename_i y24 y25
            exact .step (by decide) h23 (checkTurn_frame ..)
          · rename_i y26 y27 y28 y29 y30 y31
            exact .step (by decide) h23 (admitTurn_frame ..)

theorem allocBacked_frame (fn c first count va s) :
    Kept [.jr, .host, .reg, .mem, .fm, .cores] s (allocBacked fn c first count va s) := by
  unfold allocBacked
  refine kept_foldl (fun t0 x1 h2 => ?_) ?_
  · exact .step (by decide) (.step (by decide) h2 (State.setFrame_frame ..)) (writeZeroImage_frame ..)
  · exact .refl _ _

theorem refuseCmd_frame (t' code core info addr s) : Kept [.jr, .host] s (refuseCmd t' code core info addr s) := by
  unfold refuseCmd
  extract_lets z0
  rename_i w1
  refine .step (by decide) ?_ (complete_frame ..)
  refine kept_ite ?_ ?_
  · exact .step (by decide) (.refl _ _) (raiseOncePer_frame ..)
  · exact .step (by decide) (.refl _ _) (raise_frame ..)

theorem evictFrame_frame (fn lf s) : Kept [.fm] s (evictFrame fn lf s) := by
  unfold evictFrame
  split
  · rename_i y0 y1
    exact .refl _ _
  · rename_i y2 y3 y4
    exact .step (by decide) (.refl _ _) (State.setFrame_frame ..)

theorem pageOutImage_frame (fn lf f flips s) :
    Kept [.jr, .host, .reg, .mem, .fm, .cores] s (pageOutImage fn lf f flips s) := by
  unfold pageOutImage
  split
  · rename_i y0 y1
    exact .refl _ _
  · rename_i y2 y3 y4 y5
    extract_lets z6 z7 z8 z9
    rename_i w10
    have h11 : Kept [.jr, .host, .reg, .mem, .fm, .cores] s z9 := by
      unfold z9
      exact .step (by decide) (.refl _ _) (writeImage_frame ..)
    clear_value z9
    exact .step (by decide) h11 (State.setFrame_frame ..)

theorem evictOne_frame (fn lf flips s) : Kept [.jr, .host, .reg, .mem, .fm, .cores] s (evictOne fn lf flips s).2 := by
  unfold evictOne
  split
  · rename_i y0 y1
    exact .refl _ _
  · rename_i y2 y3 y4
    refine kept_ite_snd ?_ ?_
    · exact .step (by decide) (.refl _ _) (evictFrame_frame ..)
    · refine kept_ite_snd ?_ ?_
      · exact .step (by decide) (.step (by decide) (.refl _ _) (pageOutImage_frame ..)) (evictFrame_frame ..)
      · exact .step (by decide) (.refl _ _) (raiseMem_frame ..)

theorem evictUntil_frame (fn c keep done n skip s) : Kept [.jr, .host, .reg, .mem, .fm, .cores] s (evictUntil fn c keep done n skip s).2 := by
  induction n generalizing skip s with
  | zero =>
    unfold evictUntil
    exact .refl _ _
  | succ n ih =>
    unfold evictUntil
    refine kept_ite_snd ?_ ?_
    · exact .refl _ _
    · split
      · rename_i y0 y1
        exact .refl _ _
      · rename_i y2 y3 y4
        split
        · rename_i y5 y6 y7 y8
          have h9 : Kept [.jr, .host, .reg, .mem, .fm, .cores] s y7 := by
            refine .of_pair y8 ?_
            exact .step (by decide) (.refl _ _) (evictOne_frame ..)
          refine .step (fun _ h => h) ?_ (ih ..)
          exact h9

theorem allocUnbacked_frame (fn c first count s) : Kept [.fm] s (allocUnbacked fn c first count s) := by
  unfold allocUnbacked
  refine kept_foldl (fun t0 x1 h2 => ?_) ?_
  · exact .step (by decide) h2 (State.setFrame_frame ..)
  · exact .refl _ _

theorem allocEffect_frame (e t' s) : Kept [.jr, .host, .reg, .mem, .fm, .cores] s (allocEffect e t' s) := by
  unfold allocEffect
  extract_lets z0 z1 z2 z3 z4
  rename_i w5 w6 w7 w8
  have h9 : Kept [.jr, .host, .reg, .mem, .fm, .cores] s w6.2 := by
    unfold w6
    exact .step (by decide) (.refl _ _) (evictUntil_frame ..)
  clear_value w6
  have h10 : Kept [.jr, .host, .reg, .mem, .fm, .cores] s w7 := by
    unfold w7
    exact .step (by decide) h9 (allocUnbacked_frame ..)
  clear_value w7
  refine kept_ite ?_ ?_
  · exact .step (by decide) (.refl _ _) (completeSt_frame ..)
  · refine kept_ite ?_ ?_
    · exact .step (by decide) (.refl _ _) (completeSt_frame ..)
    · refine kept_ite ?_ ?_
      · exact .step (by decide) (.refl _ _) (refuseCmd_frame ..)
      · refine kept_ite ?_ ?_
        · refine kept_ite ?_ ?_
          · exact .step (by decide) (.step (by decide) (.refl _ _) (allocBacked_frame ..)) (completeSt_frame ..)
          · exact .step (by decide) (.refl _ _) (refuseCmd_frame ..)
        · refine kept_ite ?_ ?_
          · refine .fm (by decide) ?_
            exact h10
          · exact .step (by decide) h9 (refuseCmd_frame ..)

theorem allocTry_frame (e t' s) : Kept [.jr, .host, .reg, .mem, .fm, .cores] s (allocTry e t' s) := by
  unfold allocTry
  refine kept_ite ?_ ?_
  · refine .fm (by decide) ?_
    exact .refl _ _
  · exact .step (by decide) (.refl _ _) (allocEffect_frame ..)

theorem meetWaiters_frame (g s) : Kept [.host, .tick] s (meetWaiters g s) := by
  unfold meetWaiters
  extract_lets z0
  rename_i w1
  have h2 : Kept [.host, .tick] s w1 := by
    unfold w1
    exact .step (by decide) (.refl _ _) (State.setGate_frame ..)
  clear_value w1
  refine kept_ite ?_ ?_
  · refine kept_foldl (fun t3 x4 h5 => ?_) ?_
    · exact .step (by decide) h5 (complete_frame ..)
    · exact h2
  · exact .refl _ _

theorem clearMoved_frame (before s) : Kept [.mem] s (clearMoved before s) := by
  unfold clearMoved
  refine .mem (by decide) (fun w => ⟨w.1, twf_filter _ w.2.1, w.2.2.1, tcanon_filter _ w.2.2.2.1, w.2.2.2.2.1, w.2.2.2.2.2⟩) ?_
  exact .refl _ _

theorem reallotPart_frame (p before s) : Kept [.cores] s (reallotPart p before s) := by
  unfold reallotPart
  extract_lets z0 z1 z2 z3 z4 z5
  refine kept_ite ?_ ?_
  · exact .refl _ _
  · exact .step (by decide) (.refl _ _) (mapCores_frame ..)

theorem readmit_frame (e s) : Kept [.adm] s (readmit e s) := by
  unfold readmit
  extract_lets z0 z1 z2
  rename_i w3
  have h4 : Kept [.adm] s z1 := by
    unfold z1
    exact .step (by decide) (.refl _ _) (dropExec_frame ..)
  clear_value z1
  refine .adm (by decide) ?_
  exact h4

theorem flushPlans_frame (p s) : Kept [.adm] s (flushPlans p s) := by
  unfold flushPlans
  extract_lets z0 z1
  rename_i w2
  have h3 : Kept [.adm] s w2 := by
    unfold w2
    refine .adm (by decide) ?_
    exact .refl _ _
  clear_value w2
  refine kept_foldl (fun t4 x5 h6 => ?_) ?_
  · exact .step (by decide) h6 (readmit_frame ..)
  · exact h3

theorem setFnPartEff_frame (f p v s) : Kept [.reg, .mem, .adm, .cores] s (setFnPartEff f p v s) := by
  unfold setFnPartEff
  extract_lets z0 z1
  rename_i w2
  have h3 : Kept [.reg, .mem, .adm, .cores] s z1 := by
    unfold z1
    refine .reg (by decide) ?_
    exact .refl _ _
  clear_value z1
  have h4 : Kept [.reg, .mem, .adm, .cores] s w2 := by
    unfold w2
    exact .step (by decide) (.step (by decide) h3 (reallotPart_frame ..)) (clearMoved_frame ..)
  clear_value w2
  refine kept_ite ?_ ?_
  · exact h4
  · exact .step (by decide) h4 (flushPlans_frame ..)

theorem applyPartPend_frame (p s) : Kept [.reg, .mem, .adm, .cores] s (applyPartPend p s) := by
  unfold applyPartPend
  refine kept_foldl (fun t0 x1 h2 => ?_) ?_
  · extract_lets z3 z4 z5 z6 z7 z8 z9 z10
    rename_i w11
    have h12 : Kept [.reg, .mem, .adm, .cores] s w11 := by
      unfold w11
      refine .reg (by decide) ?_
      exact h2
    clear_value w11
    refine kept_ite ?_ ?_
    · exact h12
    · exact .step (by decide) h12 (setFnPartEff_frame ..)
  · exact .refl _ _

theorem aqBaseEffect_frame (fn cq value s) : Kept [.host] s (aqBaseEffect fn cq value s) := by
  unfold aqBaseEffect
  refine kept_ite ?_ ?_
  · exact .refl _ _
  · refine kept_ite ?_ ?_
    · refine .host (by decide) (fun w => w) ?_
      exact .refl _ _
    · refine .host (by decide) (fun w => w) ?_
      exact .refl _ _

theorem arriveAt_frame (g n t' s) : Kept [.jr, .host, .tick] s (arriveAt g n t' s) := by
  unfold arriveAt
  split
  · rename_i y0 y1
    extract_lets z2
    have h3 : Kept [.jr, .host, .tick] s z2 := by
      unfold z2
      exact .step (by decide) (.step (by decide) (.refl _ _) (addArrivals_frame ..)) (meetWaiters_frame ..)
    clear_value z2
    split
    · rename_i y4 y5
      exact .step (by decide) h3 (completeSt_frame ..)
    · rename_i y6
      exact h3
  · rename_i y7 y8 y9
    extract_lets z10 z11
    rename_i w12
    refine .tick (by decide) ?_
    exact .refl _ _

theorem budgetCfgEffect_frame (value s) : Kept [.reg, .adm] s (budgetCfgEffect value s) := by
  unfold budgetCfgEffect
  extract_lets z0
  rename_i w1
  have h2 : Kept [.reg, .adm] s w1 := by
    unfold w1
    refine .reg (by decide) ?_
    exact .refl _ _
  clear_value w1
  exact .step (by decide) h2 (flushPlans_frame ..)

theorem setGateRej_frame (g v s) : Kept [.reg] s (setGateRej g v s) := by
  unfold setGateRej
  refine .reg (by decide) ?_
  exact .refl _ _

theorem setOwner_frame (g new s t) (h : setOwner g new s = some t) : Kept [.host, .adm, .tick] s t := by
  unfold setOwner at h
  dsimp only at h
  split at h
  · cases h
    exact .refl _ _
  · split at h
    · cases h
    · cases h
      refine .step (by decide) (.step (by decide) ?_ (completeAll_frame ..)) (flushPlans_frame ..)
      exact .tick (by decide) (.step (by decide) (.refl _ _) (State.setGate_frame ..))

theorem gateOwnerEffect_frame (g value s) : Kept [.host, .reg, .adm, .tick] s (gateOwnerEffect g value s) := by
  unfold gateOwnerEffect
  extract_lets z0
  have h1 : Kept [.host, .reg, .adm, .tick] s z0 := by
    unfold z0
    refine kept_ite ?_ ?_
    · exact .step (by decide) (.refl _ _) (setGateRej_frame ..)
    · exact .refl _ _
  clear_value z0
  split
  · rename_i y2 y3
    exact .step (by decide) h1 (setGateRej_frame ..)
  · rename_i y4 y5 y6
    have h7 : Kept [.host, .reg, .adm, .tick] s y5 := by
      refine .step (by decide) ?_ (setOwner_frame (h := y6) ..)
      exact h1
    exact h7

theorem mmuFnCfgEffect_frame (f value s) : Kept [.reg] s (mmuFnCfgEffect f value s) := by
  unfold mmuFnCfgEffect
  extract_lets z0
  rename_i w1 w2 w3 w4 w5
  have h6 : Kept [.reg] s w4 := by
    unfold w4
    refine .reg (by decide) ?_
    exact .refl _ _
  clear_value w4
  refine kept_ite ?_ ?_
  · exact .step (by decide) (.refl _ _) (mmuCfgRej_frame ..)
  · refine kept_ite ?_ ?_
    · refine .reg (by decide) ?_
      exact h6
    · exact h6

theorem evictExcess_frame (s) : Kept [.jr, .host, .reg, .mem, .fm, .cores] s (evictExcess s) := by
  unfold evictExcess
  extract_lets z0
  refine kept_foldl (fun t1 x2 h3 => ?_) ?_
  · refine kept_ite ?_ ?_
    · exact h3
    · exact .step (by decide) h3 (evictUntil_frame ..)
  · exact .refl _ _

theorem fmFnCfgEffect_frame (f value s) : Kept [.jr, .host, .reg, .mem, .fm, .cores] s (fmFnCfgEffect f value s) := by
  unfold fmFnCfgEffect
  refine kept_ite ?_ ?_
  · exact .step (by decide) (.refl _ _) (mmuCfgRej_frame ..)
  · extract_lets z0 z1
    rename_i w2
    have h3 : Kept [.jr, .host, .reg, .mem, .fm, .cores] s w2 := by
      unfold w2
      refine .reg (by decide) ?_
      exact .refl _ _
    clear_value w2
    exact .step (by decide) (.step (by decide) h3 (clearMoved_frame ..)) (evictExcess_frame ..)

theorem fnPartEffect_frame (f p value s) : Kept [.reg, .mem, .adm, .cores] s (fnPartEffect f p value s) := by
  unfold fnPartEffect
  extract_lets z0 z1 z2 z3
  rename_i w4 w5 w6 w7 w8 w9
  have h10 : Kept [.reg, .mem, .adm, .cores] s w4 := by
    unfold w4
    unfold z3
    refine .reg (by decide) ?_
    exact .refl _ _
  clear_value w4
  have h11 : Kept [.reg, .mem, .adm, .cores] s w9 := by
    unfold w9
    refine .reg (by decide) ?_
    exact h10
  clear_value w9
  refine kept_ite ?_ ?_
  · unfold z3
    refine .reg (by decide) ?_
    exact .refl _ _
  · refine kept_ite ?_ ?_
    · exact h11
    · exact .step (by decide) h11 (applyPartPend_frame ..)

theorem tickCfgEffect_frame (p value s) : Kept [.reg, .adm] s (tickCfgEffect p value s) := by
  unfold tickCfgEffect
  extract_lets z0 z1 z2 z3 z4 z5 z6 z7 z8
  rename_i w9
  have h10 : Kept [.reg, .adm] s w9 := by
    unfold w9
    refine .reg (by decide) ?_
    exact .refl _ _
  clear_value w9
  exact .step (by decide) h10 (flushPlans_frame ..)

theorem setPartRej_frame (p s) : Kept [.reg] s (setPartRej p s) := by
  unfold setPartRej
  refine .reg (by decide) ?_
  exact .refl _ _

theorem clearClusters_frame (cls s) : Kept [.mem] s (clearClusters cls s) := by
  unfold clearClusters
  refine .mem (by decide) (fun w => ⟨w.1, twf_filter _ w.2.1, w.2.2.1, tcanon_filter _ w.2.2.2.1, w.2.2.2.2.1, w.2.2.2.2.2⟩) ?_
  exact .refl _ _

theorem partClEffect_frame (p hi v s) : Kept [.reg, .mem] s (partClEffect p hi v s) := by
  unfold partClEffect
  refine kept_ite ?_ ?_
  · exact .step (by decide) (.refl _ _) (setPartRej_frame ..)
  · extract_lets z0 z1 z2
    rename_i w3
    have h4 : Kept [.reg, .mem] s z2 := by
      unfold z2
      exact .step (by decide) (.refl _ _) (clearClusters_frame ..)
    clear_value z2
    refine kept_ite ?_ ?_
    · refine .reg (by decide) ?_
      exact h4
    · refine .reg (by decide) ?_
      exact h4

theorem mntCtlEffect_frame (d value s) : Kept [.reg, .mnt] s (mntCtlEffect d value s) := by
  unfold mntCtlEffect
  refine kept_ite ?_ ?_
  · refine .upd rfl ?_ (fun w => w) (fun w => w) (.inr rfl) (.inr rfl) (.inr rfl) (.inr rfl) (.inr rfl) (.inl (by decide)) (.inr rfl) (.inr rfl) (.inr rfl) (.inr rfl) (.inr rfl) (.inr rfl) (.inr rfl) (.inl (by decide)) (.inr rfl)
    exact .refl _ _
  · exact .refl _ _

theorem countCfgEffect_frame (c value s) : Kept [.reg] s (countCfgEffect c value s) := by
  unfold countCfgEffect
  extract_lets z0
  rename_i w1 w2
  have h3 : Kept [.reg] s w1 := by
    unfold w1
    refine .reg (by decide) ?_
    exact .refl _ _
  clear_value w1
  refine kept_ite ?_ ?_
  · refine .reg (by decide) ?_
    exact h3
  · exact h3

theorem convCfgEffect_frame (c value s) : Kept [.reg] s (convCfgEffect c value s) := by
  unfold convCfgEffect
  refine kept_ite ?_ ?_
  · refine .reg (by decide) ?_
    exact .refl _ _
  · exact .refl _ _

theorem compCfgEffect_frame (c value s) : Kept [.reg] s (compCfgEffect c value s) := by
  unfold compCfgEffect
  refine kept_ite ?_ ?_
  · refine .reg (by decide) ?_
    exact .refl _ _
  · exact .refl _ _

theorem setAqCfg_frame (fn v s) : Kept [.host] s (setAqCfg fn v s) := by
  unfold setAqCfg
  refine .host (by decide) (fun w => w) ?_
  exact .refl _ _

theorem fnAqCfgEffect_frame (fn value s) : Kept [.host] s (fnAqCfgEffect fn value s) := by
  unfold fnAqCfgEffect
  refine kept_ite ?_ ?_
  · exact .refl _ _
  · refine kept_ite ?_ ?_
    · exact .refl _ _
    · extract_lets z0 z1 z2
      rename_i w3 w4 w5 w6 w7
      have h8 : Kept [.host] s w6 := by
        unfold w6
        exact .step (by decide) (.refl _ _) (setAqCfg_frame ..)
      clear_value w6
      refine kept_ite ?_ ?_
      · refine kept_ite ?_ ?_
        · refine .host (by decide) (fun w => w) ?_
          exact h8
        · exact .step (by decide) (.refl _ _) (setAqCfg_frame ..)
      · exact .step (by decide) (.refl _ _) (setAqCfg_frame ..)

theorem msixWrite_frame (f h' v s) : Kept [.host] s (msixWrite f h' v s) := by
  unfold msixWrite
  extract_lets z0 z1 z2 z3
  rename_i w4
  refine kept_ite ?_ ?_
  · refine .host (by decide) (fun w => HostIf.unmask_wf (hw := w) ..) ?_
    exact .refl _ _
  · refine .host (by decide) (fun w => w) ?_
    exact .refl _ _

theorem writeReg_frame (r v s) : Kept [.jr, .host, .reg, .mem, .fm, .adm, .tick, .cores, .mnt] s (writeReg r v s) := by
  unfold writeReg
  extract_lets z0
  rename_i w1 w2
  split
  · rename_i y3
    refine .reg (by decide) ?_
    exact .refl _ _
  · rename_i y4
    exact .step (by decide) (.refl _ _) (budgetCfgEffect_frame ..)
  · rename_i y5
    refine .reg (by decide) ?_
    exact .refl _ _
  · rename_i y6 y7
    exact .step (by decide) (.refl _ _) (gateOwnerEffect_frame ..)
  · rename_i y8 y9 y10
    exact .step (by decide) (.refl _ _) (winCfgEffect_frame ..)
  · rename_i y11 y12
    exact .step (by decide) (.refl _ _) (mmuFnCfgEffect_frame ..)
  · rename_i y13 y14
    exact .step (by decide) (.refl _ _) (fmFnCfgEffect_frame ..)
  · rename_i y15 y16 y17
    exact .step (by decide) (.refl _ _) (fnPartEffect_frame ..)
  · rename_i y18 y19
    exact .step (by decide) (.refl _ _) (tickCfgEffect_frame ..)
  · rename_i y20 y21
    refine kept_ite ?_ ?_
    · refine .reg (by decide) ?_
      exact .refl _ _
    · exact .refl _ _
  · rename_i y22 y23 y24
    exact .step (by decide) (.refl _ _) (partClEffect_frame ..)
  · rename_i y25 y26
    exact .step (by decide) (.refl _ _) (mntCtlEffect_frame ..)
  · rename_i y27 y28
    exact .step (by decide) (.refl _ _) (countCfgEffect_frame ..)
  · rename_i y29 y30
    exact .step (by decide) (.refl _ _) (convCfgEffect_frame ..)
  · rename_i y31 y32
    exact .step (by decide) (.refl _ _) (compCfgEffect_frame ..)
  · rename_i y33 y34
    refine kept_ite ?_ ?_
    · refine .host (by decide) (fun w => w) ?_
      exact .refl _ _
    · exact .refl _ _
  · rename_i y35 y36
    exact .step (by decide) (.refl _ _) (fnAqCfgEffect_frame ..)
  · rename_i y37 y38
    exact .step (by decide) (.refl _ _) (aqBaseEffect_frame ..)
  · rename_i y39 y40
    exact .step (by decide) (.refl _ _) (aqBaseEffect_frame ..)
  · rename_i y41 y42 y43
    exact .step (by decide) (.refl _ _) (msixWrite_frame ..)
  · rename_i y44 y45
    exact .refl _ _
  · rename_i y46 y47
    exact .refl _ _
  · rename_i y48 y49
    exact .refl _ _
  · rename_i y50 y51
    exact .refl _ _
  · rename_i y52 y53
    exact .refl _ _
  · rename_i y54 y55
    exact .refl _ _
  · rename_i y56 y57
    exact .refl _ _
  · rename_i y58 y59
    exact .refl _ _
  · rename_i y60 y61
    exact .refl _ _
  · rename_i y62 y63
    exact .refl _ _
  · rename_i y64 y65
    exact .refl _ _

theorem bar0Write_frame (fn off v width s) :
    Kept [.jr, .host, .reg, .mem, .fm, .adm, .tick, .cores, .mnt] s (bar0Write fn off v width s) := by
  unfold bar0Write
  extract_lets z0
  refine kept_ite ?_ ?_
  · exact .refl _ _
  · split
    · rename_i y1 y2
      exact .refl _ _
    · rename_i y3 y4 y5 y6 y7 y8
      refine kept_ite ?_ ?_
      · exact .refl _ _
      · refine kept_ite ?_ ?_
        · exact .step (by decide) (.refl _ _) (writeReg_frame ..)
        · extract_lets z9
          refine withHalf_frame (by decide) (fun u10 u11 u12 => ?_) ?_
          · exact .step (by decide) u12 (writeReg_frame ..)
          · exact .refl _ _

theorem sqTailEffect_frame (fn q value width s) : Kept [.host] s (sqTailEffect fn q value width s) := by
  unfold sqTailEffect
  refine kept_ite ?_ ?_
  · exact .refl _ _
  · split
    · rename_i y0 y1
      refine .host (by decide) (fun w => HostIf.dbError_wf (hw := w) ..) ?_
      exact .refl _ _
    · rename_i y2 y3 y4
      refine kept_ite ?_ ?_
      · refine .host (by decide) (fun w => HostIf.fetchAll_wf (hw := w) ..) ?_
        exact .refl _ _
      · refine .host (by decide) (fun w => HostIf.dbError_wf (hw := w) ..) ?_
        exact .refl _ _

theorem cqHeadEffect_frame (fn q value width s) : Kept [.host] s (cqHeadEffect fn q value width s) := by
  unfold cqHeadEffect
  refine kept_ite ?_ ?_
  · exact .refl _ _
  · split
    · rename_i y0 y1
      refine .host (by decide) (fun w => HostIf.dbError_wf (hw := w) ..) ?_
      exact .refl _ _
    · rename_i y2 y3 y4
      refine kept_ite ?_ ?_
      · extract_lets z5
        rename_i w6
        refine .host (by decide) (fun w => HostIf.fetchAll_wf (hw := (HostIf.finishDelete_wf (hw := (HostIf.postReady_wf (hw := w) ..)) ..)) ..) ?_
        exact .refl _ _
      · refine .host (by decide) (fun w => HostIf.dbError_wf (hw := w) ..) ?_
        exact .refl _ _

theorem eqHeadEffect_frame (fn value width s) : Kept [.host] s (eqHeadEffect fn value width s) := by
  unfold eqHeadEffect
  refine kept_ite ?_ ?_
  · exact .refl _ _
  · split
    · rename_i y0 y1
      refine .host (by decide) (fun w => HostIf.dbError_wf (hw := w) ..) ?_
      exact .refl _ _
    · rename_i y2 y3 y4
      refine kept_ite ?_ ?_
      · refine .host (by decide) (fun w => w) ?_
        exact .refl _ _
      · refine .host (by decide) (fun w => HostIf.dbError_wf (hw := w) ..) ?_
        exact .refl _ _

theorem makeRoom_frame (e c n skip s) : Kept [.jr, .host, .fm] s (makeRoom e c n skip s).2 := by
  induction n generalizing skip s with
  | zero =>
    unfold makeRoom
    exact .refl _ _
  | succ n ih =>
    unfold makeRoom
    extract_lets z0
    refine kept_ite_snd ?_ ?_
    · exact .refl _ _
    · refine kept_ite_snd ?_ ?_
      · exact .refl _ _
      · split
        · rename_i y1 y2
          exact .refl _ _
        · rename_i y3 y4 y5
          split
          · rename_i y6 y7
            exact .refl _ _
          · rename_i y8 y9 y10
            refine kept_ite_snd ?_ ?_
            · refine .step (fun _ h => h) ?_ (ih ..)
              exact .step (by decide) (.refl _ _) (evictFrame_frame ..)
            · refine kept_ite_snd ?_ ?_
              · refine .step (fun _ h => h) ?_ (ih ..)
                exact .step (by decide) (.refl _ _) (raiseMem_frame ..)
              · refine kept_ite_snd ?_ ?_
                · exact .step (by decide) (.refl _ _) (addPaging_frame ..)
                · exact .refl _ _

theorem zeroLogMac_frame (c m s) : Kept [.fm, .mnt] s (zeroLogMac c m s) := by
  unfold zeroLogMac
  extract_lets z0
  exact .step (by decide) (.step (by decide) (.refl _ _) (restartEvac_frame ..)) (State.setMac_frame ..)

theorem buildCompanion_frame (fn lf f sparse m s) :
    Kept [.jr, .host, .fm, .mnt] s (buildCompanion fn lf f sparse m s) := by
  unfold buildCompanion
  split
  · rename_i y0 y1
    exact .refl _ _
  · rename_i y2 y3 y4 y5
    extract_lets z6 z7
    have h8 : Kept [.jr, .host, .fm, .mnt] s z7 := by
      unfold z7
      exact .step (by decide) (.refl _ _) (writePage_frame ..)
    clear_value z7
    exact .step (by decide) h8 (State.setFrame_frame ..)

theorem prepareFrame_frame (e x s) : Kept [.jr, .host, .fm, .mnt] s (prepareFrame e x s).2 := by
  unfold prepareFrame
  extract_lets z0 z1
  split
  · rename_i y2 y3
    exact .refl _ _
  · rename_i y4 y5 y6
    refine kept_ite_snd ?_ ?_
    · refine kept_ite_snd ?_ ?_
      · exact .refl _ _
      · split
        · rename_i y7 y8 y9 y10
          have h11 : Kept [.jr, .host, .fm, .mnt] s y9 := by
            refine .of_pair y10 ?_
            exact .step (by decide) (.refl _ _) (makeRoom_frame ..)
          refine kept_ite_snd ?_ ?_
          · refine kept_ite_snd ?_ ?_
            · split
              · rename_i y12 y13
                exact h11
              · rename_i y14 y15 y16
                exact .step (by decide) (.step (by decide) (.step (by decide) h11 (zeroLogMac_frame ..)) (State.setFrame_frame ..)) (addPaging_frame ..)
            · exact h11
          · exact h11
    · refine kept_ite_snd ?_ ?_
      · exact .refl _ _
      · refine kept_ite_snd ?_ ?_
        · split
          · rename_i y17 y18 y19 y20
            have h21 : Kept [.jr, .host, .fm, .mnt] s y19 := by
              refine .of_pair y20 ?_
              exact .step (by decide) (.refl _ _) (makeRoom_frame ..)
            split
            · rename_i y22 y23 y24 y25
              exact .step (by decide) h21 (buildCompanion_frame ..)
            · rename_i y26 y27 y28 y29
              exact h21
        · exact .refl _ _

theorem zeroAs_frame (c m like sparse s) : Kept [.fm, .mnt] s (zeroAs c m like sparse s) := by
  unfold zeroAs
  extract_lets z0 z1
  rename_i w2
  have h3 : Kept [.fm, .mnt] s z0 := by
    unfold z0
    exact .step (by decide) (.refl _ _) (zeroLogMac_frame ..)
  clear_value z0
  split
  · rename_i y4 y5
    extract_lets z6
    refine kept_ite ?_ ?_
    · exact .step (by decide) h3 (State.setMac_frame ..)
    · exact h3
  · rename_i y7
    exact h3

theorem newCompShadow_frame (fn lf f sh m s) : Kept [.fm, .mnt] s (newCompShadow fn lf f sh m s) := by
  unfold newCompShadow
  extract_lets z0 z1 z2
  have h3 : Kept [.fm, .mnt] s z0 := by
    unfold z0
    exact .step (by decide) (.refl _ _) (zeroAs_frame ..)
  clear_value z0
  exact .step (by decide) h3 (State.setFrame_frame ..)

theorem prepareCompShadow_frame (e lf s) : Kept [.jr, .host, .fm, .mnt] s (prepareCompShadow e lf s).2 := by
  unfold prepareCompShadow
  extract_lets z0
  split
  · rename_i y1 y2
    exact .refl _ _
  · rename_i y3 y4 y5
    split
    · rename_i y6 y7
      exact .refl _ _
    · rename_i y8 y9 y10
      refine kept_ite_snd ?_ ?_
      · split
        · rename_i y11 y12 y13 y14
          have h15 : Kept [.jr, .host, .fm, .mnt] s y13 := by
            refine .of_pair y14 ?_
            exact .step (by decide) (.refl _ _) (makeRoom_frame ..)
          split
          · rename_i y16 y17 y18 y19
            exact .step (by decide) h15 (newCompShadow_frame ..)
          · rename_i y20 y21 y22 y23
            exact h15
      · exact .refl _ _

theorem newShadow_frame (fn lf f m s) : Kept [.fm, .mnt] s (newShadow fn lf f m s) := by
  unfold newShadow
  extract_lets z0
  have h1 : Kept [.fm, .mnt] s z0 := by
    unfold z0
    exact .step (by decide) (.refl _ _) (zeroAs_frame ..)
  clear_value z0
  exact .step (by decide) h1 (State.setFrame_frame ..)

theorem prepareShadow_frame (e lf s) : Kept [.jr, .host, .fm, .mnt] s (prepareShadow e lf s).2 := by
  unfold prepareShadow
  extract_lets z0
  split
  · rename_i y1 y2
    exact .refl _ _
  · rename_i y3 y4 y5
    refine kept_ite_snd ?_ ?_
    · exact .refl _ _
    · refine kept_ite_snd ?_ ?_
      · exact .step (by decide) (.refl _ _) (prepareCompShadow_frame ..)
      · split
        · rename_i y6 y7 y8 y9
          have h10 : Kept [.jr, .host, .fm, .mnt] s y8 := by
            refine .of_pair y9 ?_
            exact .step (by decide) (.refl _ _) (makeRoom_frame ..)
          split
          · rename_i y11 y12 y13 y14
            exact .step (by decide) (.step (by decide) h10 (newShadow_frame ..)) (prepareCompShadow_frame ..)
          · rename_i y15 y16 y17 y18
            exact h10

theorem prepareNext_frame (fn p s) : Kept [.jr, .host, .fm, .adm, .tick, .cores, .mnt] s (prepareNext fn p s) := by
  unfold prepareNext
  split
  · rename_i y0 y1
    exact .refl _ _
  · rename_i y2 y3 y4
    refine kept_ite ?_ ?_
    · exact .refl _ _
    · refine kept_ite ?_ ?_
      · exact .step (by decide) (.refl _ _) (readmit_frame ..)
      · extract_lets z5 z6
        have h7 : Kept [.jr, .host, .fm, .adm, .tick, .cores, .mnt] s z5.2 := by
          unfold z5
          refine kept_foldl_snd (fun t8 x9 h10 => ?_) ?_
          · split
            · rename_i y11 y12 y13 y14
              have h15 : Kept [.jr, .host, .fm, .adm, .tick, .cores, .mnt] s y13 := by
                refine .of_pair y14 ?_
                exact .step (by decide) h10 (prepareFrame_frame ..)
              exact h15
          · exact .refl _ _
        clear_value z5
        have h16 : Kept [.jr, .host, .fm, .adm, .tick, .cores, .mnt] s z6.2 := by
          unfold z6
          refine kept_ite_snd ?_ ?_
          · refine kept_foldl_snd (fun t17 x18 h19 => ?_) ?_
            · split
              · rename_i y20 y21 y22 y23
                have h24 : Kept [.jr, .host, .fm, .adm, .tick, .cores, .mnt] s y22 := by
                  refine .of_pair y23 ?_
                  exact .step (by decide) h19 (prepareShadow_frame ..)
                exact h24
            · exact h7
          · exact h7
        clear_value z6
        split
        · rename_i y25 y26
          exact .step (by decide) h16 (setExec_frame ..)
        · rename_i y27 y28
          exact .step (by decide) h16 (absorbExec_frame ..)
        · rename_i y29 y30 y31
          exact h16

theorem swapFrame_frame (fn lf keepShadow s) : Kept [.fm] s (swapFrame fn lf keepShadow s) := by
  unfold swapFrame
  split
  · rename_i y0 y1
    exact .refl _ _
  · rename_i y2 y3 y4
    split
    · rename_i y5 y6
      exact .refl _ _
    · rename_i y7 y8 y9
      extract_lets z10 z11
      exact .step (by decide) (.refl _ _) (State.setFrame_frame ..)

theorem loadImageArea_frame (fn f pg s) : Kept [.jr, .host, .reg, .mem, .cores] s (loadImageArea fn f pg s) := by
  unfold loadImageArea
  refine kept_ite ?_ ?_
  · exact .refl _ _
  · extract_lets z0
    exact .step (by decide) (.refl _ _) (writeImage_frame ..)

theorem hostSwaps_frame (s) : Kept [.jr, .host, .reg, .mem, .fm, .cores] s (hostSwaps s) := by
  unfold hostSwaps
  extract_lets z0
  refine kept_foldl (fun t1 x2 h3 => ?_) ?_
  · extract_lets z4 z5 z6
    have h7 : Kept [.jr, .host, .reg, .mem, .fm, .cores] s z6 := by
      unfold z6
      exact .step (by decide) h3 (swapFrame_frame ..)
    clear_value z6
    split
    · rename_i y8 y9 y10 y11 y12 y13
      extract_lets z14 z15 z16
      have h17 : Kept [.jr, .host, .reg, .mem, .fm, .cores] s z16 := by
        unfold z16
        exact .step (by decide) h7 (loadImageArea_frame ..)
      clear_value z16
      split
      · rename_i y18 y19 y20
        exact .step (by decide) h17 (completeSt_frame ..)
      · rename_i y21 y22
        exact h17
    · rename_i y23 y24 y25
      exact h7
  · exact .refl _ _

theorem freeTry_frame (t' fn first count s) : Kept [.host, .fm] s (freeTry t' fn first count s) := by
  unfold freeTry
  extract_lets z0
  rename_i w1
  refine kept_ite ?_ ?_
  · refine .fm (by decide) ?_
    exact .refl _ _
  · refine .step (by decide) ?_ (completeSt_frame ..)
    refine .fm (by decide) ?_
    exact .refl _ _

theorem loadInPlace_frame (fn lf f pg flips s) :
    Kept [.jr, .host, .reg, .mem, .fm, .cores, .mnt] s (loadInPlace fn lf f pg flips s) := by
  unfold loadInPlace
  split
  · rename_i y0 y1
    exact .refl _ _
  · rename_i y2 y3 y4
    extract_lets z5 z6 z7 z8 z9
    rename_i w10
    have h11 : Kept [.jr, .host, .reg, .mem, .fm, .cores, .mnt] s z7 := by
      unfold z7
      exact .step (by decide) (.refl _ _) (writePage_frame ..)
    clear_value z7
    have h12 : Kept [.jr, .host, .reg, .mem, .fm, .cores, .mnt] s z8 := by
      unfold z8
      refine kept_foldl (fun t13 x14 h15 => ?_) ?_
      · exact .step (by decide) h15 (writePage_frame ..)
      · exact h11
    clear_value z8
    have h16 : Kept [.jr, .host, .reg, .mem, .fm, .cores, .mnt] s w10 := by
      unfold w10
      exact .step (by decide) h12 (State.setFrame_frame ..)
    clear_value w10
    exact .step (by decide) h16 (loadImageArea_frame ..)

theorem loadShadow_frame (t' fn lf f pg flips s) : Kept [.jr, .host, .fm, .mnt] s (loadShadow t' fn lf f pg flips s) := by
  unfold loadShadow
  extract_lets z0 z1 z2 z3
  rename_i w4 w5
  split
  · rename_i y6 y7
    exact .refl _ _
  · rename_i y8 y9 y10
    extract_lets z11 z12 z13
    have h14 : Kept [.jr, .host, .fm, .mnt] s z11 := by
      unfold z11
      exact .step (by decide) (.refl _ _) (writePage_frame ..)
    clear_value z11
    have h15 : Kept [.jr, .host, .fm, .mnt] s z12 := by
      unfold z12
      refine kept_foldl (fun t16 x17 h18 => ?_) ?_
      · exact .step (by decide) h18 (writePage_frame ..)
      · exact h14
    clear_value z12
    exact .step (by decide) h15 (State.setFrame_frame ..)

theorem loadAct_frame (t fn lf pg flips s u) (h : loadAct t fn lf pg flips s = some u) :
    Kept [.jr, .host, .reg, .mem, .fm, .cores, .mnt] s u := by
  unfold loadAct at h
  split at h
  · cases h
    exact .step (by decide) (.refl _ _) (completeSt_frame ..)
  · split at h
    · cases h
      refine .step (by decide) (.step (by decide) ?_ (State.setFrame_frame ..)) (completeSt_frame ..)
      exact .step (by decide) (.refl _ _) (loadImageArea_frame ..)
    · split at h
      · cases h
      · split at h
        · cases h
        · split at h
          · cases h
          · split at h
            · cases h
              exact .step (by decide) (.step (by decide) (.refl _ _) (loadInPlace_frame ..)) (completeSt_frame ..)
            · extract_lets keep need r at h
              have hr : Kept [.jr, .host, .reg, .mem, .fm, .cores, .mnt] s r.2 :=
                .step (by decide) (.refl _ _) (evictUntil_frame ..)
              clear_value r
              split at h
              · cases h
                exact .step (by decide) hr (loadShadow_frame ..)
              · cases h

theorem loadTry_frame (t fn lf va flips s) : Kept [.jr, .host, .reg, .mem, .fm, .cores, .mnt] s (loadTry t fn lf va flips s) := by
  unfold loadTry
  refine kept_ite (.step (by decide) (.refl _ _) (completeSt_frame ..)) ?_
  refine kept_ite (.step (by decide) (.refl _ _) (refuseCmd_frame ..)) ?_
  split
  rename_i pg u hr
  have h1 : Kept [.jr, .host, .reg, .mem, .fm, .cores, .mnt] s u := by
    refine .of_pair hr ?_
    exact .step (by decide) (.refl _ _) (readPage_frame ..)
  split
  · exact .step (by decide) h1 (refuseCmd_frame ..)
  · split
    · rename_i hl
      split at hl
      · cases hl
      · exact .step (by decide) h1 (loadAct_frame (h := hl) ..)
    · exact .fm (by decide) (.refl _ _)

theorem retryWaits_frame (s) : Kept [.jr, .host, .reg, .mem, .fm, .cores, .mnt] s (retryWaits s) := by
  unfold retryWaits
  extract_lets z0 z1
  rename_i w2
  have h3 : Kept [.jr, .host, .reg, .mem, .fm, .cores, .mnt] s w2 := by
    unfold w2
    refine .fm (by decide) ?_
    exact .refl _ _
  clear_value w2
  refine kept_foldl (fun t4 x5 h6 => ?_) ?_
  · split
    · rename_i y7 y8 y9 y10 y11
      exact .step (by decide) h6 (freeTry_frame ..)
    · rename_i y12 y13 y14 y15 y16
      exact .step (by decide) h6 (loadTry_frame ..)
    · rename_i y17 y18 y19
      exact .step (by decide) h6 (allocTry_frame ..)
    · rename_i y20 y21 y22 y23 y24
      exact h6
  · exact h3

theorem settleShadows_frame (s) : Kept [.fm] s (settleShadows s) := by
  unfold settleShadows
  refine .fm (by decide) ?_
  exact .refl _ _

theorem continuePrepare_frame (fn s) : Kept [.jr, .host, .fm, .adm, .tick, .cores, .mnt] s (continuePrepare fn s) := by
  unfold continuePrepare
  refine kept_foldl (fun t0 x1 h2 => ?_) ?_
  · exact .step (by decide) h2 (prepareNext_frame ..)
  · exact .refl _ _

theorem endPaging_frame (c p s) : Kept [.fm] s (endPaging c p s) := by
  unfold endPaging
  refine .fm (by decide) ?_
  exact .refl _ _

theorem pageOutEffect_frame (core flips s) :
    Kept [.jr, .host, .reg, .mem, .fm, .adm, .tick, .cores, .mnt] s (pageOutEffect core flips s) := by
  unfold pageOutEffect
  split
  · rename_i y0 y1
    exact .refl _ _
  · rename_i y2 y3 y4
    refine kept_ite ?_ ?_
    · exact .refl _ _
    · exact .step (by decide) (.step (by decide) (.step (by decide) (.step (by decide) (.refl _ _) (endPaging_frame ..)) (evictOne_frame ..)) (continuePrepare_frame ..)) (retryWaits_frame ..)

theorem pageInFrame_frame (fn lf f sparse flips s) :
    Kept [.jr, .host, .reg, .mem, .fm, .cores, .mnt] s (pageInFrame fn lf f sparse flips s) := by
  unfold pageInFrame
  split
  · rename_i y0 y1
    exact .refl _ _
  · rename_i y2 y3 y4
    extract_lets z5
    rename_i w6
    have h7 : Kept [.jr, .host, .reg, .mem, .fm, .cores, .mnt] s z5 := by
      unfold z5
      exact .step (by decide) (.refl _ _) (addMmuStat_frame ..)
    clear_value z5
    refine kept_ite ?_ ?_
    · exact .step (by decide) (.step (by decide) h7 (State.setFrame_frame ..)) (raiseMem_frame ..)
    · split
      · rename_i y8 y9 y10 y11
        have h12 : Kept [.jr, .host, .reg, .mem, .fm, .cores, .mnt] s y10 := by
          refine .of_pair y11 ?_
          exact .step (by decide) h7 (readPage_frame ..)
        split
        · rename_i y13
          exact .step (by decide) (.step (by decide) h12 (State.setFrame_frame ..)) (raise_frame ..)
        · rename_i y14 y15
          extract_lets z16 z17
          rename_i w18
          have h19 : Kept [.jr, .host, .reg, .mem, .fm, .cores, .mnt] s z17 := by
            unfold z17
            exact .step (by decide) h12 (writePage_frame ..)
          clear_value z17
          exact .step (by decide) h19 (State.setFrame_frame ..)

theorem pageInEffect_frame (core flips s) :
    Kept [.jr, .host, .reg, .mem, .fm, .adm, .tick, .cores, .mnt] s (pageInEffect core flips s) := by
  unfold pageInEffect
  split
  · rename_i y0 y1
    exact .refl _ _
  · rename_i y2 y3 y4
    refine kept_ite ?_ ?_
    · exact .refl _ _
    · extract_lets z5
      have h6 : Kept [.jr, .host, .reg, .mem, .fm, .adm, .tick, .cores, .mnt] s z5 := by
        unfold z5
        exact .step (by decide) (.refl _ _) (endPaging_frame ..)
      clear_value z5
      split
      · rename_i y7 y8
        exact h6
      · rename_i y9 y10 y11
        extract_lets z12
        have h13 : Kept [.jr, .host, .reg, .mem, .fm, .adm, .tick, .cores, .mnt] s z12 := by
          unfold z12
          exact .step (by decide) h6 (pageInFrame_frame ..)
        clear_value z12
        exact .step (by decide) (.step (by decide) h13 (continuePrepare_frame ..)) (retryWaits_frame ..)

theorem finishAllocs_frame (s) : Kept [.host, .fm] s (finishAllocs s) := by
  unfold finishAllocs
  extract_lets z0 z1
  rename_i w2
  have h3 : Kept [.host, .fm] s w2 := by
    unfold w2
    refine .fm (by decide) ?_
    exact .refl _ _
  clear_value w2
  refine kept_foldl (fun t4 x5 h6 => ?_) ?_
  · split
    · rename_i y7 y8 y9 y10 y11
      exact .step (by decide) h6 (completeSt_frame ..)
    · rename_i y12 y13
      exact h6
  · exact h3

theorem frameZeroingEffect_frame (core mac s) :
    Kept [.jr, .host, .reg, .mem, .fm, .cores, .mnt] s (frameZeroingEffect core mac s) := by
  unfold frameZeroingEffect
  split
  · rename_i y0 y1
    exact .refl _ _
  · rename_i y2 y3 y4 y5
    refine kept_ite ?_ ?_
    · exact .refl _ _
    · extract_lets z6 z7
      rename_i w8
      have h9 : Kept [.jr, .host, .reg, .mem, .fm, .cores, .mnt] s z6 := by
        unfold z6
        exact .step (by decide) (.refl _ _) (zeroLogMac_frame ..)
      clear_value z6
      have h10 : Kept [.jr, .host, .reg, .mem, .fm, .cores, .mnt] s w8 := by
        unfold w8
        refine .fm (by decide) ?_
        exact h9
      clear_value w8
      exact .step (by decide) (.step (by decide) (.step (by decide) h10 (setChecks_frame ..)) (finishAllocs_frame ..)) (retryWaits_frame ..)

theorem settlePend_frame (s) : Kept [.reg, .mem, .adm, .cores] s (settlePend s) := by
  unfold settlePend
  refine kept_foldl (fun t0 x1 h2 => ?_) ?_
  · refine kept_ite ?_ ?_
    · exact h2
    · exact .step (by decide) h2 (applyPartPend_frame ..)
  · exact .refl _ _

theorem resetCoreRegs_frame (c s) : Kept [.reg] s (resetCoreRegs c s) := by
  unfold resetCoreRegs
  refine .reg (by decide) ?_
  exact .refl _ _

theorem resetCoreState_frame (c s) : Kept [.reg, .mem, .cores] s (resetCoreState c s) := by
  unfold resetCoreState
  extract_lets z0
  rename_i w1
  have h2 : Kept [.reg, .mem, .cores] s z0 := by
    unfold z0
    exact .step (by decide) (.step (by decide) (.refl _ _) (State.setCore_frame ..)) (resetCoreRegs_frame ..)
  clear_value z0
  refine .mem (by decide) (fun w => ⟨w.1, twf_filter _ w.2.1, twf_map (fun e => by split <;> rfl) w.2.2.1, w.2.2.2.1, w.2.2.2.2.1, w.2.2.2.2.2⟩) ?_
  exact h2

theorem createEqEffect_frame (fn e t' s) : Kept [.host] s (createEqEffect fn e t' s) := by
  unfold createEqEffect
  refine kept_ite ?_ ?_
  · extract_lets z0
    rename_i w1
    refine .step (by decide) ?_ (completeSt_frame ..)
    refine .host (by decide) (fun w => w) ?_
    exact .refl _ _
  · exact .step (by decide) (.refl _ _) (completeSt_frame ..)

theorem createQpEffect_frame (fn e t' s) : Kept [.host] s (createQpEffect fn e t' s) := by
  unfold createQpEffect
  extract_lets z0
  rename_i w1 w2
  refine kept_ite ?_ ?_
  · refine .step (by decide) ?_ (completeSt_frame ..)
    refine .host (by decide) (fun w => w) ?_
    exact .refl _ _
  · exact .step (by decide) (.refl _ _) (completeSt_frame ..)

theorem deleteQpEffect_frame (fn e t' s) : Kept [.host] s (deleteQpEffect fn e t' s) := by
  unfold deleteQpEffect
  extract_lets z0
  rename_i w1
  split
  · rename_i y2 y3
    exact .step (by decide) (.refl _ _) (completeSt_frame ..)
  · rename_i y4 y5 y6
    refine kept_ite ?_ ?_
    · refine .host (by decide) (fun w => HostIf.finishDelete_wf (hw := w) ..) ?_
      exact .refl _ _
    · exact .step (by decide) (.refl _ _) (completeSt_frame ..)

theorem execSqTail_frame (fn q value width host s t) (h : execSqTail fn q value width host s = .next t) :
    Kept [.host] s t := by
  have e := Host.Outcome.next.inj h
  subst e
  refine .step (by decide) ?_ (sqTailEffect_frame ..)
  refine .host (by decide) (fun w => HostIf.hostWrites_wf (hw := w) ..) ?_
  exact .refl _ _

theorem execCqHead_frame (fn q value width s t) (h : execCqHead fn q value width s = .next t) :
    Kept [.host] s t := by
  have e := Host.Outcome.next.inj h
  subst e
  exact .step (by decide) (.refl _ _) (cqHeadEffect_frame ..)

theorem execEqHead_frame (fn value width s t) (h : execEqHead fn value width s = .next t) :
    Kept [.host] s t := by
  have e := Host.Outcome.next.inj h
  subst e
  exact .step (by decide) (.refl _ _) (eqHeadEffect_frame ..)

theorem submitEffect_frame (e t' s) : Kept [.jr, .host, .reg, .mem, .adm, .cores] s (submitEffect e t' s) := by
  unfold submitEffect
  extract_lets z0
  rename_i w1 w2 w3 w4 w5 w6 w7 w8
  have h9 : Kept [.jr, .host, .reg, .mem, .adm, .cores] s w7 := by
    unfold w7
    refine kept_ite ?_ ?_
    · exact .refl _ _
    · refine .adm (by decide) ?_
      exact .refl _ _
  clear_value w7
  have h10 : Kept [.jr, .host, .reg, .mem, .adm, .cores] s w8 := by
    unfold w8
    exact .step (by decide) h9 (setAe_frame ..)
  clear_value w8
  refine kept_ite ?_ ?_
  · exact .step (by decide) (.refl _ _) (completeSt_frame ..)
  · refine kept_ite ?_ ?_
    · exact .step (by decide) h10 (aeTurn_frame ..)
    · exact h10

theorem execSubmit_frame (fn q s t) (h : execSubmit fn q s = .next t) :
    Kept [.jr, .host, .reg, .mem, .adm, .cores] s t := by
  have e := Host.Outcome.next.inj h
  subst e
  refine onEntry_frame (by decide) (fun u0 u1 u2 u3 => ?_) ?_
  · exact .step (by decide) u3 (submitEffect_frame ..)
  · exact .refl _ _

theorem flushEffect_frame (e t' s) : Kept [.host, .adm] s (flushEffect e t' s) := by
  unfold flushEffect
  extract_lets z0 z1 z2
  rename_i w3
  exact .step (by decide) (.step (by decide) (.refl _ _) (flushPlans_frame ..)) (complete_frame ..)

theorem execFlush_frame (fn q s t) (h : execFlush fn q s = .next t) :
    Kept [.host, .adm] s t := by
  have e := Host.Outcome.next.inj h
  subst e
  refine onEntry_frame (by decide) (fun u0 u1 u2 u3 => ?_) ?_
  · exact .step (by decide) u3 (flushEffect_frame ..)
  · exact .refl _ _

theorem onGate_frame {L : List Comp} {s t : State} {act : Nat → Nat → Ticket → State → State} {e : Nat} {k : Ticket} (hL : [.host] ⊆ L)
    (ha : ∀ g e k u, Kept L s u → Kept L s (act g e k u)) (h : Kept L s t) : Kept L s (onGate act e k t) := by
  unfold onGate
  extract_lets z0
  refine kept_ite ?_ ?_
  · exact .step (List.Subset.trans (by decide) hL) h (completeSt_frame ..)
  · refine ha _ _ _ _ ?_
    exact h

theorem gateArmEffect_frame (g e t' s) : Kept [.host, .tick] s (gateArmEffect g e t' s) := by
  unfold gateArmEffect
  extract_lets z0 z1
  rename_i w2
  have h3 : Kept [.host, .tick] s z1 := by
    unfold z1
    exact .step (by decide) (.refl _ _) (State.setGate_frame ..)
  clear_value z1
  have h4 : Kept [.host, .tick] s w2 := by
    unfold w2
    refine kept_ite ?_ ?_
    · exact .step (by decide) h3 (meetWaiters_frame ..)
    · exact h3
  clear_value w2
  exact .step (by decide) h4 (completeSt_frame ..)

theorem execGateArm_frame (fn q s t) (h : execGateArm fn q s = .next t) :
    Kept [.host, .tick] s t := by
  have e := Host.Outcome.next.inj h
  subst e
  refine onEntry_frame (by decide) (fun u0 u1 u2 u3 => ?_) ?_
  · refine onGate_frame (by decide) (fun u4 u5 u6 u7 u8 => ?_) ?_
    · exact .step (by decide) u8 (gateArmEffect_frame ..)
    · exact u3
  · exact .refl _ _

theorem gateArriveEffect_frame (g e t' s) : Kept [.jr, .host, .tick] s (gateArriveEffect g e t' s) := by
  unfold gateArriveEffect
  extract_lets z0
  refine kept_ite ?_ ?_
  · exact .step (by decide) (.refl _ _) (completeSt_frame ..)
  · exact .step (by decide) (.refl _ _) (arriveAt_frame ..)

theorem execGateArrive_frame (fn q s t) (h : execGateArrive fn q s = .next t) :
    Kept [.jr, .host, .tick] s t := by
  have e := Host.Outcome.next.inj h
  subst e
  refine onEntry_frame (by decide) (fun u0 u1 u2 u3 => ?_) ?_
  · refine onGate_frame (by decide) (fun u4 u5 u6 u7 u8 => ?_) ?_
    · exact .step (by decide) u8 (gateArriveEffect_frame ..)
    · exact u3
  · exact .refl _ _

theorem gateWaitEffect_frame (g a t' s) : Kept [.host, .tick] s (gateWaitEffect g a t' s) := by
  unfold gateWaitEffect
  extract_lets z0
  rename_i w1
  refine kept_ite ?_ ?_
  · exact .step (by decide) (.refl _ _) (complete_frame ..)
  · refine kept_ite ?_ ?_
    · exact .step (by decide) (.refl _ _) (completeSt_frame ..)
    · exact .step (by decide) (.refl _ _) (State.setGate_frame ..)

theorem execGateWait_frame (fn q s t) (h : execGateWait fn q s = .next t) :
    Kept [.host, .tick] s t := by
  have e := Host.Outcome.next.inj h
  subst e
  refine onEntry_frame (by decide) (fun u0 u1 u2 u3 => ?_) ?_
  · refine onGate_frame (by decide) (fun u4 u5 u6 u7 u8 => ?_) ?_
    · exact .step (by decide) u8 (gateWaitEffect_frame ..)
    · exact u3
  · exact .refl _ _

theorem execCreateQp_frame (fn q s t) (h : execCreateQp fn q s = .next t) :
    Kept [.host] s t := by
  have e := Host.Outcome.next.inj h
  subst e
  refine onEntry_frame (by decide) (fun u0 u1 u2 u3 => ?_) ?_
  · exact .step (by decide) u3 (createQpEffect_frame ..)
  · exact .refl _ _

theorem execDeleteQp_frame (fn q s t) (h : execDeleteQp fn q s = .next t) :
    Kept [.host] s t := by
  have e := Host.Outcome.next.inj h
  subst e
  refine onEntry_frame (by decide) (fun u0 u1 u2 u3 => ?_) ?_
  · exact .step (by decide) u3 (deleteQpEffect_frame ..)
  · exact .refl _ _

theorem execCreateEq_frame (fn q s t) (h : execCreateEq fn q s = .next t) :
    Kept [.host] s t := by
  have e := Host.Outcome.next.inj h
  subst e
  refine onEntry_frame (by decide) (fun u0 u1 u2 u3 => ?_) ?_
  · exact .step (by decide) u3 (createEqEffect_frame ..)
  · exact .refl _ _

theorem execAlloc_frame (fn q s t) (h : execAlloc fn q s = .next t) :
    Kept [.jr, .host, .reg, .mem, .fm, .cores] s t := by
  have e := Host.Outcome.next.inj h
  subst e
  refine onEntry_frame (by decide) (fun u0 u1 u2 u3 => ?_) ?_
  · exact .step (by decide) u3 (allocTry_frame ..)
  · exact .refl _ _

theorem execFrameZeroing_frame (core mac s t) (h : execFrameZeroing core mac s = .next t) :
    Kept [.jr, .host, .reg, .mem, .fm, .cores, .mnt] s t := by
  have e := Host.Outcome.next.inj h
  subst e
  exact .step (by decide) (.refl _ _) (frameZeroingEffect_frame ..)

theorem execFree_frame (fn q s t) (h : execFree fn q s = .next t) :
    Kept [.jr, .host, .reg, .mem, .fm, .cores, .mnt] s t := by
  have e := Host.Outcome.next.inj h
  subst e
  refine onEntry_frame (by decide) (fun u0 u1 u2 u3 => ?_) ?_
  · exact .step (by decide) (.step (by decide) u3 (freeTry_frame ..)) (retryWaits_frame ..)
  · exact .refl _ _

theorem execLoad_frame (fn q flips s t) (h : execLoad fn q flips s = .next t) :
    Kept [.jr, .host, .reg, .mem, .fm, .cores, .mnt] s t := by
  have e := Host.Outcome.next.inj h
  subst e
  refine onEntry_frame (by decide) (fun u0 u1 u2 u3 => ?_) ?_
  · exact .step (by decide) u3 (loadTry_frame ..)
  · exact .refl _ _

theorem gateOwnEffect_frame (e t' s) : Kept [.host, .adm, .tick] s (gateOwnEffect e t' s) := by
  unfold gateOwnEffect
  split
  · rename_i y0 y1
    exact .step (by decide) (.refl _ _) (completeSt_frame ..)
  · rename_i y2 y3 y4
    have h5 : Kept [.host, .adm, .tick] s y3 := by
      refine .step (by decide) ?_ (setOwner_frame (h := y4) ..)
      exact .refl _ _
    exact .step (by decide) h5 (completeSt_frame ..)

theorem execGateOwn_frame (fn q s t) (h : execGateOwn fn q s = .next t) :
    Kept [.host, .adm, .tick] s t := by
  have e := Host.Outcome.next.inj h
  subst e
  refine onEntry_frame (by decide) (fun u0 u1 u2 u3 => ?_) ?_
  · exact .step (by decide) u3 (gateOwnEffect_frame ..)
  · exact .refl _ _

theorem execFmFnCfgWrite_frame (fn value s t) (h : execFmFnCfgWrite fn value s = .next t) :
    Kept [.jr, .host, .reg, .mem, .fm, .cores] s t := by
  have e := Host.Outcome.next.inj h
  subst e
  refine kept_ite ?_ ?_
  · exact .step (by decide) (.refl _ _) (fmFnCfgEffect_frame ..)
  · exact .refl _ _

theorem execFnPartCfgWrite_frame (fn part value s t) (h : execFnPartCfgWrite fn part value s = .next t) :
    Kept [.reg, .mem, .adm, .cores] s t := by
  have e := Host.Outcome.next.inj h
  subst e
  refine kept_ite ?_ ?_
  · exact .step (by decide) (.refl _ _) (fnPartEffect_frame ..)
  · exact .refl _ _

theorem execTickCfgWrite_frame (part value s t) (h : execTickCfgWrite part value s = .next t) :
    Kept [.reg, .adm] s t := by
  have e := Host.Outcome.next.inj h
  subst e
  refine kept_ite ?_ ?_
  · exact .step (by decide) (.refl _ _) (tickCfgEffect_frame ..)
  · exact .refl _ _

theorem execAdmBudgetCfgWrite_frame (value s t) (h : execAdmBudgetCfgWrite value s = .next t) :
    Kept [.reg, .adm] s t := by
  have e := Host.Outcome.next.inj h
  subst e
  refine kept_ite ?_ ?_
  · exact .step (by decide) (.refl _ _) (budgetCfgEffect_frame ..)
  · exact .refl _ _

theorem execGateOwnerWrite_frame (gate value s t) (h : execGateOwnerWrite gate value s = .next t) :
    Kept [.host, .reg, .adm, .tick] s t := by
  have e := Host.Outcome.next.inj h
  subst e
  refine kept_ite ?_ ?_
  · exact .step (by decide) (.refl _ _) (gateOwnerEffect_frame ..)
  · exact .refl _ _

theorem execPartClWrite_frame (part hi half value s t) (h : execPartClWrite part hi half value s = .next t) :
    Kept [.host, .reg, .mem] s t := by
  have e := Host.Outcome.next.inj h
  subst e
  refine kept_ite ?_ ?_
  · refine withHalf_frame (by decide) (fun u0 u1 u2 => ?_) ?_
    · exact .step (by decide) u2 (partClEffect_frame ..)
    · exact .refl _ _
  · exact .refl _ _

theorem execFnAqCfgWrite_frame (fn value s t) (h : execFnAqCfgWrite fn value s = .next t) :
    Kept [.host] s t := by
  have e := Host.Outcome.next.inj h
  subst e
  exact .step (by decide) (.refl _ _) (fnAqCfgEffect_frame ..)

theorem execCsqCountClrStats_frame (core value s t) (h : execCsqCountClrStats core value s = .next t) :
    Kept [.reg] s t := by
  have e := Host.Outcome.next.inj h
  subst e
  refine kept_ite ?_ ?_
  · exact .step (by decide) (.refl _ _) (countCfgEffect_frame ..)
  · exact .refl _ _

theorem execSeConvClrStats_frame (core value s t) (h : execSeConvClrStats core value s = .next t) :
    Kept [.reg] s t := by
  have e := Host.Outcome.next.inj h
  subst e
  refine kept_ite ?_ ?_
  · exact .step (by decide) (.refl _ _) (convCfgEffect_frame ..)
  · exact .refl _ _

theorem execSeCompClrStats_frame (core value s t) (h : execSeCompClrStats core value s = .next t) :
    Kept [.reg] s t := by
  have e := Host.Outcome.next.inj h
  subst e
  refine kept_ite ?_ ?_
  · exact .step (by decide) (.refl _ _) (compCfgEffect_frame ..)
  · exact .refl _ _

theorem execMmuFnClrStats_frame (fn value s t) (h : execMmuFnClrStats fn value s = .next t) :
    Kept [.reg] s t := by
  have e := Host.Outcome.next.inj h
  subst e
  refine kept_ite ?_ ?_
  · exact .step (by decide) (.refl _ _) (mmuFnCfgEffect_frame ..)
  · exact .refl _ _

theorem execMntDieClrStats_frame (die value s t) (h : execMntDieClrStats die value s = .next t) :
    Kept [.reg, .mnt] s t := by
  have e := Host.Outcome.next.inj h
  subst e
  refine kept_ite ?_ ?_
  · exact .step (by decide) (.refl _ _) (mntCtlEffect_frame ..)
  · exact .refl _ _

theorem execMsixUnmask_frame (fn vector s t) (h : execMsixUnmask fn vector s = .next t) :
    Kept [.host] s t := by
  have e := Host.Outcome.next.inj h
  subst e
  refine kept_ite ?_ ?_
  · refine .host (by decide) (fun w => HostIf.unmask_wf (hw := w) ..) ?_
    exact .refl _ _
  · exact .refl _ _

theorem execCoalescingTimeout_frame (fn queue s t) (h : execCoalescingTimeout fn queue s = .next t) :
    Kept [.host] s t := by
  have e := Host.Outcome.next.inj h
  subst e
  refine .host (by decide) (fun w => HostIf.coalesced_wf (hw := w) ..) ?_
  exact .refl _ _

theorem execAeTurn_frame (ae s t) (h : execAeTurn ae s = .next t) :
    Kept [.jr, .host, .reg, .mem, .adm, .cores] s t := by
  have e := Host.Outcome.next.inj h
  subst e
  exact .step (by decide) (.refl _ _) (aeTurn_frame ..)

theorem execExecutionPrepare_frame (fn part s t) (h : execExecutionPrepare fn part s = .next t) :
    Kept [.jr, .host, .fm, .adm, .tick, .cores, .mnt] s t := by
  have e := Host.Outcome.next.inj h
  subst e
  exact .step (by decide) (.refl _ _) (prepareNext_frame ..)

theorem execPageOut_frame (core flips s t) (h : execPageOut core flips s = .next t) :
    Kept [.jr, .host, .reg, .mem, .fm, .adm, .tick, .cores, .mnt] s t := by
  have e := Host.Outcome.next.inj h
  subst e
  exact .step (by decide) (.refl _ _) (pageOutEffect_frame ..)

theorem execPageIn_frame (core flips s t) (h : execPageIn core flips s = .next t) :
    Kept [.jr, .host, .reg, .mem, .fm, .adm, .tick, .cores, .mnt] s t := by
  have e := Host.Outcome.next.inj h
  subst e
  exact .step (by decide) (.refl _ _) (pageInEffect_frame ..)

theorem lowHalfReadEffect_frame (fn off s) : Kept [.host] s (lowHalfReadEffect fn off s) := by
  unfold lowHalfReadEffect
  split
  · rename_i y0 y1 y2 y3 y4
    refine kept_ite ?_ ?_
    · extract_lets z5
      rename_i w6
      refine .host (by decide) (fun w => w) ?_
      exact .refl _ _
    · exact .refl _ _
  · rename_i y7 y8
    exact .refl _ _

end Sys2Proof.Machine
end

