-- ==== Sys2Proof/Laws/FrameTick.lean ====
section
/-!
SUPPORT. What each operation leaves as it was: links, spares, the tick and resets.

The lemma `f_frame` says that `f` changes no component of the state outside the list it names, and keeps the
memories in canonical form.
-/

namespace Sys2Proof.Machine

open Sys2Proof

theorem abandonMaintenance_frame (cores s) : Kept [.mnt] s (abandonMaintenance cores s) := by
  unfold abandonMaintenance
  extract_lets z0 z1
  rename_i w2
  refine .mnt (by decide) ?_
  exact .refl _ _

theorem dropArmed_frame (id s) : Kept [.host, .tick] s (dropArmed id s) := by
  unfold dropArmed
  extract_lets z0
  refine kept_foldl (fun t1 x2 h3 => ?_) ?_
  · extract_lets z4
    exact .step (by decide) (.step (by decide) h3 (State.setGate_frame ..)) (completeAll_frame ..)
  · exact .refl _ _

theorem absorbWhere_frame (hit s) : Kept [.host, .adm, .tick, .cores] s (absorbWhere hit s) := by
  unfold absorbWhere
  refine kept_foldl (fun t0 x1 h2 => ?_) ?_
  · exact .step (by decide) (.step (by decide) h2 (dropArmed_frame ..)) (absorbExec_frame ..)
  · exact .refl _ _

theorem absorbOn_frame (cores s) : Kept [.host, .adm, .tick, .cores] s (absorbOn cores s) := by
  unfold absorbOn
  exact .step (by decide) (.refl _ _) (absorbWhere_frame ..)

theorem sendMsg_frame (m s) : Kept [.host] s (sendMsg m s) := by
  unfold sendMsg
  refine .host (by decide) (fun w => w) ?_
  exact .refl _ _

theorem idleLinks_frame (s) : Kept [.net] s (idleLinks s) := by
  unfold idleLinks
  refine kept_foldl (fun t0 x1 h2 => ?_) ?_
  · extract_lets z3 z4
    exact .step (by decide) h2 (State.setLink_frame ..)
  · exact .refl _ _

theorem enterState_frame (m s) : Kept [.life, .jr, .host] s (enterState m s) := by
  unfold enterState
  refine kept_ite ?_ ?_
  · exact .refl _ _
  · refine .step (by decide) ?_ (raise_frame ..)
    refine .life (by decide) ?_
    exact .refl _ _

theorem checkPaths_frame (s) : Kept [.jr, .host, .tick] s (checkPaths s) := by
  unfold checkPaths
  refine kept_foldl (fun t0 x1 h2 => ?_) ?_
  · exact .step (by decide) (.step (by decide) h2 (State.setPart_frame ..)) (raise_frame ..)
  · exact .refl _ _

theorem flood_frame (skip w s) : Kept [.host] s (flood skip w s) := by
  unfold flood
  refine kept_foldl (fun t0 x1 h2 => ?_) ?_
  · refine kept_ite ?_ ?_
    · exact h2
    · exact .step (by decide) h2 (sendMsg_frame ..)
  · exact .refl _ _

theorem egressSeg_frame (l r i seg s) : Kept [.jr, .host, .reg] s (egressSeg l r i seg s).2 := by
  unfold egressSeg
  exact .snd (.step (by decide) (.refl _ _) (verifyBlk_frame ..))

theorem egressAll_frame (l r s) : Kept [.jr, .host, .reg] s (egressAll l r s).2 := by
  unfold egressAll
  refine kept_foldl_snd (fun t0 x1 h2 => ?_) (.refl _ _)
  exact .snd (.step (by decide) h2 (egressSeg_frame ..))

theorem noteSent_frame (l r s) : Kept [.net] s (noteSent l r s) := by
  unfold noteSent
  refine kept_ite ?_ ?_
  · refine .net (by decide) ?_
    exact .refl _ _
  · exact .refl _ _

theorem transmit_frame (l i r s) : Kept [.jr, .host, .reg, .net] s (transmit l i r s) := by
  unfold transmit
  extract_lets z0 z1 z2 z3 z4 z5 z6 z7
  have h8 : Kept [.jr, .host, .reg, .net] s z0.2 := by
    unfold z0
    exact .step (by decide) (.refl _ _) (egressAll_frame ..)
  clear_value z0
  have h9 : Kept [.jr, .host, .reg, .net] s z1 := by
    unfold z1
    exact h8
  clear_value z1
  exact .step (by decide) (.step (by decide) (.step (by decide) (.step (by decide) h9 (State.setLink_frame ..)) (sendMsg_frame ..)) (noteWork_frame ..)) (noteSent_frame ..)

theorem pump_frame (l n s) : Kept [.jr, .host, .reg, .net] s (pump l n s) := by
  induction n generalizing s with
  | zero =>
    unfold pump
    exact .refl _ _
  | succ n ih =>
    unfold pump
    split
    · rename_i y0 y1
      exact .refl _ _
    · rename_i y2 y3 y4
      split
      · rename_i y5 y6
        exact .refl _ _
      · rename_i y7 y8 y9
        refine .step (fun _ h => h) ?_ (ih ..)
        exact .step (by decide) (.refl _ _) (transmit_frame ..)

theorem sendOn_frame (l r s) : Kept [.jr, .host, .reg, .net] s (sendOn l r s) := by
  unfold sendOn
  extract_lets z0
  exact .step (by decide) (.step (by decide) (.refl _ _) (State.setLink_frame ..)) (pump_frame ..)

theorem raiseRoute_frame (link rtype status dst s) : Kept [.jr, .host] s (raiseRoute link rtype status dst s) := by
  unfold raiseRoute
  exact .step (by decide) (.refl _ _) (raise_frame ..)

theorem dropTag_frame (tag s) : Kept [.net] s (dropTag tag s) := by
  unfold dropTag
  refine .net (by decide) ?_
  exact .refl _ _

theorem onTag_frame (core tag f s) : Kept [.cores] s (onTag core tag f s) := by
  unfold onTag
  extract_lets z0 z1
  exact .step (by decide) (.refl _ _) (State.setCore_frame ..)

theorem failWrite_frame (core tag n elems s) : Kept [.cores] s (failWrite core tag n elems s) := by
  unfold failWrite
  extract_lets z0
  split
  · rename_i y1 y2
    exact .refl _ _
  · rename_i y3 y4 y5
    split
    · rename_i y6 y7 y8 y9
      exact .step (by decide) (.step (by decide) (.refl _ _) (State.setCore_frame ..)) (onTag_frame ..)

theorem failAccess_frame (x status s) : Kept [.jr, .host, .cores, .net] s (failAccess x status s) := by
  unfold failAccess
  extract_lets z0
  have h1 : Kept [.jr, .host, .cores, .net] s z0 := by
    unfold z0
    refine .step (by decide) ?_ (dropTag_frame ..)
    refine kept_ite ?_ ?_
    · exact .step (by decide) (.refl _ _) (outOfWindow_frame ..)
    · exact .refl _ _
  clear_value z0
  refine kept_ite ?_ ?_
  · exact .step (by decide) h1 (failWrite_frame ..)
  · exact .step (by decide) h1 (onTag_frame ..)

theorem sendRecord_frame (r s) : Kept [.jr, .host, .reg, .net] s (sendRecord r s).2 := by
  unfold sendRecord
  split
  · rename_i y0 y1
    exact .refl _ _
  · rename_i y2 y3 y4
    exact .step (by decide) (.refl _ _) (sendOn_frame ..)

theorem sendAnswer_frame (back r s) : Kept [.jr, .host, .reg, .net] s (sendAnswer back r s) := by
  unfold sendAnswer
  refine kept_ite ?_ ?_
  · exact .step (by decide) (.refl _ _) (sendOn_frame ..)
  · split
    · rename_i y0 y1 y2
      have h3 : Kept [.jr, .host, .reg, .net] s y1 := by
        refine .of_pair y2 ?_
        exact .step (by decide) (.refl _ _) (sendRecord_frame ..)
      exact h3
    · rename_i y4 y5 y6
      have h7 : Kept [.jr, .host, .reg, .net] s y5 := by
        refine .of_pair y6 ?_
        exact .step (by decide) (.refl _ _) (sendRecord_frame ..)
      exact .step (by decide) h7 (raiseRoute_frame ..)

theorem statusAnswer_frame (back r status s) : Kept [.jr, .host, .reg, .net] s (statusAnswer back r status s) := by
  unfold statusAnswer
  exact .step (by decide) (.refl _ _) (sendAnswer_frame ..)

theorem noRoute_frame (l r s) : Kept [.jr, .host, .reg, .cores, .net] s (noRoute l r s) := by
  unfold noRoute
  extract_lets z0
  have h1 : Kept [.jr, .host, .reg, .cores, .net] s z0 := by
    unfold z0
    exact .step (by decide) (.refl _ _) (raiseRoute_frame ..)
  clear_value z0
  refine kept_ite ?_ ?_
  · refine kept_ite ?_ ?_
    · split
      · rename_i y2 y3 y4
        exact .step (by decide) h1 (failAccess_frame ..)
      · rename_i y5 y6
        exact h1
    · exact .step (by decide) h1 (statusAnswer_frame ..)
  · exact h1

theorem reroute_frame (l r s) : Kept [.jr, .host, .reg, .cores, .net] s (reroute l r s) := by
  unfold reroute
  split
  · rename_i y0 y1 y2
    exact .step (by decide) (.refl _ _) (sendOn_frame ..)
  · rename_i y3 y4
    exact .step (by decide) (.refl _ _) (noRoute_frame ..)

theorem setLinkMode_frame (l m s) : Kept [.jr, .host, .reg, .tick, .cores, .net] s (setLinkMode l m s) := by
  unfold setLinkMode
  extract_lets z0
  rename_i w1 w2 w3 w4 w5
  have h6 : Kept [.jr, .host, .reg, .tick, .cores, .net] s w1 := by
    unfold w1
    exact .step (by decide) (.refl _ _) (State.setLink_frame ..)
  clear_value w1
  have h7 : Kept [.jr, .host, .reg, .tick, .cores, .net] s w3 := by
    unfold w3
    refine .net (by decide) ?_
    exact h6
  clear_value w3
  have h8 : Kept [.jr, .host, .reg, .tick, .cores, .net] s w5 := by
    unfold w5
    exact .step (by decide) (.step (by decide) h7 (flood_frame ..)) (checkPaths_frame ..)
  clear_value w5
  refine kept_ite ?_ ?_
  · exact .refl _ _
  · refine kept_ite ?_ ?_
    · exact .step (by decide) h8 (pump_frame ..)
    · refine kept_foldl (fun t9 x10 h11 => ?_) ?_
      · exact .step (by decide) h11 (reroute_frame ..)
      · exact h8

theorem resetMailboxes_frame (fns s) : Kept [.od] s (resetMailboxes fns s) := by
  unfold resetMailboxes
  refine .od (by decide) ?_
  exact .refl _ _

theorem queueChange_frame (ch committed s) : Kept [.mnt] s (queueChange ch committed s) := by
  unfold queueChange
  refine .mnt (by decide) ?_
  exact .refl _ _

theorem raiseMnt_frame (code unit info s) : Kept [.jr, .host] s (raiseMnt code unit info s) := by
  unfold raiseMnt
  exact .step (by decide) (.refl _ _) (raiseOncePer_frame ..)

theorem requestSubst_frame (c s) : Kept [.jr, .host, .mnt] s (requestSubst c s) := by
  unfold requestSubst
  refine kept_ite ?_ ?_
  · exact .refl _ _
  · extract_lets z0 z1 z2 z3
    rename_i w4 w5 w6
    have h7 : Kept [.jr, .host, .mnt] s w4 := by
      unfold w4
      refine .mnt (by decide) ?_
      exact .refl _ _
    clear_value w4
    split
    · rename_i y8 y9 y10
      exact .step (by decide) h7 (queueChange_frame ..)
    · rename_i y11 y12
      split
      · rename_i y13 y14 y15
        exact .step (by decide) h7 (queueChange_frame ..)
      · rename_i y16 y17
        refine kept_ite ?_ ?_
        · exact h7
        · refine .step (by decide) ?_ (raiseMnt_frame ..)
          refine .mnt (by decide) ?_
          exact h7

theorem applyArrivals_frame (p n s) : Kept [.jr, .host, .tick] s (applyArrivals p n s) := by
  unfold applyArrivals
  extract_lets z0 z1 z2 z3 z4
  rename_i w5
  have h6 : Kept [.jr, .host, .tick] s z2 := by
    unfold z2
    refine .tick (by decide) ?_
    exact .refl _ _
  clear_value z2
  have h7 : Kept [.jr, .host, .tick] s z3 := by
    unfold z3
    refine kept_foldl (fun t8 x9 h10 => ?_) ?_
    · exact .step (by decide) h10 (addArrivals_frame ..)
    · exact h6
  clear_value z3
  have h11 : Kept [.jr, .host, .tick] s z4 := by
    unfold z4
    exact .step (by decide) h7 (completeAll_frame ..)
  clear_value z4
  refine kept_foldl (fun t12 x13 h14 => ?_) ?_
  · exact .step (by decide) h14 (meetWaiters_frame ..)
  · exact h11

theorem bumpRepairs_frame (d s) : Kept [.mnt] s (bumpRepairs d s) := by
  unfold bumpRepairs
  refine .mnt (by decide) ?_
  exact .refl _ _

theorem setMacroSt_frame (pm v s) : Kept [.mnt] s (setMacroSt pm v s) := by
  unfold setMacroSt
  refine .mnt (by decide) ?_
  exact .refl _ _

theorem moveChecks_frame (src dst s) : Kept [.fm] s (moveChecks src dst s) := by
  unfold moveChecks
  refine .fm (by decide) ?_
  exact .refl _ _

theorem moveCore_frame {L : List Comp} {s t : State} {c : Nat} {remap : State → State} (hL : [.fm] ⊆ L)
    (ha : ∀ u, Kept L s u → Kept L s (remap u)) (h : Kept L s t) : Kept L s (moveCore c remap t) := by
  unfold moveCore
  extract_lets z0 z1 z2
  have h3 : Kept L s z1 := by
    unfold z1
    refine ha _ ?_
    exact h
  clear_value z1
  refine kept_foldl (fun t4 x5 h6 => ?_) ?_
  · refine kept_ite ?_ ?_
    · exact h6
    · exact .step (List.Subset.trans (by decide) hL) (.step (List.Subset.trans (by decide) hL) h6 (State.setMac_frame ..)) (moveChecks_frame ..)
  · exact h3

theorem freshSlips_frame (c s) : Kept [.reg, .cores] s (freshSlips c s) := by
  unfold freshSlips
  extract_lets z0 z1
  rename_i w2 w3
  have h4 : Kept [.reg, .cores] s w2 := by
    unfold w2
    exact .step (by decide) (.refl _ _) (State.setCore_frame ..)
  clear_value w2
  refine .reg (by decide) ?_
  exact h4

theorem applyChange_frame (ch s) : Kept [.jr, .host, .reg, .mem, .fm, .cores, .mnt] s (applyChange ch s) := by
  unfold applyChange
  split
  · rename_i y0 y1 y2 y3
    extract_lets z4 z5 z6 z7
    rename_i w8
    have h9 : Kept [.jr, .host, .reg, .mem, .fm, .cores, .mnt] s z6 := by
      unfold z6
      exact .step (by decide) (.refl _ _) (State.setMac_frame ..)
    clear_value z6
    have h10 : Kept [.jr, .host, .reg, .mem, .fm, .cores, .mnt] s w8 := by
      unfold w8
      refine .mnt (by decide) ?_
      exact h9
    clear_value w8
    exact .step (by decide) (.step (by decide) (.step (by decide) h10 (setMacroSt_frame ..)) (setMacroSt_frame ..)) (bumpRepairs_frame ..)
  · rename_i y11 y12 y13 y14 y15
    extract_lets z16
    rename_i w17
    have h18 : Kept [.jr, .host, .reg, .mem, .fm, .cores, .mnt] s w17 := by
      unfold w17
      exact .step (by decide) (.refl _ _) (State.setMac_frame ..)
    clear_value w17
    refine kept_ite ?_ ?_
    · exact .step (by decide) (.step (by decide) h18 (raiseMnt_frame ..)) (bumpRepairs_frame ..)
    · exact h18
  · rename_i y19 y20 y21
    extract_lets z22
    rename_i w23
    have h24 : Kept [.jr, .host, .reg, .mem, .fm, .cores, .mnt] s z22 := by
      unfold z22
      exact .step (by decide) (.step (by decide) (.refl _ _) (setMacroSt_frame ..)) (raiseMnt_frame ..)
    clear_value z22
    refine .mnt (by decide) ?_
    exact h24
  · rename_i y25 y26
    exact .step (by decide) (.refl _ _) (setMacroSt_frame ..)
  · rename_i y27 y28 y29 y30
    extract_lets z31
    exact .step (by decide) (.refl _ _) (State.setMac_frame ..)
  · rename_i y32 y33 y34 y35
    extract_lets z36 z37 z38 z39
    rename_i w40
    have h41 : Kept [.jr, .host, .reg, .mem, .fm, .cores, .mnt] s z38 := by
      unfold z38
      refine moveCore_frame (by decide) (fun u42 u43 => ?_) ?_
      · refine .mnt (by decide) ?_
        exact u43
      · exact .refl _ _
    clear_value z38
    have h44 : Kept [.jr, .host, .reg, .mem, .fm, .cores, .mnt] s w40 := by
      unfold w40
      refine .mnt (by decide) ?_
      exact h41
    clear_value w40
    exact .step (by decide) (.step (by decide) (.step (by decide) h44 (raiseMnt_frame ..)) (freshSlips_frame ..)) (bumpRepairs_frame ..)
  · rename_i y45 y46 y47
    extract_lets z48 z49 z50 z51 z52 z53
    rename_i w54 w55
    have h56 : Kept [.jr, .host, .reg, .mem, .fm, .cores, .mnt] s z50 := by
      unfold z50
      exact .refl _ _
    clear_value z50
    have h57 : Kept [.jr, .host, .reg, .mem, .fm, .cores, .mnt] s z51 := by
      unfold z51
      refine kept_foldl (fun t58 x59 h60 => ?_) ?_
      · extract_lets z61
        refine kept_foldl (fun t62 x63 h64 => ?_) ?_
        · exact .step (by decide) (.step (by decide) h64 (State.setMac_frame ..)) (moveChecks_frame ..)
        · exact h60
      · unfold z49
        refine .mnt (by decide) ?_
        exact .refl _ _
    clear_value z51
    have h65 : Kept [.jr, .host, .reg, .mem, .fm, .cores, .mnt] s w54 := by
      unfold w54
      refine .upd rfl ?_ (fun w => w) (fun w => ⟨w.1, w.2.1, twf_filter _ w.2.2.1, w.2.2.2.1, w.2.2.2.2.1, w.2.2.2.2.2⟩) (.inr rfl) (.inr rfl) (.inr rfl) (.inr rfl) (.inr rfl) (.inr rfl) (.inl (by decide)) (.inr rfl) (.inr rfl) (.inr rfl) (.inr rfl) (.inr rfl) (.inr rfl) (.inl (by decide)) (.inr rfl)
      exact h57
    clear_value w54
    have h66 : Kept [.jr, .host, .reg, .mem, .fm, .cores, .mnt] s w55 := by
      unfold w55
      refine kept_foldl (fun t67 x68 h69 => ?_) ?_
      · exact .step (by decide) h69 (freshSlips_frame ..)
      · exact h65
    clear_value w55
    exact .step (by decide) (.step (by decide) h66 (raiseMnt_frame ..)) (bumpRepairs_frame ..)

theorem applyTrim_frame (t' s) : Kept [.fm, .mnt] s (applyTrim t' s) := by
  unfold applyTrim
  extract_lets z0 z1 z2 z3
  rename_i w4
  have h5 : Kept [.fm, .mnt] s z2 := by
    unfold z2
    exact .step (by decide) (.refl _ _) (State.setMac_frame ..)
  clear_value z2
  refine .mnt (by decide) ?_
  exact h5

theorem applyChanges_frame (p s) : Kept [.jr, .host, .reg, .mem, .fm, .cores, .mnt] s (applyChanges p s) := by
  unfold applyChanges
  extract_lets z0 z1 z2 z3
  rename_i w4
  have h5 : Kept [.jr, .host, .reg, .mem, .fm, .cores, .mnt] s z3 := by
    unfold z3
    refine .mnt (by decide) ?_
    exact .refl _ _
  clear_value z3
  have h6 : Kept [.jr, .host, .reg, .mem, .fm, .cores, .mnt] s w4 := by
    unfold w4
    refine kept_foldl (fun t7 x8 h9 => ?_) ?_
    · refine kept_foldl (fun t10 x11 h12 => ?_) ?_
      · exact .step (by decide) h12 (applyChange_frame ..)
      · exact h9
    · exact h5
  clear_value w4
  refine kept_foldl (fun t13 x14 h15 => ?_) ?_
  · exact .step (by decide) h15 (applyTrim_frame ..)
  · exact h6

theorem armGates_frame (e s) : Kept [.tick] s (armGates e s) := by
  unfold armGates
  refine kept_foldl (fun t0 x1 h2 => ?_) ?_
  · extract_lets z3
    rename_i w4
    exact .step (by decide) h2 (State.setGate_frame ..)
  · exact .refl _ _

theorem reserveSlots_frame (p s) : Kept [.pwr] s (reserveSlots p s) := by
  unfold reserveSlots
  extract_lets z0 z1
  rename_i w2
  refine .pwr (by decide) ?_
  exact .refl _ _

theorem substituteFor_frame (cores s) : Kept [.jr, .host, .reg, .mem, .fm, .cores, .mnt] s (substituteFor cores s) := by
  unfold substituteFor
  extract_lets z0 z1
  rename_i w2
  have h3 : Kept [.jr, .host, .reg, .mem, .fm, .cores, .mnt] s w2 := by
    unfold w2
    refine .mnt (by decide) ?_
    exact .refl _ _
  clear_value w2
  refine kept_foldl (fun t4 x5 h6 => ?_) ?_
  · exact .step (by decide) h6 (applyChange_frame ..)
  · exact h3

theorem substFirst_frame (e s) : Kept [.jr, .host, .reg, .mem, .fm, .adm, .cores, .mnt] s (substFirst e s) := by
  unfold substFirst
  extract_lets z0
  rename_i w1
  have h2 : Kept [.jr, .host, .reg, .mem, .fm, .adm, .cores, .mnt] s z0 := by
    unfold z0
    exact .step (by decide) (.refl _ _) (substituteFor_frame ..)
  clear_value z0
  refine .adm (by decide) ?_
  exact h2

theorem reportNext_frame (fn p s) : Kept [.jr, .host, .fm, .adm, .tick, .cores, .mnt] s (reportNext fn p s) := by
  unfold reportNext
  extract_lets z0
  rename_i w1
  have h2 : Kept [.jr, .host, .fm, .adm, .tick, .cores, .mnt] s z0 := by
    unfold z0
    exact .step (by decide) (.refl _ _) (prepareNext_frame ..)
  clear_value z0
  refine kept_ite ?_ ?_
  · refine .adm (by decide) ?_
    exact h2
  · exact h2

theorem startExec_frame (n e s) : Kept [.adm, .tick, .pwr] s (startExec n e s) := by
  unfold startExec
  extract_lets z0 z1 z2 z3 z4 z5
  rename_i w6 w7
  have h8 : Kept [.adm, .tick, .pwr] s z0 := by
    unfold z0
    exact .step (by decide) (.refl _ _) (armGates_frame ..)
  clear_value z0
  have h9 : Kept [.adm, .tick, .pwr] s z2 := by
    unfold z2
    exact .step (by decide) h8 (setExec_frame ..)
  clear_value z2
  have h10 : Kept [.adm, .tick, .pwr] s z5 := by
    unfold z5
    exact .step (by decide) h9 (State.setPpart_frame ..)
  clear_value z5
  have h11 : Kept [.adm, .tick, .pwr] s w7 := by
    unfold w7
    refine .adm (by decide) ?_
    exact h10
  clear_value w7
  exact h11

theorem startAll_frame (p n s) :
    Kept [.jr, .host, .reg, .mem, .fm, .adm, .tick, .cores, .pwr, .mnt] s (startAll p n s) := by
  unfold startAll
  extract_lets z0
  refine kept_foldl (fun t1 x2 h3 => ?_) ?_
  · split
    · rename_i y4 y5
      exact h3
    · rename_i y6 y7 y8
      refine kept_ite ?_ ?_
      · exact .step (by decide) h3 (substFirst_frame ..)
      · refine kept_ite ?_ ?_
        · extract_lets z9
          have h10 : Kept [.jr, .host, .reg, .mem, .fm, .adm, .tick, .cores, .pwr, .mnt] s z9 := by
            unfold z9
            refine kept_ite ?_ ?_
            · exact .step (by decide) h3 (reportNext_frame ..)
            · exact h3
          clear_value z9
          split
          · rename_i y11 y12 y13
            refine kept_ite ?_ ?_
            · exact h10
            · refine kept_ite ?_ ?_
              · exact .step (by decide) h10 (readmit_frame ..)
              · refine kept_ite ?_ ?_
                · exact .step (by decide) h10 (startExec_frame ..)
                · exact h10
          · rename_i y14 y15
            exact h10
        · exact h3
  · exact .refl _ _

theorem loadSlots_frame (e s) : Kept [.cores] s (loadSlots e s) := by
  unfold loadSlots
  refine kept_foldl_snd (fun t0 x1 h2 => ?_) ?_
  · extract_lets z3 z4 z5
    have h6 : Kept [.cores] s z5 := by
      unfold z5
      exact .step (by decide) h2 (State.setCore_frame ..)
    clear_value z5
    exact h6
  · exact .refl _ _

theorem openFirst_frame (c s) : Kept [.cores] s (openFirst c s) := by
  unfold openFirst
  split
  · rename_i y0 y1
    exact .refl _ _
  · rename_i y2 y3 y4 y5
    exact .step (by decide) (.refl _ _) (State.setCore_frame ..)

theorem beginTick_frame (p n k fresh s) :
    Kept [.jr, .host, .reg, .mem, .fm, .adm, .tick, .cores, .pwr, .mnt] s (beginTick p n k fresh s) := by
  unfold beginTick
  extract_lets z0 z1 z2 z3 z4
  rename_i w5 w6 w7 w8 w9 w10 w11
  have h12 : Kept [.jr, .host, .reg, .mem, .fm, .adm, .tick, .cores, .pwr, .mnt] s z1 := by
    unfold z1
    refine .reg (by decide) ?_
    exact .refl _ _
  clear_value z1
  have h13 : Kept [.jr, .host, .reg, .mem, .fm, .adm, .tick, .cores, .pwr, .mnt] s w5 := by
    unfold w5
    exact .step (by decide) h12 (State.setPart_frame ..)
  clear_value w5
  have h14 : Kept [.jr, .host, .reg, .mem, .fm, .adm, .tick, .cores, .pwr, .mnt] s w7 := by
    unfold w7
    exact .step (by decide) h13 (reserveSlots_frame ..)
  clear_value w7
  have h15 : Kept [.jr, .host, .reg, .mem, .fm, .adm, .tick, .cores, .pwr, .mnt] s w9 := by
    unfold w9
    exact .step (by decide) h14 (mapCores_frame ..)
  clear_value w9
  have h16 : Kept [.jr, .host, .reg, .mem, .fm, .adm, .tick, .cores, .pwr, .mnt] s w10 := by
    unfold w10
    exact .step (by decide) h15 (startAll_frame ..)
  clear_value w10
  have h17 : Kept [.jr, .host, .reg, .mem, .fm, .adm, .tick, .cores, .pwr, .mnt] s w11 := by
    unfold w11
    refine kept_ite ?_ ?_
    · refine kept_foldl (fun t18 x19 h20 => ?_) ?_
      · exact .step (by decide) h20 (loadSlots_frame ..)
      · exact h16
    · exact h14
  clear_value w11
  refine kept_ite ?_ ?_
  · refine kept_foldl (fun t21 x22 h23 => ?_) ?_
    · refine kept_ite ?_ ?_
      · exact .step (by decide) h23 (openFirst_frame ..)
      · exact h23
    · exact h17
  · exact .step (by decide) h13 (mapCores_frame ..)

theorem oweFor_frame (l r s) : Kept [.net] s (oweFor l r s) := by
  unfold oweFor
  extract_lets z0
  exact .step (by decide) (.refl _ _) (State.setLink_frame ..)

theorem boundaryChanges_frame (p adv s) :
    Kept [.jr, .host, .reg, .mem, .fm, .adm, .cores, .mnt] s (boundaryChanges p adv s) := by
  unfold boundaryChanges
  extract_lets z0 z1 z2 z3
  have h4 : Kept [.jr, .host, .reg, .mem, .fm, .adm, .cores, .mnt] s z0 := by
    unfold z0
    exact .step (by decide) (.refl _ _) (applyPartPend_frame ..)
  clear_value z0
  have h5 : Kept [.jr, .host, .reg, .mem, .fm, .adm, .cores, .mnt] s z1 := by
    unfold z1
    refine kept_foldl (fun t6 x7 h8 => ?_) ?_
    · refine kept_ite ?_ ?_
      · exact h8
      · exact .step (by decide) h8 (applyMmuPend_frame ..)
    · exact h4
  clear_value z1
  have h9 : Kept [.jr, .host, .reg, .mem, .fm, .adm, .cores, .mnt] s z2 := by
    unfold z2
    refine kept_ite ?_ ?_
    · exact .step (by decide) h5 (hostSwaps_frame ..)
    · exact h5
  clear_value z2
  have h10 : Kept [.jr, .host, .reg, .mem, .fm, .adm, .cores, .mnt] s z3 := by
    unfold z3
    refine kept_ite ?_ ?_
    · exact h9
    · exact .step (by decide) h9 (applyChanges_frame ..)
  clear_value z3
  exact .step (by decide) (.step (by decide) (.step (by decide) h10 (settleShadows_frame ..)) (evictExcess_frame ..)) (retryWaits_frame ..)

theorem settleState_frame (s) : Kept [.life, .jr, .host] s (settleState s) := by
  unfold settleState
  refine kept_ite ?_ ?_
  · exact .step (by decide) (.refl _ _) (enterState_frame ..)
  · exact .refl _ _

theorem zeroClusters_frame (cls s) : Kept [.mem] s (zeroClusters cls s) := by
  unfold zeroClusters
  extract_lets z0
  rename_i w1
  have h2 : Kept [.mem] s z0 := by
    unfold z0
    exact .step (by decide) (.refl _ _) (flushLines_frame ..)
  clear_value z0
  refine .mem (by decide) (fun w => ⟨w.1, w.2.1, w.2.2.1, tcanon_filter _ w.2.2.2.1, w.2.2.2.2.1, w.2.2.2.2.2⟩) ?_
  exact h2

theorem drainAdmissions_frame (cores n s) : Kept [.jr, .host, .reg, .mem, .adm, .cores] s (drainAdmissions cores n s) := by
  induction n generalizing s with
  | zero =>
    unfold drainAdmissions
    exact .refl _ _
  | succ n ih =>
    unfold drainAdmissions
    split
    · rename_i y0 y1
      exact .refl _ _
    · rename_i y2 y3 y4
      split
      · rename_i y5 y6
        exact .refl _ _
      · rename_i y7 y8 y9 y10 y11 y12
        refine .step (fun _ h => h) ?_ (ih ..)
        exact .step (by decide) (.refl _ _) (admitTurn_frame ..)

theorem drainCores_frame (cores s) :
    Kept [.jr, .host, .reg, .mem, .fm, .adm, .tick, .cores, .net, .mnt] s (drainCores cores s) := by
  unfold drainCores
  extract_lets z0 z1 z2
  rename_i w3
  have h4 : Kept [.jr, .host, .reg, .mem, .fm, .adm, .tick, .cores, .net, .mnt] s z0 := by
    unfold z0
    refine kept_foldl (fun t5 x6 h7 => ?_) ?_
    · refine kept_foldl (fun t8 x9 h10 => ?_) ?_
      · refine kept_ite ?_ ?_
        · exact .step (by decide) h10 (pageOutEffect_frame ..)
        · exact .step (by decide) h10 (pageInEffect_frame ..)
      · exact h7
    · exact .refl _ _
  clear_value z0
  have h11 : Kept [.jr, .host, .reg, .mem, .fm, .adm, .tick, .cores, .net, .mnt] s z2 := by
    unfold z2
    refine kept_foldl (fun t12 x13 h14 => ?_) ?_
    · exact .step (by decide) h14 (frameZeroingEffect_frame ..)
    · exact h4
  clear_value z2
  refine .net (by decide) ?_
  exact h11

theorem resetCores_frame (cores s) :
    Kept [.jr, .host, .reg, .mem, .fm, .adm, .tick, .cores, .net, .mnt] s (resetCores cores s) := by
  unfold resetCores
  extract_lets z0 z1
  have h2 : Kept [.jr, .host, .reg, .mem, .fm, .adm, .tick, .cores, .net, .mnt] s z0 := by
    unfold z0
    exact .step (by decide) (.step (by decide) (.refl _ _) (drainAdmissions_frame ..)) (absorbOn_frame ..)
  clear_value z0
  have h3 : Kept [.jr, .host, .reg, .mem, .fm, .adm, .tick, .cores, .net, .mnt] s z1 := by
    unfold z1
    exact .step (by decide) (.step (by decide) h2 (drainCores_frame ..)) (abandonMaintenance_frame ..)
  clear_value z1
  refine .step (by decide) ?_ (settlePend_frame ..)
  refine .step (by decide) ?_ (settleShadows_frame ..)
  refine kept_foldl (fun t4 x5 h6 => ?_) ?_
  · exact .step (by decide) h6 (resetCoreState_frame ..)
  · exact h3

theorem clusterResetEffect_frame (e t' s) :
    Kept [.life, .jr, .host, .reg, .mem, .fm, .adm, .tick, .cores, .net, .mnt] s (clusterResetEffect e t' s) := by
  unfold clusterResetEffect
  extract_lets z0
  refine kept_ite ?_ ?_
  · exact .step (by decide) (.refl _ _) (completeSt_frame ..)
  · exact .step (by decide) (.step (by decide) (.step (by decide) (.step (by decide) (.refl _ _) (resetCores_frame ..)) (zeroClusters_frame ..)) (settleState_frame ..)) (completeSt_frame ..)

theorem commitBlocks_frame (e s) : Kept [.jr, .host, .reg, .mem, .cores] s (commitBlocks e s) := by
  unfold commitBlocks
  refine kept_foldl (fun t0 x1 h2 => ?_) ?_
  · extract_lets z3 z4 z5
    have h6 : Kept [.jr, .host, .reg, .mem, .cores] s z5 := by
      unfold z5
      exact .step (by decide) h2 (State.setCore_frame ..)
    clear_value z5
    refine kept_foldl (fun t7 x8 h9 => ?_) ?_
    · exact .step (by decide) h9 (writeBlk_frame ..)
    · exact h6
  · exact .refl _ _

theorem sendArrive_frame (p fn m gate s) : Kept [.jr, .host, .reg, .net] s (sendArrive p fn m gate s) := by
  unfold sendArrive
  extract_lets z0
  split
  · rename_i y1 y2 y3
    have h4 : Kept [.jr, .host, .reg, .net] s y2 := by
      refine .of_pair y3 ?_
      exact .step (by decide) (.refl _ _) (sendRecord_frame ..)
    exact h4
  · rename_i y5 y6 y7
    have h8 : Kept [.jr, .host, .reg, .net] s y6 := by
      refine .of_pair y7 ?_
      exact .step (by decide) (.refl _ _) (sendRecord_frame ..)
    exact .step (by decide) h8 (raiseRoute_frame ..)

theorem commitExec_frame (id s) : Kept [.jr, .host, .reg, .mem, .fm, .adm, .tick, .cores, .net] s (commitExec id s) := by
  unfold commitExec
  split
  · rename_i y0 y1
    exact .refl _ _
  · rename_i y2 y3 y4
    refine kept_ite ?_ ?_
    · exact .refl _ _
    · extract_lets z5 z6 z7 z8 z9 z10
      have h11 : Kept [.jr, .host, .reg, .mem, .fm, .adm, .tick, .cores, .net] s z7 := by
        unfold z7
        refine kept_foldl (fun t12 x13 h14 => ?_) ?_
        · exact .step (by decide) h14 (swapFrame_frame ..)
        · exact .refl _ _
      clear_value z7
      have h15 : Kept [.jr, .host, .reg, .mem, .fm, .adm, .tick, .cores, .net] s z8 := by
        unfold z8
        exact .step (by decide) h11 (commitBlocks_frame ..)
      clear_value z8
      have h16 : Kept [.jr, .host, .reg, .mem, .fm, .adm, .tick, .cores, .net] s z9 := by
        unfold z9
        refine kept_foldl (fun t17 x18 h19 => ?_) ?_
        · exact .step (by decide) h19 (addArrivals_frame ..)
        · exact h15
      clear_value z9
      have h20 : Kept [.jr, .host, .reg, .mem, .fm, .adm, .tick, .cores, .net] s z10 := by
        unfold z10
        refine kept_foldl (fun t21 x22 h23 => ?_) ?_
        · refine kept_ite ?_ ?_
          · exact .step (by decide) h23 (addArrivals_frame ..)
          · exact .step (by decide) h23 (sendArrive_frame ..)
        · exact h16
      clear_value z10
      exact .step (by decide) h20 (setExec_frame ..)

theorem endExec_frame (e n s) : Kept [.host, .adm, .tick] s (endExec e n s) := by
  unfold endExec
  extract_lets z0
  rename_i w1
  have h2 : Kept [.host, .adm, .tick] s z0 := by
    unfold z0
    exact .step (by decide) (.step (by decide) (.refl _ _) (disarmGates_frame ..)) (dropExec_frame ..)
  clear_value z0
  refine kept_ite ?_ ?_
  · exact .step (by decide) h2 (complete_frame ..)
  · exact h2

theorem nextPlanTick_frame (n e s) : Kept [.host, .adm, .tick] s (nextPlanTick n e s) := by
  unfold nextPlanTick
  split
  · rename_i y0 y1
    exact .refl _ _
  · rename_i y2 y3 y4
    extract_lets z5
    refine kept_ite ?_ ?_
    · exact .step (by decide) (.refl _ _) (endExec_frame ..)
    · exact .step (by decide) (.refl _ _) (setExec_frame ..)

theorem commitPart_frame (p n s) :
    Kept [.jr, .host, .reg, .mem, .fm, .adm, .tick, .cores, .net] s (commitPart p n s) := by
  unfold commitPart
  extract_lets z0 z1
  have h2 : Kept [.jr, .host, .reg, .mem, .fm, .adm, .tick, .cores, .net] s z1 := by
    unfold z1
    refine kept_foldl (fun t3 x4 h5 => ?_) ?_
    · exact .step (by decide) h5 (commitExec_frame ..)
    · exact .refl _ _
  clear_value z1
  refine kept_foldl (fun t6 x7 h8 => ?_) ?_
  · exact .step (by decide) h8 (nextPlanTick_frame ..)
  · exact h2

theorem coreLead_frame (c n s) : Kept [.jr, .host, .reg, .cores, .mnt] s (coreLead c n s).2 := by
  unfold coreLead
  extract_lets z0 z1 z2 z3 z4 z5 z6 z7 z8 z9 z10 z11 z12 z13 z14 z15 z16 z17 z18
  rename_i w19 w20 w21
  have h22 : Kept [.jr, .host, .reg, .cores, .mnt] s z11 := by
    unfold z11
    exact .step (by decide) (.refl _ _) (State.setCore_frame ..)
  clear_value z11
  have h23 : Kept [.jr, .host, .reg, .cores, .mnt] s w19 := by
    unfold w19
    refine .reg (by decide) ?_
    exact h22
  clear_value w19
  have h24 : Kept [.jr, .host, .reg, .cores, .mnt] s w21 := by
    unfold w21
    refine kept_ite ?_ ?_
    · exact .step (by decide) (.step (by decide) h23 (raise_frame ..)) (requestSubst_frame ..)
    · exact h23
  clear_value w21
  exact h24

theorem coreResetEffect_frame (e t' s) :
    Kept [.life, .jr, .host, .reg, .mem, .fm, .adm, .tick, .cores, .net, .mnt] s (coreResetEffect e t' s) := by
  unfold coreResetEffect
  extract_lets z0
  refine kept_ite ?_ ?_
  · exact .step (by decide) (.refl _ _) (completeSt_frame ..)
  · exact .step (by decide) (.step (by decide) (.step (by decide) (.refl _ _) (resetCores_frame ..)) (settleState_frame ..)) (completeSt_frame ..)

theorem coresLead_frame (p n s) : Kept [.jr, .host, .reg, .cores, .mnt] s (coresLead p n s).2 := by
  unfold coresLead
  refine kept_foldl_snd (fun t0 x1 h2 => ?_) ?_
  · extract_lets z3
    have h4 : Kept [.jr, .host, .reg, .cores, .mnt] s z3.2 := by
      unfold z3
      exact .step (by decide) h2 (coreLead_frame ..)
    clear_value z3
    exact h4
  · exact .refl _ _

theorem countWaits_frame (p s) : Kept [.adm] s (countWaits p s) := by
  unfold countWaits
  extract_lets z0
  rename_i w1
  refine .adm (by decide) ?_
  exact .refl _ _

theorem endEmpty_frame (p n s) : Kept [.host, .adm] s (endEmpty p n s) := by
  unfold endEmpty
  refine kept_foldl (fun t0 x1 h2 => ?_) ?_
  · exact .step (by decide) (.step (by decide) h2 (dropExec_frame ..)) (complete_frame ..)
  · exact .refl _ _

theorem endWindows_frame (p s) : Kept [.reg, .mnt] s (endWindows p s) := by
  unfold endWindows
  extract_lets z0 z1 z2
  rename_i w3
  have h4 : Kept [.reg, .mnt] s w3 := by
    unfold w3
    refine .mnt (by decide) ?_
    exact .refl _ _
  clear_value w3
  refine kept_foldl (fun t5 x6 h7 => ?_) ?_
  · refine .reg (by decide) ?_
    exact h7
  · exact h4

theorem fnResetWork_frame (f s) : Kept [.host, .adm, .tick, .cores] s (fnResetWork f s) := by
  unfold fnResetWork
  extract_lets z0 z1
  rename_i w2
  have h3 : Kept [.host, .adm, .tick, .cores] s z1 := by
    unfold z1
    refine kept_foldl (fun t4 x5 h6 => ?_) ?_
    · exact .step (by decide) h6 (absorbExec_frame ..)
    · exact .refl _ _
  clear_value z1
  refine .adm (by decide) ?_
  exact h3

theorem fnResetHost_frame (f s) : Kept [.host, .reg, .net] s (fnResetHost f s) := by
  unfold fnResetHost
  extract_lets z0
  rename_i w1 w2 w3
  refine .upd rfl ?_ (fun w => w) (fun w => w) (.inr rfl) (.inr rfl) (.inr rfl) (.inr rfl) (.inl (by decide)) (.inl (by decide)) (.inr rfl) (.inr rfl) (.inr rfl) (.inr rfl) (.inr rfl) (.inl (by decide)) (.inr rfl) (.inr rfl) (.inr rfl)
  exact .refl _ _

theorem fnResetPages_frame (f s) : Kept [.mem] s (fnResetPages f s) := by
  unfold fnResetPages
  extract_lets z0 z1
  rename_i w2
  have h3 : Kept [.mem] s w2 := by
    unfold w2
    refine .mem (by decide) (fun w => w) ?_
    exact .refl _ _
  clear_value w2
  refine kept_foldl (fun t4 x5 h6 => ?_) ?_
  · refine kept_ite ?_ ?_
    · exact .step (by decide) h6 (State.setPte_frame ..)
    · exact h6
  · exact h3

theorem fnResetGates_frame (f s) : Kept [.tick] s (fnResetGates f s) := by
  unfold fnResetGates
  extract_lets z0
  rename_i w1
  refine .tick (by decide) ?_
  exact .refl _ _

theorem fnResetStores_frame (f s) : Kept [.mem, .cores] s (fnResetStores f s) := by
  unfold fnResetStores
  refine kept_foldl (fun t0 x1 h2 => ?_) ?_
  · extract_lets z3 z4 z5 z6 z7 z8 z9 z10 z11 z12 z13 z14
    rename_i w15
    have h16 : Kept [.mem, .cores] s w15 := by
      unfold w15
      refine .mem (by decide) (fun w => ⟨w.1, twf_filter _ w.2.1, w.2.2.1, tcanon_filter _ w.2.2.2.1, w.2.2.2.2.1, w.2.2.2.2.2⟩) ?_
      exact h2
    clear_value w15
    exact .step (by decide) h16 (mapCores_frame ..)
  · exact .refl _ _

theorem fnResetFrames_frame (f s) : Kept [.fm] s (fnResetFrames f s) := by
  unfold fnResetFrames
  refine .fm (by decide) ?_
  exact .refl _ _

theorem fnReset_frame (f s) :
    Kept [.life, .jr, .host, .reg, .mem, .fm, .adm, .tick, .cores, .net, .od] s (fnReset f s) := by
  unfold fnReset
  extract_lets z0 z1
  have h2 : Kept [.life, .jr, .host, .reg, .mem, .fm, .adm, .tick, .cores, .net, .od] s z0 := by
    unfold z0
    exact .step (by decide) (.step (by decide) (.refl _ _) (fnResetWork_frame ..)) (resetMailboxes_frame ..)
  clear_value z0
  have h3 : Kept [.life, .jr, .host, .reg, .mem, .fm, .adm, .tick, .cores, .net, .od] s z1 := by
    unfold z1
    exact .step (by decide) (.step (by decide) (.step (by decide) (.step (by decide) (.step (by decide) h2 (fnResetFrames_frame ..)) (fnResetStores_frame ..)) (fnResetGates_frame ..)) (fnResetPages_frame ..)) (fnResetHost_frame ..)
  clear_value z1
  exact .step (by decide) (.step (by decide) (.step (by decide) h3 (applyMmuPend_frame ..)) (settleState_frame ..)) (settlePend_frame ..)

theorem fnResetEffect_frame (e t' s) :
    Kept [.life, .jr, .host, .reg, .mem, .fm, .adm, .tick, .cores, .net, .od] s (fnResetEffect e t' s) := by
  unfold fnResetEffect
  extract_lets z0
  refine kept_ite ?_ ?_
  · exact .step (by decide) (.refl _ _) (completeSt_frame ..)
  · exact .step (by decide) (.step (by decide) (.refl _ _) (fnReset_frame ..)) (completeSt_frame ..)

theorem execFnReset_frame (fn q s t) (h : execFnReset fn q s = .next t) :
    Kept [.life, .jr, .host, .reg, .mem, .fm, .adm, .tick, .cores, .net, .od] s t := by
  have e := Host.Outcome.next.inj h
  subst e
  refine onEntry_frame (by decide) (fun u0 u1 u2 u3 => ?_) ?_
  · exact .step (by decide) u3 (fnResetEffect_frame ..)
  · exact .refl _ _

theorem execCoreReset_frame (fn q s t) (h : execCoreReset fn q s = .next t) :
    Kept [.life, .jr, .host, .reg, .mem, .fm, .adm, .tick, .cores, .net, .mnt] s t := by
  have e := Host.Outcome.next.inj h
  subst e
  refine onEntry_frame (by decide) (fun u0 u1 u2 u3 => ?_) ?_
  · exact .step (by decide) u3 (coreResetEffect_frame ..)
  · exact .refl _ _

theorem execClusterReset_frame (fn q s t) (h : execClusterReset fn q s = .next t) :
    Kept [.life, .jr, .host, .reg, .mem, .fm, .adm, .tick, .cores, .net, .mnt] s t := by
  have e := Host.Outcome.next.inj h
  subst e
  refine onEntry_frame (by decide) (fun u0 u1 u2 u3 => ?_) ?_
  · exact .step (by decide) u3 (clusterResetEffect_frame ..)
  · exact .refl _ _

theorem resetPart_frame (p s) : Kept [.jr, .host, .reg, .mem, .adm, .tick, .cores, .pwr] s (resetPart p s) := by
  unfold resetPart
  extract_lets z0 z1 z2 z3 z4 z5 z6 z7 z8 z9 z10
  rename_i w11 w12 w13 w14
  have h15 : Kept [.jr, .host, .reg, .mem, .adm, .tick, .cores, .pwr] s z2 := by
    unfold z2
    refine .tick (by decide) ?_
    exact .refl _ _
  clear_value z2
  have h16 : Kept [.jr, .host, .reg, .mem, .adm, .tick, .cores, .pwr] s z3 := by
    unfold z3
    refine kept_foldl (fun t17 x18 h19 => ?_) ?_
    · exact .step (by decide) (.step (by decide) h19 (addArrivals_frame ..)) (meetWaiters_frame ..)
    · exact h15
  clear_value z3
  have h20 : Kept [.jr, .host, .reg, .mem, .adm, .tick, .cores, .pwr] s z4 := by
    unfold z4
    exact .step (by decide) h16 (completeAll_frame ..)
  clear_value z4
  have h21 : Kept [.jr, .host, .reg, .mem, .adm, .tick, .cores, .pwr] s z5 := by
    unfold z5
    exact .step (by decide) h20 (absorbWhere_frame ..)
  clear_value z5
  have h22 : Kept [.jr, .host, .reg, .mem, .adm, .tick, .cores, .pwr] s z8 := by
    unfold z8
    exact .step (by decide) h21 (State.setPart_frame ..)
  clear_value z8
  have h23 : Kept [.jr, .host, .reg, .mem, .adm, .tick, .cores, .pwr] s z9 := by
    unfold z9
    exact .step (by decide) h22 (completeAll_frame ..)
  clear_value z9
  have h24 : Kept [.jr, .host, .reg, .mem, .adm, .tick, .cores, .pwr] s w11 := by
    unfold w11
    refine .adm (by decide) ?_
    exact h23
  clear_value w11
  have h25 : Kept [.jr, .host, .reg, .mem, .adm, .tick, .cores, .pwr] s w13 := by
    unfold w13
    exact .step (by decide) h24 (State.setPpart_frame ..)
  clear_value w13
  have h26 : Kept [.jr, .host, .reg, .mem, .adm, .tick, .cores, .pwr] s w14 := by
    unfold w14
    refine kept_foldl (fun t27 x28 h29 => ?_) ?_
    · refine kept_ite ?_ ?_
      · exact h29
      · exact .step (by decide) h29 (applyMmuPend_frame ..)
    · exact h25
  clear_value w14
  exact .step (by decide) h26 (applyPartPend_frame ..)

theorem partitionResetEffect_frame (e t' s) :
    Kept [.life, .jr, .host, .reg, .mem, .fm, .adm, .tick, .cores, .net, .pwr, .mnt] s (partitionResetEffect e t' s) := by
  unfold partitionResetEffect
  extract_lets z0
  rename_i w1
  refine kept_ite ?_ ?_
  · exact .step (by decide) (.refl _ _) (completeSt_frame ..)
  · exact .step (by decide) (.step (by decide) (.step (by decide) (.step (by decide) (.step (by decide) (.refl _ _) (resetCores_frame ..)) (zeroClusters_frame ..)) (resetPart_frame ..)) (settleState_frame ..)) (completeSt_frame ..)

theorem execPartitionReset_frame (fn q s t) (h : execPartitionReset fn q s = .next t) :
    Kept [.life, .jr, .host, .reg, .mem, .fm, .adm, .tick, .cores, .net, .pwr, .mnt] s t := by
  have e := Host.Outcome.next.inj h
  subst e
  refine onEntry_frame (by decide) (fun u0 u1 u2 u3 => ?_) ?_
  · exact .step (by decide) u3 (partitionResetEffect_frame ..)
  · exact .refl _ _

theorem parkEffect_frame (e t' s) : Kept [.host, .tick] s (parkEffect e t' s) := by
  unfold parkEffect
  extract_lets z0 z1
  refine kept_ite ?_ ?_
  · exact .step (by decide) (.refl _ _) (completeSt_frame ..)
  · refine kept_ite ?_ ?_
    · exact .step (by decide) (.refl _ _) (completeSt_frame ..)
    · exact .step (by decide) (.refl _ _) (State.setPart_frame ..)

theorem execPartitionPark_frame (fn q s t) (h : execPartitionPark fn q s = .next t) :
    Kept [.host, .tick] s t := by
  have e := Host.Outcome.next.inj h
  subst e
  refine onEntry_frame (by decide) (fun u0 u1 u2 u3 => ?_) ?_
  · exact .step (by decide) u3 (parkEffect_frame ..)
  · exact .refl _ _

theorem resumeEffect_frame (e t' s) : Kept [.host, .tick, .pwr] s (resumeEffect e t' s) := by
  unfold resumeEffect
  extract_lets z0 z1
  rename_i w2 w3
  have h4 : Kept [.host, .tick, .pwr] s w2 := by
    unfold w2
    exact .step (by decide) (.refl _ _) (State.setPart_frame ..)
  clear_value w2
  refine kept_ite ?_ ?_
  · exact .step (by decide) (.refl _ _) (completeSt_frame ..)
  · refine kept_ite ?_ ?_
    · exact .step (by decide) (.refl _ _) (completeSt_frame ..)
    · exact .step (by decide) h4 (State.setPpart_frame ..)

theorem execPartitionResume_frame (fn q s t) (h : execPartitionResume fn q s = .next t) :
    Kept [.host, .tick, .pwr] s t := by
  have e := Host.Outcome.next.inj h
  subst e
  refine onEntry_frame (by decide) (fun u0 u1 u2 u3 => ?_) ?_
  · exact .step (by decide) u3 (resumeEffect_frame ..)
  · exact .refl _ _

theorem resetFns_frame (which fns s) :
    Kept [.life, .jr, .host, .reg, .mem, .fm, .adm, .tick, .cores, .net, .od] s (resetFns which fns s) := by
  unfold resetFns
  refine kept_foldl (fun t0 x1 h2 => ?_) ?_
  · refine kept_ite ?_ ?_
    · exact .step (by decide) h2 (fnReset_frame ..)
    · exact h2
  · exact .refl _ _

theorem vfEnableEffect_frame (numVfs enable s) :
    Kept [.life, .jr, .host, .reg, .mem, .fm, .adm, .tick, .cores, .net, .od] s (vfEnableEffect numVfs enable s) := by
  unfold vfEnableEffect
  extract_lets z0
  rename_i w1
  have h2 : Kept [.life, .jr, .host, .reg, .mem, .fm, .adm, .tick, .cores, .net, .od] s w1 := by
    unfold w1
    refine .host (by decide) (fun w => w) ?_
    exact .refl _ _
  clear_value w1
  exact .step (by decide) h2 (resetFns_frame ..)

theorem execVfEnable_frame (numVfs enable s t) (h : execVfEnable numVfs enable s = .next t) :
    Kept [.life, .jr, .host, .reg, .mem, .fm, .adm, .tick, .cores, .net, .od] s t := by
  have e := Host.Outcome.next.inj h
  subst e
  exact .step (by decide) (.refl _ _) (vfEnableEffect_frame ..)

theorem execFunctionLevelReset_frame (fn s t) (h : execFunctionLevelReset fn s = .next t) :
    Kept [.life, .jr, .host, .reg, .mem, .fm, .adm, .tick, .cores, .net, .od] s t := by
  have e := Host.Outcome.next.inj h
  subst e
  refine kept_ite ?_ ?_
  · exact .step (by decide) (.refl _ _) (fnReset_frame ..)
  · exact .refl _ _

theorem execHotReset_frame (s t) (h : execHotReset s = .next t) :
    Kept [.life, .jr, .host, .reg, .mem, .fm, .adm, .tick, .cores, .net, .od] s t := by
  have e := Host.Outcome.next.inj h
  subst e
  exact .step (by decide) (.refl _ _) (resetFns_frame ..)

theorem raiseLink_frame (code l lane s) : Kept [.jr, .host] s (raiseLink code l lane s) := by
  unfold raiseLink
  exact .step (by decide) (.refl _ _) (raise_frame ..)

theorem waitTimeouts_frame (p s) : Kept [.jr, .host, .adm, .tick, .cores] s (waitTimeouts p s) := by
  unfold waitTimeouts
  extract_lets z0 z1
  rename_i w2
  refine kept_foldl (fun t3 x4 h5 => ?_) ?_
  · extract_lets z6 z7 z8
    have h9 : Kept [.jr, .host, .adm, .tick, .cores] s z8 := by
      unfold z8
      exact .step (by decide) h5 (raiseOncePer_frame ..)
    clear_value z8
    exact .step (by decide) h9 (absorbExec_frame ..)
  · exact .refl _ _

theorem raiseVcore_frame (p f s) : Kept [.pwr] s (raiseVcore p f s) := by
  unfold raiseVcore
  refine kept_foldl (fun t0 x1 h2 => ?_) ?_
  · exact .step (by decide) h2 (State.setPdie_frame ..)
  · exact .refl _ _

theorem leadPoint_frame (p s) : Kept [.life, .jr, .host, .reg, .adm, .tick, .cores, .pwr, .mnt] s (leadPoint p s) := by
  unfold leadPoint
  extract_lets z0
  rename_i w1 w2
  have h3 : Kept [.life, .jr, .host, .reg, .adm, .tick, .cores, .pwr, .mnt] s w1 := by
    unfold w1
    exact .step (by decide) (.refl _ _) (advanceTo_frame ..)
  clear_value w1
  have h4 : Kept [.life, .jr, .host, .reg, .adm, .tick, .cores, .pwr, .mnt] s w2 := by
    unfold w2
    exact .step (by decide) (.step (by decide) h3 (waitTimeouts_frame ..)) (countWaits_frame ..)
  clear_value w2
  refine kept_ite ?_ ?_
  · exact .refl _ _
  · split
    · rename_i y5 y6 y7 y8 y9
      have h10 : Kept [.life, .jr, .host, .reg, .adm, .tick, .cores, .pwr, .mnt] s y8 := by
        refine .of_pair y9 ?_
        exact .step (by decide) h4 (coresLead_frame ..)
      split
      · rename_i y11 y12 y13 y14
        extract_lets z15 z16 z17 z18 z19
        have h20 : Kept [.life, .jr, .host, .reg, .adm, .tick, .cores, .pwr, .mnt] s z15 := by
          unfold z15
          exact .step (by decide) (.step (by decide) h10 (State.setPpart_frame ..)) (raiseVcore_frame ..)
        clear_value z15
        have h21 : Kept [.life, .jr, .host, .reg, .adm, .tick, .cores, .pwr, .mnt] s z19 := by
          unfold z19
          exact .step (by decide) h20 (State.setPart_frame ..)
        clear_value z19
        exact .step (by decide) h21 (settleState_frame ..)

theorem execLeadPoint_frame (part s t) (h : execLeadPoint part s = .next t) :
    Kept [.life, .jr, .host, .reg, .adm, .tick, .cores, .pwr, .mnt] s t := by
  have e := Host.Outcome.next.inj h
  subst e
  refine kept_ite ?_ ?_
  · exact .step (by decide) (.refl _ _) (leadPoint_frame ..)
  · exact .refl _ _

theorem execWaitTimeout_frame (part s t) (h : execWaitTimeout part s = .next t) :
    Kept [.life, .jr, .host, .adm, .tick, .cores] s t := by
  have e := Host.Outcome.next.inj h
  subst e
  refine kept_ite ?_ ?_
  · exact .step (by decide) (.step (by decide) (.refl _ _) (waitTimeouts_frame ..)) (settleState_frame ..)
  · exact .refl _ _

theorem pennantRound_frame (p r s) : Kept [.host, .tick] s (pennantRound p r s) := by
  unfold pennantRound
  extract_lets z0
  rename_i w1 w2
  have h3 : Kept [.host, .tick] s w1 := by
    unfold w1
    exact .step (by decide) (.refl _ _) (advanceTo_frame ..)
  clear_value w1
  have h4 : Kept [.host, .tick] s w2 := by
    unfold w2
    exact .step (by decide) h3 (State.setPart_frame ..)
  clear_value w2
  refine kept_ite ?_ ?_
  · refine kept_foldl (fun t5 x6 h7 => ?_) ?_
    · split
      · rename_i y8 y9
        exact h7
      · rename_i y10 y11 y12 y13
        refine kept_ite ?_ ?_
        · exact .step (by decide) h7 (sendMsg_frame ..)
        · exact h7
    · exact h4
  · exact .refl _ _

theorem execPennantRound_frame (part round s t) (h : execPennantRound part round s = .next t) :
    Kept [.host, .tick] s t := by
  have e := Host.Outcome.next.inj h
  subst e
  refine kept_ite ?_ ?_
  · exact .step (by decide) (.refl _ _) (pennantRound_frame ..)
  · exact .refl _ _

theorem pennantFinal_frame (p s) : Kept [.host, .tick, .pwr] s (pennantFinal p s) := by
  unfold pennantFinal
  extract_lets z0
  rename_i w1 w2 w3 w4 w5 w6 w7 w8
  have h9 : Kept [.host, .tick, .pwr] s w1 := by
    unfold w1
    exact .step (by decide) (.refl _ _) (advanceTo_frame ..)
  clear_value w1
  have h10 : Kept [.host, .tick, .pwr] s w6 := by
    unfold w6
    exact .step (by decide) h9 (State.setPart_frame ..)
  clear_value w6
  have h11 : Kept [.host, .tick, .pwr] s w8 := by
    unfold w8
    refine kept_ite ?_ ?_
    · exact .step (by decide) h10 (State.setPpart_frame ..)
    · exact h10
  clear_value w8
  refine kept_ite ?_ ?_
  · exact .refl _ _
  · refine kept_ite ?_ ?_
    · exact .step (by decide) h11 (completeAll_frame ..)
    · exact .step (by decide) h9 (State.setPart_frame ..)

theorem execPennantFinal_frame (part s t) (h : execPennantFinal part s = .next t) :
    Kept [.host, .tick, .pwr] s t := by
  have e := Host.Outcome.next.inj h
  subst e
  refine kept_ite ?_ ?_
  · exact .step (by decide) (.refl _ _) (pennantFinal_frame ..)
  · exact .refl _ _

theorem raiseSlip_frame (p w s) : Kept [.jr, .host] s (raiseSlip p w s) := by
  unfold raiseSlip
  extract_lets z0 z1 z2
  rename_i w3
  exact .step (by decide) (.refl _ _) (raiseOncePer_frame ..)

theorem heldBoundary_frame (p slip s) : Kept [.jr, .host, .adm] s (heldBoundary p slip s) := by
  unfold heldBoundary
  extract_lets z0 z1
  rename_i w2
  have h3 : Kept [.jr, .host, .adm] s z1 := by
    unfold z1
    refine kept_ite ?_ ?_
    · exact .step (by decide) (.refl _ _) (raiseSlip_frame ..)
    · exact .refl _ _
  clear_value z1
  refine .adm (by decide) ?_
  exact h3

theorem parkResume_frame (p n held s) : Kept [.host, .tick, .pwr] s (parkResume p n held s).2 := by
  unfold parkResume
  extract_lets z0 z1 z2 z3 z4 z5 z6 z7 z8 z9 z10
  rename_i w11
  have h12 : Kept [.host, .tick, .pwr] s z8 := by
    unfold z8
    refine kept_ite ?_ ?_
    · exact .step (by decide) (.refl _ _) (State.setPpart_frame ..)
    · exact .refl _ _
  clear_value z8
  have h13 : Kept [.host, .tick, .pwr] s z9 := by
    unfold z9
    exact .step (by decide) h12 (State.setPart_frame ..)
  clear_value z9
  have h14 : Kept [.host, .tick, .pwr] s z10 := by
    unfold z10
    refine kept_ite ?_ ?_
    · exact h13
    · exact .step (by decide) h13 (completeAll_frame ..)
  clear_value z10
  have h15 : Kept [.host, .tick, .pwr] s w11 := by
    unfold w11
    exact .step (by decide) h14 (completeAll_frame ..)
  clear_value w11
  exact h15

theorem stepClock_frame (p k own s) : Kept [.pwr] s (stepClock p k own s) := by
  unfold stepClock
  extract_lets z0 z1 z2
  exact .step (by decide) (.refl _ _) (State.setPpart_frame ..)

theorem settleVcore_frame (s) : Kept [.pwr] s (settleVcore s) := by
  unfold settleVcore
  refine kept_ite ?_ ?_
  · refine kept_foldl (fun t0 x1 h2 => ?_) ?_
    · exact .step (by decide) h2 (State.setPdie_frame ..)
    · exact .refl _ _
  · exact .refl _ _

theorem levelEpoch_frame (p n s) : Kept [.adm, .tick] s (levelEpoch p n s) := by
  unfold levelEpoch
  extract_lets z0
  refine kept_ite ?_ ?_
  · split
    · rename_i y1 y2
      exact .refl _ _
    · rename_i y3 y4 y5
      extract_lets z6
      have h7 : Kept [.adm, .tick] s z6 := by
        unfold z6
        exact .step (by decide) (.refl _ _) (State.setPart_frame ..)
      clear_value z6
      refine kept_ite ?_ ?_
      · exact h7
      · exact .step (by decide) h7 (flushPlans_frame ..)
  · exact .refl _ _

theorem tickBoundary_frame (p s) :
    Kept [.life, .jr, .host, .reg, .mem, .fm, .adm, .tick, .cores, .net, .pwr, .mnt] s (tickBoundary p s) := by
  unfold tickBoundary
  refine kept_ite ?_ ?_
  · exact .refl _ _
  · extract_lets z0 z1 z2 z3
    rename_i w4 w5 w6 w7
    have h8 : Kept [.life, .jr, .host, .reg, .mem, .fm, .adm, .tick, .cores, .net, .pwr,
    .mnt] s z0 := by
      unfold z0
      exact .step (by decide) (.refl _ _) (pennantFinal_frame ..)
    clear_value z0
    have h9 : Kept [.life, .jr, .host, .reg, .mem, .fm, .adm, .tick, .cores, .net, .pwr,
    .mnt] s z2 := by
      unfold z2
      exact .step (by decide) (.step (by decide) h8 (advanceTo_frame ..)) (endWindows_frame ..)
    clear_value z2
    have h10 : Kept [.life, .jr, .host, .reg, .mem, .fm, .adm, .tick, .cores, .net, .pwr,
    .mnt] s w6 := by
      unfold w6
      refine kept_ite ?_ ?_
      · exact .step (by decide) (.step (by decide) h9 (flushLines_frame ..)) (commitPart_frame ..)
      · exact .step (by decide) h9 (heldBoundary_frame ..)
    clear_value w6
    have h11 : Kept [.life, .jr, .host, .reg, .mem, .fm, .adm, .tick, .cores, .net, .pwr,
    .mnt] s w7 := by
      unfold w7
      exact .step (by decide) (.step (by decide) h10 (endEmpty_frame ..)) (applyArrivals_frame ..)
    clear_value w7
    refine kept_ite ?_ ?_
    · exact .step (by decide) (.step (by decide) (.step (by decide) h9 (State.setPart_frame ..)) (applyPartPend_frame ..)) (settleState_frame ..)
    · split
      · rename_i y12 y13 y14 y15
        have h16 : Kept [.life, .jr, .host, .reg, .mem, .fm, .adm, .tick, .cores, .net, .pwr,
    .mnt] s y14 := by
          refine .of_pair y15 ?_
          exact .step (by decide) h11 (parkResume_frame ..)
        extract_lets z17 z18 z19
        have h20 : Kept [.life, .jr, .host, .reg, .mem, .fm, .adm, .tick, .cores, .net, .pwr,
    .mnt] s z17 := by
          unfold z17
          exact .step (by decide) h16 (boundaryChanges_frame ..)
        clear_value z17
        have h21 : Kept [.life, .jr, .host, .reg, .mem, .fm, .adm, .tick, .cores, .net, .pwr,
    .mnt] s z18 := by
          unfold z18
          exact .step (by decide) h20 (stepClock_frame ..)
        clear_value z18
        have h22 : Kept [.life, .jr, .host, .reg, .mem, .fm, .adm, .tick, .cores, .net, .pwr,
    .mnt] s z19 := by
          unfold z19
          exact .step (by decide) (.step (by decide) h21 (levelEpoch_frame ..)) (settleVcore_frame ..)
        clear_value z19
        exact .step (by decide) (.step (by decide) h22 (beginTick_frame ..)) (settleState_frame ..)

theorem execTickBoundary_frame (part s t) (h : execTickBoundary part s = .next t) :
    Kept [.life, .jr, .host, .reg, .mem, .fm, .adm, .tick, .cores, .net, .pwr, .mnt] s t := by
  have e := Host.Outcome.next.inj h
  subst e
  refine kept_ite ?_ ?_
  · exact .step (by decide) (.refl _ _) (tickBoundary_frame ..)
  · exact .refl _ _

theorem windowEnd_frame (c fn s) : Kept [.cores] s (windowEnd c fn s) := by
  unfold windowEnd
  extract_lets z0
  rename_i w1 w2
  refine kept_ite ?_ ?_
  · split
    · rename_i y3 y4 y5
      exact .step (by decide) (.refl _ _) (State.setCore_frame ..)
    · rename_i y6 y7
      exact .step (by decide) (.refl _ _) (State.setCore_frame ..)
  · exact .refl _ _

theorem execWindowEnd_frame (core fn s t) (h : execWindowEnd core fn s = .next t) :
    Kept [.cores] s t := by
  have e := Host.Outcome.next.inj h
  subst e
  exact .step (by decide) (.refl _ _) (windowEnd_frame ..)

theorem partitionStart_frame (p s) :
    Kept [.life, .jr, .host, .reg, .mem, .fm, .adm, .tick, .cores, .pwr, .mnt] s (partitionStart p s) := by
  unfold partitionStart
  extract_lets z0
  rename_i w1 w2
  split
  · rename_i y3 y4 y5 y6 y7
    refine kept_ite ?_ ?_
    · exact .refl _ _
    · refine kept_ite ?_ ?_
      · exact .step (by decide) (.step (by decide) (.refl _ _) (State.setPart_frame ..)) (raise_frame ..)
      · extract_lets z8 z9 z10 z11 z12
        have h13 : Kept [.life, .jr, .host, .reg, .mem, .fm, .adm, .tick, .cores, .pwr, .mnt] s z9 := by
          unfold z9
          exact .step (by decide) (.refl _ _) (advanceTo_frame ..)
        clear_value z9
        have h14 : Kept [.life, .jr, .host, .reg, .mem, .fm, .adm, .tick, .cores, .pwr, .mnt] s z10 := by
          unfold z10
          exact .step (by decide) h13 (State.setPart_frame ..)
        clear_value z10
        have h15 : Kept [.life, .jr, .host, .reg, .mem, .fm, .adm, .tick, .cores, .pwr, .mnt] s z11 := by
          unfold z11
          exact .step (by decide) h14 (boundaryChanges_frame ..)
        clear_value z11
        have h16 : Kept [.life, .jr, .host, .reg, .mem, .fm, .adm, .tick, .cores, .pwr, .mnt] s z12 := by
          unfold z12
          exact .step (by decide) (.step (by decide) h15 (beginTick_frame ..)) (settleState_frame ..)
        clear_value z12
        refine kept_ite ?_ ?_
        · exact .step (by decide) h16 (checkPaths_frame ..)
        · exact h16
  · rename_i y17 y18 y19
    exact .refl _ _

theorem execPartitionStart_frame (part s t) (h : execPartitionStart part s = .next t) :
    Kept [.life, .jr, .host, .reg, .mem, .fm, .adm, .tick, .cores, .pwr, .mnt] s t := by
  have e := Host.Outcome.next.inj h
  subst e
  refine kept_ite ?_ ?_
  · exact .step (by decide) (.refl _ _) (partitionStart_frame ..)
  · exact .refl _ _

theorem raiseLinkSec_frame (code l s) : Kept [.jr, .host] s (raiseLinkSec code l s) := by
  unfold raiseLinkSec
  exact .step (by decide) (.refl _ _) (raiseOncePer_frame ..)

theorem takeCredit_frame (l code s) : Kept [.jr, .host, .reg, .net] s (takeCredit l code s) := by
  unfold takeCredit
  extract_lets z0 z1
  rename_i w2
  refine kept_ite ?_ ?_
  · exact .step (by decide) (.step (by decide) (.refl _ _) (State.setLink_frame ..)) (pump_frame ..)
  · exact .refl _ _

theorem sendNull_frame (l s) : Kept [.host, .net] s (sendNull l s) := by
  unfold sendNull
  extract_lets z0 z1
  exact .step (by decide) (.step (by decide) (.refl _ _) (State.setLink_frame ..)) (sendMsg_frame ..)

theorem returnCredit_frame (l n s) : Kept [.host, .net] s (returnCredit l n s) := by
  induction n generalizing s with
  | zero =>
    unfold returnCredit
    exact .refl _ _
  | succ n ih =>
    unfold returnCredit
    refine kept_ite ?_ ?_
    · exact .refl _ _
    · refine .step (fun _ h => h) ?_ (ih ..)
      exact .step (by decide) (.refl _ _) (sendNull_frame ..)

end Sys2Proof.Machine
end

