-- ==== Sys2Proof/Laws/FrameCompute.lean ====
section
/-!
SUPPORT. What each operation leaves as it was: counts, egress and writes.

The lemma `f_frame` says that `f` changes no component of the state outside the list it names, and keeps the
memories in canonical form.
-/

namespace Sys2Proof.Machine

open Sys2Proof

theorem queueMnt_frame (a pm guard s) : Kept [.mnt] s (queueMnt a pm guard s) := by
  unfold queueMnt
  refine kept_ite ?_ ?_
  · refine .mnt (by decide) ?_
    exact .refl _ _
  · extract_lets z0
    rename_i w1
    refine .mnt (by decide) ?_
    exact .refl _ _

theorem addCountStat_frame (core hi lo n s) : Kept [.reg] s (addCountStat core hi lo n s) := by
  unfold addCountStat
  refine .reg (by decide) ?_
  exact .refl _ _

theorem request_frame (x wr n dva m off c b s) : Kept [.jr, .host, .reg, .net] s (request x wr n dva m off c b s).2 := by
  unfold request
  extract_lets z0 z1 z2
  rename_i w3
  split
  · rename_i y4 y5
    exact .step (by decide) (.refl _ _) (raiseRoute_frame ..)
  · rename_i y6 y7 y8
    extract_lets z9
    refine .step (by decide) ?_ (sendOn_frame ..)
    refine .net (by decide) ?_
    exact .refl _ _

theorem askBlocks_frame (x r ds s) : Kept [.jr, .host, .reg, .net] s (askBlocks x r ds s).2 := by
  unfold askBlocks
  refine kept_foldl_snd (fun t0 x1 h2 => ?_) ?_
  · split
    · rename_i y3 y4 y5 y6
      split
      · rename_i y7 y8 y9 y10
        have h11 : Kept [.jr, .host, .reg, .net] s y9 := by
          refine .of_pair y10 ?_
          exact .step (by decide) h2 (request_frame ..)
        exact h11
      · rename_i y12 y13 y14
        have h15 : Kept [.jr, .host, .reg, .net] s y13 := by
          refine .of_pair y14 ?_
          exact .step (by decide) h2 (request_frame ..)
        exact h15
    · rename_i y16 y17
      exact h2
  · exact .refl _ _

theorem fetchBlk_frame (x r dva s) : Kept [.jr, .host, .reg, .mem, .cores] s (fetchBlk x r dva s).2 := by
  unfold fetchBlk
  extract_lets z0 z1
  split
  · rename_i y2 y3 y4
    exact .refl _ _
  · rename_i y5 y6
    exact .step (by decide) (.refl _ _) (readBlk_frame ..)

theorem fetchA_frame (x r d s) : Kept [.jr, .host, .reg, .mem, .cores] s (fetchA x r d s).2 := by
  unfold fetchA
  refine kept_ite_snd ?_ ?_
  · exact .step (by decide) (.refl _ _) (fetchBlk_frame ..)
  · exact .step (by decide) (.refl _ _) (outOfWindow_frame ..)

theorem bufferStep_frame (x pts r s) : Kept [.jr, .host, .reg, .mem, .cores] s (bufferStep x pts r s).2 := by
  unfold bufferStep
  refine kept_foldl_snd (fun t0 x1 h2 => ?_) ?_
  · split
    · rename_i y3 y4 y5 y6
      have h7 : Kept [.jr, .host, .reg, .mem, .cores] s y5 := by
        refine .of_pair y6 ?_
        exact .step (by decide) h2 (fetchA_frame ..)
      split
      · rename_i y8 y9 y10 y11
        have h12 : Kept [.jr, .host, .reg, .mem, .cores] s y10 := by
          refine .of_pair y11 ?_
          refine kept_ite_snd ?_ ?_
          · exact .step (by decide) h7 (verifyBlk_frame ..)
          · exact h7
        exact h12
  · exact .refl _ _

theorem readInputs_frame (x r pts m s) : Kept [.reg] s (readInputs x r pts m s).2 := by
  unfold readInputs
  extract_lets z0 z1 z2
  rename_i w3
  refine .reg (by decide) ?_
  exact .refl _ _

theorem initJob_frame (x s j) : Kept [.jr, .host, .mnt] s (initJob x s j).2 := by
  unfold initJob
  extract_lets z0 z1
  rename_i w2 w3 w4 w5 w6 w7 w8
  have h9 : Kept [.jr, .host, .mnt] s w7 := by
    unfold w7
    refine .mnt (by decide) ?_
    exact .refl _ _
  clear_value w7
  have h10 : Kept [.jr, .host, .mnt] s w8 := by
    unfold w8
    refine kept_ite ?_ ?_
    · exact h9
    · exact .step (by decide) h9 (raiseMem_frame ..)
  clear_value w8
  refine kept_ite_snd ?_ ?_
  · exact .refl _ _
  · exact h10

theorem buildJobs_frame (x r pts m s) : Kept [.jr, .host, .reg, .mnt] s (buildJobs x r pts m s).2.2 := by
  unfold buildJobs
  split
  · rename_i y0 y1 y2 y3
    have h4 : Kept [.jr, .host, .reg, .mnt] s y2 := by
      refine .of_pair y3 ?_
      exact .step (by decide) (.refl _ _) (readInputs_frame ..)
    extract_lets z5 z6
    have h7 : Kept [.jr, .host, .reg, .mnt] s z6.2 := by
      unfold z6
      refine kept_foldl_snd (fun t8 x9 h10 => ?_) ?_
      · split
        · rename_i y11 y12 y13 y14
          have h15 : Kept [.jr, .host, .reg, .mnt] s y13 := by
            refine .of_pair y14 ?_
            exact .step (by decide) h10 (initJob_frame ..)
          exact h15
      · exact h4
    clear_value z6
    exact h7

theorem clearCtrs_frame (core js s) : Kept [.fm] s (clearCtrs core js s) := by
  unfold clearCtrs
  refine kept_foldl (fun t0 x1 h2 => ?_) ?_
  · extract_lets z3
    rename_i w4
    exact .step (by decide) h2 (State.setMac_frame ..)
  · exact .refl _ _

theorem fetchBlks_frame (x r ds s) : Kept [.jr, .host, .reg, .mem, .cores] s (fetchBlks x r ds s).2 := by
  unfold fetchBlks
  refine kept_foldl_snd (fun t0 x1 h2 => ?_) ?_
  · split
    · rename_i y3 y4 y5 y6
      have h7 : Kept [.jr, .host, .reg, .mem, .cores] s y5 := by
        refine .of_pair y6 ?_
        exact .step (by decide) h2 (fetchBlk_frame ..)
      exact h7
  · exact .refl _ _

theorem fetchBytes_frame (x r va n s) : Kept [.jr, .host, .reg, .mem, .cores] s (fetchBytes x r va n s).2.2 := by
  unfold fetchBytes
  split
  · rename_i y0 y1 y2 y3
    have h4 : Kept [.jr, .host, .reg, .mem, .cores] s y2 := by
      refine .of_pair y3 ?_
      exact .step (by decide) (.refl _ _) (fetchBlks_frame ..)
    exact h4

theorem fetchDesc_frame (x r va n s) : Kept [.free, .jr, .host, .reg, .mem, .cores] s (fetchDesc x r va n s).2.2 := by
  unfold fetchDesc
  extract_lets z0 z1 z2
  have h3 : Kept [.free, .jr, .host, .reg, .mem, .cores] s z2 := by
    unfold z2
    refine kept_foldl (fun t4 x5 h6 => ?_) ?_
    · split
      · rename_i y7 y8 y9
        exact .step (by decide) h6 (askLine_frame ..)
      · rename_i y10 y11
        exact h6
    · exact .refl _ _
  clear_value z2
  split
  · rename_i y12 y13 y14 y15 y16
    have h17 : Kept [.free, .jr, .host, .reg, .mem, .cores] s y15 := by
      refine .of_pair2 y16 ?_
      exact .step (by decide) h3 (fetchBytes_frame ..)
    extract_lets z18
    exact h17

theorem readIdx_frame (x r s) : Kept [.free, .jr, .host, .reg, .mem, .cores] s (readIdx x r s).2 := by
  unfold readIdx
  split
  · rename_i y0 y1
    exact .refl _ _
  · rename_i y2 y3 y4
    extract_lets z5
    split
    · rename_i y6 y7 y8 y9 y10
      have h11 : Kept [.free, .jr, .host, .reg, .mem, .cores] s y9 := by
        refine .of_pair2 y10 ?_
        exact .step (by decide) (.refl _ _) (fetchDesc_frame ..)
      exact h11

theorem granuleToken_frame (x r mg m pts g s) : Kept [.cores] s (granuleToken x r mg m pts g s) := by
  unfold granuleToken
  extract_lets z0 z1 z2 z3
  rename_i w4 w5 w6
  refine kept_ite ?_ ?_
  · refine kept_ite ?_ ?_
    · exact .refl _ _
    · exact .step (by decide) (.refl _ _) (State.setCore_frame ..)
  · exact .step (by decide) (.refl _ _) (State.setCore_frame ..)

theorem noteOverrun_frame (x d r s) : Kept [.jr, .host, .reg, .cores] s (noteOverrun x d r s).2 := by
  unfold noteOverrun
  extract_lets z0 z1 z2
  rename_i w3
  have h4 : Kept [.jr, .host, .reg, .cores] s z2 := by
    unfold z2
    exact .step (by decide) (.refl _ _) (State.setCore_frame ..)
  clear_value z2
  refine kept_ite_snd ?_ ?_
  · exact h4
  · exact .step (by decide) (.step (by decide) h4 (raise_frame ..)) (addCountStat_frame ..)

theorem loadToken_frame (x r s) : Kept [.free, .jr, .host, .reg, .mem, .fm, .cores, .mnt] s (loadToken x r s).2 := by
  unfold loadToken
  extract_lets z0
  split
  · rename_i y1 y2 y3 y4 y5
    have h6 : Kept [.free, .jr, .host, .reg, .mem, .fm, .cores, .mnt] s y4 := by
      refine .of_pair2 y5 ?_
      exact .step (by decide) (.refl _ _) (buildJobs_frame ..)
    extract_lets z7 z8 z9
    have h10 : Kept [.free, .jr, .host, .reg, .mem, .fm, .cores, .mnt] s z7 := by
      unfold z7
      refine kept_ite ?_ ?_
      · exact .step (by decide) h6 (raiseMem_frame ..)
      · exact h6
    clear_value z7
    have h11 : Kept [.free, .jr, .host, .reg, .mem, .fm, .cores, .mnt] s z9 := by
      unfold z9
      exact .step (by decide) h10 (clearCtrs_frame ..)
    clear_value z9
    split
    · rename_i y12 y13 y14 y15
      have h16 : Kept [.free, .jr, .host, .reg, .mem, .fm, .cores, .mnt] s y14 := by
        refine .of_pair y15 ?_
        refine kept_ite_snd ?_ ?_
        · exact .step (by decide) h11 (noteOverrun_frame ..)
        · exact h11
      exact h16

theorem readOpnds_frame (x r es s) : Kept [.jr, .host, .reg, .mem, .cores] s (readOpnds x r es s).2 := by
  unfold readOpnds
  extract_lets z0
  exact .step (by decide) (.refl _ _) (fetchBlks_frame ..)

theorem writeScratch_frame (x at_ off b s) : Kept [.mem] s (writeScratch x at_ off b s) := by
  unfold writeScratch
  extract_lets z0
  split
  · rename_i y1 y2
    exact .refl _ _
  · rename_i y3 y4 y5
    refine kept_ite ?_ ?_
    · exact .step (by decide) (.refl _ _) (State.setAs_frame ..)
    · exact .step (by decide) (.refl _ _) (State.setCm_frame ..)

theorem placePrepass_frame (x old l s) : Kept [.mem] s (placePrepass x old l s) := by
  unfold placePrepass
  extract_lets z0
  refine kept_foldl (fun t1 x2 h3 => ?_) ?_
  · extract_lets z4 z5
    exact .step (by decide) h3 (writeScratch_frame ..)
  · exact .refl _ _

theorem putTile_frame (core tile es s) : Kept [.cores] s (putTile core tile es s) := by
  unfold putTile
  extract_lets z0
  exact .step (by decide) (.refl _ _) (State.setCore_frame ..)

theorem noteConv_frame (x counted clipped nonfin poisoned amax r s) :
    Kept [.reg] s (noteConv x counted clipped nonfin poisoned amax r s).2 := by
  unfold noteConv
  extract_lets z0
  rename_i w1
  refine .reg (by decide) ?_
  exact .refl _ _

theorem placeBlk_frame (x o idx l n d b s) : Kept [.mem] s (placeBlk x o idx l n d b s) := by
  unfold placeBlk
  split
  · rename_i y0 y1 y2 y3
    extract_lets z4 z5 z6 z7
    refine kept_ite ?_ ?_
    · exact .step (by decide) (.refl _ _) (writeScratch_frame ..)
    · exact .refl _ _

theorem putBlk_frame (x c n dva b r s) : Kept [.free, .jr, .host, .reg, .cores, .net] s (putBlk x c n dva b r s).2 := by
  unfold putBlk
  split
  · rename_i y0 y1 y2 y3
    have h4 : Kept [.free, .jr, .host, .reg, .cores, .net] s y2 := by
      refine .of_pair y3 ?_
      exact .step (by decide) (.refl _ _) (resultBits_frame ..)
    extract_lets z5 z6
    rename_i w7 w8
    split
    · rename_i y9 y10 y11 y12
      split
      · rename_i y13 y14 y15 y16
        split
        · rename_i y17 y18 y19 y20
          have h21 : Kept [.free, .jr, .host, .reg, .cores, .net] s y19 := by
            refine .of_pair y20 ?_
            exact .step (by decide) h4 (request_frame ..)
          exact h21
        · rename_i y22 y23 y24
          have h25 : Kept [.free, .jr, .host, .reg, .cores, .net] s y23 := by
            refine .of_pair y24 ?_
            exact .step (by decide) h4 (request_frame ..)
          split
          · rename_i y26 y27 y28 y29
            exact .step (by decide) h25 (State.setCore_frame ..)
      · rename_i y30 y31
        refine kept_ite_snd ?_ ?_
        · exact .step (by decide) h4 (outOfWindow_frame ..)
        · exact .step (by decide) h4 (State.setCore_frame ..)

theorem putOut_frame (x c dva b r s) : Kept [.free, .jr, .host, .reg, .mem, .cores, .net] s (putOut x c dva b r s).2 := by
  unfold putOut
  refine kept_ite_snd ?_ ?_
  · extract_lets z0 z1
    have h2 : Kept [.free, .jr, .host, .reg, .mem, .cores, .net] s z1 := by
      unfold z1
      split
      · rename_i y3 y4 y5
        exact .step (by decide) (.refl _ _) (placeBlk_frame ..)
      · rename_i y6 y7
        exact .refl _ _
    clear_value z1
    exact h2
  · exact .step (by decide) (.refl _ _) (putBlk_frame ..)

theorem countComp_frame (core c d s) : Kept [.reg] s (countComp core c d s) := by
  unfold countComp
  extract_lets z0 z1 z2
  rename_i w3
  refine .reg (by decide) ?_
  exact .refl _ _

theorem writeBlockBlk_frame (x k es r s) :
    Kept [.free, .jr, .host, .reg, .mem, .cores, .net] s (writeBlockBlk x k es r s).2 := by
  unfold writeBlockBlk
  extract_lets z0 z1 z2
  rename_i w3 w4
  split
  · rename_i y5 y6 y7 y8
    have h9 : Kept [.free, .jr, .host, .reg, .mem, .cores, .net] s y7 := by
      refine .of_pair y8 ?_
      refine kept_ite_snd ?_ ?_
      · exact .refl _ _
      · exact .step (by decide) (.refl _ _) (fetchBlk_frame ..)
    extract_lets z10 z11 z12
    split
    · rename_i y13 y14 y15 y16
      have h17 : Kept [.free, .jr, .host, .reg, .mem, .cores, .net] s y15 := by
        refine .of_pair y16 ?_
        exact .step (by decide) h9 (noteConv_frame ..)
      exact .step (by decide) (.step (by decide) h17 (countComp_frame ..)) (putOut_frame ..)

theorem writeElemBlk_frame (x rho k es r s) :
    Kept [.free, .jr, .host, .reg, .mem, .cores, .net] s (writeElemBlk x rho k es r s).2 := by
  unfold writeElemBlk
  extract_lets z0 z1 z2 z3 z4
  rename_i w5 w6 w7
  split
  · rename_i y8 y9 y10 y11
    have h12 : Kept [.free, .jr, .host, .reg, .mem, .cores, .net] s y10 := by
      refine .of_pair y11 ?_
      refine kept_ite_snd ?_ ?_
      · exact .refl _ _
      · exact .step (by decide) (.refl _ _) (fetchBlk_frame ..)
    extract_lets z13 z14 z15
    split
    · rename_i y16 y17 y18 y19
      have h20 : Kept [.free, .jr, .host, .reg, .mem, .cores, .net] s y18 := by
        refine .of_pair y19 ?_
        exact .step (by decide) h12 (noteConv_frame ..)
      exact .step (by decide) (.step (by decide) h20 (countComp_frame ..)) (putOut_frame ..)

theorem writeOut_frame (x es r s) : Kept [.free, .jr, .host, .reg, .mem, .cores, .net] s (writeOut x es r s).2 := by
  unfold writeOut
  extract_lets z0
  rename_i w1 w2 w3
  have h4 : Kept [.free, .jr, .host, .reg, .mem, .cores, .net] s w1 := by
    unfold w1
    refine kept_foldl (fun t5 x6 h7 => ?_) ?_
    · split
      · rename_i y8 y9
        exact .step (by decide) h7 (outOfWindow_frame ..)
      · rename_i y10 y11 y12
        exact .step (by decide) h7 (putTile_frame ..)
    · exact .refl _ _
  clear_value w1
  refine kept_ite_snd ?_ ?_
  · exact h4
  · refine kept_foldl_snd (fun t13 x14 h15 => ?_) ?_
    · extract_lets z16
      refine kept_ite_snd ?_ ?_
      · exact .step (by decide) h15 (outOfWindow_frame ..)
      · refine kept_ite_snd ?_ ?_
        · exact .step (by decide) h15 (writeBlockBlk_frame ..)
        · exact .step (by decide) h15 (writeElemBlk_frame ..)
    · exact .refl _ _

theorem emit_frame (x es r s) : Kept [.free, .jr, .host, .reg, .mem, .cores, .net] s (emit x es r s).2 := by
  unfold emit
  split
  · rename_i y0 y1 y2 y3
    have h4 : Kept [.free, .jr, .host, .reg, .mem, .cores, .net] s y2 := by
      refine .of_pair y3 ?_
      exact .step (by decide) (.step (by decide) (.refl _ _) (noteWork_frame ..)) (readOpnds_frame ..)
    extract_lets z5
    rename_i w6
    refine kept_ite_snd ?_ ?_
    · exact .step (by decide) h4 (placePrepass_frame ..)
    · exact .step (by decide) h4 (writeOut_frame ..)

theorem endCountStep_frame (x r s) : Kept [.free, .jr, .host, .reg, .mem, .cores, .net] s (endCountStep x r s).2 := by
  unfold endCountStep
  extract_lets z0 z1 z2 z3 z4 z5 z6
  rename_i w7
  have h8 : Kept [.free, .jr, .host, .reg, .mem, .cores, .net] s z6 := by
    unfold z6
    refine kept_ite ?_ ?_
    · exact .step (by decide) (.refl _ _) (raise_frame ..)
    · exact .refl _ _
  clear_value z6
  split
  · rename_i y9 y10 y11 y12
    have h13 : Kept [.free, .jr, .host, .reg, .mem, .cores, .net] s y11 := by
      refine .of_pair y12 ?_
      exact .step (by decide) h8 (emit_frame ..)
    extract_lets z14 z15
    have h16 : Kept [.free, .jr, .host, .reg, .mem, .cores, .net] s z15 := by
      unfold z15
      refine kept_ite ?_ ?_
      · exact h13
      · refine kept_foldl (fun t17 x18 h19 => ?_) ?_
        · extract_lets z20 z21 z22
          exact .step (by decide) h19 (State.setCore_frame ..)
        · exact h13
    clear_value z15
    exact h16

theorem endToken_frame (x r s) : Kept [.free, .jr, .host, .reg, .mem, .fm, .cores, .net, .mnt] s (endToken x r s).2 := by
  unfold endToken
  extract_lets z0 z1 z2
  have h3 : Kept [.free, .jr, .host, .reg, .mem, .fm, .cores, .net, .mnt] s z2 := by
    unfold z2
    refine kept_foldl (fun t4 x5 h6 => ?_) ?_
    · exact .step (by decide) h6 (granuleToken_frame ..)
    · exact .refl _ _
  clear_value z2
  refine kept_ite_snd ?_ ?_
  · exact .step (by decide) h3 (loadToken_frame ..)
  · exact .step (by decide) h3 (endCountStep_frame ..)

theorem closeSlice_frame (x r s) :
    Kept [.free, .jr, .host, .reg, .mem, .fm, .cores, .net, .mnt] s (closeSlice x r s).2 := by
  unfold closeSlice
  extract_lets z0 z1 z2 z3
  have h4 : Kept [.free, .jr, .host, .reg, .mem, .fm, .cores, .net, .mnt] s z2 := by
    unfold z2
    exact .step (by decide) (.refl _ _) (clearCtrs_frame ..)
  clear_value z2
  refine kept_ite_snd ?_ ?_
  · exact h4
  · refine kept_ite_snd ?_ ?_
    · exact h4
    · exact .step (by decide) h4 (endToken_frame ..)

theorem copyStep_frame (x pts r s) : Kept [.free, .jr, .host, .reg, .mem, .cores, .net] s (copyStep x pts r s).2 := by
  unfold copyStep
  extract_lets z0
  exact .step (by decide) (.refl _ _) (emit_frame ..)

theorem touchFrames_frame (x pts s) : Kept [.fm] s (touchFrames x pts s) := by
  unfold touchFrames
  refine kept_foldl (fun t0 x1 h2 => ?_) ?_
  · split
    · rename_i y3 y4
      exact h2
    · rename_i y5 y6 y7
      extract_lets z8
      rename_i w9
      have h10 : Kept [.fm] s w9 := by
        unfold w9
        refine .fm (by decide) ?_
        exact h2
      clear_value w9
      exact .step (by decide) h10 (State.setFrame_frame ..)
  · exact .refl _ _

theorem startCount_frame (x n r s) :
    Kept [.free, .jr, .host, .reg, .mem, .fm, .cores, .mnt] s (startCount x n r s).2 := by
  unfold startCount
  extract_lets z0 z1 z2
  have h3 : Kept [.free, .jr, .host, .reg, .mem, .fm, .cores, .mnt] s z2 := by
    unfold z2
    exact .step (by decide) (.refl _ _) (touchFrames_frame ..)
  clear_value z2
  split
  · rename_i y4 y5 y6 y7
    have h8 : Kept [.free, .jr, .host, .reg, .mem, .fm, .cores, .mnt] s y6 := by
      refine .of_pair y7 ?_
      exact .step (by decide) h3 (bufferStep_frame ..)
    extract_lets z9
    exact .step (by decide) h8 (loadToken_frame ..)

theorem startWrite_frame (x n r s) : Kept [.free, .jr, .host, .reg, .mem, .cores] s (startWrite x n r s).2 := by
  unfold startWrite
  extract_lets z0 z1
  rename_i w2
  split
  · rename_i y3 y4 y5 y6
    have h7 : Kept [.free, .jr, .host, .reg, .mem, .cores] s y5 := by
      refine .of_pair y6 ?_
      exact .step (by decide) (.refl _ _) (bufferStep_frame ..)
    extract_lets z8 z9 z10 z11 z12 z13 z14 z15 z16
    have h17 : Kept [.free, .jr, .host, .reg, .mem, .cores] s z14 := by
      unfold z14
      refine kept_ite ?_ ?_
      · exact .step (by decide) h7 (raiseMem_frame ..)
      · exact h7
    clear_value z14
    exact h17

theorem progress_frame (x r s t) (h : progress x r s = some t) :
    Kept [.free, .jr, .host, .reg, .mem, .fm, .cores, .net, .mnt] s t.2 := by
  unfold progress at h
  split at h
  · cases h
  · split at h
    · split at h
      · split at h
        · cases h
          exact .step (by decide) (.refl _ _) (closeSlice_frame ..)
        · cases h
      · split at h
        · cases h
          exact .refl _ _
        · cases h
    · split at h
      · cases h
        exact .refl _ _
      · split at h
        · cases h
        · split at h
          · cases h
            exact .refl _ _
          · split at h
            · split at h
              · cases h
              · cases h
                exact .refl _ _
            · cases h
              exact kept_ite_snd (.step (by decide) (.refl _ _) (startCount_frame ..))
                (.step (by decide) (.refl _ _) (startWrite_frame ..))

theorem proceed_frame (x n r s) : Kept [.free, .jr, .host, .reg, .mem, .fm, .cores, .net, .mnt] s (proceed x n r s).2 := by
  induction n generalizing r s with
  | zero =>
    unfold proceed
    exact .refl _ _
  | succ n ih =>
    unfold proceed
    split
    · rename_i y0 y1
      exact .refl _ _
    · rename_i y2 y3 y4 y5
      have h6 : Kept [.free, .jr, .host, .reg, .mem, .fm, .cores, .net, .mnt] s y4 := by
        refine .step (by decide) ?_ (progress_frame (h := y5) ..)
        exact .refl _ _
      refine .step (fun _ h => h) ?_ (ih ..)
      exact h6

theorem setRun_frame (core r s) : Kept [.cores] s (setRun core r s) := by
  unfold setRun
  exact .step (by decide) (.refl _ _) (State.setCore_frame ..)

theorem withRun_frame {L : List Comp} {s t : State} {core : Nat} {act : TaskCtx → Run → State → Run × State} (hL : [.free, .jr, .host, .reg, .mem, .fm, .cores, .net, .mnt] ⊆ L)
    (ha : ∀ x r u, Kept L s u → Kept L s (act x r u).2) (h : Kept L s t) : Kept L s (withRun core act t) := by
  unfold withRun
  split
  · rename_i y0 y1
    exact h
  · rename_i y2 y3 y4
    split
    · rename_i y5 y6
      exact h
    · rename_i y7 y8 y9
      split
      · rename_i y10 y11 y12 y13
        have h14 : Kept L s y12 := by
          refine .of_pair y13 ?_
          refine ha _ _ _ ?_
          exact h
        split
        · rename_i y15 y16 y17 y18
          have h19 : Kept L s y17 := by
            refine .of_pair y18 ?_
            exact .step (List.Subset.trans (by decide) hL) h14 (proceed_frame ..)
          exact .step (List.Subset.trans (by decide) hL) h19 (setRun_frame ..)

theorem onRun_frame {L : List Comp} {s t : State} {core : Nat} {act : TaskCtx → Run → State → Run × State} (hL : [.free, .jr, .host, .reg, .mem, .fm, .cores, .net, .mnt] ⊆ L)
    (ha : ∀ x r u, Kept L s u → Kept L s (act x r u).2) (h : Kept L s t) : Kept L s (onRun core act t) := by
  unfold onRun
  refine kept_ite ?_ ?_
  · refine withRun_frame (List.Subset.trans (by decide) hL) (fun u0 u1 u2 u3 => ?_) ?_
    · refine ha _ _ _ ?_
      exact u3
    · exact h
  · exact h

theorem noteGuards_frame (core ref data s) : Kept [.reg] s (noteGuards core ref data s) := by
  unfold noteGuards
  exact .step (by decide) (.step (by decide) (.refl _ _) (addCountStat_frame ..)) (addCountStat_frame ..)

theorem requestRecal_frame (pm guard s) : Kept [.mnt] s (requestRecal pm guard s) := by
  unfold requestRecal
  exact .step (by decide) (.refl _ _) (queueMnt_frame ..)

theorem macEvent_frame (x code core lm seg info s) : Kept [.jr, .host] s (macEvent x code core lm seg info s) := by
  unfold macEvent
  exact .step (by decide) (.refl _ _) (raise_frame ..)

theorem guardNote_frame (x core lm pm seg g rt s) :
    Kept [.jr, .host, .fm, .mnt] s (guardNote x core lm pm seg g rt s) := by
  unfold guardNote
  extract_lets z0 z1 z2 z3 z4 z5 z6 z7 z8 z9
  have h10 : Kept [.jr, .host, .fm, .mnt] s z8 := by
    unfold z8
    exact .step (by decide) (.refl _ _) (State.setMac_frame ..)
  clear_value z8
  have h11 : Kept [.jr, .host, .fm, .mnt] s z9 := by
    unfold z9
    refine kept_ite ?_ ?_
    · exact .step (by decide) (.step (by decide) h10 (macEvent_frame ..)) (requestRecal_frame ..)
    · exact h10
  clear_value z9
  refine kept_ite ?_ ?_
  · exact .step (by decide) (.step (by decide) h11 (macEvent_frame ..)) (requestRecal_frame ..)
  · exact h11

theorem countJob_frame (x lm k dev j r s) : Kept [.jr, .host, .reg, .fm, .mnt] s (countJob x lm k dev j r s).2 := by
  unfold countJob
  extract_lets z0 z1 z2 z3 z4 z5 z6 z7 z8
  have h9 : Kept [.jr, .host, .reg, .fm, .mnt] s z4 := by
    unfold z4
    exact .step (by decide) (.step (by decide) (.refl _ _) (noteWork_frame ..)) (noteWork_frame ..)
  clear_value z4
  have h10 : Kept [.jr, .host, .reg, .fm, .mnt] s z5 := by
    unfold z5
    exact .step (by decide) h9 (State.setMac_frame ..)
  clear_value z5
  have h11 : Kept [.jr, .host, .reg, .fm, .mnt] s z7 := by
    unfold z7
    exact .step (by decide) h10 (noteGuards_frame ..)
  clear_value z7
  have h12 : Kept [.jr, .host, .reg, .fm, .mnt] s z8 := by
    unfold z8
    refine kept_foldl (fun t13 x14 h15 => ?_) ?_
    · exact .step (by decide) h15 (guardNote_frame ..)
    · exact h11
  clear_value z8
  exact h12

theorem countEffect_frame (core mac dev s) :
    Kept [.free, .jr, .host, .reg, .mem, .fm, .cores, .net, .mnt] s (countEffect core mac dev s) := by
  unfold countEffect
  refine onRun_frame (by decide) (fun u0 u1 u2 u3 => ?_) ?_
  · split
    · rename_i y4 y5
      exact u3
    · rename_i y6 y7 y8 y9 y10
      refine kept_ite_snd ?_ ?_
      · exact u3
      · exact .step (by decide) u3 (countJob_frame ..)
  · exact .refl _ _

theorem noteRepeat_frame (core passed failed s) : Kept [.reg] s (noteRepeat core passed failed s) := by
  unfold noteRepeat
  extract_lets z0
  have h1 : Kept [.reg] s z0 := by
    unfold z0
    refine kept_ite ?_ ?_
    · exact .step (by decide) (.refl _ _) (addCountStat_frame ..)
    · exact .refl _ _
  clear_value z0
  refine kept_ite ?_ ?_
  · exact .step (by decide) h1 (addCountStat_frame ..)
  · exact h1

theorem requestDiag_frame (pm s) : Kept [.mnt] s (requestDiag pm s) := by
  unfold requestDiag
  refine kept_ite ?_ ?_
  · exact .step (by decide) (.refl _ _) (queueMnt_frame ..)
  · exact .refl _ _

theorem flagSeg_frame (x core lm pm seg s) : Kept [.jr, .host, .fm, .mnt] s (flagSeg x core lm pm seg s) := by
  unfold flagSeg
  extract_lets z0 z1
  have h2 : Kept [.jr, .host, .fm, .mnt] s z1 := by
    unfold z1
    exact .step (by decide) (.refl _ _) (State.setMac_frame ..)
  clear_value z1
  exact .step (by decide) (.step (by decide) h2 (macEvent_frame ..)) (requestDiag_frame ..)

theorem countRows_frame (x lm k dev again j r s) :
    Kept [.jr, .host, .reg, .fm, .mnt] s (countRows x lm k dev again j r s).2 := by
  unfold countRows
  extract_lets z0 z1 z2 z3 z4 z5 z6 z7 z8 z9 z10 z11 z12 z13 z14 z15 z16
  have h17 : Kept [.jr, .host, .reg, .fm, .mnt] s z8 := by
    unfold z8
    exact .step (by decide) (.refl _ _) (noteWork_frame ..)
  clear_value z8
  have h18 : Kept [.jr, .host, .reg, .fm, .mnt] s z9 := by
    unfold z9
    refine kept_ite ?_ ?_
    · exact h17
    · exact .step (by decide) h17 (noteWork_frame ..)
  clear_value z9
  have h19 : Kept [.jr, .host, .reg, .fm, .mnt] s z10 := by
    unfold z10
    exact .step (by decide) h18 (State.setMac_frame ..)
  clear_value z10
  have h20 : Kept [.jr, .host, .reg, .fm, .mnt] s z13 := by
    unfold z13
    exact .step (by decide) h19 (noteGuards_frame ..)
  clear_value z13
  have h21 : Kept [.jr, .host, .reg, .fm, .mnt] s z14 := by
    unfold z14
    refine kept_foldl (fun t22 x23 h24 => ?_) ?_
    · exact .step (by decide) h24 (guardNote_frame ..)
    · exact h20
  clear_value z14
  have h25 : Kept [.jr, .host, .reg, .fm, .mnt] s z15 := by
    unfold z15
    refine kept_ite ?_ ?_
    · exact .step (by decide) h21 (noteRepeat_frame ..)
    · exact h21
  clear_value z15
  have h26 : Kept [.jr, .host, .reg, .fm, .mnt] s z16 := by
    unfold z16
    refine kept_ite ?_ ?_
    · refine kept_foldl (fun t27 x28 h29 => ?_) ?_
      · exact .step (by decide) h29 (flagSeg_frame ..)
      · exact h25
    · exact h25
  clear_value z16
  exact h26

theorem endTrip_frame (x r s) : Kept [.free, .jr, .host, .reg, .mem, .cores, .net] s (endTrip x r s).2 := by
  unfold endTrip
  extract_lets z0 z1
  refine kept_foldl_snd (fun t2 x3 h4 => ?_) ?_
  · refine .step (by decide) ?_ (putBlk_frame ..)
    refine kept_foldl (fun t5 x6 h7 => ?_) ?_
    · exact .step (by decide) h7 (placeBlk_frame ..)
    · exact h4
  · exact .refl _ _

theorem readHdr_frame (x r va s) : Kept [.free, .jr, .host, .reg, .mem, .cores] s (readHdr x r va s).2 := by
  unfold readHdr
  split
  · rename_i y0 y1 y2 y3 y4
    have h5 : Kept [.free, .jr, .host, .reg, .mem, .cores] s y3 := by
      refine .of_pair2 y4 ?_
      exact .step (by decide) (.refl _ _) (fetchDesc_frame ..)
    exact h5

theorem readScales_frame (x r s) : Kept [.jr, .host, .reg, .mem, .cores] s (readScales x r s).2 := by
  unfold readScales
  extract_lets z0
  rename_i w1
  refine kept_ite_snd ?_ ?_
  · exact .refl _ _
  · split
    · rename_i y2 y3 y4 y5
      have h6 : Kept [.jr, .host, .reg, .mem, .cores] s y4 := by
        refine .of_pair y5 ?_
        exact .step (by decide) (.refl _ _) (fetchBlks_frame ..)
      exact h6

theorem readRecord_frame (x r s) : Kept [.jr, .host, .reg, .mem, .cores] s (readRecord x r s).2 := by
  unfold readRecord
  refine kept_ite_snd ?_ ?_
  · exact .refl _ _
  · split
    · rename_i y0 y1 y2 y3 y4
      have h5 : Kept [.jr, .host, .reg, .mem, .cores] s y3 := by
        refine .of_pair2 y4 ?_
        exact .step (by decide) (.refl _ _) (readBytes_frame ..)
      extract_lets z6 z7 z8
      exact h5

theorem fillTables_frame (x r s) : Kept [.free, .jr, .host, .reg, .mem, .cores] s (fillTables x r s).2 := by
  unfold fillTables
  extract_lets z0
  rename_i w1 w2
  refine kept_ite_snd ?_ ?_
  · exact .refl _ _
  · split
    · rename_i y3 y4 y5 y6 y7
      have h8 : Kept [.free, .jr, .host, .reg, .mem, .cores] s y6 := by
        refine .of_pair2 y7 ?_
        refine kept_ite_snd2 ?_ ?_
        · exact .refl _ _
        · unfold w1
          split
          · rename_i y9 y10 y11 y12 y13
            have h14 : Kept [.free, .jr, .host, .reg, .mem, .cores] s y12 := by
              refine .of_pair2 y13 ?_
              exact .step (by decide) (.refl _ _) (fetchDesc_frame ..)
            exact h14
      split
      · rename_i y15 y16 y17 y18 y19
        have h20 : Kept [.free, .jr, .host, .reg, .mem, .cores] s y18 := by
          refine .of_pair2 y19 ?_
          refine kept_ite_snd2 ?_ ?_
          · exact h8
          · unfold w1
            split
            · rename_i y21 y22 y23 y24 y25
              have h26 : Kept [.free, .jr, .host, .reg, .mem, .cores] s y24 := by
                refine .of_pair2 y25 ?_
                exact .step (by decide) h8 (fetchDesc_frame ..)
              exact h26
        split
        · rename_i y27 y28 y29 y30 y31
          have h32 : Kept [.free, .jr, .host, .reg, .mem, .cores] s y30 := by
            refine .of_pair y31 ?_
            refine kept_ite_snd ?_ ?_
            · exact .step (by decide) h20 (readHdr_frame ..)
            · exact h20
          extract_lets z33 z34
          exact h32

theorem setupRun_frame (x r s) : Kept [.free, .jr, .host, .reg, .mem, .cores] s (setupRun x r s).2 := by
  unfold setupRun
  extract_lets z0
  split
  · rename_i y1 y2 y3 y4 y5
    have h6 : Kept [.free, .jr, .host, .reg, .mem, .cores] s y4 := by
      refine .of_pair y5 ?_
      refine kept_ite_snd ?_ ?_
      · exact .refl _ _
      · exact .step (by decide) (.refl _ _) (readHdr_frame ..)
    split
    · rename_i y7 y8 y9 y10
      have h11 : Kept [.free, .jr, .host, .reg, .mem, .cores] s y9 := by
        refine .of_pair y10 ?_
        exact .step (by decide) h6 (readScales_frame ..)
      split
      · rename_i y12 y13 y14 y15
        have h16 : Kept [.free, .jr, .host, .reg, .mem, .cores] s y14 := by
          refine .of_pair y15 ?_
          exact .step (by decide) h11 (readRecord_frame ..)
        split
        · rename_i y17 y18 y19 y20 y21
          have h22 : Kept [.free, .jr, .host, .reg, .mem, .cores] s y20 := by
            refine .of_pair y21 ?_
            refine kept_ite_snd ?_ ?_
            · exact h16
            · exact .step (by decide) h16 (readHdr_frame ..)
          extract_lets z23
          split
          · rename_i y24 y25 y26 y27
            have h28 : Kept [.free, .jr, .host, .reg, .mem, .cores] s y26 := by
              refine .of_pair y27 ?_
              exact .step (by decide) h22 (fillTables_frame ..)
            extract_lets z29 z30
            exact h28

theorem taskStart_frame (c s) : Kept [.free, .jr, .host, .reg, .mem, .fm, .cores, .net, .mnt] s (taskStart c s) := by
  unfold taskStart
  extract_lets z0
  refine kept_ite ?_ ?_
  · exact .refl _ _
  · split
    · rename_i y1 y2
      exact .refl _ _
    · rename_i y3 y4 y5
      extract_lets z6
      have h7 : Kept [.free, .jr, .host, .reg, .mem, .fm, .cores, .net, .mnt] s z6 := by
        unfold z6
        exact .step (by decide) (.refl _ _) (State.setCore_frame ..)
      clear_value z6
      refine withRun_frame (by decide) (fun u8 u9 u10 u11 => ?_) ?_
      · extract_lets z12
        have h13 : Kept [.free, .jr, .host, .reg, .mem, .fm, .cores, .net, .mnt] s z12 := by
          unfold z12
          exact .step (by decide) u11 (readIdx_frame ..)
        clear_value z12
        refine kept_ite_snd ?_ ?_
        · exact .step (by decide) h13 (setupRun_frame ..)
        · exact h13
      · exact h7

theorem execTaskStart_frame (core s t) (h : execTaskStart core s = .next t) :
    Kept [.free, .jr, .host, .reg, .mem, .fm, .cores, .net, .mnt] s t := by
  have e := Host.Outcome.next.inj h
  subst e
  exact .step (by decide) (.refl _ _) (taskStart_frame ..)

theorem stageA_frame (x n r s) : Kept [.free, .jr, .host, .reg, .mem, .cores] s (stageA x n r s).2 := by
  unfold stageA
  extract_lets z0 z1
  split
  · rename_i y2 y3 y4 y5
    have h6 : Kept [.free, .jr, .host, .reg, .mem, .cores] s y4 := by
      refine .of_pair y5 ?_
      split
      · rename_i y7 y8
        exact .refl _ _
      · rename_i y9 y10 y11
        refine kept_ite_snd ?_ ?_
        · exact .refl _ _
        · refine kept_foldl_snd (fun t12 x13 h14 => ?_) ?_
          · refine kept_ite_snd ?_ ?_
            · exact h14
            · split
              · rename_i y15 y16 y17 y18
                have h19 : Kept [.free, .jr, .host, .reg, .mem, .cores] s y17 := by
                  refine .of_pair y18 ?_
                  exact .step (by decide) h14 (fetchA_frame ..)
                exact h19
          · exact .refl _ _
    extract_lets z20
    have h21 : Kept [.free, .jr, .host, .reg, .mem, .cores] s z20 := by
      unfold z20
      refine kept_foldl (fun t22 x23 h24 => ?_) ?_
      · refine kept_foldl (fun t25 x26 h27 => ?_) ?_
        · exact .step (by decide) h27 (placeBlk_frame ..)
        · exact h24
      · exact h6
    clear_value z20
    exact h21

theorem stageStep_frame (x r s) :
    Kept [.free, .jr, .host, .reg, .mem, .fm, .cores, .net, .mnt] s (stageStep x r s).2 := by
  unfold stageStep
  refine kept_ite_snd ?_ ?_
  · exact .refl _ _
  · refine kept_ite_snd ?_ ?_
    · exact .step (by decide) (.refl _ _) (endTrip_frame ..)
    · extract_lets z0
      refine kept_ite_snd ?_ ?_
      · exact .step (by decide) (.refl _ _) (askBlocks_frame ..)
      · refine kept_ite_snd ?_ ?_
        · exact .step (by decide) (.refl _ _) (setupRun_frame ..)
        · refine kept_ite_snd ?_ ?_
          · exact .refl _ _
          · split
            · rename_i y1 y2
              exact .refl _ _
            · rename_i y3 y4 y5
              refine kept_ite_snd ?_ ?_
              · exact .refl _ _
              · split
                · rename_i y6 y7 y8 y9
                  have h10 : Kept [.free, .jr, .host, .reg, .mem, .fm, .cores, .net, .mnt] s y8 := by
                    refine .of_pair y9 ?_
                    exact .step (by decide) (.refl _ _) (stageA_frame ..)
                  refine kept_ite_snd ?_ ?_
                  · extract_lets z11
                    split
                    · rename_i y12 y13 y14 y15
                      have h16 : Kept [.free, .jr, .host, .reg, .mem, .fm, .cores, .net, .mnt] s y14 := by
                        refine .of_pair y15 ?_
                        exact .step (by decide) h10 (bufferStep_frame ..)
                      split
                      · rename_i y17 y18 y19 y20
                        have h21 : Kept [.free, .jr, .host, .reg, .mem, .fm, .cores, .net, .mnt] s y19 := by
                          refine .of_pair y20 ?_
                          exact .step (by decide) h16 (copyStep_frame ..)
                        extract_lets z22
                        refine kept_ite_snd ?_ ?_
                        · exact .step (by decide) h21 (endTrip_frame ..)
                        · exact h21
                  · refine kept_ite_snd ?_ ?_
                    · exact .step (by decide) h10 (startCount_frame ..)
                    · exact .step (by decide) h10 (startWrite_frame ..)

theorem execStagingCopy_frame (core s t) (h : execStagingCopy core s = .next t) :
    Kept [.free, .jr, .host, .reg, .mem, .fm, .cores, .net, .mnt] s t := by
  have e := Host.Outcome.next.inj h
  subst e
  refine kept_ite ?_ ?_
  · refine withRun_frame (by decide) (fun u0 u1 u2 u3 => ?_) ?_
    · exact .step (by decide) u3 (stageStep_frame ..)
    · exact .refl _ _
  · exact .refl _ _

theorem execCount_frame (core mac dev s t) (h : execCount core mac dev s = .next t) :
    Kept [.free, .jr, .host, .reg, .mem, .fm, .cores, .net, .mnt] s t := by
  have e := Host.Outcome.next.inj h
  subst e
  exact .step (by decide) (.refl _ _) (countEffect_frame ..)

theorem retryJob_frame (x lm k dev j r s) : Kept [.jr, .host, .reg, .fm, .mnt] s (retryJob x lm k dev j r s).2 := by
  unfold retryJob
  extract_lets z0 z1 z2 z3 z4 z5 z6 z7 z8 z9 z10 z11 z12
  have h13 : Kept [.jr, .host, .reg, .fm, .mnt] s z6 := by
    unfold z6
    exact .step (by decide) (.refl _ _) (noteWork_frame ..)
  clear_value z6
  have h14 : Kept [.jr, .host, .reg, .fm, .mnt] s z7 := by
    unfold z7
    exact .step (by decide) h13 (State.setMac_frame ..)
  clear_value z7
  have h15 : Kept [.jr, .host, .reg, .fm, .mnt] s z9 := by
    unfold z9
    exact .step (by decide) h14 (noteGuards_frame ..)
  clear_value z9
  have h16 : Kept [.jr, .host, .reg, .fm, .mnt] s z10 := by
    unfold z10
    refine kept_foldl (fun t17 x18 h19 => ?_) ?_
    · exact .step (by decide) h19 (guardNote_frame ..)
    · exact h15
  clear_value z10
  have h20 : Kept [.jr, .host, .reg, .fm, .mnt] s z11 := by
    unfold z11
    exact .step (by decide) h16 (noteRepeat_frame ..)
  clear_value z11
  have h21 : Kept [.jr, .host, .reg, .fm, .mnt] s z12 := by
    unfold z12
    refine kept_foldl (fun t22 x23 h24 => ?_) ?_
    · exact .step (by decide) h24 (flagSeg_frame ..)
    · exact h20
  clear_value z12
  exact h21

theorem retryEffect_frame (core mac dev s) :
    Kept [.free, .jr, .host, .reg, .mem, .fm, .cores, .net, .mnt] s (retryEffect core mac dev s) := by
  unfold retryEffect
  refine onRun_frame (by decide) (fun u0 u1 u2 u3 => ?_) ?_
  · split
    · rename_i y4 y5
      exact u3
    · rename_i y6 y7 y8 y9
      refine kept_ite_snd ?_ ?_
      · exact u3
      · refine kept_ite_snd ?_ ?_
        · exact .step (by decide) u3 (countRows_frame ..)
        · exact .step (by decide) u3 (retryJob_frame ..)
  · exact .refl _ _

theorem execCountRetry_frame (core mac dev s t) (h : execCountRetry core mac dev s = .next t) :
    Kept [.free, .jr, .host, .reg, .mem, .fm, .cores, .net, .mnt] s t := by
  have e := Host.Outcome.next.inj h
  subst e
  exact .step (by decide) (.refl _ _) (retryEffect_frame ..)

theorem fillerCheck_frame (x core mac rows dev s) :
    Kept [.jr, .host, .reg, .fm, .mnt] s (fillerCheck x core mac rows dev s) := by
  unfold fillerCheck
  extract_lets z0 z1 z2 z3 z4 z5 z6
  rename_i w7
  have h8 : Kept [.jr, .host, .reg, .fm, .mnt] s z4 := by
    unfold z4
    split
    · rename_i y9 y10
      exact .step (by decide) (.refl _ _) (noteWork_frame ..)
    · rename_i y11
      exact .step (by decide) (.refl _ _) (noteWork_frame ..)
  clear_value z4
  have h12 : Kept [.jr, .host, .reg, .fm, .mnt] s z6 := by
    unfold z6
    refine .mnt (by decide) ?_
    exact h8
  clear_value z6
  have h13 : Kept [.jr, .host, .reg, .fm, .mnt] s w7 := by
    unfold w7
    exact .step (by decide) h12 (noteGuards_frame ..)
  clear_value w7
  refine kept_foldl (fun t14 x15 h16 => ?_) ?_
  · exact .step (by decide) h16 (guardNote_frame ..)
  · exact h13

theorem fillerEffect_frame (core mac rows dev s) :
    Kept [.free, .jr, .host, .reg, .mem, .fm, .cores, .net, .mnt] s (fillerEffect core mac rows dev s) := by
  unfold fillerEffect
  refine onRun_frame (by decide) (fun u0 u1 u2 u3 => ?_) ?_
  · split
    · rename_i y4 y5
      exact u3
    · rename_i y6 y7 y8 y9 y10
      refine kept_ite_snd ?_ ?_
      · exact .step (by decide) u3 (fillerCheck_frame ..)
      · exact u3
  · exact .refl _ _

theorem execFillerCount_frame (core mac rows dev s t) (h : execFillerCount core mac rows dev s = .next t) :
    Kept [.free, .jr, .host, .reg, .mem, .fm, .cores, .net, .mnt] s t := by
  have e := Host.Outcome.next.inj h
  subst e
  exact .step (by decide) (.refl _ _) (fillerEffect_frame ..)

theorem glideEffect_frame (core mac slot dev s) :
    Kept [.jr, .host, .reg, .fm, .cores, .mnt] s (glideEffect core mac slot dev s) := by
  unfold glideEffect
  extract_lets z0
  rename_i w1 w2
  have h3 : Kept [.jr, .host, .reg, .fm, .cores, .mnt] s w2 := by
    unfold w2
    exact .step (by decide) (.refl _ _) (State.setCore_frame ..)
  clear_value w2
  split
  · rename_i y4 y5
    exact .refl _ _
  · rename_i y6 y7 y8
    refine kept_ite ?_ ?_
    · exact .refl _ _
    · extract_lets z9
      refine kept_ite ?_ ?_
      · exact h3
      · exact .step (by decide) h3 (fillerCheck_frame ..)

theorem execGlideFiller_frame (core mac slot dev s t) (h : execGlideFiller core mac slot dev s = .next t) :
    Kept [.jr, .host, .reg, .fm, .cores, .mnt] s t := by
  have e := Host.Outcome.next.inj h
  subst e
  exact .step (by decide) (.refl _ _) (glideEffect_frame ..)

theorem freeRows_frame (s) : Kept [.free] s (freeRows s).2 := by
  unfold freeRows
  split
  · rename_i y0 y1 y2 y3
    have h4 : Kept [.free] s y2 := by
      refine .of_pair y3 ?_
      exact .step (by decide) (.refl _ _) (freshFree_frame ..)
    exact h4

theorem steeringEffect_frame (core dev s) :
    Kept [.free, .jr, .host, .reg, .mem, .fm, .cores, .net, .mnt] s (steeringEffect core dev s) := by
  unfold steeringEffect
  refine onRun_frame (by decide) (fun u0 u1 u2 u3 => ?_) ?_
  · extract_lets z4
    refine kept_ite_snd ?_ ?_
    · exact u3
    · split
      · rename_i y5 y6 y7 y8
        have h9 : Kept [.free, .jr, .host, .reg, .mem, .fm, .cores, .net, .mnt] s y7 := by
          refine .of_pair y8 ?_
          exact .step (by decide) u3 (freeRows_frame ..)
        extract_lets z10
        have h11 : Kept [.free, .jr, .host, .reg, .mem, .fm, .cores, .net, .mnt] s z10 := by
          unfold z10
          refine kept_foldl (fun t12 x13 h14 => ?_) ?_
          · exact .step (by decide) h14 (fillerCheck_frame ..)
          · exact h9
        clear_value z10
        exact h11
  · exact .refl _ _

theorem execSteeringSlot_frame (core dev s t) (h : execSteeringSlot core dev s = .next t) :
    Kept [.free, .jr, .host, .reg, .mem, .fm, .cores, .net, .mnt] s t := by
  have e := Host.Outcome.next.inj h
  subst e
  exact .step (by decide) (.refl _ _) (steeringEffect_frame ..)

theorem transposedEffect_frame (core mac dev s) :
    Kept [.free, .jr, .host, .reg, .mem, .fm, .cores, .net, .mnt] s (transposedEffect core mac dev s) := by
  unfold transposedEffect
  refine onRun_frame (by decide) (fun u0 u1 u2 u3 => ?_) ?_
  · split
    · rename_i y4 y5
      exact u3
    · rename_i y6 y7 y8 y9 y10
      refine kept_ite_snd ?_ ?_
      · exact u3
      · exact .step (by decide) u3 (countRows_frame ..)
  · exact .refl _ _

theorem execTransposedCount_frame (core mac dev s t) (h : execTransposedCount core mac dev s = .next t) :
    Kept [.free, .jr, .host, .reg, .mem, .fm, .cores, .net, .mnt] s t := by
  have e := Host.Outcome.next.inj h
  subst e
  exact .step (by decide) (.refl _ _) (transposedEffect_frame ..)

theorem guardWindowEndEffect_frame (mac seg s) : Kept [.fm] s (guardWindowEndEffect mac seg s) := by
  unfold guardWindowEndEffect
  extract_lets z0
  refine kept_ite ?_ ?_
  · exact .refl _ _
  · exact .step (by decide) (.refl _ _) (State.setMac_frame ..)

theorem execGuardWindowEnd_frame (mac seg s t) (h : execGuardWindowEnd mac seg s = .next t) :
    Kept [.fm] s t := by
  have e := Host.Outcome.next.inj h
  subst e
  exact .step (by decide) (.refl _ _) (guardWindowEndEffect_frame ..)

theorem retryWindowEndEffect_frame (mac seg s) : Kept [.fm] s (retryWindowEndEffect mac seg s) := by
  unfold retryWindowEndEffect
  extract_lets z0
  refine kept_ite ?_ ?_
  · exact .refl _ _
  · exact .step (by decide) (.refl _ _) (State.setMac_frame ..)

theorem execRetryWindowEnd_frame (mac seg s t) (h : execRetryWindowEnd mac seg s = .next t) :
    Kept [.fm] s t := by
  have e := Host.Outcome.next.inj h
  subst e
  exact .step (by decide) (.refl _ _) (retryWindowEndEffect_frame ..)

theorem raiseMacro_frame (code pm seg info s) : Kept [.jr, .host] s (raiseMacro code pm seg info s) := by
  unfold raiseMacro
  split
  · rename_i y0 y1
    exact .refl _ _
  · rename_i y2 y3 y4 y5
    exact .step (by decide) (.refl _ _) (raise_frame ..)

theorem refreshRows_frame (pm rows flips s) : Kept [.jr, .host, .fm, .mnt] s (refreshRows pm rows flips s) := by
  unfold refreshRows
  extract_lets z0 z1 z2 z3 z4 z5 z6
  rename_i w7 w8
  have h9 : Kept [.jr, .host, .fm, .mnt] s z6 := by
    unfold z6
    exact .step (by decide) (.refl _ _) (State.setMac_frame ..)
  clear_value z6
  have h10 : Kept [.jr, .host, .fm, .mnt] s w8 := by
    unfold w8
    refine .mnt (by decide) ?_
    exact h9
  clear_value w8
  refine kept_foldl (fun t11 x12 h13 => ?_) ?_
  · exact .step (by decide) (.step (by decide) h13 (raiseMacro_frame ..)) (requestDiag_frame ..)
  · exact h10

theorem refreshSlotEffect_frame (pm flips s) : Kept [.jr, .host, .fm, .mnt] s (refreshSlotEffect pm flips s) := by
  unfold refreshSlotEffect
  refine kept_ite ?_ ?_
  · exact .refl _ _
  · extract_lets z0 z1
    rename_i w2
    have h3 : Kept [.jr, .host, .fm, .mnt] s z1 := by
      unfold z1
      exact .step (by decide) (.refl _ _) (refreshRows_frame ..)
    clear_value z1
    exact .step (by decide) h3 (State.setMac_frame ..)

theorem execRefreshSlot_frame (mac flips s t) (h : execRefreshSlot mac flips s = .next t) :
    Kept [.jr, .host, .fm, .mnt] s t := by
  have e := Host.Outcome.next.inj h
  subst e
  exact .step (by decide) (.refl _ _) (refreshSlotEffect_frame ..)

theorem urgentRefreshEffect_frame (pm row flips s) :
    Kept [.jr, .host, .fm, .tick, .mnt] s (urgentRefreshEffect pm row flips s) := by
  unfold urgentRefreshEffect
  split
  · rename_i y0 y1 y2 y3 y4 y5 y6 y7 y8 y9
    extract_lets z10 z11 z12 z13 z14
    rename_i w15 w16
    have h17 : Kept [.jr, .host, .fm, .tick, .mnt] s z11 := by
      unfold z11
      exact .step (by decide) (.refl _ _) (advanceTo_frame ..)
    clear_value z11
    have h18 : Kept [.jr, .host, .fm, .tick, .mnt] s z13 := by
      unfold z13
      exact .step (by decide) h17 (refreshRows_frame ..)
    clear_value z13
    have h19 : Kept [.jr, .host, .fm, .tick, .mnt] s w15 := by
      unfold w15
      refine .mnt (by decide) ?_
      exact h18
    clear_value w15
    exact .step (by decide) h19 (raiseOncePer_frame ..)
  · rename_i y20 y21 y22 y23
    exact .refl _ _

theorem execUrgentRefresh_frame (mac row flips s t) (h : execUrgentRefresh mac row flips s = .next t) :
    Kept [.jr, .host, .fm, .tick, .mnt] s t := by
  have e := Host.Outcome.next.inj h
  subst e
  exact .step (by decide) (.refl _ _) (urgentRefreshEffect_frame ..)

theorem poisonJobs_frame (fn core ms pm s) : Kept [.cores] s (poisonJobs fn core ms pm s) := by
  unfold poisonJobs
  extract_lets z0 z1 z2
  refine kept_ite ?_ ?_
  · exact .step (by decide) (.refl _ _) (State.setCore_frame ..)
  · exact .refl _ _

theorem retentionLostEffect_frame (pm row s) :
    Kept [.jr, .host, .fm, .tick, .cores] s (retentionLostEffect pm row s) := by
  unfold retentionLostEffect
  split
  · rename_i y0 y1 y2 y3 y4 y5 y6 y7
    extract_lets z8 z9 z10 z11 z12
    have h13 : Kept [.jr, .host, .fm, .tick, .cores] s z8 := by
      unfold z8
      exact .step (by decide) (.refl _ _) (advanceTo_frame ..)
    clear_value z8
    have h14 : Kept [.jr, .host, .fm, .tick, .cores] s z11 := by
      unfold z11
      refine kept_ite ?_ ?_
      · exact .step (by decide) h13 (State.setFrame_frame ..)
      · exact .step (by decide) h13 (State.setMac_frame ..)
    clear_value z11
    have h15 : Kept [.jr, .host, .fm, .tick, .cores] s z12 := by
      unfold z12
      exact .step (by decide) h14 (poisonJobs_frame ..)
    clear_value z12
    exact .step (by decide) h15 (raiseMacro_frame ..)
  · rename_i y16 y17 y18
    exact .refl _ _

theorem execRetentionLost_frame (mac row s t) (h : execRetentionLost mac row s = .next t) :
    Kept [.jr, .host, .fm, .tick, .cores] s t := by
  have e := Host.Outcome.next.inj h
  subst e
  exact .step (by decide) (.refl _ _) (retentionLostEffect_frame ..)

theorem rowWrite_frame (full mac flips x r s) : Kept [.free, .reg, .fm, .mnt] s (rowWrite full mac flips x r s).2 := by
  unfold rowWrite
  split
  · rename_i y0 y1
    exact .refl _ _
  · rename_i y2 y3 y4 y5
    split
    · rename_i y6 y7
      exact .refl _ _
    · rename_i y8 y9 y10 y11
      refine kept_ite_snd ?_ ?_
      · exact .refl _ _
      · split
        · rename_i y12 y13 y14 y15
          have h16 : Kept [.free, .reg, .fm, .mnt] s y14 := by
            refine .of_pair y15 ?_
            exact .step (by decide) (.step (by decide) (.refl _ _) (noteWork_frame ..)) (resultBits_frame ..)
          extract_lets z17 z18 z19 z20 z21
          have h22 : Kept [.free, .reg, .fm, .mnt] s z19 := by
            unfold z19
            exact .step (by decide) h16 (restartEvac_frame ..)
          clear_value z19
          exact .step (by decide) h22 (State.setMac_frame ..)

theorem execFullRowWrite_frame (core mac s t) (h : execFullRowWrite core mac s = .next t) :
    Kept [.free, .jr, .host, .reg, .mem, .fm, .cores, .net, .mnt] s t := by
  have e := Host.Outcome.next.inj h
  subst e
  refine onRun_frame (by decide) (fun u0 u1 u2 u3 => ?_) ?_
  · exact .step (by decide) u3 (rowWrite_frame ..)
  · exact .refl _ _

theorem execMaskedRowWrite_frame (core mac flips s t) (h : execMaskedRowWrite core mac flips s = .next t) :
    Kept [.free, .jr, .host, .reg, .mem, .fm, .cores, .net, .mnt] s t := by
  have e := Host.Outcome.next.inj h
  subst e
  refine onRun_frame (by decide) (fun u0 u1 u2 u3 => ?_) ?_
  · exact .step (by decide) u3 (rowWrite_frame ..)
  · exact .refl _ _

theorem frameWritten_frame (x w s) : Kept [.fm] s (frameWritten x w s) := by
  unfold frameWritten
  split
  · rename_i y0 y1
    exact .refl _ _
  · rename_i y2 y3 y4
    split
    · rename_i y5 y6 y7
      refine kept_ite ?_ ?_
      · exact .refl _ _
      · extract_lets z8 z9 z10
        exact .step (by decide) (.refl _ _) (State.setFrame_frame ..)
    · rename_i y11 y12
      extract_lets z13
      exact .step (by decide) (.refl _ _) (State.setFrame_frame ..)

theorem readBack_frame (mac first second x r s) : Kept [.jr, .host, .reg, .fm] s (readBack mac first second x r s).2 := by
  unfold readBack
  split
  · rename_i y0 y1
    exact .refl _ _
  · rename_i y2 y3 y4 y5
    refine kept_ite_snd ?_ ?_
    · exact .refl _ _
    · extract_lets z6 z7 z8 z9 z10 z11 z12 z13 z14 z15 z16
      have h17 : Kept [.jr, .host, .reg, .fm] s z10 := by
        unfold z10
        exact .step (by decide) (.refl _ _) (noteWork_frame ..)
      clear_value z10
      have h18 : Kept [.jr, .host, .reg, .fm] s z14 := by
        unfold z14
        exact .step (by decide) h17 (State.setMac_frame ..)
      clear_value z14
      have h19 : Kept [.jr, .host, .reg, .fm] s z15 := by
        unfold z15
        exact .step (by decide) h18 (setChecks_frame ..)
      clear_value z15
      have h20 : Kept [.jr, .host, .reg, .fm] s z16 := by
        unfold z16
        refine kept_ite ?_ ?_
        · exact h19
        · exact .step (by decide) (.step (by decide) h19 (addMmuStat_frame ..)) (raiseMem_frame ..)
      clear_value z16
      exact .step (by decide) h20 (frameWritten_frame ..)

theorem execReadBack_frame (core mac first second s t) (h : execReadBack core mac first second s = .next t) :
    Kept [.free, .jr, .host, .reg, .mem, .fm, .cores, .net, .mnt] s t := by
  have e := Host.Outcome.next.inj h
  subst e
  refine onRun_frame (by decide) (fun u0 u1 u2 u3 => ?_) ?_
  · exact .step (by decide) u3 (readBack_frame ..)
  · exact .refl _ _

theorem frameReadOut_frame (core flips s) : Kept [.jr, .host, .reg, .mem, .fm, .cores] s (frameReadOut core flips s) := by
  unfold frameReadOut
  split
  · rename_i y0 y1
    exact .refl _ _
  · rename_i y2 y3 y4
    split
    · rename_i y5 y6
      exact .refl _ _
    · rename_i y7 y8 y9
      refine kept_ite ?_ ?_
      · exact .step (by decide) (.refl _ _) (pageOutImage_frame ..)
      · exact .refl _ _

theorem execFrameReadOut_frame (core flips s t) (h : execFrameReadOut core flips s = .next t) :
    Kept [.jr, .host, .reg, .mem, .fm, .cores] s t := by
  have e := Host.Outcome.next.inj h
  subst e
  exact .step (by decide) (.refl _ _) (frameReadOut_frame ..)

theorem putBytes_frame (x va bs r s) : Kept [.free, .jr, .host, .reg, .mem, .cores, .net] s (putBytes x va bs r s).2 := by
  unfold putBytes
  split
  · rename_i y0 y1 y2 y3
    have h4 : Kept [.free, .jr, .host, .reg, .mem, .cores, .net] s y2 := by
      refine .of_pair y3 ?_
      exact .step (by decide) (.refl _ _) (fetchBlk_frame ..)
    exact .step (by decide) h4 (putBlk_frame ..)

theorem writeHeader_frame (x r s) : Kept [.free, .jr, .host, .reg, .mem, .cores, .net] s (writeHeader x r s).2 := by
  unfold writeHeader
  refine kept_ite_snd ?_ ?_
  · exact .refl _ _
  · extract_lets z0 z1
    exact .step (by decide) (.refl _ _) (putBytes_frame ..)

theorem noteWritten_frame (x lf s) : Kept [.fm] s (noteWritten x lf s) := by
  unfold noteWritten
  split
  · rename_i y0 y1
    exact .refl _ _
  · rename_i y2 y3 y4
    refine kept_ite ?_ ?_
    · exact .refl _ _
    · extract_lets z5
      rename_i w6
      split
      · rename_i y7 y8 y9
        exact .step (by decide) (.refl _ _) (State.setFrame_frame ..)
      · rename_i y10 y11
        exact .step (by decide) (.refl _ _) (State.setFrame_frame ..)

theorem notePoison_frame (x r s) : Kept [.jr, .host, .adm] s (notePoison x r s) := by
  unfold notePoison
  refine kept_ite ?_ ?_
  · exact .refl _ _
  · extract_lets z0
    rename_i w1
    have h2 : Kept [.jr, .host, .adm] s w1 := by
      unfold w1
      exact .step (by decide) (.refl _ _) (raise_frame ..)
    clear_value w1
    split
    · rename_i y3 y4
      exact h2
    · rename_i y5 y6 y7
      exact .step (by decide) h2 (setExec_frame ..)

theorem writeHint_frame (x r s) : Kept [.jr, .host, .reg, .mem, .cores] s (writeHint x r s) := by
  unfold writeHint
  refine kept_ite ?_ ?_
  · exact .step (by decide) (.refl _ _) (writeBytesIn_frame ..)
  · exact .refl _ _

theorem freeCore_frame (c used s) : Kept [.cores] s (freeCore c used s) := by
  unfold freeCore
  extract_lets z0 z1
  exact .step (by decide) (.refl _ _) (State.setCore_frame ..)

theorem retireTask_frame (x r s) : Kept [.jr, .host, .reg, .mem, .fm, .adm, .cores] s (retireTask x r s) := by
  unfold retireTask
  extract_lets z0 z1 z2
  have h3 : Kept [.jr, .host, .reg, .mem, .fm, .adm, .cores] s z0 := by
    unfold z0
    refine kept_foldl (fun t4 x5 h6 => ?_) ?_
    · exact .step (by decide) h6 (noteWritten_frame ..)
    · exact .refl _ _
  clear_value z0
  have h7 : Kept [.jr, .host, .reg, .mem, .fm, .adm, .cores] s z1 := by
    unfold z1
    exact .step (by decide) (.step (by decide) h3 (writeHint_frame ..)) (notePoison_frame ..)
  clear_value z1
  have h8 : Kept [.jr, .host, .reg, .mem, .fm, .adm, .cores] s z2 := by
    unfold z2
    split
    · rename_i y9 y10
      exact h7
    · rename_i y11 y12 y13
      exact .step (by decide) h7 (setExec_frame ..)
  clear_value z2
  exact .step (by decide) h8 (freeCore_frame ..)

theorem taskRetireEffect_frame (c s) :
    Kept [.free, .jr, .host, .reg, .mem, .fm, .adm, .cores, .net] s (taskRetireEffect c s) := by
  unfold taskRetireEffect
  refine kept_ite ?_ ?_
  · exact .refl _ _
  · split
    · rename_i y0 y1
      exact .refl _ _
    · rename_i y2 y3 y4
      split
      · rename_i y5 y6
        exact .refl _ _
      · rename_i y7 y8 y9
        refine kept_ite ?_ ?_
        · exact .refl _ _
        · split
          · rename_i y10 y11 y12 y13
            have h14 : Kept [.free, .jr, .host, .reg, .mem, .fm, .adm, .cores, .net] s y12 := by
              refine .of_pair y13 ?_
              refine kept_ite_snd ?_ ?_
              · exact .refl _ _
              · exact .step (by decide) (.refl _ _) (writeHeader_frame ..)
            refine kept_ite ?_ ?_
            · exact .step (by decide) h14 (retireTask_frame ..)
            · exact .step (by decide) h14 (setRun_frame ..)

theorem execTaskRetire_frame (core s t) (h : execTaskRetire core s = .next t) :
    Kept [.free, .jr, .host, .reg, .mem, .fm, .adm, .cores, .net] s t := by
  have e := Host.Outcome.next.inj h
  subst e
  exact .step (by decide) (.refl _ _) (taskRetireEffect_frame ..)

theorem prepassOut_frame (x r s) : Kept [.free, .jr, .host, .reg, .mem, .cores, .net] s (prepassOut x r s).2 := by
  unfold prepassOut
  extract_lets z0 z1 z2 z3
  rename_i w4
  split
  · rename_i y5 y6 y7 y8
    have h9 : Kept [.free, .jr, .host, .reg, .mem, .cores, .net] s y7 := by
      refine .of_pair y8 ?_
      exact .step (by decide) (.refl _ _) (writeOut_frame ..)
    exact .step (by decide) h9 (endTrip_frame ..)

theorem recordUpdate_frame (x r s) : Kept [.free, .jr, .host, .reg, .mem, .cores, .net] s (recordUpdate x r s).2 := by
  unfold recordUpdate
  refine kept_ite_snd ?_ ?_
  · exact .refl _ _
  · split
    · rename_i y0 y1 y2 y3
      have h4 : Kept [.free, .jr, .host, .reg, .mem, .cores, .net] s y2 := by
        refine .of_pair y3 ?_
        refine kept_ite_snd ?_ ?_
        · exact .step (by decide) (.refl _ _) (prepassOut_frame ..)
        · exact .refl _ _
      extract_lets z5
      split
      · rename_i y6 y7 y8 y9 y10
        have h11 : Kept [.free, .jr, .host, .reg, .mem, .cores, .net] s y9 := by
          refine .of_pair2 y10 ?_
          exact .step (by decide) h4 (readBytes_frame ..)
        extract_lets z12
        exact .step (by decide) h11 (writeBytesIn_frame ..)

theorem execScaleRecordUpdate_frame (core s t) (h : execScaleRecordUpdate core s = .next t) :
    Kept [.free, .jr, .host, .reg, .mem, .fm, .cores, .net, .mnt] s t := by
  have e := Host.Outcome.next.inj h
  subst e
  refine onRun_frame (by decide) (fun u0 u1 u2 u3 => ?_) ?_
  · exact .step (by decide) u3 (recordUpdate_frame ..)
  · exact .refl _ _

end Sys2Proof.Machine
end

