-- ==== Sys2Proof/Laws/FrameDevice.lean ====
section
/-!
SUPPORT. What each operation leaves as it was: the object store, the life cycle, link records, power and maintenance.

The lemma `f_frame` says that `f` changes no component of the state outside the list it names, and keeps the
memories in canonical form.
-/

namespace Sys2Proof.Machine

open Sys2Proof

theorem newTxn_frame (ents done host s) : Kept [.od] s (newTxn ents done host s) := by
  unfold newTxn
  extract_lets z0 z1 z2
  rename_i w3
  refine .od (by decide) ?_
  exact .refl _ _

theorem enterHeld_frame (cause obj s) : Kept [.life, .jr, .host, .net] s (enterHeld cause obj s) := by
  unfold enterHeld
  extract_lets z0
  rename_i w1
  have h2 : Kept [.life, .jr, .host, .net] s z0 := by
    unfold z0
    exact .step (by decide) (.refl _ _) (idleLinks_frame ..)
  clear_value z0
  refine .step (by decide) ?_ (enterState_frame ..)
  refine .life (by decide) ?_
  exact h2

theorem holdFor_frame (c obj s) : Kept [.life, .jr, .host, .net] s (holdFor c obj s) := by
  unfold holdFor
  extract_lets z0
  rename_i w1
  have h2 : Kept [.life, .jr, .host, .net] s w1 := by
    unfold w1
    refine kept_ite ?_ ?_
    · exact .refl _ _
    · refine kept_ite ?_ ?_
      · exact .step (by decide) (.refl _ _) (raise_frame ..)
      · exact .step (by decide) (.refl _ _) (raise_frame ..)
  clear_value w1
  exact .step (by decide) h2 (enterHeld_frame ..)

theorem linksDone_frame (s) : Kept [.life] s (linksDone s) := by
  unfold linksDone
  refine kept_ite ?_ ?_
  · refine .life (by decide) ?_
    exact .refl _ _
  · exact .refl _ _

theorem beginLinks_frame (s) : Kept [.life, .jr, .host, .reg, .tick, .cores, .net] s (beginLinks s) := by
  unfold beginLinks
  extract_lets z0
  rename_i w1
  have h2 : Kept [.life, .jr, .host, .reg, .tick, .cores, .net] s z0 := by
    unfold z0
    refine kept_foldl (fun t3 x4 h5 => ?_) ?_
    · extract_lets z6
      rename_i w7
      refine kept_ite ?_ ?_
      · exact .step (by decide) h5 (setLinkMode_frame ..)
      · refine kept_ite ?_ ?_
        · refine kept_ite ?_ ?_
          · exact .step (by decide) h5 (setLinkMode_frame ..)
          · exact .step (by decide) (.step (by decide) h5 (State.setLink_frame ..)) (setLinkMode_frame ..)
        · refine kept_ite ?_ ?_
          · refine .step (by decide) ?_ (setLinkMode_frame ..)
            refine .net (by decide) ?_
            exact h5
          · exact .step (by decide) h5 (setLinkMode_frame ..)
    · exact .refl _ _
  clear_value z0
  refine .life (by decide) ?_
  exact h2

theorem resumeStages_frame (s) : Kept [.life, .jr, .host, .reg, .tick, .cores, .net] s (resumeStages s) := by
  unfold resumeStages
  extract_lets z0 z1
  rename_i w2 w3 w4
  have h5 : Kept [.life, .jr, .host, .reg, .tick, .cores, .net] s z0 := by
    unfold z0
    exact .step (by decide) (.refl _ _) (enterState_frame ..)
  have h6 : Kept [.life, .jr, .host, .reg, .tick, .cores, .net] s w2 := by
    unfold w2
    refine .life (by decide) ?_
    exact h5
  have h7 : Kept [.life, .jr, .host, .reg, .tick, .cores, .net] s w4 := by
    unfold w4
    refine .step (by decide) ?_ (linksDone_frame ..)
    refine .step (by decide) ?_ (beginLinks_frame ..)
    refine .life (by decide) ?_
    exact h6
  clear_value w4
  refine kept_ite ?_ ?_
  · exact h7
  · exact h6

theorem releaseEffect_frame (s) : Kept [.life, .jr, .host, .reg, .tick, .cores, .net] s (releaseEffect s) := by
  unfold releaseEffect
  refine kept_ite ?_ ?_
  · split
    · rename_i y0 y1 y2 y3
      exact .step (by decide) (.refl _ _) (holdFor_frame ..)
    · rename_i y4 y5
      exact .step (by decide) (.refl _ _) (resumeStages_frame ..)
  · exact .refl _ _

theorem enterRecovery_frame (s) : Kept [.life, .jr, .host] s (enterRecovery s) := by
  unfold enterRecovery
  extract_lets z0
  rename_i w1 w2
  have h3 : Kept [.life, .jr, .host] s w2 := by
    unfold w2
    refine .life (by decide) ?_
    exact .refl _ _
  clear_value w2
  exact .step (by decide) h3 (enterState_frame ..)

theorem setSlot_frame (k v s) : Kept [.life] s (setSlot k v s) := by
  unfold setSlot
  refine .life (by decide) ?_
  exact .refl _ _

theorem setSlotSt_frame (k v s) : Kept [.life] s (setSlotSt k v s) := by
  unfold setSlotSt
  exact .step (by decide) (.refl _ _) (setSlot_frame ..)

theorem writePtr_frame (slot trial s) : Kept [.life] s (writePtr slot trial s) := by
  unfold writePtr
  extract_lets z0 z1
  rename_i w2
  refine .life (by decide) ?_
  exact .refl _ _

theorem trialRevert_frame (slot s) : Kept [.life, .jr, .host] s (trialRevert slot s) := by
  unfold trialRevert
  exact .step (by decide) (.step (by decide) (.step (by decide) (.refl _ _) (writePtr_frame ..)) (setSlotSt_frame ..)) (raise_frame ..)

theorem revertIfSpent_frame (s) : Kept [.life, .jr, .host] s (revertIfSpent s) := by
  unfold revertIfSpent
  split
  · rename_i y0 y1 y2
    refine kept_ite ?_ ?_
    · exact .step (by decide) (.refl _ _) (trialRevert_frame ..)
    · exact .refl _ _
  · rename_i y3 y4
    exact .refl _ _

theorem floorKeys_frame (s) : Kept [.od] s (floorKeys s) := by
  unfold floorKeys
  refine .od (by decide) ?_
  exact .refl _ _

theorem beginBoot_frame (s) : Kept [.life, .jr, .host, .od] s (beginBoot s) := by
  unfold beginBoot
  extract_lets z0 z1
  rename_i w2
  have h3 : Kept [.life, .jr, .host, .od] s w2 := by
    unfold w2
    refine .step (by decide) ?_ (floorKeys_frame ..)
    refine .life (by decide) ?_
    exact .refl _ _
  clear_value w2
  exact .step (by decide) h3 (enterState_frame ..)

theorem tryBoot_frame (s) : Kept [.life, .jr, .host, .od] s (tryBoot s) := by
  unfold tryBoot
  refine kept_ite ?_ ?_
  · exact .step (by decide) (.refl _ _) (enterRecovery_frame ..)
  · refine kept_ite ?_ ?_
    · split
      · rename_i y0 y1 y2
        refine kept_ite ?_ ?_
        · extract_lets z3
          rename_i w4
          have h5 : Kept [.life, .jr, .host, .od] s z3 := by
            unfold z3
            exact .step (by decide) (.refl _ _) (revertIfSpent_frame ..)
          clear_value z3
          refine .life (by decide) ?_
          exact h5
        · exact .step (by decide) (.refl _ _) (beginBoot_frame ..)
      · rename_i y6 y7
        exact .step (by decide) (.refl _ _) (beginBoot_frame ..)
    · exact .refl _ _

theorem dropVolatile_frame (s) : Kept [.od] s (dropVolatile s) := by
  unfold dropVolatile
  refine .od (by decide) ?_
  exact .refl _ _

theorem odModuleReset_frame (s) : Kept [.od] s (odModuleReset s) := by
  unfold odModuleReset
  extract_lets z0
  rename_i w1
  have h2 : Kept [.od] s z0 := by
    unfold z0
    exact .step (by decide) (.step (by decide) (.refl _ _) (dropVolatile_frame ..)) (resetMailboxes_frame ..)
  clear_value z0
  refine .od (by decide) ?_
  exact h2

theorem clearDies_frame (rails hbm s) :
    Kept [.jr, .host, .reg, .mem, .fm, .adm, .tick, .cores, .net, .pwr, .mnt] s (clearDies rails hbm s) := by
  unfold clearDies
  refine .upd rfl (.refl _ _) (fun w => w) (fun w => ?_) (.inr rfl) (.inr rfl) (.inr rfl) (.inl (by decide)) (.inl (by decide)) (.inl (by decide)) (.inl (by decide)) (.inl (by decide)) (.inl (by decide)) (.inl (by decide)) (.inl (by decide)) (.inl (by decide)) (.inl (by decide)) (.inl (by decide)) (.inr rfl)
  split
  · exact ⟨w.1, .nil, .nil, tcanon_nil _, w.2.2.2.2.1, w.2.2.2.2.2⟩
  · exact Mem.wf_reset

theorem moduleReset_frame (keep until_ s) :
    Kept [.life, .jr, .host, .reg, .mem, .fm, .adm, .tick, .cores, .net, .pwr, .mnt, .od] s (moduleReset keep until_ s) := by
  unfold moduleReset
  extract_lets z0 z1 z2
  rename_i w3
  have h4 : Kept [.life, .jr, .host, .reg, .mem, .fm, .adm, .tick, .cores, .net, .pwr,
    .mnt, .od] s z1 := by
    unfold z1
    exact .step (by decide) (.step (by decide) (.refl _ _) (clearDies_frame ..)) (odModuleReset_frame ..)
  clear_value z1
  have h5 : Kept [.life, .jr, .host, .reg, .mem, .fm, .adm, .tick, .cores, .net, .pwr,
    .mnt, .od] s w3 := by
    unfold w3
    refine .life (by decide) ?_
    exact h4
  clear_value w3
  exact .step (by decide) h5 (enterState_frame ..)

theorem commonReset_frame (s) :
    Kept [.life, .jr, .host, .reg, .mem, .fm, .adm, .tick, .cores, .net, .pwr, .mnt, .od] s (commonReset s) := by
  unfold commonReset
  extract_lets z0
  exact .step (by decide) (.refl _ _) (moduleReset_frame ..)

theorem moduleResetEffect_frame (s) :
    Kept [.life, .jr, .host, .reg, .mem, .fm, .adm, .tick, .cores, .net, .pwr, .mnt, .od] s (moduleResetEffect s) := by
  unfold moduleResetEffect
  refine kept_ite ?_ ?_
  · exact .step (by decide) (.step (by decide) (.refl _ _) (commonReset_frame ..)) (tryBoot_frame ..)
  · exact .refl _ _

theorem goStandby_frame (s) :
    Kept [.life, .jr, .host, .reg, .mem, .fm, .adm, .tick, .cores, .net, .pwr, .mnt, .od] s (goStandby s) := by
  unfold goStandby
  extract_lets z0 z1 z2
  rename_i w3 w4 w5
  have h6 : Kept [.life, .jr, .host, .reg, .mem, .fm, .adm, .tick, .cores, .net, .pwr,
    .mnt, .od] s z0 := by
    unfold z0
    exact .step (by decide) (.refl _ _) (clearDies_frame ..)
  clear_value z0
  have h7 : Kept [.life, .jr, .host, .reg, .mem, .fm, .adm, .tick, .cores, .net, .pwr,
    .mnt, .od] s z2 := by
    unfold z2
    refine .od (by decide) ?_
    exact h6
  clear_value z2
  have h8 : Kept [.life, .jr, .host, .reg, .mem, .fm, .adm, .tick, .cores, .net, .pwr,
    .mnt, .od] s w3 := by
    unfold w3
    exact .step (by decide) h7 (enterState_frame ..)
  clear_value w3
  refine .life (by decide) ?_
  exact h8

theorem enterStandby_frame (s) :
    Kept [.life, .jr, .host, .reg, .mem, .fm, .adm, .tick, .cores, .net, .pwr, .mnt, .od] s (enterStandby s) := by
  unfold enterStandby
  refine kept_ite ?_ ?_
  · exact .step (by decide) (.refl _ _) (goStandby_frame ..)
  · exact .refl _ _

theorem wakeEffect_frame (s) : Kept [.life, .jr, .host, .od] s (wakeEffect s) := by
  unfold wakeEffect
  refine kept_ite ?_ ?_
  · exact .step (by decide) (.refl _ _) (beginBoot_frame ..)
  · exact .refl _ _

theorem raisePwr_frame (code unit info s) : Kept [.jr, .host] s (raisePwr code unit info s) := by
  unfold raisePwr
  exact .step (by decide) (.refl _ _) (raiseOncePer_frame ..)

theorem fleetAccept_frame (w s) : Kept [.jr, .host, .pwr] s (fleetAccept w s) := by
  unfold fleetAccept
  extract_lets z0
  rename_i w1
  refine kept_ite ?_ ?_
  · exact .refl _ _
  · refine kept_ite ?_ ?_
    · exact .step (by decide) (.refl _ _) (raisePwr_frame ..)
    · refine .pwr (by decide) ?_
      exact .refl _ _

theorem seeFleet_frame (w s) : Kept [.net] s (seeFleet w s) := by
  unfold seeFleet
  extract_lets z0
  rename_i w1
  refine .net (by decide) ?_
  exact .refl _ _

theorem fleetOrigin_frame (payload s) : Kept [.jr, .host, .net, .pwr] s (fleetOrigin payload s) := by
  unfold fleetOrigin
  extract_lets z0 z1
  exact .step (by decide) (.step (by decide) (.step (by decide) (.refl _ _) (seeFleet_frame ..)) (flood_frame ..)) (fleetAccept_frame ..)

theorem startTraj_frame (setpoint s) : Kept [.pwr] s (startTraj setpoint s) := by
  unfold startTraj
  refine .pwr (by decide) ?_
  exact .refl _ _

theorem setOd_frame (index sub v s) : Kept [.od] s (setOd index sub v s) := by
  unfold setOd
  refine .od (by decide) ?_
  exact .refl _ _

theorem ackIn_frame (r s) : Kept [.jr, .host, .cores, .net] s (ackIn r s) := by
  unfold ackIn
  split
  · rename_i y0 y1
    exact .refl _ _
  · rename_i y2 y3 y4
    refine kept_ite ?_ ?_
    · exact .step (by decide) (.refl _ _) (failAccess_frame ..)
    · exact .step (by decide) (.step (by decide) (.refl _ _) (dropTag_frame ..)) (onTag_frame ..)

theorem advanceNow_frame (t' s) : Kept [.now] s (advanceNow t' s) := by
  unfold advanceNow
  refine .now (by decide) ?_
  exact .refl _ _

theorem failStage_frame (n s) : Kept [.life, .jr, .host, .net] s (failStage n s) := by
  unfold failStage
  exact .step (by decide) (.step (by decide) (.refl _ _) (raise_frame ..)) (enterHeld_frame ..)

theorem tryReady_frame (s) : Kept [.life, .jr, .host, .tick, .net] s (tryReady s) := by
  unfold tryReady
  refine kept_ite ?_ ?_
  · refine kept_ite ?_ ?_
    · refine .step (by decide) ?_ (checkPaths_frame ..)
      refine .step (by decide) ?_ (enterState_frame ..)
      refine .life (by decide) ?_
      exact .refl _ _
    · exact .step (by decide) (.refl _ _) (failStage_frame ..)
  · exact .refl _ _

theorem afterTraining_frame (l n s) : Kept [.life, .jr, .host, .tick, .net] s (afterTraining l n s) := by
  unfold afterTraining
  split
  · rename_i y0 y1
    exact .step (by decide) (.refl _ _) (failStage_frame ..)
  · rename_i y2 y3
    exact .step (by decide) (.refl _ _) (failStage_frame ..)
  · rename_i y4 y5 y6
    exact .step (by decide) (.step (by decide) (.refl _ _) (linksDone_frame ..)) (tryReady_frame ..)

theorem onMarker_frame {L : List Comp} {s t : State} {l type : Nat} {w : Dword} {soak : Bool} {act : State → State} (hL : [] ⊆ L)
    (ha : ∀ u, Kept L s u → Kept L s (act u)) (h : Kept L s t) : Kept L s (onMarker l type w soak act t) := by
  unfold onMarker
  refine kept_ite ?_ ?_
  · refine ha _ ?_
    exact h
  · exact h

theorem elect_frame (s) : Kept [.net] s (elect s) := by
  unfold elect
  extract_lets z0 z1 z2 z3
  rename_i w4
  clear_value z3
  split
  · rename_i y5
    refine .net (by decide) ?_
    exact .refl _ _
  · rename_i y6 y7 y8
    refine kept_ite ?_ ?_
    · refine .net (by decide) ?_
      exact .refl _ _
    · extract_lets z9 z10
      refine .net (by decide) ?_
      exact .refl _ _

theorem announceMark_frame (link word s) : Kept [.net] s (announceMark link word s) := by
  unfold announceMark
  refine onMarker_frame (by decide) (fun u0 u1 => ?_) ?_
  · extract_lets z2
    rename_i w3
    exact .step (by decide) (.step (by decide) u1 (State.setLink_frame ..)) (elect_frame ..)
  · exact .refl _ _

theorem berWindow_frame (l ber corrected s) : Kept [.net, .mnt] s (berWindow l ber corrected s) := by
  unfold berWindow
  extract_lets z0 z1 z2 z3 z4
  rename_i w5
  have h6 : Kept [.net, .mnt] s z3 := by
    unfold z3
    exact .step (by decide) (.refl _ _) (State.setLink_frame ..)
  clear_value z3
  refine kept_ite ?_ ?_
  · refine .mnt (by decide) ?_
    exact h6
  · exact h6

theorem blockEraseEffect_frame (s) : Kept [.od] s (blockEraseEffect s) := by
  unfold blockEraseEffect
  extract_lets z0
  rename_i w1
  refine kept_ite ?_ ?_
  · refine .od (by decide) ?_
    exact .refl _ _
  · exact .refl _ _

theorem ingress_frame (l f dva b s) : Kept [.jr, .host, .reg] s (ingress l f dva b s).2 := by
  unfold ingress
  refine kept_ite_snd ?_ ?_
  · exact .step (by decide) (.refl _ _) (verifyBlk_frame ..)
  · exact .refl _ _

theorem ingressAll_frame (l r s) : Kept [.jr, .host, .reg] s (ingressAll l r s).2 := by
  unfold ingressAll
  refine kept_foldl_snd (fun t0 x1 h2 => ?_) ?_
  · split
    · rename_i y3 y4 y5 y6
      have h7 : Kept [.jr, .host, .reg] s y5 := by
        refine .of_pair y6 ?_
        exact .step (by decide) h2 (ingress_frame ..)
      exact h7
  · exact .refl _ _

theorem forward_frame (l r s) : Kept [.jr, .host, .reg, .cores, .net] s (forward l r s) := by
  unfold forward
  refine kept_ite ?_ ?_
  · exact .step (by decide) (.refl _ _) (noRoute_frame ..)
  · split
    · rename_i y0 y1
      exact .step (by decide) (.refl _ _) (noRoute_frame ..)
    · rename_i y2 y3 y4
      split
      · rename_i y5 y6 y7 y8
        have h9 : Kept [.jr, .host, .reg, .cores, .net] s y7 := by
          refine .of_pair y8 ?_
          exact .step (by decide) (.refl _ _) (ingressAll_frame ..)
        exact .step (by decide) h9 (sendOn_frame ..)

theorem onRecord_frame {L : List Comp} {s t : State} {l rtype : Nat} {r : LinkRecord} {act : State → State} (hL : [.jr, .host, .reg, .cores, .net] ⊆ L)
    (ha : ∀ u, Kept L s u → Kept L s (act u)) (h : Kept L s t) : Kept L s (onRecord l rtype r act t) := by
  unfold onRecord
  refine kept_ite ?_ ?_
  · exact h
  · extract_lets z0
    have h1 : Kept L s z0 := by
      unfold z0
      exact .step (List.Subset.trans (by decide) hL) h (oweFor_frame ..)
    clear_value z0
    refine kept_ite ?_ ?_
    · exact .step (List.Subset.trans (by decide) hL) h1 (raiseRoute_frame ..)
    · refine kept_ite ?_ ?_
      · exact .step (List.Subset.trans (by decide) hL) h1 (forward_frame ..)
      · refine ha _ ?_
        exact h1

theorem wrTarget_frame (l r s) : Kept [.jr, .host, .reg, .mem, .cores, .net] s (wrTarget l r s) := by
  unfold wrTarget
  split
  · rename_i y0 y1
    exact .step (by decide) (.refl _ _) (statusAnswer_frame ..)
  · rename_i y2 y3 y4
    extract_lets z5
    refine kept_ite ?_ ?_
    · split
      · rename_i y6 y7 y8 y9
        have h10 : Kept [.jr, .host, .reg, .mem, .cores, .net] s y8 := by
          refine .of_pair y9 ?_
          exact .step (by decide) (.refl _ _) (ingressAll_frame ..)
        extract_lets z11
        have h12 : Kept [.jr, .host, .reg, .mem, .cores, .net] s z11 := by
          unfold z11
          refine kept_foldl (fun t13 x14 h15 => ?_) ?_
          · exact .step (by decide) h15 (writeBlk_frame ..)
          · exact h10
        clear_value z11
        exact .step (by decide) h12 (statusAnswer_frame ..)
    · exact .step (by decide) (.refl _ _) (statusAnswer_frame ..)

theorem readExch_frame (p r is s) : Kept [.jr, .host, .reg, .mem, .cores] s (readExch p r is s).2 := by
  unfold readExch
  refine kept_foldl_snd (fun t0 x1 h2 => ?_) (.refl _ _)
  exact .snd (.step (by decide) h2 (readBlk_frame ..))

theorem rdTarget_frame (l r s) : Kept [.jr, .host, .reg, .mem, .cores, .net] s (rdTarget l r s) := by
  unfold rdTarget
  split
  · rename_i y0 y1
    exact .step (by decide) (.refl _ _) (statusAnswer_frame ..)
  · rename_i y2 y3 y4
    extract_lets z5
    rename_i w6
    have h7 : Kept [.jr, .host, .reg, .mem, .cores, .net] s w6.2 := by
      unfold w6
      exact .step (by decide) (.refl _ _) (readExch_frame ..)
    clear_value w6
    refine kept_ite ?_ ?_
    · exact .step (by decide) h7 (sendAnswer_frame ..)
    · exact .step (by decide) (.refl _ _) (statusAnswer_frame ..)

theorem rdDataIn_frame (l r s) : Kept [.jr, .host, .reg, .cores, .net] s (rdDataIn l r s) := by
  unfold rdDataIn
  split
  · rename_i y0 y1
    exact .refl _ _
  · rename_i y2 y3 y4
    refine kept_ite ?_ ?_
    · exact .step (by decide) (.refl _ _) (failAccess_frame ..)
    · split
      · rename_i y5 y6
        exact .step (by decide) (.refl _ _) (failAccess_frame ..)
      · rename_i y7 y8 y9 y10
        split
        · rename_i y11 y12 y13 y14
          have h15 : Kept [.jr, .host, .reg, .cores, .net] s y13 := by
            refine .of_pair y14 ?_
            exact .step (by decide) (.refl _ _) (ingress_frame ..)
          exact .step (by decide) (.step (by decide) h15 (dropTag_frame ..)) (onTag_frame ..)

theorem recordIn_frame (l r s) : Kept [.jr, .host, .reg, .mem, .tick, .cores, .net] s (recordIn l r s) := by
  unfold recordIn
  split
  · rename_i y0 y1
    refine onRecord_frame (by decide) (fun u2 u3 => ?_) ?_
    · exact .step (by decide) u3 (wrTarget_frame ..)
    · exact .refl _ _
  · rename_i y4 y5
    refine onRecord_frame (by decide) (fun u6 u7 => ?_) ?_
    · exact .step (by decide) u7 (rdTarget_frame ..)
    · exact .refl _ _
  · rename_i y8 y9
    refine onRecord_frame (by decide) (fun u10 u11 => ?_) ?_
    · exact .step (by decide) u11 (rdDataIn_frame ..)
    · exact .refl _ _
  · rename_i y12 y13
    refine onRecord_frame (by decide) (fun u14 u15 => ?_) ?_
    · exact .step (by decide) u15 (ackIn_frame ..)
    · exact .refl _ _
  · rename_i y16 y17
    refine onRecord_frame (by decide) (fun u18 u19 => ?_) ?_
    · exact .step (by decide) u19 (arriveAt_frame ..)
    · exact .refl _ _
  · rename_i y20 y21 y22 y23 y24 y25
    refine onRecord_frame (by decide) (fun u26 u27 => ?_) ?_
    · exact u27
    · exact .refl _ _

theorem bodyIn_frame (l flit s) : Kept [.jr, .host, .reg, .mem, .tick, .cores, .net] s (bodyIn l flit s) := by
  unfold bodyIn
  extract_lets z0
  rename_i w1 w2
  refine kept_ite ?_ ?_
  · exact .refl _ _
  · refine kept_foldl (fun t3 x4 h5 => ?_) ?_
    · exact .step (by decide) h5 (recordIn_frame ..)
    · exact .step (by decide) (.refl _ _) (State.setLink_frame ..)

theorem calDeadline_frame (pm s) : Kept [.jr, .host, .tick] s (calDeadline pm s) := by
  unfold calDeadline
  split
  · rename_i y0 y1
    exact .refl _ _
  · rename_i y2 y3 y4
    refine kept_ite ?_ ?_
    · exact .refl _ _
    · exact .step (by decide) (.step (by decide) (.refl _ _) (advanceTo_frame ..)) (raiseMnt_frame ..)

theorem putRec_frame (r s t) (h : putRec r s = some t) : Kept [.od] s t := by
  unfold putRec at h
  dsimp only at h
  split at h
  · cases h
    exact .od (by decide) (.refl _ _)
  · split at h
    · cases h
      exact .od (by decide) (.refl _ _)
    · cases h

theorem makeCurrent_frame (t' s) : Kept [.od] s (makeCurrent t' s) := by
  unfold makeCurrent
  refine .od (by decide) ?_
  exact .refl _ _

theorem setTxn_frame (t' s) : Kept [.od] s (setTxn t' s) := by
  unfold setTxn
  refine .od (by decide) ?_
  exact .refl _ _

theorem commitHead_frame (s t) (h : commitHead s = some t) : Kept [.od] s t.2 := by
  unfold commitHead at h
  split at h
  · cases h
  · split at h
    · split at h
      · cases h
      · next u hu =>
        cases h
        have hp := putRec_frame _ _ _ hu
        exact .step (by decide) (.step (by decide) hp (setTxn_frame ..)) (makeCurrent_frame ..)
    · cases h

theorem correct_frame (energy s) : Kept [.pwr] s (correct energy s) := by
  unfold correct
  extract_lets z0 z1
  rename_i w2
  refine .pwr (by decide) ?_
  exact .refl _ _

theorem markSuspect_frame (pm cs s) : Kept [.jr, .host, .mnt] s (markSuspect pm cs s) := by
  unfold markSuspect
  split
  · rename_i y0 y1
    exact .refl _ _
  · rename_i y2 y3 y4
    extract_lets z5
    rename_i w6
    have h7 : Kept [.jr, .host, .mnt] s w6 := by
      unfold w6
      refine .mnt (by decide) ?_
      exact .refl _ _
    clear_value w6
    split
    · rename_i y8 y9
      exact h7
    · rename_i y10 y11 y12 y13 y14
      extract_lets z15
      rename_i w16
      have h17 : Kept [.jr, .host, .mnt] s w16 := by
        unfold w16
        refine kept_foldl (fun t18 x19 h20 => ?_) ?_
        · exact .step (by decide) h20 (queueChange_frame ..)
        · exact h7
      clear_value w16
      clear_value z15
      split
      · rename_i y21
        exact h7
      · rename_i y22 y23 y24
        exact .step (by decide) h17 (raiseMnt_frame ..)

theorem dropReq_frame (a pm s) : Kept [.mnt] s (dropReq a pm s) := by
  unfold dropReq
  refine .mnt (by decide) ?_
  exact .refl _ _

theorem queueRemaps_frame (pm t' cs s) : Kept [.mnt] s (queueRemaps pm t' cs s) := by
  unfold queueRemaps
  extract_lets z0
  refine kept_foldl (fun t1 x2 h3 => ?_) ?_
  · refine kept_ite ?_ ?_
    · exact h3
    · extract_lets z4 z5
      exact .step (by decide) h3 (queueChange_frame ..)
  · exact .refl _ _

theorem diagnose_frame (pm ev s) : Kept [.jr, .host, .fm, .mnt] s (diagnose pm ev s) := by
  unfold diagnose
  extract_lets z0 z1 z2 z3 z4 z5 z6
  rename_i w7 w8 w9
  have h10 : Kept [.jr, .host, .fm, .mnt] s z5 := by
    unfold z5
    refine .mnt (by decide) ?_
    exact .refl _ _
  clear_value z5
  have h11 : Kept [.jr, .host, .fm, .mnt] s z6 := by
    unfold z6
    exact .step (by decide) (.step (by decide) h10 (dropReq_frame ..)) (markSuspect_frame ..)
  clear_value z6
  have h12 : Kept [.jr, .host, .fm, .mnt] s w8 := by
    unfold w8
    exact .step (by decide) h11 (State.setMac_frame ..)
  clear_value w8
  split
  · rename_i y13 y14
    refine .step (by decide) ?_ (queueChange_frame ..)
    refine .step (by decide) ?_ (requestRecal_frame ..)
    refine .mnt (by decide) ?_
    exact h12
  · rename_i y15 y16 y17
    exact .step (by decide) (.step (by decide) (.step (by decide) h12 (queueRemaps_frame ..)) (requestRecal_frame ..)) (queueChange_frame ..)
  · rename_i y18 y19
    exact .step (by decide) h12 (queueChange_frame ..)

theorem dieStatus_frame (d s) : Kept [.reg] s (dieStatus d s) := by
  unfold dieStatus
  extract_lets z0 z1 z2
  rename_i w3
  refine .reg (by decide) ?_
  exact .refl _ _

theorem discardFlit_frame (l s) : Kept [.host, .net] s (discardFlit l s) := by
  unfold discardFlit
  extract_lets z0
  refine kept_ite ?_ ?_
  · exact .refl _ _
  · exact .step (by decide) (.step (by decide) (.refl _ _) (State.setLink_frame ..)) (sendMsg_frame ..)

theorem droop_frame (d n s) : Kept [.pwr] s (droop d n s) := by
  unfold droop
  extract_lets z0
  exact .step (by decide) (.refl _ _) (State.setPdie_frame ..)

theorem enterFaulted_frame (s) :
    Kept [.life, .jr, .host, .reg, .mem, .fm, .adm, .tick, .cores, .net, .pwr, .mnt] s (enterFaulted s) := by
  unfold enterFaulted
  extract_lets z0 z1
  rename_i w2
  have h3 : Kept [.life, .jr, .host, .reg, .mem, .fm, .adm, .tick, .cores, .net, .pwr,
    .mnt] s z0 := by
    unfold z0
    exact .step (by decide) (.refl _ _) (clearDies_frame ..)
  clear_value z0
  have h4 : Kept [.life, .jr, .host, .reg, .mem, .fm, .adm, .tick, .cores, .net, .pwr,
    .mnt] s w2 := by
    unfold w2
    refine .life (by decide) ?_
    exact h3
  clear_value w2
  exact .step (by decide) h4 (enterState_frame ..)

theorem shareEnergy_frame (energy s) : Kept [.reg, .pwr] s (shareEnergy energy s) := by
  unfold shareEnergy
  extract_lets z0 z1 z2 z3 z4 z5 z6
  rename_i w7 w8
  refine .upd rfl ?_ (fun w => w) (fun w => w) (.inr rfl) (.inr rfl) (.inr rfl) (.inr rfl) (.inr rfl) (.inl (by decide)) (.inr rfl) (.inr rfl) (.inr rfl) (.inr rfl) (.inr rfl) (.inr rfl) (.inl (by decide)) (.inr rfl) (.inr rfl)
  exact .refl _ _

theorem stretchLoss_frame (loss s) : Kept [.jr, .host, .pwr] s (stretchLoss loss s) := by
  unfold stretchLoss
  extract_lets z0 z1 z2
  rename_i w3
  have h4 : Kept [.jr, .host, .pwr] s w3 := by
    unfold w3
    refine .pwr (by decide) ?_
    exact .refl _ _
  clear_value w3
  refine kept_foldl (fun t5 x6 h7 => ?_) ?_
  · extract_lets z8 z9
    rename_i w10
    have h11 : Kept [.jr, .host, .pwr] s w10 := by
      unfold w10
      exact .step (by decide) h7 (State.setPdie_frame ..)
    clear_value w10
    refine kept_ite ?_ ?_
    · exact .step (by decide) h11 (raisePwr_frame ..)
    · exact h11
  · exact h4

theorem throttle_frame (power s) : Kept [.jr, .host, .pwr] s (throttle power s) := by
  unfold throttle
  extract_lets z0 z1
  rename_i w2 w3 w4 w5 w6
  have h7 : Kept [.jr, .host, .pwr] s w4 := by
    unfold w4
    refine .pwr (by decide) ?_
    exact .refl _ _
  clear_value w4
  refine kept_ite ?_ ?_
  · refine kept_ite ?_ ?_
    · exact .step (by decide) h7 (raise_frame ..)
    · exact h7
  · refine kept_ite ?_ ?_
    · refine .pwr (by decide) ?_
      exact .refl _ _
    · exact .refl _ _

theorem noteCool_frame (d tj s) : Kept [.pwr] s (noteCool d tj s) := by
  unfold noteCool
  extract_lets z0
  exact .step (by decide) (.refl _ _) (State.setPdie_frame ..)

theorem readSensors_frame (d tj s) : Kept [.jr, .host, .pwr] s (readSensors d tj s) := by
  unfold readSensors
  extract_lets z0 z1 z2
  rename_i w3
  have h4 : Kept [.jr, .host, .pwr] s z2 := by
    unfold z2
    exact .step (by decide) (.refl _ _) (State.setPdie_frame ..)
  clear_value z2
  have h5 : Kept [.jr, .host, .pwr] s w3 := by
    unfold w3
    refine kept_ite ?_ ?_
    · exact h4
    · exact .step (by decide) h4 (noteCool_frame ..)
  clear_value w3
  refine kept_ite ?_ ?_
  · exact .step (by decide) h5 (raisePwr_frame ..)
  · exact h5

theorem readAll_frame (tj hbm s) : Kept [.jr, .host, .pwr] s (readAll tj hbm s) := by
  unfold readAll
  extract_lets z0
  rename_i w1
  have h2 : Kept [.jr, .host, .pwr] s z0 := by
    unfold z0
    refine kept_foldl (fun t3 x4 h5 => ?_) ?_
    · exact .step (by decide) h5 (readSensors_frame ..)
    · exact .refl _ _
  clear_value z0
  refine .pwr (by decide) ?_
  exact h2

theorem govPark_frame (p s) : Kept [.jr, .host, .tick, .pwr] s (govPark p s) := by
  unfold govPark
  extract_lets z0 z1 z2
  rename_i w3 w4 w5 w6
  have h7 : Kept [.jr, .host, .tick, .pwr] s z1 := by
    unfold z1
    exact .step (by decide) (.refl _ _) (State.setPart_frame ..)
  clear_value z1
  have h8 : Kept [.jr, .host, .tick, .pwr] s w3 := by
    unfold w3
    exact .step (by decide) h7 (State.setPpart_frame ..)
  clear_value w3
  have h9 : Kept [.jr, .host, .tick, .pwr] s w5 := by
    unfold w5
    refine .pwr (by decide) ?_
    exact h8
  clear_value w5
  exact .step (by decide) h9 (raise_frame ..)

theorem govResume_frame (p s) : Kept [.jr, .host, .tick, .pwr] s (govResume p s) := by
  unfold govResume
  extract_lets z0 z1
  rename_i w2 w3 w4
  have h5 : Kept [.jr, .host, .tick, .pwr] s z1 := by
    unfold z1
    exact .step (by decide) (.refl _ _) (State.setPart_frame ..)
  clear_value z1
  have h6 : Kept [.jr, .host, .tick, .pwr] s w3 := by
    unfold w3
    refine .pwr (by decide) ?_
    exact h5
  clear_value w3
  exact .step (by decide) h6 (raise_frame ..)

theorem fleetApplyOne_frame (w s) : Kept [.jr, .host, .tick, .pwr] s (fleetApplyOne w s) := by
  unfold fleetApplyOne
  extract_lets z0
  rename_i w1 w2
  have h3 : Kept [.jr, .host, .tick, .pwr] s w1 := by
    unfold w1
    refine .pwr (by decide) ?_
    exact .refl _ _
  clear_value w1
  have h4 : Kept [.jr, .host, .tick, .pwr] s w2 := by
    unfold w2
    exact .step (by decide) h3 (startTraj_frame ..)
  clear_value w2
  refine kept_ite ?_ ?_
  · exact h3
  · split
    · rename_i y5 y6
      refine kept_foldl (fun t7 x8 h9 => ?_) ?_
      · exact .step (by decide) h9 (govPark_frame ..)
      · exact h4
    · rename_i y10 y11
      refine kept_foldl (fun t12 x13 h14 => ?_) ?_
      · exact .step (by decide) h14 (govResume_frame ..)
      · exact h4
    · rename_i y15 y16 y17
      exact h4

theorem fleetApply_frame (s) : Kept [.jr, .host, .tick, .pwr] s (fleetApply s) := by
  unfold fleetApply
  extract_lets z0
  rename_i w1
  refine kept_foldl (fun t2 x3 h4 => ?_) ?_
  · exact .step (by decide) h4 (fleetApplyOne_frame ..)
  · refine .pwr (by decide) ?_
    exact .refl _ _

theorem epochEnd_frame (m s) : Kept [.jr, .host, .reg, .tick, .pwr] s (epochEnd m s) := by
  unfold epochEnd
  extract_lets z0 z1 z2 z3 z4
  rename_i w5
  have h6 : Kept [.jr, .host, .reg, .tick, .pwr] s z1 := by
    unfold z1
    exact .step (by decide) (.refl _ _) (advanceTo_frame ..)
  clear_value z1
  have h7 : Kept [.jr, .host, .reg, .tick, .pwr] s z3 := by
    unfold z3
    refine .pwr (by decide) ?_
    exact h6
  clear_value z3
  have h8 : Kept [.jr, .host, .reg, .tick, .pwr] s z4 := by
    unfold z4
    exact .step (by decide) (.step (by decide) (.step (by decide) h7 (correct_frame ..)) (stretchLoss_frame ..)) (shareEnergy_frame ..)
  clear_value z4
  have h9 : Kept [.jr, .host, .reg, .tick, .pwr] s w5 := by
    unfold w5
    exact .step (by decide) (.step (by decide) h8 (readAll_frame ..)) (throttle_frame ..)
  clear_value w5
  refine kept_ite ?_ ?_
  · exact .step (by decide) h9 (fleetApply_frame ..)
  · exact h9

theorem evacImage_frame (fn f pm s) : Kept [.jr, .host, .reg, .mem, .cores] s (evacImage fn f pm s).2 := by
  unfold evacImage
  refine kept_ite_snd ?_ ?_
  · exact .step (by decide) (.refl _ _) (readPage_frame ..)
  · exact .refl _ _

theorem evacCopy_frame (pm new flips s) :
    Kept [.jr, .host, .reg, .mem, .fm, .cores, .mnt] s (evacCopy pm new flips s) := by
  unfold evacCopy
  split
  · rename_i y0 y1
    exact .step (by decide) (.refl _ _) (State.setMac_frame ..)
  · rename_i y2 y3 y4 y5 y6
    extract_lets z7
    split
    · rename_i y8 y9 y10 y11
      have h12 : Kept [.jr, .host, .reg, .mem, .fm, .cores, .mnt] s y10 := by
        refine .of_pair y11 ?_
        exact .step (by decide) (.refl _ _) (evacImage_frame ..)
      extract_lets z13 z14 z15
      rename_i w16
      have h17 : Kept [.jr, .host, .reg, .mem, .fm, .cores, .mnt] s z15 := by
        unfold z15
        exact .step (by decide) h12 (writePage_frame ..)
      clear_value z15
      exact .step (by decide) h17 (State.setMac_frame ..)
    · rename_i y18 y19 y20
      have h21 : Kept [.jr, .host, .reg, .mem, .fm, .cores, .mnt] s y19 := by
        refine .of_pair y20 ?_
        exact .step (by decide) (.refl _ _) (evacImage_frame ..)
      extract_lets z22 z23
      rename_i w24
      have h25 : Kept [.jr, .host, .reg, .mem, .fm, .cores, .mnt] s z23 := by
        unfold z23
        exact .step (by decide) (.step (by decide) h21 (State.setMac_frame ..)) (setChecks_frame ..)
      clear_value z23
      refine .mnt (by decide) ?_
      exact h25

theorem useMntHbm_frame (pm stack n s) : Kept [.mnt] s (useMntHbm pm stack n s) := by
  unfold useMntHbm
  split
  · rename_i y0 y1
    exact .refl _ _
  · rename_i y2 y3 y4
    refine .mnt (by decide) ?_
    exact .refl _ _

theorem evacuationCopy_frame (pm flips s) :
    Kept [.jr, .host, .reg, .mem, .fm, .cores, .mnt] s (evacuationCopy pm flips s) := by
  unfold evacuationCopy
  split
  · rename_i y0 y1
    exact .refl _ _
  · rename_i y2 y3 y4 y5
    refine kept_ite ?_ ?_
    · exact .refl _ _
    · split
      · rename_i y6 y7
        exact .step (by decide) (.refl _ _) (requestSubst_frame ..)
      · rename_i y8 y9 y10
        extract_lets z11
        split
        · rename_i y12 y13
          unfold z11
          exact .step (by decide) (.step (by decide) (.refl _ _) (evacCopy_frame ..)) (queueChange_frame ..)
        · rename_i y14 y15 y16
          refine kept_ite ?_ ?_
          · unfold z11
            exact .step (by decide) (.step (by decide) (.step (by decide) (.refl _ _) (useMntHbm_frame ..)) (evacCopy_frame ..)) (queueChange_frame ..)
          · exact .refl _ _

theorem journalDataEffect_frame (s) : Kept [.od] s (journalDataEffect s) := by
  unfold journalDataEffect
  split
  · rename_i y0 y1
    exact .refl _ _
  · rename_i y2 y3 y4 y5
    split
    · rename_i y6 y7 y8 y9 y10 y11 y12
      split
      · rename_i y13 y14
        exact .refl _ _
      · rename_i y15 y16 y17
        have h18 : Kept [.od] s y16 := by
          refine .step (by decide) ?_ (putRec_frame (h := y17) ..)
          exact .refl _ _
        exact .step (by decide) h18 (setTxn_frame ..)
    · rename_i y19 y20
      exact .refl _ _

theorem execJournalDataRecord_frame (s t) (h : execJournalDataRecord s = .next t) :
    Kept [.od] s t := by
  have e := Host.Outcome.next.inj h
  subst e
  refine kept_ite ?_ ?_
  · exact .step (by decide) (.refl _ _) (journalDataEffect_frame ..)
  · exact .refl _ _

theorem storeEnts_frame (ents s) : Kept [.od] s (storeEnts ents s) := by
  unfold storeEnts
  refine .od (by decide) ?_
  exact .refl _ _

theorem storeRewriteEffect_frame (s) : Kept [.od] s (storeRewriteEffect s) := by
  unfold storeRewriteEffect
  split
  · rename_i y0 y1
    exact .refl _ _
  · rename_i y2 y3 y4 y5
    refine kept_ite ?_ ?_
    · exact .step (by decide) (.step (by decide) (.refl _ _) (storeEnts_frame ..)) (setTxn_frame ..)
    · exact .refl _ _

theorem execObjectStoreRewrite_frame (s t) (h : execObjectStoreRewrite s = .next t) :
    Kept [.od] s t := by
  have e := Host.Outcome.next.inj h
  subst e
  refine kept_ite ?_ ?_
  · exact .step (by decide) (.refl _ _) (storeRewriteEffect_frame ..)
  · exact .refl _ _

theorem journalAppliedEffect_frame (s) : Kept [.od] s (journalAppliedEffect s) := by
  unfold journalAppliedEffect
  split
  · rename_i y0 y1
    exact .refl _ _
  · rename_i y2 y3 y4 y5
    refine kept_ite ?_ ?_
    · split
      · rename_i y6 y7
        exact .refl _ _
      · rename_i y8 y9 y10
        have h11 : Kept [.od] s y9 := by
          refine .step (by decide) ?_ (putRec_frame (h := y10) ..)
          exact .refl _ _
        refine .od (by decide) ?_
        exact h11
    · exact .refl _ _

theorem execJournalAppliedRecord_frame (s t) (h : execJournalAppliedRecord s = .next t) :
    Kept [.od] s t := by
  have e := Host.Outcome.next.inj h
  subst e
  refine kept_ite ?_ ?_
  · exact .step (by decide) (.refl _ _) (journalAppliedEffect_frame ..)
  · exact .refl _ _

theorem execJournalBlockErase_frame (s t) (h : execJournalBlockErase s = .next t) :
    Kept [.od] s t := by
  have e := Host.Outcome.next.inj h
  subst e
  refine kept_ite ?_ ?_
  · exact .step (by decide) (.refl _ _) (blockEraseEffect_frame ..)
  · exact .refl _ _

theorem journalCommit_frame (s) : Kept [.jr] s (journalCommit s) := by
  unfold journalCommit
  split
  · rename_i y0 y1
    exact .refl _ _
  · rename_i y2 y3 y4 y5
    extract_lets z6 z7
    rename_i w8
    refine .jr (by decide) ?_
    exact .refl _ _

theorem execEventJournalCommit_frame (s t) (h : execEventJournalCommit s = .next t) :
    Kept [.jr] s t := by
  have e := Host.Outcome.next.inj h
  subst e
  refine kept_ite ?_ ?_
  · exact .step (by decide) (.refl _ _) (journalCommit_frame ..)
  · exact .refl _ _

theorem loadStore_frame (s) : Kept [.od] s (loadStore s) := by
  unfold loadStore
  refine .od (by decide) ?_
  exact .refl _ _

theorem execVauxUp_frame (s t) (h : execVauxUp s = .next t) :
    Kept [.life, .od] s t := by
  have e := Host.Outcome.next.inj h
  subst e
  refine kept_ite ?_ ?_
  · exact .refl _ _
  · extract_lets z0
    rename_i w1
    have h2 : Kept [.life, .od] s z0 := by
      unfold z0
      exact .step (by decide) (.refl _ _) (loadStore_frame ..)
    clear_value z0
    refine .life (by decide) ?_
    exact h2

theorem vauxLost_frame (s) :
    Kept [.life, .jr, .host, .reg, .mem, .fm, .adm, .tick, .cores, .net, .pwr, .mnt, .od] s (vauxLost s) := by
  unfold vauxLost
  extract_lets z0 z1
  rename_i w2 w3 w4
  have h5 : Kept [.life, .jr, .host, .reg, .mem, .fm, .adm, .tick, .cores, .net, .pwr,
    .mnt, .od] s z0 := by
    unfold z0
    exact .step (by decide) (.step (by decide) (.refl _ _) (clearDies_frame ..)) (odModuleReset_frame ..)
  clear_value z0
  have h6 : Kept [.life, .jr, .host, .reg, .mem, .fm, .adm, .tick, .cores, .net, .pwr,
    .mnt, .od] s w3 := by
    unfold w3
    refine .upd rfl ?_ (fun w => w) (fun w => w) (.inr rfl) (.inr rfl) (.inr rfl) (.inl (by decide)) (.inr rfl) (.inr rfl) (.inr rfl) (.inr rfl) (.inr rfl) (.inr rfl) (.inr rfl) (.inr rfl) (.inr rfl) (.inr rfl) (.inl (by decide))
    exact h5
  clear_value w3
  refine .life (by decide) ?_
  exact h6

theorem execVauxLost_frame (s t) (h : execVauxLost s = .next t) :
    Kept [.life, .jr, .host, .reg, .mem, .fm, .adm, .tick, .cores, .net, .pwr, .mnt, .od] s t := by
  have e := Host.Outcome.next.inj h
  subst e
  refine kept_ite ?_ ?_
  · exact .step (by decide) (.refl _ _) (vauxLost_frame ..)
  · exact .refl _ _

theorem execVinWithinLimits_frame (s t) (h : execVinWithinLimits s = .next t) :
    Kept [.life, .jr, .host, .od] s t := by
  have e := Host.Outcome.next.inj h
  subst e
  refine .step (by decide) ?_ (tryBoot_frame ..)
  refine .life (by decide) ?_
  exact .refl _ _

theorem leaveFaulted_frame (s) :
    Kept [.life, .jr, .host, .reg, .mem, .fm, .adm, .tick, .cores, .net, .pwr, .mnt, .od] s (leaveFaulted s) := by
  unfold leaveFaulted
  refine kept_ite ?_ ?_
  · exact .step (by decide) (.refl _ _) (moduleReset_frame ..)
  · exact .refl _ _

theorem execPerstAssert_frame (s t) (h : execPerstAssert s = .next t) :
    Kept [.life, .jr, .host, .reg, .mem, .fm, .adm, .tick, .cores, .net, .pwr, .mnt, .od] s t := by
  have e := Host.Outcome.next.inj h
  subst e
  refine kept_ite ?_ ?_
  · refine .step (by decide) ?_ (commonReset_frame ..)
    refine .life (by decide) ?_
    exact .refl _ _
  · refine .step (by decide) ?_ (leaveFaulted_frame ..)
    refine .life (by decide) ?_
    exact .refl _ _

theorem perstDeassert_frame (force s) : Kept [.life, .jr, .host, .od] s (perstDeassert force s) := by
  unfold perstDeassert
  extract_lets z0
  rename_i w1 w2
  have h3 : Kept [.life, .jr, .host, .od] s w1 := by
    unfold w1
    refine .life (by decide) ?_
    exact .refl _ _
  clear_value w1
  refine kept_ite ?_ ?_
  · exact h3
  · split
    · rename_i y4 y5
      refine kept_ite ?_ ?_
      · exact .step (by decide) h3 (enterRecovery_frame ..)
      · exact h3
    · rename_i y6 y7
      refine .step (by decide) ?_ (tryBoot_frame ..)
      refine .life (by decide) ?_
      exact h3
    · rename_i y8 y9
      refine kept_ite ?_ ?_
      · exact h3
      · refine .life (by decide) ?_
        exact h3
    · rename_i y10 y11 y12 y13
      exact h3

theorem execPerstDeassert_frame (forceRecovery s t) (h : execPerstDeassert forceRecovery s = .next t) :
    Kept [.life, .jr, .host, .od] s t := by
  have e := Host.Outcome.next.inj h
  subst e
  exact .step (by decide) (.refl _ _) (perstDeassert_frame ..)

theorem execPinSample_frame (slotId forceRecovery s t) (h : execPinSample slotId forceRecovery s = .next t) :
    Kept [.life, .jr, .host, .od] s t := by
  have e := Host.Outcome.next.inj h
  subst e
  refine kept_ite ?_ ?_
  · extract_lets z0
    rename_i w1
    have h2 : Kept [.life, .jr, .host, .od] s w1 := by
      unfold w1
      refine .life (by decide) ?_
      exact .refl _ _
    clear_value w1
    refine kept_ite ?_ ?_
    · exact .step (by decide) h2 (tryBoot_frame ..)
    · exact h2
  · exact .refl _ _

theorem pwrFail_frame (byPin s) : Kept [.life, .jr, .host, .od] s (pwrFail byPin s) := by
  unfold pwrFail
  extract_lets z0 z1
  rename_i w2 w3 w4 w5
  have h6 : Kept [.life, .jr, .host, .od] s w2 := by
    unfold w2
    refine .life (by decide) ?_
    exact .refl _ _
  clear_value w2
  have h7 : Kept [.life, .jr, .host, .od] s w5 := by
    unfold w5
    refine .upd rfl ?_ (fun w => w) (fun w => w) (.inr rfl) (.inr rfl) (.inl (by decide)) (.inr rfl) (.inr rfl) (.inr rfl) (.inr rfl) (.inr rfl) (.inr rfl) (.inr rfl) (.inr rfl) (.inr rfl) (.inr rfl) (.inr rfl) (.inl (by decide))
    exact h6
  clear_value w5
  refine kept_ite ?_ ?_
  · refine kept_ite ?_ ?_
    · exact .step (by decide) h7 (raise_frame ..)
    · exact h7
  · exact h6

theorem execPwrFail_frame (byPin s t) (h : execPwrFail byPin s = .next t) :
    Kept [.life, .jr, .host, .od] s t := by
  have e := Host.Outcome.next.inj h
  subst e
  exact .step (by decide) (.refl _ _) (pwrFail_frame ..)

theorem execPwrFailCleared_frame (s t) (h : execPwrFailCleared s = .next t) :
    Kept [.life, .jr, .host, .od] s t := by
  have e := Host.Outcome.next.inj h
  subst e
  refine kept_ite ?_ ?_
  · refine .step (by decide) ?_ (tryBoot_frame ..)
    refine .life (by decide) ?_
    exact .refl _ _
  · exact .refl _ _

theorem execForceRecoveryAssert_frame (s t) (h : execForceRecoveryAssert s = .next t) :
    Kept [.jr, .host] s t := by
  have e := Host.Outcome.next.inj h
  subst e
  refine kept_ite ?_ ?_
  · exact .step (by decide) (.refl _ _) (raise_frame ..)
  · exact .refl _ _

theorem execForceRecoveryHeld60s_frame (s t) (h : execForceRecoveryHeld60s s = .next t) :
    Kept [.now, .life, .jr, .host] s t := by
  have e := Host.Outcome.next.inj h
  subst e
  refine kept_ite ?_ ?_
  · refine .step (by decide) ?_ (raise_frame ..)
    refine .step (by decide) ?_ (advanceNow_frame ..)
    refine .life (by decide) ?_
    exact .refl _ _
  · exact .refl _ _

theorem railsOff_frame (s) : Kept [.life, .net] s (railsOff s) := by
  unfold railsOff
  refine .upd rfl ?_ (fun w => w) (fun w => w) (.inr rfl) (.inr rfl) (.inl (by decide)) (.inr rfl) (.inr rfl) (.inr rfl) (.inr rfl) (.inr rfl) (.inr rfl) (.inr rfl) (.inr rfl) (.inl (by decide)) (.inr rfl) (.inr rfl) (.inr rfl)
  exact .refl _ _

theorem execWarmHoldExpiry_frame (s t) (h : execWarmHoldExpiry s = .next t) :
    Kept [.now, .life, .net] s t := by
  have e := Host.Outcome.next.inj h
  subst e
  split
  · rename_i y0 y1
    exact .refl _ _
  · rename_i y2 y3 y4
    refine kept_ite ?_ ?_
    · exact .step (by decide) (.step (by decide) (.refl _ _) (advanceNow_frame ..)) (railsOff_frame ..)
    · exact .refl _ _

theorem s1Boot_frame (ok s) : Kept [.life, .jr, .host, .od] s (s1Boot ok s) := by
  unfold s1Boot
  extract_lets z0 z1 z2 z3 z4
  rename_i w5 w6
  have h7 : Kept [.life, .jr, .host, .od] s z1 := by
    unfold z1
    refine .life (by decide) ?_
    exact .refl _ _
  clear_value z1
  have h8 : Kept [.life, .jr, .host, .od] s z2 := by
    unfold z2
    exact .step (by decide) h7 (revertIfSpent_frame ..)
  clear_value z2
  split
  · rename_i y9 y10
    exact .step (by decide) h8 (enterRecovery_frame ..)
  · rename_i y11 y12 y13
    refine kept_ite ?_ ?_
    · unfold w5
      extract_lets z14
      rename_i w15
      have h16 : Kept [.life, .jr, .host, .od] s w15 := by
        unfold w15
        refine .step (by decide) ?_ (floorKeys_frame ..)
        refine .life (by decide) ?_
        exact h8
      clear_value w15
      split
      · rename_i y17 y18
        exact .step (by decide) (.step (by decide) h16 (enterState_frame ..)) (tryBoot_frame ..)
      · rename_i y19 y20
        refine kept_ite ?_ ?_
        · exact .step (by decide) h16 (beginBoot_frame ..)
        · exact h16
      · rename_i y21 y22 y23
        exact .step (by decide) h16 (tryBoot_frame ..)
    · extract_lets z24
      have h25 : Kept [.life, .jr, .host, .od] s z24 := by
        unfold z24
        exact .step (by decide) h8 (raise_frame ..)
      clear_value z24
      refine kept_ite ?_ ?_
      · unfold w5
        extract_lets z26
        rename_i w27
        have h28 : Kept [.life, .jr, .host, .od] s w27 := by
          unfold w27
          refine .step (by decide) ?_ (floorKeys_frame ..)
          refine .life (by decide) ?_
          exact h25
        clear_value w27
        split
        · rename_i y29 y30
          exact .step (by decide) (.step (by decide) h28 (enterState_frame ..)) (tryBoot_frame ..)
        · rename_i y31 y32
          refine kept_ite ?_ ?_
          · exact .step (by decide) h28 (beginBoot_frame ..)
          · exact h28
        · rename_i y33 y34 y35
          exact .step (by decide) h28 (tryBoot_frame ..)
      · exact .step (by decide) h25 (enterRecovery_frame ..)

theorem execS1BootVerify_frame (ok0 ok1 s t) (h : execS1BootVerify ok0 ok1 s = .next t) :
    Kept [.life, .jr, .host, .od] s t := by
  have e := Host.Outcome.next.inj h
  subst e
  refine kept_ite ?_ ?_
  · exact .step (by decide) (.refl _ _) (s1Boot_frame ..)
  · exact .refl _ _

theorem markApplied_frame (t' s) : Kept [.od] s (markApplied t' s) := by
  unfold markApplied
  split
  · rename_i y0 y1 y2
    have h3 : Kept [.od] s y1 := by
      refine .step (by decide) ?_ (putRec_frame (h := y2) ..)
      exact .refl _ _
    exact h3
  · rename_i y4 y5
    refine .od (by decide) ?_
    exact .refl _ _

theorem replayTxn_frame (t' s) : Kept [.od] s (replayTxn t' s).2 := by
  unfold replayTxn
  extract_lets z0 z1
  rename_i w2 w3 w4 w5 w6
  have h7 : Kept [.od] s w3 := by
    unfold w3
    exact .step (by decide) (.refl _ _) (storeEnts_frame ..)
  clear_value w3
  have h8 : Kept [.od] s w6 := by
    unfold w6
    refine .step (by decide) ?_ (markApplied_frame ..)
    refine .od (by decide) ?_
    exact .refl _ _
  clear_value w6
  refine kept_ite_snd ?_ ?_
  · exact .refl _ _
  · refine kept_ite_snd ?_ ?_
    · refine .step (by decide) ?_ (markApplied_frame ..)
      refine .od (by decide) ?_
      exact h7
    · exact h8

theorem replayJournal_frame (s) : Kept [.od] s (replayJournal s).2 := by
  unfold replayJournal
  extract_lets z0 z1
  refine kept_foldl_snd (fun t2 x3 h4 => ?_) ?_
  · split
    · rename_i y5 y6 y7 y8
      have h9 : Kept [.od] s y7 := by
        refine .of_pair y8 ?_
        exact .step (by decide) h4 (replayTxn_frame ..)
      exact h9
  · exact .refl _ _

theorem restoreMaps_frame (s) : Kept [.jr, .host, .reg, .mem, .fm, .cores, .mnt] s (restoreMaps s) := by
  unfold restoreMaps
  extract_lets z0
  rename_i w1
  refine kept_foldl (fun t2 x3 h4 => ?_) ?_
  · exact .step (by decide) h4 (applyChange_frame ..)
  · refine .mnt (by decide) ?_
    exact .refl _ _

theorem passS2_frame (s) : Kept [.life, .jr, .host, .net] s (passS2 s) := by
  unfold passS2
  extract_lets z0
  rename_i w1
  have h2 : Kept [.life, .jr, .host, .net] s z0 := by
    unfold z0
    exact .step (by decide) (.refl _ _) (idleLinks_frame ..)
  clear_value z0
  refine .step (by decide) ?_ (enterState_frame ..)
  refine .life (by decide) ?_
  exact h2

theorem s2Config_frame (calBad refclkOk s) :
    Kept [.life, .jr, .host, .reg, .mem, .fm, .cores, .net, .mnt, .od] s (s2Config calBad refclkOk s) := by
  unfold s2Config
  split
  · rename_i y0 y1 y2 y3
    have h4 : Kept [.life, .jr, .host, .reg, .mem, .fm, .cores, .net, .mnt, .od] s y2 := by
      refine .of_pair y3 ?_
      exact .step (by decide) (.refl _ _) (replayJournal_frame ..)
    extract_lets z5
    rename_i w6 w7
    have h8 : Kept [.life, .jr, .host, .reg, .mem, .fm, .cores, .net, .mnt, .od] s w6 := by
      unfold w6
      refine .step (by decide) ?_ (restoreMaps_frame ..)
      refine .life (by decide) ?_
      exact h4
    clear_value w6
    refine kept_ite ?_ ?_
    · split
      · rename_i y9 y10 y11 y12
        refine .step (by decide) ?_ (holdFor_frame ..)
        refine .life (by decide) ?_
        exact h8
      · rename_i y13 y14
        exact .step (by decide) h8 (passS2_frame ..)
    · exact .step (by decide) h8 (failStage_frame ..)

theorem execS2ConfigCheck_frame (calBad refclkOk s t) (h : execS2ConfigCheck calBad refclkOk s = .next t) :
    Kept [.life, .jr, .host, .reg, .mem, .fm, .cores, .net, .mnt, .od] s t := by
  have e := Host.Outcome.next.inj h
  subst e
  refine kept_ite ?_ ?_
  · exact .step (by decide) (.refl _ _) (s2Config_frame ..)
  · exact .refl _ _

theorem reduceTrial_frame (s) : Kept [.life] s (reduceTrial s) := by
  unfold reduceTrial
  split
  · rename_i y0 y1 y2
    refine kept_ite ?_ ?_
    · exact .step (by decide) (.refl _ _) (writePtr_frame ..)
    · exact .refl _ _
  · rename_i y3 y4
    exact .refl _ _

theorem s3Rails_frame (s) : Kept [.life, .pwr] s (s3Rails s) := by
  unfold s3Rails
  extract_lets z0 z1
  rename_i w2
  have h3 : Kept [.life, .pwr] s z0 := by
    unfold z0
    exact .step (by decide) (.refl _ _) (reduceTrial_frame ..)
  clear_value z0
  have h4 : Kept [.life, .pwr] s z1 := by
    unfold z1
    refine kept_foldl (fun t5 x6 h7 => ?_) ?_
    · exact .step (by decide) h7 (State.setPdie_frame ..)
    · exact h3
  clear_value z1
  refine .life (by decide) ?_
  exact h4

theorem execS3RailsUp_frame (s t) (h : execS3RailsUp s = .next t) :
    Kept [.life, .pwr] s t := by
  have e := Host.Outcome.next.inj h
  subst e
  refine kept_ite ?_ ?_
  · exact .step (by decide) (.refl _ _) (s3Rails_frame ..)
  · exact .refl _ _

theorem ptcTxn_frame (ents s) : Kept [.od] s (ptcTxn ents s) := by
  unfold ptcTxn
  exact .step (by decide) (.refl _ _) (newTxn_frame ..)

theorem s4Hbm_frame (restoreOk fullOk saved s) :
    Kept [.life, .jr, .host, .reg, .mem, .tick, .cores, .net, .od] s (s4Hbm restoreOk fullOk saved s) := by
  unfold s4Hbm
  extract_lets z0 z1
  rename_i w2
  have h3 : Kept [.life, .jr, .host, .reg, .mem, .tick, .cores, .net, .od] s w2 := by
    unfold w2
    refine .mem (by decide) (fun _ => by decide) ?_
    exact .refl _ _
  clear_value w2
  refine kept_ite ?_ ?_
  · unfold z0
    refine .step (by decide) ?_ (linksDone_frame ..)
    refine .step (by decide) ?_ (beginLinks_frame ..)
    refine .life (by decide) ?_
    exact .refl _ _
  · refine kept_ite ?_ ?_
    · unfold z0
      refine .step (by decide) ?_ (linksDone_frame ..)
      refine .step (by decide) ?_ (beginLinks_frame ..)
      refine .life (by decide) ?_
      exact .step (by decide) h3 (ptcTxn_frame ..)
    · exact .step (by decide) h3 (failStage_frame ..)

theorem execS4HbmTraining_frame (restoreOk fullOk saved s t) (h : execS4HbmTraining restoreOk fullOk saved s = .next t) :
    Kept [.life, .jr, .host, .reg, .mem, .tick, .cores, .net, .od] s t := by
  have e := Host.Outcome.next.inj h
  subst e
  refine kept_ite ?_ ?_
  · exact .step (by decide) (.refl _ _) (s4Hbm_frame ..)
  · exact .refl _ _

theorem linkDown_frame (code l lane s) : Kept [.jr, .host, .reg, .tick, .cores, .net] s (linkDown code l lane s) := by
  unfold linkDown
  extract_lets z0
  rename_i w1
  have h2 : Kept [.jr, .host, .reg, .tick, .cores, .net] s w1 := by
    unfold w1
    exact .step (by decide) (.refl _ _) (State.setLink_frame ..)
  clear_value w1
  exact .step (by decide) (.step (by decide) h2 (setLinkMode_frame ..)) (raiseLink_frame ..)

theorem linkRefused_frame (code l s) : Kept [.jr, .host, .reg, .tick, .cores, .net] s (linkRefused code l s) := by
  unfold linkRefused
  exact .step (by decide) (.step (by decide) (.step (by decide) (.refl _ _) (State.setLink_frame ..)) (setLinkMode_frame ..)) (raiseLink_frame ..)

theorem trainLink_frame (l fresh res s) : Kept [.jr, .host, .reg, .tick, .cores, .net] s (trainLink l fresh res s) := by
  unfold trainLink
  extract_lets z0 z1 z2 z3
  rename_i w4 w5
  have h6 : Kept [.jr, .host, .reg, .tick, .cores, .net] s w4 := by
    unfold w4
    exact .step (by decide) (.refl _ _) (State.setLink_frame ..)
  clear_value w4
  refine kept_ite ?_ ?_
  · exact .step (by decide) (.refl _ _) (linkDown_frame ..)
  · refine kept_ite ?_ ?_
    · exact .step (by decide) h6 (linkRefused_frame ..)
    · split
      · rename_i y7 y8
        exact .step (by decide) h6 (linkRefused_frame ..)
      · rename_i y9 y10 y11
        extract_lets z12
        have h13 : Kept [.jr, .host, .reg, .tick, .cores, .net] s z12 := by
          unfold z12
          exact .step (by decide) h6 (State.setLink_frame ..)
        clear_value z12
        exact .step (by decide) h13 (setLinkMode_frame ..)

theorem execS5LinkTraining_frame (link res s t) (h : execS5LinkTraining link res s = .next t) :
    Kept [.life, .jr, .host, .reg, .tick, .cores, .net] s t := by
  have e := Host.Outcome.next.inj h
  subst e
  refine kept_ite ?_ ?_
  · exact .step (by decide) (.step (by decide) (.refl _ _) (trainLink_frame ..)) (afterTraining_frame ..)
  · exact .refl _ _

theorem s6Cores_frame (bad1 bad2 s) : Kept [.life, .jr, .host, .mnt] s (s6Cores bad1 bad2 s) := by
  unfold s6Cores
  extract_lets z0 z1
  rename_i w2 w3
  have h4 : Kept [.life, .jr, .host, .mnt] s w2 := by
    unfold w2
    refine kept_foldl (fun t5 x6 h7 => ?_) ?_
    · extract_lets z8
      rename_i w9
      have h10 : Kept [.life, .jr, .host, .mnt] s z8 := by
        unfold z8
        exact .step (by decide) h7 (raise_frame ..)
      clear_value z8
      split
      · rename_i y11 y12 y13
        exact .step (by decide) h10 (requestSubst_frame ..)
      · rename_i y14 y15
        refine .mnt (by decide) ?_
        exact h10
    · exact .refl _ _
  clear_value w2
  refine .life (by decide) ?_
  exact h4

theorem execS6CoreFirmware_frame (bad1 bad2 s t) (h : execS6CoreFirmware bad1 bad2 s = .next t) :
    Kept [.life, .jr, .host, .mnt] s t := by
  have e := Host.Outcome.next.inj h
  subst e
  refine kept_ite ?_ ?_
  · exact .step (by decide) (.refl _ _) (s6Cores_frame ..)
  · exact .refl _ _

theorem substNow_frame (c s) : Kept [.jr, .host, .reg, .mem, .fm, .cores, .mnt] s (substNow c s) := by
  unfold substNow
  extract_lets z0 z1
  rename_i w2
  have h3 : Kept [.jr, .host, .reg, .mem, .fm, .cores, .mnt] s z0 := by
    unfold z0
    exact .step (by decide) (.refl _ _) (requestSubst_frame ..)
  clear_value z0
  have h4 : Kept [.jr, .host, .reg, .mem, .fm, .cores, .mnt] s w2 := by
    unfold w2
    refine .mnt (by decide) ?_
    exact h3
  clear_value w2
  exact .step (by decide) h4 (substituteFor_frame ..)

theorem replaceNow_frame (pm info s) : Kept [.jr, .host, .reg, .mem, .fm, .cores, .mnt] s (replaceNow pm info s) := by
  unfold replaceNow
  extract_lets z0
  rename_i w1
  have h2 : Kept [.jr, .host, .reg, .mem, .fm, .cores, .mnt] s z0 := by
    unfold z0
    exact .step (by decide) (.refl _ _) (applyChange_frame ..)
  clear_value z0
  split
  · rename_i y3 y4 y5 y6 y7 y8
    split
    · rename_i y9 y10 y11
      refine .step (by decide) ?_ (setMacroSt_frame ..)
      refine .mnt (by decide) ?_
      exact h2
    · rename_i y12 y13
      exact .step (by decide) h2 (substNow_frame ..)
  · rename_i y14 y15 y16
    exact h2

theorem selfRepair_frame (pm ev s) : Kept [.jr, .host, .reg, .mem, .fm, .cores, .mnt] s (selfRepair pm ev s) := by
  unfold selfRepair
  extract_lets z0 z1
  split
  · rename_i y2 y3
    exact .refl _ _
  · rename_i y4 y5 y6
    refine kept_foldl (fun t7 x8 h9 => ?_) ?_
    · refine kept_ite ?_ ?_
      · exact h9
      · exact .step (by decide) h9 (applyChange_frame ..)
    · exact .refl _ _
  · rename_i y10 y11
    exact .step (by decide) (.refl _ _) (replaceNow_frame ..)

theorem flagSegs_frame (pm segs s) : Kept [.fm, .mnt] s (flagSegs pm segs s) := by
  unfold flagSegs
  extract_lets z0
  exact .step (by decide) (.step (by decide) (.refl _ _) (State.setMac_frame ..)) (requestDiag_frame ..)

theorem recalFails_frame (pm m s) : Kept [.jr, .host, .fm, .mnt] s (recalFails pm m s) := by
  unfold recalFails
  split
  · rename_i y0 y1
    exact .refl _ _
  · rename_i y2 y3 y4 y5
    exact .step (by decide) (.step (by decide) (.refl _ _) (raiseMnt_frame ..)) (flagSegs_frame ..)

theorem selfCal_frame (pm m s) : Kept [.jr, .host, .fm, .mnt] s (selfCal pm m s) := by
  unfold selfCal
  exact .step (by decide) (.step (by decide) (.refl _ _) (recalFails_frame ..)) (applyTrim_frame ..)

theorem remapRetired_frame (pm s) : Kept [.jr, .host, .reg, .mem, .fm, .cores, .mnt] s (remapRetired pm s) := by
  unfold remapRetired
  split
  · rename_i y0 y1
    exact .refl _ _
  · rename_i y2 y3 y4 y5
    split
    · rename_i y6 y7 y8
      refine .step (by decide) ?_ (setMacroSt_frame ..)
      refine .mnt (by decide) ?_
      exact .refl _ _
    · rename_i y9 y10
      exact .step (by decide) (.refl _ _) (substNow_frame ..)

theorem selfTest_frame (bad cal s) :
    Kept [.life, .jr, .host, .reg, .mem, .fm, .tick, .cores, .net, .mnt] s (selfTest bad cal s) := by
  unfold selfTest
  extract_lets z0 z1 z2
  rename_i w3 w4 w5 w6
  have h7 : Kept [.life, .jr, .host, .reg, .mem, .fm, .tick, .cores, .net, .mnt] s z0 := by
    unfold z0
    refine kept_foldl (fun t8 x9 h10 => ?_) ?_
    · refine kept_ite ?_ ?_
      · exact .step (by decide) h10 (selfRepair_frame ..)
      · exact h10
    · exact .refl _ _
  clear_value z0
  have h11 : Kept [.life, .jr, .host, .reg, .mem, .fm, .tick, .cores, .net, .mnt] s z1 := by
    unfold z1
    refine kept_foldl (fun t12 x13 h14 => ?_) ?_
    · refine kept_ite ?_ ?_
      · exact .step (by decide) h14 (selfCal_frame ..)
      · exact h14
    · exact h7
  clear_value z1
  have h15 : Kept [.life, .jr, .host, .reg, .mem, .fm, .tick, .cores, .net, .mnt] s z2 := by
    unfold z2
    refine kept_foldl (fun t16 x17 h18 => ?_) ?_
    · exact .step (by decide) h18 (remapRetired_frame ..)
    · exact h11
  clear_value z2
  refine kept_ite ?_ ?_
  · exact .step (by decide) h15 (failStage_frame ..)
  · refine .step (by decide) ?_ (tryReady_frame ..)
    refine .upd rfl ?_ (fun w => w) (fun w => ⟨w.1, List.Pairwise.nil, w.2.2.1, w.2.2.2.1, w.2.2.2.2.1, w.2.2.2.2.2⟩) (.inr rfl) (.inr rfl) (.inl (by decide)) (.inr rfl) (.inr rfl) (.inr rfl) (.inl (by decide)) (.inl (by decide)) (.inr rfl) (.inr rfl) (.inr rfl) (.inr rfl) (.inr rfl) (.inl (by decide)) (.inr rfl)
    exact h15

theorem execS7SelfTest_frame (bad cal s t) (h : execS7SelfTest bad cal s = .next t) :
    Kept [.life, .jr, .host, .reg, .mem, .fm, .tick, .cores, .net, .mnt] s t := by
  have e := Host.Outcome.next.inj h
  subst e
  refine kept_ite ?_ ?_
  · exact .step (by decide) (.refl _ _) (selfTest_frame ..)
  · exact .refl _ _

theorem execStageTimeout_frame (s t) (h : execStageTimeout s = .next t) :
    Kept [.life, .jr, .host, .net] s t := by
  have e := Host.Outcome.next.inj h
  subst e
  refine kept_ite ?_ ?_
  · exact .step (by decide) (.refl _ _) (failStage_frame ..)
  · exact .refl _ _

theorem thermalTrip_frame (die tj s) :
    Kept [.life, .jr, .host, .reg, .mem, .fm, .adm, .tick, .cores, .net, .pwr, .mnt, .od] s (thermalTrip die tj s) := by
  unfold thermalTrip
  extract_lets z0 z1 z2 z3
  rename_i w4 w5 w6
  have h7 : Kept [.life, .jr, .host, .reg, .mem, .fm, .adm, .tick, .cores, .net, .pwr,
    .mnt, .od] s z2 := by
    unfold z2
    exact .step (by decide) (.refl _ _) (raise_frame ..)
  clear_value z2
  have h8 : Kept [.life, .jr, .host, .reg, .mem, .fm, .adm, .tick, .cores, .net, .pwr,
    .mnt, .od] s z3 := by
    unfold z3
    exact .step (by decide) h7 (ptcTxn_frame ..)
  clear_value z3
  have h9 : Kept [.life, .jr, .host, .reg, .mem, .fm, .adm, .tick, .cores, .net, .pwr,
    .mnt, .od] s w5 := by
    unfold w5
    refine .step (by decide) ?_ (enterFaulted_frame ..)
    refine .life (by decide) ?_
    exact h8
  clear_value w5
  refine .reg (by decide) ?_
  exact h9

theorem execThermalTrip_frame (die tj s t) (h : execThermalTrip die tj s = .next t) :
    Kept [.life, .jr, .host, .reg, .mem, .fm, .adm, .tick, .cores, .net, .pwr, .mnt, .od] s t := by
  have e := Host.Outcome.next.inj h
  subst e
  refine kept_ite ?_ ?_
  · exact .refl _ _
  · exact .step (by decide) (.refl _ _) (thermalTrip_frame ..)

theorem execThermalTripRelease_frame (substrate s t) (h : execThermalTripRelease substrate s = .next t) :
    Kept [.life, .jr, .host, .reg, .mem, .fm, .adm, .tick, .cores, .net, .pwr, .mnt, .od] s t := by
  have e := Host.Outcome.next.inj h
  subst e
  refine kept_ite ?_ ?_
  · extract_lets z0
    rename_i w1
    have h2 : Kept [.life, .jr, .host, .reg, .mem, .fm, .adm, .tick, .cores, .net, .pwr,
    .mnt, .od] s w1 := by
      unfold w1
      refine .life (by decide) ?_
      exact .refl _ _
    clear_value w1
    refine kept_ite ?_ ?_
    · exact .step (by decide) h2 (leaveFaulted_frame ..)
    · exact h2
  · exact .refl _ _

theorem railFault_frame (rail s) :
    Kept [.life, .jr, .host, .reg, .mem, .fm, .adm, .tick, .cores, .net, .pwr, .mnt] s (railFault rail s) := by
  unfold railFault
  exact .step (by decide) (.step (by decide) (.refl _ _) (raise_frame ..)) (enterFaulted_frame ..)

theorem execPwrRailFault_frame (rail s t) (h : execPwrRailFault rail s = .next t) :
    Kept [.life, .jr, .host, .reg, .mem, .fm, .adm, .tick, .cores, .net, .pwr, .mnt] s t := by
  have e := Host.Outcome.next.inj h
  subst e
  refine kept_ite ?_ ?_
  · exact .refl _ _
  · exact .step (by decide) (.refl _ _) (railFault_frame ..)

theorem setRail_frame (r v s) : Kept [.pwr] s (setRail r v s) := by
  unfold setRail
  refine .pwr (by decide) ?_
  exact .refl _ _

theorem phaseRetire_frame (r s) : Kept [.jr, .host, .pwr] s (phaseRetire r s) := by
  unfold phaseRetire
  extract_lets z0 z1
  have h2 : Kept [.jr, .host, .pwr] s z1 := by
    unfold z1
    exact .step (by decide) (.refl _ _) (setRail_frame ..)
  clear_value z1
  exact .step (by decide) h2 (raisePwr_frame ..)

theorem execPhaseRetire_frame (rail s t) (h : execPhaseRetire rail s = .next t) :
    Kept [.jr, .host, .pwr] s t := by
  have e := Host.Outcome.next.inj h
  subst e
  refine kept_ite ?_ ?_
  · exact .step (by decide) (.refl _ _) (phaseRetire_frame ..)
  · exact .refl _ _

theorem readRail_frame (r x s) : Kept [.jr, .host, .pwr] s (readRail r x s) := by
  unfold readRail
  split
  · rename_i y0 y1
    exact .step (by decide) (.refl _ _) (setRail_frame ..)
  · rename_i y2
    extract_lets z3 z4
    rename_i w5
    have h6 : Kept [.jr, .host, .pwr] s w5 := by
      unfold w5
      exact .step (by decide) (.refl _ _) (setRail_frame ..)
    clear_value w5
    refine kept_ite ?_ ?_
    · exact .step (by decide) h6 (raisePwr_frame ..)
    · exact h6

theorem execTelemetryRead_frame (readings s t) (h : execTelemetryRead readings s = .next t) :
    Kept [.jr, .host, .pwr] s t := by
  have e := Host.Outcome.next.inj h
  subst e
  refine kept_ite ?_ ?_
  · refine kept_foldl (fun t0 x1 h2 => ?_) ?_
    · exact .step (by decide) h2 (readRail_frame ..)
    · exact .refl _ _
  · exact .refl _ _

theorem railStretch_frame (amps s) : Kept [.pwr] s (railStretch amps s) := by
  unfold railStretch
  refine .pwr (by decide) ?_
  exact .refl _ _

theorem thermStretch_frame (s) : Kept [.pwr] s (thermStretch s) := by
  unfold thermStretch
  extract_lets z0 z1
  rename_i w2
  refine .pwr (by decide) ?_
  exact .refl _ _

theorem noteReleased_frame (s) : Kept [.pwr] s (noteReleased s) := by
  unfold noteReleased
  refine kept_foldl (fun t0 x1 h2 => ?_) ?_
  · exact .step (by decide) h2 (State.setPdie_frame ..)
  · exact .refl _ _

theorem stepTraj_frame (s) : Kept [.pwr] s (stepTraj s) := by
  unfold stepTraj
  extract_lets z0 z1 z2 z3 z4 z5
  rename_i w6
  have h7 : Kept [.pwr] s z1 := by
    unfold z1
    refine kept_ite ?_ ?_
    · exact .step (by decide) (.refl _ _) (startTraj_frame ..)
    · exact .refl _ _
  clear_value z1
  refine .pwr (by decide) ?_
  exact h7

theorem govern_frame (s) : Kept [.jr, .host, .pwr] s (govern s) := by
  unfold govern
  extract_lets z0 z1 z2 z3 z4 z5 z6 z7 z8 z9 z10 z11 z12 z13 z14 z15 z16 z17
  rename_i w18
  have h19 : Kept [.jr, .host, .pwr] s z0 := by
    unfold z0
    exact .step (by decide) (.refl _ _) (stepTraj_frame ..)
  clear_value z0
  have h20 : Kept [.jr, .host, .pwr] s w18 := by
    unfold w18
    refine .pwr (by decide) ?_
    exact h19
  clear_value w18
  refine kept_ite ?_ ?_
  · exact .step (by decide) h20 (raisePwr_frame ..)
  · exact h20

theorem powerLoop_frame (m s) : Kept [.jr, .host, .reg, .tick, .pwr] s (powerLoop m s) := by
  unfold powerLoop
  extract_lets z0 z1 z2 z3 z4 z5 z6 z7 z8
  rename_i w9 w10
  have h11 : Kept [.jr, .host, .reg, .tick, .pwr] s z1 := by
    unfold z1
    exact .step (by decide) (.refl _ _) (advanceTo_frame ..)
  clear_value z1
  have h12 : Kept [.jr, .host, .reg, .tick, .pwr] s z3 := by
    unfold z3
    refine .pwr (by decide) ?_
    exact h11
  clear_value z3
  have h13 : Kept [.jr, .host, .reg, .tick, .pwr] s z4 := by
    unfold z4
    refine kept_foldl (fun t14 x15 h16 => ?_) ?_
    · split
      · rename_i y17 y18 y19
        exact .step (by decide) h16 (State.setPdie_frame ..)
      · rename_i y20 y21
        exact h16
    · exact h12
  clear_value z4
  have h22 : Kept [.jr, .host, .reg, .tick, .pwr] s z6 := by
    unfold z6
    exact .step (by decide) (.step (by decide) (.step (by decide) h13 (readAll_frame ..)) (thermStretch_frame ..)) (railStretch_frame ..)
  clear_value z6
  have h23 : Kept [.jr, .host, .reg, .tick, .pwr] s z7 := by
    unfold z7
    refine kept_ite ?_ ?_
    · exact .step (by decide) h22 (noteReleased_frame ..)
    · exact h22
  clear_value z7
  have h24 : Kept [.jr, .host, .reg, .tick, .pwr] s z8 := by
    unfold z8
    refine kept_ite ?_ ?_
    · exact .step (by decide) h23 (govern_frame ..)
    · exact h23
  clear_value z8
  have h25 : Kept [.jr, .host, .reg, .tick, .pwr] s w10 := by
    unfold w10
    refine .pwr (by decide) ?_
    exact h24
  clear_value w10
  refine kept_foldl (fun t26 x27 h28 => ?_) ?_
  · exact .step (by decide) h28 (dieStatus_frame ..)
  · exact h25

theorem execPowerGovernorLoop_frame (m s t) (h : execPowerGovernorLoop m s = .next t) :
    Kept [.jr, .host, .reg, .tick, .pwr] s t := by
  have e := Host.Outcome.next.inj h
  subst e
  refine kept_ite ?_ ?_
  · exact .step (by decide) (.refl _ _) (powerLoop_frame ..)
  · exact .refl _ _

theorem execEpochEnd_frame (m s t) (h : execEpochEnd m s = .next t) :
    Kept [.jr, .host, .reg, .tick, .pwr] s t := by
  have e := Host.Outcome.next.inj h
  subst e
  refine kept_ite ?_ ?_
  · exact .step (by decide) (.refl _ _) (epochEnd_frame ..)
  · exact .refl _ _

theorem execSensorInvalid_frame (die tj s t) (h : execSensorInvalid die tj s = .next t) :
    Kept [.jr, .host, .pwr] s t := by
  have e := Host.Outcome.next.inj h
  subst e
  refine kept_ite ?_ ?_
  · exact .step (by decide) (.refl _ _) (readSensors_frame ..)
  · exact .refl _ _

theorem execDroop_frame (die threshold s t) (h : execDroop die threshold s = .next t) :
    Kept [.pwr] s t := by
  have e := Host.Outcome.next.inj h
  subst e
  refine kept_ite ?_ ?_
  · exact .step (by decide) (.refl _ _) (droop_frame ..)
  · exact .refl _ _

theorem stretchRelease_frame (d s) : Kept [.pwr] s (stretchRelease d s) := by
  unfold stretchRelease
  extract_lets z0
  exact .step (by decide) (.refl _ _) (State.setPdie_frame ..)

theorem execStretchRelease_frame (die s t) (h : execStretchRelease die s = .next t) :
    Kept [.pwr] s t := by
  have e := Host.Outcome.next.inj h
  subst e
  refine kept_ite ?_ ?_
  · exact .step (by decide) (.refl _ _) (stretchRelease_frame ..)
  · exact .refl _ _

theorem powerStretch_frame (sustained watts s) : Kept [.jr, .host, .pwr] s (powerStretch sustained watts s) := by
  unfold powerStretch
  extract_lets z0
  rename_i w1
  have h2 : Kept [.jr, .host, .pwr] s w1 := by
    unfold w1
    refine kept_ite ?_ ?_
    · refine .pwr (by decide) ?_
      exact .refl _ _
    · refine .pwr (by decide) ?_
      exact .refl _ _
  clear_value w1
  exact .step (by decide) h2 (raisePwr_frame ..)

theorem execPowerStretch_frame (sustained watts s t) (h : execPowerStretch sustained watts s = .next t) :
    Kept [.jr, .host, .pwr] s t := by
  have e := Host.Outcome.next.inj h
  subst e
  refine kept_ite ?_ ?_
  · exact .step (by decide) (.refl _ _) (powerStretch_frame ..)
  · exact .refl _ _

theorem powerRelease_frame (sustained s) : Kept [.pwr] s (powerRelease sustained s) := by
  unfold powerRelease
  extract_lets z0
  rename_i w1
  have h2 : Kept [.pwr] s w1 := by
    unfold w1
    refine kept_ite ?_ ?_
    · refine .pwr (by decide) ?_
      exact .refl _ _
    · refine .pwr (by decide) ?_
      exact .refl _ _
  clear_value w1
  exact .step (by decide) h2 (noteReleased_frame ..)

theorem execPowerStretchRelease_frame (sustained watts s t) (h : execPowerStretchRelease sustained watts s = .next t) :
    Kept [.pwr] s t := by
  have e := Host.Outcome.next.inj h
  subst e
  refine kept_ite ?_ ?_
  · exact .step (by decide) (.refl _ _) (powerRelease_frame ..)
  · exact .refl _ _

theorem govParkRequest_frame (s) : Kept [.jr, .host, .tick, .pwr] s (govParkRequest s) := by
  unfold govParkRequest
  split
  · rename_i y0 y1 y2 y3 y4 y5
    exact .step (by decide) (.step (by decide) (.refl _ _) (advanceTo_frame ..)) (govPark_frame ..)
  · rename_i y6 y7 y8
    exact .refl _ _

theorem execGovParkRequest_frame (s t) (h : execGovParkRequest s = .next t) :
    Kept [.jr, .host, .tick, .pwr] s t := by
  have e := Host.Outcome.next.inj h
  subst e
  refine kept_ite ?_ ?_
  · exact .step (by decide) (.refl _ _) (govParkRequest_frame ..)
  · exact .refl _ _

theorem govResumeRequest_frame (s) : Kept [.jr, .host, .tick, .pwr] s (govResumeRequest s) := by
  unfold govResumeRequest
  split
  · rename_i y0 y1 y2 y3 y4 y5
    exact .step (by decide) (.step (by decide) (.refl _ _) (advanceTo_frame ..)) (govResume_frame ..)
  · rename_i y6 y7 y8
    exact .refl _ _

theorem execGovResumeRequest_frame (s t) (h : execGovResumeRequest s = .next t) :
    Kept [.jr, .host, .tick, .pwr] s t := by
  have e := Host.Outcome.next.inj h
  subst e
  refine kept_ite ?_ ?_
  · exact .step (by decide) (.refl _ _) (govResumeRequest_frame ..)
  · exact .refl _ _

theorem setHot_frame (d hot s) : Kept [.pwr, .mnt] s (setHot d hot s) := by
  unfold setHot
  extract_lets z0 z1
  rename_i w2 w3
  have h4 : Kept [.pwr, .mnt] s w2 := by
    unfold w2
    exact .step (by decide) (.refl _ _) (State.setPdie_frame ..)
  clear_value w2
  refine .mnt (by decide) ?_
  exact h4

theorem refreshInterval_frame (d tj s) : Kept [.tick, .pwr, .mnt] s (refreshInterval d tj s) := by
  unfold refreshInterval
  extract_lets z0 z1
  have h2 : Kept [.tick, .pwr, .mnt] s z1 := by
    unfold z1
    exact .step (by decide) (.refl _ _) (noteCool_frame ..)
  clear_value z1
  refine kept_ite ?_ ?_
  · refine kept_ite ?_ ?_
    · exact h2
    · exact .step (by decide) h2 (setHot_frame ..)
  · refine kept_ite ?_ ?_
    · clear_value z0
      split
      · rename_i y3 y4
        exact .step (by decide) (.step (by decide) h2 (advanceTo_frame ..)) (setHot_frame ..)
      · rename_i y5
        exact h2
    · exact h2

theorem execRefreshIntervalChange_frame (die tj s t) (h : execRefreshIntervalChange die tj s = .next t) :
    Kept [.tick, .pwr, .mnt] s t := by
  have e := Host.Outcome.next.inj h
  subst e
  refine kept_ite ?_ ?_
  · exact .refl _ _
  · exact .step (by decide) (.refl _ _) (refreshInterval_frame ..)

theorem refreshStatus_frame (d s) : Kept [.reg, .mnt] s (refreshStatus d s) := by
  unfold refreshStatus
  extract_lets z0
  rename_i w1 w2
  refine .upd rfl ?_ (fun w => w) (fun w => w) (.inr rfl) (.inr rfl) (.inr rfl) (.inr rfl) (.inr rfl) (.inl (by decide)) (.inr rfl) (.inr rfl) (.inr rfl) (.inr rfl) (.inr rfl) (.inr rfl) (.inr rfl) (.inl (by decide)) (.inr rfl)
  exact .refl _ _

theorem execRefreshStatusUpdate_frame (die s t) (h : execRefreshStatusUpdate die s = .next t) :
    Kept [.reg, .mnt] s t := by
  have e := Host.Outcome.next.inj h
  subst e
  refine kept_ite ?_ ?_
  · exact .step (by decide) (.refl _ _) (refreshStatus_frame ..)
  · exact .refl _ _

theorem noteFlit_frame (l good uncorrectable s) : Kept [.jr, .host, .net] s (noteFlit l good uncorrectable s) := by
  unfold noteFlit
  extract_lets z0
  rename_i w1
  have h2 : Kept [.jr, .host, .net] s w1 := by
    unfold w1
    exact .step (by decide) (.refl _ _) (State.setLink_frame ..)
  clear_value w1
  refine kept_ite ?_ ?_
  · exact .refl _ _
  · refine kept_ite ?_ ?_
    · exact .step (by decide) h2 (raiseLinkSec_frame ..)
    · exact h2

theorem replayLimit_frame (l s) : Kept [.jr, .host, .reg, .tick, .cores, .net] s (replayLimit l s) := by
  unfold replayLimit
  exact .step (by decide) (.step (by decide) (.step (by decide) (.refl _ _) (State.setLink_frame ..)) (raiseLink_frame ..)) (setLinkMode_frame ..)

theorem replayFlits_frame (l ack s) : Kept [.jr, .host, .reg, .tick, .cores, .net] s (replayFlits l ack s) := by
  unfold replayFlits
  extract_lets z0 z1 z2 z3 z4 z5
  have h6 : Kept [.jr, .host, .reg, .tick, .cores, .net] s z3 := by
    unfold z3
    exact .step (by decide) (.refl _ _) (State.setLink_frame ..)
  clear_value z3
  have h7 : Kept [.jr, .host, .reg, .tick, .cores, .net] s z4 := by
    unfold z4
    exact .step (by decide) h6 (sendMsg_frame ..)
  clear_value z4
  have h8 : Kept [.jr, .host, .reg, .tick, .cores, .net] s z5 := by
    unfold z5
    refine kept_ite ?_ ?_
    · exact .step (by decide) h7 (raiseLinkSec_frame ..)
    · exact h7
  clear_value z5
  refine kept_ite ?_ ?_
  · exact .step (by decide) h8 (replayLimit_frame ..)
  · exact h8

theorem flitReceive_frame (l flit uncorrectable s) :
    Kept [.jr, .host, .reg, .tick, .cores, .net] s (flitReceive l flit uncorrectable s).2 := by
  unfold flitReceive
  extract_lets z0 z1 z2 z3 z4
  rename_i w5 w6 w7
  have h8 : Kept [.jr, .host, .reg, .tick, .cores, .net] s z2 := by
    unfold z2
    exact .step (by decide) (.refl _ _) (noteFlit_frame ..)
  clear_value z2
  have h9 : Kept [.jr, .host, .reg, .tick, .cores, .net] s w5 := by
    unfold w5
    exact .step (by decide) h8 (State.setLink_frame ..)
  clear_value w5
  have h10 : Kept [.jr, .host, .reg, .tick, .cores, .net] s w6 := by
    unfold w6
    exact .step (by decide) h9 (takeCredit_frame ..)
  clear_value w6
  refine kept_ite_snd ?_ ?_
  · exact .step (by decide) h8 (discardFlit_frame ..)
  · refine kept_ite ?_ ?_
    · exact .step (by decide) h10 (replayFlits_frame ..)
    · exact .step (by decide) h10 (State.setLink_frame ..)

theorem reportBack_frame (l s) : Kept [.host, .net] s (reportBack l s) := by
  unfold reportBack
  extract_lets z0
  have h1 : Kept [.host, .net] s z0 := by
    unfold z0
    exact .step (by decide) (.refl _ _) (returnCredit_frame ..)
  clear_value z0
  refine kept_ite ?_ ?_
  · exact .step (by decide) h1 (sendNull_frame ..)
  · exact h1

theorem floodMembers_frame (p skip w s) : Kept [.host] s (floodMembers p skip w s) := by
  unfold floodMembers
  refine kept_foldl (fun t0 x1 h2 => ?_) ?_
  · refine kept_ite ?_ ?_
    · exact h2
    · split
      · rename_i y3 y4 y5 y6
        refine kept_ite ?_ ?_
        · exact .step (by decide) h2 (sendMsg_frame ..)
        · exact h2
      · rename_i y7 y8
        exact h2
  · exact .refl _ _

theorem pennantIn_frame (p l w s) : Kept [.life, .jr, .host, .reg, .mem, .adm, .tick, .cores] s (pennantIn p l w s) := by
  unfold pennantIn
  extract_lets z0
  rename_i w1
  refine kept_ite ?_ ?_
  · exact .refl _ _
  · refine kept_ite ?_ ?_
    · exact .step (by decide) (.step (by decide) (.step (by decide) (.step (by decide) (.step (by decide) (.refl _ _) (State.setPart_frame ..)) (floodMembers_frame ..)) (applyPartPend_frame ..)) (settleState_frame ..)) (raise_frame ..)
    · refine kept_ite ?_ ?_
      · exact .refl _ _
      · exact .step (by decide) (.refl _ _) (State.setPart_frame ..)

theorem pennantMark_frame (link word s) :
    Kept [.life, .jr, .host, .reg, .mem, .adm, .tick, .cores] s (pennantMark link word s) := by
  unfold pennantMark
  refine onMarker_frame (by decide) (fun u0 u1 => ?_) ?_
  · split
    · rename_i y2 y3
      exact u1
    · rename_i y4 y5 y6
      exact .step (by decide) u1 (pennantIn_frame ..)
  · exact .refl _ _

theorem featureIn_frame (p l w s) : Kept [.host, .tick] s (featureIn p l w s) := by
  unfold featureIn
  extract_lets z0 z1
  rename_i w2
  have h3 : Kept [.host, .tick] s w2 := by
    unfold w2
    exact .step (by decide) (.refl _ _) (State.setPart_frame ..)
  clear_value w2
  refine kept_ite ?_ ?_
  · exact .refl _ _
  · exact .step (by decide) h3 (floodMembers_frame ..)

theorem featureMark_frame (link word s) : Kept [.host, .tick] s (featureMark link word s) := by
  unfold featureMark
  refine onMarker_frame (by decide) (fun u0 u1 => ?_) ?_
  · split
    · rename_i y2 y3
      exact u1
    · rename_i y4 y5 y6
      exact .step (by decide) u1 (featureIn_frame ..)
  · exact .refl _ _

theorem syncResp_frame (l w a s) : Kept [.jr, .host, .reg, .tick, .cores, .net] s (syncResp l w a s) := by
  unfold syncResp
  extract_lets z0 z1 z2 z3 z4 z5
  rename_i w6 w7 w8
  have h9 : Kept [.jr, .host, .reg, .tick, .cores, .net] s w6 := by
    unfold w6
    exact .step (by decide) (.refl _ _) (State.setLink_frame ..)
  clear_value w6
  refine kept_ite ?_ ?_
  · exact .step (by decide) h9 (linkRefused_frame ..)
  · refine .upd rfl ?_ (fun w => w) (fun w => w) (.inr rfl) (.inr rfl) (.inr rfl) (.inr rfl) (.inr rfl) (.inr rfl) (.inr rfl) (.inr rfl) (.inr rfl) (.inl (by decide)) (.inr rfl) (.inl (by decide)) (.inr rfl) (.inr rfl) (.inr rfl)
    exact h9

theorem syncRespMark_frame (link word s) : Kept [.jr, .host, .reg, .tick, .cores, .net] s (syncRespMark link word s) := by
  unfold syncRespMark
  refine kept_ite ?_ ?_
  · refine onMarker_frame (by decide) (fun u0 u1 => ?_) ?_
    · split
      · rename_i y2 y3
        exact u1
      · rename_i y4 y5 y6
        exact .step (by decide) u1 (syncResp_frame ..)
    · exact .refl _ _
  · exact .refl _ _

theorem syncReqMark_frame (link word answerSlots s) : Kept [.host] s (syncReqMark link word answerSlots s) := by
  unfold syncReqMark
  refine kept_ite ?_ ?_
  · exact .refl _ _
  · refine onMarker_frame (by decide) (fun u0 u1 => ?_) ?_
    · extract_lets z2
      exact .step (by decide) u1 (sendMsg_frame ..)
    · exact .refl _ _

theorem fleetMark_frame (link word s) : Kept [.jr, .host, .net, .pwr] s (fleetMark link word s) := by
  unfold fleetMark
  refine onMarker_frame (by decide) (fun u0 u1 => ?_) ?_
  · refine kept_ite ?_ ?_
    · exact .step (by decide) (.step (by decide) (.step (by decide) u1 (seeFleet_frame ..)) (flood_frame ..)) (fleetAccept_frame ..)
    · exact u1
  · exact .refl _ _

theorem laneSwapMark_frame (link word s) : Kept [.net] s (laneSwapMark link word s) := by
  unfold laneSwapMark
  refine onMarker_frame (by decide) (fun u0 u1 => ?_) ?_
  · exact .step (by decide) u1 (State.setLink_frame ..)
  · exact .refl _ _

theorem linkstateIn_frame (l w s) : Kept [.jr, .host, .tick, .net] s (linkstateIn l w s) := by
  unfold linkstateIn
  extract_lets z0 z1 z2 z3 z4
  rename_i w5 w6
  have h7 : Kept [.jr, .host, .tick, .net] s w6 := by
    unfold w6
    refine .net (by decide) ?_
    exact .refl _ _
  clear_value w6
  refine kept_ite ?_ ?_
  · exact .refl _ _
  · exact .step (by decide) (.step (by decide) h7 (flood_frame ..)) (checkPaths_frame ..)

theorem linkstateMark_frame (link word s) : Kept [.jr, .host, .tick, .net] s (linkstateMark link word s) := by
  unfold linkstateMark
  refine onMarker_frame (by decide) (fun u0 u1 => ?_) ?_
  · exact .step (by decide) u1 (linkstateIn_frame ..)
  · exact .refl _ _

theorem markerIn_frame (l w s) :
    Kept [.life, .jr, .host, .reg, .mem, .adm, .tick, .cores, .net, .pwr] s (markerIn l w s) := by
  unfold markerIn
  split
  · rename_i y0 y1
    exact .step (by decide) (.refl _ _) (pennantMark_frame ..)
  · rename_i y2 y3
    exact .step (by decide) (.refl _ _) (featureMark_frame ..)
  · rename_i y4 y5
    refine kept_ite ?_ ?_
    · exact .step (by decide) (.refl _ _) (syncRespMark_frame ..)
    · exact .step (by decide) (.refl _ _) (syncReqMark_frame ..)
  · rename_i y6 y7
    exact .step (by decide) (.refl _ _) (fleetMark_frame ..)
  · rename_i y8 y9
    exact .step (by decide) (.refl _ _) (laneSwapMark_frame ..)
  · rename_i y10 y11
    exact .step (by decide) (.refl _ _) (announceMark_frame ..)
  · rename_i y12 y13
    exact .step (by decide) (.refl _ _) (linkstateMark_frame ..)
  · rename_i y14 y15 y16 y17 y18 y19 y20 y21
    exact .refl _ _

theorem execFlitReceive_frame (link flit slot s t) (h : execFlitReceive link flit slot s = .next t) :
    Kept [.life, .jr, .host, .reg, .mem, .adm, .tick, .cores, .net, .pwr] s t := by
  have e := Host.Outcome.next.inj h
  subst e
  refine kept_ite ?_ ?_
  · split
    · rename_i y0 y1 y2 y3
      have h4 : Kept [.life, .jr, .host, .reg, .mem, .adm, .tick, .cores, .net, .pwr] s y2 := by
        refine .of_pair y3 ?_
        exact .step (by decide) (.refl _ _) (flitReceive_frame ..)
      extract_lets z5
      have h6 : Kept [.life, .jr, .host, .reg, .mem, .adm, .tick, .cores, .net, .pwr] s z5 := by
        unfold z5
        refine kept_ite ?_ ?_
        · exact .step (by decide) (.step (by decide) h4 (bodyIn_frame ..)) (reportBack_frame ..)
        · exact h4
      clear_value z5
      refine kept_ite ?_ ?_
      · exact h6
      · exact .step (by decide) h6 (markerIn_frame ..)
  · exact .refl _ _

theorem execWr_frame (link rec s t) (h : execWr link rec s = .next t) :
    Kept [.jr, .host, .reg, .mem, .cores, .net] s t := by
  have e := Host.Outcome.next.inj h
  subst e
  refine onRecord_frame (by decide) (fun u0 u1 => ?_) ?_
  · exact .step (by decide) u1 (wrTarget_frame ..)
  · exact .refl _ _

theorem execRdReq_frame (link rec s t) (h : execRdReq link rec s = .next t) :
    Kept [.jr, .host, .reg, .mem, .cores, .net] s t := by
  have e := Host.Outcome.next.inj h
  subst e
  refine onRecord_frame (by decide) (fun u0 u1 => ?_) ?_
  · exact .step (by decide) u1 (rdTarget_frame ..)
  · exact .refl _ _

theorem execRdData_frame (link rec s t) (h : execRdData link rec s = .next t) :
    Kept [.jr, .host, .reg, .cores, .net] s t := by
  have e := Host.Outcome.next.inj h
  subst e
  refine onRecord_frame (by decide) (fun u0 u1 => ?_) ?_
  · exact .step (by decide) u1 (rdDataIn_frame ..)
  · exact .refl _ _

theorem execAck_frame (link rec s t) (h : execAck link rec s = .next t) :
    Kept [.jr, .host, .reg, .cores, .net] s t := by
  have e := Host.Outcome.next.inj h
  subst e
  refine onRecord_frame (by decide) (fun u0 u1 => ?_) ?_
  · exact .step (by decide) u1 (ackIn_frame ..)
  · exact .refl _ _

theorem execArrive_frame (link rec s t) (h : execArrive link rec s = .next t) :
    Kept [.jr, .host, .reg, .tick, .cores, .net] s t := by
  have e := Host.Outcome.next.inj h
  subst e
  refine onRecord_frame (by decide) (fun u0 u1 => ?_) ?_
  · exact .step (by decide) u1 (arriveAt_frame ..)
  · exact .refl _ _

theorem execRecordForward_frame (link rec s t) (h : execRecordForward link rec s = .next t) :
    Kept [.jr, .host, .reg, .cores, .net] s t := by
  have e := Host.Outcome.next.inj h
  subst e
  refine kept_ite ?_ ?_
  · refine onRecord_frame (by decide) (fun u0 u1 => ?_) ?_
    · exact u1
    · exact .refl _ _
  · refine onRecord_frame (by decide) (fun u2 u3 => ?_) ?_
    · exact u3
    · exact .refl _ _

theorem execRequestTimeout_frame (tag s t) (h : execRequestTimeout tag s = .next t) :
    Kept [.jr, .host, .tick, .cores, .net] s t := by
  have e := Host.Outcome.next.inj h
  subst e
  split
  · rename_i y0 y1
    exact .refl _ _
  · rename_i y2 y3 y4
    refine kept_ite ?_ ?_
    · exact .refl _ _
    · exact .step (by decide) (.step (by decide) (.step (by decide) (.refl _ _) (advanceTo_frame ..)) (raiseRoute_frame ..)) (failAccess_frame ..)

theorem execPennant_frame (link word s t) (h : execPennant link word s = .next t) :
    Kept [.life, .jr, .host, .reg, .mem, .adm, .tick, .cores] s t := by
  have e := Host.Outcome.next.inj h
  subst e
  exact .step (by decide) (.refl _ _) (pennantMark_frame ..)

theorem execFeature_frame (link word s t) (h : execFeature link word s = .next t) :
    Kept [.host, .tick] s t := by
  have e := Host.Outcome.next.inj h
  subst e
  exact .step (by decide) (.refl _ _) (featureMark_frame ..)

theorem execSyncReq_frame (link word answerSlots s t) (h : execSyncReq link word answerSlots s = .next t) :
    Kept [.host] s t := by
  have e := Host.Outcome.next.inj h
  subst e
  exact .step (by decide) (.refl _ _) (syncReqMark_frame ..)

theorem execSyncResp_frame (link word s t) (h : execSyncResp link word s = .next t) :
    Kept [.jr, .host, .reg, .tick, .cores, .net] s t := by
  have e := Host.Outcome.next.inj h
  subst e
  exact .step (by decide) (.refl _ _) (syncRespMark_frame ..)

theorem execSyncInterval_frame (s t) (h : execSyncInterval s = .next t) :
    Kept [.host, .net] s t := by
  have e := Host.Outcome.next.inj h
  subst e
  split
  · rename_i y0 y1
    exact .refl _ _
  · rename_i y2 y3 y4
    refine kept_ite ?_ ?_
    · extract_lets z5
      rename_i w6
      exact .step (by decide) (.step (by decide) (.refl _ _) (State.setLink_frame ..)) (sendMsg_frame ..)
    · exact .refl _ _

theorem execFleet_frame (link word s t) (h : execFleet link word s = .next t) :
    Kept [.jr, .host, .net, .pwr] s t := by
  have e := Host.Outcome.next.inj h
  subst e
  exact .step (by decide) (.refl _ _) (fleetMark_frame ..)

theorem execLaneSwap_frame (link word s t) (h : execLaneSwap link word s = .next t) :
    Kept [.net] s t := by
  have e := Host.Outcome.next.inj h
  subst e
  exact .step (by decide) (.refl _ _) (laneSwapMark_frame ..)

theorem swapLane_frame (l lane s) : Kept [.jr, .host, .net] s (swapLane l lane s) := by
  unfold swapLane
  extract_lets z0
  exact .step (by decide) (.step (by decide) (.refl _ _) (State.setLink_frame ..)) (raiseLink_frame ..)

theorem execLaneSwapSlot_frame (link s t) (h : execLaneSwapSlot link s = .next t) :
    Kept [.jr, .host, .tick, .net] s t := by
  have e := Host.Outcome.next.inj h
  subst e
  split
  · rename_i y0 y1
    exact .refl _ _
  · rename_i y2 y3 y4
    extract_lets z5 z6 z7 z8
    have h9 : Kept [.jr, .host, .tick, .net] s z8 := by
      unfold z8
      refine kept_ite ?_ ?_
      · exact .step (by decide) (.refl _ _) (advanceTo_frame ..)
      · exact .refl _ _
    clear_value z8
    exact .step (by decide) h9 (swapLane_frame ..)

theorem execAnnounce_frame (link word s t) (h : execAnnounce link word s = .next t) :
    Kept [.net] s t := by
  have e := Host.Outcome.next.inj h
  subst e
  exact .step (by decide) (.refl _ _) (announceMark_frame ..)

theorem execAnnounceInterval_frame (s t) (h : execAnnounceInterval s = .next t) :
    Kept [.host, .net] s t := by
  have e := Host.Outcome.next.inj h
  subst e
  refine kept_foldl (fun t0 x1 h2 => ?_) ?_
  · exact .step (by decide) h2 (sendMsg_frame ..)
  · exact .step (by decide) (.refl _ _) (elect_frame ..)

theorem execFeatureResend_frame (part s t) (h : execFeatureResend part s = .next t) :
    Kept [.host] s t := by
  have e := Host.Outcome.next.inj h
  subst e
  refine kept_ite ?_ ?_
  · exact .step (by decide) (.refl _ _) (floodMembers_frame ..)
  · exact .refl _ _

theorem execLinkstate_frame (link word s t) (h : execLinkstate link word s = .next t) :
    Kept [.jr, .host, .tick, .net] s t := by
  have e := Host.Outcome.next.inj h
  subst e
  exact .step (by decide) (.refl _ _) (linkstateMark_frame ..)

theorem soakEnd_frame (l ber bad s) : Kept [.life, .jr, .host, .reg, .tick, .cores, .net, .od] s (soakEnd l ber bad s) := by
  unfold soakEnd
  extract_lets z0
  rename_i w1 w2 w3 w4
  have h5 : Kept [.life, .jr, .host, .reg, .tick, .cores, .net, .od] s w1 := by
    unfold w1
    exact .step (by decide) (.step (by decide) (.refl _ _) (State.setLink_frame ..)) (setLinkMode_frame ..)
  clear_value w1
  have h6 : Kept [.life, .jr, .host, .reg, .tick, .cores, .net, .od] s w2 := by
    unfold w2
    exact .step (by decide) h5 (ptcTxn_frame ..)
  clear_value w2
  have h7 : Kept [.life, .jr, .host, .reg, .tick, .cores, .net, .od] s w4 := by
    unfold w4
    exact .step (by decide) (.step (by decide) (.refl _ _) (State.setLink_frame ..)) (linkDown_frame ..)
  clear_value w4
  refine kept_ite ?_ ?_
  · exact .step (by decide) h6 (tryReady_frame ..)
  · refine kept_ite ?_ ?_
    · exact .step (by decide) (.step (by decide) (.refl _ _) (State.setLink_frame ..)) (setLinkMode_frame ..)
    · refine kept_ite ?_ ?_
      · exact .step (by decide) h7 (failStage_frame ..)
      · exact h7

theorem execSoakEnd_frame (link ber bad s t) (h : execSoakEnd link ber bad s = .next t) :
    Kept [.life, .jr, .host, .reg, .tick, .cores, .net, .od] s t := by
  have e := Host.Outcome.next.inj h
  subst e
  refine kept_ite ?_ ?_
  · exact .step (by decide) (.refl _ _) (soakEnd_frame ..)
  · exact .refl _ _

theorem execBerWindow_frame (link ber corrected s t) (h : execBerWindow link ber corrected s = .next t) :
    Kept [.net, .mnt] s t := by
  have e := Host.Outcome.next.inj h
  subst e
  refine kept_ite ?_ ?_
  · exact .step (by decide) (.refl _ _) (berWindow_frame ..)
  · exact .refl _ _

theorem laneLockLost_frame (l lane retrainOk s) :
    Kept [.jr, .host, .reg, .tick, .cores, .net] s (laneLockLost l lane retrainOk s) := by
  unfold laneLockLost
  extract_lets z0
  rename_i w1
  have h2 : Kept [.jr, .host, .reg, .tick, .cores, .net] s w1 := by
    unfold w1
    exact .step (by decide) (.refl _ _) (State.setLink_frame ..)
  clear_value w1
  refine kept_ite ?_ ?_
  · refine kept_ite ?_ ?_
    · exact h2
    · exact .step (by decide) h2 (linkDown_frame ..)
  · refine kept_ite ?_ ?_
    · exact .refl _ _
    · refine kept_ite ?_ ?_
      · exact .step (by decide) (.refl _ _) (swapLane_frame ..)
      · exact .step (by decide) (.refl _ _) (linkDown_frame ..)

theorem execLaneLockLost_frame (link lane retrainOk s t) (h : execLaneLockLost link lane retrainOk s = .next t) :
    Kept [.life, .jr, .host, .reg, .tick, .cores, .net] s t := by
  have e := Host.Outcome.next.inj h
  subst e
  refine kept_ite ?_ ?_
  · exact .step (by decide) (.step (by decide) (.refl _ _) (laneLockLost_frame ..)) (settleState_frame ..)
  · exact .refl _ _

theorem execLinkRetry_frame (link res s t) (h : execLinkRetry link res s = .next t) :
    Kept [.jr, .host, .reg, .tick, .cores, .net] s t := by
  have e := Host.Outcome.next.inj h
  subst e
  refine kept_ite ?_ ?_
  · split
    · rename_i y0 y1
      exact .step (by decide) (.step (by decide) (.refl _ _) (advanceTo_frame ..)) (trainLink_frame ..)
    · rename_i y2 y3
      exact .step (by decide) (.refl _ _) (trainLink_frame ..)
    · rename_i y4 y5 y6
      exact .refl _ _
  · exact .refl _ _

theorem execLowpwrEntry_frame (link peerAsks s t) (h : execLowpwrEntry link peerAsks s = .next t) :
    Kept [.life, .jr, .host, .reg, .tick, .cores, .net] s t := by
  have e := Host.Outcome.next.inj h
  subst e
  refine kept_ite ?_ ?_
  · refine kept_ite ?_ ?_
    · exact .step (by decide) (.step (by decide) (.refl _ _) (setLinkMode_frame ..)) (settleState_frame ..)
    · exact .refl _ _
  · exact .refl _ _

theorem execLowpwrWake_frame (link s t) (h : execLowpwrWake link s = .next t) :
    Kept [.jr, .host, .reg, .tick, .cores, .net] s t := by
  have e := Host.Outcome.next.inj h
  subst e
  refine kept_ite ?_ ?_
  · exact .step (by decide) (.refl _ _) (setLinkMode_frame ..)
  · exact .refl _ _

theorem execParentLinkFail_frame (s t) (h : execParentLinkFail s = .next t) :
    Kept [.net] s t := by
  have e := Host.Outcome.next.inj h
  subst e
  split
  · rename_i y0 y1
    exact .refl _ _
  · rename_i y2 y3 y4
    refine kept_ite ?_ ?_
    · exact .refl _ _
    · exact .step (by decide) (.step (by decide) (.refl _ _) (State.setLink_frame ..)) (elect_frame ..)

theorem execHoldoverTimeout_frame (s t) (h : execHoldoverTimeout s = .next t) :
    Kept [.jr, .host, .tick] s t := by
  have e := Host.Outcome.next.inj h
  subst e
  split
  · rename_i y0 y1 y2 y3 y4
    extract_lets z5
    rename_i w6
    have h7 : Kept [.jr, .host, .tick] s z5 := by
      unfold z5
      exact .step (by decide) (.refl _ _) (advanceTo_frame ..)
    clear_value z5
    exact .step (by decide) h7 (raiseOncePer_frame ..)
  · rename_i y8 y9 y10
    exact .refl _ _

theorem startSwap_frame (l s) : Kept [.host, .net] s (startSwap l s) := by
  unfold startSwap
  extract_lets z0
  rename_i w1
  split
  · rename_i y2 y3
    exact .refl _ _
  · rename_i y4 y5 y6
    refine kept_ite ?_ ?_
    · exact .step (by decide) (.step (by decide) (.refl _ _) (State.setLink_frame ..)) (sendMsg_frame ..)
    · exact .refl _ _

theorem grantEffect_frame (r s) : Kept [.jr, .host, .fm, .net, .mnt] s (grantEffect r s) := by
  unfold grantEffect
  split
  · rename_i y0 y1
    exact .step (by decide) (.refl _ _) (refreshRows_frame ..)
  · rename_i y2 y3
    refine .step (by decide) ?_ (startSwap_frame ..)
    refine .mnt (by decide) ?_
    exact .refl _ _
  · rename_i y4 y5
    refine .mnt (by decide) ?_
    exact .refl _ _
  · rename_i y6 y7 y8 y9
    exact .refl _ _

theorem windowStart_frame (d p s) : Kept [.jr, .host, .fm, .net, .mnt] s (windowStart d p s) := by
  unfold windowStart
  extract_lets z0 z1 z2
  rename_i w3
  have h4 : Kept [.jr, .host, .fm, .net, .mnt] s w3 := by
    unfold w3
    refine .mnt (by decide) ?_
    exact .refl _ _
  clear_value w3
  refine kept_foldl (fun t5 x6 h7 => ?_) ?_
  · exact .step (by decide) h7 (grantEffect_frame ..)
  · exact h4

theorem execMaintenanceWindowStart_frame (die part s t) (h : execMaintenanceWindowStart die part s = .next t) :
    Kept [.jr, .host, .fm, .net, .mnt] s t := by
  have e := Host.Outcome.next.inj h
  subst e
  refine kept_ite ?_ ?_
  · exact .step (by decide) (.refl _ _) (windowStart_frame ..)
  · exact .refl _ _

theorem requeue_frame (a pm s) : Kept [.mnt] s (requeue a pm s) := by
  unfold requeue
  refine .mnt (by decide) ?_
  exact .refl _ _

theorem recalibrate_frame (pm m s) : Kept [.jr, .host, .fm, .mnt] s (recalibrate pm m s) := by
  unfold recalibrate
  refine kept_ite ?_ ?_
  · exact .step (by decide) (.refl _ _) (requeue_frame ..)
  · extract_lets z0 z1
    rename_i w2
    have h3 : Kept [.jr, .host, .fm, .mnt] s z1 := by
      unfold z1
      exact .step (by decide) (.step (by decide) (.refl _ _) (dropReq_frame ..)) (recalFails_frame ..)
    clear_value z1
    refine kept_ite ?_ ?_
    · exact .step (by decide) h3 (applyTrim_frame ..)
    · refine .mnt (by decide) ?_
      exact h3

theorem execRecalibration_frame (mac m s t) (h : execRecalibration mac m s = .next t) :
    Kept [.jr, .host, .fm, .mnt] s t := by
  have e := Host.Outcome.next.inj h
  subst e
  refine kept_ite ?_ ?_
  · exact .step (by decide) (.refl _ _) (recalibrate_frame ..)
  · exact .refl _ _

theorem recalTrigger_frame (pm cause s) : Kept [.tick, .mnt] s (recalTrigger pm cause s) := by
  unfold recalTrigger
  extract_lets z0
  split
  · rename_i y1
    exact .step (by decide) (.step (by decide) (.refl _ _) (advanceTo_frame ..)) (requestRecal_frame ..)
  · rename_i y2
    refine kept_ite ?_ ?_
    · exact .step (by decide) (.refl _ _) (requestRecal_frame ..)
    · exact .refl _ _

theorem execRecalTrigger_frame (mac cause s t) (h : execRecalTrigger mac cause s = .next t) :
    Kept [.tick, .mnt] s t := by
  have e := Host.Outcome.next.inj h
  subst e
  refine kept_ite ?_ ?_
  · exact .step (by decide) (.refl _ _) (recalTrigger_frame ..)
  · exact .refl _ _

theorem scrub_frame (pm flips dev rowDev s) : Kept [.jr, .host, .fm, .mnt] s (scrub pm flips dev rowDev s) := by
  unfold scrub
  extract_lets z0 z1 z2 z3
  have h4 : Kept [.jr, .host, .fm, .mnt] s z2 := by
    unfold z2
    refine kept_ite ?_ ?_
    · exact .refl _ _
    · exact .step (by decide) (.refl _ _) (raiseMnt_frame ..)
  clear_value z2
  have h5 : Kept [.jr, .host, .fm, .mnt] s z3 := by
    unfold z3
    refine kept_ite ?_ ?_
    · exact h4
    · exact .step (by decide) h4 (raiseMnt_frame ..)
  clear_value z3
  refine kept_ite ?_ ?_
  · exact h5
  · exact .step (by decide) h5 (flagSegs_frame ..)

theorem scrubNext_frame (pm s) : Kept [.mnt] s (scrubNext pm s) := by
  unfold scrubNext
  extract_lets z0 z1
  rename_i w2
  refine kept_ite ?_ ?_
  · refine .mnt (by decide) ?_
    exact .refl _ _
  · refine .mnt (by decide) ?_
    exact .refl _ _

theorem noteScrub_frame (pm s) : Kept [.mnt] s (noteScrub pm s) := by
  unfold noteScrub
  extract_lets z0 z1
  rename_i w2
  refine .mnt (by decide) ?_
  exact .refl _ _

theorem scrubPass_frame (pm flips dev rowDev s) : Kept [.jr, .host, .fm, .mnt] s (scrubPass pm flips dev rowDev s) := by
  unfold scrubPass
  refine kept_ite ?_ ?_
  · exact .refl _ _
  · refine kept_ite ?_ ?_
    · exact .step (by decide) (.step (by decide) (.refl _ _) (dropReq_frame ..)) (scrub_frame ..)
    · refine kept_ite ?_ ?_
      · exact .step (by decide) (.step (by decide) (.step (by decide) (.refl _ _) (noteScrub_frame ..)) (scrubNext_frame ..)) (scrub_frame ..)
      · exact .refl _ _

theorem execScrubPass_frame (mac flips dev rowDev s t) (h : execScrubPass mac flips dev rowDev s = .next t) :
    Kept [.jr, .host, .fm, .mnt] s t := by
  have e := Host.Outcome.next.inj h
  subst e
  exact .step (by decide) (.refl _ _) (scrubPass_frame ..)

theorem scrubDeadline_frame (pc s) : Kept [.jr, .host, .tick, .mnt] s (scrubDeadline pc s) := by
  unfold scrubDeadline
  extract_lets z0 z1
  rename_i w2
  have h3 : Kept [.jr, .host, .tick, .mnt] s z0 := by
    unfold z0
    exact .step (by decide) (.refl _ _) (advanceTo_frame ..)
  clear_value z0
  have h4 : Kept [.jr, .host, .tick, .mnt] s w2 := by
    unfold w2
    refine .mnt (by decide) ?_
    exact h3
  clear_value w2
  exact .step (by decide) h4 (raiseMnt_frame ..)

theorem execScrubDeadline_frame (core s t) (h : execScrubDeadline core s = .next t) :
    Kept [.jr, .host, .tick, .mnt] s t := by
  have e := Host.Outcome.next.inj h
  subst e
  refine kept_ite ?_ ?_
  · exact .step (by decide) (.refl _ _) (scrubDeadline_frame ..)
  · exact .refl _ _

theorem execCalDeadline_frame (mac s t) (h : execCalDeadline mac s = .next t) :
    Kept [.jr, .host, .tick] s t := by
  have e := Host.Outcome.next.inj h
  subst e
  exact .step (by decide) (.refl _ _) (calDeadline_frame ..)

theorem execEvacuationCopy_frame (mac flips s t) (h : execEvacuationCopy mac flips s = .next t) :
    Kept [.jr, .host, .reg, .mem, .fm, .cores, .mnt] s t := by
  have e := Host.Outcome.next.inj h
  subst e
  refine kept_ite ?_ ?_
  · exact .step (by decide) (.refl _ _) (evacuationCopy_frame ..)
  · exact .refl _ _

theorem execDiagnosis_frame (mac ev s t) (h : execDiagnosis mac ev s = .next t) :
    Kept [.jr, .host, .fm, .mnt] s t := by
  have e := Host.Outcome.next.inj h
  subst e
  refine kept_ite ?_ ?_
  · exact .step (by decide) (.refl _ _) (diagnose_frame ..)
  · exact .refl _ _

theorem spareMapCommit_frame (s) : Kept [.jr, .host, .reg, .mem, .fm, .cores, .mnt] s (spareMapCommit s) := by
  unfold spareMapCommit
  split
  · rename_i y0 y1
    exact .refl _ _
  · rename_i y2 y3 y4
    extract_lets z5
    rename_i w6 w7
    have h8 : Kept [.jr, .host, .reg, .mem, .fm, .cores, .mnt] s w6 := by
      unfold w6
      refine .mnt (by decide) ?_
      exact .refl _ _
    clear_value w6
    refine kept_ite ?_ ?_
    · refine .step (by decide) ?_ (applyChange_frame ..)
      refine .mnt (by decide) ?_
      exact h8
    · exact h8

theorem execSpareMapCommit_frame (s t) (h : execSpareMapCommit s = .next t) :
    Kept [.jr, .host, .reg, .mem, .fm, .cores, .mnt] s t := by
  have e := Host.Outcome.next.inj h
  subst e
  exact .step (by decide) (.refl _ _) (spareMapCommit_frame ..)

theorem execAlertRelease_frame (s t) (h : execAlertRelease s = .next t) :
    Kept [.now, .jr] s t := by
  have e := Host.Outcome.next.inj h
  subst e
  split
  · rename_i y0 y1
    exact .refl _ _
  · rename_i y2 y3 y4
    refine .step (by decide) ?_ (advanceNow_frame ..)
    refine .jr (by decide) ?_
    exact .refl _ _

theorem execTickRefclkRemoved_frame (s t) (h : execTickRefclkRemoved s = .next t) :
    Kept [.free, .life, .tick] s t := by
  have e := Host.Outcome.next.inj h
  subst e
  refine kept_ite ?_ ?_
  · exact .refl _ _
  · split
    · rename_i y0 y1 y2 y3
      have h4 : Kept [.free, .life, .tick] s y2 := by
        refine .of_pair y3 ?_
        exact .step (by decide) (.refl _ _) (freshFree_frame ..)
      refine .upd rfl ?_ (fun w => w) (fun w => w) (.inr rfl) (.inr rfl) (.inl (by decide)) (.inr rfl) (.inr rfl) (.inr rfl) (.inr rfl) (.inr rfl) (.inr rfl) (.inl (by decide)) (.inr rfl) (.inr rfl) (.inr rfl) (.inr rfl) (.inr rfl)
      exact h4

end Sys2Proof.Machine
end

