-- ==== Sys2Proof/Laws/FrameObjects.lean ====
section
/-!
SUPPORT. What each operation leaves as it was: object-dictionary requests, and the step.

The lemma `f_frame` says that `f` changes no component of the state outside the list it names, and keeps the
memories in canonical form.
-/

namespace Sys2Proof.Machine

open Sys2Proof

theorem setMb_frame (fn m v s) : Kept [.od] s (setMb fn m v s) := by
  unfold setMb
  refine .od (by decide) ?_
  exact .refl _ _

theorem respond_frame (op r st data total s) : Kept [.host, .od] s (respond op r st data total s) := by
  unfold respond
  extract_lets z0
  split
  · rename_i y1 y2 y3 y4
    extract_lets z5
    rename_i w6 w7
    have h8 : Kept [.host, .od] s w7 := by
      unfold w7
      exact .step (by decide) (.refl _ _) (setMb_frame ..)
    clear_value w7
    refine kept_ite ?_ ?_
    · exact .refl _ _
    · refine kept_ite ?_ ?_
      · refine .host (by decide) (fun w => HostIf.signal_wf (hw := w) ..) ?_
        exact h8
      · exact h8
  · rename_i y9 y10 y11
    exact .step (by decide) (.refl _ _) (sendMsg_frame ..)
  · rename_i y12 y13 y14
    exact .step (by decide) (.refl _ _) (sendMsg_frame ..)

theorem refuse_frame (op r st data s) : Kept [.host, .od] s (refuse op r st data s) := by
  unfold refuse
  extract_lets z0
  rename_i w1
  have h2 : Kept [.host, .od] s w1 := by
    unfold w1
    refine .od (by decide) ?_
    exact .refl _ _
  clear_value w1
  exact .step (by decide) h2 (respond_frame ..)

theorem authFail_frame (op r s) : Kept [.host, .od] s (authFail op r s) := by
  unfold authFail
  extract_lets z0 z1
  rename_i w2 w3
  have h4 : Kept [.host, .od] s w2 := by
    unfold w2
    refine .od (by decide) ?_
    exact .refl _ _
  clear_value w2
  refine kept_ite ?_ ?_
  · refine .od (by decide) ?_
    exact h4
  · refine .step (by decide) ?_ (refuse_frame ..)
    refine .od (by decide) ?_
    exact h4

theorem doList_frame (r s) : Kept [.host, .od] s (doList r s) := by
  unfold doList
  extract_lets z0 z1
  exact .step (by decide) (.refl _ _) (respond_frame ..)

theorem doRead_frame (r e s) : Kept [.host, .od] s (doRead r e s) := by
  unfold doRead
  extract_lets z0
  rename_i w1 w2 w3 w4
  have h5 : Kept [.host, .od] s w4 := by
    unfold w4
    refine .od (by decide) ?_
    exact .refl _ _
  clear_value w4
  refine kept_ite ?_ ?_
  · exact .step (by decide) (.refl _ _) (respond_frame ..)
  · exact .step (by decide) h5 (respond_frame ..)

theorem notePlant_frame (who s) : Kept [.od] s (notePlant who s) := by
  unfold notePlant
  split
  · rename_i y0 y1
    refine .od (by decide) ?_
    exact .refl _ _
  · rename_i y2 y3
    exact .refl _ _

theorem hostRequest_frame (n s) : Kept [.jr, .host, .mnt] s (hostRequest n s) := by
  unfold hostRequest
  extract_lets z0 z1
  refine kept_ite ?_ ?_
  · refine kept_ite ?_ ?_
    · exact .step (by decide) (.refl _ _) (requestSubst_frame ..)
    · refine kept_foldl (fun t2 x3 h4 => ?_) ?_
      · extract_lets z5
        refine kept_ite ?_ ?_
        · exact .step (by decide) h4 (queueMnt_frame ..)
        · exact h4
      · exact .refl _ _
  · exact .step (by decide) (.refl _ _) (queueMnt_frame ..)

theorem verifySlot_frame (k img s) : Kept [.life, .jr, .host] s (verifySlot k img s) := by
  unfold verifySlot
  extract_lets z0 z1
  rename_i w2 w3
  have h4 : Kept [.life, .jr, .host] s w2 := by
    unfold w2
    exact .step (by decide) (.refl _ _) (setSlot_frame ..)
  clear_value w2
  refine kept_ite ?_ ?_
  · exact h4
  · exact .step (by decide) h4 (raise_frame ..)

theorem doAction_frame (op r v s) :
    Kept [.life, .jr, .host, .reg, .mem, .fm, .adm, .tick, .cores, .net, .pwr, .mnt, .od] s (doAction op r v s) := by
  unfold doAction
  extract_lets z0 z1 z2
  rename_i w3
  split
  · rename_i y4 y5 y6 y7
    exact .step (by decide) (.refl _ _) (newTxn_frame ..)
  · rename_i y8 y9 y10 y11
    exact .step (by decide) (.refl _ _) (newTxn_frame ..)
  · rename_i y12 y13 y14 y15
    exact .step (by decide) (.refl _ _) (newTxn_frame ..)
  · rename_i y16 y17 y18 y19
    exact .step (by decide) (.refl _ _) (newTxn_frame ..)
  · rename_i y20 y21 y22 y23
    refine kept_ite ?_ ?_
    · refine .step (by decide) ?_ (releaseEffect_frame ..)
      unfold z1
      exact .step (by decide) (.refl _ _) (respond_frame ..)
    · unfold z1
      exact .step (by decide) (.refl _ _) (respond_frame ..)
  · rename_i y24 y25 y26 y27
    refine .step (by decide) ?_ (moduleResetEffect_frame ..)
    unfold z1
    exact .step (by decide) (.refl _ _) (respond_frame ..)
  · rename_i y28 y29 y30 y31
    refine kept_ite ?_ ?_
    · refine .step (by decide) ?_ (enterStandby_frame ..)
      unfold z1
      exact .step (by decide) (.refl _ _) (respond_frame ..)
    · unfold z1
      exact .step (by decide) (.refl _ _) (respond_frame ..)
  · rename_i y32 y33 y34 y35
    refine kept_ite ?_ ?_
    · refine .step (by decide) ?_ (wakeEffect_frame ..)
      unfold z1
      exact .step (by decide) (.refl _ _) (respond_frame ..)
    · unfold z1
      exact .step (by decide) (.refl _ _) (respond_frame ..)
  · rename_i y36 y37 y38 y39
    unfold z1
    refine .step (by decide) ?_ (respond_frame ..)
    refine kept_ite ?_ ?_
    · refine .jr (by decide) ?_
      exact .refl _ _
    · exact .refl _ _
  · rename_i y40 y41 y42 y43
    unfold z1
    exact .step (by decide) (.step (by decide) (.refl _ _) (fleetOrigin_frame ..)) (respond_frame ..)
  · rename_i y44 y45 y46 y47
    exact .step (by decide) (.refl _ _) (newTxn_frame ..)
  · rename_i y48 y49 y50 y51
    refine kept_ite ?_ ?_
    · exact .step (by decide) (.refl _ _) (newTxn_frame ..)
    · unfold z1
      exact .step (by decide) (.refl _ _) (respond_frame ..)
  · rename_i y52 y53 y54 y55
    unfold z1
    exact .step (by decide) (.step (by decide) (.refl _ _) (hostRequest_frame ..)) (respond_frame ..)
  · rename_i y56 y57 y58 y59 y60 y61 y62 y63 y64 y65 y66 y67 y68 y69 y70
    refine kept_ite ?_ ?_
    · unfold z1
      refine .step (by decide) ?_ (respond_frame ..)
      refine kept_ite ?_ ?_
      · exact .step (by decide) (.refl _ _) (verifySlot_frame ..)
      · exact .refl _ _
    · refine kept_ite ?_ ?_
      · unfold z1
        refine .step (by decide) ?_ (respond_frame ..)
        refine kept_ite ?_ ?_
        · exact .step (by decide) (.refl _ _) (setSlot_frame ..)
        · exact .refl _ _
      · refine kept_ite ?_ ?_
        · refine kept_ite ?_ ?_
          · exact .step (by decide) (.refl _ _) (newTxn_frame ..)
          · unfold z1
            exact .step (by decide) (.refl _ _) (respond_frame ..)
        · unfold z1
          exact .step (by decide) (.refl _ _) (respond_frame ..)

theorem relinks_frame (before s) : Kept [.net] s (relinks before s) := by
  unfold relinks
  extract_lets z0
  have h1 : Kept [.net] s z0 := by
    unfold z0
    refine kept_ite ?_ ?_
    · exact .step (by decide) (.refl _ _) (idleLinks_frame ..)
    · exact .refl _ _
  clear_value z0
  refine kept_foldl (fun t2 x3 h4 => ?_) ?_
  · refine kept_ite ?_ ?_
    · exact h4
    · exact .step (by decide) h4 (State.setLink_frame ..)
  · exact h1

theorem applyWrite_frame (i sub v before s) : Kept [.adm, .tick, .net, .pwr] s (applyWrite i sub v before s) := by
  unfold applyWrite
  split
  · rename_i y0 y1
    refine kept_ite ?_ ?_
    · exact .step (by decide) (.refl _ _) (startTraj_frame ..)
    · exact .refl _ _
  · rename_i y2 y3
    refine kept_ite ?_ ?_
    · exact .step (by decide) (.refl _ _) (startTraj_frame ..)
    · exact .refl _ _
  · rename_i y4 y5
    exact .step (by decide) (.refl _ _) (relinks_frame ..)
  · rename_i y6 y7
    exact .step (by decide) (.refl _ _) (relinks_frame ..)
  · rename_i y8 y9
    exact .step (by decide) (.refl _ _) (relinks_frame ..)
  · rename_i y10 y11 y12 y13 y14 y15 y16
    refine kept_ite ?_ ?_
    · exact .step (by decide) (.refl _ _) (relinks_frame ..)
    · refine kept_ite ?_ ?_
      · exact .step (by decide) (.refl _ _) (State.setPart_frame ..)
      · refine kept_ite ?_ ?_
        · exact .step (by decide) (.refl _ _) (trimPlans_frame ..)
        · exact .refl _ _

theorem writeValue_frame (op r e a s) :
    Kept [.life, .jr, .host, .reg, .mem, .fm, .adm, .tick, .cores, .net, .pwr, .mnt, .od] s (writeValue op r e a s) := by
  unfold writeValue
  split
  · rename_i y0 y1 y2
    exact .step (by decide) (.refl _ _) (refuse_frame ..)
  · rename_i y3 y4
    refine kept_ite ?_ ?_
    · exact .step (by decide) (.refl _ _) (refuse_frame ..)
    · extract_lets z5 z6
      rename_i w7 w8 w9 w10 w11 w12
      have h13 : Kept [.life, .jr, .host, .reg, .mem, .fm, .adm, .tick, .cores, .net, .pwr,
    .mnt, .od] s w9 := by
        unfold w9
        exact .step (by decide) (.refl _ _) (notePlant_frame ..)
      clear_value w9
      have h14 : Kept [.life, .jr, .host, .reg, .mem, .fm, .adm, .tick, .cores, .net, .pwr,
    .mnt, .od] s w11 := by
        unfold w11
        refine kept_ite ?_ ?_
        · refine .mnt (by decide) ?_
          exact h13
        · exact h13
      clear_value w11
      split
      · rename_i y15 y16 y17
        exact .step (by decide) (.refl _ _) (refuse_frame ..)
      · rename_i y18 y19
        refine kept_ite ?_ ?_
        · exact .step (by decide) (.refl _ _) (refuse_frame ..)
        · refine kept_ite ?_ ?_
          · exact .step (by decide) h14 (doAction_frame ..)
          · refine kept_ite ?_ ?_
            · refine .step (by decide) ?_ (respond_frame ..)
              refine kept_ite ?_ ?_
              · exact .step (by decide) h14 (applyWrite_frame ..)
              · exact h14
            · refine kept_ite ?_ ?_
              · exact .step (by decide) h14 (newTxn_frame ..)
              · exact .step (by decide) (.step (by decide) (.step (by decide) h14 (setOd_frame ..)) (applyWrite_frame ..)) (respond_frame ..)

theorem dropStaged_frame (who s) : Kept [.od] s (dropStaged who s) := by
  unfold dropStaged
  refine .od (by decide) ?_
  exact .refl _ _

theorem downloadSeg_frame (k off data s t) (h : downloadSeg k off data s = some t) : Kept [.life] s t := by
  unfold downloadSeg at h
  extract_lets x size have_ img at h
  clear_value img have_ size x
  split at h
  · cases h
  · cases h
    exact .step (by decide) (.refl _ _) (setSlot_frame ..)

theorem doSegWrite_frame (r e s) : Kept [.life, .host, .od] s (doSegWrite r e s) := by
  unfold doSegWrite
  extract_lets z0 z1
  split
  · rename_i y2 y3 y4
    exact .step (by decide) (.refl _ _) (refuse_frame ..)
  · rename_i y5 y6
    refine kept_ite ?_ ?_
    · exact .step (by decide) (.refl _ _) (refuse_frame ..)
    · refine kept_ite ?_ ?_
      · split
        · rename_i y7 y8
          exact .step (by decide) (.refl _ _) (refuse_frame ..)
        · rename_i y9 y10 y11
          have h12 : Kept [.life, .host, .od] s y10 := by
            refine .step (by decide) ?_ (downloadSeg_frame (h := y11) ..)
            exact .refl _ _
          exact .step (by decide) (.step (by decide) h12 (notePlant_frame ..)) (respond_frame ..)
      · refine kept_ite ?_ ?_
        · refine kept_ite ?_ ?_
          · exact .step (by decide) (.refl _ _) (refuse_frame ..)
          · refine kept_ite ?_ ?_
            · exact .step (by decide) (.refl _ _) (refuse_frame ..)
            · unfold z1
              extract_lets z13
              rename_i w14 w15
              have h16 : Kept [.life, .host, .od] s w14 := by
                unfold w14
                exact .step (by decide) (.refl _ _) (dropStaged_frame ..)
              clear_value w14
              refine .step (by decide) ?_ (respond_frame ..)
              refine .step (by decide) ?_ (notePlant_frame ..)
              refine .od (by decide) ?_
              exact h16
        · split
          · rename_i y17 y18
            exact .step (by decide) (.refl _ _) (refuse_frame ..)
          · rename_i y19 y20 y21
            refine kept_ite ?_ ?_
            · exact .step (by decide) (.step (by decide) (.refl _ _) (dropStaged_frame ..)) (refuse_frame ..)
            · refine kept_ite ?_ ?_
              · exact .step (by decide) (.refl _ _) (refuse_frame ..)
              · refine kept_ite ?_ ?_
                · exact .step (by decide) (.refl _ _) (refuse_frame ..)
                · unfold z1
                  extract_lets z22
                  rename_i w23 w24
                  have h25 : Kept [.life, .host, .od] s w23 := by
                    unfold w23
                    exact .step (by decide) (.refl _ _) (dropStaged_frame ..)
                  clear_value w23
                  refine .step (by decide) ?_ (respond_frame ..)
                  refine .step (by decide) ?_ (notePlant_frame ..)
                  refine .od (by decide) ?_
                  exact h25

theorem doSegCommit_frame (r e s) :
    Kept [.life, .jr, .host, .reg, .mem, .fm, .adm, .tick, .cores, .net, .pwr, .mnt, .od] s (doSegCommit r e s) := by
  unfold doSegCommit
  split
  · rename_i y0 y1
    exact .step (by decide) (.refl _ _) (refuse_frame ..)
  · rename_i y2 y3 y4
    refine kept_ite ?_ ?_
    · exact .step (by decide) (.step (by decide) (.refl _ _) (dropStaged_frame ..)) (refuse_frame ..)
    · refine kept_ite ?_ ?_
      · exact .step (by decide) (.refl _ _) (refuse_frame ..)
      · exact .step (by decide) (.step (by decide) (.refl _ _) (dropStaged_frame ..)) (writeValue_frame ..)

theorem runRequest_frame (op r s) :
    Kept [.life, .jr, .host, .reg, .mem, .fm, .adm, .tick, .cores, .net, .pwr, .mnt, .od] s (runRequest op r s) := by
  unfold runRequest
  split
  · rename_i y0 y1 y2
    exact .step (by decide) (.refl _ _) (refuse_frame ..)
  · rename_i y3 y4
    refine kept_ite ?_ ?_
    · exact .step (by decide) (.refl _ _) (doList_frame ..)
    · split
      · rename_i y5 y6
        exact .step (by decide) (.refl _ _) (refuse_frame ..)
      · rename_i y7 y8 y9
        refine kept_ite ?_ ?_
        · exact .step (by decide) (.refl _ _) (doRead_frame ..)
        · refine kept_ite ?_ ?_
          · exact .step (by decide) (.refl _ _) (writeValue_frame ..)
          · refine kept_ite ?_ ?_
            · exact .step (by decide) (.refl _ _) (doSegWrite_frame ..)
            · refine kept_ite ?_ ?_
              · exact .step (by decide) (.refl _ _) (doSegCommit_frame ..)
              · refine kept_ite ?_ ?_
                · refine kept_ite ?_ ?_
                  · exact .step (by decide) (.refl _ _) (refuse_frame ..)
                  · exact .step (by decide) (.step (by decide) (.step (by decide) (.refl _ _) (dropStaged_frame ..)) (notePlant_frame ..)) (respond_frame ..)
                · extract_lets z10
                  exact .step (by decide) (.refl _ _) (respond_frame ..)

theorem setLast_frame (k v s) : Kept [.od] s (setLast k v s) := by
  unfold setLast
  refine .od (by decide) ?_
  exact .refl _ _

theorem startRequest_frame (op r s) :
    Kept [.life, .jr, .host, .reg, .mem, .fm, .adm, .tick, .cores, .net, .pwr, .mnt, .od] s (startRequest op r s) := by
  unfold startRequest
  extract_lets z0
  rename_i w1
  have h2 : Kept [.life, .jr, .host, .reg, .mem, .fm, .adm, .tick, .cores, .net, .pwr,
    .mnt, .od] s w1 := by
    unfold w1
    refine .od (by decide) ?_
    exact .refl _ _
  clear_value w1
  refine kept_ite ?_ ?_
  · exact .step (by decide) h2 (refuse_frame ..)
  · split
    · rename_i y3 y4 y5
      split
      · rename_i y6 y7 y8
        refine kept_ite ?_ ?_
        · exact .step (by decide) h2 (authFail_frame ..)
        · exact .step (by decide) h2 (refuse_frame ..)
      · rename_i y9 y10
        refine kept_ite ?_ ?_
        · exact .step (by decide) h2 (runRequest_frame ..)
        · refine kept_ite ?_ ?_
          · exact .step (by decide) h2 (newTxn_frame ..)
          · exact .step (by decide) (.step (by decide) h2 (setLast_frame ..)) (runRequest_frame ..)
    · rename_i y11 y12
      exact .step (by decide) h2 (runRequest_frame ..)

theorem acceptRequest_frame (op r s) :
    Kept [.life, .jr, .host, .reg, .mem, .fm, .adm, .tick, .cores, .net, .pwr, .mnt, .od] s (acceptRequest op r s) := by
  unfold acceptRequest
  refine kept_ite ?_ ?_
  · refine .od (by decide) ?_
    exact .refl _ _
  · exact .step (by decide) (.refl _ _) (startRequest_frame ..)

theorem activateNow_frame (k s) :
    Kept [.life, .jr, .host, .reg, .mem, .fm, .adm, .tick, .cores, .net, .pwr, .mnt, .od] s (activateNow k s) := by
  unfold activateNow
  extract_lets z0
  rename_i w1 w2
  have h3 : Kept [.life, .jr, .host, .reg, .mem, .fm, .adm, .tick, .cores, .net, .pwr,
    .mnt, .od] s z0 := by
    unfold z0
    exact .step (by decide) (.step (by decide) (.refl _ _) (writePtr_frame ..)) (setSlotSt_frame ..)
  clear_value z0
  have h4 : Kept [.life, .jr, .host, .reg, .mem, .fm, .adm, .tick, .cores, .net, .pwr,
    .mnt, .od] s w1 := by
    unfold w1
    exact .step (by decide) h3 (moduleReset_frame ..)
  clear_value w1
  refine kept_ite ?_ ?_
  · refine .life (by decide) ?_
    exact h4
  · exact h3

theorem confirmNow_frame (s) : Kept [.life] s (confirmNow s) := by
  unfold confirmNow
  extract_lets z0 z1 z2
  rename_i w3
  have h4 : Kept [.life] s z2 := by
    unfold z2
    refine .life (by decide) ?_
    exact .refl _ _
  clear_value z2
  have h5 : Kept [.life] s w3 := by
    unfold w3
    exact .step (by decide) (.step (by decide) h4 (writePtr_frame ..)) (setSlotSt_frame ..)
  clear_value w3
  refine kept_ite ?_ ?_
  · exact .step (by decide) h5 (setSlotSt_frame ..)
  · exact h5

theorem afterCommit_frame (t' before s) :
    Kept [.life, .jr, .host, .reg, .mem, .fm, .adm, .tick, .cores, .net, .pwr, .mnt, .od] s (afterCommit t' before s) := by
  unfold afterCommit
  extract_lets z0
  have h1 : Kept [.life, .jr, .host, .reg, .mem, .fm, .adm, .tick, .cores, .net, .pwr,
    .mnt, .od] s z0 := by
    unfold z0
    refine kept_foldl (fun t2 x3 h4 => ?_) ?_
    · exact .step (by decide) h4 (applyWrite_frame ..)
    · exact .refl _ _
  clear_value z0
  split
  · rename_i y5 y6
    exact h1
  · rename_i y7 y8 y9 y10 y11
    exact .step (by decide) h1 (respond_frame ..)
  · rename_i y12 y13 y14 y15
    exact .step (by decide) (.step (by decide) h1 (confirmNow_frame ..)) (respond_frame ..)
  · rename_i y16 y17 y18 y19 y20
    exact .step (by decide) (.step (by decide) h1 (respond_frame ..)) (activateNow_frame ..)
  · rename_i y21 y22 y23 y24
    exact .step (by decide) h1 (respond_frame ..)
  · rename_i y25 y26 y27 y28 y29
    exact .step (by decide) (.step (by decide) h1 (setLast_frame ..)) (respond_frame ..)
  · rename_i y30 y31 y32 y33 y34
    exact .step (by decide) h1 (respond_frame ..)
  · rename_i y35 y36 y37 y38 y39 y40
    exact .step (by decide) (.step (by decide) h1 (setLast_frame ..)) (runRequest_frame ..)

theorem receiveRequest_frame (op r s) :
    Kept [.life, .jr, .host, .reg, .mem, .fm, .adm, .tick, .cores, .net, .pwr, .mnt, .od] s (receiveRequest op r s) := by
  unfold receiveRequest
  split
  · rename_i y0 y1 y2 y3
    extract_lets z4
    rename_i w5 w6
    refine kept_ite ?_ ?_
    · exact .refl _ _
    · refine kept_ite ?_ ?_
      · refine .od (by decide) ?_
        exact .refl _ _
      · exact .step (by decide) (.step (by decide) (.refl _ _) (setMb_frame ..)) (acceptRequest_frame ..)
  · rename_i y7 y8 y9
    refine kept_ite ?_ ?_
    · exact .refl _ _
    · extract_lets z10
      rename_i w11 w12
      have h13 : Kept [.life, .jr, .host, .reg, .mem, .fm, .adm, .tick, .cores, .net, .pwr,
    .mnt, .od] s w11 := by
        unfold w11
        refine .od (by decide) ?_
        exact .refl _ _
      refine kept_ite ?_ ?_
      · refine .od (by decide) ?_
        exact h13
      · exact .step (by decide) h13 (acceptRequest_frame ..)
  · rename_i y14 y15 y16
    refine kept_ite ?_ ?_
    · exact .refl _ _
    · refine .step (by decide) ?_ (acceptRequest_frame ..)
      refine .od (by decide) ?_
      exact .refl _ _

theorem mbGo_frame (fn m s) :
    Kept [.life, .jr, .host, .reg, .mem, .fm, .adm, .tick, .cores, .net, .pwr, .mnt, .od] s (mbGo fn m s) := by
  unfold mbGo
  exact .step (by decide) (.refl _ _) (receiveRequest_frame ..)

theorem mbRegWrite_frame (fn m x v n s) :
    Kept [.life, .jr, .host, .reg, .mem, .fm, .adm, .tick, .cores, .net, .pwr, .mnt, .od] s (mbRegWrite fn m x v n s) := by
  unfold mbRegWrite
  extract_lets z0 z1
  rename_i w2
  refine kept_ite ?_ ?_
  · refine kept_ite ?_ ?_
    · refine withHalf_frame (by decide) (fun u3 u4 u5 => ?_) ?_
      · exact .step (by decide) u5 (setMb_frame ..)
      · exact .refl _ _
    · exact .refl _ _
  · refine kept_ite ?_ ?_
    · exact .refl _ _
    · refine kept_ite ?_ ?_
      · exact .step (by decide) (.refl _ _) (setMb_frame ..)
      · refine kept_ite ?_ ?_
        · exact .step (by decide) (.refl _ _) (setMb_frame ..)
        · refine kept_ite ?_ ?_
          · refine kept_ite ?_ ?_
            · exact .step (by decide) (.refl _ _) (mbGo_frame ..)
            · exact .refl _ _
          · refine kept_ite ?_ ?_
            · exact .step (by decide) (.refl _ _) (setMb_frame ..)
            · exact .refl _ _

theorem bar2Write_frame (fn off v width s) :
    Kept [.life, .jr, .host, .reg, .mem, .fm, .adm, .tick, .cores, .net, .pwr, .mnt, .od] s (bar2Write fn off v width s) := by
  unfold bar2Write
  extract_lets z0
  refine kept_ite ?_ ?_
  · exact .refl _ _
  · split
    · rename_i y1 y2 y3 y4 y5
      refine kept_ite ?_ ?_
      · exact .step (by decide) (.refl _ _) (mbRegWrite_frame ..)
      · exact .refl _ _
    · rename_i y6 y7 y8 y9 y10 y11
      extract_lets z12
      refine kept_ite ?_ ?_
      · exact .step (by decide) (.refl _ _) (setMb_frame ..)
      · exact .refl _ _
    · rename_i y13 y14 y15 y16
      exact .refl _ _

theorem bar4Write_frame (fn off v width s) : Kept [.host] s (bar4Write fn off v width s) := by
  unfold bar4Write
  refine kept_ite ?_ ?_
  · exact .refl _ _
  · refine kept_ite ?_ ?_
    · extract_lets z0
      refine kept_ite ?_ ?_
      · exact .step (by decide) (.refl _ _) (sqTailEffect_frame ..)
      · refine kept_ite ?_ ?_
        · exact .step (by decide) (.refl _ _) (cqHeadEffect_frame ..)
        · exact .refl _ _
    · refine kept_ite ?_ ?_
      · exact .step (by decide) (.refl _ _) (eqHeadEffect_frame ..)
      · exact .refl _ _

theorem drainRequests_frame (n s) : Kept [.life, .jr, .host, .reg, .mem, .fm, .adm, .tick, .cores, .net, .pwr, .mnt, .od] s (drainRequests n s) := by
  induction n generalizing s with
  | zero =>
    unfold drainRequests
    exact .refl _ _
  | succ n ih =>
    unfold drainRequests
    refine kept_ite ?_ ?_
    · exact .refl _ _
    · split
      · rename_i y0 y1
        exact .refl _ _
      · rename_i y2 y3 y4 y5
        refine .step (fun _ h => h) ?_ (ih ..)
        refine .step (by decide) ?_ (startRequest_frame ..)
        refine .od (by decide) ?_
        exact .refl _ _

theorem execRegWrite_frame (fn bar off value width s t) (h : execRegWrite fn bar off value width s = .next t) :
    Kept [.life, .jr, .host, .reg, .mem, .fm, .adm, .tick, .cores, .net, .pwr, .mnt, .od] s t := by
  have e := Host.Outcome.next.inj h
  subst e
  split
  · rename_i y0
    exact .step (by decide) (.refl _ _) (bar0Write_frame ..)
  · rename_i y1
    exact .step (by decide) (.refl _ _) (bar2Write_frame ..)
  · rename_i y2
    refine kept_ite ?_ ?_
    · exact .step (by decide) (.refl _ _) (bar4Write_frame ..)
    · exact .refl _ _
  · rename_i y3 y4 y5 y6
    exact .refl _ _

theorem execRead_frame (r s t) (h : execRead r s = .next t) :
    Kept [.life, .jr, .host, .reg, .mem, .fm, .adm, .tick, .cores, .net, .pwr, .mnt, .od] s t := by
  have e := Host.Outcome.next.inj h
  subst e
  exact .step (by decide) (.refl _ _) (receiveRequest_frame ..)

theorem execWrite_frame (r s t) (h : execWrite r s = .next t) :
    Kept [.life, .jr, .host, .reg, .mem, .fm, .adm, .tick, .cores, .net, .pwr, .mnt, .od] s t := by
  have e := Host.Outcome.next.inj h
  subst e
  exact .step (by decide) (.refl _ _) (receiveRequest_frame ..)

theorem execSegWrite_frame (r s t) (h : execSegWrite r s = .next t) :
    Kept [.life, .jr, .host, .reg, .mem, .fm, .adm, .tick, .cores, .net, .pwr, .mnt, .od] s t := by
  have e := Host.Outcome.next.inj h
  subst e
  exact .step (by decide) (.refl _ _) (receiveRequest_frame ..)

theorem execSegCommit_frame (r s t) (h : execSegCommit r s = .next t) :
    Kept [.life, .jr, .host, .reg, .mem, .fm, .adm, .tick, .cores, .net, .pwr, .mnt, .od] s t := by
  have e := Host.Outcome.next.inj h
  subst e
  exact .step (by decide) (.refl _ _) (receiveRequest_frame ..)

theorem execSegAbort_frame (r s t) (h : execSegAbort r s = .next t) :
    Kept [.life, .jr, .host, .reg, .mem, .fm, .adm, .tick, .cores, .net, .pwr, .mnt, .od] s t := by
  have e := Host.Outcome.next.inj h
  subst e
  exact .step (by decide) (.refl _ _) (receiveRequest_frame ..)

theorem execDescribe_frame (r s t) (h : execDescribe r s = .next t) :
    Kept [.life, .jr, .host, .reg, .mem, .fm, .adm, .tick, .cores, .net, .pwr, .mnt, .od] s t := by
  have e := Host.Outcome.next.inj h
  subst e
  exact .step (by decide) (.refl _ _) (receiveRequest_frame ..)

theorem execList_frame (r s t) (h : execList r s = .next t) :
    Kept [.life, .jr, .host, .reg, .mem, .fm, .adm, .tick, .cores, .net, .pwr, .mnt, .od] s t := by
  have e := Host.Outcome.next.inj h
  subst e
  exact .step (by decide) (.refl _ _) (receiveRequest_frame ..)

theorem stagingExpiryEffect_frame (who s) : Kept [.now, .od] s (stagingExpiryEffect who s) := by
  unfold stagingExpiryEffect
  split
  · rename_i y0 y1
    exact .refl _ _
  · rename_i y2 y3 y4
    refine kept_ite ?_ ?_
    · exact .refl _ _
    · extract_lets z5
      rename_i w6
      have h7 : Kept [.now, .od] s z5 := by
        unfold z5
        exact .step (by decide) (.refl _ _) (advanceNow_frame ..)
      clear_value z5
      refine .od (by decide) ?_
      exact h7

theorem execStagingExpiry_frame (who s t) (h : execStagingExpiry who s = .next t) :
    Kept [.now, .od] s t := by
  have e := Host.Outcome.next.inj h
  subst e
  exact .step (by decide) (.refl _ _) (stagingExpiryEffect_frame ..)

theorem mctpControl_frame {L : List Comp} {s t : State} {code : Nat} {data : State → List Byte} {eff : State → State} (hL : [.host, .od] ⊆ L)
    (ha : ∀ u, Kept L s u → Kept L s (eff u)) (h : Kept L s t) : Kept L s (mctpControl code data eff t) := by
  unfold mctpControl
  refine kept_ite ?_ ?_
  · exact h
  · extract_lets z0
    rename_i w1
    have h2 : Kept L s w1 := by
      unfold w1
      refine ha _ ?_
      refine .od (hL (by decide)) ?_
      exact h
    clear_value w1
    exact .step (List.Subset.trans (by decide) hL) h2 (sendMsg_frame ..)

theorem execSetEndpointId_frame (eid s t) (h : execSetEndpointId eid s = .next t) :
    Kept [.host, .od] s t := by
  have e := Host.Outcome.next.inj h
  subst e
  refine kept_ite ?_ ?_
  · refine mctpControl_frame (by decide) (fun u0 u1 => ?_) ?_
    · refine .od (by decide) ?_
      exact u1
    · exact .refl _ _
  · refine mctpControl_frame (by decide) (fun u2 u3 => ?_) ?_
    · exact u3
    · exact .refl _ _

theorem execGetEndpointId_frame (s t) (h : execGetEndpointId s = .next t) :
    Kept [.host, .od] s t := by
  have e := Host.Outcome.next.inj h
  subst e
  refine mctpControl_frame (by decide) (fun u0 u1 => ?_) ?_
  · exact u1
  · exact .refl _ _

theorem execGetMctpVersionSupport_frame (msgType s t) (h : execGetMctpVersionSupport msgType s = .next t) :
    Kept [.host, .od] s t := by
  have e := Host.Outcome.next.inj h
  subst e
  refine mctpControl_frame (by decide) (fun u0 u1 => ?_) ?_
  · exact u1
  · exact .refl _ _

theorem execGetMessageTypeSupport_frame (s t) (h : execGetMessageTypeSupport s = .next t) :
    Kept [.host, .od] s t := by
  have e := Host.Outcome.next.inj h
  subst e
  refine mctpControl_frame (by decide) (fun u0 u1 => ?_) ?_
  · exact u1
  · exact .refl _ _

theorem execGetVendorDefinedMessageSupport_frame (selector s t) (h : execGetVendorDefinedMessageSupport selector s = .next t) :
    Kept [.host, .od] s t := by
  have e := Host.Outcome.next.inj h
  subst e
  refine mctpControl_frame (by decide) (fun u0 u1 => ?_) ?_
  · exact u1
  · exact .refl _ _

theorem execDynamicAddressAssignment_frame (addr s t) (h : execDynamicAddressAssignment addr s = .next t) :
    Kept [.od] s t := by
  have e := Host.Outcome.next.inj h
  subst e
  refine kept_ite ?_ ?_
  · exact .refl _ _
  · refine .od (by decide) ?_
    exact .refl _ _

theorem writeEntry_frame (who index sub data s) :
    Kept [.life, .jr, .host, .reg, .mem, .fm, .adm, .tick, .cores, .net, .pwr, .mnt, .od] s (writeEntry who index sub data s) := by
  unfold writeEntry
  exact .step (by decide) (.refl _ _) (receiveRequest_frame ..)

theorem execRelease_frame (who data s t) (h : execRelease who data s = .next t) :
    Kept [.life, .jr, .host, .reg, .mem, .fm, .adm, .tick, .cores, .net, .pwr, .mnt, .od] s t := by
  have e := Host.Outcome.next.inj h
  subst e
  exact .step (by decide) (.refl _ _) (writeEntry_frame ..)

theorem execModuleReset_frame (who data s t) (h : execModuleReset who data s = .next t) :
    Kept [.life, .jr, .host, .reg, .mem, .fm, .adm, .tick, .cores, .net, .pwr, .mnt, .od] s t := by
  have e := Host.Outcome.next.inj h
  subst e
  exact .step (by decide) (.refl _ _) (writeEntry_frame ..)

theorem execStandby_frame (who data s t) (h : execStandby who data s = .next t) :
    Kept [.life, .jr, .host, .reg, .mem, .fm, .adm, .tick, .cores, .net, .pwr, .mnt, .od] s t := by
  have e := Host.Outcome.next.inj h
  subst e
  exact .step (by decide) (.refl _ _) (writeEntry_frame ..)

theorem execWake_frame (who data s t) (h : execWake who data s = .next t) :
    Kept [.life, .jr, .host, .reg, .mem, .fm, .adm, .tick, .cores, .net, .pwr, .mnt, .od] s t := by
  have e := Host.Outcome.next.inj h
  subst e
  exact .step (by decide) (.refl _ _) (writeEntry_frame ..)

theorem execFactoryDefaults_frame (who data s t) (h : execFactoryDefaults who data s = .next t) :
    Kept [.life, .jr, .host, .reg, .mem, .fm, .adm, .tick, .cores, .net, .pwr, .mnt, .od] s t := by
  have e := Host.Outcome.next.inj h
  subst e
  exact .step (by decide) (.refl _ _) (writeEntry_frame ..)

theorem execKeyWrite_frame (who slot data s t) (h : execKeyWrite who slot data s = .next t) :
    Kept [.life, .jr, .host, .reg, .mem, .fm, .adm, .tick, .cores, .net, .pwr, .mnt, .od] s t := by
  have e := Host.Outcome.next.inj h
  subst e
  refine kept_ite ?_ ?_
  · exact .step (by decide) (.refl _ _) (writeEntry_frame ..)
  · exact .refl _ _

theorem execKeyRevoke_frame (who data s t) (h : execKeyRevoke who data s = .next t) :
    Kept [.life, .jr, .host, .reg, .mem, .fm, .adm, .tick, .cores, .net, .pwr, .mnt, .od] s t := by
  have e := Host.Outcome.next.inj h
  subst e
  exact .step (by decide) (.refl _ _) (writeEntry_frame ..)

theorem execClearSaved_frame (who link data s t) (h : execClearSaved who link data s = .next t) :
    Kept [.life, .jr, .host, .reg, .mem, .fm, .adm, .tick, .cores, .net, .pwr, .mnt, .od] s t := by
  have e := Host.Outcome.next.inj h
  subst e
  refine kept_ite ?_ ?_
  · exact .step (by decide) (.refl _ _) (writeEntry_frame ..)
  · exact .refl _ _

theorem execFleetSend_frame (who data s t) (h : execFleetSend who data s = .next t) :
    Kept [.life, .jr, .host, .reg, .mem, .fm, .adm, .tick, .cores, .net, .pwr, .mnt, .od] s t := by
  have e := Host.Outcome.next.inj h
  subst e
  exact .step (by decide) (.refl _ _) (writeEntry_frame ..)

theorem execPwrCapWrite_frame (who data s t) (h : execPwrCapWrite who data s = .next t) :
    Kept [.life, .jr, .host, .reg, .mem, .fm, .adm, .tick, .cores, .net, .pwr, .mnt, .od] s t := by
  have e := Host.Outcome.next.inj h
  subst e
  exact .step (by decide) (.refl _ _) (writeEntry_frame ..)

theorem execSetpointChange_frame (who data s t) (h : execSetpointChange who data s = .next t) :
    Kept [.life, .jr, .host, .reg, .mem, .fm, .adm, .tick, .cores, .net, .pwr, .mnt, .od] s t := by
  have e := Host.Outcome.next.inj h
  subst e
  exact .step (by decide) (.refl _ _) (writeEntry_frame ..)

theorem execActivate_frame (who data s t) (h : execActivate who data s = .next t) :
    Kept [.life, .jr, .host, .reg, .mem, .fm, .adm, .tick, .cores, .net, .pwr, .mnt, .od] s t := by
  have e := Host.Outcome.next.inj h
  subst e
  exact .step (by decide) (.refl _ _) (writeEntry_frame ..)

theorem execConfirm_frame (who data s t) (h : execConfirm who data s = .next t) :
    Kept [.life, .jr, .host, .reg, .mem, .fm, .adm, .tick, .cores, .net, .pwr, .mnt, .od] s t := by
  have e := Host.Outcome.next.inj h
  subst e
  exact .step (by decide) (.refl _ _) (writeEntry_frame ..)

theorem execDownload_frame (who slot offset data s t) (h : execDownload who slot offset data s = .next t) :
    Kept [.life, .jr, .host, .reg, .mem, .fm, .adm, .tick, .cores, .net, .pwr, .mnt, .od] s t := by
  have e := Host.Outcome.next.inj h
  subst e
  refine kept_ite ?_ ?_
  · exact .step (by decide) (.refl _ _) (receiveRequest_frame ..)
  · exact .refl _ _

theorem execVerify_frame (who slot data img s t) (h : execVerify who slot data img s = .next t) :
    Kept [.life, .jr, .host, .reg, .mem, .fm, .adm, .tick, .cores, .net, .pwr, .mnt, .od] s t := by
  have e := Host.Outcome.next.inj h
  subst e
  refine kept_ite ?_ ?_
  · exact .step (by decide) (.refl _ _) (receiveRequest_frame ..)
  · exact .refl _ _

theorem execErase_frame (who slot data s t) (h : execErase who slot data s = .next t) :
    Kept [.life, .jr, .host, .reg, .mem, .fm, .adm, .tick, .cores, .net, .pwr, .mnt, .od] s t := by
  have e := Host.Outcome.next.inj h
  subst e
  refine kept_ite ?_ ?_
  · exact .step (by decide) (.refl _ _) (writeEntry_frame ..)
  · exact .refl _ _

theorem execClear_frame (who data s t) (h : execClear who data s = .next t) :
    Kept [.life, .jr, .host, .reg, .mem, .fm, .adm, .tick, .cores, .net, .pwr, .mnt, .od] s t := by
  have e := Host.Outcome.next.inj h
  subst e
  exact .step (by decide) (.refl _ _) (writeEntry_frame ..)

theorem execRequest_frame (who data s t) (h : execRequest who data s = .next t) :
    Kept [.life, .jr, .host, .reg, .mem, .fm, .adm, .tick, .cores, .net, .pwr, .mnt, .od] s t := by
  have e := Host.Outcome.next.inj h
  subst e
  exact .step (by decide) (.refl _ _) (writeEntry_frame ..)

theorem journalCommitEffect_frame (s) :
    Kept [.life, .jr, .host, .reg, .mem, .fm, .adm, .tick, .cores, .net, .pwr, .mnt, .od] s (journalCommitEffect s) := by
  unfold journalCommitEffect
  split
  · rename_i y0 y1
    exact .refl _ _
  · rename_i y2 y3 y4 y5
    have h6 : Kept [.life, .jr, .host, .reg, .mem, .fm, .adm, .tick, .cores, .net, .pwr,
    .mnt, .od] s y4 := by
      refine .step (by decide) ?_ (commitHead_frame (h := y5) ..)
      exact .refl _ _
    exact .step (by decide) (.step (by decide) h6 (afterCommit_frame ..)) (drainRequests_frame ..)

theorem execJournalCommitRecord_frame (s t) (h : execJournalCommitRecord s = .next t) :
    Kept [.life, .jr, .host, .reg, .mem, .fm, .adm, .tick, .cores, .net, .pwr, .mnt, .od] s t := by
  have e := Host.Outcome.next.inj h
  subst e
  refine kept_ite ?_ ?_
  · exact .step (by decide) (.refl _ _) (journalCommitEffect_frame ..)
  · exact .refl _ _

theorem mbLowRead_frame (fn off s) : Kept [.host] s (mbLowRead fn off s) := by
  unfold mbLowRead
  split
  · rename_i y0 y1
    exact .refl _ _
  · rename_i y2 y3 y4 y5
    extract_lets z6
    refine kept_ite ?_ ?_
    · exact .refl _ _
    · refine kept_ite ?_ ?_
      · unfold z6
        refine .host (by decide) (fun w => w) ?_
        exact .refl _ _
      · refine kept_ite ?_ ?_
        · unfold z6
          refine .host (by decide) (fun w => w) ?_
          exact .refl _ _
        · exact .refl _ _

theorem execLowHalfRead_frame (fn bar off s t) (h : execLowHalfRead fn bar off s = .next t) :
    Kept [.host] s t := by
  have e := Host.Outcome.next.inj h
  subst e
  split
  · rename_i y0
    refine kept_ite ?_ ?_
    · exact .step (by decide) (.refl _ _) (lowHalfReadEffect_frame ..)
    · exact .refl _ _
  · rename_i y1
    exact .step (by decide) (.refl _ _) (mbLowRead_frame ..)
  · rename_i y2 y3 y4
    exact .refl _ _

end Sys2Proof.Machine
end

