-- ==== Sys2Proof/Laws/Life.lean ====
section
/-!
SUPPORT. What each operation does to the module state, the supplies, PERST#, the rails and the stages passed.

The lemma `f_lives` says that `f` keeps the conditions `Life.ok` of Tables 14-1 to 14-3.
-/

namespace Sys2Proof.Machine

open Sys2Proof

/-- The conditions of `Life.ok` go over from one state to another. -/
structure Lives (s t : State) : Prop where
  ok : s.life.ok → t.life.ok

theorem Lives.refl (s : State) : Lives s s := ⟨fun h => h⟩

theorem Lives.step {s t u : State} (h : Lives s t) (k : Lives t u) : Lives s u := ⟨fun w => k.ok (h.ok w)⟩

/-- An operation that does not touch the life cycle. -/
theorem Lives.of {L : List Comp} {s t : State} (h : Kept L s t) (hL : Comp.life ∉ L) : Lives s t := by
  have e : t.life = s.life := h.off.same .life hL
  refine ⟨fun w => ?_⟩
  rw [e]
  exact w

theorem Lives.upd {s t : State} {a0} {a1} {a2} {a3} {a4} {a5} {a6} {a7} {a8} {a9} {a10} {a11} {a12} {a13} {a14} {a15}
    (h : Lives s t) (e : a3 = t.life) : Lives s (State.mk a0 a1 a2 a3 a4 a5 a6 a7 a8 a9 a10 a11 a12 a13 a14 a15) := by
  refine ⟨fun w => ?_⟩
  subst e
  exact h.ok w

theorem Lives.life {s t : State} {v : Life} (e : t.life.ok → v.ok) (h : Lives s t) : Lives s { t with life := v } :=
  ⟨fun w => e (h.ok w)⟩

theorem lives_ite {s a b : State} {p : Prop} {_ : Decidable p} (ha : Lives s a) (hb : Lives s b) :
    Lives s (if p then a else b) := by
  split <;> assumption

theorem lives_foldl {α : Type} {s b : State} {f : State → α → State} {l : List α}
    (hf : ∀ t x, Lives s t → Lives s (f t x)) (h0 : Lives s b) : Lives s (l.foldl f b) :=
  foldl_inv (Lives s ·) f l b h0 (fun t x h => hf t x h)

theorem Lives.of_pair {α : Type} {s b : State} {p : α × State} {a : α} (he : p = (a, b)) (h : Lives s p.2) : Lives s b := by
  subst he; exact h

theorem Kept.life_eq {L : List Comp} {s t : State} (h : Kept L s t) (hL : Comp.life ∉ L) : t.life = s.life :=
  h.off.same .life hL

theorem Life.ok.on {l : Life} (w : l.ok) (h : l.state.started) : l.vaux ∧ l.perst = false ∧ l.standby = false := by
  refine ⟨w.powered (fun e => ?_), w.released h, ?_⟩
  · rw [e] at h; simp [ModState.started] at h
  · cases hb : l.standby
    · rfl
    · have := (w.standby hb).1
      rw [this] at h
      simp [ModState.started] at h

theorem ModState.starting.started {m : ModState} (h : m.starting) : m.started := by
  revert h
  cases m <;> simp [ModState.starting, ModState.started]

theorem ModState.starting.serves {m : ModState} (h : m.starting) : ¬ m.serves := by
  revert h
  cases m <;> simp [ModState.starting, ModState.serves]

theorem withHalf_lives {s t : State} {key cur : Nat} {half : Half64} {value : Nat} {act : Nat → State → State} (ha : ∀ v u, Lives s u → Lives s (act v u)) (h : Lives s t) : Lives s (withHalf key cur half value act t) := by
  unfold withHalf
  split
  · rename_i y0
    refine .upd ?_ rfl
    exact h
  · rename_i y1
    refine ha _ _ ?_
    exact h
  · rename_i y2
    extract_lets z3
    rename_i w4
    refine ha _ _ ?_
    refine .upd ?_ rfl
    exact h

theorem onEntry_lives {s t : State} {op fn q : Nat} {act : Nat → Ticket → State → State} (ha : ∀ e k u, Lives s u → Lives s (act e k u)) (h : Lives s t) : Lives s (onEntry op fn q act t) := by
  unfold onEntry
  split
  · rename_i y0 y1
    exact h
  · rename_i y2 y3 y4 y5
    refine lives_ite ?_ ?_
    · exact h
    · split
      · rename_i y6 y7 y8
        exact .step (.step h (.of (popEntry_frame ..) (by decide))) (.of (completeSt_frame ..) (by decide))
      · rename_i y9 y10
        refine ha _ _ _ ?_
        exact .step h (.of (popEntry_frame ..) (by decide))

theorem enterState_life (m s) : (enterState m s).life = { s.life with state := m } := by
  unfold enterState
  split
  · next h => rw [← h]
  · exact (raise_frame ..).life_eq (by decide)

theorem enterState_lives (m s) (h : s.life.ok → ({ s.life with state := m } : Life).ok) : Lives s (enterState m s) := by
  refine ⟨fun w => ?_⟩
  rw [enterState_life]
  exact h w

theorem settleState_lives (s) : Lives s (settleState s) := by
  unfold settleState
  split
  · next hs =>
    refine enterState_lives _ _ (fun w => ?_)
    have hv : s.life.state.serves := by
      unfold State.serving at hs
      unfold ModState.serves
      split at hs <;> simp_all
    have hl : s.life.state.started := by
      revert hv
      cases s.life.state <;> simp [ModState.serves, ModState.started]
    obtain ⟨ho, hp, hb⟩ := w.on hl
    have h8 := w.serves hv
    refine ⟨fun _ => ho, fun _ => hp, fun h => ?_, fun _ _ => h8.2, fun _ => h8⟩
    simp [hb] at h
  · exact .refl _

theorem clusterResetEffect_lives (e t' s) :
    Lives s (clusterResetEffect e t' s) := by
  unfold clusterResetEffect
  extract_lets z0
  refine lives_ite ?_ ?_
  · exact .step (.refl _) (.of (completeSt_frame ..) (by decide))
  · exact .step (.step (.step (.step (.refl _) (.of (resetCores_frame ..) (by decide))) (.of (zeroClusters_frame ..) (by decide))) (settleState_lives ..)) (.of (completeSt_frame ..) (by decide))

theorem coreResetEffect_lives (e t' s) :
    Lives s (coreResetEffect e t' s) := by
  unfold coreResetEffect
  extract_lets z0
  refine lives_ite ?_ ?_
  · exact .step (.refl _) (.of (completeSt_frame ..) (by decide))
  · exact .step (.step (.step (.refl _) (.of (resetCores_frame ..) (by decide))) (settleState_lives ..)) (.of (completeSt_frame ..) (by decide))

theorem fnReset_lives (f s) :
    Lives s (fnReset f s) := by
  unfold fnReset
  extract_lets z0 z1
  have h2 : Lives s z0 := by
    unfold z0
    exact .step (.step (.refl _) (.of (fnResetWork_frame ..) (by decide))) (.of (resetMailboxes_frame ..) (by decide))
  clear_value z0
  have h3 : Lives s z1 := by
    unfold z1
    exact .step (.step (.step (.step (.step h2 (.of (fnResetFrames_frame ..) (by decide))) (.of (fnResetStores_frame ..) (by decide))) (.of (fnResetGates_frame ..) (by decide))) (.of (fnResetPages_frame ..) (by decide))) (.of (fnResetHost_frame ..) (by decide))
  clear_value z1
  exact .step (.step (.step h3 (.of (applyMmuPend_frame ..) (by decide))) (settleState_lives ..)) (.of (settlePend_frame ..) (by decide))

theorem fnResetEffect_lives (e t' s) :
    Lives s (fnResetEffect e t' s) := by
  unfold fnResetEffect
  extract_lets z0
  refine lives_ite ?_ ?_
  · exact .step (.refl _) (.of (completeSt_frame ..) (by decide))
  · exact .step (.step (.refl _) (fnReset_lives ..)) (.of (completeSt_frame ..) (by decide))

theorem execFnReset_lives (fn q s t) (h : execFnReset fn q s = .next t) :
    Lives s t := by
  have e := Host.Outcome.next.inj h
  subst e
  refine onEntry_lives (fun u0 u1 u2 u3 => ?_) ?_
  · exact .step u3 (fnResetEffect_lives ..)
  · exact .refl _

theorem execCoreReset_lives (fn q s t) (h : execCoreReset fn q s = .next t) :
    Lives s t := by
  have e := Host.Outcome.next.inj h
  subst e
  refine onEntry_lives (fun u0 u1 u2 u3 => ?_) ?_
  · exact .step u3 (coreResetEffect_lives ..)
  · exact .refl _

theorem execClusterReset_lives (fn q s t) (h : execClusterReset fn q s = .next t) :
    Lives s t := by
  have e := Host.Outcome.next.inj h
  subst e
  refine onEntry_lives (fun u0 u1 u2 u3 => ?_) ?_
  · exact .step u3 (clusterResetEffect_lives ..)
  · exact .refl _

theorem partitionResetEffect_lives (e t' s) :
    Lives s (partitionResetEffect e t' s) := by
  unfold partitionResetEffect
  extract_lets z0
  rename_i w1
  refine lives_ite ?_ ?_
  · exact .step (.refl _) (.of (completeSt_frame ..) (by decide))
  · exact .step (.step (.step (.step (.step (.refl _) (.of (resetCores_frame ..) (by decide))) (.of (zeroClusters_frame ..) (by decide))) (.of (resetPart_frame ..) (by decide))) (settleState_lives ..)) (.of (completeSt_frame ..) (by decide))

theorem execPartitionReset_lives (fn q s t) (h : execPartitionReset fn q s = .next t) :
    Lives s t := by
  have e := Host.Outcome.next.inj h
  subst e
  refine onEntry_lives (fun u0 u1 u2 u3 => ?_) ?_
  · exact .step u3 (partitionResetEffect_lives ..)
  · exact .refl _

theorem resetFns_lives (which fns s) :
    Lives s (resetFns which fns s) := by
  unfold resetFns
  refine lives_foldl (fun t0 x1 h2 => ?_) ?_
  · refine lives_ite ?_ ?_
    · exact .step h2 (fnReset_lives ..)
    · exact h2
  · exact .refl _

theorem vfEnableEffect_lives (numVfs enable s) :
    Lives s (vfEnableEffect numVfs enable s) := by
  unfold vfEnableEffect
  extract_lets z0
  rename_i w1
  have h2 : Lives s w1 := by
    unfold w1
    refine .upd ?_ rfl
    exact .refl _
  clear_value w1
  exact .step h2 (resetFns_lives ..)

theorem execVfEnable_lives (numVfs enable s t) (h : execVfEnable numVfs enable s = .next t) :
    Lives s t := by
  have e := Host.Outcome.next.inj h
  subst e
  exact .step (.refl _) (vfEnableEffect_lives ..)

theorem execFunctionLevelReset_lives (fn s t) (h : execFunctionLevelReset fn s = .next t) :
    Lives s t := by
  have e := Host.Outcome.next.inj h
  subst e
  refine lives_ite ?_ ?_
  · exact .step (.refl _) (fnReset_lives ..)
  · exact .refl _

theorem execHotReset_lives (s t) (h : execHotReset s = .next t) :
    Lives s t := by
  have e := Host.Outcome.next.inj h
  subst e
  exact .step (.refl _) (resetFns_lives ..)

theorem leadPoint_lives (p s) : Lives s (leadPoint p s) := by
  unfold leadPoint
  extract_lets z0
  rename_i w1 w2
  have h3 : Lives s w1 := by
    unfold w1
    exact .step (.refl _) (.of (advanceTo_frame ..) (by decide))
  clear_value w1
  have h4 : Lives s w2 := by
    unfold w2
    exact .step (.step h3 (.of (waitTimeouts_frame ..) (by decide))) (.of (countWaits_frame ..) (by decide))
  clear_value w2
  refine lives_ite ?_ ?_
  · exact .refl _
  · split
    · rename_i y5 y6 y7 y8 y9
      have h10 : Lives s y8 := by
        refine .of_pair y9 ?_
        exact .step h4 (.of (coresLead_frame ..) (by decide))
      split
      · rename_i y11 y12 y13 y14
        extract_lets z15 z16 z17 z18 z19
        have h20 : Lives s z15 := by
          unfold z15
          exact .step (.step h10 (.of (State.setPpart_frame ..) (by decide))) (.of (raiseVcore_frame ..) (by decide))
        clear_value z15
        have h21 : Lives s z19 := by
          unfold z19
          exact .step h20 (.of (State.setPart_frame ..) (by decide))
        clear_value z19
        exact .step h21 (settleState_lives ..)

theorem execLeadPoint_lives (part s t) (h : execLeadPoint part s = .next t) :
    Lives s t := by
  have e := Host.Outcome.next.inj h
  subst e
  refine lives_ite ?_ ?_
  · exact .step (.refl _) (leadPoint_lives ..)
  · exact .refl _

theorem execWaitTimeout_lives (part s t) (h : execWaitTimeout part s = .next t) :
    Lives s t := by
  have e := Host.Outcome.next.inj h
  subst e
  refine lives_ite ?_ ?_
  · exact .step (.step (.refl _) (.of (waitTimeouts_frame ..) (by decide))) (settleState_lives ..)
  · exact .refl _

theorem tickBoundary_lives (p s) :
    Lives s (tickBoundary p s) := by
  unfold tickBoundary
  refine lives_ite ?_ ?_
  · exact .refl _
  · extract_lets z0 z1 z2 z3
    rename_i w4 w5 w6 w7
    have h8 : Lives s z0 := by
      unfold z0
      exact .step (.refl _) (.of (pennantFinal_frame ..) (by decide))
    clear_value z0
    have h9 : Lives s z2 := by
      unfold z2
      exact .step (.step h8 (.of (advanceTo_frame ..) (by decide))) (.of (endWindows_frame ..) (by decide))
    clear_value z2
    have h10 : Lives s w6 := by
      unfold w6
      refine lives_ite ?_ ?_
      · exact .step (.step h9 (.of (flushLines_frame ..) (by decide))) (.of (commitPart_frame ..) (by decide))
      · exact .step h9 (.of (heldBoundary_frame ..) (by decide))
    clear_value w6
    have h11 : Lives s w7 := by
      unfold w7
      exact .step (.step h10 (.of (endEmpty_frame ..) (by decide))) (.of (applyArrivals_frame ..) (by decide))
    clear_value w7
    refine lives_ite ?_ ?_
    · exact .step (.step (.step h9 (.of (State.setPart_frame ..) (by decide))) (.of (applyPartPend_frame ..) (by decide))) (settleState_lives ..)
    · split
      · rename_i y12 y13 y14 y15
        have h16 : Lives s y14 := by
          refine .of_pair y15 ?_
          exact .step h11 (.of (parkResume_frame ..) (by decide))
        extract_lets z17 z18 z19
        have h20 : Lives s z17 := by
          unfold z17
          exact .step h16 (.of (boundaryChanges_frame ..) (by decide))
        clear_value z17
        have h21 : Lives s z18 := by
          unfold z18
          exact .step h20 (.of (stepClock_frame ..) (by decide))
        clear_value z18
        have h22 : Lives s z19 := by
          unfold z19
          exact .step (.step h21 (.of (levelEpoch_frame ..) (by decide))) (.of (settleVcore_frame ..) (by decide))
        clear_value z19
        exact .step (.step h22 (.of (beginTick_frame ..) (by decide))) (settleState_lives ..)

theorem execTickBoundary_lives (part s t) (h : execTickBoundary part s = .next t) :
    Lives s t := by
  have e := Host.Outcome.next.inj h
  subst e
  refine lives_ite ?_ ?_
  · exact .step (.refl _) (tickBoundary_lives ..)
  · exact .refl _

theorem partitionStart_lives (p s) :
    Lives s (partitionStart p s) := by
  unfold partitionStart
  extract_lets z0
  rename_i w1 w2
  split
  · rename_i y3 y4 y5 y6 y7
    refine lives_ite ?_ ?_
    · exact .refl _
    · refine lives_ite ?_ ?_
      · exact .step (.step (.refl _) (.of (State.setPart_frame ..) (by decide))) (.of (raise_frame ..) (by decide))
      · extract_lets z8 z9 z10 z11 z12
        have h13 : Lives s z9 := by
          unfold z9
          exact .step (.refl _) (.of (advanceTo_frame ..) (by decide))
        clear_value z9
        have h14 : Lives s z10 := by
          unfold z10
          exact .step h13 (.of (State.setPart_frame ..) (by decide))
        clear_value z10
        have h15 : Lives s z11 := by
          unfold z11
          exact .step h14 (.of (boundaryChanges_frame ..) (by decide))
        clear_value z11
        have h16 : Lives s z12 := by
          unfold z12
          exact .step (.step h15 (.of (beginTick_frame ..) (by decide))) (settleState_lives ..)
        clear_value z12
        refine lives_ite ?_ ?_
        · exact .step h16 (.of (checkPaths_frame ..) (by decide))
        · exact h16
  · rename_i y17 y18 y19
    exact .refl _

theorem execPartitionStart_lives (part s t) (h : execPartitionStart part s = .next t) :
    Lives s t := by
  have e := Host.Outcome.next.inj h
  subst e
  refine lives_ite ?_ ?_
  · exact .step (.refl _) (partitionStart_lives ..)
  · exact .refl _

theorem enterHeld_life (c o s) :
    (enterHeld c o s).life = { s.life with heldCause := c, heldObject := o, state := .held } := by
  have e : (idleLinks s).life = s.life := (idleLinks_frame s).life_eq (by decide)
  unfold enterHeld
  rw [enterState_life]
  show ({ (idleLinks s).life with heldCause := c, heldObject := o, state := .held } : Life) = _
  rw [e]

/-- A start that is under way may stop in HELD. -/
theorem enterHeld_lives (c o s) (h : s.life.state.starting) : Lives s (enterHeld c o s) := by
  refine ⟨fun w => ?_⟩
  rw [enterHeld_life]
  obtain ⟨hv, hp, hb⟩ := w.on (ModState.starting.started h)
  exact ⟨fun _ => hv, fun _ => hp, by simp [hb], fun _ => w.rails h, by simp [ModState.serves]⟩

theorem holdFor_lives (c o s) (h : s.life.state.starting) :
    Lives s (holdFor c o s) := by
  unfold holdFor
  extract_lets z0
  rename_i w1
  have h2 : w1.life = s.life := by
    unfold w1
    split
    · rfl
    · split
      · exact (raise_frame ..).life_eq (by decide)
      · exact (raise_frame ..).life_eq (by decide)
  clear_value w1
  refine .step (Lives.mk fun w => by rw [h2]; exact w) (enterHeld_lives _ _ _ ?_)
  rw [h2]
  exact h

theorem linksDone_lives (s) : Lives s (linksDone s) := by
  unfold linksDone
  split
  · next h =>
    refine ⟨fun w => ⟨w.1, w.2, w.3, fun hs _ => w.rails hs (by rw [h.2.1]; decide), fun hs => ?_⟩⟩
    have hs : s.life.state.serves := hs
    rw [h.1] at hs
    simp [ModState.serves] at hs
  · exact .refl _

theorem beginLinks_lives (s) : Lives s (beginLinks s) := by
  unfold beginLinks
  extract_lets z0
  rename_i w1
  have h2 : Lives s z0 := by
    unfold z0
    refine lives_foldl (fun t3 x4 h5 => ?_) ?_
    · extract_lets z6
      rename_i w7
      refine lives_ite ?_ ?_
      · exact .step h5 (.of (setLinkMode_frame ..) (by decide))
      · refine lives_ite ?_ ?_
        · refine lives_ite ?_ ?_
          · exact .step h5 (.of (setLinkMode_frame ..) (by decide))
          · exact .step (.step h5 (.of (State.setLink_frame ..) (by decide))) (.of (setLinkMode_frame ..) (by decide))
        · refine lives_ite ?_ ?_
          · refine .step ?_ (.of (setLinkMode_frame ..) (by decide))
            refine .upd ?_ rfl
            exact h5
          · exact .step h5 (.of (setLinkMode_frame ..) (by decide))
    · exact .refl _
  clear_value z0
  refine .life (fun w => ⟨w.1, w.2, w.3, w.4, w.5⟩) ?_
  exact h2

theorem resumeStages_lives (s) (h : s.life.state = .held) : Lives s (resumeStages s) := by
  have hl : s.life.state.started := by rw [h]; rfl
  unfold resumeStages
  extract_lets z0 z1
  rename_i w2 w3 w4
  have h5 : Lives s z0 := by
    refine enterState_lives _ _ (fun w => ?_)
    obtain ⟨ho, hp, hb⟩ := w.on hl
    refine ⟨fun _ => ho, fun _ => hp, ?_, fun _ => w.rails (by rw [h]; rfl), ?_⟩
    · simp [hb]
    · simp [ModState.serves]
  have hz : z0.life = { s.life with state := .training } := enterState_life ..
  have h6 : Lives s w2 := by
    unfold w2
    refine .life (fun w => ⟨w.1, w.2, w.3, w.4, w.5⟩) ?_
    exact h5
  have hw : w2.life.state = .training ∧ w2.life.passed = z0.life.passed := by
    refine ⟨?_, rfl⟩
    show z0.life.state = _
    rw [hz]
  split
  · next hp =>
    unfold w4
    refine .step ?_ (linksDone_lives ..)
    refine .step ?_ (beginLinks_lives ..)
    refine .life (fun w => ⟨w.1, w.2, w.3, fun hs _ => w.rails hs (by omega), fun hs => ?_⟩) ?_
    · have hs : w2.life.state.serves := hs
      rw [hw.1] at hs
      simp [ModState.serves] at hs
    · exact h6
  · exact h6

theorem releaseEffect_lives (s) : Lives s (releaseEffect s) := by
  unfold releaseEffect
  split
  · next h =>
    split
    · exact holdFor_lives _ _ _ (by rw [h]; rfl)
    · exact resumeStages_lives _ h
  · exact .refl _

theorem enterRecovery_lives (s) (h : s.life.vaux) : Lives s (enterRecovery s) := by
  unfold enterRecovery
  refine ⟨fun _ => ?_⟩
  rw [enterState_life]
  exact ⟨fun _ => h, by simp [ModState.started], by simp, by simp [ModState.starting], by simp [ModState.serves]⟩

theorem setSlot_lives (k v s) : Lives s (setSlot k v s) := by
  unfold setSlot
  refine .life (fun w => ⟨w.1, w.2, w.3, w.4, w.5⟩) ?_
  exact .refl _

theorem setSlotSt_lives (k v s) : Lives s (setSlotSt k v s) := by
  unfold setSlotSt
  exact .step (.refl _) (setSlot_lives ..)

theorem writePtr_lives (slot trial s) : Lives s (writePtr slot trial s) := by
  unfold writePtr
  extract_lets z0 z1
  rename_i w2
  refine .life (fun w => ⟨w.1, w.2, w.3, w.4, w.5⟩) ?_
  exact .refl _

theorem trialRevert_lives (slot s) : Lives s (trialRevert slot s) := by
  unfold trialRevert
  exact .step (.step (.step (.refl _) (writePtr_lives ..)) (setSlotSt_lives ..)) (.of (raise_frame ..) (by decide))

theorem revertIfSpent_lives (s) : Lives s (revertIfSpent s) := by
  unfold revertIfSpent
  split
  · rename_i y0 y1 y2
    refine lives_ite ?_ ?_
    · exact .step (.refl _) (trialRevert_lives ..)
    · exact .refl _
  · rename_i y3 y4
    exact .refl _

theorem beginBoot_lives (s) (hv : s.life.vaux) (hp : s.life.perst = false) : Lives s (beginBoot s) := by
  unfold beginBoot
  refine ⟨fun _ => ?_⟩
  rw [enterState_life]
  have e : ∀ u : State, (floorKeys u).life = u.life := fun u => (floorKeys_frame u).life_eq (by decide)
  rw [e]
  exact ⟨fun _ => hv, fun _ => hp, by simp, by simp, by simp [ModState.serves]⟩

theorem State.mayBoot_on {s : State} (h : s.mayBoot) : s.life.vaux ∧ s.life.perst = false := by
  unfold State.mayBoot at h
  simp only [Bool.and_eq_true, Bool.not_eq_true'] at h
  exact ⟨h.1.1.1.1, h.1.1.2⟩

theorem tryBoot_lives (s) : Lives s (tryBoot s) := by
  unfold tryBoot
  split
  · next h => exact enterRecovery_lives _ h.2.2.1
  · split
    · next h =>
      obtain ⟨hv, hp⟩ := State.mayBoot_on h.2.2
      split
      · split
        · refine .life (fun w => ⟨w.1, w.2, w.3, w.4, w.5⟩) ?_
          exact revertIfSpent_lives ..
        · exact beginBoot_lives _ hv hp
      · exact beginBoot_lives _ hv hp
    · exact .refl _

theorem moduleReset_ok (keep until_ s) (h : s.life.vaux) : (moduleReset keep until_ s).life.ok := by
  unfold moduleReset
  extract_lets z0 z1 w2 w3 w4
  rw [enterState_life]
  have e : z1.life = s.life := by
    unfold z1
    rw [(odModuleReset_frame ..).life_eq (by decide), (clearDies_frame ..).life_eq (by decide)]
  refine ⟨fun _ => ?_, by simp [ModState.started], fun hs => ?_, by simp [ModState.starting], by simp [ModState.serves]⟩
  · show z1.life.vaux
    rw [e]
    exact h
  · exact Bool.noConfusion (show false = true from hs)

theorem moduleReset_lives (keep until_ s) (h : s.life.vaux) : Lives s (moduleReset keep until_ s) :=
  ⟨fun _ => moduleReset_ok keep until_ s h⟩

theorem commonReset_lives (s) (h : s.life.vaux) : Lives s (commonReset s) := moduleReset_lives _ _ _ h

theorem ModState.resets_ne {m : ModState} (h : m.resets) : m ≠ .off := by
  intro e; rw [e] at h; simp [ModState.resets] at h

theorem moduleResetEffect_lives (s) : Lives s (moduleResetEffect s) := by
  unfold moduleResetEffect
  split
  · next h => exact .step ⟨fun w => (commonReset_lives s (w.powered (ModState.resets_ne h))).ok w⟩ (tryBoot_lives ..)
  · exact .refl _

theorem goStandby_lives (s) (h : s.life.state.started) : Lives s (goStandby s) := by
  refine ⟨fun w => ?_⟩
  obtain ⟨hv, hp, -⟩ := w.on h
  unfold goStandby
  extract_lets z0 z1 z2 w3 w4 w5
  have e : w3.life = { s.life with state := .aux } := by
    unfold w3
    rw [enterState_life]
    have e0 : z0.life = s.life := (clearDies_frame ..).life_eq (by decide)
    show ({ z0.life with state := ModState.aux } : Life) = _
    rw [e0]
  refine ⟨fun _ => ?_, fun _ => ?_, fun _ => ⟨?_, ?_⟩, fun _ h3 => absurd h3 (by simp [w4, w5]), fun h => ?_⟩
  · show w3.life.vaux
    rw [e]; exact hv
  · show w3.life.perst = false
    rw [e]; exact hp
  · show w3.life.state = .aux
    rw [e]
  · show w3.life.perst = false
    rw [e]; exact hp
  · have h : w3.life.state.serves := h
    rw [e] at h
    simp [ModState.serves] at h

theorem enterStandby_lives (s) : Lives s (enterStandby s) := by
  unfold enterStandby
  split
  · next h => exact goStandby_lives _ (by rcases h with h | h <;> rw [h] <;> rfl)
  · exact .refl _

theorem wakeEffect_lives (s) : Lives s (wakeEffect s) := by
  unfold wakeEffect
  split
  · next h =>
    exact ⟨fun w => (beginBoot_lives s (w.powered (by rw [h.1]; decide)) (w.standby h.2.1).2).ok w⟩
  · exact .refl _

theorem failStage_lives (n s) (h : s.life.state.starting) : Lives s (failStage n s) := by
  unfold failStage
  refine .step (.step (.refl _) (.of (raise_frame ..) (by decide))) (enterHeld_lives _ _ _ ?_)
  rw [(raise_frame ..).life_eq (by decide)]
  exact h

theorem tryReady_lives (s) : Lives s (tryReady s) := by
  unfold tryReady
  split
  · next h =>
    split
    · refine .step ?_ (.of (checkPaths_frame ..) (by decide))
      refine ⟨fun w => ?_⟩
      rw [enterState_life]
      obtain ⟨hv, hp, hb⟩ := w.on (by rw [h.1]; rfl)
      have hr := w.rails (by rw [h.1]; rfl) (by omega)
      exact ⟨fun _ => hv, fun _ => hp, by simp [hb], fun _ _ => hr, fun _ => ⟨rfl, hr⟩⟩
    · exact failStage_lives _ _ (by rw [h.1]; rfl)
  · exact .refl _

theorem afterTraining_lives (l n s) (h : s.life.state = .training) : Lives s (afterTraining l n s) := by
  unfold afterTraining
  split
  · exact failStage_lives _ _ (by rw [h]; rfl)
  · exact failStage_lives _ _ (by rw [h]; rfl)
  · exact .step (.step (.refl _) (linksDone_lives ..)) (tryReady_lives ..)

theorem onMarker_lives {s t : State} {l type : Nat} {w : Dword} {soak : Bool} {act : State → State} (ha : ∀ u, Lives s u → Lives s (act u)) (h : Lives s t) : Lives s (onMarker l type w soak act t) := by
  unfold onMarker
  refine lives_ite ?_ ?_
  · refine ha _ ?_
    exact h
  · exact h

theorem enterFaulted_ok (s) (h : s.life.vaux) : (enterFaulted s).life.ok := by
  unfold enterFaulted
  extract_lets z0 z1 z2
  rw [enterState_life]
  have e0 : z0.life = s.life := (clearDies_frame ..).life_eq (by decide)
  refine ⟨fun _ => ?_, by simp [ModState.started], fun hs => Bool.noConfusion hs, by simp [ModState.starting], by simp [ModState.serves]⟩
  show z0.life.vaux
  rw [e0]
  exact h

theorem execVauxUp_lives (s t) (h : execVauxUp s = .next t) : Lives s t := by
  have e := Host.Outcome.next.inj h
  subst e
  split
  · exact .refl _
  · next hv =>
    refine ⟨fun w => ?_⟩
    have hs : s.life.state = .off := by
      cases hs : s.life.state <;> first | rfl | exact absurd (w.powered (by rw [hs]; decide)) hv
    have el : (loadStore s).life = s.life := (loadStore_frame s).life_eq (by decide)
    have hb : s.life.standby = false := by
      cases hb : s.life.standby
      · rfl
      · have := (w.standby hb).1
        rw [hs] at this
        cases this
    dsimp only
    refine ⟨fun _ => rfl, fun h => ?_, fun h => ?_, fun h3 _ => ?_, fun h => ?_⟩
    · have h : (loadStore s).life.state.started := h
      rw [el, hs] at h
      simp [ModState.started] at h
    · have h : (loadStore s).life.standby := h
      rw [el, hb] at h
      simp at h
    · have h3 : (loadStore s).life.state.starting := h3
      rw [el, hs] at h3
      simp [ModState.starting] at h3
    · have h : (loadStore s).life.state.serves := h
      rw [el, hs] at h
      simp [ModState.serves] at h

theorem vauxLost_lives (s) : Lives s (vauxLost s) := by
  refine ⟨fun _ => ?_⟩
  unfold vauxLost
  extract_lets z0 z1 z2 z3 z4
  show Life.ok _
  exact ⟨fun h => absurd rfl h, fun h => Bool.noConfusion h, fun h => Bool.noConfusion h,
    fun _ h => absurd (show 3 ≤ 0 from h) (by decide), fun h => Bool.noConfusion h⟩

theorem execVauxLost_lives (s t) (h : execVauxLost s = .next t) :
    Lives s t := by
  have e := Host.Outcome.next.inj h
  subst e
  refine lives_ite ?_ ?_
  · exact .step (.refl _) (vauxLost_lives ..)
  · exact .refl _

theorem execVinWithinLimits_lives (s t) (h : execVinWithinLimits s = .next t) :
    Lives s t := by
  have e := Host.Outcome.next.inj h
  subst e
  refine .step ?_ (tryBoot_lives ..)
  refine .life (fun w => ⟨w.1, w.2, w.3, w.4, w.5⟩) ?_
  exact .refl _

theorem leaveFaulted_lives (s) : Lives s (leaveFaulted s) := by
  unfold leaveFaulted
  split
  · next h => exact ⟨fun w => (moduleReset_lives _ _ _ (w.powered (by rw [h.1]; decide))).ok w⟩
  · exact .refl _

theorem execPerstAssert_lives (s t) (h : execPerstAssert s = .next t) : Lives s t := by
  have e := Host.Outcome.next.inj h
  subst e
  refine ⟨fun w => ?_⟩
  split
  · next hr => exact moduleReset_ok _ _ _ (w.powered (ModState.resets_ne hr))
  · next hr =>
    refine (leaveFaulted_lives _).ok ⟨w.powered, fun hl => ?_, fun hb => ?_, w.rails, w.serves⟩
    · have hl : s.life.state.started := hl
      have hr : ¬ s.life.state.resets := hr
      revert hl hr
      cases s.life.state <;> simp [ModState.started, ModState.resets]
    · have hs : s.life.state = .aux := (w.standby hb).1
      have hr : ¬ s.life.state.resets := hr
      rw [hs] at hr
      exact absurd rfl hr

theorem perstDeassert_lives (force s) : Lives s (perstDeassert force s) := by
  unfold perstDeassert
  extract_lets z0 w1 w2
  have h3 : Lives s w1 := by
    unfold w1
    refine .life (fun w => ⟨w.1, fun _ => rfl, fun h => ⟨(w.standby h).1, rfl⟩, w.4, w.5⟩) ?_
    exact .refl _
  clear_value w1
  split
  · exact h3
  · next hv =>
    have hv : w1.life.vaux := by simpa using hv
    split
    · split
      · exact .step h3 (enterRecovery_lives _ hv)
      · exact h3
    · refine .step ?_ (tryBoot_lives ..)
      refine .life (fun w => ⟨w.1, w.2, fun h => Bool.noConfusion h, w.4, w.5⟩) ?_
      exact h3
    · split
      · exact h3
      · refine .life (fun w => ⟨w.1, w.2, w.3, w.4, w.5⟩) ?_
        exact h3
    · exact h3

theorem execPerstDeassert_lives (forceRecovery s t) (h : execPerstDeassert forceRecovery s = .next t) :
    Lives s t := by
  have e := Host.Outcome.next.inj h
  subst e
  exact .step (.refl _) (perstDeassert_lives ..)

theorem execPinSample_lives (slotId forceRecovery s t) (h : execPinSample slotId forceRecovery s = .next t) :
    Lives s t := by
  have e := Host.Outcome.next.inj h
  subst e
  refine lives_ite ?_ ?_
  · extract_lets z0
    rename_i w1
    have h2 : Lives s w1 := by
      unfold w1
      refine .life (fun w => ⟨w.1, w.2, w.3, w.4, w.5⟩) ?_
      exact .refl _
    clear_value w1
    refine lives_ite ?_ ?_
    · exact .step h2 (tryBoot_lives ..)
    · exact h2
  · exact .refl _

theorem pwrFail_lives (byPin s) : Lives s (pwrFail byPin s) := by
  unfold pwrFail
  extract_lets z0 z1 w2 w3 w4 w5
  have h6 : Lives s w2 := ⟨fun w => ⟨w.1, w.2, w.3, w.4, w.5⟩⟩
  have h7 : Lives s w5 := ⟨fun w => ⟨(h6.ok w).1, (h6.ok w).2, (h6.ok w).3, (h6.ok w).4, (h6.ok w).5⟩⟩
  clear_value w5 w2
  refine lives_ite ?_ ?_
  · refine lives_ite ?_ ?_
    · exact .step h7 (.of (raise_frame ..) (by decide))
    · exact h7
  · exact h6

theorem execPwrFail_lives (byPin s t) (h : execPwrFail byPin s = .next t) :
    Lives s t := by
  have e := Host.Outcome.next.inj h
  subst e
  exact .step (.refl _) (pwrFail_lives ..)

theorem execPwrFailCleared_lives (s t) (h : execPwrFailCleared s = .next t) :
    Lives s t := by
  have e := Host.Outcome.next.inj h
  subst e
  refine lives_ite ?_ ?_
  · refine .step ?_ (tryBoot_lives ..)
    refine .life (fun w => ⟨w.1, w.2, w.3, w.4, w.5⟩) ?_
    exact .refl _
  · exact .refl _

theorem execForceRecoveryHeld60s_lives (s t) (h : execForceRecoveryHeld60s s = .next t) :
    Lives s t := by
  have e := Host.Outcome.next.inj h
  subst e
  refine lives_ite ?_ ?_
  · refine .step ?_ (.of (raise_frame ..) (by decide))
    refine .step ?_ (.of (advanceNow_frame ..) (by decide))
    refine .life (fun w => ⟨w.1, w.2, w.3, w.4, w.5⟩) ?_
    exact .refl _
  · exact .refl _

theorem railsOff_lives (s) (h : s.life.state = .aux) : Lives s (railsOff s) := by
  refine ⟨fun w => ⟨w.1, w.2, w.3, fun hs _ => ?_, fun hs => ?_⟩⟩
  · have hs : s.life.state.starting := hs
    rw [h] at hs
    simp [ModState.starting] at hs
  · have hs : s.life.state.serves := hs
    rw [h] at hs
    simp [ModState.serves] at hs

theorem execWarmHoldExpiry_lives (s t) (h : execWarmHoldExpiry s = .next t) : Lives s t := by
  have e := Host.Outcome.next.inj h
  subst e
  split
  · exact .refl _
  · split
    · next hs =>
      refine .step (.of (advanceNow_frame ..) (by decide)) (railsOff_lives _ ?_)
      rw [(advanceNow_frame ..).life_eq (by decide)]
      simpa using hs
    · exact .refl _

theorem revertIfSpent_life (s) : (revertIfSpent s).life.state = s.life.state ∧ (revertIfSpent s).life.vaux = s.life.vaux := by
  unfold revertIfSpent
  split
  · split
    · unfold trialRevert
      rw [(raise_frame ..).life_eq (by decide)]
      exact ⟨rfl, rfl⟩
    · exact ⟨rfl, rfl⟩
  · exact ⟨rfl, rfl⟩

/-- The slot that runs after S1: the module is AUX, or goes on from RECOVERY. -/
theorem s1Run_lives (k : Nat) (s : State) (hv : s.life.vaux)
    (hs : s.life.state = .off ∨ s.life.state = .aux ∨ s.life.state = .recovery) :
    Lives s (let u := floorKeys { s with life := { s.life with bootSlot := k, generation := (s.slot k).gen,
                                                                fwVersion := (s.slot k).version, stage := 0, passed := 1 } }
      match u.life.state with
      | .off => tryBoot (enterState .aux u)
      | .recovery => if u.mayBoot then beginBoot u else u
      | _ => tryBoot u) := by
  extract_lets z0 u
  have e : u.life = { s.life with bootSlot := k, generation := (s.slot k).gen, fwVersion := (s.slot k).version,
                                  stage := 0, passed := 1 } := (floorKeys_frame ..).life_eq (by decide)
  have hu : Lives s u := by
    refine ⟨fun w => ?_⟩
    rw [e]
    refine ⟨w.1, w.2, w.3, fun h => ?_, fun h => ?_⟩
    · have h : s.life.state.starting := h
      rcases hs with hs | hs | hs <;> rw [hs] at h <;> simp [ModState.starting] at h
    · have h : s.life.state.serves := h
      rcases hs with hs | hs | hs <;> rw [hs] at h <;> simp [ModState.serves] at h
  clear_value u
  split
  · next ho =>
    refine .step (.step hu (enterState_lives _ _ (fun w => ?_))) (tryBoot_lives ..)
    refine ⟨fun _ => ?_, by simp [ModState.started], fun h => ?_, by simp [ModState.starting], by simp [ModState.serves]⟩
    · show u.life.vaux
      rw [e]; exact hv
    · have := (w.standby h).1
      rw [ho] at this
      cases this
  · split
    · next hm => exact .step hu (beginBoot_lives _ (State.mayBoot_on hm).1 (State.mayBoot_on hm).2)
    · exact hu
  · exact .step hu (tryBoot_lives ..)

theorem s1Boot_lives (ok s) (hv : s.life.vaux)
    (hs : s.life.state = .off ∨ s.life.state = .aux ∨ s.life.state = .recovery) : Lives s (s1Boot ok s) := by
  unfold s1Boot
  extract_lets z0 z1 z2 z3 z4 w5 w6
  have h7 : Lives s z1 := ⟨fun w => ⟨w.1, w.2, w.3, w.4, w.5⟩⟩
  have e1 : z1.life.state = s.life.state ∧ z1.life.vaux = s.life.vaux := ⟨rfl, rfl⟩
  clear_value z1
  have h8 : Lives s z2 := .step h7 (revertIfSpent_lives ..)
  have e2 : z2.life.state = s.life.state ∧ z2.life.vaux = s.life.vaux :=
    ⟨(revertIfSpent_life z1).1.trans e1.1, (revertIfSpent_life z1).2.trans e1.2⟩
  clear_value z2
  rw [← e2.1] at hs
  rw [← e2.2] at hv
  split
  · exact .step h8 (enterRecovery_lives _ hv)
  · split
    · exact .step h8 (s1Run_lives _ _ hv hs)
    · extract_lets z24
      have e3 : z24.life = z2.life := (raise_frame ..).life_eq (by decide)
      have h25 : Lives s z24 := .step h8 (.of (raise_frame ..) (by decide))
      clear_value z24
      rw [← e3] at hs hv
      split
      · exact .step h25 (s1Run_lives _ _ hv hs)
      · exact .step h25 (enterRecovery_lives _ hv)

theorem execS1BootVerify_lives (ok0 ok1 s t) (h : execS1BootVerify ok0 ok1 s = .next t) : Lives s t := by
  have e := Host.Outcome.next.inj h
  subst e
  split
  · next h => exact s1Boot_lives _ _ h.1 h.2.2
  · exact .refl _

theorem passS2_lives (s) (h : s.life.state = .boot ∨ s.life.state = .training) : Lives s (passS2 s) := by
  refine ⟨fun w => ?_⟩
  obtain ⟨hv, hp, hb⟩ := w.on (by rcases h with h | h <;> rw [h] <;> rfl)
  have e : (idleLinks s).life = s.life := (idleLinks_frame s).life_eq (by decide)
  unfold passS2
  rw [enterState_life]
  show ({ (idleLinks s).life with passed := 2, stage := 3, state := .training } : Life).ok
  rw [e]
  exact ⟨fun _ => hv, fun _ => hp, by simp [hb], by simp, by simp [ModState.serves]⟩

theorem s2Config_lives (calBad refclkOk s) (h : s.life.state = .boot ∨ s.life.state = .training) (hp : s.life.passed = 1) :
    Lives s (s2Config calBad refclkOk s) := by
  unfold s2Config
  split
  · rename_i y0 y1 y2 y3
    have h4 : Lives s y2 := .of_pair y3 (.of (replayJournal_frame ..) (by decide))
    have e4 : y2.life = s.life := by
      have := (replayJournal_frame s).life_eq (by decide)
      rw [y3] at this
      exact this
    extract_lets z5
    rename_i w6 w7
    have e6 : w6.life = { s.life with calBad := calBad } := by
      unfold w6
      rw [(restoreMaps_frame ..).life_eq (by decide)]
      show ({ y2.life with calBad := calBad } : Life) = _
      rw [e4]
    have h8 : Lives s w6 := by
      refine ⟨fun w => ?_⟩
      rw [e6]
      exact ⟨w.1, w.2, w.3, w.4, w.5⟩
    have hs : w6.life.state = .boot ∨ w6.life.state = .training := by rw [e6]; exact h
    have hq : w6.life.passed = 1 := by rw [e6]; exact hp
    clear_value w6
    split
    · split
      · rename_i y9 y10 y11 y12
        refine .step (t := { w6 with life := { w6.life with passed := 2 } }) ?_ (holdFor_lives _ _ _ ?_)
        · refine ⟨fun w => ?_⟩
          have w := h8.ok w
          refine ⟨w.1, w.2, w.3, fun _ hx => absurd (show 3 ≤ 2 from hx) (by decide), fun hx => ?_⟩
          have hx : w6.life.state.serves := hx
          rcases hs with hs | hs <;> rw [hs] at hx <;> simp [ModState.serves] at hx
        · show w6.life.state.starting
          rcases hs with hs | hs <;> rw [hs] <;> rfl
      · exact .step h8 (passS2_lives _ hs)
    · refine .step h8 (failStage_lives _ _ ?_)
      rcases hs with hs | hs <;> rw [hs] <;> rfl

theorem execS2ConfigCheck_lives (calBad refclkOk s t) (h : execS2ConfigCheck calBad refclkOk s = .next t) : Lives s t := by
  have e := Host.Outcome.next.inj h
  subst e
  split
  · next h => exact s2Config_lives _ _ _ h.1 h.2
  · exact .refl _

theorem reduceTrial_lives (s) : Lives s (reduceTrial s) := by
  unfold reduceTrial
  split
  · rename_i y0 y1 y2
    refine lives_ite ?_ ?_
    · exact .step (.refl _) (writePtr_lives ..)
    · exact .refl _
  · rename_i y3 y4
    exact .refl _

/-- A stage that passes in TRAINING. -/
theorem Life.ok.stage {l m : Life} (w : l.ok) (ht : l.state = .training) (hs : m.state = l.state) (hv : m.vaux = l.vaux)
    (hp : m.perst = l.perst) (hb : m.standby = l.standby) (hr : 3 ≤ m.passed → m.rails = Rails.all) : m.ok := by
  obtain ⟨h1, h2, h3⟩ := w.on (by rw [ht]; rfl)
  refine ⟨fun _ => hv.trans h1, fun _ => hp.trans h2, fun h => ?_, fun _ => hr, fun h => ?_⟩
  · rw [hb, h3] at h
    cases h
  · rw [hs, ht] at h
    cases h

theorem s3Rails_lives (s) (h : s.life.state = .training) : Lives s (s3Rails s) := by
  unfold s3Rails
  extract_lets z0 z1 w2
  have h3 : Lives s z0 := .step (.refl _) (reduceTrial_lives ..)
  have e3 : z0.life.state = s.life.state := by
    unfold z0 reduceTrial
    split
    · split <;> rfl
    · rfl
  clear_value z0
  have h4 : Lives s z1 := lives_foldl (fun _ _ h7 => .step h7 (.of (State.setPdie_frame ..) (by decide))) h3
  have e4 : z1.life = z0.life := by
    have : Lives z0 z1 ∧ z1.life = z0.life := by
      unfold z1
      refine foldl_inv (fun u : State => Lives z0 u ∧ u.life = z0.life) _ _ _ ⟨.refl _, rfl⟩ (fun b x hb => ?_)
      exact ⟨.step hb.1 (.of (State.setPdie_frame ..) (by decide)), ((State.setPdie_frame ..).life_eq (by decide)).trans hb.2⟩
    exact this.2
  clear_value z1
  refine ⟨fun w => ?_⟩
  exact (h4.ok w).stage (by rw [e4, e3]; exact h) rfl rfl rfl rfl (fun _ => rfl)

theorem execS3RailsUp_lives (s t) (h : execS3RailsUp s = .next t) : Lives s t := by
  have e := Host.Outcome.next.inj h
  subst e
  split
  · next h => exact s3Rails_lives _ h.1
  · exact .refl _

theorem s4Hbm_lives (restoreOk fullOk saved s) (h : s.life.state = .training) (hp : s.life.passed = 3) :
    Lives s (s4Hbm restoreOk fullOk saved s) := by
  have pass : ∀ u : State, u.life = s.life →
      Lives s (linksDone (beginLinks { u with life := { u.life with passed := 4 } })) := by
    intro u hu
    refine .step (.step ⟨fun w => ?_⟩ (beginLinks_lives ..)) (linksDone_lives ..)
    show ({ u.life with passed := 4 } : Life).ok
    rw [hu]
    exact w.stage h rfl rfl rfl rfl (fun _ => w.rails (by rw [h]; rfl) (by omega))
  unfold s4Hbm
  extract_lets z0 z1
  rename_i w2
  have e2 : w2.life = s.life := rfl
  clear_value w2
  split
  · exact pass s rfl
  · split
    · exact pass _ (((ptcTxn_frame ..).life_eq (by decide)).trans e2)
    · exact .step ⟨fun w => by rw [e2]; exact w⟩ (failStage_lives _ _ (by rw [e2, h]; rfl))

theorem execS4HbmTraining_lives (restoreOk fullOk saved s t) (h : execS4HbmTraining restoreOk fullOk saved s = .next t) :
    Lives s t := by
  have e := Host.Outcome.next.inj h
  subst e
  split
  · next h => exact s4Hbm_lives _ _ _ _ h.1 h.2
  · exact .refl _

theorem execS5LinkTraining_lives (link res s t) (h : execS5LinkTraining link res s = .next t) : Lives s t := by
  have e := Host.Outcome.next.inj h
  subst e
  split
  · next h =>
    refine .step (.of (trainLink_frame ..) (by decide)) (afterTraining_lives _ _ _ ?_)
    rw [(trainLink_frame ..).life_eq (by decide)]
    exact h.1
  · exact .refl _

theorem s6Cores_lives (bad1 bad2 s) (h : s.life.state = .training) (hp : s.life.passed = 5) :
    Lives s (s6Cores bad1 bad2 s) := by
  unfold s6Cores
  extract_lets z0 z1 w2 w3
  have e : w2.life = s.life := by
    unfold w2
    refine foldl_inv (fun u : State => u.life = s.life) _ _ _ rfl (fun b x hb => ?_)
    extract_lets w8 w9
    have e8 : w8.life = s.life := ((raise_frame ..).life_eq (by decide)).trans hb
    clear_value w9 w8
    split
    · exact ((requestSubst_frame ..).life_eq (by decide)).trans e8
    · exact e8
  clear_value w2
  refine ⟨fun w => ?_⟩
  rw [show ({ w2 with life := { w2.life with passed := 6, stage := 7 } } : State).life = { w2.life with passed := 6, stage := 7 } from rfl]
  rw [e]
  exact w.stage h rfl rfl rfl rfl (fun _ => w.rails (by rw [h]; rfl) (by omega))

theorem execS6CoreFirmware_lives (bad1 bad2 s t) (h : execS6CoreFirmware bad1 bad2 s = .next t) : Lives s t := by
  have e := Host.Outcome.next.inj h
  subst e
  split
  · next h => exact s6Cores_lives _ _ _ h.1 h.2
  · exact .refl _

theorem selfTest_lives (bad cal s) (h : s.life.state = .training) (hp : s.life.passed = 6) : Lives s (selfTest bad cal s) := by
  unfold selfTest
  extract_lets z0 z1 z2
  have e0 : z0.life = s.life := by
    unfold z0
    refine foldl_inv (fun u : State => u.life = s.life) _ _ _ rfl (fun b x hb => ?_)
    split
    · exact ((selfRepair_frame ..).life_eq (by decide)).trans hb
    · exact hb
  clear_value z0
  have e1 : z1.life = s.life := by
    unfold z1
    refine foldl_inv (fun u : State => u.life = s.life) _ _ _ e0 (fun b x hb => ?_)
    split
    · exact ((selfCal_frame ..).life_eq (by decide)).trans hb
    · exact hb
  clear_value z1
  have e2 : z2.life = s.life := by
    unfold z2
    exact foldl_inv (fun u : State => u.life = s.life) _ _ _ e1 (fun b x hb => ((remapRetired_frame ..).life_eq (by decide)).trans hb)
  clear_value z2
  have hu : ({ z2.life with passed := 7, stage := 8 } : Life) = { s.life with passed := 7, stage := 8 } := by rw [e2]
  split
  · exact .step ⟨fun w => by rw [e2]; exact w⟩ (failStage_lives _ _ (by rw [e2, h]; rfl))
  · refine .step ⟨fun w => ?_⟩ (tryReady_lives ..)
    show ({ z2.life with passed := 7, stage := 8 } : Life).ok
    rw [hu]
    exact w.stage h rfl rfl rfl rfl (fun _ => w.rails (by rw [h]; rfl) (by omega))

theorem execS7SelfTest_lives (bad cal s t) (h : execS7SelfTest bad cal s = .next t) : Lives s t := by
  have e := Host.Outcome.next.inj h
  subst e
  split
  · next h =>
    simp only [Bool.and_eq_true, beq_iff_eq] at h
    exact selfTest_lives _ _ _ h.1.1 h.1.2
  · exact .refl _

theorem execStageTimeout_lives (s t) (h : execStageTimeout s = .next t) : Lives s t := by
  have e := Host.Outcome.next.inj h
  subst e
  split
  · next h => exact failStage_lives _ _ (by rcases h with h | h <;> rw [h] <;> rfl)
  · exact .refl _

theorem thermalTrip_ok (die tj s) (h : s.life.vaux) : (thermalTrip die tj s).life.ok := by
  unfold thermalTrip
  extract_lets z0 z1 z2 w3 w4
  have e : w3.life = s.life := by
    unfold w3 z2
    rw [(ptcTxn_frame ..).life_eq (by decide), (raise_frame ..).life_eq (by decide)]
  clear_value w3
  exact enterFaulted_ok _ (show w3.life.vaux by rw [e]; exact h)

theorem execThermalTrip_lives (die tj s t) (h : execThermalTrip die tj s = .next t) : Lives s t := by
  have e := Host.Outcome.next.inj h
  subst e
  split
  · exact .refl _
  · next h => exact ⟨fun w => thermalTrip_ok _ _ _ (w.powered (fun e => h (.inl e)))⟩

theorem execThermalTripRelease_lives (substrate s t) (h : execThermalTripRelease substrate s = .next t) :
    Lives s t := by
  have e := Host.Outcome.next.inj h
  subst e
  refine lives_ite ?_ ?_
  · extract_lets z0
    rename_i w1
    have h2 : Lives s w1 := by
      unfold w1
      refine .life (fun w => ⟨w.1, w.2, w.3, w.4, w.5⟩) ?_
      exact .refl _
    clear_value w1
    refine lives_ite ?_ ?_
    · exact .step h2 (leaveFaulted_lives ..)
    · exact h2
  · exact .refl _

theorem railFault_ok (rail s) (h : s.life.vaux) : (railFault rail s).life.ok := by
  unfold railFault
  refine enterFaulted_ok _ ?_
  rw [(raise_frame ..).life_eq (by decide)]
  exact h

theorem execPwrRailFault_lives (rail s t) (h : execPwrRailFault rail s = .next t) : Lives s t := by
  have e := Host.Outcome.next.inj h
  subst e
  split
  · exact .refl _
  · next h => exact ⟨fun w => railFault_ok _ _ (w.powered (fun e => h (.inl e)))⟩

theorem pennantIn_lives (p l w s) : Lives s (pennantIn p l w s) := by
  unfold pennantIn
  extract_lets z0
  rename_i w1
  refine lives_ite ?_ ?_
  · exact .refl _
  · refine lives_ite ?_ ?_
    · exact .step (.step (.step (.step (.step (.refl _) (.of (State.setPart_frame ..) (by decide))) (.of (floodMembers_frame ..) (by decide))) (.of (applyPartPend_frame ..) (by decide))) (settleState_lives ..)) (.of (raise_frame ..) (by decide))
    · refine lives_ite ?_ ?_
      · exact .refl _
      · exact .step (.refl _) (.of (State.setPart_frame ..) (by decide))

theorem pennantMark_lives (link word s) :
    Lives s (pennantMark link word s) := by
  unfold pennantMark
  refine onMarker_lives (fun u0 u1 => ?_) ?_
  · split
    · rename_i y2 y3
      exact u1
    · rename_i y4 y5 y6
      exact .step u1 (pennantIn_lives ..)
  · exact .refl _

theorem markerIn_lives (l w s) :
    Lives s (markerIn l w s) := by
  unfold markerIn
  split
  · rename_i y0 y1
    exact .step (.refl _) (pennantMark_lives ..)
  · rename_i y2 y3
    exact .step (.refl _) (.of (featureMark_frame ..) (by decide))
  · rename_i y4 y5
    refine lives_ite ?_ ?_
    · exact .step (.refl _) (.of (syncRespMark_frame ..) (by decide))
    · exact .step (.refl _) (.of (syncReqMark_frame ..) (by decide))
  · rename_i y6 y7
    exact .step (.refl _) (.of (fleetMark_frame ..) (by decide))
  · rename_i y8 y9
    exact .step (.refl _) (.of (laneSwapMark_frame ..) (by decide))
  · rename_i y10 y11
    exact .step (.refl _) (.of (announceMark_frame ..) (by decide))
  · rename_i y12 y13
    exact .step (.refl _) (.of (linkstateMark_frame ..) (by decide))
  · rename_i y14 y15 y16 y17 y18 y19 y20 y21
    exact .refl _

theorem execFlitReceive_lives (link flit slot s t) (h : execFlitReceive link flit slot s = .next t) :
    Lives s t := by
  have e := Host.Outcome.next.inj h
  subst e
  refine lives_ite ?_ ?_
  · split
    · rename_i y0 y1 y2 y3
      have h4 : Lives s y2 := by
        refine .of_pair y3 ?_
        exact .step (.refl _) (.of (flitReceive_frame ..) (by decide))
      extract_lets z5
      have h6 : Lives s z5 := by
        unfold z5
        refine lives_ite ?_ ?_
        · exact .step (.step h4 (.of (bodyIn_frame ..) (by decide))) (.of (reportBack_frame ..) (by decide))
        · exact h4
      clear_value z5
      refine lives_ite ?_ ?_
      · exact h6
      · exact .step h6 (markerIn_lives ..)
  · exact .refl _

theorem execPennant_lives (link word s t) (h : execPennant link word s = .next t) :
    Lives s t := by
  have e := Host.Outcome.next.inj h
  subst e
  exact .step (.refl _) (pennantMark_lives ..)

theorem soakEnd_lives (l ber bad s) : Lives s (soakEnd l ber bad s) := by
  unfold soakEnd
  extract_lets z0
  rename_i w1 w2 w4 w3
  have h5 : Lives s w2 :=
    .step (.step (.step (.refl _) (.of (State.setLink_frame ..) (by decide))) (.of (setLinkMode_frame ..) (by decide)))
      (.of (ptcTxn_frame ..) (by decide))
  have h6 : Lives s w3 :=
    .step (.step (.refl _) (.of (State.setLink_frame ..) (by decide))) (.of (linkDown_frame ..) (by decide))
  clear_value w2 w3
  refine lives_ite ?_ ?_
  · exact .step h5 (tryReady_lives ..)
  · refine lives_ite ?_ ?_
    · exact .step (.step (.refl _) (.of (State.setLink_frame ..) (by decide))) (.of (setLinkMode_frame ..) (by decide))
    · split
      · next h => exact .step h6 (failStage_lives _ _ (by rw [h]; rfl))
      · exact h6

theorem execSoakEnd_lives (link ber bad s t) (h : execSoakEnd link ber bad s = .next t) :
    Lives s t := by
  have e := Host.Outcome.next.inj h
  subst e
  refine lives_ite ?_ ?_
  · exact .step (.refl _) (soakEnd_lives ..)
  · exact .refl _

theorem execLaneLockLost_lives (link lane retrainOk s t) (h : execLaneLockLost link lane retrainOk s = .next t) :
    Lives s t := by
  have e := Host.Outcome.next.inj h
  subst e
  refine lives_ite ?_ ?_
  · exact .step (.step (.refl _) (.of (laneLockLost_frame ..) (by decide))) (settleState_lives ..)
  · exact .refl _

theorem execLowpwrEntry_lives (link peerAsks s t) (h : execLowpwrEntry link peerAsks s = .next t) :
    Lives s t := by
  have e := Host.Outcome.next.inj h
  subst e
  refine lives_ite ?_ ?_
  · refine lives_ite ?_ ?_
    · exact .step (.step (.refl _) (.of (setLinkMode_frame ..) (by decide))) (settleState_lives ..)
    · exact .refl _
  · exact .refl _

theorem execTickRefclkRemoved_lives (s t) (h : execTickRefclkRemoved s = .next t) : Lives s t := by
  have e := Host.Outcome.next.inj h
  subst e
  split
  · exact .refl _
  · exact ⟨fun w => ⟨w.1, w.2, w.3, w.4, w.5⟩⟩

theorem verifySlot_lives (k img s) : Lives s (verifySlot k img s) := by
  unfold verifySlot
  extract_lets z0 z1
  rename_i w2 w3
  have h4 : Lives s w2 := by
    unfold w2
    exact .step (.refl _) (setSlot_lives ..)
  clear_value w2
  refine lives_ite ?_ ?_
  · exact h4
  · exact .step h4 (.of (raise_frame ..) (by decide))

theorem doAction_lives (op r v s) :
    Lives s (doAction op r v s) := by
  unfold doAction
  extract_lets z0 z1 z2
  rename_i w3
  split
  · rename_i y4 y5 y6 y7
    exact .step (.refl _) (.of (newTxn_frame ..) (by decide))
  · rename_i y8 y9 y10 y11
    exact .step (.refl _) (.of (newTxn_frame ..) (by decide))
  · rename_i y12 y13 y14 y15
    exact .step (.refl _) (.of (newTxn_frame ..) (by decide))
  · rename_i y16 y17 y18 y19
    exact .step (.refl _) (.of (newTxn_frame ..) (by decide))
  · rename_i y20 y21 y22 y23
    refine lives_ite ?_ ?_
    · refine .step ?_ (releaseEffect_lives ..)
      unfold z1
      exact .step (.refl _) (.of (respond_frame ..) (by decide))
    · unfold z1
      exact .step (.refl _) (.of (respond_frame ..) (by decide))
  · rename_i y24 y25 y26 y27
    refine .step ?_ (moduleResetEffect_lives ..)
    unfold z1
    exact .step (.refl _) (.of (respond_frame ..) (by decide))
  · rename_i y28 y29 y30 y31
    refine lives_ite ?_ ?_
    · refine .step ?_ (enterStandby_lives ..)
      unfold z1
      exact .step (.refl _) (.of (respond_frame ..) (by decide))
    · unfold z1
      exact .step (.refl _) (.of (respond_frame ..) (by decide))
  · rename_i y32 y33 y34 y35
    refine lives_ite ?_ ?_
    · refine .step ?_ (wakeEffect_lives ..)
      unfold z1
      exact .step (.refl _) (.of (respond_frame ..) (by decide))
    · unfold z1
      exact .step (.refl _) (.of (respond_frame ..) (by decide))
  · rename_i y36 y37 y38 y39
    unfold z1
    refine .step ?_ (.of (respond_frame ..) (by decide))
    refine lives_ite ?_ ?_
    · refine .upd ?_ rfl
      exact .refl _
    · exact .refl _
  · rename_i y40 y41 y42 y43
    unfold z1
    exact .step (.step (.refl _) (.of (fleetOrigin_frame ..) (by decide))) (.of (respond_frame ..) (by decide))
  · rename_i y44 y45 y46 y47
    exact .step (.refl _) (.of (newTxn_frame ..) (by decide))
  · rename_i y48 y49 y50 y51
    refine lives_ite ?_ ?_
    · exact .step (.refl _) (.of (newTxn_frame ..) (by decide))
    · unfold z1
      exact .step (.refl _) (.of (respond_frame ..) (by decide))
  · rename_i y52 y53 y54 y55
    unfold z1
    exact .step (.step (.refl _) (.of (hostRequest_frame ..) (by decide))) (.of (respond_frame ..) (by decide))
  · rename_i y56 y57 y58 y59 y60 y61 y62 y63 y64 y65 y66 y67 y68 y69 y70
    refine lives_ite ?_ ?_
    · unfold z1
      refine .step ?_ (.of (respond_frame ..) (by decide))
      refine lives_ite ?_ ?_
      · exact .step (.refl _) (verifySlot_lives ..)
      · exact .refl _
    · refine lives_ite ?_ ?_
      · unfold z1
        refine .step ?_ (.of (respond_frame ..) (by decide))
        refine lives_ite ?_ ?_
        · exact .step (.refl _) (setSlot_lives ..)
        · exact .refl _
      · refine lives_ite ?_ ?_
        · refine lives_ite ?_ ?_
          · exact .step (.refl _) (.of (newTxn_frame ..) (by decide))
          · unfold z1
            exact .step (.refl _) (.of (respond_frame ..) (by decide))
        · unfold z1
          exact .step (.refl _) (.of (respond_frame ..) (by decide))

theorem writeValue_lives (op r e a s) :
    Lives s (writeValue op r e a s) := by
  unfold writeValue
  split
  · rename_i y0 y1 y2
    exact .step (.refl _) (.of (refuse_frame ..) (by decide))
  · rename_i y3 y4
    refine lives_ite ?_ ?_
    · exact .step (.refl _) (.of (refuse_frame ..) (by decide))
    · extract_lets z5 z6
      rename_i w7 w8 w9 w10 w11 w12
      have h13 : Lives s w9 := by
        unfold w9
        exact .step (.refl _) (.of (notePlant_frame ..) (by decide))
      clear_value w9
      have h14 : Lives s w11 := by
        unfold w11
        refine lives_ite ?_ ?_
        · refine .upd ?_ rfl
          exact h13
        · exact h13
      clear_value w11
      split
      · rename_i y15 y16 y17
        exact .step (.refl _) (.of (refuse_frame ..) (by decide))
      · rename_i y18 y19
        refine lives_ite ?_ ?_
        · exact .step (.refl _) (.of (refuse_frame ..) (by decide))
        · refine lives_ite ?_ ?_
          · exact .step h14 (doAction_lives ..)
          · refine lives_ite ?_ ?_
            · refine .step ?_ (.of (respond_frame ..) (by decide))
              refine lives_ite ?_ ?_
              · exact .step h14 (.of (applyWrite_frame ..) (by decide))
              · exact h14
            · refine lives_ite ?_ ?_
              · exact .step h14 (.of (newTxn_frame ..) (by decide))
              · exact .step (.step (.step h14 (.of (setOd_frame ..) (by decide))) (.of (applyWrite_frame ..) (by decide))) (.of (respond_frame ..) (by decide))

theorem downloadSeg_lives (k off data s t) (h : downloadSeg k off data s = some t) : Lives s t := by
  unfold downloadSeg at h
  extract_lets x size have_ img at h
  clear_value img have_ size x
  split at h
  · cases h
  · cases h
    exact .step (.refl _) (setSlot_lives ..)

theorem doSegWrite_lives (r e s) : Lives s (doSegWrite r e s) := by
  unfold doSegWrite
  extract_lets z0 z1
  split
  · rename_i y2 y3 y4
    exact .step (.refl _) (.of (refuse_frame ..) (by decide))
  · rename_i y5 y6
    refine lives_ite ?_ ?_
    · exact .step (.refl _) (.of (refuse_frame ..) (by decide))
    · refine lives_ite ?_ ?_
      · split
        · rename_i y7 y8
          exact .step (.refl _) (.of (refuse_frame ..) (by decide))
        · rename_i y9 y10 y11
          have h12 : Lives s y10 := by
            refine .step ?_ (downloadSeg_lives (h := y11) ..)
            exact .refl _
          exact .step (.step h12 (.of (notePlant_frame ..) (by decide))) (.of (respond_frame ..) (by decide))
      · refine lives_ite ?_ ?_
        · refine lives_ite ?_ ?_
          · exact .step (.refl _) (.of (refuse_frame ..) (by decide))
          · refine lives_ite ?_ ?_
            · exact .step (.refl _) (.of (refuse_frame ..) (by decide))
            · unfold z1
              extract_lets z13
              rename_i w14 w15
              have h16 : Lives s w14 := by
                unfold w14
                exact .step (.refl _) (.of (dropStaged_frame ..) (by decide))
              clear_value w14
              refine .step ?_ (.of (respond_frame ..) (by decide))
              refine .step ?_ (.of (notePlant_frame ..) (by decide))
              refine .upd ?_ rfl
              exact h16
        · split
          · rename_i y17 y18
            exact .step (.refl _) (.of (refuse_frame ..) (by decide))
          · rename_i y19 y20 y21
            refine lives_ite ?_ ?_
            · exact .step (.step (.refl _) (.of (dropStaged_frame ..) (by decide))) (.of (refuse_frame ..) (by decide))
            · refine lives_ite ?_ ?_
              · exact .step (.refl _) (.of (refuse_frame ..) (by decide))
              · refine lives_ite ?_ ?_
                · exact .step (.refl _) (.of (refuse_frame ..) (by decide))
                · unfold z1
                  extract_lets z22
                  rename_i w23 w24
                  have h25 : Lives s w23 := by
                    unfold w23
                    exact .step (.refl _) (.of (dropStaged_frame ..) (by decide))
                  clear_value w23
                  refine .step ?_ (.of (respond_frame ..) (by decide))
                  refine .step ?_ (.of (notePlant_frame ..) (by decide))
                  refine .upd ?_ rfl
                  exact h25

theorem doSegCommit_lives (r e s) :
    Lives s (doSegCommit r e s) := by
  unfold doSegCommit
  split
  · rename_i y0 y1
    exact .step (.refl _) (.of (refuse_frame ..) (by decide))
  · rename_i y2 y3 y4
    refine lives_ite ?_ ?_
    · exact .step (.step (.refl _) (.of (dropStaged_frame ..) (by decide))) (.of (refuse_frame ..) (by decide))
    · refine lives_ite ?_ ?_
      · exact .step (.refl _) (.of (refuse_frame ..) (by decide))
      · exact .step (.step (.refl _) (.of (dropStaged_frame ..) (by decide))) (writeValue_lives ..)

theorem runRequest_lives (op r s) :
    Lives s (runRequest op r s) := by
  unfold runRequest
  split
  · rename_i y0 y1 y2
    exact .step (.refl _) (.of (refuse_frame ..) (by decide))
  · rename_i y3 y4
    refine lives_ite ?_ ?_
    · exact .step (.refl _) (.of (doList_frame ..) (by decide))
    · split
      · rename_i y5 y6
        exact .step (.refl _) (.of (refuse_frame ..) (by decide))
      · rename_i y7 y8 y9
        refine lives_ite ?_ ?_
        · exact .step (.refl _) (.of (doRead_frame ..) (by decide))
        · refine lives_ite ?_ ?_
          · exact .step (.refl _) (writeValue_lives ..)
          · refine lives_ite ?_ ?_
            · exact .step (.refl _) (doSegWrite_lives ..)
            · refine lives_ite ?_ ?_
              · exact .step (.refl _) (doSegCommit_lives ..)
              · refine lives_ite ?_ ?_
                · refine lives_ite ?_ ?_
                  · exact .step (.refl _) (.of (refuse_frame ..) (by decide))
                  · exact .step (.step (.step (.refl _) (.of (dropStaged_frame ..) (by decide))) (.of (notePlant_frame ..) (by decide))) (.of (respond_frame ..) (by decide))
                · extract_lets z10
                  exact .step (.refl _) (.of (respond_frame ..) (by decide))

theorem startRequest_lives (op r s) :
    Lives s (startRequest op r s) := by
  unfold startRequest
  extract_lets z0
  rename_i w1
  have h2 : Lives s w1 := by
    unfold w1
    refine .upd ?_ rfl
    exact .refl _
  clear_value w1
  refine lives_ite ?_ ?_
  · exact .step h2 (.of (refuse_frame ..) (by decide))
  · split
    · rename_i y3 y4 y5
      split
      · rename_i y6 y7 y8
        refine lives_ite ?_ ?_
        · exact .step h2 (.of (authFail_frame ..) (by decide))
        · exact .step h2 (.of (refuse_frame ..) (by decide))
      · rename_i y9 y10
        refine lives_ite ?_ ?_
        · exact .step h2 (runRequest_lives ..)
        · refine lives_ite ?_ ?_
          · exact .step h2 (.of (newTxn_frame ..) (by decide))
          · exact .step (.step h2 (.of (setLast_frame ..) (by decide))) (runRequest_lives ..)
    · rename_i y11 y12
      exact .step h2 (runRequest_lives ..)

theorem acceptRequest_lives (op r s) :
    Lives s (acceptRequest op r s) := by
  unfold acceptRequest
  refine lives_ite ?_ ?_
  · refine .upd ?_ rfl
    exact .refl _
  · exact .step (.refl _) (startRequest_lives ..)

theorem activateNow_lives (k s) : Lives s (activateNow k s) := by
  unfold activateNow
  extract_lets z0 w1 w2
  have h3 : Lives s z0 := .step (.step (.refl _) (writePtr_lives ..)) (setSlotSt_lives ..)
  clear_value z0
  split
  · next hr =>
    refine ⟨fun w => ?_⟩
    have hm : w1.life.ok := moduleReset_ok _ _ _ ((h3.ok w).powered (ModState.resets_ne hr))
    exact ⟨hm.1, hm.2, hm.3, hm.4, hm.5⟩
  · exact h3

theorem confirmNow_lives (s) : Lives s (confirmNow s) := by
  unfold confirmNow
  extract_lets z0 z1 z2
  rename_i w3
  have h4 : Lives s z2 := by
    unfold z2
    refine .life (fun w => ⟨w.1, w.2, w.3, w.4, w.5⟩) ?_
    exact .refl _
  clear_value z2
  have h5 : Lives s w3 := by
    unfold w3
    exact .step (.step h4 (writePtr_lives ..)) (setSlotSt_lives ..)
  clear_value w3
  refine lives_ite ?_ ?_
  · exact .step h5 (setSlotSt_lives ..)
  · exact h5

theorem afterCommit_lives (t' before s) :
    Lives s (afterCommit t' before s) := by
  unfold afterCommit
  extract_lets z0
  have h1 : Lives s z0 := by
    unfold z0
    refine lives_foldl (fun t2 x3 h4 => ?_) ?_
    · exact .step h4 (.of (applyWrite_frame ..) (by decide))
    · exact .refl _
  clear_value z0
  split
  · rename_i y5 y6
    exact h1
  · rename_i y7 y8 y9 y10 y11
    exact .step h1 (.of (respond_frame ..) (by decide))
  · rename_i y12 y13 y14 y15
    exact .step (.step h1 (confirmNow_lives ..)) (.of (respond_frame ..) (by decide))
  · rename_i y16 y17 y18 y19 y20
    exact .step (.step h1 (.of (respond_frame ..) (by decide))) (activateNow_lives ..)
  · rename_i y21 y22 y23 y24
    exact .step h1 (.of (respond_frame ..) (by decide))
  · rename_i y25 y26 y27 y28 y29
    exact .step (.step h1 (.of (setLast_frame ..) (by decide))) (.of (respond_frame ..) (by decide))
  · rename_i y30 y31 y32 y33 y34
    exact .step h1 (.of (respond_frame ..) (by decide))
  · rename_i y35 y36 y37 y38 y39 y40
    exact .step (.step h1 (.of (setLast_frame ..) (by decide))) (runRequest_lives ..)

theorem receiveRequest_lives (op r s) :
    Lives s (receiveRequest op r s) := by
  unfold receiveRequest
  split
  · rename_i y0 y1 y2 y3
    extract_lets z4
    rename_i w5 w6
    refine lives_ite ?_ ?_
    · exact .refl _
    · refine lives_ite ?_ ?_
      · refine .upd ?_ rfl
        exact .refl _
      · exact .step (.step (.refl _) (.of (setMb_frame ..) (by decide))) (acceptRequest_lives ..)
  · rename_i y7 y8 y9
    refine lives_ite ?_ ?_
    · exact .refl _
    · extract_lets z10
      rename_i w11 w12
      have h13 : Lives s w11 := by
        unfold w11
        refine .upd ?_ rfl
        exact .refl _
      refine lives_ite ?_ ?_
      · refine .upd ?_ rfl
        exact h13
      · exact .step h13 (acceptRequest_lives ..)
  · rename_i y14 y15 y16
    refine lives_ite ?_ ?_
    · exact .refl _
    · refine .step ?_ (acceptRequest_lives ..)
      refine .upd ?_ rfl
      exact .refl _

theorem mbGo_lives (fn m s) :
    Lives s (mbGo fn m s) := by
  unfold mbGo
  exact .step (.refl _) (receiveRequest_lives ..)

theorem mbRegWrite_lives (fn m x v n s) :
    Lives s (mbRegWrite fn m x v n s) := by
  unfold mbRegWrite
  extract_lets z0 z1
  rename_i w2
  refine lives_ite ?_ ?_
  · refine lives_ite ?_ ?_
    · refine withHalf_lives (fun u3 u4 u5 => ?_) ?_
      · exact .step u5 (.of (setMb_frame ..) (by decide))
      · exact .refl _
    · exact .refl _
  · refine lives_ite ?_ ?_
    · exact .refl _
    · refine lives_ite ?_ ?_
      · exact .step (.refl _) (.of (setMb_frame ..) (by decide))
      · refine lives_ite ?_ ?_
        · exact .step (.refl _) (.of (setMb_frame ..) (by decide))
        · refine lives_ite ?_ ?_
          · refine lives_ite ?_ ?_
            · exact .step (.refl _) (mbGo_lives ..)
            · exact .refl _
          · refine lives_ite ?_ ?_
            · exact .step (.refl _) (.of (setMb_frame ..) (by decide))
            · exact .refl _

theorem bar2Write_lives (fn off v width s) :
    Lives s (bar2Write fn off v width s) := by
  unfold bar2Write
  extract_lets z0
  refine lives_ite ?_ ?_
  · exact .refl _
  · split
    · rename_i y1 y2 y3 y4 y5
      refine lives_ite ?_ ?_
      · exact .step (.refl _) (mbRegWrite_lives ..)
      · exact .refl _
    · rename_i y6 y7 y8 y9 y10 y11
      extract_lets z12
      refine lives_ite ?_ ?_
      · exact .step (.refl _) (.of (setMb_frame ..) (by decide))
      · exact .refl _
    · rename_i y13 y14 y15 y16
      exact .refl _

theorem drainRequests_lives (n s) : Lives s (drainRequests n s) := by
  induction n generalizing s with
  | zero =>
    unfold drainRequests
    exact .refl _
  | succ n ih =>
    unfold drainRequests
    refine lives_ite ?_ ?_
    · exact .refl _
    · split
      · rename_i y0 y1
        exact .refl _
      · rename_i y2 y3 y4 y5
        refine .step ?_ (ih ..)
        refine .step ?_ (startRequest_lives ..)
        refine .upd ?_ rfl
        exact .refl _

theorem execRegWrite_lives (fn bar off value width s t) (h : execRegWrite fn bar off value width s = .next t) :
    Lives s t := by
  have e := Host.Outcome.next.inj h
  subst e
  split
  · rename_i y0
    exact .step (.refl _) (.of (bar0Write_frame ..) (by decide))
  · rename_i y1
    exact .step (.refl _) (bar2Write_lives ..)
  · rename_i y2
    refine lives_ite ?_ ?_
    · exact .step (.refl _) (.of (bar4Write_frame ..) (by decide))
    · exact .refl _
  · rename_i y3 y4 y5 y6
    exact .refl _

theorem execRead_lives (r s t) (h : execRead r s = .next t) :
    Lives s t := by
  have e := Host.Outcome.next.inj h
  subst e
  exact .step (.refl _) (receiveRequest_lives ..)

theorem execWrite_lives (r s t) (h : execWrite r s = .next t) :
    Lives s t := by
  have e := Host.Outcome.next.inj h
  subst e
  exact .step (.refl _) (receiveRequest_lives ..)

theorem execSegWrite_lives (r s t) (h : execSegWrite r s = .next t) :
    Lives s t := by
  have e := Host.Outcome.next.inj h
  subst e
  exact .step (.refl _) (receiveRequest_lives ..)

theorem execSegCommit_lives (r s t) (h : execSegCommit r s = .next t) :
    Lives s t := by
  have e := Host.Outcome.next.inj h
  subst e
  exact .step (.refl _) (receiveRequest_lives ..)

theorem execSegAbort_lives (r s t) (h : execSegAbort r s = .next t) :
    Lives s t := by
  have e := Host.Outcome.next.inj h
  subst e
  exact .step (.refl _) (receiveRequest_lives ..)

theorem execDescribe_lives (r s t) (h : execDescribe r s = .next t) :
    Lives s t := by
  have e := Host.Outcome.next.inj h
  subst e
  exact .step (.refl _) (receiveRequest_lives ..)

theorem execList_lives (r s t) (h : execList r s = .next t) :
    Lives s t := by
  have e := Host.Outcome.next.inj h
  subst e
  exact .step (.refl _) (receiveRequest_lives ..)

theorem writeEntry_lives (who index sub data s) :
    Lives s (writeEntry who index sub data s) := by
  unfold writeEntry
  exact .step (.refl _) (receiveRequest_lives ..)

theorem execRelease_lives (who data s t) (h : execRelease who data s = .next t) :
    Lives s t := by
  have e := Host.Outcome.next.inj h
  subst e
  exact .step (.refl _) (writeEntry_lives ..)

theorem execModuleReset_lives (who data s t) (h : execModuleReset who data s = .next t) :
    Lives s t := by
  have e := Host.Outcome.next.inj h
  subst e
  exact .step (.refl _) (writeEntry_lives ..)

theorem execStandby_lives (who data s t) (h : execStandby who data s = .next t) :
    Lives s t := by
  have e := Host.Outcome.next.inj h
  subst e
  exact .step (.refl _) (writeEntry_lives ..)

theorem execWake_lives (who data s t) (h : execWake who data s = .next t) :
    Lives s t := by
  have e := Host.Outcome.next.inj h
  subst e
  exact .step (.refl _) (writeEntry_lives ..)

theorem execFactoryDefaults_lives (who data s t) (h : execFactoryDefaults who data s = .next t) :
    Lives s t := by
  have e := Host.Outcome.next.inj h
  subst e
  exact .step (.refl _) (writeEntry_lives ..)

theorem execKeyWrite_lives (who slot data s t) (h : execKeyWrite who slot data s = .next t) :
    Lives s t := by
  have e := Host.Outcome.next.inj h
  subst e
  refine lives_ite ?_ ?_
  · exact .step (.refl _) (writeEntry_lives ..)
  · exact .refl _

theorem execKeyRevoke_lives (who data s t) (h : execKeyRevoke who data s = .next t) :
    Lives s t := by
  have e := Host.Outcome.next.inj h
  subst e
  exact .step (.refl _) (writeEntry_lives ..)

theorem execClearSaved_lives (who link data s t) (h : execClearSaved who link data s = .next t) :
    Lives s t := by
  have e := Host.Outcome.next.inj h
  subst e
  refine lives_ite ?_ ?_
  · exact .step (.refl _) (writeEntry_lives ..)
  · exact .refl _

theorem execFleetSend_lives (who data s t) (h : execFleetSend who data s = .next t) :
    Lives s t := by
  have e := Host.Outcome.next.inj h
  subst e
  exact .step (.refl _) (writeEntry_lives ..)

theorem execPwrCapWrite_lives (who data s t) (h : execPwrCapWrite who data s = .next t) :
    Lives s t := by
  have e := Host.Outcome.next.inj h
  subst e
  exact .step (.refl _) (writeEntry_lives ..)

theorem execSetpointChange_lives (who data s t) (h : execSetpointChange who data s = .next t) :
    Lives s t := by
  have e := Host.Outcome.next.inj h
  subst e
  exact .step (.refl _) (writeEntry_lives ..)

theorem execActivate_lives (who data s t) (h : execActivate who data s = .next t) :
    Lives s t := by
  have e := Host.Outcome.next.inj h
  subst e
  exact .step (.refl _) (writeEntry_lives ..)

theorem execConfirm_lives (who data s t) (h : execConfirm who data s = .next t) :
    Lives s t := by
  have e := Host.Outcome.next.inj h
  subst e
  exact .step (.refl _) (writeEntry_lives ..)

theorem execDownload_lives (who slot offset data s t) (h : execDownload who slot offset data s = .next t) :
    Lives s t := by
  have e := Host.Outcome.next.inj h
  subst e
  refine lives_ite ?_ ?_
  · exact .step (.refl _) (receiveRequest_lives ..)
  · exact .refl _

theorem execVerify_lives (who slot data img s t) (h : execVerify who slot data img s = .next t) :
    Lives s t := by
  have e := Host.Outcome.next.inj h
  subst e
  refine lives_ite ?_ ?_
  · exact .step (.refl _) (receiveRequest_lives ..)
  · exact .refl _

theorem execErase_lives (who slot data s t) (h : execErase who slot data s = .next t) :
    Lives s t := by
  have e := Host.Outcome.next.inj h
  subst e
  refine lives_ite ?_ ?_
  · exact .step (.refl _) (writeEntry_lives ..)
  · exact .refl _

theorem execClear_lives (who data s t) (h : execClear who data s = .next t) :
    Lives s t := by
  have e := Host.Outcome.next.inj h
  subst e
  exact .step (.refl _) (writeEntry_lives ..)

theorem execRequest_lives (who data s t) (h : execRequest who data s = .next t) :
    Lives s t := by
  have e := Host.Outcome.next.inj h
  subst e
  exact .step (.refl _) (writeEntry_lives ..)

theorem journalCommitEffect_lives (s) :
    Lives s (journalCommitEffect s) := by
  unfold journalCommitEffect
  split
  · rename_i y0 y1
    exact .refl _
  · rename_i y2 y3 y4 y5
    have h6 : Lives s y4 := by
      refine .step ?_ (.of (commitHead_frame (h := y5) ..) (by decide))
      exact .refl _
    exact .step (.step h6 (afterCommit_lives ..)) (drainRequests_lives ..)

theorem execJournalCommitRecord_lives (s t) (h : execJournalCommitRecord s = .next t) :
    Lives s t := by
  have e := Host.Outcome.next.inj h
  subst e
  refine lives_ite ?_ ?_
  · exact .step (.refl _) (journalCommitEffect_lives ..)
  · exact .refl _

end Sys2Proof.Machine
end

