-- ==== Sys2Proof/Laws/Queue.lean ====
section
/-!
SUPPORT. What the queue, gate and plan operations of the host interface can do, said once: fetching
from a submission ring, posting a completion, popping the front entry, re-owning a gate.
-/

namespace Sys2Proof.Machine
open Sys2Proof

theorem fetch_run (fn q : Nat) : ∀ (n : Nat) (h : HostIf) (p : QPair) (m : Nat),
    n ≤ m → tget h.qps (qkey fn q) = some p → p.full = false → p.ready = [] → p.deleting = none →
    p.head < 2 ^ p.sqLog2 → p.tail = (p.head + n) % 2 ^ p.sqLog2 → n < 2 ^ p.sqLog2 →
    (∀ i < n, (operandFields (entOp (ofLE (hostRead h.mem (p.sqBase + 64 * ((p.head + i) % 2 ^ p.sqLog2)) 64)))).isSome) →
    ∃ g, h.fetch fn q m = { h with qps := g } ∧ tget g (qkey fn q) = some { p with
        head := p.tail, open_ := p.open_ + n,
        fetched := p.fetched ++ (List.range n).map (fun i =>
          { bytes := hostRead h.mem (p.sqBase + 64 * ((p.head + i) % 2 ^ p.sqLog2)) 64, sqHead := (p.head + i + 1) % 2 ^ p.sqLog2 }) } ∧
      (∀ k, k ≠ qkey fn q → tget g k = tget h.qps k) := by
  intro n
  induction n with
  | zero =>
    intro h p m _ hp hf hr hd hh ht _ _
    have e : p.head = p.tail := by rw [ht]; simp [Nat.mod_eq_of_lt hh]
    refine ⟨h.qps, ?_, ?_, fun k _ => rfl⟩
    · cases m with
      | zero => rfl
      | succ m => unfold HostIf.fetch; simp [hp, e]
    · rw [hp]; rcases p with ⟨⟩; simp at e; subst e; simp
  | succ n ih =>
    intro h p m hm hp hf hr hd hh ht hn hk
    obtain ⟨m, rfl⟩ : ∃ k, m = k + 1 := ⟨m - 1, by omega⟩
    have e : p.head ≠ p.tail := by
      rw [ht]; intro e
      by_cases c : p.head + (n + 1) < 2 ^ p.sqLog2
      · rw [Nat.mod_eq_of_lt c] at e; omega
      · rw [Nat.mod_eq_sub_mod (by omega), Nat.mod_eq_of_lt (by omega)] at e; omega
    have h0 := hk 0 (by omega)
    have step1 : h.fetchOne fn q p = { h with qps := tput h.qps (qkey fn q) { p with
        head := (p.head + 1) % 2 ^ p.sqLog2, open_ := p.open_ + 1,
        fetched := p.fetched ++ [{ bytes := hostRead h.mem (p.sqBase + 64 * p.head) 64, sqHead := (p.head + 1) % 2 ^ p.sqLog2 }] } } := by
      unfold HostIf.fetchOne
      simp only [Nat.add_zero, Nat.mod_eq_of_lt hh] at h0
      simp [h0]
    unfold HostIf.fetch
    simp only [hp, e, hf, hr, hd, Option.isSome_none, ne_eq, not_true, or_false, Bool.false_eq_true, if_false]
    rw [step1]
    obtain ⟨g, g1, g2, g3⟩ := ih { h with qps := tput h.qps (qkey fn q) { p with
        head := (p.head + 1) % 2 ^ p.sqLog2, open_ := p.open_ + 1,
        fetched := p.fetched ++ [{ bytes := hostRead h.mem (p.sqBase + 64 * p.head) 64, sqHead := (p.head + 1) % 2 ^ p.sqLog2 }] } }
      { p with
        head := (p.head + 1) % 2 ^ p.sqLog2, open_ := p.open_ + 1,
        fetched := p.fetched ++ [{ bytes := hostRead h.mem (p.sqBase + 64 * p.head) 64, sqHead := (p.head + 1) % 2 ^ p.sqLog2 }] } m
      (by omega) (by simp) (by simpa [QPair.full, QPair.used] using hf) hr hd (Nat.mod_lt _ (by positivity))
      (by simp [ht, Nat.add_assoc, Nat.add_comm 1 n]) (by simp; omega)
      (by
        intro i hi
        have := hk (i + 1) (by omega)
        simpa [Nat.add_assoc, Nat.add_comm 1 i] using this)
    refine ⟨g, g1, ?_, ?_⟩
    · rw [g2]
      simp [List.range_succ_eq_map, Nat.add_assoc, Nat.add_comm 1, Nat.mod_eq_of_lt hh, Function.comp_def, hr, hd]
    · intro k hk'
      rw [g3 k hk']
      simp [tget_tput_ne _ _ hk']

theorem hostWrites_qps (h : HostIf) (ws) : (h.hostWrites ws).qps = h.qps := by
  unfold HostIf.hostWrites
  exact foldl_inv (fun k : HostIf => k.qps = h.qps) _ _ _ rfl (fun b x hb => hb)

theorem hostWrites_vf (h : HostIf) (ws) : (h.hostWrites ws).vfEn = h.vfEn ∧ (h.hostWrites ws).numVfs = h.numVfs := by
  unfold HostIf.hostWrites
  exact foldl_inv (fun k : HostIf => k.vfEn = h.vfEn ∧ k.numVfs = h.numVfs) _ _ _ ⟨rfl, rfl⟩ (fun b x hb => hb)

theorem complBytes_length (c ph) : (complBytes c ph).length = 64 := by simp [complBytes, leB]

theorem hostRead_hostWrite : ∀ (bs : List Byte) (m : Tab Byte) (a : Nat), bs.length ≤ 2 ^ 64 → hostRead (hostWrite m a bs) a bs.length = bs := by
  intro bs
  induction bs with
  | nil => intros; rfl
  | cons b r ih =>
    intro m a hl
    simp only [List.length_cons] at hl
    have h1 := ih (hostPut m a b) (a + 1) (by omega)
    simp only [hostRead, hostWrite, List.length_cons, List.range_succ_eq_map, List.map_cons, List.map_map, Nat.add_zero]
    congr 1
    · rw [hostByte_hostWrite_out _ _ _ _ (by
        intro i hi; have : r.length < 2 ^ 64 := by omega
        omega)]
      simp
    · conv_rhs => rw [← h1]
      simp only [hostRead]
      apply List.map_congr_left
      intro i _
      simp [Nat.add_assoc, Nat.add_comm 1]

theorem signal_mem (h : HostIf) (fn v) : (h.signal fn v).mem = h.mem := by
  unfold HostIf.signal; split <;> rfl

theorem signal_qps (h : HostIf) (fn v) : (h.signal fn v).qps = h.qps := by
  unfold HostIf.signal; split <;> rfl

theorem postOne_mem (h : HostIf) (fn q p c) : (h.postOne fn q p c).mem = hostWrite h.mem (p.cqBase + 64 * p.cqTail) (complBytes c p.cqPhase) := by
  unfold HostIf.postOne
  generalize complBytes c p.cqPhase = bs
  extract_lets h1 t p1 fire p2 h2
  have e : h2.mem = hostWrite h.mem (p.cqBase + 64 * p.cqTail) bs := rfl
  clear_value h2
  split
  · rw [signal_mem, e]
  · exact e

theorem postOne_qps (h : HostIf) (fn q p c) : ∃ u, (h.postOne fn q p c).qps = tput h.qps (qkey fn q) { p with
      cqTail := (p.cqTail + 1) % 2 ^ p.cqLog2, unsig := u,
      cqPhase := if (p.cqTail + 1) % 2 ^ p.cqLog2 = 0 then !p.cqPhase else p.cqPhase } := by
  unfold HostIf.postOne
  generalize complBytes c p.cqPhase = bs
  extract_lets h1 t p1 fire p2 h2
  have e : h2.qps = tput h.qps (qkey fn q) p2 := rfl
  have e2 : ∃ u, p2 = { p with
      cqTail := (p.cqTail + 1) % 2 ^ p.cqLog2, unsig := u,
      cqPhase := if (p.cqTail + 1) % 2 ^ p.cqLog2 = 0 then !p.cqPhase else p.cqPhase } := by
    unfold p2
    split
    · exact ⟨0, rfl⟩
    · exact ⟨_, rfl⟩
  obtain ⟨u, hu⟩ := e2
  refine ⟨u, ?_⟩
  rw [← hu]
  clear_value h2
  split
  · rw [signal_qps, e]
  · exact e

theorem complete_eq (h : HostIf) (c : Compl) (p : QPair) (hp : tget h.qps (qkey c.ticket.fn c.ticket.q) = some p)
    (hr : p.ready = []) (hd : p.deleting = none) (hf : p.full = false) :
    h.complete c = ({ h with qps := tput h.qps (qkey c.ticket.fn c.ticket.q) { p with open_ := p.open_ - 1 } } : HostIf).postOne c.ticket.fn c.ticket.q { p with open_ := p.open_ - 1, ready := [] } c := by
  rcases p with ⟨a1, a2, a3, a4, a5, a6, a7, a8, a9, a10, a11, a12, a13, a14, a15, a16, a17⟩
  dsimp only at hr hd; subst hr hd
  unfold HostIf.complete
  simp only [hp, List.nil_append]
  unfold HostIf.postReady
  simp only [tget_tput_self, show ∀ x, ({ sqBase := a1, cqBase := a2, sqLog2 := a3, cqLog2 := a4, head := a5, tail := a6, cqHead := a7, cqTail := a8, cqPhase := a9, vec := a10, coalCnt := a11, coalUs := a12, unsig := a13, fetched := a14, ready := [], open_ := x, deleting := none } : QPair).full = false from fun _ => hf, Bool.false_eq_true, if_false]
  simp only [HostIf.postReady]
  unfold HostIf.finishDelete
  generalize hg : HostIf.postOne _ _ _ _ _ = g
  have : ∃ x, tget g.qps (qkey c.ticket.fn c.ticket.q) = some x ∧ x.deleting = none := by
    obtain ⟨u, hu⟩ := postOne_qps ({ h with qps := tput h.qps (qkey c.ticket.fn c.ticket.q) { sqBase := a1, cqBase := a2, sqLog2 := a3, cqLog2 := a4, head := a5, tail := a6, cqHead := a7, cqTail := a8, cqPhase := a9, vec := a10, coalCnt := a11, coalUs := a12, unsig := a13, fetched := a14, ready := [], open_ := a16 - 1, deleting := none } } : HostIf) c.ticket.fn c.ticket.q { sqBase := a1, cqBase := a2, sqLog2 := a3, cqLog2 := a4, head := a5, tail := a6, cqHead := a7, cqTail := a8, cqPhase := a9, vec := a10, coalCnt := a11, coalUs := a12, unsig := a13, fetched := a14, ready := [], open_ := a16 - 1, deleting := none } c
    rw [hg] at hu
    exact ⟨_, by rw [hu, tget_tput_self], rfl⟩
  obtain ⟨x, hx, hxd⟩ := this
  simp only [hx, hxd]

theorem onEntry_checked (op fn q act s e k st) (hf : frontEntry fn q s = some (e, k)) (ho : entOp e = op)
    (hc : entryCheck fn q e = some st) : onEntry op fn q act s = completeSt k st (popEntry fn q s) := by
  unfold onEntry; simp [hf, ho, hc]

theorem onEntry_act (op fn q act s e k) (h : Front op fn q e k s) : onEntry op fn q act s = act e k (popEntry fn q s) := by
  unfold onEntry; simp [h.entry, h.opcode, h.accepted]

theorem or_ne (e m : Nat) : e ||| m ≠ m ↔ ∃ b, e.testBit b ∧ m.testBit b = false := by
  constructor
  · intro h
    by_contra c
    push Not at c
    apply h
    apply Nat.eq_of_testBit_eq
    intro i
    have := c i
    cases h1 : e.testBit i <;> cases h2 : m.testBit i <;> simp_all
  · rintro ⟨b, h1, h2⟩ h
    have := congrArg (·.testBit b) h
    simp [h1, h2] at this

theorem popEntry_host (fn q s) : popEntry fn q s = { s with host := (popEntry fn q s).host } := by
  unfold popEntry; split <;> rfl

theorem popEntry_qps (fn q s) (k) (h : k ≠ qkey fn q) : tget (popEntry fn q s).host.qps k = tget s.host.qps k := by
  unfold popEntry
  split
  · rfl
  · exact tget_tput_ne _ _ h

theorem popEntry_eqs (fn q s) : (popEntry fn q s).host.eqs = s.host.eqs := by
  unfold popEntry; split <;> rfl

theorem qpairsMax_pop (fn q s f) : qpairsMax (popEntry fn q s) f = qpairsMax s f := by
  rw [popEntry_host]; rfl

theorem front_ticket {op fn q e k s} (h : Front op fn q e k s) : k.fn = fn ∧ k.q = q := by
  have := h.entry
  unfold frontEntry at this
  split at this
  · simp at this
  · split at this
    · simp at this
    · simp at this; obtain ⟨_, rfl⟩ := this; exact ⟨rfl, rfl⟩

theorem postReady_qps (fn q k : Nat) (hk : k ≠ qkey fn q) : ∀ cs (h : HostIf), tget (h.postReady fn q cs).qps k = tget h.qps k := by
  intro cs
  induction cs with
  | nil => intro h; rfl
  | cons c r ih =>
    intro h
    unfold HostIf.postReady
    split
    · rfl
    · split
      · exact tget_tput_ne _ _ hk
      · rw [ih]
        obtain ⟨u, hu⟩ := postOne_qps h fn q { (‹QPair› : QPair) with ready := r } c
        rw [hu]
        exact tget_tput_ne _ _ hk

theorem pop_tick (fn q s) : (popEntry fn q s).tick = s.tick := by rw [popEntry_host]

theorem pop_adm (fn q s) : (popEntry fn q s).adm = s.adm := by rw [popEntry_host]

theorem pop_gate (fn q s g) : (popEntry fn q s).gate g = s.gate g := by simp [State.gate, pop_tick]

theorem pop_gatePart (fn q s g) : (popEntry fn q s).gatePart g = s.gatePart g := by rw [popEntry_host]; rfl

theorem gate_set (s : State) (g x) : (s.setGate g x).gate g = x := by simp [State.gate, State.setGate]

theorem gate_set_ne (s : State) {g j} (x) (h : j ≠ g) : (s.setGate g x).gate j = s.gate j := by
  simp only [State.gate, State.setGate]; exact tgetD_tput_ne _ _ _ h

theorem gatePart_set (s : State) (g j x) (h : x.armedBy = (s.gate g).armedBy) : (s.setGate g x).gatePart j = s.gatePart j := by
  unfold State.gatePart
  by_cases c : j = g
  · subst c; rw [gate_set, h]; rfl
  · rw [gate_set_ne _ _ c]; rfl

theorem popEntry_hostonly (fn q s) : SameOff [.host] s (popEntry fn q s) := by
  rw [popEntry_host]; constructor; intro c hc; cases c <;> first | rfl | simp at hc

theorem completeSt_tick (k st s) : (completeSt k st s).tick = s.tick := rfl

theorem completeAll_tick (ts st) : ∀ s, (completeAll ts st s).tick = s.tick := by
  induction ts with
  | nil => intro s; rfl
  | cons a r ih => intro s; exact (ih _).trans rfl

theorem completeAll_adm (ts st) : ∀ s, (completeAll ts st s).adm = s.adm := by
  induction ts with
  | nil => intro s; rfl
  | cons a r ih => intro s; exact (ih _).trans rfl

theorem readmit_plans (e s) : (readmit e s).adm.plans = s.adm.plans.filter (fun p => p.key != e.plan.key) := rfl

theorem flushPlans_plans (p s) (x) (h : x ∈ (flushPlans p s).adm.plans) : x ∈ s.adm.plans ∧ p x = false := by
  revert h
  unfold flushPlans
  refine foldl_inv (P := fun (z : State) => x ∈ z.adm.plans → x ∈ s.adm.plans ∧ p x = false) _ _ _ ?_ ?_
  · intro h; simpa using List.mem_filter.1 h
  · intro b a h k; rw [readmit_plans] at k; exact h (List.mem_filter.1 k).1

theorem flushPlans_keeps (p : Plan → Bool) (hp : ∀ x y, x.key = y.key → p x = p y) (s x) (h : x ∈ s.adm.plans) (h2 : p x = false) : x ∈ (flushPlans p s).adm.plans := by
  unfold flushPlans
  extract_lets back s1
  have : ∀ l : List Exec, (∀ e ∈ l, p e.plan = true) → ∀ z : State, x ∈ z.adm.plans → x ∈ (l.foldl (fun s e => readmit e s) z).adm.plans := by
    intro l
    induction l with
    | nil => intro _ z h; exact h
    | cons e r ih =>
      intro hl z hz
      refine ih (fun e he => hl e (by simp [he])) _ ?_
      rw [readmit_plans]
      refine List.mem_filter.2 ⟨hz, ?_⟩
      have := hl e (by simp)
      simp only [bne_iff_ne, ne_eq]
      intro c; rw [hp x e.plan c, this] at h2; simp at h2
  refine this _ ?_ _ (List.mem_filter.2 ⟨h, by simp [h2]⟩)
  intro e he; simp [back] at he; exact he.2.2

theorem flushPlans_off (p s) : SameOff [.adm] s (flushPlans p s) := (flushPlans_frame p s).off

theorem flushPlans_tick (p s) : (flushPlans p s).tick = s.tick := (flushPlans_off p s).same .tick (by decide)

theorem flushPlans_host (p s) : (flushPlans p s).host = s.host := (flushPlans_off p s).same .host (by decide)

theorem off_trans {L s t u} (h : SameOff L s t) (k : SameOff L t u) : SameOff L s u :=
  ⟨fun c hc => Comp.same_trans (h.same c hc) (k.same c hc)⟩

theorem off_mono {L M s t} (h : SameOff L s t) (k : L ⊆ M) : SameOff M s t := ⟨fun c hc => h.same c (fun x => hc (k x))⟩

theorem setOwner_some (g n s) (h : (s.gate g).owner ≠ n) (ha : s.gateArmed g = false) (hw : (s.gate g).waiters = []) :
   ∃ t, setOwner g n s = some t ∧ t.gate g = { s.gate g with count := 0, target := 0, owner := n } ∧ (∀ j, j ≠ g → t.gate j = s.gate j) ∧ (∀ p ∈ t.adm.plans, p.namesGate g = false) ∧ SameOff [.host, .adm, .tick] s t := by
  unfold setOwner
  simp only
  rw [if_neg h, if_neg (by simp [ha, hw])]
  refine ⟨_, rfl, ?_, ?_, ?_, ?_⟩
  · simp only [State.gate, flushPlans_tick, completeAll_tick, State.setGate, tgetD_tput_self]
  · intro j hj; simp only [State.gate, flushPlans_tick, completeAll_tick, State.setGate]; exact tgetD_tput_ne _ _ _ hj
  · intro p hp; exact (flushPlans_plans _ _ _ hp).2
  · refine off_trans (t := completeAll _ stAborted _) ?_ (off_mono (flushPlans_off _ _) (by decide))
    refine ⟨fun c hc => ?_⟩
    have e : ∀ ts st (s : State), SameOff [.host] s (completeAll ts st s) := fun ts => by
      induction ts with
      | nil => intro st s; exact SameOff.refl _ _
      | cons a r ih => intro st s; refine off_trans ?_ (ih st _); exact ⟨fun c hc => by cases c <;> first | exact absurd (by decide) hc | rfl⟩
    refine Comp.same_trans ?_ ((e _ _ _).same c (by intro x; exact hc (by simp at x; simp [x])))
    cases c <;> first | exact absurd (by decide) hc | rfl

theorem setOwner_none (g n s) (h : (s.gate g).owner ≠ n) (ha : s.gateArmed g = true ∨ (s.gate g).waiters ≠ []) : setOwner g n s = none := by
  unfold setOwner; simp only; rw [if_neg h, if_pos (by rcases ha with h | h <;> simp [h])]

theorem nextAfter_spec (last ks fn) (h : nextAfter last ks = some fn) : fn ∈ ks ∧ (∀ y ∈ ks, last < y → last < fn ∧ fn ≤ y) ∧ (fn ≤ last → ∀ y ∈ ks, fn ≤ y) := by
  have key : ∀ (l : List Nat) (b : Option Nat) (r : Nat), l.foldl (fun (b : Option Nat) k => match b with | none => some k | some x => some (min x k)) b = some r →
     (b = some r ∨ r ∈ l) ∧ (∀ y ∈ l, r ≤ y) ∧ (∀ x, b = some x → r ≤ x) := by
    intro l
    induction l with
    | nil => intro b r h; simp at h; subst h; simp
    | cons a l ih =>
      intro b r h
      cases b with
      | none =>
        obtain ⟨h1, h2, h3⟩ := ih _ _ h
        simp at h1 h3
        refine ⟨?_, ?_, by simp⟩
        · rcases h1 with h1 | h1 <;> simp [h1]
        · intro y hy; rcases List.mem_cons.1 hy with rfl | hy; exact h3; exact h2 y hy
      | some x =>
        obtain ⟨h1, h2, h3⟩ := ih _ _ h
        simp at h1 h3
        refine ⟨?_, ?_, ?_⟩
        · rcases h1 with h1 | h1
          · rcases Nat.le_total x a with c | c
            · left; rw [Nat.min_eq_left c] at h1; simp [h1]
            · right; rw [Nat.min_eq_right c] at h1; simp [h1]
          · right; simp [h1]
        · intro y hy; rcases List.mem_cons.1 hy with rfl | hy; exact h3.2; exact h2 y hy
        · rintro y ⟨⟩; exact h3.1
  have none_of : ∀ l : List Nat, l.foldl (fun (b : Option Nat) k => match b with | none => some k | some x => some (min x k)) none = none → l = [] := by
    intro l
    have : ∀ (l : List Nat) (x : Nat), l.foldl (fun (b : Option Nat) k => match b with | none => some k | some x => some (min x k)) (some x) ≠ none := by
      intro l; induction l with
      | nil => simp
      | cons a l ih => intro x; exact ih _
    cases l with
    | nil => simp
    | cons a l => intro h; exact absurd h (this l a)
  unfold nextAfter at h
  simp only at h
  split at h
  · next k hk =>
    simp at h; subst h
    obtain ⟨h1, h2, -⟩ := key _ _ _ hk
    simp at h1 h2
    refine ⟨h1.1, fun y hy hl => ⟨h1.2, h2 y hy hl⟩, fun c => absurd h1.2 (by omega)⟩
  · next hn =>
    have e := none_of _ hn
    obtain ⟨h1, h2, -⟩ := key _ _ _ h
    simp at h1
    refine ⟨h1, fun y hy hl => ?_, fun _ => h2⟩
    have : y ∈ ks.filter (fun k => last < k) := List.mem_filter.2 ⟨hy, by simpa using hl⟩
    rw [e] at this; simp at this

theorem nextAfter_isSome (last ks) (h : ks ≠ []) : ∃ r, nextAfter last ks = some r := by
  unfold nextAfter; simp only
  split
  · exact ⟨_, rfl⟩
  · cases ks with
    | nil => simp at h
    | cons a l =>
      show ∃ r, l.foldl _ (some a) = some r
      have : ∀ (l : List Nat) (x : Nat), ∃ r, l.foldl (fun (b : Option Nat) k => match b with | none => some k | some x => some (min x k)) (some x) = some r := by
        intro l; induction l with
        | nil => intro x; exact ⟨x, rfl⟩
        | cons a l ih => intro x; exact ih _
      exact this l a

end Sys2Proof.Machine
end

