-- ==== Sys2Proof/Laws/State.lean ====
section
/-!
SUPPORT. One lemma for each field of the state and each named update: an update of one component leaves the others. And what the
accessors read after an update.
-/

namespace Sys2Proof.Machine

open Sys2Proof

@[simp] theorem State.setMac_pending (s : State) (pm : Nat) (v : Mac) : (s.setMac pm v).pending = s.pending := rfl
@[simp] theorem State.setMac_now (s : State) (pm : Nat) (v : Mac) : (s.setMac pm v).now = s.now := rfl
@[simp] theorem State.setMac_free (s : State) (pm : Nat) (v : Mac) : (s.setMac pm v).free = s.free := rfl
@[simp] theorem State.setMac_life (s : State) (pm : Nat) (v : Mac) : (s.setMac pm v).life = s.life := rfl
@[simp] theorem State.setMac_jr (s : State) (pm : Nat) (v : Mac) : (s.setMac pm v).jr = s.jr := rfl
@[simp] theorem State.setMac_host (s : State) (pm : Nat) (v : Mac) : (s.setMac pm v).host = s.host := rfl
@[simp] theorem State.setMac_reg (s : State) (pm : Nat) (v : Mac) : (s.setMac pm v).reg = s.reg := rfl
@[simp] theorem State.setMac_mem (s : State) (pm : Nat) (v : Mac) : (s.setMac pm v).mem = s.mem := rfl
@[simp] theorem State.setMac_adm (s : State) (pm : Nat) (v : Mac) : (s.setMac pm v).adm = s.adm := rfl
@[simp] theorem State.setMac_tick (s : State) (pm : Nat) (v : Mac) : (s.setMac pm v).tick = s.tick := rfl
@[simp] theorem State.setMac_cores (s : State) (pm : Nat) (v : Mac) : (s.setMac pm v).cores = s.cores := rfl
@[simp] theorem State.setMac_net (s : State) (pm : Nat) (v : Mac) : (s.setMac pm v).net = s.net := rfl
@[simp] theorem State.setMac_pwr (s : State) (pm : Nat) (v : Mac) : (s.setMac pm v).pwr = s.pwr := rfl
@[simp] theorem State.setMac_mnt (s : State) (pm : Nat) (v : Mac) : (s.setMac pm v).mnt = s.mnt := rfl
@[simp] theorem State.setMac_od (s : State) (pm : Nat) (v : Mac) : (s.setMac pm v).od = s.od := rfl

@[simp] theorem State.setCore_pending (s : State) (c : Nat) (v : Core) : (s.setCore c v).pending = s.pending := rfl
@[simp] theorem State.setCore_now (s : State) (c : Nat) (v : Core) : (s.setCore c v).now = s.now := rfl
@[simp] theorem State.setCore_free (s : State) (c : Nat) (v : Core) : (s.setCore c v).free = s.free := rfl
@[simp] theorem State.setCore_life (s : State) (c : Nat) (v : Core) : (s.setCore c v).life = s.life := rfl
@[simp] theorem State.setCore_jr (s : State) (c : Nat) (v : Core) : (s.setCore c v).jr = s.jr := rfl
@[simp] theorem State.setCore_host (s : State) (c : Nat) (v : Core) : (s.setCore c v).host = s.host := rfl
@[simp] theorem State.setCore_reg (s : State) (c : Nat) (v : Core) : (s.setCore c v).reg = s.reg := rfl
@[simp] theorem State.setCore_mem (s : State) (c : Nat) (v : Core) : (s.setCore c v).mem = s.mem := rfl
@[simp] theorem State.setCore_fm (s : State) (c : Nat) (v : Core) : (s.setCore c v).fm = s.fm := rfl
@[simp] theorem State.setCore_adm (s : State) (c : Nat) (v : Core) : (s.setCore c v).adm = s.adm := rfl
@[simp] theorem State.setCore_tick (s : State) (c : Nat) (v : Core) : (s.setCore c v).tick = s.tick := rfl
@[simp] theorem State.setCore_net (s : State) (c : Nat) (v : Core) : (s.setCore c v).net = s.net := rfl
@[simp] theorem State.setCore_pwr (s : State) (c : Nat) (v : Core) : (s.setCore c v).pwr = s.pwr := rfl
@[simp] theorem State.setCore_mnt (s : State) (c : Nat) (v : Core) : (s.setCore c v).mnt = s.mnt := rfl
@[simp] theorem State.setCore_od (s : State) (c : Nat) (v : Core) : (s.setCore c v).od = s.od := rfl

@[simp] theorem State.setFrame_pending (s : State) (fn lf : Nat) (v : Frame) : (s.setFrame fn lf v).pending = s.pending := rfl
@[simp] theorem State.setFrame_now (s : State) (fn lf : Nat) (v : Frame) : (s.setFrame fn lf v).now = s.now := rfl
@[simp] theorem State.setFrame_free (s : State) (fn lf : Nat) (v : Frame) : (s.setFrame fn lf v).free = s.free := rfl
@[simp] theorem State.setFrame_life (s : State) (fn lf : Nat) (v : Frame) : (s.setFrame fn lf v).life = s.life := rfl
@[simp] theorem State.setFrame_jr (s : State) (fn lf : Nat) (v : Frame) : (s.setFrame fn lf v).jr = s.jr := rfl
@[simp] theorem State.setFrame_host (s : State) (fn lf : Nat) (v : Frame) : (s.setFrame fn lf v).host = s.host := rfl
@[simp] theorem State.setFrame_reg (s : State) (fn lf : Nat) (v : Frame) : (s.setFrame fn lf v).reg = s.reg := rfl
@[simp] theorem State.setFrame_mem (s : State) (fn lf : Nat) (v : Frame) : (s.setFrame fn lf v).mem = s.mem := rfl
@[simp] theorem State.setFrame_adm (s : State) (fn lf : Nat) (v : Frame) : (s.setFrame fn lf v).adm = s.adm := rfl
@[simp] theorem State.setFrame_tick (s : State) (fn lf : Nat) (v : Frame) : (s.setFrame fn lf v).tick = s.tick := rfl
@[simp] theorem State.setFrame_cores (s : State) (fn lf : Nat) (v : Frame) : (s.setFrame fn lf v).cores = s.cores := rfl
@[simp] theorem State.setFrame_net (s : State) (fn lf : Nat) (v : Frame) : (s.setFrame fn lf v).net = s.net := rfl
@[simp] theorem State.setFrame_pwr (s : State) (fn lf : Nat) (v : Frame) : (s.setFrame fn lf v).pwr = s.pwr := rfl
@[simp] theorem State.setFrame_mnt (s : State) (fn lf : Nat) (v : Frame) : (s.setFrame fn lf v).mnt = s.mnt := rfl
@[simp] theorem State.setFrame_od (s : State) (fn lf : Nat) (v : Frame) : (s.setFrame fn lf v).od = s.od := rfl

@[simp] theorem State.setPart_pending (s : State) (p : Nat) (v : Part) : (s.setPart p v).pending = s.pending := rfl
@[simp] theorem State.setPart_now (s : State) (p : Nat) (v : Part) : (s.setPart p v).now = s.now := rfl
@[simp] theorem State.setPart_free (s : State) (p : Nat) (v : Part) : (s.setPart p v).free = s.free := rfl
@[simp] theorem State.setPart_life (s : State) (p : Nat) (v : Part) : (s.setPart p v).life = s.life := rfl
@[simp] theorem State.setPart_jr (s : State) (p : Nat) (v : Part) : (s.setPart p v).jr = s.jr := rfl
@[simp] theorem State.setPart_host (s : State) (p : Nat) (v : Part) : (s.setPart p v).host = s.host := rfl
@[simp] theorem State.setPart_reg (s : State) (p : Nat) (v : Part) : (s.setPart p v).reg = s.reg := rfl
@[simp] theorem State.setPart_mem (s : State) (p : Nat) (v : Part) : (s.setPart p v).mem = s.mem := rfl
@[simp] theorem State.setPart_fm (s : State) (p : Nat) (v : Part) : (s.setPart p v).fm = s.fm := rfl
@[simp] theorem State.setPart_adm (s : State) (p : Nat) (v : Part) : (s.setPart p v).adm = s.adm := rfl
@[simp] theorem State.setPart_cores (s : State) (p : Nat) (v : Part) : (s.setPart p v).cores = s.cores := rfl
@[simp] theorem State.setPart_net (s : State) (p : Nat) (v : Part) : (s.setPart p v).net = s.net := rfl
@[simp] theorem State.setPart_pwr (s : State) (p : Nat) (v : Part) : (s.setPart p v).pwr = s.pwr := rfl
@[simp] theorem State.setPart_mnt (s : State) (p : Nat) (v : Part) : (s.setPart p v).mnt = s.mnt := rfl
@[simp] theorem State.setPart_od (s : State) (p : Nat) (v : Part) : (s.setPart p v).od = s.od := rfl

@[simp] theorem State.setGate_pending (s : State) (g : Nat) (v : Gate) : (s.setGate g v).pending = s.pending := rfl
@[simp] theorem State.setGate_now (s : State) (g : Nat) (v : Gate) : (s.setGate g v).now = s.now := rfl
@[simp] theorem State.setGate_free (s : State) (g : Nat) (v : Gate) : (s.setGate g v).free = s.free := rfl
@[simp] theorem State.setGate_life (s : State) (g : Nat) (v : Gate) : (s.setGate g v).life = s.life := rfl
@[simp] theorem State.setGate_jr (s : State) (g : Nat) (v : Gate) : (s.setGate g v).jr = s.jr := rfl
@[simp] theorem State.setGate_host (s : State) (g : Nat) (v : Gate) : (s.setGate g v).host = s.host := rfl
@[simp] theorem State.setGate_reg (s : State) (g : Nat) (v : Gate) : (s.setGate g v).reg = s.reg := rfl
@[simp] theorem State.setGate_mem (s : State) (g : Nat) (v : Gate) : (s.setGate g v).mem = s.mem := rfl
@[simp] theorem State.setGate_fm (s : State) (g : Nat) (v : Gate) : (s.setGate g v).fm = s.fm := rfl
@[simp] theorem State.setGate_adm (s : State) (g : Nat) (v : Gate) : (s.setGate g v).adm = s.adm := rfl
@[simp] theorem State.setGate_cores (s : State) (g : Nat) (v : Gate) : (s.setGate g v).cores = s.cores := rfl
@[simp] theorem State.setGate_net (s : State) (g : Nat) (v : Gate) : (s.setGate g v).net = s.net := rfl
@[simp] theorem State.setGate_pwr (s : State) (g : Nat) (v : Gate) : (s.setGate g v).pwr = s.pwr := rfl
@[simp] theorem State.setGate_mnt (s : State) (g : Nat) (v : Gate) : (s.setGate g v).mnt = s.mnt := rfl
@[simp] theorem State.setGate_od (s : State) (g : Nat) (v : Gate) : (s.setGate g v).od = s.od := rfl

@[simp] theorem State.setLink_pending (s : State) (l : Nat) (v : Link) : (s.setLink l v).pending = s.pending := rfl
@[simp] theorem State.setLink_now (s : State) (l : Nat) (v : Link) : (s.setLink l v).now = s.now := rfl
@[simp] theorem State.setLink_free (s : State) (l : Nat) (v : Link) : (s.setLink l v).free = s.free := rfl
@[simp] theorem State.setLink_life (s : State) (l : Nat) (v : Link) : (s.setLink l v).life = s.life := rfl
@[simp] theorem State.setLink_jr (s : State) (l : Nat) (v : Link) : (s.setLink l v).jr = s.jr := rfl
@[simp] theorem State.setLink_host (s : State) (l : Nat) (v : Link) : (s.setLink l v).host = s.host := rfl
@[simp] theorem State.setLink_reg (s : State) (l : Nat) (v : Link) : (s.setLink l v).reg = s.reg := rfl
@[simp] theorem State.setLink_mem (s : State) (l : Nat) (v : Link) : (s.setLink l v).mem = s.mem := rfl
@[simp] theorem State.setLink_fm (s : State) (l : Nat) (v : Link) : (s.setLink l v).fm = s.fm := rfl
@[simp] theorem State.setLink_adm (s : State) (l : Nat) (v : Link) : (s.setLink l v).adm = s.adm := rfl
@[simp] theorem State.setLink_tick (s : State) (l : Nat) (v : Link) : (s.setLink l v).tick = s.tick := rfl
@[simp] theorem State.setLink_cores (s : State) (l : Nat) (v : Link) : (s.setLink l v).cores = s.cores := rfl
@[simp] theorem State.setLink_pwr (s : State) (l : Nat) (v : Link) : (s.setLink l v).pwr = s.pwr := rfl
@[simp] theorem State.setLink_mnt (s : State) (l : Nat) (v : Link) : (s.setLink l v).mnt = s.mnt := rfl
@[simp] theorem State.setLink_od (s : State) (l : Nat) (v : Link) : (s.setLink l v).od = s.od := rfl

@[simp] theorem State.setPdie_pending (s : State) (d : Nat) (v : PowerDie) : (s.setPdie d v).pending = s.pending := rfl
@[simp] theorem State.setPdie_now (s : State) (d : Nat) (v : PowerDie) : (s.setPdie d v).now = s.now := rfl
@[simp] theorem State.setPdie_free (s : State) (d : Nat) (v : PowerDie) : (s.setPdie d v).free = s.free := rfl
@[simp] theorem State.setPdie_life (s : State) (d : Nat) (v : PowerDie) : (s.setPdie d v).life = s.life := rfl
@[simp] theorem State.setPdie_jr (s : State) (d : Nat) (v : PowerDie) : (s.setPdie d v).jr = s.jr := rfl
@[simp] theorem State.setPdie_host (s : State) (d : Nat) (v : PowerDie) : (s.setPdie d v).host = s.host := rfl
@[simp] theorem State.setPdie_reg (s : State) (d : Nat) (v : PowerDie) : (s.setPdie d v).reg = s.reg := rfl
@[simp] theorem State.setPdie_mem (s : State) (d : Nat) (v : PowerDie) : (s.setPdie d v).mem = s.mem := rfl
@[simp] theorem State.setPdie_fm (s : State) (d : Nat) (v : PowerDie) : (s.setPdie d v).fm = s.fm := rfl
@[simp] theorem State.setPdie_adm (s : State) (d : Nat) (v : PowerDie) : (s.setPdie d v).adm = s.adm := rfl
@[simp] theorem State.setPdie_tick (s : State) (d : Nat) (v : PowerDie) : (s.setPdie d v).tick = s.tick := rfl
@[simp] theorem State.setPdie_cores (s : State) (d : Nat) (v : PowerDie) : (s.setPdie d v).cores = s.cores := rfl
@[simp] theorem State.setPdie_net (s : State) (d : Nat) (v : PowerDie) : (s.setPdie d v).net = s.net := rfl
@[simp] theorem State.setPdie_mnt (s : State) (d : Nat) (v : PowerDie) : (s.setPdie d v).mnt = s.mnt := rfl
@[simp] theorem State.setPdie_od (s : State) (d : Nat) (v : PowerDie) : (s.setPdie d v).od = s.od := rfl

@[simp] theorem State.setPpart_pending (s : State) (p : Nat) (v : PowerPart) : (s.setPpart p v).pending = s.pending := rfl
@[simp] theorem State.setPpart_now (s : State) (p : Nat) (v : PowerPart) : (s.setPpart p v).now = s.now := rfl
@[simp] theorem State.setPpart_free (s : State) (p : Nat) (v : PowerPart) : (s.setPpart p v).free = s.free := rfl
@[simp] theorem State.setPpart_life (s : State) (p : Nat) (v : PowerPart) : (s.setPpart p v).life = s.life := rfl
@[simp] theorem State.setPpart_jr (s : State) (p : Nat) (v : PowerPart) : (s.setPpart p v).jr = s.jr := rfl
@[simp] theorem State.setPpart_host (s : State) (p : Nat) (v : PowerPart) : (s.setPpart p v).host = s.host := rfl
@[simp] theorem State.setPpart_reg (s : State) (p : Nat) (v : PowerPart) : (s.setPpart p v).reg = s.reg := rfl
@[simp] theorem State.setPpart_mem (s : State) (p : Nat) (v : PowerPart) : (s.setPpart p v).mem = s.mem := rfl
@[simp] theorem State.setPpart_fm (s : State) (p : Nat) (v : PowerPart) : (s.setPpart p v).fm = s.fm := rfl
@[simp] theorem State.setPpart_adm (s : State) (p : Nat) (v : PowerPart) : (s.setPpart p v).adm = s.adm := rfl
@[simp] theorem State.setPpart_tick (s : State) (p : Nat) (v : PowerPart) : (s.setPpart p v).tick = s.tick := rfl
@[simp] theorem State.setPpart_cores (s : State) (p : Nat) (v : PowerPart) : (s.setPpart p v).cores = s.cores := rfl
@[simp] theorem State.setPpart_net (s : State) (p : Nat) (v : PowerPart) : (s.setPpart p v).net = s.net := rfl
@[simp] theorem State.setPpart_mnt (s : State) (p : Nat) (v : PowerPart) : (s.setPpart p v).mnt = s.mnt := rfl
@[simp] theorem State.setPpart_od (s : State) (p : Nat) (v : PowerPart) : (s.setPpart p v).od = s.od := rfl

@[simp] theorem State.setHbm_pending (s : State) (k : Nat) (b : Block) : (s.setHbm k b).pending = s.pending := rfl
@[simp] theorem State.setHbm_now (s : State) (k : Nat) (b : Block) : (s.setHbm k b).now = s.now := rfl
@[simp] theorem State.setHbm_free (s : State) (k : Nat) (b : Block) : (s.setHbm k b).free = s.free := rfl
@[simp] theorem State.setHbm_life (s : State) (k : Nat) (b : Block) : (s.setHbm k b).life = s.life := rfl
@[simp] theorem State.setHbm_jr (s : State) (k : Nat) (b : Block) : (s.setHbm k b).jr = s.jr := rfl
@[simp] theorem State.setHbm_host (s : State) (k : Nat) (b : Block) : (s.setHbm k b).host = s.host := rfl
@[simp] theorem State.setHbm_reg (s : State) (k : Nat) (b : Block) : (s.setHbm k b).reg = s.reg := rfl
@[simp] theorem State.setHbm_fm (s : State) (k : Nat) (b : Block) : (s.setHbm k b).fm = s.fm := rfl
@[simp] theorem State.setHbm_adm (s : State) (k : Nat) (b : Block) : (s.setHbm k b).adm = s.adm := rfl
@[simp] theorem State.setHbm_tick (s : State) (k : Nat) (b : Block) : (s.setHbm k b).tick = s.tick := rfl
@[simp] theorem State.setHbm_cores (s : State) (k : Nat) (b : Block) : (s.setHbm k b).cores = s.cores := rfl
@[simp] theorem State.setHbm_net (s : State) (k : Nat) (b : Block) : (s.setHbm k b).net = s.net := rfl
@[simp] theorem State.setHbm_pwr (s : State) (k : Nat) (b : Block) : (s.setHbm k b).pwr = s.pwr := rfl
@[simp] theorem State.setHbm_mnt (s : State) (k : Nat) (b : Block) : (s.setHbm k b).mnt = s.mnt := rfl
@[simp] theorem State.setHbm_od (s : State) (k : Nat) (b : Block) : (s.setHbm k b).od = s.od := rfl

@[simp] theorem State.setCm_pending (s : State) (cluster line : Nat) (b : Block) : (s.setCm cluster line b).pending = s.pending := rfl
@[simp] theorem State.setCm_now (s : State) (cluster line : Nat) (b : Block) : (s.setCm cluster line b).now = s.now := rfl
@[simp] theorem State.setCm_free (s : State) (cluster line : Nat) (b : Block) : (s.setCm cluster line b).free = s.free := rfl
@[simp] theorem State.setCm_life (s : State) (cluster line : Nat) (b : Block) : (s.setCm cluster line b).life = s.life := rfl
@[simp] theorem State.setCm_jr (s : State) (cluster line : Nat) (b : Block) : (s.setCm cluster line b).jr = s.jr := rfl
@[simp] theorem State.setCm_host (s : State) (cluster line : Nat) (b : Block) : (s.setCm cluster line b).host = s.host := rfl
@[simp] theorem State.setCm_reg (s : State) (cluster line : Nat) (b : Block) : (s.setCm cluster line b).reg = s.reg := rfl
@[simp] theorem State.setCm_fm (s : State) (cluster line : Nat) (b : Block) : (s.setCm cluster line b).fm = s.fm := rfl
@[simp] theorem State.setCm_adm (s : State) (cluster line : Nat) (b : Block) : (s.setCm cluster line b).adm = s.adm := rfl
@[simp] theorem State.setCm_tick (s : State) (cluster line : Nat) (b : Block) : (s.setCm cluster line b).tick = s.tick := rfl
@[simp] theorem State.setCm_cores (s : State) (cluster line : Nat) (b : Block) : (s.setCm cluster line b).cores = s.cores := rfl
@[simp] theorem State.setCm_net (s : State) (cluster line : Nat) (b : Block) : (s.setCm cluster line b).net = s.net := rfl
@[simp] theorem State.setCm_pwr (s : State) (cluster line : Nat) (b : Block) : (s.setCm cluster line b).pwr = s.pwr := rfl
@[simp] theorem State.setCm_mnt (s : State) (cluster line : Nat) (b : Block) : (s.setCm cluster line b).mnt = s.mnt := rfl
@[simp] theorem State.setCm_od (s : State) (cluster line : Nat) (b : Block) : (s.setCm cluster line b).od = s.od := rfl

@[simp] theorem State.setAs_pending (s : State) (core line : Nat) (b : Block) : (s.setAs core line b).pending = s.pending := rfl
@[simp] theorem State.setAs_now (s : State) (core line : Nat) (b : Block) : (s.setAs core line b).now = s.now := rfl
@[simp] theorem State.setAs_free (s : State) (core line : Nat) (b : Block) : (s.setAs core line b).free = s.free := rfl
@[simp] theorem State.setAs_life (s : State) (core line : Nat) (b : Block) : (s.setAs core line b).life = s.life := rfl
@[simp] theorem State.setAs_jr (s : State) (core line : Nat) (b : Block) : (s.setAs core line b).jr = s.jr := rfl
@[simp] theorem State.setAs_host (s : State) (core line : Nat) (b : Block) : (s.setAs core line b).host = s.host := rfl
@[simp] theorem State.setAs_reg (s : State) (core line : Nat) (b : Block) : (s.setAs core line b).reg = s.reg := rfl
@[simp] theorem State.setAs_fm (s : State) (core line : Nat) (b : Block) : (s.setAs core line b).fm = s.fm := rfl
@[simp] theorem State.setAs_adm (s : State) (core line : Nat) (b : Block) : (s.setAs core line b).adm = s.adm := rfl
@[simp] theorem State.setAs_tick (s : State) (core line : Nat) (b : Block) : (s.setAs core line b).tick = s.tick := rfl
@[simp] theorem State.setAs_cores (s : State) (core line : Nat) (b : Block) : (s.setAs core line b).cores = s.cores := rfl
@[simp] theorem State.setAs_net (s : State) (core line : Nat) (b : Block) : (s.setAs core line b).net = s.net := rfl
@[simp] theorem State.setAs_pwr (s : State) (core line : Nat) (b : Block) : (s.setAs core line b).pwr = s.pwr := rfl
@[simp] theorem State.setAs_mnt (s : State) (core line : Nat) (b : Block) : (s.setAs core line b).mnt = s.mnt := rfl
@[simp] theorem State.setAs_od (s : State) (core line : Nat) (b : Block) : (s.setAs core line b).od = s.od := rfl

@[simp] theorem State.setPte_pending (s : State) (r : PteRef) (v : Nat) : (s.setPte r v).pending = s.pending := by
  unfold State.setPte
  split <;> rfl
@[simp] theorem State.setPte_now (s : State) (r : PteRef) (v : Nat) : (s.setPte r v).now = s.now := by
  unfold State.setPte
  split <;> rfl
@[simp] theorem State.setPte_free (s : State) (r : PteRef) (v : Nat) : (s.setPte r v).free = s.free := by
  unfold State.setPte
  split <;> rfl
@[simp] theorem State.setPte_life (s : State) (r : PteRef) (v : Nat) : (s.setPte r v).life = s.life := by
  unfold State.setPte
  split <;> rfl
@[simp] theorem State.setPte_jr (s : State) (r : PteRef) (v : Nat) : (s.setPte r v).jr = s.jr := by
  unfold State.setPte
  split <;> rfl
@[simp] theorem State.setPte_host (s : State) (r : PteRef) (v : Nat) : (s.setPte r v).host = s.host := by
  unfold State.setPte
  split <;> rfl
@[simp] theorem State.setPte_reg (s : State) (r : PteRef) (v : Nat) : (s.setPte r v).reg = s.reg := by
  unfold State.setPte
  split <;> rfl
@[simp] theorem State.setPte_fm (s : State) (r : PteRef) (v : Nat) : (s.setPte r v).fm = s.fm := by
  unfold State.setPte
  split <;> rfl
@[simp] theorem State.setPte_adm (s : State) (r : PteRef) (v : Nat) : (s.setPte r v).adm = s.adm := by
  unfold State.setPte
  split <;> rfl
@[simp] theorem State.setPte_tick (s : State) (r : PteRef) (v : Nat) : (s.setPte r v).tick = s.tick := by
  unfold State.setPte
  split <;> rfl
@[simp] theorem State.setPte_cores (s : State) (r : PteRef) (v : Nat) : (s.setPte r v).cores = s.cores := by
  unfold State.setPte
  split <;> rfl
@[simp] theorem State.setPte_net (s : State) (r : PteRef) (v : Nat) : (s.setPte r v).net = s.net := by
  unfold State.setPte
  split <;> rfl
@[simp] theorem State.setPte_pwr (s : State) (r : PteRef) (v : Nat) : (s.setPte r v).pwr = s.pwr := by
  unfold State.setPte
  split <;> rfl
@[simp] theorem State.setPte_mnt (s : State) (r : PteRef) (v : Nat) : (s.setPte r v).mnt = s.mnt := by
  unfold State.setPte
  split <;> rfl
@[simp] theorem State.setPte_od (s : State) (r : PteRef) (v : Nat) : (s.setPte r v).od = s.od := by
  unfold State.setPte
  split <;> rfl

@[simp] theorem setRail_pending (r : Nat) (v : RailState) (s : State) : (setRail r v s).pending = s.pending := rfl
@[simp] theorem setRail_now (r : Nat) (v : RailState) (s : State) : (setRail r v s).now = s.now := rfl
@[simp] theorem setRail_free (r : Nat) (v : RailState) (s : State) : (setRail r v s).free = s.free := rfl
@[simp] theorem setRail_life (r : Nat) (v : RailState) (s : State) : (setRail r v s).life = s.life := rfl
@[simp] theorem setRail_jr (r : Nat) (v : RailState) (s : State) : (setRail r v s).jr = s.jr := rfl
@[simp] theorem setRail_host (r : Nat) (v : RailState) (s : State) : (setRail r v s).host = s.host := rfl
@[simp] theorem setRail_reg (r : Nat) (v : RailState) (s : State) : (setRail r v s).reg = s.reg := rfl
@[simp] theorem setRail_mem (r : Nat) (v : RailState) (s : State) : (setRail r v s).mem = s.mem := rfl
@[simp] theorem setRail_fm (r : Nat) (v : RailState) (s : State) : (setRail r v s).fm = s.fm := rfl
@[simp] theorem setRail_adm (r : Nat) (v : RailState) (s : State) : (setRail r v s).adm = s.adm := rfl
@[simp] theorem setRail_tick (r : Nat) (v : RailState) (s : State) : (setRail r v s).tick = s.tick := rfl
@[simp] theorem setRail_cores (r : Nat) (v : RailState) (s : State) : (setRail r v s).cores = s.cores := rfl
@[simp] theorem setRail_net (r : Nat) (v : RailState) (s : State) : (setRail r v s).net = s.net := rfl
@[simp] theorem setRail_mnt (r : Nat) (v : RailState) (s : State) : (setRail r v s).mnt = s.mnt := rfl
@[simp] theorem setRail_od (r : Nat) (v : RailState) (s : State) : (setRail r v s).od = s.od := rfl

@[simp] theorem setMacroSt_pending (pm v : Nat) (s : State) : (setMacroSt pm v s).pending = s.pending := rfl
@[simp] theorem setMacroSt_now (pm v : Nat) (s : State) : (setMacroSt pm v s).now = s.now := rfl
@[simp] theorem setMacroSt_free (pm v : Nat) (s : State) : (setMacroSt pm v s).free = s.free := rfl
@[simp] theorem setMacroSt_life (pm v : Nat) (s : State) : (setMacroSt pm v s).life = s.life := rfl
@[simp] theorem setMacroSt_jr (pm v : Nat) (s : State) : (setMacroSt pm v s).jr = s.jr := rfl
@[simp] theorem setMacroSt_host (pm v : Nat) (s : State) : (setMacroSt pm v s).host = s.host := rfl
@[simp] theorem setMacroSt_reg (pm v : Nat) (s : State) : (setMacroSt pm v s).reg = s.reg := rfl
@[simp] theorem setMacroSt_mem (pm v : Nat) (s : State) : (setMacroSt pm v s).mem = s.mem := rfl
@[simp] theorem setMacroSt_fm (pm v : Nat) (s : State) : (setMacroSt pm v s).fm = s.fm := rfl
@[simp] theorem setMacroSt_adm (pm v : Nat) (s : State) : (setMacroSt pm v s).adm = s.adm := rfl
@[simp] theorem setMacroSt_tick (pm v : Nat) (s : State) : (setMacroSt pm v s).tick = s.tick := rfl
@[simp] theorem setMacroSt_cores (pm v : Nat) (s : State) : (setMacroSt pm v s).cores = s.cores := rfl
@[simp] theorem setMacroSt_net (pm v : Nat) (s : State) : (setMacroSt pm v s).net = s.net := rfl
@[simp] theorem setMacroSt_pwr (pm v : Nat) (s : State) : (setMacroSt pm v s).pwr = s.pwr := rfl
@[simp] theorem setMacroSt_od (pm v : Nat) (s : State) : (setMacroSt pm v s).od = s.od := rfl

@[simp] theorem queueChange_pending (ch : MapChange) (committed : Bool) (s : State) : (queueChange ch committed s).pending = s.pending := rfl
@[simp] theorem queueChange_now (ch : MapChange) (committed : Bool) (s : State) : (queueChange ch committed s).now = s.now := rfl
@[simp] theorem queueChange_free (ch : MapChange) (committed : Bool) (s : State) : (queueChange ch committed s).free = s.free := rfl
@[simp] theorem queueChange_life (ch : MapChange) (committed : Bool) (s : State) : (queueChange ch committed s).life = s.life := rfl
@[simp] theorem queueChange_jr (ch : MapChange) (committed : Bool) (s : State) : (queueChange ch committed s).jr = s.jr := rfl
@[simp] theorem queueChange_host (ch : MapChange) (committed : Bool) (s : State) : (queueChange ch committed s).host = s.host := rfl
@[simp] theorem queueChange_reg (ch : MapChange) (committed : Bool) (s : State) : (queueChange ch committed s).reg = s.reg := rfl
@[simp] theorem queueChange_mem (ch : MapChange) (committed : Bool) (s : State) : (queueChange ch committed s).mem = s.mem := rfl
@[simp] theorem queueChange_fm (ch : MapChange) (committed : Bool) (s : State) : (queueChange ch committed s).fm = s.fm := rfl
@[simp] theorem queueChange_adm (ch : MapChange) (committed : Bool) (s : State) : (queueChange ch committed s).adm = s.adm := rfl
@[simp] theorem queueChange_tick (ch : MapChange) (committed : Bool) (s : State) : (queueChange ch committed s).tick = s.tick := rfl
@[simp] theorem queueChange_cores (ch : MapChange) (committed : Bool) (s : State) : (queueChange ch committed s).cores = s.cores := rfl
@[simp] theorem queueChange_net (ch : MapChange) (committed : Bool) (s : State) : (queueChange ch committed s).net = s.net := rfl
@[simp] theorem queueChange_pwr (ch : MapChange) (committed : Bool) (s : State) : (queueChange ch committed s).pwr = s.pwr := rfl
@[simp] theorem queueChange_od (ch : MapChange) (committed : Bool) (s : State) : (queueChange ch committed s).od = s.od := rfl

@[simp] theorem setExec_pending (e : Exec) (s : State) : (setExec e s).pending = s.pending := rfl
@[simp] theorem setExec_now (e : Exec) (s : State) : (setExec e s).now = s.now := rfl
@[simp] theorem setExec_free (e : Exec) (s : State) : (setExec e s).free = s.free := rfl
@[simp] theorem setExec_life (e : Exec) (s : State) : (setExec e s).life = s.life := rfl
@[simp] theorem setExec_jr (e : Exec) (s : State) : (setExec e s).jr = s.jr := rfl
@[simp] theorem setExec_host (e : Exec) (s : State) : (setExec e s).host = s.host := rfl
@[simp] theorem setExec_reg (e : Exec) (s : State) : (setExec e s).reg = s.reg := rfl
@[simp] theorem setExec_mem (e : Exec) (s : State) : (setExec e s).mem = s.mem := rfl
@[simp] theorem setExec_fm (e : Exec) (s : State) : (setExec e s).fm = s.fm := rfl
@[simp] theorem setExec_tick (e : Exec) (s : State) : (setExec e s).tick = s.tick := rfl
@[simp] theorem setExec_cores (e : Exec) (s : State) : (setExec e s).cores = s.cores := rfl
@[simp] theorem setExec_net (e : Exec) (s : State) : (setExec e s).net = s.net := rfl
@[simp] theorem setExec_pwr (e : Exec) (s : State) : (setExec e s).pwr = s.pwr := rfl
@[simp] theorem setExec_mnt (e : Exec) (s : State) : (setExec e s).mnt = s.mnt := rfl
@[simp] theorem setExec_od (e : Exec) (s : State) : (setExec e s).od = s.od := rfl

@[simp] theorem dropExec_pending (id : Nat) (s : State) : (dropExec id s).pending = s.pending := rfl
@[simp] theorem dropExec_now (id : Nat) (s : State) : (dropExec id s).now = s.now := rfl
@[simp] theorem dropExec_free (id : Nat) (s : State) : (dropExec id s).free = s.free := rfl
@[simp] theorem dropExec_life (id : Nat) (s : State) : (dropExec id s).life = s.life := rfl
@[simp] theorem dropExec_jr (id : Nat) (s : State) : (dropExec id s).jr = s.jr := rfl
@[simp] theorem dropExec_host (id : Nat) (s : State) : (dropExec id s).host = s.host := rfl
@[simp] theorem dropExec_reg (id : Nat) (s : State) : (dropExec id s).reg = s.reg := rfl
@[simp] theorem dropExec_mem (id : Nat) (s : State) : (dropExec id s).mem = s.mem := rfl
@[simp] theorem dropExec_fm (id : Nat) (s : State) : (dropExec id s).fm = s.fm := rfl
@[simp] theorem dropExec_tick (id : Nat) (s : State) : (dropExec id s).tick = s.tick := rfl
@[simp] theorem dropExec_cores (id : Nat) (s : State) : (dropExec id s).cores = s.cores := rfl
@[simp] theorem dropExec_net (id : Nat) (s : State) : (dropExec id s).net = s.net := rfl
@[simp] theorem dropExec_pwr (id : Nat) (s : State) : (dropExec id s).pwr = s.pwr := rfl
@[simp] theorem dropExec_mnt (id : Nat) (s : State) : (dropExec id s).mnt = s.mnt := rfl
@[simp] theorem dropExec_od (id : Nat) (s : State) : (dropExec id s).od = s.od := rfl

@[simp] theorem setRun_pending (core : Nat) (r : Run) (s : State) : (setRun core r s).pending = s.pending := rfl
@[simp] theorem setRun_now (core : Nat) (r : Run) (s : State) : (setRun core r s).now = s.now := rfl
@[simp] theorem setRun_free (core : Nat) (r : Run) (s : State) : (setRun core r s).free = s.free := rfl
@[simp] theorem setRun_life (core : Nat) (r : Run) (s : State) : (setRun core r s).life = s.life := rfl
@[simp] theorem setRun_jr (core : Nat) (r : Run) (s : State) : (setRun core r s).jr = s.jr := rfl
@[simp] theorem setRun_host (core : Nat) (r : Run) (s : State) : (setRun core r s).host = s.host := rfl
@[simp] theorem setRun_reg (core : Nat) (r : Run) (s : State) : (setRun core r s).reg = s.reg := rfl
@[simp] theorem setRun_mem (core : Nat) (r : Run) (s : State) : (setRun core r s).mem = s.mem := rfl
@[simp] theorem setRun_fm (core : Nat) (r : Run) (s : State) : (setRun core r s).fm = s.fm := rfl
@[simp] theorem setRun_adm (core : Nat) (r : Run) (s : State) : (setRun core r s).adm = s.adm := rfl
@[simp] theorem setRun_tick (core : Nat) (r : Run) (s : State) : (setRun core r s).tick = s.tick := rfl
@[simp] theorem setRun_net (core : Nat) (r : Run) (s : State) : (setRun core r s).net = s.net := rfl
@[simp] theorem setRun_pwr (core : Nat) (r : Run) (s : State) : (setRun core r s).pwr = s.pwr := rfl
@[simp] theorem setRun_mnt (core : Nat) (r : Run) (s : State) : (setRun core r s).mnt = s.mnt := rfl
@[simp] theorem setRun_od (core : Nat) (r : Run) (s : State) : (setRun core r s).od = s.od := rfl

@[simp] theorem advanceTo_pending (n : Nat) (s : State) : (advanceTo n s).pending = s.pending := rfl
@[simp] theorem advanceTo_now (n : Nat) (s : State) : (advanceTo n s).now = s.now := rfl
@[simp] theorem advanceTo_free (n : Nat) (s : State) : (advanceTo n s).free = s.free := rfl
@[simp] theorem advanceTo_life (n : Nat) (s : State) : (advanceTo n s).life = s.life := rfl
@[simp] theorem advanceTo_jr (n : Nat) (s : State) : (advanceTo n s).jr = s.jr := rfl
@[simp] theorem advanceTo_host (n : Nat) (s : State) : (advanceTo n s).host = s.host := rfl
@[simp] theorem advanceTo_reg (n : Nat) (s : State) : (advanceTo n s).reg = s.reg := rfl
@[simp] theorem advanceTo_mem (n : Nat) (s : State) : (advanceTo n s).mem = s.mem := rfl
@[simp] theorem advanceTo_fm (n : Nat) (s : State) : (advanceTo n s).fm = s.fm := rfl
@[simp] theorem advanceTo_adm (n : Nat) (s : State) : (advanceTo n s).adm = s.adm := rfl
@[simp] theorem advanceTo_cores (n : Nat) (s : State) : (advanceTo n s).cores = s.cores := rfl
@[simp] theorem advanceTo_net (n : Nat) (s : State) : (advanceTo n s).net = s.net := rfl
@[simp] theorem advanceTo_pwr (n : Nat) (s : State) : (advanceTo n s).pwr = s.pwr := rfl
@[simp] theorem advanceTo_mnt (n : Nat) (s : State) : (advanceTo n s).mnt = s.mnt := rfl
@[simp] theorem advanceTo_od (n : Nat) (s : State) : (advanceTo n s).od = s.od := rfl

@[simp] theorem advanceNow_pending (n : Nat) (s : State) : (advanceNow n s).pending = s.pending := rfl
@[simp] theorem advanceNow_free (n : Nat) (s : State) : (advanceNow n s).free = s.free := rfl
@[simp] theorem advanceNow_life (n : Nat) (s : State) : (advanceNow n s).life = s.life := rfl
@[simp] theorem advanceNow_jr (n : Nat) (s : State) : (advanceNow n s).jr = s.jr := rfl
@[simp] theorem advanceNow_host (n : Nat) (s : State) : (advanceNow n s).host = s.host := rfl
@[simp] theorem advanceNow_reg (n : Nat) (s : State) : (advanceNow n s).reg = s.reg := rfl
@[simp] theorem advanceNow_mem (n : Nat) (s : State) : (advanceNow n s).mem = s.mem := rfl
@[simp] theorem advanceNow_fm (n : Nat) (s : State) : (advanceNow n s).fm = s.fm := rfl
@[simp] theorem advanceNow_adm (n : Nat) (s : State) : (advanceNow n s).adm = s.adm := rfl
@[simp] theorem advanceNow_tick (n : Nat) (s : State) : (advanceNow n s).tick = s.tick := rfl
@[simp] theorem advanceNow_cores (n : Nat) (s : State) : (advanceNow n s).cores = s.cores := rfl
@[simp] theorem advanceNow_net (n : Nat) (s : State) : (advanceNow n s).net = s.net := rfl
@[simp] theorem advanceNow_pwr (n : Nat) (s : State) : (advanceNow n s).pwr = s.pwr := rfl
@[simp] theorem advanceNow_mnt (n : Nat) (s : State) : (advanceNow n s).mnt = s.mnt := rfl
@[simp] theorem advanceNow_od (n : Nat) (s : State) : (advanceNow n s).od = s.od := rfl

@[simp] theorem sendMsg_pending (m : OutMsg) (s : State) : (sendMsg m s).pending = s.pending := rfl
@[simp] theorem sendMsg_now (m : OutMsg) (s : State) : (sendMsg m s).now = s.now := rfl
@[simp] theorem sendMsg_free (m : OutMsg) (s : State) : (sendMsg m s).free = s.free := rfl
@[simp] theorem sendMsg_life (m : OutMsg) (s : State) : (sendMsg m s).life = s.life := rfl
@[simp] theorem sendMsg_jr (m : OutMsg) (s : State) : (sendMsg m s).jr = s.jr := rfl
@[simp] theorem sendMsg_reg (m : OutMsg) (s : State) : (sendMsg m s).reg = s.reg := rfl
@[simp] theorem sendMsg_mem (m : OutMsg) (s : State) : (sendMsg m s).mem = s.mem := rfl
@[simp] theorem sendMsg_fm (m : OutMsg) (s : State) : (sendMsg m s).fm = s.fm := rfl
@[simp] theorem sendMsg_adm (m : OutMsg) (s : State) : (sendMsg m s).adm = s.adm := rfl
@[simp] theorem sendMsg_tick (m : OutMsg) (s : State) : (sendMsg m s).tick = s.tick := rfl
@[simp] theorem sendMsg_cores (m : OutMsg) (s : State) : (sendMsg m s).cores = s.cores := rfl
@[simp] theorem sendMsg_net (m : OutMsg) (s : State) : (sendMsg m s).net = s.net := rfl
@[simp] theorem sendMsg_pwr (m : OutMsg) (s : State) : (sendMsg m s).pwr = s.pwr := rfl
@[simp] theorem sendMsg_mnt (m : OutMsg) (s : State) : (sendMsg m s).mnt = s.mnt := rfl
@[simp] theorem sendMsg_od (m : OutMsg) (s : State) : (sendMsg m s).od = s.od := rfl

@[simp] theorem complete_pending (c : Compl) (s : State) : (complete c s).pending = s.pending := rfl
@[simp] theorem complete_now (c : Compl) (s : State) : (complete c s).now = s.now := rfl
@[simp] theorem complete_free (c : Compl) (s : State) : (complete c s).free = s.free := rfl
@[simp] theorem complete_life (c : Compl) (s : State) : (complete c s).life = s.life := rfl
@[simp] theorem complete_jr (c : Compl) (s : State) : (complete c s).jr = s.jr := rfl
@[simp] theorem complete_reg (c : Compl) (s : State) : (complete c s).reg = s.reg := rfl
@[simp] theorem complete_mem (c : Compl) (s : State) : (complete c s).mem = s.mem := rfl
@[simp] theorem complete_fm (c : Compl) (s : State) : (complete c s).fm = s.fm := rfl
@[simp] theorem complete_adm (c : Compl) (s : State) : (complete c s).adm = s.adm := rfl
@[simp] theorem complete_tick (c : Compl) (s : State) : (complete c s).tick = s.tick := rfl
@[simp] theorem complete_cores (c : Compl) (s : State) : (complete c s).cores = s.cores := rfl
@[simp] theorem complete_net (c : Compl) (s : State) : (complete c s).net = s.net := rfl
@[simp] theorem complete_pwr (c : Compl) (s : State) : (complete c s).pwr = s.pwr := rfl
@[simp] theorem complete_mnt (c : Compl) (s : State) : (complete c s).mnt = s.mnt := rfl
@[simp] theorem complete_od (c : Compl) (s : State) : (complete c s).od = s.od := rfl

@[simp] theorem setSlot_pending (k : Nat) (v : FwSlot) (s : State) : (setSlot k v s).pending = s.pending := rfl
@[simp] theorem setSlot_now (k : Nat) (v : FwSlot) (s : State) : (setSlot k v s).now = s.now := rfl
@[simp] theorem setSlot_free (k : Nat) (v : FwSlot) (s : State) : (setSlot k v s).free = s.free := rfl
@[simp] theorem setSlot_jr (k : Nat) (v : FwSlot) (s : State) : (setSlot k v s).jr = s.jr := rfl
@[simp] theorem setSlot_host (k : Nat) (v : FwSlot) (s : State) : (setSlot k v s).host = s.host := rfl
@[simp] theorem setSlot_reg (k : Nat) (v : FwSlot) (s : State) : (setSlot k v s).reg = s.reg := rfl
@[simp] theorem setSlot_mem (k : Nat) (v : FwSlot) (s : State) : (setSlot k v s).mem = s.mem := rfl
@[simp] theorem setSlot_fm (k : Nat) (v : FwSlot) (s : State) : (setSlot k v s).fm = s.fm := rfl
@[simp] theorem setSlot_adm (k : Nat) (v : FwSlot) (s : State) : (setSlot k v s).adm = s.adm := rfl
@[simp] theorem setSlot_tick (k : Nat) (v : FwSlot) (s : State) : (setSlot k v s).tick = s.tick := rfl
@[simp] theorem setSlot_cores (k : Nat) (v : FwSlot) (s : State) : (setSlot k v s).cores = s.cores := rfl
@[simp] theorem setSlot_net (k : Nat) (v : FwSlot) (s : State) : (setSlot k v s).net = s.net := rfl
@[simp] theorem setSlot_pwr (k : Nat) (v : FwSlot) (s : State) : (setSlot k v s).pwr = s.pwr := rfl
@[simp] theorem setSlot_mnt (k : Nat) (v : FwSlot) (s : State) : (setSlot k v s).mnt = s.mnt := rfl
@[simp] theorem setSlot_od (k : Nat) (v : FwSlot) (s : State) : (setSlot k v s).od = s.od := rfl

/-! ## What the accessors read -/

@[simp] theorem macAt_setMac_self (s : State) (pm : Nat) (v : Mac) : (s.setMac pm v).macAt pm = v := by
  simp [State.macAt, State.setMac]

theorem macAt_setMac_ne (s : State) {pm k : Nat} (v : Mac) (h : k ≠ pm) : (s.setMac pm v).macAt k = s.macAt k := by
  simp [State.macAt, State.setMac, tget_tput_ne _ _ h]

@[simp] theorem core_setCore_self (s : State) (c : Nat) (v : Core) : (s.setCore c v).core c = v := by
  simp [State.core, State.setCore]

theorem core_setCore_ne (s : State) {c k : Nat} (v : Core) (h : k ≠ c) : (s.setCore c v).core k = s.core k := by
  simp [State.core, State.setCore, tgetD_tput_ne _ _ _ h]

@[simp] theorem frame_setFrame_self (s : State) (fn lf : Nat) (v : Frame) : (s.setFrame fn lf v).frame? fn lf = some v := by
  simp [State.frame?, State.setFrame]

@[simp] theorem macAt_setFrame (s : State) (fn lf : Nat) (v : Frame) (k : Nat) : (s.setFrame fn lf v).macAt k = s.macAt k := rfl

@[simp] theorem frame_setMac (s : State) (pm : Nat) (v : Mac) (fn lf : Nat) : (s.setMac pm v).frame? fn lf = s.frame? fn lf := rfl

@[simp] theorem part_setPart_self (s : State) (p : Nat) (v : Part) : (s.setPart p v).part p = v := by
  simp [State.part, State.setPart]

theorem part_setPart_ne (s : State) {p k : Nat} (v : Part) (h : k ≠ p) : (s.setPart p v).part k = s.part k := by
  simp [State.part, State.setPart, tgetD_tput_ne _ _ _ h]

@[simp] theorem gate_setGate_self (s : State) (g : Nat) (v : Gate) : (s.setGate g v).gate g = v := by
  simp [State.gate, State.setGate]

theorem gate_setGate_ne (s : State) {g k : Nat} (v : Gate) (h : k ≠ g) : (s.setGate g v).gate k = s.gate k := by
  simp [State.gate, State.setGate, tgetD_tput_ne _ _ _ h]

@[simp] theorem link_setLink_self (s : State) (l : Nat) (v : Link) : (s.setLink l v).link l = v := by
  simp [State.link, State.setLink]

theorem link_setLink_ne (s : State) {l k : Nat} (v : Link) (h : k ≠ l) : (s.setLink l v).link k = s.link k := by
  simp [State.link, State.setLink, tgetD_tput_ne _ _ _ h]

end Sys2Proof.Machine
end

