-- ==== Sys2Proof/WellFormed.lean ====
section
/-!
DEFINITION. Which commands are well formed: every unit, function, queue, register window and protocol field an operand
names exists in the module (Table 1-1), and every field fits its width. An ill-formed command names nothing the
interface of the module can carry.
-/

namespace Sys2Proof

/-! ## Checks of operands -/

/-- A function number (R298). -/
def fnOk (f : Nat) : Bool := f < Config.functions
/-- A queue pair of a function, 0-7 (R303). -/
def queueOk (q : Nat) : Bool := q < 8
/-- A queue of a function for coalescing: the eight pairs and the event queue. -/
def anyQueueOk (q : Nat) : Bool := q < 9
/-- A logical core. -/
def coreOk (c : Nat) : Bool := c < Config.cores
/-- A logical macro of a core. -/
def macOk (m : Nat) : Bool := m < Config.macrosPerCore
/-- A physical macro: core (die, cluster, core) and slot. -/
def physMacOk (m : Nat) : Bool := m < Config.dies * Config.physClusters * Config.physCores * Config.physMacros
def dieOk (d : Nat) : Bool := d < Config.dies
def partOk (p : Nat) : Bool := p < 16
def linkOk (l : Nat) : Bool := l < Config.links
/-- A lane of a link: four data lanes and one spare (R323). -/
def laneOk (l : Nat) : Bool := l < 5
def gateOk (g : Nat) : Bool := g < Config.gates
def vectorOk (v : Nat) : Bool := v < 32
def windowOk (w : Nat) : Bool := w < 16
def railOk (r : Nat) : Bool := r < 13
def aeOk (a : Nat) : Bool := a < 8
def rowOk (r : Nat) : Bool := r < 1024
def segOk (s : Nat) : Bool := s < 16
/-- A physical column of a macro row: 256 data, 16 spare, 8 reference. -/
def colOk (c : Nat) : Bool := c < 280
/-- A width of a register access in bits. -/
def widthOk (w : Nat) : Bool := w == 8 || w == 16 || w == 32 || w == 64
/-- The register apertures BAR0, BAR2 and BAR4, and an offset within one. -/
def barOk (b off : Nat) : Bool := (b == 0 || b == 2 || b == 4) && off < 2 ^ 28
/-- A firmware slot, or a key slot. -/
def slotOk (k : Nat) : Bool := k < 2
def eidOk (e : Nat) : Bool := e < 256
/-- A cluster-level line of the Descriptor Caches. -/
def lineOk (l : Nat) : Bool := l < 2 ^ 34
/-- A device virtual address: 48 bits. -/
def dvaOk (a : Nat) : Bool := a < 2 ^ 48
/-- A round of the PENNANT exchange. -/
def roundOk (r : Nat) : Bool := 1 ≤ r && r ≤ 3

/-! ## Checks of structured operands -/

/-- A write of host memory within the 64-bit address space. -/
def HostWrite.wf (w : HostWrite) : Bool := w.addr + w.bytes.length ≤ 2 ^ 64

def PlantFrame.wf (f : PlantFrame) : Bool :=
  f.version < 256 && f.flags < 256 && f.keyId < 256 && f.rsv < 256 && f.seq < 2 ^ 32

/-- Requesters of R459: a mailbox (four for the physical function, one for a virtual one), an endpoint, a MAC. -/
def Requester.wf : Requester → Bool
  | .bar2 fn m => fnOk fn && m < (if fn = 0 then 4 else 1)
  | .mctp e => eidOk e
  | .plant f => f.wf

/-- The fields of Table 15-2 fit their widths, and LENGTH bytes are carried. -/
def OdReq.wf (r : OdReq) : Bool :=
  r.who.wf && r.tag < 256 && r.index < 2 ^ 16 && r.sub < 256 && r.status < 256 && r.rsv < 2 ^ 16 && r.offset < 2 ^ 32 &&
  r.length < 2 ^ 32

def Deviation.wf (d : Deviation) : Bool := segOk d.seg && colOk d.col
def RowDeviation.wf (d : RowDeviation) : Bool := rowOk d.row && d.sect < 5
def CellFlip.wf (f : CellFlip) : Bool := rowOk f.row && colOk f.col
def SegEvidence.wf (e : SegEvidence) : Bool := segOk e.seg && e.diffs.all (fun d => d.1 < 4 && rowOk d.2.1 && colOk d.2.2)
def RecalPoint.wf (p : RecalPoint) : Bool := segOk p.seg && p.col < 600 && p.volts.length == (if p.col < 280 then 16 else 9)
def RecalMeas.wf (m : RecalMeas) : Bool := m.points.all RecalPoint.wf
/-- A record carries at most 16 data blocks. -/
def LinkRecord.wf (r : LinkRecord) : Bool := r.blocks.length ≤ 16
def TrainResult.wf (t : TrainResult) : Bool := t.peerModule < 64 && linkOk t.peerLink && t.propNs < 2 ^ 16

/-! ## Well-formed commands -/

/-- A command is well formed: each operand names something that exists. -/
def Instr.wf : Instr → Bool
  | .sqTail fn q _ width host => fnOk fn && queueOk q && widthOk width && host.all HostWrite.wf
  | .cqHead fn q _ width => fnOk fn && queueOk q && widthOk width
  | .eqHead fn _ width => fnOk fn && widthOk width
  | .submit fn q => fnOk fn && queueOk q
  | .flush fn q => fnOk fn && queueOk q
  | .gateArm fn q => fnOk fn && queueOk q
  | .gateArrive fn q => fnOk fn && queueOk q
  | .gateWait fn q => fnOk fn && queueOk q
  | .createQp fn q => fnOk fn && queueOk q
  | .deleteQp fn q => fnOk fn && queueOk q
  | .createEq fn q => fnOk fn && queueOk q
  | .alloc fn q => fnOk fn && queueOk q
  | .frameZeroing core mac => coreOk core && macOk mac
  | .free fn q => fnOk fn && queueOk q
  | .load fn q flips => fnOk fn && queueOk q && flips.all CellFlip.wf
  | .map fn q => fnOk fn && queueOk q
  | .unmap fn q => fnOk fn && queueOk q
  | .protect fn q => fnOk fn && queueOk q
  | .syncIn fn q => fnOk fn && queueOk q
  | .syncOut fn q => fnOk fn && queueOk q
  | .gateOwn fn q => fnOk fn && queueOk q
  | .fnReset fn q => fnOk fn && queueOk q
  | .coreReset fn q => fnOk fn && queueOk q
  | .clusterReset fn q => fnOk fn && queueOk q
  | .partitionReset fn q => fnOk fn && queueOk q
  | .partitionPark fn q => fnOk fn && queueOk q
  | .partitionResume fn q => fnOk fn && queueOk q
  | .regWrite fn bar off _ width => fnOk fn && barOk bar off && widthOk width
  | .mmuWinCfgWrite fn win _ _ => fnOk fn && windowOk win
  | .fmFnCfgWrite fn _ => fnOk fn
  | .fnPartCfgWrite fn part _ => fnOk fn && partOk part
  | .tickCfgWrite part _ => partOk part
  | .admBudgetCfgWrite _ => true
  | .gateOwnerWrite gate _ => gateOk gate
  | .partClWrite part _ _ _ => partOk part
  | .fnAqCfgWrite fn _ => fnOk fn
  | .csqCountClrStats core _ => coreOk core
  | .seConvClrStats core _ => coreOk core
  | .seCompClrStats core _ => coreOk core
  | .mmuFnClrStats fn _ => fnOk fn
  | .mntDieClrStats die _ => dieOk die
  | .msixUnmask fn vector => fnOk fn && vectorOk vector
  | .coalescingTimeout fn queue => fnOk fn && anyQueueOk queue
  | .vfEnable numVfs _ => fnOk numVfs
  | .functionLevelReset fn => fnOk fn
  | .hotReset => true
  | .read r => r.wf
  | .write r => r.wf
  | .segWrite r => r.wf
  | .segCommit r => r.wf
  | .segAbort r => r.wf
  | .describe r => r.wf
  | .list r => r.wf
  | .stagingExpiry who => who.wf
  | .setEndpointId eid => eidOk eid
  | .getEndpointId => true
  | .getMctpVersionSupport msgType => msgType < 256
  | .getMessageTypeSupport => true
  | .getVendorDefinedMessageSupport selector => selector < 256
  | .dynamicAddressAssignment addr => addr < 128
  | .release who _ => who.wf
  | .moduleReset who _ => who.wf
  | .standby who _ => who.wf
  | .wake who _ => who.wf
  | .factoryDefaults who _ => who.wf
  | .keyWrite who slot _ => who.wf && slotOk slot
  | .keyRevoke who _ => who.wf
  | .clearSaved who link _ => who.wf && linkOk link
  | .fleetSend who _ => who.wf
  | .pwrCapWrite who _ => who.wf
  | .setpointChange who _ => who.wf
  | .activate who _ => who.wf
  | .confirm who _ => who.wf
  | .download who slot offset _ => who.wf && slotOk slot && offset < 2 ^ 32
  | .verify who slot _ _ => who.wf && slotOk slot
  | .erase who slot _ => who.wf && slotOk slot
  | .clear who _ => who.wf
  | .request who _ => who.wf
  | .journalDataRecord => true
  | .journalCommitRecord => true
  | .objectStoreRewrite => true
  | .journalAppliedRecord => true
  | .journalBlockErase => true
  | .eventJournalCommit => true
  | .vauxUp => true
  | .vauxLost => true
  | .vinWithinLimits => true
  | .perstAssert => true
  | .perstDeassert _ => true
  | .pinSample slotId _ => slotId < 32
  | .pwrFail _ => true
  | .pwrFailCleared => true
  | .forceRecoveryAssert => true
  | .forceRecoveryHeld60s => true
  | .warmHoldExpiry => true
  | .s1BootVerify _ _ => true
  | .s2ConfigCheck _ _ => true
  | .s3RailsUp => true
  | .s4HbmTraining _ _ _ => true
  | .s5LinkTraining link res => linkOk link && res.wf
  | .s6CoreFirmware _ _ => true
  | .s7SelfTest bad cal =>
      bad.all (fun e => physMacOk e.1 && e.2.all SegEvidence.wf) && cal.all (fun e => physMacOk e.1 && e.2.wf)
  | .stageTimeout => true
  | .thermalTrip die _ => dieOk die
  | .thermalTripRelease _ => true
  | .pwrRailFault rail => railOk rail
  | .phaseRetire rail => railOk rail
  | .telemetryRead readings => readings.length ≤ 13
  | .powerGovernorLoop _ => true
  | .epochEnd _ => true
  | .sensorInvalid die _ => dieOk die
  | .droop die _ => dieOk die
  | .stretchRelease die => dieOk die
  | .powerStretch _ _ => true
  | .powerStretchRelease _ _ => true
  | .govParkRequest => true
  | .govResumeRequest => true
  | .refreshIntervalChange die _ => dieOk die
  | .refreshStatusUpdate die => dieOk die
  | .leadPoint part => partOk part
  | .waitTimeout part => partOk part
  | .pennantRound part round => partOk part && roundOk round
  | .pennantFinal part => partOk part
  | .tickBoundary part => partOk part
  | .windowEnd core fn => coreOk core && fnOk fn
  | .partitionStart part => partOk part
  | .aeTurn ae => aeOk ae
  | .executionPrepare fn part => fnOk fn && partOk part
  | .pageOut core flips => coreOk core && flips.all CellFlip.wf
  | .pageIn core flips => coreOk core && flips.all CellFlip.wf
  | .taskStart core => coreOk core
  | .stagingCopy core => coreOk core
  | .count core mac dev => coreOk core && macOk mac && dev.all Deviation.wf
  | .countRetry core mac dev => coreOk core && macOk mac && dev.all (fun d => rowOk d.seg && colOk d.col)
  | .fillerCount core mac rows dev => coreOk core && macOk mac && rows.all rowOk && dev.all Deviation.wf
  | .glideFiller core mac _ dev => coreOk core && macOk mac && dev.all Deviation.wf
  | .steeringSlot core dev => coreOk core && dev.all (fun d => macOk d.1 && d.2.wf)
  | .transposedCount core mac dev => coreOk core && macOk mac && dev.all RowDeviation.wf
  | .guardWindowEnd mac seg => physMacOk mac && segOk seg
  | .retryWindowEnd mac seg => physMacOk mac && segOk seg
  | .refreshSlot mac flips => physMacOk mac && flips.all CellFlip.wf
  | .urgentRefresh mac row flips => physMacOk mac && rowOk row && flips.all CellFlip.wf
  | .retentionLost mac row => physMacOk mac && rowOk row
  | .fullRowWrite core mac => coreOk core && macOk mac
  | .maskedRowWrite core mac flips => coreOk core && macOk mac && flips.all CellFlip.wf
  | .readBack core mac first second => coreOk core && macOk mac && first.all CellFlip.wf && second.all CellFlip.wf
  | .frameReadOut core flips => coreOk core && flips.all CellFlip.wf
  | .taskRetire core => coreOk core
  | .scaleRecordUpdate core => coreOk core
  | .hostFill fn dva _ => fnOk fn && dvaOk dva
  | .hostFillComplete fn dva failed => fnOk fn && dvaOk dva && failed.all (· < 256)
  | .rd core line => coreOk core && lineOk line
  | .own core line => coreOk core && lineOk line
  | .wb core line _ => coreOk core && lineOk line
  | .flitReceive link _ _ => linkOk link
  | .wr link rec => linkOk link && rec.wf
  | .rdReq link rec => linkOk link && rec.wf
  | .rdData link rec => linkOk link && rec.wf
  | .ack link rec => linkOk link && rec.wf
  | .arrive link rec => linkOk link && rec.wf
  | .recordForward link rec => linkOk link && rec.wf
  | .requestTimeout tag => tag < 2 ^ 16
  | .pennant link _ => linkOk link
  | .feature link _ => linkOk link
  | .syncReq link _ _ => linkOk link
  | .syncResp link _ => linkOk link
  | .syncInterval => true
  | .fleet link _ => linkOk link
  | .laneSwap link _ => linkOk link
  | .laneSwapSlot link => linkOk link
  | .announce link _ => linkOk link
  | .announceInterval => true
  | .featureResend part => partOk part
  | .linkstate link _ => linkOk link
  | .soakEnd link ber _ => linkOk link && ber.length ≤ 4
  | .berWindow link ber _ => linkOk link && ber.length ≤ 5
  | .laneLockLost link lane _ => linkOk link && laneOk lane
  | .linkRetry link res => linkOk link && res.wf
  | .lowpwrEntry link _ => linkOk link
  | .lowpwrWake link => linkOk link
  | .parentLinkFail => true
  | .holdoverTimeout => true
  | .maintenanceWindowStart die part => dieOk die && partOk part
  | .recalibration mac m => physMacOk mac && m.wf
  | .recalTrigger mac _ => physMacOk mac
  | .scrubPass mac flips dev rowDev =>
      physMacOk mac && flips.all CellFlip.wf && dev.all Deviation.wf && rowDev.all RowDeviation.wf
  | .scrubDeadline core => coreOk core
  | .calDeadline mac => physMacOk mac
  | .evacuationCopy mac flips => physMacOk mac && flips.all CellFlip.wf
  | .diagnosis mac ev => physMacOk mac && ev.all SegEvidence.wf
  | .spareMapCommit => true
  | .alertRelease => true
  | .tickRefclkRemoved => true
  | .lowHalfRead fn bar off => fnOk fn && barOk bar off

end Sys2Proof
end

