-- ==== Sys2Proof/Tests/Slice0.lean ====
section
/-!
SUPPORT. The model's own tests: the smoke test of WellFormed, the witness of each statement's hypotheses, and one-step tests whose
expected results are worked out by hand from the rules.
-/

namespace Sys2Proof.Tests
open Sys2Proof Sys2Proof.Machine
set_option Elab.async false

/-! ## Well-formed commands: each check refuses an ill-formed operand -/

/-- A Plant Port envelope of zeros. -/
def frame0 : PlantFrame :=
  { dstMac := 0, srcMac := 0, version := 0, flags := 0, keyId := 0, rsv := 0, seq := 0, tag := 0 }
/-- A training result of zeros, which fails. -/
def train0 : TrainResult :=
  { restoreOk := false, fullOk := false, secondOk := false, peerModule := 0, peerLink := 0, peerLevel := 0,
    peerLevelMin := 0, propNs := 0, equal := [] }
def img0 : ImageFacts := { sigOk := false, gen := 0, svn := 0, version := [], digest := 0 }
/-- A request of a management endpoint. -/
def req (index sub length offset : Nat) (data : List Byte) : OdReq :=
  { who := .mctp 8, tag := 1, index := index, sub := sub, status := 0, rsv := 0, offset := offset, length := length,
    data := data, img := img0 }

theorem test_wf_accepts : (Instr.submit 511 7).wf = true ∧ (Instr.rd 2047 0).wf = true ∧
    (Instr.read (req 0x1000 0 4 0 [])).wf = true := by decide
theorem test_wf_fn : (Instr.submit 512 0).wf = false := by decide
theorem test_wf_queue : (Instr.submit 0 8).wf = false := by decide
theorem test_wf_any_queue : (Instr.coalescingTimeout 0 9).wf = false := by decide
theorem test_wf_core : (Instr.taskStart 2048).wf = false := by decide
theorem test_wf_macro : (Instr.count 0 64 []).wf = false := by decide
theorem test_wf_phys_macro : (Instr.recalTrigger 152592 .age).wf = false := by decide
theorem test_wf_die : (Instr.droop 4 1).wf = false := by decide
theorem test_wf_part : (Instr.leadPoint 16).wf = false := by decide
theorem test_wf_link : (Instr.lowpwrWake 36).wf = false := by decide
theorem test_wf_lane : (Instr.laneLockLost 0 5 true).wf = false := by decide
theorem test_wf_gate : (Instr.gateOwnerWrite 16384 0).wf = false := by decide
theorem test_wf_vector : (Instr.msixUnmask 0 32).wf = false := by decide
theorem test_wf_window : (Instr.mmuWinCfgWrite 0 16 .whole 0).wf = false := by decide
theorem test_wf_rail : (Instr.phaseRetire 13).wf = false := by decide
theorem test_wf_ae : (Instr.aeTurn 8).wf = false := by decide
theorem test_wf_row : (Instr.retentionLost 0 1024).wf = false := by decide
theorem test_wf_segment : (Instr.guardWindowEnd 0 16).wf = false := by decide
theorem test_wf_column : (Instr.count 0 0 [{ seg := 0, col := 280, uv := 0 }]).wf = false := by decide
theorem test_wf_width : (Instr.eqHead 0 0 24).wf = false := by decide
theorem test_wf_bar : (Instr.regWrite 0 1 0 0 32).wf = false ∧ (Instr.lowHalfRead 0 0 (2 ^ 28)).wf = false := by decide
theorem test_wf_slot : (Instr.erase (.mctp 8) 2 [1]).wf = false := by decide
theorem test_wf_endpoint : (Instr.setEndpointId 256).wf = false := by decide
theorem test_wf_line : (Instr.rd 0 (2 ^ 34)).wf = false := by decide
theorem test_wf_dva : (Instr.hostFill 0 (2 ^ 48) false).wf = false := by decide
theorem test_wf_round : (Instr.pennantRound 0 0).wf = false ∧ (Instr.pennantRound 0 4).wf = false := by decide
theorem test_wf_host_write : (Instr.sqTail 0 0 0 32 [{ addr := 2 ^ 64 - 1, bytes := [0, 0] }]).wf = false := by decide
theorem test_wf_plant_frame : (Instr.stagingExpiry (.plant { frame0 with version := 256 })).wf = false := by decide
theorem test_wf_requester : (Instr.stagingExpiry (.bar2 1 1)).wf = false ∧ (Instr.stagingExpiry (.bar2 0 4)).wf = false := by decide
theorem test_wf_request : (Instr.read { req 0x1000 0 4 0 [] with index := 65536 }).wf = false := by decide
theorem test_wf_row_deviation : (Instr.transposedCount 0 0 [{ row := 0, sect := 5, uv := 0 }]).wf = false := by decide
theorem test_wf_cell_flip : (Instr.refreshSlot 0 [{ row := 1024, col := 0 }]).wf = false := by decide
theorem test_wf_evidence : (Instr.diagnosis 0 [{ seg := 0, diffs := [(4, 0, 0)] }]).wf = false := by decide
/-- A re-calibration that measured nothing. -/
def meas0 : RecalMeas := { points := [], wrote := true, elapsedMs := 0, dTemp := 0 }
theorem test_wf_recal : (Instr.recalibration 0 { meas0 with points := [{ seg := 0, col := 0, volts := [0] }] }).wf = false := by
  decide
theorem test_wf_record : (Instr.arrive 0 { header := 0, blocks := List.replicate 17 (0, 0) }).wf = false := by decide
theorem test_wf_train : (Instr.linkRetry 0 { train0 with peerModule := 64 }).wf = false := by decide
theorem test_wf_limits : (Instr.getMctpVersionSupport 256).wf = false ∧ (Instr.dynamicAddressAssignment 128).wf = false ∧
    (Instr.pinSample 32 false).wf = false ∧ (Instr.requestTimeout 65536).wf = false ∧
    (Instr.download (.mctp 8) 0 (2 ^ 32) []).wf = false ∧ (Instr.berWindow 0 [0, 0, 0, 0, 0, 0] 0).wf = false ∧
    (Instr.telemetryRead (List.replicate 14 none)).wf = false := by decide

/-! ## States for the witnesses -/

/-- The module in READY, with its supplies and rails up. -/
def up : State :=
  { State.reset with life := { Life.reset with state := .ready, vaux := true, vin := true, perst := false, stage := 8,
                                               passed := 8, rails := Rails.all } }
/-- A submission entry of an opcode with the given (offset, value) fields. -/
def ent (op : Nat) (fs : List (Nat × Nat)) : Nat := op + (fs.map (fun x => x.2 * 2 ^ (8 * x.1))).sum
/-- The command of the one entry of a pair. -/
def tk (fn q : Nat) : Ticket := { fn := fn, q := q, cid := 0, sqHead := 1 }
/-- A pair of 16 entries that has fetched one. -/
def pair1 (e : Nat) : QPair :=
  { QPair.new 0x1000 0x2000 4 4 0 0 0 with head := 1, tail := 1, open_ := 1, fetched := [{ bytes := leB e 64, sqHead := 1 }] }
/-- Entry e waits at the front of pair q of function fn. -/
def holds (fn q e : Nat) (s : State) : State :=
  { s with host := { s.host with qps := tput s.host.qps (qkey fn q) (pair1 e) } }

theorem test_decode_table_word : decodeTableWord 32 0 = none ∧ up.withFetchWord 32 0 = up := ⟨rfl, rfl⟩

/-! ## Witnesses: queues, doorbells, gates, submissions -/

theorem witness_StepRunsFrontCommand : ({ up with pending := [.hotReset, .vauxUp] } : State).pending = .hotReset :: [.vauxUp] := rfl
theorem witness_EmptyQueueLetsTimePass : up.pending = [] := rfl

/-- A pair of 16 entries at host address 0x1000, of function 0, pair 1. -/
def pair0 : QPair := QPair.new 0x1000 0x2000 4 4 0 0 0
def withPair (q : Nat) (p : QPair) (s : State) : State :=
  { s with host := { s.host with qps := tput s.host.qps (qkey 0 q) p } }
/-- The host has written a FLUSH into entry 0. -/
def ring1 : List HostWrite := [{ addr := 0x1000, bytes := leB (ent opFlush []) 64 }]

theorem witness_SqTailFetchesInRingOrder :
    let s := withPair 1 pair0 up
    s.fnEnabled 0 ∧ (1 : Nat) < 8 ∧ tget s.host.qps (qkey 0 1) = some pair0 ∧ pair0.full = false ∧ pair0.ready = [] ∧
    pair0.deleting = none ∧ pair0.head < 2 ^ pair0.sqLog2 ∧
    (operandFields (entOp (ofLE (hostRead (s.host.hostWrites ring1).mem (pair0.sqBase + 64 * pair0.head) 64)))).isSome := by
  decide +kernel
/-- The step on that state: one entry is fetched, and the head follows the tail. -/
theorem test_sqTail : ∃ t, exec (.sqTail 0 1 1 32 ring1) (withPair 1 pair0 up) = .next t ∧
    (tget t.host.qps (qkey 0 1)).map (fun p => (p.head, p.open_, p.fetched.length)) = some (1, 1, 1) :=
  ⟨_, rfl, by decide +kernel⟩

def events0 : EQueue := EQueue.new 0x8000 6 0 0 0
def withEvents (s : State) : State := { s with host := { s.host with eqs := [(0, events0)] } }
theorem witness_DoorbellsMoveTheHeadOrAreCounted :
    (up.fnEnabled 0 ∧ (15 : Word).toNat < 2 ^ pair0.cqLog2 ∧ tget (withPair 1 pair0 up).host.qps (qkey 0 1) = some pair0 ∧
      pair0.head = pair0.tail) ∧
    ((63 : Word).toNat < 2 ^ events0.log2 ∧ tget (withEvents up).host.eqs 0 = some events0) ∧
    (2 ^ pair0.sqLog2 ≤ (16 : Word).toNat ∧ 2 ^ events0.log2 ≤ (64 : Word).toNat) := by decide +kernel
theorem test_cqHead : ∃ t, exec (.cqHead 0 1 16 32) (withPair 1 pair0 up) = .next t ∧ tgetD t.host.dbErrors 0 0 = 1 :=
  ⟨_, rfl, by decide +kernel⟩
theorem test_eqHead : ∃ t, exec (.eqHead 0 63 32) (withEvents up) = .next t ∧ (tget t.host.eqs 0).map (·.head) = some 63 :=
  ⟨_, rfl, by decide +kernel⟩

def compl0 : Compl := Compl.mk' (tk 0 1) stOk
/-- A completion queue with 15 of its 16 entries unconsumed. -/
def pairFull : QPair := { pair0 with cqTail := 15 }
theorem witness_CompletionsAreWrittenOrHeld :
    tget (withPair 1 pair0 up).host.qps (qkey compl0.ticket.fn compl0.ticket.q) = some pair0 ∧ pair0.full = false ∧
    tget (withPair 1 pairFull up).host.qps (qkey compl0.ticket.fn compl0.ticket.q) = some pairFull ∧ pairFull.full = true := by
  decide +kernel
/-- The phase inverts at the wrap of the completion queue (R305). -/
theorem test_completion_wrap :
    (tget ((withPair 1 { pair0 with cqTail := 15, cqHead := 8 } up).host.complete compl0).qps (qkey 0 1)).map
      (fun p => (p.cqTail, p.cqPhase)) = some (0, false) := by decide +kernel

theorem witness_EntryChecksComeFirst :
    (queueCommand (.map 3 0) = some (3, 0, opMap) ∧ frontEntry 3 0 (holds 3 0 (ent opMap []) up) = some (ent opMap [], tk 3 0) ∧
      entryCheck 3 0 (ent opMap []) = some stDenied) ∧
    ((ent opFlush [(0x10, 1)]).testBit 128 ∧ (namedMask (entOp (ent opFlush [(0x10, 1)]))).testBit 128 = false) ∧
    (ent opCreateEq [] ||| namedMask opCreateEq = namedMask opCreateEq ∧ entOp (ent opCreateEq []) = opCreateEq) ∧
    (ent opMap [] ||| namedMask opMap = namedMask opMap ∧ entOp (ent opMap []) = opMap) := by decide +kernel
/-- A command of the physical function from another function is DENIED. -/
theorem test_entry_denied : ∃ t, exec (.map 3 0) (holds 3 0 (ent opMap []) up) = .next t ∧
    t.host = (completeSt (tk 3 0) stDenied (popEntry 3 0 (holds 3 0 (ent opMap []) up))).host := ⟨_, rfl, by decide +kernel⟩

/-- Entry e stands at the front of pair 0 of function 0. -/
abbrev at0 (e : Nat) : State := holds 0 0 e up
/-- CREATE_QP of pair 1 of 16 and 4,096 entries, and one of pair 0, which is beyond the limits. -/
def eCreateQp : Nat := ent opCreateQp [(0x08, 1), (0x0C, 4), (0x0D, 12), (0x10, 0x4000), (0x18, 0x5000)]
def eCreateQp0 : Nat := ent opCreateQp [(0x0C, 4), (0x0D, 4)]
def eCreateEq : Nat := ent opCreateEq [(0x0C, 16), (0x10, 0x4000)]
theorem front_createQp : Front opCreateQp 0 0 eCreateQp (tk 0 0) (at0 eCreateQp) :=
  ⟨by decide +kernel, by decide +kernel, by decide +kernel⟩
theorem front_createQp0 : Front opCreateQp 0 0 eCreateQp0 (tk 0 0) (at0 eCreateQp0) :=
  ⟨by decide +kernel, by decide +kernel, by decide +kernel⟩
theorem front_createEq : Front opCreateEq 0 0 eCreateEq (tk 0 0) (at0 eCreateEq) :=
  ⟨by decide +kernel, by decide +kernel, by decide +kernel⟩
theorem witness_QueuesAreCreatedWithinLimits :
    (entF eCreateQp 0x08 1 < qpairsMax (at0 eCreateQp) 0 ∧ tget (at0 eCreateQp).host.qps (qkey 0 1) = none) ∧
    ¬ 1 ≤ entF eCreateQp0 0x08 1 ∧ tget (at0 eCreateEq).host.eqs 0 = none := by decide +kernel
theorem test_createQp : ∃ t, exec (.createQp 0 0) (at0 eCreateQp) = .next t ∧
    tget t.host.qps (qkey 0 1) = some (QPair.new 0x4000 0x5000 4 12 0 0 0) := ⟨_, rfl, by decide +kernel⟩
theorem test_createEq : ∃ t, exec (.createEq 0 0) (at0 eCreateEq) = .next t ∧
    tget t.host.eqs 0 = some (EQueue.new 0x4000 16 0 0 0) := ⟨_, rfl, by decide +kernel⟩

def eDeleteQp : Nat := ent opDeleteQp [(0x08, 7)]
theorem front_deleteQp (p : QPair) : Front opDeleteQp 0 0 eDeleteQp (tk 0 0) (withPair 7 p (at0 eDeleteQp)) :=
  ⟨by rfl, by decide +kernel, by decide +kernel⟩
theorem witness_DeleteQpWaitsForItsCommands :
    tget (withPair 7 pair0 (at0 eDeleteQp)).host.qps (qkey 0 7) = some pair0 ∧
    tget (withPair 7 pair0 (at0 eDeleteQp)).host.qps (qkey 0 0) = some (pair1 eDeleteQp) ∧ pair0.open_ = 0 ∧
    (pair1 eDeleteQp).deleting = none ∧ pair0.ready = [] ∧ pair0.fetched = [] ∧ (pair1 eDeleteQp).ready = [] ∧
    (pair1 eDeleteQp).full = false ∧
    tget (withPair 7 { pair0 with open_ := 1 } (at0 eDeleteQp)).host.qps (qkey 0 7) = some { pair0 with open_ := 1 } := by
  decide +kernel
theorem test_deleteQp : ∃ t, exec (.deleteQp 0 0) (withPair 7 pair0 (at0 eDeleteQp)) = .next t ∧
    tget t.host.qps (qkey 0 7) = none := ⟨_, rfl, by decide +kernel⟩

/-- EN with depth codes 4 and 12. -/
def aqEn : Word := 0x53000000
theorem witness_PairZeroFromItsRegisters : up.serving ∧ aqEn.getLsbD 30 ∧ tget up.host.qps (qkey 0 0) = none ∧ up.fnExists 0 ∧
    bitsOf aqEn.toNat 29 26 = 4 ∧ bitsOf aqEn.toNat 25 22 = 12 ∧ tget (withPair 0 pair0 up).host.qps (qkey 0 0) ≠ none := by
  decide +kernel
theorem test_fnAqCfgWrite : ∃ t, exec (.fnAqCfgWrite 0 0x40000000) up = .next t ∧ (aqCfgOf t 0).getLsbD 31 ∧
    tget t.host.qps (qkey 0 0) = none := ⟨_, rfl, by decide +kernel⟩

/-- Vector 31 waits, and pair 1 has an entry not yet signalled. -/
def waitsMsix : State := { withPair 1 { pair0 with unsig := 1, vec := 31 } up with
  host := { (withPair 1 { pair0 with unsig := 1, vec := 31 } up).host with msixPend := [(0, 0x80000000)] } }
theorem witness_InterruptsAreSentOnce : waitsMsix.fnExists 0 ∧ (tgetD waitsMsix.host.msixPend 0 0).getLsbD 31 ∧
    tget waitsMsix.host.qps (qkey 0 1) = some { pair0 with unsig := 1, vec := 31 } := by decide +kernel
theorem test_msixUnmask : ∃ t, exec (.msixUnmask 0 31) waitsMsix = .next t ∧ t.host.out = [.msix 0 31] ∧
    tgetD t.host.msixPend 0 0 = 0 := ⟨_, rfl, by decide +kernel⟩
/-- A masked vector keeps its message pending. -/
theorem test_coalescingTimeout : ∃ t, exec (.coalescingTimeout 0 1) (withPair 1 { pair0 with unsig := 1 } up) = .next t ∧
    t.host.out = [] ∧ tgetD t.host.msixPend 0 0 = 1 := ⟨_, rfl, by decide +kernel⟩

/-! Gates -/

def eArm : Nat := ent opGateArm [(0x08, 16383), (0x0C, 1)]
def eArrive : Nat := ent opGateArrive [(0x08, 16383), (0x0C, 1)]
def eWait : Nat := ent opGateWait [(0x08, 16383)]
theorem front_gateArm : Front opGateArm 0 0 eArm (tk 0 0) (at0 eArm) := ⟨by decide +kernel, by decide +kernel, by decide +kernel⟩
theorem front_gateArrive : Front opGateArrive 0 0 eArrive (tk 0 0) (at0 eArrive) :=
  ⟨by decide +kernel, by decide +kernel, by decide +kernel⟩
theorem front_gateWait : Front opGateWait 0 0 eWait (tk 0 0) (at0 eWait) := ⟨by decide +kernel, by decide +kernel, by decide +kernel⟩
/-- Gate 16383 of function 0 (or 5) with a target of 2. -/
def gated (o e : Nat) : State := (at0 e).setGate 16383 { Gate.reset with target := 2, owner := o }
theorem witness_GateCommandsOfTheOwner :
    ((at0 eArm).gate 16383).owner = 0 ∧ entF eArm 0x0C 4 ≠ 0 ∧ 1 ≤ entF eArrive 0x0C 4 ∧ (gated 0 eArrive).gatePart 16383 = none ∧
    ((gated 0 eArrive).gate 16383).count + entF eArrive 0x0C 4 < ((gated 0 eArrive).gate 16383).target ∧
    ((gated 5 eWait).gate 16383).owner ≠ 0 := by decide +kernel
theorem test_gateArm : ∃ t, exec (.gateArm 0 0) (at0 eArm) = .next t ∧ (t.gate 16383).target = 1 := ⟨_, rfl, by decide +kernel⟩
theorem test_gateArrive : ∃ t, exec (.gateArrive 0 0) (gated 0 eArrive) = .next t ∧ (t.gate 16383).count = 1 :=
  ⟨_, rfl, by decide +kernel⟩
theorem test_gateWait : ∃ t, exec (.gateWait 0 0) (gated 0 eWait) = .next t ∧ (t.gate 16383).waiters = [tk 0 0] :=
  ⟨_, rfl, by decide +kernel⟩

def eOwn : Nat := ent opGateOwn [(0x04, 5), (0x08, 16383)]
theorem front_gateOwn : Front opGateOwn 0 0 eOwn (tk 0 0) (at0 eOwn) := ⟨by decide +kernel, by decide +kernel, by decide +kernel⟩
theorem witness_GateOwnerChanges : ((at0 eOwn).gate 16383).owner ≠ entFn eOwn ∧ (at0 eOwn).gateArmed 16383 = false ∧
    up.serving ∧ (up.gate 0).owner ≠ bitsOf (7 : Word).toNat 8 0 := by decide +kernel
theorem test_gateOwn : ∃ t, exec (.gateOwn 0 0) (at0 eOwn) = .next t ∧ (t.gate 16383).owner = 5 := ⟨_, rfl, by decide +kernel⟩
theorem test_gateOwnerWrite : ∃ t, exec (.gateOwnerWrite 0 7) up = .next t ∧ (t.gate 0).owner = 7 := ⟨_, rfl, by decide +kernel⟩

/-! Submissions -/

/-- Function 0 has a share of 256 in partition 15. -/
def shared (s : State) : State := { s with reg := { s.reg with fnPartCfg := [(15, 256)], fnPartEff := [(15, 256)] } }
def eSubmit : Nat := ent opSubmit [(0x08, 0x10000), (0x18, 15)]
theorem front_submit : Front opSubmit 0 0 eSubmit (tk 0 0) (shared (at0 eSubmit)) :=
  ⟨by decide +kernel, by decide +kernel, by decide +kernel⟩
/-- An engine with a submission before it. -/
def sub0 : Sub := { id := none, ticket := tk 3 0, graphVa := 0, part := 0, xs := [], startTick := none, phase := .check }
def ae0 : Ae := { Ae.reset with subs := [sub0] }
def withAe (s : State) : State := { s with adm := { s.adm with aes := s.adm.aes.set 0 ae0 } }
def eFlush : Nat := ent opFlush []
theorem front_flush : Front opFlush 0 0 eFlush (tk 0 0) (at0 eFlush) := ⟨by decide +kernel, by decide +kernel, by decide +kernel⟩
theorem witness_SubmissionsQueueAndFlushRemovesPlans :
    shareOf ((withAe (shared (at0 eSubmit))).fnPartEff 0 (entF eSubmit 0x18 1)) = 256 ∧
    (withAe (shared (at0 eSubmit))).adm.aes[0 % 8]? = some ae0 ∧ ae0.subs ≠ [] ∧
    shareOf ((at0 eSubmit).fnPartEff 0 (entF eSubmit 0x18 1)) = 0 := by decide +kernel
theorem test_submit : ∃ t, exec (.submit 0 0) (withAe (shared (at0 eSubmit))) = .next t ∧
    (t.adm.aes.map (fun a => a.subs.length)) = [2, 0, 0, 0, 0, 0, 0, 0] := ⟨_, rfl, by decide +kernel⟩
theorem test_flush : ∃ t, exec (.flush 0 0) (at0 eFlush) = .next t ∧ (tget t.host.qps (qkey 0 0)).map (·.open_) = some 0 :=
  ⟨_, rfl, by decide +kernel⟩
theorem witness_AdmissionEnginesServeRoundRobin : (withAe up).adm.aes[0]? = some ae0 ∧ ae0.subs ≠ [] := by decide +kernel
theorem test_aeTurn : ∃ t, exec (.aeTurn 0) (withAe up) = .next t ∧ (t.adm.aes[0]?).map (·.lastFn) = some 3 :=
  ⟨_, rfl, by decide +kernel⟩

/-! A clean-zero page holds the zero image of R289. -/

/-- The place that a DVA leads to is on a clean-zero page. -/
def zeroAt (f p dva : Nat) (s : State) : Bool :=
  match s.locate f p dva with
  | .hbm _ pte _ _ _ => pteZero pte
  | _ => false

theorem readBlk_zeroAt {f p c dva s} (h : zeroAt f p dva s = true) : readBlk f p c dva s = (Block.clean, s) := by
  unfold zeroAt at h; unfold readBlk
  split at h
  · next r => simp only [r]; rw [if_pos h]
  · simp at h

theorem blockBytes_clean : blockBytes Block.clean.data = List.replicate 256 0#8 := by
  simp only [blockBytes, List.eq_replicate_iff, List.length_map, List.length_range, List.mem_map, List.mem_range, true_and]
  rintro b ⟨i, _, rfl⟩
  simp [byteOf, Block.clean, Block.zero, Block.ofData]

theorem ofLE_zeros (n : Nat) : ofLE (List.replicate n 0#8) = 0 := by
  induction n with
  | zero => rfl
  | succ n ih => simp [List.replicate_succ, ofLE, ih]

theorem fieldLE_zeros (n o k : Nat) : fieldLE (List.replicate n 0#8) o k = 0 := by
  simp [fieldLE, List.drop_replicate, List.take_replicate, ofLE_zeros]

def hdr0 : PageHdr :=
  { layout := 0, wFmt := 0, density := 0, ext := 0, bibal := false, forceDense := false, bbk := 0, nnz := 0, rsv := false }
theorem parseHdr_zeros (n : Nat) : parseHdr (List.replicate n 0#8) = hdr0 := by
  have e : ((List.replicate n 0#8).drop 12 |>.take 52).any (fun b => b != 0) = false := by
    rw [List.drop_replicate, List.take_replicate, List.any_replicate]; split <;> rfl
  simp only [parseHdr, fieldLE_zeros, e]
  rfl

theorem nnzOf_zeros (n : Nat) : nnzOf 0 (List.replicate n 0) = 0 := by
  simp only [nnzOf, List.map_replicate, List.sum_replicate, smul_eq_mul, mul_eq_zero]
  right
  simp [weightOf]

theorem pageOfImage_zeros (n : Nat) : (pageOfImage hdr0 (List.replicate n 0#8) []).isSome := by
  have e : rowsOfBytes (List.replicate n 0#8) 1024 = List.replicate 1024 0 := by
    simp only [rowsOfBytes, fieldLE_zeros, List.map_const', List.length_range]
  have w : wFmtOk 0 = false := by decide
  have sp : sparseFmt 0 = false := by decide
  simp [-List.reduceReplicate, pageOfImage, hdr0, w, sp, e, nnzOf_zeros]

theorem foldBlk (f p va : Nat) (s : State) (b : Block) (hb : b.poison = false) (n : Nat)
    (h : ∀ i < n, readBlk f p none (va + 256 * i) s = (b, s)) :
    (List.range n).foldl (fun (acc : List (List Byte) × List Nat × State) i =>
      let (b, s) := readBlk f p none (va + 256 * i) acc.2.2
      (acc.1 ++ [blockBytes b.data], (if b.poison then acc.2.1 ++ [i] else acc.2.1), s))
      (([] : List (List Byte)), ([] : List Nat), s) = (List.replicate n (blockBytes b.data), [], s) := by
  induction n with
  | zero => rfl
  | succ n ih =>
    rw [List.range_succ, List.foldl_append, ih (fun i hi => h i (by omega))]
    simp [h n (by omega), hb, List.replicate_succ']

/-- The image of 32,768 bytes on a clean-zero page reads as a page, and reading it changes nothing. -/
theorem readPage_zeroAt (f p va : Nat) (s : State) (h0 : zeroAt f p (va - 256) s = true)
    (h : ∀ i < 128, zeroAt f p (va + 256 * i) s = true) : (readPage f p va s).1.isSome ∧ (readPage f p va s).2 = s := by
  obtain ⟨b, hb⟩ : ∃ b, b = Block.clean := ⟨_, rfl⟩
  have hq : b.poison = false := by rw [hb]; rfl
  have hp : parseHdr (blockBytes b.data) = hdr0 := by rw [hb, blockBytes_clean, parseHdr_zeros]
  have n128 : ceilDiv (imageLen hdr0) 256 = 128 := rfl
  obtain ⟨N, hN⟩ : ∃ N, ∀ n, (List.replicate n (blockBytes b.data)).flatten = List.replicate (n * N) 0#8 :=
    ⟨256, fun n => by rw [hb, blockBytes_clean, List.flatten_replicate_replicate]⟩
  have r : ∀ dva, zeroAt f p dva s = true → readBlk f p none dva s = (b, s) := fun dva k => by rw [hb]; exact readBlk_zeroAt k
  have e : readPage f p va s = (pageOfImage hdr0 (List.replicate (128 * N) 0#8) [], s) := by
    unfold readPage
    rw [r _ h0]
    simp only [hp, hq, Bool.false_eq_true, if_false, n128, foldBlk f p va s b hq 128 (fun i hi => r _ (h i hi)), hN]
  have k := pageOfImage_zeros (128 * N)
  generalize pageOfImage hdr0 (List.replicate (128 * N) 0#8) [] = o at e k
  rw [e]
  exact ⟨k, Eq.refl s⟩

/-! ## Witnesses: plans, registers, frames, memory -/

/-- A task of zeros with a Format Record of zeros. -/
def task0 : Task := parseTask 0 0 0 (parseFormat 0 0)
def gd0 : GraphD := parseGraph 0
def adm0 : AdmCtx :=
  { fn := 0, part := 15, gd := gd0, stages := [], targets := [], edges := [], tasks := [], pairs := [], dense := [], costs := [],
    window := 10 }
theorem witness_SchedulesRespectBudgetAndPrecedence : schedule up adm0 [] 1 [] = .ok [] := rfl

theorem witness_StepKeepsMemoryCanonical : State.reset.memWf ∧ step State.reset = .next (passTime State.reset) :=
  ⟨by decide +kernel, rfl⟩
theorem witness_StepKeepsLifeCycleRules : State.reset.life.ok ∧ up.life.ok :=
  ⟨⟨by decide, by decide, by decide, by decide, by decide⟩, ⟨by decide, by decide, by decide, by decide, by decide⟩⟩

/-- Partition 15 holds cluster 127 and runs a tick. -/
def runs (s : State) : State :=
  ({ s with reg := { s.reg with partClHi := [(15, 0x8000000000000000)] } }).setPart 15 { Part.reset with state := .running }
theorem witness_PartitionSharesAreChecked :
    up.serving ∧ 256 < shareOf (257 : Word).toNat ∧
    (¬ 256 < shareOf (256 : Word).toNat ∧ tilesOf (256 : Word).toNat = 0 ∧ up.partSum 511 15 shareOf = 0) ∧
    (runs up).partTicks 15 ∧ up.partTicks 15 = false ∧ up.partRunning 15 = false ∧ up.reg.partPend = [] := by decide +kernel
theorem test_fnPartCfgWrite : ∃ t, exec (.fnPartCfgWrite 511 15 256) up = .next t ∧ shareOf (t.fnPartEff 511 15) = 256 :=
  ⟨_, rfl, by decide +kernel⟩
theorem test_fnPartCfgWrite_refused : ∃ t, exec (.fnPartCfgWrite 511 15 257) up = .next t ∧ t.fnPart 511 15 = 2 ^ 31 :=
  ⟨_, rfl, by decide +kernel⟩

theorem witness_TickAndBudgetWritesFlushPlans : up.serving ∧ bitsOf (1000 + 100 * 1024 : Word).toNat 9 0 = 1000 ∧
    bitsOf (1000 + 100 * 1024 : Word).toNat 17 10 = 100 := by decide +kernel
/-- A period of 7 is out of range: it keeps its value and CFG_REJ is set (R258). -/
theorem test_tickCfgWrite : ∃ t, exec (.tickCfgWrite 15 (7 + 100 * 1024)) up = .next t ∧ periodOf (t.tickCfg 15) = 0x20 ∧
    mwinOf (t.tickCfg 15) = 100 ∧ bitOf (t.tickCfg 15) 31 := ⟨_, rfl, by decide +kernel⟩
theorem test_admBudgetCfgWrite : ∃ t, exec (.admBudgetCfgWrite 0xFFFF) up = .next t ∧ t.rr = 65535 := ⟨_, rfl, by decide +kernel⟩

theorem witness_ClusterAssignmentIsExclusive :
    up.serving ∧ (runs up).partHas 15 127 ∧ (0x8000000000000000 : Dword).getLsbD 63 ∧
    (∀ q < 16, q ≠ 0 → ∀ i < 64, (1 : Dword).getLsbD i → up.partHas q i = false) ∧ up.partFns 0 = [] ∧ up.reg.fnPartCfg = [] ∧
    up.life.state.resets := by decide +kernel
theorem test_partClWrite : ∃ t, exec (.partClWrite 0 true .whole 0x8000000000000001) (runs up) = .next t ∧
    t.partHas 0 127 = false ∧ t.partHas 0 64 = false ∧ (tgetD t.reg.partCtl 0 0).getLsbD 31 := ⟨_, rfl, by decide +kernel⟩

/-- Window 0 of function 0 holds the first 2 MiB, with HOST_OK. -/
def win0 : Dword := BitVec.ofNat 64 (2 ^ 63 + 2 ^ 50 + 2 ^ 27)
def withWin (s : State) : State := { s with reg := { s.reg with mmuWin := [(0, win0)] } }
theorem witness_QuotasAndWindowsAreChecked :
    up.serving ∧ pageSlotsOf (64 : Word).toNat = 0 ∧
    (pageSlotsOf (0x04000040 : Word).toNat = 4 ∧ framesOf (0x04000040 : Word).toNat = 64 ∧ up.fnParts 511 = [] ∧ up.fm.frames = []) ∧
    winRefused up 511 15 (winMask 0x8000000000000000) ∧
    winEn (winMask win0.toNat) ∧ winEn (up.winCfg 511 15) = false ∧ winRefused up 511 15 (winMask win0.toNat) = false := by
  decide +kernel
theorem test_fmFnCfgWrite : ∃ t, exec (.fmFnCfgWrite 511 0x04000040) up = .next t ∧ framesOf (t.fmCfg 511) = 64 :=
  ⟨_, rfl, by decide +kernel⟩
theorem test_mmuWinCfgWrite : ∃ t, exec (.mmuWinCfgWrite 511 15 .whole win0) up = .next t ∧ t.winCfg 511 15 = win0.toNat :=
  ⟨_, rfl, by decide +kernel⟩

theorem witness_StatisticsAreCleared : up.serving ∧ (1 : Word).getLsbD 0 ∧ bitsOf (0x2000 : Word).toNat 13 8 = 32 := by decide +kernel
theorem test_csqCountClrStats : ∃ t, exec (.csqCountClrStats 2047 0xFFFFFFFF)
    { up with reg := { up.reg with countStat := [(0, 5), (2047, 6)] } } = .next t ∧ t.readReg (.countStat 2047) = 0 ∧
    t.readReg (.countStat 0) = 5 ∧ t.readReg (.countCfg 2047) = 0x0FFFFF00 := ⟨_, rfl, by decide +kernel⟩
theorem test_mntDieClrStats : ∃ t, exec (.mntDieClrStats 3 1)
    { up with reg := { up.reg with mntDieStat := [(3, 0x100000007)] } } = .next t ∧ tgetD t.reg.mntDieStat 3 0 = 0x100000000 :=
  ⟨_, rfl, by decide +kernel⟩

theorem witness_RegisterWritesFollowTheMap :
    up.serving ∧ up.fnExists 0 ∧ regAt 0 0x3FFFFC = none ∧ regAt 0 0x101000 = some (.fnId 1, 4, 0x101000, true) ∧
    regAt 0 0x300F00 = some (.tickCfg 15, 4, 0x300F00, false) ∧
    regAt 0 0x300F08 = some (.partCl 15 false, 8, 0x300F08, false) ∧
    regAt 0 0x300F0C = some (.partCl 15 false, 8, 0x300F08, false) := by decide +kernel
/-- The low half of a 64-bit register is held until its high half comes (R485). -/
theorem test_regWrite : ∃ t, exec (.regWrite 0 0 0x300F08 1 32) up = .next t ∧ t.partHas 15 0 = false ∧
    ∃ u, exec (.regWrite 0 0 0x300F0C 2 32) t = .next u ∧ u.partHas 15 0 ∧ u.partHas 15 33 := ⟨_, rfl, by decide +kernel, _, rfl, by decide +kernel⟩

/-! Frames -/

/-- Partition 15 runs on cluster 127, and function 0 has a share of it and a quota of 64 frames. -/
def served (s : State) : State :=
  { runs (shared s) with reg := { (runs (shared s)).reg with fmFnCfg := [(0, 0x04000040)] } }
def eAlloc : Nat := ent opAlloc [(0x08, 2047), (0x0C, 2 ^ 21 - 2), (0x10, 2)]
theorem front_alloc : Front opAlloc 0 0 eAlloc (tk 0 0) (served (at0 eAlloc)) :=
  ⟨by decide +kernel, by decide +kernel, by decide +kernel⟩
/-- Frame lf of function 0 holds logical macro m of core 2047. -/
def framed (lf : Nat) (f : Frame) (s : State) : State := s.setFrame 0 lf f
def zeroing : Frame := Frame.new .zeroing 2047 (some 63) 0
def held : Frame := Frame.new .resident 2047 (some 63) 0
theorem witness_AllocatedFramesAreZeroed :
    (entF eAlloc 0x18 8 = 0 ∧ entF eAlloc 0x10 4 ≠ 0 ∧ entF eAlloc 0x0C 4 % 2 ^ 21 + entF eAlloc 0x10 4 ≤ 2 ^ 21 ∧
      (served (at0 eAlloc)).fnHasCore 0 2047 ∧ (∀ i < 2, (served (at0 eAlloc)).frame? 0 (2 ^ 21 - 2 + i) = none) ∧
      (served (at0 eAlloc)).unbacked 0 2047 + 2 ≤ framesOf ((served (at0 eAlloc)).fmCfg 0) ∧
      (served (at0 eAlloc)).freeWaits 0 (2 ^ 21 - 2) 2 = false ∧ 2 ≤ ((served (at0 eAlloc)).freeMacs 2047).length) ∧
    (framed 7 zeroing up).fm.waits = [] ∧
    (framed 7 zeroing up).fm.frames.find? (fun x => x.2.core = 2047 ∧ x.2.mac = some 63 ∧ x.2.state = .zeroing) =
      some (fkey 0 7, zeroing) ∧ (framed 7 zeroing up).fenced ((framed 7 zeroing up).physMac 2047 63) = false := by decide +kernel
theorem test_alloc : ∃ t, exec (.alloc 0 0) (served (at0 eAlloc)) = .next t ∧
    (t.frame? 0 (2 ^ 21 - 1)).map (fun f => (f.state, f.mac)) = some (.zeroing, some 1) := ⟨_, rfl, by decide +kernel⟩
theorem test_frameZeroing : ∃ t, exec (.frameZeroing 2047 63) (framed 7 zeroing up) = .next t ∧
    (t.frame? 0 7).map (·.state) = some .empty := ⟨_, rfl, by decide +kernel⟩

def eFree : Nat := ent opFree [(0x0C, 7), (0x10, 1)]
theorem front_free (f : Frame) : Front opFree 0 0 eFree (tk 0 0) (framed 7 f (at0 eFree)) :=
  ⟨by rfl, by decide +kernel, by decide +kernel⟩
theorem witness_FreeReleasesFrames : (framed 7 zeroing (at0 eFree)).fm.waits = [] ∧
    (framed 7 zeroing (at0 eFree)).frame? 0 7 = some zeroing ∧ zeroing.state = .zeroing ∧
    (framed 7 held (at0 eFree)).frame? 0 7 = some held ∧ held.state ≠ .zeroing ∧ (framed 7 held (at0 eFree)).fm.waits = [] ∧
    (framed 7 held (at0 eFree)).namedRunning 0 7 = false := by decide +kernel
theorem test_free : ∃ t, exec (.free 0 0) (framed 7 held (at0 eFree)) = .next t ∧ t.fm.frames = [] := ⟨_, rfl, by decide +kernel⟩
/-- FREE waits for the zeroing of an ALLOC before it (R289). -/
theorem test_free_waits : ∃ t, exec (.free 0 0) (framed 7 zeroing (at0 eFree)) = .next t ∧ t.fm.waits = [.free (tk 0 0) 0 7 1] :=
  ⟨_, rfl, by decide +kernel⟩

/-- The window maps one clean-zero page of 2 MiB. -/
def mapped (s : State) : State := { withWin s with mem := { s.mem with dir := [(dirKey 0 0 0, 0x25)] } }
def eLoad : Nat := ent opLoad [(0x0C, 7), (0x18, 256)]
def eLoadOut : Nat := ent opLoad [(0x0C, 7), (0x18, 0x200100)]
def evicted : Frame := Frame.new .evicted 2047 none 0x10000
/-- Frame 7 and the entry of a LOAD; the entry taken off. -/
def loads (f : Frame) (e : Nat) : State := framed 7 f (mapped (at0 e))
def loaded (f : Frame) (e : Nat) : State := popEntry 0 0 (loads f e)
theorem front_load (e : Nat) (h : e = eLoad ∨ e = eLoadOut) : Front opLoad 0 0 e (tk 0 0) (loads held e) := by
  rcases h with rfl | rfl <;> exact ⟨by decide +kernel, by decide +kernel, by decide +kernel⟩
theorem witness_LoadReplacesAPage : (at0 eLoad).frame? 0 7 = none ∧ (loads held eLoad).frame? 0 7 = some held ∧
    (loaded held eLoadOut).loadInWindow 0 0x200100 = false ∧ evicted.state = .evicted ∧ held.mac = some 63 ∧ isHeld held.state ∧
    held.shadow = none ∧ held.companion = none ∧ (loaded held eLoad).namedRunning 0 7 = false ∧
    (loaded held eLoad).namedQueued 0 7 = false ∧ (loads held eLoad).pagingOf 0 7 = false ∧
    (loads held eLoad).swapPending 0 7 = false ∧ (loads held eLoad).freeWaits 0 7 1 = false ∧ (loaded held eLoad).evacPending 2047 63 = false ∧
    (loaded held eLoad).fenced ((loaded held eLoad).physMac 2047 63) = false := by decide +kernel
theorem witness_LoadReplacesAPage_window : (loaded held eLoad).loadInWindow 0 256 := by decide +kernel
/-- The window maps its first 64 KiB to host memory at 0x10000, whose first block is poisoned. -/
def poisoned (s : State) : State :=
  { withWin s with
    mem := { s.mem with dir := [(dirKey 0 0 0, 7)], leaf := [(leafKey (dirKey 0 0 0) 0, BitVec.ofNat 128 (13 + 2 ^ 80))] }
    host := { s.host with memPoison := [0x100] } }
theorem witness_LoadReplacesAPage_unreadable : (readPage 0 0 256 (poisoned up)).1 = none ∧ (poisoned up).loadInWindow 0 256 := by
  decide +kernel
theorem witness_LoadReplacesAPage_page : (readPage 0 0 256 (loaded held eLoad)).1.isSome ∧
    (readPage 0 0 256 (loaded held eLoad)).2 = loaded held eLoad :=
  readPage_zeroAt 0 0 256 _ (by decide +kernel) (by decide +kernel)
/-- An image address that is not a multiple of 256 is INVALID. -/
theorem test_load : ∃ t, exec (.load 0 0 []) (framed 7 held (mapped (at0 (ent opLoad [(0x0C, 7), (0x18, 257)])))) = .next t ∧
    t.fm.frames = (loads held eLoad).fm.frames ∧ (tget t.host.qps (qkey 0 0)).map (·.cqTail) = some 1 := ⟨_, rfl, by decide +kernel⟩

/-! ## Witnesses: executions, paging, translation, resets, ticks -/

/-- A plan of one task on core 2047, and an execution of it by function 0 in partition 15. -/
def key0 : PlanKey :=
  { fn := 0, graphVa := 0, tag := 0, buckets := [], level := 4, part := 15, period := 0x20, mwin := 0x14, rr := 0x20, share := 256 }
def planOf (t : Task) : Plan :=
  { key := key0, tasks := [t], edges := [], stages := [{ core := 2047, asKib := 0, cmKib := 0 }], gateBase := 0, targets := [],
    placed := [{ id := 0, stage := 0, tick := 0, cost := 1, bEff := 1, work := [] }], length := 2, trips := [[1, 1, 1, 1, 1, 1]], frames := [],
    swaps := [], noCache := false, thresh := 100, ext := [], startedAt := 0 }
def execOf (ph : ExecPhase) (p : Plan) : Exec :=
  { id := 1, ticket := tk 0 1, plan := p, xs := [], startTick := none, admitted := 0, phase := ph, planTick := 0, tick0 := 0,
    heldCnt := 0, poisoned := 0, retired := [], committed := [], waitHeld := 0, swapsDue := [] }
def withExec (e : Exec) (s : State) : State := { s with adm := { s.adm with execs := [e] } }
/-- A plan that counts frame 7 as sparse. -/
def stalePlan : Plan := { planOf task0 with frames := [(7, 2047, true, 8)] }
theorem witness_ExecutionsArePrepared :
    (withExec (execOf .queued stalePlan) (framed 7 held up)).nextExec 0 15 = some (execOf .queued stalePlan) ∧
    planStale (framed 7 held up) 0 stalePlan ∧
    (withExec (execOf .queued (planOf task0)) up).nextExec 0 15 = some (execOf .queued (planOf task0)) ∧
    planStale up 0 (planOf task0) = false ∧ (planOf task0).swaps = [] ∧ (planOf task0).frames = [] := by decide +kernel
/-- A plan that counts frame 7 as dense and swaps it; the frame with its shadow. -/
def swapPlan : Plan := { planOf task0 with frames := [(7, 2047, false, 8)], swaps := [7] }
def shadowed : Frame :=
  { held with shadow := some { mac := 62, compMac := none, state := .writing, sparse := false, host := false, hdr := [], left := [],
                               compLeft := [], ticket := none } }
theorem witness_ExecutionsArePrepared_swap :
    let s := withExec (execOf .queued swapPlan) (framed 7 shadowed up)
    s.nextExec 0 15 = some (execOf .queued swapPlan) ∧ planStale s 0 swapPlan = false ∧ s.frame? 0 7 = some shadowed ∧
    isHeld shadowed.state ∧ (shadowed.macFor false).isSome ∧ shadowed.companion = none := by decide +kernel
theorem test_executionPrepare : ∃ t, exec (.executionPrepare 0 15) (withExec (execOf .queued (planOf task0)) up) = .next t ∧
    t.adm.execs.map (·.phase) = [.prepared] := ⟨_, rfl, by decide +kernel⟩

/-- Core 2047 pages frame 7 out, or in. -/
def out7 : Paging := { fn := 0, frame := 7, out := true, sparse := false }
def in7 : Paging := { fn := 0, frame := 7, out := false, sparse := false }
def pages (p : Paging) (f : Frame) : State :=
  let s := framed 7 f (mapped up)
  { s with fm := { s.fm with paging := [(2047, [p])] } }
def dirty7 : Frame := { held with backVa := 0x10000, dirty := true }
theorem witness_PageOutReleasesTheVictim :
    (tgetD (pages out7 dirty7).fm.paging 2047 []).find? (fun x => x.out) = some out7 ∧ (pages out7 dirty7).frame? 0 7 = some dirty7 ∧
    (pages out7 dirty7).frameFenced 0 7 = false ∧ dirty7.dirty ∧ (pages out7 dirty7).imageOk 0 dirty7.backVa 33024 ∧
    dirty7.source = some (63, false) ∧ held.dirty = false ∧ (pages out7 held).adm.execs = [] := by decide +kernel
theorem test_pageOut : ∃ t, exec (.pageOut 2047 []) (pages out7 held) = .next t ∧
    (t.frame? 0 7).map (fun f => (f.state, f.mac)) = some (.evicted, none) := ⟨_, rfl, by decide +kernel⟩
def back7 : Frame := { held with state := .loading, backVa := 0x10000 }
theorem witness_PageInTakesTheImage :
    (tgetD (pages in7 back7).fm.paging 2047 []).find? (fun x => !x.out) = some in7 ∧ (pages in7 back7).frame? 0 7 = some back7 ∧
    back7.mac = some 63 ∧ (pages in7 back7).frameFenced 0 7 = false ∧ (pages in7 back7).adm.execs = [] ∧
    (pages in7 back7).rangeOk 0 0 back7.backVa 33024 false ∧ up.rangeOk 0 0 back7.backVa 33024 false = false := by decide +kernel
theorem witness_PageInTakesTheImage_page : (readPage 0 0 (back7.backVa + 256) (addMmuStat 0 15 0 1 (endPaging 2047 in7 (pages in7 back7)))).1.isSome :=
  (readPage_zeroAt 0 0 _ _ (by decide +kernel) (by decide +kernel)).1

/-! Translation -/

/-- MAP of the last 64 KiB page of window 0 to the last frame number below a 45 GiB boundary; of a host page; of 2 MiB. -/
def eMap (img ba psize pages dva : Nat) : Nat :=
  ent opMap [(0x09, psize), (0x10, dva), (0x18, pages), (0x20, img), (0x28, ba)]
def eMap1 : Nat := eMap (1 + 4 + (45 * 2 ^ 14 - 1) * 2 ^ 16) 0 0 1 0x1F0000
theorem front_map : Front opMap 0 0 eMap1 (tk 0 0) (withWin (at0 eMap1)) := ⟨by decide +kernel, by decide +kernel, by decide +kernel⟩
theorem witness_MapMakesPagesUsable :
    let s := withWin (at0 eMap1)
    s.fnExists 0 ∧ s.pageIn 0 0 0x1F0000 1 = some 31 ∧ (pteV (entF eMap1 0x20 8) ∧ pteTbl (entF eMap1 0x20 8) = false ∧
    bitsOf (entF eMap1 0x20 8) 63 39 = 0 ∧ bitsOf (entF eMap1 0x20 8) 15 8 = 0 ∧ pteHost (entF eMap1 0x20 8) = false ∧
    hpaWindowable (ptePfn (entF eMap1 0x20 8)) 1 ∧ s.mappedHpa = [] ∧ s.mapBusy 0 0 31 32 0 = false) ∧
    (mapped (at0 eMap1)).mapBusy 0 0 31 32 0 := by decide +kernel
theorem test_map : ∃ t, exec (.map 0 0) (withWin (at0 eMap1)) = .next t ∧
    t.walk 0 0 0x1FFFFF = .hbm ⟨true, leafKey (dirKey 0 0 0) 31⟩ (5 + (45 * 2 ^ 14 - 1) * 2 ^ 16) (45 * 2 ^ 30 - 1) 0 true :=
  ⟨_, rfl, by decide +kernel⟩

/-- A command over the whole of window 0. -/
def eRange (op : Nat) : Nat := ent op [(0x10, 0), (0x18, 32)]
theorem front_range (op : Nat) (h : op ∈ [opUnmap, opProtect, opSyncIn, opSyncOut]) :
    Front op 0 0 (eRange op) (tk 0 0) (mapped (at0 (eRange op))) := by
  simp only [List.mem_cons, List.not_mem_nil, or_false] at h
  rcases h with rfl | rfl | rfl | rfl <;> exact ⟨by decide +kernel, by decide +kernel, by decide +kernel⟩
theorem witness_RangeCommandsTakeEffect :
    (mapped (at0 (eRange opUnmap))).memWf ∧ (mapped (at0 (eRange opUnmap))).pageIn 0 0 0 32 = some 0 ∧
    (mapped (at0 (eRange opUnmap))).partial2M 0 0 0 32 = false ∧ (mapped (at0 (eRange opUnmap))).mem.pend = [] ∧
    (mapped (at0 (eRange opUnmap))).fnRunning 0 = false ∧
    (withExec (execOf .running (planOf task0)) (mapped (at0 (eRange opUnmap)))).fnRunning 0 := by decide +kernel
theorem test_unmap : ∃ t, exec (.unmap 0 0) (mapped (at0 (eRange opUnmap))) = .next t ∧ t.walk 0 0 0x1FFFFF = .bad :=
  ⟨_, rfl, by decide +kernel⟩
theorem test_protect : ∃ t, exec (.protect 0 0) (mapped (at0 (eRange opProtect))) = .next t ∧ pteW (t.pte ⟨false, dirKey 0 0 0⟩) = false :=
  ⟨_, rfl, by decide +kernel⟩
theorem test_syncIn_waits : ∃ t, exec (.syncIn 0 0) (withExec (execOf .running (planOf task0)) (mapped (at0 (eRange opSyncIn)))) = .next t ∧
    t.mem.pend.map (·.op) = [.syncIn] := ⟨_, rfl, by decide +kernel⟩
theorem test_syncOut : ∃ t, exec (.syncOut 0 0) (mapped (at0 (eRange opSyncOut))) = .next t ∧
    (tget t.host.qps (qkey 0 0)).map (·.open_) = some 0 := ⟨_, rfl, by decide +kernel⟩

/-- The first 64 KiB of window 0 are a cached page of host memory at 0x20000, not present; its copy is at HBM page 0. -/
def backed : State :=
  { withWin up with mem := { up.mem with dir := [(dirKey 0 0 0, 7)],
                                         leaf := [(leafKey (dirKey 0 0 0) 0, BitVec.ofNat 128 (1 + 4 + 8 + 16 + 2 * 2 ^ 80))] } }
def fill0 : Fill := { fn := 0, dva := 0xFFFF, wrote := true }
def filling : State := { backed with mem := { backed.mem with fills := [fill0] } }
theorem witness_HostPagesAreFilled :
    backed.absentPage 0 0 = some ⟨true, leafKey (dirKey 0 0 0) 0⟩ ∧ backed.mem.fills = [] ∧ bitsOf (backed.mmuCfg 0) 13 8 = 8 ∧
    filling.absentPage 0 0 = some ⟨true, leafKey (dirKey 0 0 0) 0⟩ ∧
    (filling.inFlight 0).find? (fun x => pageOf x.dva = pageOf 0) = some fill0 ∧ filling.host.memPoison = [] ∧
    (backed.inFlight 0).find? (fun x => pageOf x.dva = pageOf 0) = none ∧
    (filling.locate 0 0 0).writable := by decide +kernel
theorem test_hostFill : ∃ t, exec (.hostFill 0 0 true) backed = .next t ∧ t.mem.fills = [{ fn := 0, dva := 0, wrote := true }] :=
  ⟨_, rfl, by decide +kernel⟩
theorem test_hostFillComplete : ∃ t, exec (.hostFillComplete 0 0 []) filling = .next t ∧
    ptePresent (t.pte ⟨true, leafKey (dirKey 0 0 0) 0⟩) ∧ pteDirty (t.pte ⟨true, leafKey (dirKey 0 0 0) 0⟩) ∧ t.mem.fills = [] :=
  ⟨_, rfl, by decide +kernel⟩

/-- Core 2047 holds line 5 in M, with requests held back; another line is in S. -/
def line5 (o : Option Nat) (hs : List Nat) (w : List (Nat × Bool)) : State :=
  { mapped up with mem := { (mapped up).mem with
      lines := [(lineKey 127 5, { fn := 0, owner := o, holders := hs, data := 7, dirty := false, waiting := w })] } }
theorem witness_LinesHaveOneWriter :
    ((line5 none [2047] []).lineFn 5).isSome ∧ ((line5 none [2047] []).heldLines 2046).length < 1024 ∧
    ((line5 none [2047] []).dirLine 2046 5).waiting = [] ∧ ((line5 none [2047] []).dirLine 2046 5).owner = none ∧
    ((line5 (some 2047) [] []).dirLine 2047 5).owner = some 2047 ∧ ((line5 (some 2047) [] []).dirLine 2046 5).owner ≠ some 2046 ∧
    ((line5 (some 2047) [] [(2046, true)]).dirLine 2047 5).waiting = [(2046, true)] ∧
    ((line5 (some 2047) [] [(2046, false)]).dirLine 2047 5).waiting = [(2046, false)] ∧ up.lineFn 5 = none := by decide +kernel
theorem test_rd_waits : ∃ t, exec (.rd 2046 5) (line5 (some 2047) [] []) = .next t ∧ (t.dirLine 2046 5).waiting = [(2046, false)] :=
  ⟨_, rfl, by decide +kernel⟩
theorem test_own : ∃ t, exec (.own 2046 5) (line5 none [2047] []) = .next t ∧ (t.dirLine 2046 5).owner = some 2046 ∧
    (t.dirLine 2046 5).holders = [] := ⟨_, rfl, by decide +kernel⟩
/-- The WB serves the request that waits for it. -/
theorem test_wb : ∃ t, exec (.wb 2047 5 9) (line5 (some 2047) [] [(2046, true)]) = .next t ∧
    (t.dirLine 2046 5).owner = some 2046 ∧ (t.dirLine 2046 5).data = 9 ∧ (t.dirLine 2046 5).waiting = [] := ⟨_, rfl, by decide +kernel⟩

/-! Resets -/

def vfs (n : Nat) (s : State) : State := { s with host := { s.host with vfEn := true, numVfs := n } }
def eFn (op f : Nat) : Nat := ent op [(0x04, f)]
def eUnit (op n : Nat) : Nat := ent op [(0x08, n)]
theorem front_fnReset (f : Nat) (h : f = 0 ∨ f = 511) : Front opFnReset 0 0 (eFn opFnReset f) (tk 0 0) (vfs 511 (at0 (eFn opFnReset f))) := by
  rcases h with rfl | rfl <;> exact ⟨by decide +kernel, by decide +kernel, by decide +kernel⟩
theorem witness_FunctionResetClearsTheFunction : (vfs 511 up).fnExists 511 ∧ entFn (eFn opFnReset 511) = 511 ∧
    entFn (eFn opFnReset 0) = 0 ∧ (vfs 510 up).fnExists 511 = false := by decide +kernel
theorem test_functionLevelReset : ∃ t, exec (.functionLevelReset 0) (withPair 1 pair0 (withEvents up)) = .next t ∧
    t.host.qps = [] ∧ t.host.eqs = [] := ⟨_, rfl, by decide +kernel⟩
theorem test_fnReset : ∃ t, exec (.fnReset 0 0) (vfs 511 (at0 (eFn opFnReset 511))) = .next t ∧
    (tget t.host.qps (qkey 0 0)).map (·.open_) = some 0 := ⟨_, rfl, by decide +kernel⟩
theorem test_vfEnable : ∃ t, exec (.vfEnable 512 true) up = .next t ∧ t.host.numVfs = 511 := ⟨_, rfl, by decide +kernel⟩
theorem test_hotReset : ∃ t, exec .hotReset (withPair 1 pair0 up) = .next t ∧ t.host.qps = [] := ⟨_, rfl, by decide +kernel⟩

theorem front_unit (op n : Nat)
    (h : (op, n) ∈ [(opCoreReset, 2047), (opCoreReset, 2048), (opClusterReset, 127), (opClusterReset, 128), (opPartitionReset, 15),
      (opPartitionReset, 16), (opPartitionPark, 15), (opPartitionPark, 16), (opPartitionResume, 15), (opPartitionResume, 16)]) :
    Front op 0 0 (eUnit op n) (tk 0 0) (at0 (eUnit op n)) := by
  simp only [List.mem_cons, List.not_mem_nil, or_false, Prod.mk.injEq] at h
  rcases h with ⟨rfl, rfl⟩ | ⟨rfl, rfl⟩ | ⟨rfl, rfl⟩ | ⟨rfl, rfl⟩ | ⟨rfl, rfl⟩ | ⟨rfl, rfl⟩ | ⟨rfl, rfl⟩ | ⟨rfl, rfl⟩ | ⟨rfl, rfl⟩ | ⟨rfl, rfl⟩ <;>
    exact ⟨by decide +kernel, by decide +kernel, by decide +kernel⟩
theorem witness_UnitResetsClearTheUnit : Front opCoreReset 0 0 (eUnit opCoreReset 2047) (tk 0 0) (at0 (eUnit opCoreReset 2047)) ∧
    entF (eUnit opCoreReset 2047) 0x08 2 = 2047 ∧ entF (eUnit opClusterReset 128) 0x08 2 = 128 ∧ entF (eUnit opPartitionReset 15) 0x08 2 = 15 :=
  ⟨front_unit _ _ (by decide), by decide +kernel⟩
/-- Frame 7 is under way and core 2047 has a valid AS line and a busy core. -/
def used (s : State) : State :=
  { s with mem := { s.mem with as := [(asKey 2047 2047, Block.zero)] }
           cores := [(2047, { Core.reset with run := some (Run.start 1 0) })] }
theorem test_coreReset : ∃ t, exec (.coreReset 0 0) (used (at0 (eUnit opCoreReset 2047))) = .next t ∧ t.core 2047 = Core.reset ∧ t.mem.as = [] :=
  ⟨_, rfl, by decide +kernel⟩
theorem test_clusterReset : ∃ t, exec (.clusterReset 0 0) (used (at0 (eUnit opClusterReset 127))) = .next t ∧ t.core 2047 = Core.reset ∧
    t.mem.as = [] := ⟨_, rfl, by decide +kernel⟩
theorem test_partitionReset : ∃ t, exec (.partitionReset 0 0) (used (runs (at0 (eUnit opPartitionReset 15)))) = .next t ∧
    t.core 2047 = Core.reset ∧ (t.part 15).state = .idle := ⟨_, rfl, by decide +kernel⟩

theorem witness_ParkRequestsNameABoundary : ((runs up).part 15).state = .running ∧ (up.part 15).state ≠ .running ∧
    ((up.setPart 15 { Part.reset with state := .parked }).part 15).state = .parked ∧
    ((up.setPart 15 { Part.reset with state := .parked, resumeReq := true }).part 15).resumeReq ∧
    ((up.setPart 15 { Part.reset with state := .running, parkReq := true }).part 15).parkReq := by decide +kernel
theorem test_partitionPark : ∃ t, exec (.partitionPark 0 0) (runs (at0 (eUnit opPartitionPark 15))) = .next t ∧
    (t.part 15).parkTk = [(2, tk 0 0)] := ⟨_, rfl, by decide +kernel⟩
theorem test_partitionResume : ∃ t, exec (.partitionResume 0 0)
    ((at0 (eUnit opPartitionResume 15)).setPart 15 { Part.reset with state := .parked, lead := true, tick := 9 }) = .next t ∧
    (t.part 15).resumeTk = [(12, tk 0 0)] := ⟨_, rfl, by decide +kernel⟩

/-! Ticks -/

def withOd (l : List (Nat × List Byte)) (s : State) : State :=
  { s with od := { s.od with vals := l.foldl (fun t e => tput t e.1 e.2) s.od.vals } }
/-- Module 0 of a pair of modules; partition 15 spans both as PID 0x123, and link 35 is UP. -/
def spans (s : State) : State :=
  (withOd [(odKey 0x4000 0x01, [1]), (odKey 0x401F 0x01, [0x23, 0x01]), (odKey 0x401F 0x02, [2, 0]), (odKey 0x401F 0x03, [0, 0, 1, 0])]
    s).setLink 35 { Link.reset with mode := .up, level := 4 }
/-- Partition 15 after its lead point. -/
def led (w : Dword) (s : State) : State := (runs s).setPart 15 { Part.reset with state := .running, lead := true, ownWord := w, merged := w }
theorem witness_LeadPointFormsTheWord : (runs up).partTicks 15 ∧ ((runs up).part 15).lead = false ∧ (runs up).moduleNo < 4096 ∧
    (runs up).adm.execs = [] ∧ 2047 ∈ (used (runs up)).partCores 15 ∧ ((used (runs up)).core 2047).idle = false := by decide +kernel
theorem test_leadPoint_slip : ∃ t, exec (.leadPoint 15) (used (runs up)) = .next t ∧ (t.part 15).lead ∧ penSlip (t.part 15).merged :=
  ⟨_, rfl, by decide +kernel⟩

/-- A plan whose task waits on gate 9, and its execution, held for one tick less than WAIT_TIMEOUT. -/
def waitPlan : Plan := { planOf task0 with edges := [{ kind := 1, prod := 0, cons := 0, gate := 9, aux := 0 }] }
def waitExec : Exec := { execOf .running waitPlan with waitHeld := 999 }
def blocked : State :=
  ({ withExec waitExec (runs up) with cores := [(2047, { Core.reset with slot := [(1, 0)] })] }).setGate 9 { Gate.reset with target := 1 }
theorem witness_UnmetWaitsTimeOut : blocked.partTicks 15 ∧ (blocked.part 15).lead = false ∧ (blocked.adm.execs.map (·.id)).Nodup ∧
    (blocked.part 15).prevAdv = false ∧ waitTimeout blocked 0 ≤ waitExec.waitHeld + 1 ∧ waitExec.plan.cores = [2047] ∧
    blocked.blockedOn 2047 1 := by decide +kernel
theorem test_waitTimeout : ∃ t, exec (.waitTimeout 15) blocked = .next t ∧ t.adm.execs.map (·.phase) = [.absorbed] :=
  ⟨_, rfl, by decide +kernel⟩

theorem witness_PennantWordsAreExchanged : (led 0 (spans up)).partTicks 15 ∧ ((led 0 (spans up)).part 15).lead ∧
    ((led 0 (spans up)).part 15).hasFinal = false ∧ (led 0 (spans up)).spanning 15 ∧ ((led 0 (spans up)).part 15).round = 0 := by decide +kernel
theorem test_pennantRound : ∃ t, exec (.pennantRound 15 1) (led 0x1230000000000000 (spans up)) = .next t ∧
    t.host.out = [.marker 35 0x1230000000000000] ∧ (t.part 15).round = 1 := ⟨_, rfl, by decide +kernel⟩
theorem test_pennantFinal : ∃ t, exec (.pennantFinal 15) (led 0 (spans up)) = .next t ∧ (t.part 15).hasFinal := ⟨_, rfl, by decide +kernel⟩

theorem witness_BoundariesAdvanceOrHold :
    ((led 0 up).part 15).state = .running ∧ ((led 0 up).part 15).lead ∧ ((led 0 up).adm.execs.map (·.id)).Nodup ∧
    ((led 0 up).part 15).freezeNext = false ∧ penSlip ((led 0 up).part 15).merged = false := by decide +kernel
theorem test_tickBoundary : ∃ t, exec (.tickBoundary 15) (withExec (execOf .running (planOf task0)) (led 0 up)) = .next t ∧
    (t.part 15).tick = 1 ∧ t.adm.execs.map (·.planTick) = [1] := ⟨_, rfl, by decide +kernel⟩

def window0 : State := { served up with cores := [(2047, { Core.reset with window := some 0 })] }
theorem witness_WindowsFollowInOrder : (window0.core 2047).window = some 0 ∧ (window0.core 2046).window ≠ some 0 := by decide +kernel
theorem test_windowEnd : ∃ t, exec (.windowEnd 2047 0) window0 = .next t ∧ (t.core 2047).window = none := ⟨_, rfl, by decide +kernel⟩

def starts (s : State) : State := s.setPart 15 { Part.reset with startReq := some 0 }
/-- The report of module 1 agrees. -/
def agreed (s : State) : State :=
  s.setPart 15 { Part.reset with startReq := some 0, features := [(1, mkMarker 2 (0x123 * 2 ^ 48 + 2 ^ 36 + 0x20 * 2 ^ 22 + 2 ^ 10))] }
theorem witness_PartitionsStartTogether : (starts up).serving ∧ ((starts up).part 15).state = .idle ∧
    ((starts up).part 15).startReq = some 0 ∧ (starts up).spanning 15 = false ∧ (starts (spans up)).spanning 15 ∧
    (starts (spans up)).featuresAgree 15 = false ∧ (agreed (spans up)).spanning 15 ∧ ((agreed (spans up)).part 15).state = .idle ∧
    (agreed (spans up)).featuresAgree 15 := by decide +kernel
theorem test_partitionStart : ∃ t, exec (.partitionStart 15) (starts up) = .next t ∧ (t.part 15).state = .running ∧
    (t.part 15).next = 0x20 * 16000 := ⟨_, rfl, by decide +kernel⟩

/-! ## Witnesses: object dictionary -/

/-- A management endpoint. -/
abbrev ep8 : Requester := .mctp 8
theorem idle_up : PtcIdle up := ⟨by decide, by decide, by decide⟩
theorem takes_up : TakesWrites up := ⟨idle_up, by decide, by decide +kernel, by decide⟩
/-- A READ of DEVICE_TYPE, a write of PWR_CAP, and the entries they name. -/
def rRead : OdReq := req 0x1000 0 4 0 []
def rWrite : OdReq := req 0x3000 0x01 2 0 [0x08, 0x07]
def eRead : OdEnt := (odEnt 0x1000 0).getD (boolE .ro 0)
def eWrite : OdEnt := (odEnt 0x3000 0x01).getD (boolE .ro 0)
theorem passes_read : OdPasses odRead rRead eRead up := by
  refine ⟨?_, ?_, ?_, ?_, ?_, ?_, ?_⟩ <;> decide +kernel
theorem passes_describe : OdPasses odDescribe rRead eRead up := by
  refine ⟨?_, ?_, ?_, ?_, ?_, ?_, ?_⟩ <;> decide +kernel
theorem passes_write : OdPasses odWrite rWrite eWrite up := by
  refine ⟨?_, ?_, ?_, ?_, ?_, ?_, ?_⟩ <;> decide +kernel
theorem witness_RequestsAreCheckedInOrder :
    requestCommand (.read rRead) = some (odRead, rRead) ∧ rRead.who = ep8 ∧ wellFormed odRead rRead ∧ wellFormed odWrite rRead = false ∧
    up.reaches ep8 0x1000 0 false ∧ odIndex 0x1000 ∧ odIndex 0x0FFF = false ∧ odEnt 0x1000 0xFF = none ∧ eRead.acc = .const ∧
    eRead.acc ≠ .wo ∧ wellFormed odList (req 0x1000 0 1024 0 []) ∧ up.life.state ≠ .off ∧ (8 ≤ 254 ∧ ¬ 8 ≤ 7) := by decide +kernel
/-- PWR_CAP is written with data of a wrong length. -/
theorem test_write_length : ∃ t, exec (.write { rWrite with data := [8], length := 1 }) up = .next t ∧
    t.host.out = [odReply odWrite rWrite odTypeLength []] := ⟨_, rfl, by decide +kernel⟩
theorem test_describe : ∃ t, exec (.describe rRead) up = .next t ∧ t.od.refusedN = 0 ∧ t.host.out.length = 1 := ⟨_, rfl, by decide +kernel⟩
theorem test_setEndpointId : ∃ t, exec (.setEndpointId 254) up = .next t ∧ t.od.eid = 254 ∧
    t.host.out = [.mctpControl 1 [0x00, 0x00, 0xFE, 0x00]] := ⟨_, rfl, by decide +kernel⟩
theorem test_setEndpointId_reserved : ∃ t, exec (.setEndpointId 7) up = .next t ∧ t.od.eid = 0 := ⟨_, rfl, by decide +kernel⟩
theorem test_dynamicAddress : ∃ t, exec (.dynamicAddressAssignment 127) up = .next t ∧ t.od.dynAddr = 127 := ⟨_, rfl, by decide +kernel⟩

/-- A value of PWR_CAP in range, and one that is not. -/
theorem accepts_write : OdAccepts rWrite eWrite [0x08, 0x07] [0x08, 0x07] up := by
  refine ⟨?_, ?_, ?_, ?_, ?_, ?_, ?_, ?_⟩ <;> decide +kernel
def staged0 : Staged := { who := ep8, key := odKey 0x3000 0x01, data := [0x08], last := 0, expired := false }
def staging (x : Staged) : State := { up with od := { up.od with staged := [x] } }
def txn0 : Txn :=
  { seq := 1, ents := [(odKey 0x3000 0x01, [0x08, 0x07])], todo := [], committed := false, stored := false,
    done := .respond rWrite odWrite false, host := true }
def withTxn (t : Txn) : State := { up with od := { up.od with txns := [t] } }
def rec0 : EventRec := EventRec.mk' 0x0704
theorem witness_WritesAndStagingFollowTheRules :
    ((rWrite.index ≠ 0x7010 ∧ rWrite.index ≠ 0x7011) ∧ eWrite.acc = .rw ∧ up.ownerRefuses 0x3000 0x01 [0xFF, 0xFF] = false ∧
      eWrite.ty.lenOk [0xFF] = false ∧ eWrite.ty.lenOk [0xFF, 0xFF] ∧ eWrite.clamps = false ∧ eWrite.inRange [0xFF, 0xFF] = false) ∧
    (up.od.staged = [] ∧ (staging { staged0 with who := .mctp 9 }).od.staged.any (fun x => x.who != ep8 && !x.expired) ∧
      (staging staged0).stagedOf ep8 = some staged0 ∧ (staging { staged0 with expired := true }).stagedOf ep8 ≠ none ∧
      staged0.data.length + rWrite.data.length ≤ 65536 ∧ staged0.expired = false) ∧
    ((withTxn txn0).life.vaux ∧ (withTxn txn0).od.txns = [txn0] ∧ ((withTxn txn0).jBlock 0).length < 256 ∧ (withTxn txn0).od.waiting = []) := by
  decide +kernel
theorem test_write : ∃ t, exec (.write rWrite) up = .next t ∧ t.od.txns = [] ∧ t.host.out = [odReply odWrite rWrite odOk []] :=
  ⟨_, rfl, by decide +kernel⟩
theorem test_write_range : ∃ t, exec (.write { rWrite with data := [0xFF, 0xFF] }) up = .next t ∧
    t.host.out = [odReply odWrite rWrite odRange []] := ⟨_, rfl, by decide +kernel⟩
theorem test_segAbort : ∃ t, exec (.segAbort (req 0x3000 0x01 0 0 [])) (staging staged0) = .next t ∧ t.od.staged = [] :=
  ⟨_, rfl, by decide +kernel⟩
theorem test_segCommit : ∃ t, exec (.segCommit (req 0x3000 0x01 3 0 [])) (staging staged0) = .next t ∧ t.od.refusedN = 1 :=
  ⟨_, rfl, by decide +kernel⟩
theorem test_stagingExpiry : ∃ t, exec (.stagingExpiry ep8) (staging staged0) = .next t ∧ t.now = 10000 * msSt ∧
    t.od.staged.map (·.expired) = [true] := ⟨_, rfl, by decide +kernel⟩
theorem test_journalDataRecord : ∃ t, exec .journalDataRecord (withTxn { txn0 with todo := [.data 1 5 0 [7]] }) = .next t ∧
    t.jBlock 0 = [.data 1 5 0 [7]] ∧ t.od.txns.map (·.todo) = [[]] := ⟨_, rfl, by decide +kernel⟩
theorem test_journalCommitRecord : ∃ t, exec .journalCommitRecord (withTxn { txn0 with todo := [.commit 1 1 0], ents := [(odKey 0x3000 0x01, [0xC8, 0])] }) =
    .next t ∧ t.odCur 0x3000 0x01 = [0xC8, 0] ∧ t.od.txns.map (·.committed) = [true] := ⟨_, rfl, by decide +kernel⟩
theorem test_objectStoreRewrite : ∃ t, exec .objectStoreRewrite (withTxn { txn0 with committed := true }) = .next t ∧
    (tget t.od.store (odKey 0x3000 0x01)).map (·.val) = some [0x08, 0x07] := ⟨_, rfl, by decide +kernel⟩
theorem test_journalAppliedRecord : ∃ t, exec .journalAppliedRecord (withTxn { txn0 with committed := true, stored := true }) = .next t ∧
    t.jBlock 0 = [.applied 1] ∧ t.od.txns = [] := ⟨_, rfl, by decide +kernel⟩
/-- Block 1 holds a record whose transaction has been applied, or has not. -/
def blocks (l : List JRec) : State := { up with od := { up.od with blocks := up.od.blocks.set 1 l } }
theorem test_journalBlockErase : (∃ t, exec .journalBlockErase (blocks [.data 1 5 0 [7], .applied 1]) = .next t ∧ t.jBlock 1 = []) ∧
    ∃ t, exec .journalBlockErase (blocks [.data 1 5 0 [7]]) = .next t ∧ t.jBlock 1 ≠ [] := ⟨⟨_, rfl, by decide +kernel⟩, _, rfl, by decide +kernel⟩
theorem test_eventJournalCommit : ∃ t, exec .eventJournalCommit { up with jr := { up.jr with waiting := [rec0] } } = .next t ∧
    t.jr.headSeq = 1 ∧ t.jr.recs.map (·.code) = [0x0704] := ⟨_, rfl, by decide +kernel⟩

/-- Slot 1 holds a verified image, or is on trial. -/
def slot1 (st : SlotState) (s : State) : State :=
  { s with life := { s.life with slots := s.life.slots.set 1 { FwSlot.empty with state := st, gen := 4, imageSize := 4 } } }
theorem witness_ActionEntriesTakeEffect :
    (up.diesOff = false ∧ fleetValid (0x0010000808000000 : Dword) ∧ up.pwr.fleetLast = none ∧ up.serving ∧ up.rampMode ≠ 2) ∧
    ((slot1 .verified up).life.state = .ready ∧ (slot1 .verified up).anyExec = false ∧ ((slot1 .verified up).slot 1).state = .verified) ∧
    ((slot1 .trial up).slot 1).state = .trial ∧ up.life.slots.length = 2 ∧ up.slotBusy 0 ∧ (up.slotBusy 1 = false) ∧
    1 ≤ odNat (withOd [(odKey 0x7011 0x05, [4, 0, 0, 0])] up) 0x7011 0x05 0 ∧ up.linkSaved 35 = false := by decide +kernel
theorem test_release : ∃ t, exec (.release ep8 [1]) { up with life := { up.life with state := .held } } = .next t ∧
    t.life.state = .training := ⟨_, rfl, by decide +kernel⟩
theorem test_standby : ∃ t, exec (.standby ep8 [1]) up = .next t ∧ t.life.state = .aux ∧ t.life.standby ∧ t.life.rails.vhbm :=
  ⟨_, rfl, by decide +kernel⟩
theorem test_wake_refused : ∃ t, exec (.wake ep8 [1]) up = .next t ∧ t.host.out = [odReply odWrite (writeReq ep8 0x1200 0x09 [1]) odState []] :=
  ⟨_, rfl, by decide +kernel⟩
theorem test_moduleReset : ∃ t, exec (.moduleReset ep8 [0xA5]) up = .next t ∧ t.life.state = .boot := ⟨_, rfl, by decide +kernel⟩
theorem test_keyRevoke : ∃ t, exec (.keyRevoke ep8 [1]) up = .next t ∧ t.od.txns.length = 1 := ⟨_, rfl, by decide +kernel⟩
theorem test_pwrCapWrite : ∃ t, exec (.pwrCapWrite ep8 [0xC7, 0]) up = .next t ∧
    t.host.out = [odReply odWrite (writeReq ep8 0x3000 0x01 [0xC7, 0]) odRange []] := ⟨_, rfl, by decide +kernel⟩
theorem test_setpointChange : ∃ t, exec (.setpointChange ep8 [0xE8, 0x03]) up = .next t ∧ t.odCur 0x3000 0x03 = [0xE8, 0x03] :=
  ⟨_, rfl, by decide +kernel⟩
theorem test_activate : ∃ t, exec (.activate ep8 [1]) (slot1 .verified up) = .next t ∧ t.od.txns.length = 1 := ⟨_, rfl, by decide +kernel⟩
theorem test_verify : ∃ t, exec (.verify ep8 1 [1] { img0 with sigOk := true, gen := 5 }) (slot1 .unverified up) = .next t ∧
    (t.slot 1).state = .verified := ⟨_, rfl, by decide +kernel⟩
theorem test_erase_busy : ∃ t, exec (.erase ep8 0 [1]) up = .next t ∧ t.life.slots = up.life.slots := ⟨_, rfl, by decide +kernel⟩
theorem test_clear : ∃ t, exec (.clear ep8 [1]) { up with jr := { up.jr with recs := [rec0], headSeq := 1 } } = .next t ∧
    t.jr.recs = [] ∧ t.jr.headSeq = 1 := ⟨_, rfl, by decide +kernel⟩
theorem test_request : ∃ t, exec (.request ep8 [3, 0xFF, 0xFF, 1, 0, 0, 0, 0]) up = .next t ∧ t.mnt.queue.map (·.act) = [.scr] :=
  ⟨_, rfl, by decide +kernel⟩

/-! ## Witnesses: power and thermal -/

/-- Phases of rail 3 lost; a droop of die 3. -/
def lost (n : Nat) : State := { up with pwr := { up.pwr with rails := [(3, { RailState.reset with lost := n })] } }
def drooping (n : Nat) : State := up.setPdie 3 { PowerDie.reset with droop := n }
/-- RAMP_MODE is 1, partition 15 runs and is parkable, and the trajectory has been below the setpoint since time 0. -/
def ramping : State :=
  let s := withOd [(odKey 0x3000 0x02, [1]), (odKey 0x304F 0x01, [1])] (runs up)
  { s with pwr := { s.pwr with belowSince := some 0 } }
def parkedByGov : State :=
  let s := (withOd [(odKey 0x3000 0x02, [1])] up).setPart 15 { Part.reset with state := .parked }
  { s with pwr := { s.pwr with aboveSince := some 0, parts := [(15, { PowerPart.reset with parkedByGov := true })] } }
theorem witness_PowerFollowsItsRules :
    (up.life.vaux ∧ up.life.rails.rest ∧ up.life.diesUp ∧ up.serving) ∧
    (((lost 1).rail 3).lost < 2 ∧ 2 ≤ ((lost 25).rail 3).lost ∧ ((lost 25).rail 3).lost < 26) ∧ (up.validTj 3 []).length < 8 ∧
    ((withOd [(odKey 0x3000 0x02, [1])] up).rampMode = 1 ∧ odNat (withOd [(odKey 0x3000 0x02, [1])] up) 0x3000 0x03 1800 = up.pwr.setpoint) ∧
    ((drooping 1).pdie 3).droop ≠ 0 ∧ (up.pdie 3).droop = 0 ∧ 102 * up.pwrCap < 100 * 1837 := by decide +kernel
theorem witness_PowerFollowsItsRules_park :
    (ramping.serving ∧ ramping.rampMode ≠ 0 ∧ ramping.govPending = false ∧ ramping.pwr.belowSince = some 0 ∧
      (∀ q < 16, ramping.running q → ramping.parkable q → ramping.parkPrio 15 = ramping.parkPrio q ∧ 15 ≤ q) ∧
      ramping.running 15 ∧ ramping.parkable 15 ∧ ramping.partClusters 15 ≠ []) := by decide +kernel
theorem witness_PowerFollowsItsRules_resume :
    (parkedByGov.rampMode ≠ 0 ∧ parkedByGov.govPending = false ∧ parkedByGov.pwr.aboveSince = some 0 ∧
      (∀ q < 16, (parkedByGov.part q).state = .parked → 15 ≤ q) ∧ (parkedByGov.part 15).state = .parked ∧ (parkedByGov.ppart 15).parkedByGov) := by decide +kernel
theorem test_telemetryRead : ∃ t, exec (.telemetryRead [none]) up = .next t ∧ (t.rail 0).missed = 1 ∧ (t.rail 1).missed = 0 :=
  ⟨_, rfl, by decide +kernel⟩
theorem test_phaseRetire : ∃ t, exec (.phaseRetire 3) (lost 2) = .next t ∧ t.phasesActive 3 = 23 := ⟨_, rfl, by decide +kernel⟩
theorem test_sensorInvalid : ∃ t, exec (.sensorInvalid 3 [1360]) up = .next t ∧ (t.pdie 3).sensorsOk = 1 ∧ (t.pdie 3).hold800 :=
  ⟨_, rfl, by decide +kernel⟩
theorem test_govParkRequest : ∃ t, exec .govParkRequest ramping = .next t ∧ (t.part 15).parkReq ∧ t.pwr.govReq = some 15 :=
  ⟨_, rfl, by decide +kernel⟩
theorem test_govResumeRequest : ∃ t, exec .govResumeRequest parkedByGov = .next t ∧ (t.part 15).resumeReq ∧ t.tick.st = 16000000 :=
  ⟨_, rfl, by decide +kernel⟩
theorem test_droop : ∃ t, exec (.droop 3 1) (drooping 2) = .next t ∧ (t.pdie 3).droop = 2 ∧ (t.pdie 3).events = 0 := ⟨_, rfl, by decide +kernel⟩
theorem test_stretchRelease : ∃ t, exec (.stretchRelease 3) (drooping 2) = .next t ∧ (t.pdie 3).droop = 0 ∧ (t.pdie 3).stretchAt = 1200 :=
  ⟨_, rfl, by decide +kernel⟩
theorem test_powerStretch : ∃ t, exec (.powerStretch false 2201) up = .next t ∧ t.pwr.stretchPct = 50 := ⟨_, rfl, by decide +kernel⟩
theorem test_powerStretchRelease : ∃ t, exec (.powerStretchRelease false 2000) { up with pwr := { up.pwr with excursion := true } } = .next t ∧
    t.pwr.excursion := ⟨_, rfl, by decide +kernel⟩
/-- Die 3 is HOT and has been at or below 83 °C since time 5: HOT falls 1 ms after (R75). -/
def cooling : State := up.setPdie 3 { PowerDie.reset with hot := true, coolSince := some 5 }
theorem witness_PowerFollowsItsRules_cool : (cooling.pdie 3).coolSince = some 5 ∧ (cooling.pdie 3).hot ∧ (1328 : Int) ≤ 83 * 16 ∧
    (up.pdie 3).coolSince = none := by decide +kernel
theorem test_refreshIntervalChange_cool : ∃ t, exec (.refreshIntervalChange 3 1328) cooling = .next t ∧ (t.pdie 3).hot = false ∧
    t.tick.st = 5 + msSt := ⟨_, rfl, by decide +kernel⟩
theorem test_refreshIntervalChange : ∃ t, exec (.refreshIntervalChange 3 1361) up = .next t ∧ (t.pdie 3).hot := ⟨_, rfl, by decide +kernel⟩
theorem test_refreshStatusUpdate : ∃ t, exec (.refreshStatusUpdate 3) { up with mnt := { up.mnt with urgent := [(3, 256)] } } = .next t ∧
    bitsOf (tgetD t.reg.refreshStat 3 0).toNat 23 16 = 255 := ⟨_, rfl, by decide +kernel⟩

/-! ## Witnesses: supplies, pins, stages -/

def inState (st : ModState) (f : Life → Life) : State := { up with life := f { up.life with state := st } }
def aux0 : State := inState .aux (fun l => { l with vin := false, stage := 0 })
def hold0 : State := inState .aux (fun l => { l with warmUntil := some 5 })
theorem witness_SuppliesAndPinsMoveTheModule :
    State.reset.life.vaux = false ∧ up.life.vaux ∧
    (∃ p, aux0.ptr = some p ∧ p.trial ≠ 0) ∧ aux0.life.state = .aux ∧ aux0.life.standby = false ∧ aux0.life.perst = false ∧
    aux0.life.writesRefused = false ∧ aux0.life.stage ≠ 1 ∧ aux0.life.forcePin = false ∧ up.life.state.resets ∧
    (inState .faulted id).life.state = .faulted ∧ (inState .recovery id).life.state = .recovery ∧ up.life.vin ∧
    (inState .ready (fun l => { l with pinDue := true })).life.pinDue ∧ up.life.pinDue = false ∧
    (up.life.pwrFailPin = false) ∧ (inState .recovery (fun l => { l with forcePin := true })).life.forceRaised = false ∧
    hold0.life.warmUntil = some 5 ∧ ({ up with jr := { up.jr with lastAlert := some 7 } } : State).jr.lastAlert = some 7 := by
  refine ⟨by decide, by decide, ⟨_, rfl, by decide⟩, ?_⟩
  decide +kernel
theorem test_vauxUp : ∃ t, exec .vauxUp State.reset = .next t ∧ t.life.stage = 1 := ⟨_, rfl, by decide +kernel⟩
theorem test_vauxLost : ∃ t, exec .vauxLost up = .next t ∧ t.life.state = .off ∧ t.life.rails = Rails.off := ⟨_, rfl, by decide +kernel⟩
theorem test_vinWithinLimits : ∃ t, exec .vinWithinLimits aux0 = .next t ∧ t.life.state = .boot ∧ t.life.start = .warm := ⟨_, rfl, by decide +kernel⟩
theorem test_perstAssert : ∃ t, exec .perstAssert up = .next t ∧ t.life.state = .aux ∧ t.life.warmUntil = some (10000 * msSt) := ⟨_, rfl, by decide +kernel⟩
theorem test_perstDeassert : ∃ t, exec (.perstDeassert true) (inState .aux (fun l => { l with perst := true })) = .next t ∧
    t.life.state = .recovery := ⟨_, rfl, by decide +kernel⟩
theorem test_pinSample : ∃ t, exec (.pinSample 31 false) (inState .ready (fun l => { l with pinDue := true })) = .next t ∧
    t.moduleNo = 31 ∧ t.life.pinDue = false := ⟨_, rfl, by decide +kernel⟩
theorem test_pwrFail : ∃ t, exec (.pwrFail true) up = .next t ∧ t.life.writesRefused ∧ t.life.vin := ⟨_, rfl, by decide +kernel⟩
theorem test_pwrFailCleared : ∃ t, exec .pwrFailCleared (inState .ready (fun l => { l with writesRefused := true, pwrFailPin := true })) = .next t ∧
    t.life.writesRefused = false := ⟨_, rfl, by decide +kernel⟩
theorem test_forceRecoveryHeld60s : ∃ t, exec .forceRecoveryHeld60s (inState .recovery (fun l => { l with forcePin := true, forceSince := 3 })) = .next t ∧
    t.now = 60000 * msSt + 3 ∧ t.life.forceRaised := ⟨_, rfl, by decide +kernel⟩
theorem test_warmHoldExpiry : ∃ t, exec .warmHoldExpiry hold0 = .next t ∧ t.life.rails = Rails.off ∧ t.now = 5 := ⟨_, rfl, by decide +kernel⟩

def s1 : State := inState .off (fun l => { l with stage := 1, perst := true, passed := 0 })
def training (n : Nat) : State := inState .training (fun l => { l with passed := n })
/-- A training link of a pair of modules. -/
def trainLink (s : State) : State := (withOd [(odKey 0x4000 0x01, [1])] s).setLink 35 { Link.reset with mode := .train }
def good : TrainResult := { train0 with fullOk := true, peerModule := 1, peerLink := 35, peerLevel := 4, peerLevelMin := 3, propNs := 75 }
theorem witness_StagesFollowInOrder :
    (s1.life.vaux ∧ s1.life.stage = 1 ∧ s1.life.state = .off ∧ s1.life.perst ∧ s1.life.slots.length = 2 ∧ s1.ptr.isSome ∧
      (s1.slot 0).state ≠ .downloading ∧ (s1.slot 1).state ≠ .downloading ∧ (s1.slot 0).state ≠ .empty) ∧
    ((training 1).life.passed = 1 ∧ (training 1).jAll = [] ∧ ({ training 1 with od := { up.od with
      blocks := up.od.blocks.set 0 [.data 1 5 0 [7]] } } : State).jAll = [.data 1 5 0 [7]]) ∧
    (∀ p ∈ (training 2).ptr, ¬ p.trial ≤ 3) ∧ ((training 3).hbmSavedValid = false) ∧
    ((trainLink (training 4)).linkConnected 35 ∧ ((trainLink (training 4)).link 35).mode = .train ∧ (training 4).allMapped ∧
      (trainLink (training 4)).peer 35 = some (good.peerModule, good.peerLink) ∧ good.propNs ≤ 75 ∧
      (training 4).life.generation - 1 ≤ min 4 good.peerLevel ∧ good.peerLevelMin ≤ min 4 good.peerLevel) ∧
    ((training 6).mnt.pend = [] ∧ (training 6).allMapped ∧
      ({ training 6 with mnt := { up.mnt with exhausted := [0] } } : State).mnt.exhausted ≠ [] ∧ (∀ l < 36, (training 6).linkConnected l = false)) ∧ up.life.thermtrip = false ∧
    (inState .faulted (fun l => { l with thermtrip := true })).life.thermtrip ∧ up.life.state ≠ .aux := by decide +kernel
theorem test_s1BootVerify : ∃ t, exec (.s1BootVerify true false) s1 = .next t ∧ t.life.state = .aux ∧ t.life.generation = 4 := ⟨_, rfl, by decide +kernel⟩
theorem test_s1BootVerify_none : ∃ t, exec (.s1BootVerify false false) s1 = .next t ∧ t.life.state = .recovery := ⟨_, rfl, by decide +kernel⟩
theorem test_s2ConfigCheck : ∃ t, exec (.s2ConfigCheck none false) (training 1) = .next t ∧ t.life.state = .held ∧ t.life.heldCause = 0x0703 :=
  ⟨_, rfl, by decide +kernel⟩
theorem test_s3RailsUp : ∃ t, exec .s3RailsUp (training 2) = .next t ∧ t.life.passed = 3 ∧ t.life.rails = Rails.all := ⟨_, rfl, by decide +kernel⟩
theorem test_s4HbmTraining : ∃ t, exec (.s4HbmTraining false false []) (training 3) = .next t ∧ t.life.state = .held := ⟨_, rfl, by decide +kernel⟩
theorem test_s5LinkTraining : ∃ t, exec (.s5LinkTraining 35 good) (trainLink (training 4)) = .next t ∧ (t.link 35).mode = .soak ∧
    (t.link 35).level = 4 := ⟨_, rfl, by decide +kernel⟩
theorem test_s6CoreFirmware : ∃ t, exec (.s6CoreFirmware [] []) (training 5) = .next t ∧ t.life.passed = 6 := ⟨_, rfl, by decide +kernel⟩
theorem test_s7SelfTest : ∃ t, exec (.s7SelfTest [] []) (training 6) = .next t ∧ t.life.state = .ready := ⟨_, rfl, by decide +kernel⟩
theorem test_stageTimeout : ∃ t, exec .stageTimeout (training 5) = .next t ∧ t.life.state = .held := ⟨_, rfl, by decide +kernel⟩
theorem test_thermalTrip : ∃ t, exec (.thermalTrip 3 2000) up = .next t ∧ t.life.state = .faulted ∧ t.life.thermtrip := ⟨_, rfl, by decide +kernel⟩
theorem test_thermalTripRelease : ∃ t, exec (.thermalTripRelease 70) (inState .faulted (fun l => { l with thermtrip := true })) = .next t ∧
    t.life.thermtrip = false := ⟨_, rfl, by decide +kernel⟩
theorem test_pwrRailFault : ∃ t, exec (.pwrRailFault 12) up = .next t ∧ t.life.state = .faulted := ⟨_, rfl, by decide +kernel⟩

/-! ## Witnesses: records and markers -/

/-- Module 0 of a pair of modules, with link 35 at protocol level 3 or 4. -/
def linked (level : Nat) : State :=
  (withOd [(odKey 0x4000 0x01, [1])] up).setLink 35 { Link.reset with mode := .up, level := level }
/-- A record from module 1 for module `dst`. -/
def record (rtype hop dst pid status nblk off : Nat) (blocks : List (BitVec 128 × BlockData)) : LinkRecord :=
  { header := mkHeader rtype hop 1 dst pid 0 status nblk 0 off 0xFFFF ||| 16, blocks := blocks }
theorem takes_record (n pid status nblk off level : Nat) (bs : List (BitVec 128 × BlockData))
    (h : recType (record n 0 0 pid status nblk off bs) = n ∧ recDst (record n 0 0 pid status nblk off bs) = 0 ∧
      recChk (record n 0 0 pid status nblk off bs)) (hl : level = 3 ∨ level = 4) :
    LinkTakes 35 n (record n 0 0 pid status nblk off bs) (linked level) := by
  rcases hl with rfl | rfl <;> exact ⟨by decide +kernel, h.1, fun _ => h.2.2, h.2.1.trans (by decide +kernel)⟩
theorem takes_wr : LinkTakes 35 1 (record 1 0 0 0x999 0 1 0 []) (linked 4) := takes_record _ _ _ _ _ _ _ (by decide +kernel) (.inr rfl)
theorem takes_rdReq : LinkTakes 35 2 (record 2 0 0 0x999 0 1 0 []) (linked 3) := takes_record _ _ _ _ _ _ _ (by decide +kernel) (.inl rfl)
theorem takes_rdData : LinkTakes 35 3 (record 3 0 0 0x999 7 0 0 []) (linked 4) := takes_record _ _ _ _ _ _ _ (by decide +kernel) (.inr rfl)
theorem takes_ack : LinkTakes 35 4 (record 4 0 0 0x999 0 0 0 []) (linked 4) := takes_record _ _ _ _ _ _ _ (by decide +kernel) (.inr rfl)
theorem takes_arrive : LinkTakes 35 5 (record 5 0 0 0x999 0 0 0x3FFF []) (linked 4) := takes_record _ _ _ _ _ _ _ (by decide +kernel) (.inr rfl)

/-- A segment with its own check word. -/
def segOf (d : BlockData) : BitVec 128 × BlockData := (BitVec.ofNat 128 (crc32c (blockBytes d)).toNat, d)
theorem segOf_block (cw : Nat) (d : BlockData) :
    (segBlock cw (segOf d)).data = d ∧ (segBlock cw (segOf d)).check = crc32c (blockBytes d) := by
  generalize hc : crc32c (blockBytes d) = c
  have l := c.isLt
  have e : (BitVec.ofNat 128 c.toNat).toNat = c.toNat := by
    rw [BitVec.toNat_ofNat]; exact Nat.mod_eq_of_lt (Nat.lt_trans l (by decide))
  have z : ∀ i, 32 ≤ i → bitOf c.toNat i = false := fun i hi =>
    Nat.testBit_lt_two_pow (Nat.lt_of_lt_of_le l (Nat.pow_le_pow_right (by decide) hi))
  have k : BitVec.ofNat 32 c.toNat = c := by simp
  simp only [segBlock, segOf, Block.ofMeta, hc, e, z 97 (by decide), z 98 (by decide), k]
  exact ⟨rfl, rfl⟩
theorem segOf_check (cw : Nat) (d : BlockData) :
    crc32c (blockBytes (segBlock cw (segOf d)).data) = (segBlock cw (segOf d)).check := by
  rw [(segOf_block cw d).1, (segOf_block cw d).2]
theorem segOf_len (cw : Nat) (d : BlockData) : storedLen cw (segOf d).1 = 256 := by
  generalize hc : crc32c (blockBytes d) = c
  have l := c.isLt
  have e : (BitVec.ofNat 128 c.toNat).toNat = c.toNat := by
    rw [BitVec.toNat_ofNat]; exact Nat.mod_eq_of_lt (Nat.lt_trans l (by decide))
  have z : bitOf c.toNat 97 = false := Nat.testBit_lt_two_pow (Nat.lt_of_lt_of_le l (by decide))
  simp only [storedLen, segOf, hc, e, z]; rfl
/-- Window 0 of function 0 is the exchange window of partition 15; it maps its first 2 MiB to HBM page 0, whose first block holds d. -/
def exchanged (d : BlockData) : State :=
  let s := spans up
  { s with reg := { s.reg with mmuWin := [(0, BitVec.ofNat 64 (2 ^ 63 + 2 ^ 51 + 15 * 2 ^ 45 + 2 ^ 27))] }
           mem := { s.mem with dir := [(dirKey 0 0 0, 5)], hbm := [(0, Block.ofData d)] } }
theorem exchanged_block (d : BlockData) : ((exchanged d).hbmBlk 0).cz = false ∧
    crc32c (blockBytes ((exchanged d).hbmBlk 0).data) = ((exchanged d).hbmBlk 0).check := ⟨rfl, rfl⟩
def rWr (d : BlockData) : LinkRecord := record 1 0 0 0x123 0 1 0 [segOf d]
def rRd : LinkRecord := record 2 0 0 0x123 0 1 0 []
theorem witness_RecordsAreAnswered_exchange :
    (exchanged 0).topology = 1 ∧ (exchanged 0).partOfPid (recPid (rWr 0)) = some 15 ∧ recNblk (rWr 0) = 1 ∧
    exchOk 15 (rWr 0) 1 true (exchanged 0) ∧ exchDva (rWr 0) 0 (exchanged 0) = 10 * 2 ^ 44 ∧
    (exchanged 0).locate (recFn (rWr 0)) 15 (10 * 2 ^ 44) = .hbm ⟨false, dirKey 0 0 0⟩ 5 0 0 true ∧
    pteHost 5 = false ∧ pteZero ((exchanged 0).pte ⟨false, dirKey 0 0 0⟩) = false ∧ exchOk 15 rRd 1 false (exchanged 0) := by decide +kernel
theorem rWr_blocks : (rWr 0).blocks = [segOf 0] := rfl
theorem takes_rRd : LinkTakes 35 2 rRd (exchanged 0) :=
  ⟨by decide +kernel, by decide +kernel, fun _ => by decide +kernel, by decide +kernel⟩
theorem takes_rWr : LinkTakes 35 1 (rWr 0) (exchanged 0) :=
  ⟨by decide +kernel, by decide +kernel, fun _ => by decide +kernel, by decide +kernel⟩

/-- A core waits for the answer with tag 0xFFFF. -/
def waits (write : Bool) (s : State) : State :=
  { s with net := { s.net with remote := [{ tag := 0xFFFF, core := 2047, fn := 0, dst := 0x100, write := write, sentAt := 5, dest := 1, elems := 3, step := 0, link := 35 }] } }
theorem witness_RecordsAreAnswered :
    ((linked 4).link 35).mode.usable ∧ (linked 4).partOfPid 0x999 = none ∧ (linked 4).topology = 1 ∧ ((linked 4).link 35).mode = .up ∧
    ((linked 4).gatePart 0x3FFF = none ∧ (((linked 4).setGate 0x3FFF { Gate.reset with target := 2 }).gate 0x3FFF).target = 2) ∧
    (spans up).topology = 1 ∧ ((waits false (linked 4)).net.remote.find? (fun y => y.tag == recTag rRd && y.write == false)).isSome ∧
    ((waits true (linked 4)).net.remote.find? (fun y => y.tag == recTag rRd && y.write == true)).isSome ∧ (linked 4).net.remote = [] ∧
    recStatus (record 3 0 0 0x999 7 0 0 []) = 7 ∧
    (recDst (record 2 3 1 0x999 0 1 0 []) ≠ (linked 4).moduleNo ∧ recHop (record 2 3 1 0x999 0 1 0 []) = 3 ∧
      recHop (record 2 4 1 0x999 0 1 0 []) = 4 ∧
      ((linked 4).setLink 34 { Link.reset with mode := .up, level := 4 }).routeLink 1 1 (pairKey 2 (36 + 34) 0) = some 34) := by
  decide +kernel
theorem test_wr : ∃ t, exec (.wr 35 (record 1 0 0 0x999 0 1 0 [])) (linked 4) = .next t ∧
    t.host.out = [.record 35 (recAtLevel (answerTo 4 1 [] (record 1 0 0 0x999 0 1 0 []) (linked 4)) 4)] := ⟨_, rfl, by decide +kernel⟩
theorem test_rdReq : ∃ t, exec (.rdReq 35 (record 2 0 0 0x999 0 1 0 [])) (linked 3) = .next t ∧
    t.host.out = [.record 35 (recAtLevel (answerTo 3 1 [] (record 2 0 0 0x999 0 1 0 []) (linked 3)) 3)] := ⟨_, rfl, by decide +kernel⟩
theorem test_ack : ∃ t, exec (.ack 35 (record 4 0 0 0x999 0 0 0 [])) (waits true (linked 4)) = .next t ∧ t.net.remote = [] :=
  ⟨_, rfl, by decide +kernel⟩
theorem test_rdData : ∃ t, exec (.rdData 35 (record 3 0 0 0x999 7 0 0 [])) (waits false (linked 4)) = .next t ∧ t.net.remote = [] :=
  ⟨_, rfl, by decide +kernel⟩
theorem test_arrive : ∃ t, exec (.arrive 35 (record 5 0 0 0x999 0 0 0x3FFF [])) ((linked 4).setGate 0x3FFF { Gate.reset with target := 2 }) = .next t ∧
    (t.gate 0x3FFF).count = 1 := ⟨_, rfl, by decide +kernel⟩
theorem test_recordForward : ∃ t, exec (.recordForward 35 (record 2 4 1 0x999 0 1 0 [])) (linked 4) = .next t ∧
    t.jr.waiting.map (·.code) = [0x040D] := ⟨_, rfl, by decide +kernel⟩
theorem test_requestTimeout : ∃ t, exec (.requestTimeout 0xFFFF) (waits false (linked 4)) = .next t ∧ t.tick.st = 16000005 ∧
    t.net.remote = [] := ⟨_, rfl, by decide +kernel⟩

/-- The ports of the answers are free; link 34 leads on, with credit for the record and without. -/
def onward (credit : Tab Nat) : State := (linked 4).setLink 34 { Link.reset with mode := .up, level := 4, credit := credit }
def forwarded : LinkRecord :=
  { record 2 3 1 70 0 1 0 [] with header := (record 2 3 1 70 0 1 0 []).header + BitVec.ofNat 256 (2 ^ 5) }
theorem ready_answers : PortReady 35 (answerTo 4 1 [] (record 1 0 0 0x999 0 1 0 []) (linked 4)) (linked 4) ∧
    PortReady 35 (answerTo 3 1 [] (record 2 0 0 0x999 0 1 0 []) (linked 3)) (linked 3) ∧
    PortReady 35 (answerTo 4 0 [] (rWr 0) (exchanged 0)) (exchanged 0) := by
  refine ⟨⟨?_, ?_⟩, ⟨?_, ?_⟩, ⟨?_, ?_⟩⟩ <;> decide +kernel
theorem can_send (k : Link) (a : LinkRecord) (hm : k.mode = .up) (hc : k.credit = []) (n : recUnits a ≤ 512) : k.canSend a := by
  simp only [Link.canSend, hm, hc]
  exact decide_eq_true n
theorem ready_data (d : BlockData) : PortReady 35 (answerTo 3 0 [segOf d] rRd (exchanged d)) (exchanged d) := by
  have n : recUnits (answerTo 3 0 [segOf d] rRd (exchanged d)) = 19 := by
    simp [recUnits, recLen, answerTo, segBytes, segOf_len]
  exact ⟨rfl, can_send _ _ rfl rfl (by omega)⟩
theorem witness_RecordsAreAnswered_forward :
    (onward []).routeLink 1 1 (pairKey 2 70 0) = some 34 ∧ ((onward []).link 34).queue = [] ∧ ((onward []).link 34).canSend forwarded ∧
    ((onward [(recBuf forwarded, 0)]).link 34).canSend forwarded = false ∧ recSrc forwarded ≠ (onward []).moduleNo ∧
    (linked 4).unsent 0xFFFF = false ∧ (exchanged 0).mem.eccBad = [] := by decide +kernel
/-- A NULL flit with NAK for every flit after 4090, its CRC made good. -/
def flitNull : BlockData :=
  let f : BlockData := BitVec.ofNat 2048 (2 ^ 24 + 2 ^ 25 + 40 * 2 ^ 26 + 4090 * 2 ^ 12)
  f ||| BitVec.ofNat 2048 ((crc32 ((blockBytes f).take 252)).toNat * 2 ^ 2016)
theorem witness_RecordsAreAnswered_flit :
    fieldLE (blockBytes flitNull) 252 4 = (crc32 ((blockBytes flitNull).take 252)).toNat ∧
    bitOf (fieldLE (blockBytes flitNull) 0 4) 25 ∧ bitOf (fieldLE (blockBytes flitNull) 0 4) 24 ∧
    40 ≤ bitsOf (fieldLE (blockBytes flitNull) 0 4) 31 26 ∧ ((linked 4).link 35).owed = [] ∧ ((linked 4).link 35).sinceAck + 1 < 64 ∧
    bitsOf (0 : Dword).toNat 63 60 = 0 ∧ ((linked 4).link 35).rxSeq ≠ 1 % 4096 ∧ ((linked 4).link 35).nakSent = false ∧
    ((linked 4).link 35).replaysSec + 0 ≤ replayThresh (linked 4) ∧ ((linked 4).link 35).replayRow < 7 := by decide +kernel
/-- A flit in an uncorrectable code word is discarded and asked for again (R326). -/
theorem test_flitReceive : ∃ t, exec (.flitReceive 35 0 ⟨true, 0⟩) (linked 4) = .next t ∧ (t.link 35).nakSent ∧
    (t.link 35).fecUncorr = 1 ∧ t.host.out = [.nak 35 4095] := ⟨_, rfl, by decide +kernel⟩
/-- Port 35 with an RD_REQ and a WR in its queue: three DATA flits have gone, so the CTL record leaves. -/
def port (gap : Nat) : Link :=
  { Link.reset with mode := .up, level := 4, ctlGap := gap, queue := [record 1 0 1 0x999 0 0 0 [], record 2 0 1 0x999 0 1 0 []] }
theorem witness_RecordsAreAnswered_pick : (port 3).pick = some 1 ∧ (port 2).pick = some 0 := by decide +kernel

/-! Markers -/

/-- A marker of the given type and fields at link 35 of `spans`. -/
def atMember : State := led 0 (spans up)
def wPen : Dword := mkMarker 1 (0x123 * 2 ^ 48)
def wFeat : Dword := mkMarker 2 (0x123 * 2 ^ 48 + 2 ^ 36)
def wReq : Dword := mkMarker 3 7
def wResp : Dword := mkMarker 3 (2 ^ 59 + 100 * 2 ^ 40 + 9)
def wFleet : Dword := mkMarker 4 (1 * 2 ^ 52 + 2 * 2 ^ 48 + 1 * 2 ^ 27)
def wSwap : Dword := mkMarker 5 (3 * 2 ^ 58 + 77)
def wAnn : Dword := mkMarker 6 (1 * 2 ^ 48 + 9 * 2 ^ 40 + 7 * 2 ^ 37)
def wState : Dword := mkMarker 7 (1 * 2 ^ 48 + 35 * 2 ^ 42 + 6 * 2 ^ 39)
theorem on_marker (n : Nat) (w : Dword) (soak : Bool)
    (h : (n, w, soak) ∈ [(1, wPen, false), (2, wFeat, false), (3, wReq, true), (3, wResp, true), (4, wFleet, false), (5, wSwap, false),
      (6, wAnn, true), (7, wState, false)]) : MarkerOn 35 n w soak atMember := by
  simp only [List.mem_cons, List.not_mem_nil, or_false, Prod.mk.injEq] at h
  rcases h with ⟨rfl, rfl, rfl⟩ | ⟨rfl, rfl, rfl⟩ | ⟨rfl, rfl, rfl⟩ | ⟨rfl, rfl, rfl⟩ | ⟨rfl, rfl, rfl⟩ | ⟨rfl, rfl, rfl⟩ | ⟨rfl, rfl, rfl⟩ |
    ⟨rfl, rfl, rfl⟩ <;> exact ⟨by decide +kernel, .inl (by decide +kernel)⟩
/-- Link 35 leads to the parent, and asked it at time 0. -/
def child : State :=
  let s := atMember.setLink 35 { Link.reset with mode := .up, level := 4, syncT1 := some 0 }
  { s with net := { s.net with parent := some 35 } }
theorem witness_MarkersAreTaken :
    atMember.memberPart 35 (penPid wPen) = some 15 ∧ atMember.memberPart 35 (bitsOf wFeat.toNat 59 48) = some 15 ∧
    bitsOf wFeat.toNat 47 36 ≠ atMember.moduleNo ∧ (atMember.partMembers 15).contains (bitsOf wFeat.toNat 47 36) ∧ atMember.spanning 15 ∧
    (child.net.parent = some 35 ∧ (child.link 35).syncT1 = some 0 ∧ wReq.getLsbD 59 = false ∧ wResp.getLsbD 59) ∧
    (∀ j, j < 36 → j ≠ 35 → (atMember.link j).master = none) ∧ atMember.fleetNew wFleet ∧
    (fleetId wFleet ≠ odNat atMember 0x3000 0x0B 0 ∧ fleetId wFleet = odNat (withOd [(odKey 0x3000 0x0B, [2])] atMember) 0x3000 0x0B 0 ∧
      fleetValid wFleet) ∧ bitsOf wState.toNat 59 48 ≠ atMember.moduleNo := by decide +kernel
theorem witness_MarkersAreTaken_more : 35 ∈ child.markerLinks true ∧ 35 ∉ ({ up with net := { up.net with parent := some 35 } } : State).markerLinks true ∧
    (atMember.part 15).hasFinal = false ∧ ((atMember.setPart 15 { atMember.part 15 with hasFinal := true }).part 15).hasFinal ∧
    atMember.partTicks 15 ∧ wPen.getLsbD 42 = (atMember.part 15).prevAdv ∧ bitsOf wPen.toNat 41 40 = (atMember.part 15).tick % 4 := by
  decide +kernel
theorem test_pennant : ∃ t, exec (.pennant 35 wPen) atMember = .next t ∧ (t.part 15).merged = wPen := ⟨_, rfl, by decide +kernel⟩
/-- A word of another tick freezes the partition. -/
theorem test_pennant_other : ∃ t, exec (.pennant 35 (wPen + 2 ^ 40)) atMember = .next t ∧ (t.part 15).state = .frozen := ⟨_, rfl, by decide +kernel⟩
theorem test_feature : ∃ t, exec (.feature 35 wFeat) atMember = .next t ∧ (t.part 15).features = [(1, wFeat)] ∧ t.host.out = [] :=
  ⟨_, rfl, by decide +kernel⟩
theorem test_featureResend : ∃ t, exec (.featureResend 15) atMember = .next t ∧ t.host.out = [.marker 35 (atMember.ownFeature 15)] :=
  ⟨_, rfl, by decide +kernel⟩
theorem test_syncReq : ∃ t, exec (.syncReq 35 wReq 100) atMember = .next t ∧
    t.host.out = [.marker 35 (mkMarker 3 (2 ^ 59 + 32768 * 2 ^ 40))] := ⟨_, rfl, by decide +kernel⟩
/-- The answer took 100 units, so the delay is 2^39 - 50 units and the link is refused. -/
theorem test_syncResp : ∃ t, exec (.syncResp 35 wResp) child = .next t ∧ (t.link 35).mode = .refused := ⟨_, rfl, by decide +kernel⟩
theorem test_syncInterval : ∃ t, exec .syncInterval child = .next t ∧ t.host.out = [.marker 35 (mkMarker 3 0)] := ⟨_, rfl, by decide +kernel⟩
theorem test_fleet : ∃ t, exec (.fleet 35 wFleet) (withOd [(odKey 0x3000 0x0B, [2])] atMember) = .next t ∧ t.pwr.fleetLast = some 1 :=
  ⟨_, rfl, by decide +kernel⟩
theorem test_announce : ∃ t, exec (.announce 35 wAnn) atMember = .next t ∧ t.net.master = some (1, 9) ∧ t.net.parent = some 35 ∧ t.net.hops = 7 :=
  ⟨_, rfl, by decide +kernel⟩
theorem test_announceInterval : ∃ t, exec .announceInterval (withOd [(odKey 0x4000 0x07, [5])] atMember) = .next t ∧
    t.host.out = [.marker 35 (mkMarker 6 (5 * 2 ^ 40))] := ⟨_, rfl, by decide +kernel⟩
theorem test_linkstate : ∃ t, exec (.linkstate 35 wState) atMember = .next t ∧ t.linkSt 1 35 = 6 := ⟨_, rfl, by decide +kernel⟩

/-! Links in service -/

def linkIn (m : LinkMode) (f : Link → Link) : State :=
  (withOd [(odKey 0x4000 0x01, [1])] up).setLink 35 (f { Link.reset with mode := m, level := 4 })
/-- Every partition with clusters is PARKED. -/
def parkedUp : State := (runs (linkIn .up id)).setPart 15 { Part.reset with state := .parked }
def res0 : TrainResult := { good with peerModule := 1, peerLink := 35 }
theorem witness_LinkModesFollowTheLanes :
    MarkerOn 35 5 wSwap false atMember ∧ ((linkIn .up (fun k => { k with swapLane := some 3 })).link 35).swapLane = some 3 ∧
    (((linkIn .soak id).link 35).mode = .soak ∧ (linkIn .soak id).allMapped ∧ (linkIn .soak id).linkConnected 35 ∧
      ((linkIn .soak id).link 35).soakBad = false) ∧
    ((linkIn .up (fun k => { k with lock := true })).link 35).lock ∧
    (((linkIn .up id).link 35).mode.usable ∧ bitOf ((linkIn .up id).link 35).laneMap 3 = false) ∧
    ((linkIn .down id).serving ∧ (linkIn .down id).linkConnected 35 ∧ ((linkIn .down id).link 35).mode = .down ∧
      (linkIn .down id).peer 35 = some (res0.peerModule, res0.peerLink) ∧ res0.propNs ≤ 75 ∧ res0.fullOk) ∧
    (parkedUp.partsParked ∧ (parkedUp.link 35).mode = .up) ∧ ((linkIn .lowpwr id).link 35).mode = .lowpwr ∧
    ((linkIn .down id).link 35).mode.usable = false := by
  refine ⟨on_marker 5 wSwap false (by simp), ?_, ⟨?_,?_,?_,?_⟩, ?_, ⟨?_,?_⟩, ⟨?_,?_,?_,?_,?_,?_⟩,?_,?_,?_⟩ <;> decide +kernel
theorem test_laneSwap : ∃ t, exec (.laneSwap 35 wSwap) atMember = .next t ∧ (t.link 35).swapLane = some 3 ∧ (t.link 35).swapSlot = 77 :=
  ⟨_, rfl, by decide +kernel⟩
theorem test_laneSwapSlot : ∃ t, exec (.laneSwapSlot 35) (linkIn .up (fun k => { k with swapLane := some 3 })) = .next t ∧
    (t.link 35).laneMap = 8 := ⟨_, rfl, by decide +kernel⟩
theorem test_soakEnd : ∃ t, exec (.soakEnd 35 [999, 1000] false) (linkIn .soak id) = .next t ∧ (t.link 35).mode = .train ∧ (t.link 35).soakFails = 1 :=
  ⟨_, rfl, by decide +kernel⟩
theorem test_berWindow : ∃ t, exec (.berWindow 35 [10001, 10000] 2) (linkIn .up (fun k => { k with lock := true })) = .next t ∧
    (t.link 35).overBer.take 2 = [1, 0] ∧ (t.link 35).fecCorr = 2 := ⟨_, rfl, by decide +kernel⟩
theorem test_laneLockLost : (∃ t, exec (.laneLockLost 35 3 true) (linkIn .up id) = .next t ∧ (t.link 35).laneMap = 8 ∧ (t.link 35).mode = .up) ∧
    ∃ t, exec (.laneLockLost 35 2 true) (linkIn .up (fun k => { k with laneMap := 8 })) = .next t ∧ (t.link 35).mode = .down :=
  ⟨⟨_, rfl, by decide +kernel⟩, _, rfl, by decide +kernel⟩
theorem test_linkRetry : ∃ t, exec (.linkRetry 35 res0) (linkIn .down id) = .next t ∧ (t.link 35).mode = .soak ∧ t.tick.st = 10000 * msSt :=
  ⟨_, rfl, by decide +kernel⟩
theorem test_lowpwrEntry : ∃ t, exec (.lowpwrEntry 35 true) parkedUp = .next t ∧ (t.link 35).mode = .lowpwr := ⟨_, rfl, by decide +kernel⟩
theorem test_lowpwrWake : ∃ t, exec (.lowpwrWake 35) (linkIn .lowpwr id) = .next t ∧ (t.link 35).mode = .up := ⟨_, rfl, by decide +kernel⟩
theorem test_parentLinkFail : ∃ t, exec .parentLinkFail ({ linkIn .down id with net := { (linkIn .down id).net with parent := some 35 } }) = .next t ∧
    t.net.parent = none := ⟨_, rfl, by decide +kernel⟩
theorem test_holdoverTimeout : ∃ t, exec .holdoverTimeout { up with net := { up.net with master := none, lostSince := some 5 } } = .next t ∧
    t.tick.st = 16000000005 ∧ t.jr.waiting.map (·.code) = [0x0409] := ⟨_, rfl, by decide +kernel⟩

/-! ## Witnesses: counts and tasks -/

/-- A dense count task of 8 planes, and its context on core 2047. -/
def cTask : Task := { task0 with boundM := 1, boundN := 1, boundK := 1, fr := { task0.fr with wFmt := 0x18 } }
def ctxOf (t : Task) : TaskCtx := mkCtx 2047 (execOf .running (planOf t)) 0 t
/-- Core 2047 runs r, a run of task t. -/
def running (r : Run) (t : Task) (s : State) : State :=
  withExec (execOf .running (planOf t))
    (runs { s with cores := [(2047, { Core.reset with run := some r, window := some 0 })] })
/-- A granule of ones: 16 valid tokens, or lanes in transposed mode. -/
def ones : SegIn := { kg := 0, qA := 0, slices := 2, qs := List.replicate 64 1, valid := 16, shift := 0, nonfin := false, poison := false }
def jobOf (i : SegIn) : Job :=
  { frame := 7, mac := 63, sparse := false, round := 0, inputs := [i],
    parts := [{ seg := 15, inp := 0, ng := 0, qO := 0, lane := 31, chan := 0, n := 1 }], next := 0, acc := [], failed := [],
    bad := [], badLane := [] }
def runOf (j : Job) : Run := { Run.start 1 0 with busy := true, setup := true, jobs := [j] }
def zeros : SegIn := { ones with qs := List.replicate 64 0 }
/-- The task of a transposed pass, and a job of two lanes for it. -/
def tTask : Task := { cTask with wop := 4, fr := { cTask.fr with wFmt := 0x14 } }
def tJob (i : SegIn) : Job := { jobOf i with parts := [{ seg := 15, inp := 0, ng := 0, qO := 0, lane := 0, chan := 0, n := 16 }] }
theorem runs_core (r : Run) (t : Task) (h : (r, t) ∈ [(runOf (jobOf ones), cTask), (runOf (jobOf zeros), cTask),
    (runOf { jobOf ones with next := 1, failed := [15] }, cTask), (runOf (tJob ones), tTask), (runOf { tJob ones with next := 1, failed := [960] }, tTask),
    ({ runOf (jobOf ones) with sparse := true, base := 100 }, cTask)]) : CoreRuns 2047 r (ctxOf t) (running r t up) := by
  simp only [List.mem_cons, List.not_mem_nil, or_false, Prod.mk.injEq] at h
  rcases h with ⟨rfl, rfl⟩ | ⟨rfl, rfl⟩ | ⟨rfl, rfl⟩ | ⟨rfl, rfl⟩ | ⟨rfl, rfl⟩ | ⟨rfl, rfl⟩ <;>
    exact ⟨by decide +kernel, by decide +kernel, by decide +kernel⟩
theorem witness_CountsAddTheirLevels :
    ((dueCount (ctxOf cTask) (runOf (jobOf ones)) 63 (running (runOf (jobOf ones)) cTask up)).isSome ∧
      (countsOf (ctxOf cTask) (runOf (jobOf ones)) (Mac.fresh 0) (jobOf ones)).length = 2 ∧ cTask.transposed = false) ∧
    ((runOf { jobOf ones with next := 1, failed := [15] }).jobOf 63 = some (0, { jobOf ones with next := 1, failed := [15] }) ∧
      (running (runOf (jobOf ones)) cTask up).fenced (up.physMac 2047 63) = false ∧ cTask.isCount) ∧
    (tTask.isCount ∧ tTask.transposed ∧ (dueCount (ctxOf tTask) (runOf (tJob ones)) 63 (running (runOf (tJob ones)) tTask up)).isSome ∧
      1 < (countsOf (ctxOf tTask) (runOf (tJob ones)) (Mac.fresh 0) (tJob ones)).length) ∧
    ((dueCount (ctxOf cTask) (runOf (jobOf zeros)) 63 (running (runOf (jobOf zeros)) cTask up)).map (fun q =>
      isFiller (ctxOf cTask) (Mac.fresh 0) q.2.1 q.2.2) = some true) ∧
    (sliceDone (ctxOf cTask) { runOf (jobOf ones) with sparse := true, base := 100 } up = false ∧ 0 < 6 * (100 + 0) / 100) ∧
    ((runs up).partOfCluster (clusterOfCore 2047) = some 15 ∧ (runs up).partTicks 15 ∧ ((runs up).core 2047).run = none ∧
      glideEn { runs up with reg := { up.reg with glideCfg := 0x81 } } ∧ (runs up).nextWork 2047 = false) := by decide +kernel
/-- Rows 0 to 7 of segment 15 hold 1 in bit 248, plane 0 of lane 31; the count adds 8, and the next count of the slice is due. -/
def withRows (s : State) : State :=
  s.setMac (s.physMac 2047 63) { Mac.fresh 0 with stair := List.replicate 16 ((List.range 9).map (fun l => 100 + 160 * l)), rows := (List.range 8).map (fun k => (960 + k, rowWithRefs (960 + k) (2 ^ 248))) }
theorem test_count : ∃ t, exec (.count 2047 63 []) (withRows (running (runOf (jobOf ones)) cTask up)) = .next t ∧
    (t.core 2047).run.map (fun r => r.jobs.map (fun j => j.next)) = some [1] ∧
    tget (t.macAt (up.physMac 2047 63)).ctr (ctrKey 15 248) = some 8 := ⟨_, rfl, by decide +kernel⟩
/-- A reference section out of range fails the segment, which adds nothing. -/
theorem test_count_fails : ∃ t, exec (.count 2047 63 [{ seg := 15, col := 272, uv := -1000000 }]) (withRows (running (runOf (jobOf ones)) cTask up)) = .next t ∧
    (t.core 2047).run.map (fun r => r.jobs.map (fun j => (j.next, j.failed))) = some [(1, [15])] ∧
    (t.macAt (up.physMac 2047 63)).ctr = [] := ⟨_, rfl, by decide +kernel⟩
theorem test_countRetry : ∃ t, exec (.countRetry 2047 63 []) (withRows (running (runOf { jobOf ones with next := 1, failed := [15] }) cTask up)) = .next t ∧
    (t.core 2047).run.map (fun r => r.jobs.map (fun j => (j.next, j.failed, j.bad))) = some [(1, [], [])] ∧
    tget (t.macAt (up.physMac 2047 63)).ctr (ctrKey 15 248) = some 8 := ⟨_, rfl, by decide +kernel⟩
theorem test_fillerCount : ∃ t, exec (.fillerCount 2047 63 [0, 8] []) (withRows (running (runOf (jobOf zeros)) cTask up)) = .next t ∧
    (t.core 2047).run.map (fun r => r.jobs.map (fun j => j.next)) = some [1] ∧ (t.macAt (up.physMac 2047 63)).ctr = [] ∧ t.mnt.fillerBad = 0 := ⟨_, rfl, by decide +kernel⟩
theorem test_transposedCount : ∃ t, exec (.transposedCount 2047 63 []) (running (runOf (tJob ones)) tTask up) = .next t ∧
    (t.core 2047).run.map (fun r => r.jobs.map (fun j => j.next)) = some [1] ∧ (t.macAt (up.physMac 2047 63)).rowCtr = [] := ⟨_, rfl, by decide +kernel⟩
theorem test_guardWindowEnd : ∃ t, exec (.guardWindowEnd 152591 15) (up.setMac 152591 { Mac.fresh 0 with guardN := List.replicate 16 512 }) = .next t ∧
    (t.macAt 152591).guardN = List.replicate 15 512 ++ [0] := ⟨_, rfl, by decide +kernel⟩
theorem test_retryWindowEnd : ∃ t, exec (.retryWindowEnd 0 0) (up.setMac 0 { Mac.fresh 0 with retryN := List.replicate 16 65535 }) = .next t ∧
    (t.macAt 0).retryN = List.replicate 16 65535 := ⟨_, rfl, by decide +kernel⟩
/-- Core 2047 has done its work of the tick, with a GLIDE_ROWS of 8. -/
def gliding (n : Nat) : State :=
  { runs up with reg := { (runs up).reg with glideCfg := 0x81 }, cores := [(2047, { Core.reset with planned := n })] }
theorem witness_CountsAddTheirLevels_glide :
    glideEn (gliding 1) ∧ (gliding 1).partOfCluster (clusterOfCore 2047) = some 15 ∧ (gliding 1).partTicks 15 ∧
    ((gliding 1).core 2047).run = none ∧ ((gliding 1).core 2047).paused = [] ∧ (gliding 1).fenced ((gliding 1).physMac 2047 63) = false ∧
    glideDensity (gliding 1) 15 2047 5 5 = 8 ∧ glideDensity (gliding 0) 15 2047 5 5 = 0 := by decide +kernel
/-- The filler raises the rows of its group, and no reference section mismatches. -/
theorem test_glideFiller : ∃ t, exec (.glideFiller 2047 63 5 []) (gliding 1) = .next t ∧ (t.core 2047).glideFrom = some 5 ∧
    t.mnt.fillerBad = 0 := ⟨_, rfl, by decide +kernel⟩
theorem test_glideFiller_busy : ∃ t, exec (.glideFiller 2047 63 0 []) (running (runOf (jobOf ones)) cTask up) = .next t ∧ t.mnt.fillerBad = 0 := ⟨_, rfl, by decide +kernel⟩

/-! Tasks -/

/-- A task that copies, one that reads a Tensor Header on module 1 (level 4), and one whose output is scaled. -/
def copyTask : Task := { cTask with ctl := 1 }
def farTask : Task := { copyTask with fr := { copyTask.fr with aHdr := 10 * 2 ^ 44 + 2 ^ 32 } }
def scaledTask : Task := { cTask with egress := 0x1110, fr := { cTask.fr with srec := 0x100, scaleCtl := 2 * 2 ^ 9 } }
def setup0 : Run := { Run.start 1 0 with setup := true }
def done0 : Run := { setup0 with finished := true }
/-- Task 0 of execution 1 waits in the slot of core 2047. -/
def slotted (t : Task) : State :=
  withExec (execOf .running (planOf t)) (runs { up with cores := [(2047, { Core.reset with slot := [(1, 0)], window := some 0 })] })
theorem runs_task (r : Run) (t : Task) (h : (r, t) ∈ [(setup0, copyTask), (done0, copyTask), (done0, scaledTask), (setup0, cTask)]) :
    CoreRuns 2047 r (ctxOf t) (running r t up) := by
  simp only [List.mem_cons, List.not_mem_nil, or_false, Prod.mk.injEq] at h
  rcases h with ⟨rfl, rfl⟩ | ⟨rfl, rfl⟩ | ⟨rfl, rfl⟩ | ⟨rfl, rfl⟩ <;> exact ⟨by decide +kernel, by decide +kernel, by decide +kernel⟩
theorem runs_far : CoreRuns 2047 (Run.start 1 0) (ctxOf farTask) (running (Run.start 1 0) farTask (spans up)) :=
  ⟨by decide +kernel, by decide +kernel, by decide +kernel⟩
theorem witness_TasksStartAndRetire :
    ((slotted copyTask).coreTicks 2047 ∧ ((slotted copyTask).core 2047).run = none ∧ (slotted copyTask).startable 2047 = some (1, 0) ∧
      (slotted copyTask).taskCtx 2047 (Run.start 1 0) = some (ctxOf copyTask) ∧ copyTask.isCopy) ∧ up.startable 2047 = none ∧
    (remoteNeeds (ctxOf copyTask) setup0 (running setup0 copyTask up) = [] ∧ nextLive (ctxOf copyTask) 0 = some 0 ∧ copyTask.isCopy ∧
      oDue (ctxOf copyTask) setup0 = false) ∧
    remoteNeeds (ctxOf farTask) (Run.start 1 0) (running (Run.start 1 0) farTask (spans up)) = [10 * 2 ^ 44 + 2 ^ 32] ∧
    (running (Run.start 1 0) farTask (spans up)).locate 0 15 (10 * 2 ^ 44 + 2 ^ 32) = .peer 1 0 ∧
    scaledTask.scaled ∧ scaledTask.prepass = false ∧ 0 + 1 < srPcnt scaledTask.fr.scaleCtl ∧ srPcnt scaledTask.fr.scaleCtl ≤ 255 ∧
    mayRetire (ctxOf copyTask) done0 (running done0 copyTask up) ∧ copyTask.fr.oHdr = 0 ∧
    ((running done0 copyTask up).core 2047).window = some 0 ∧ ((running done0 copyTask up).exec? 1).isSome ∧
    mayRetire (ctxOf cTask) setup0 (running setup0 cTask up) = false := by decide +kernel
theorem test_taskStart : ∃ t, exec (.taskStart 2047) (slotted copyTask) = .next t ∧ (t.core 2047).run.map (·.setup) = some true ∧
    (t.core 2047).slot = [] := ⟨_, rfl, by decide +kernel⟩
theorem test_taskRetire : ∃ t, exec (.taskRetire 2047) (running done0 copyTask up) = .next t ∧ (t.core 2047).run = none ∧
    t.adm.execs.map (·.retired) = [[0]] := ⟨_, rfl, by decide +kernel⟩
/-- The block is asked for of module 1 on the link of the pair's key. -/
theorem test_stagingCopy_far : ∃ t, exec (.stagingCopy 2047) (running (Run.start 1 0) farTask
    ((spans up).setLink (0x123 % 36) { Link.reset with mode := .up, level := 4 })) = .next t ∧
    t.net.remote.map (fun w => (w.dst, w.dest, w.write)) = [(10 * 2 ^ 44 + 2 ^ 32, 1, false)] := ⟨_, rfl, by decide +kernel⟩

/-! ## Witnesses: maintenance -/

/-- The physical macros that logical macro 63 of core 2047 and the last spare of its core are. -/
def pmTop : Nat := up.physMac 2047 63
def pmSpare : Nat := pmTop / 66 * 66 + 65
def reqOf (a : Activity) (pm : Nat) : MntReq := { act := a, die := dieOfPhysMac pm, core := pm / 66, mac := pm, guard := true, at_ := 9 }
/-- Requests for an activity on each of the macros wait; a window of die 3 for partition 15 with grants is open. -/
def queued (l : List MntReq) (s : State) : State := { s with mnt := { s.mnt with queue := l } }
def granted (l : List MntReq) (s : State) : State := { s with mnt := { s.mnt with windows := [{ die := 3, part := 15, reqs := l }] } }
def both (a : Activity) (pm : Nat) (s : State) : State := granted [reqOf a pm] (queued [reqOf a pm] (runs s))
/-- The last row-line section lies 1 mV high in every count; another differs by level. -/
def meas1 : RecalMeas := { meas0 with wrote := false, points := [{ seg := 15, col := 595, volts := List.replicate 9 104 },
  { seg := 14, col := 280, volts := 200 :: List.replicate 8 100 }] }
/-- The macro has a known staircase and holds zeros. -/
def plain (s : State) : State :=
  s.setMac pmTop { Mac.fresh 0 with stair := List.replicate 16 ((List.range 9).map (fun l => 100 + 160 * l)) }
def pend (l : List MapPend) (s : State) : State := { s with mnt := { s.mnt with pend := l } }
theorem witness_MaintenanceRunsAsGranted :
    ((queued [reqOf .cal pmTop] (runs up)).mayOpen 3 15 ∧ (queued [reqOf .cal pmTop] (runs up)).reqIn 3 15 (reqOf .cal pmTop)) ∧
    (up.mntUp ∧ pmTop < physMacCount ∧ pmSpare < physMacCount ∧ up.macroSt pmTop = 0 ∧ up.macroSt pmSpare = 1) ∧
    ((both .cal pmTop up).mayRun .cal pmTop ∧ ((both .cal pmTop up).macPart pmTop).isSome ∧ (both .cal pmTop up).mnt.pend = [] ∧
      (queued [reqOf .cal pmTop] up).mayRun .cal pmTop ∧ (up.macPart pmTop).isNone ∧ recalAbandons meas0 ∧ recalAbandons meas1 = false ∧
      ((both .cal pmTop up).macAt pmTop).flagged = []) ∧
    ((both .scr pmTop up).mayRun .scr pmTop ∧ (granted [] (runs up)).mayScrub pmTop ∧ up.mayScrub pmSpare) ∧
    ((queued [reqOf .cal pmTop] up).mnt.queue.find? (fun r => r.act == .cal && r.mac == pmTop && r.guard) = some (reqOf .cal pmTop) ∧
      (queued [reqOf .cal pmTop] up).grants = []) ∧
    ((both .rep pmTop up).mayRun .rep pmTop ∧ (both .rep pmTop up).logMac pmTop = some (2047, 63) ∧ (both .rep pmTop up).macroSt pmTop = 0 ∧
      (both .rep pmTop up).evacPending 2047 63 = false ∧ (both .rep pmTop up).holdsShadow pmTop = false ∧
      (both .rep pmTop up).imageStack pmTop = none ∧
      (both .rep pmTop up).writesOn 2047 pmTop = false ∧ ((both .rep pmTop up).spareMacro (pmTop / 66)).isSome) ∧
    ((both .rep pmSpare up).mayRun .rep pmSpare ∧ (both .rep pmSpare up).macroSt pmSpare = 1) ∧
    (up.atOnce (.freeMacro pmTop) ∧ (runs up).atOnce (.freeMacro pmTop) = false) := by decide +kernel
/-- Frame 7 is clean, its image lies in HBM stack 0, of which maintenance has used its volume in the tick of partition 15. -/
def noHbm : State :=
  both .rep pmTop (framed 7 { held with backVa := 0x10000 } { mapped up with mnt := { up.mnt with hbmUsed := [(120, 65536)] } })
theorem witness_MaintenanceRunsAsGranted_hbm : noHbm.mayRun .rep pmTop ∧ noHbm.logMac pmTop = some (2047, 63) ∧
    (noHbm.spareMacro (pmTop / 66)).isSome ∧ noHbm.imageStack pmTop = some 0 ∧ noHbm.mntHbmFree pmTop 0 = false ∧
    noHbm.writesOn 2047 pmTop = false ∧ noHbm.holdsShadow pmTop = false ∧ noHbm.evacPending 2047 63 = false := by decide +kernel
theorem test_maintenanceWindowStart : ∃ t, exec (.maintenanceWindowStart 3 15) (queued [reqOf .cal pmTop] (runs up)) = .next t ∧
    t.mnt.windows = [{ die := 3, part := 15, reqs := [reqOf .cal pmTop] }] := ⟨_, rfl, by decide +kernel⟩
theorem test_recalTrigger : ∃ t, exec (.recalTrigger pmTop .age) up = .next t ∧ t.mnt.queue.map (fun r => (r.act, r.mac)) = [(.cal, pmTop)] ∧
    t.tick.st = 1000 * msSt := ⟨_, rfl, by decide +kernel⟩
theorem test_recalibration_abandoned : ∃ t, exec (.recalibration pmTop meas0) (both .cal pmTop up) = .next t ∧ t.mnt.trims = [] ∧
    t.mnt.queue.map (·.mac) = [pmTop] := ⟨_, rfl, by decide +kernel⟩
/-- The offset code of a section that lies 1 mV high falls by 2; a section that deviates by level fails acceptance (R400). -/
theorem test_recalibration : ∃ t, exec (.recalibration pmTop meas1) (plain (queued [reqOf .cal pmTop] up)) = .next t ∧
    tget (t.macAt pmTop).codes (secKey 15 595) = some (32, 30) ∧ tget (t.macAt pmTop).codes (secKey 14 280) = none ∧
    (t.macAt pmTop).flagged = [14] := ⟨_, rfl, by decide +kernel⟩
theorem test_scrubPass_spare : ∃ t, exec (.scrubPass pmSpare [{ row := 1023, col := 271 }, { row := 0, col := 272 }] [] []) (queued [reqOf .scr pmSpare] up) = .next t ∧
    (t.macAt pmSpare).flagged = [15] := ⟨_, rfl, by decide +kernel⟩
theorem test_scrubDeadline : ∃ t, exec (.scrubDeadline 2311) up = .next t ∧ t.tick.st = 100 * msSt ∧ t.jr.waiting.map (·.code) = [0x060A] :=
  ⟨_, rfl, by decide +kernel⟩
theorem test_calDeadline : ∃ t, exec (.calDeadline pmTop) (queued [reqOf .cal pmTop] up) = .next t ∧ t.tick.st = 9 + 10 * msSt ∧
    t.jr.waiting.map (·.code) = [0x060A] := ⟨_, rfl, by decide +kernel⟩
theorem test_evacuationCopy : ∃ t, exec (.evacuationCopy pmTop []) (both .rep pmTop up) = .next t ∧
    t.mnt.pend = [{ change := .evacSwap 2047 63 64, committed := false }] := ⟨_, rfl, by decide +kernel⟩
theorem test_diagnosis_clean : ∃ t, exec (.diagnosis pmSpare [{ seg := 15, diffs := [] }]) (both .rep pmSpare up) = .next t ∧ t.mnt.transients = 1 ∧
    t.mnt.pend = [{ change := .freeMacro pmSpare, committed := false }] := ⟨_, rfl, by decide +kernel⟩
theorem test_diagnosis_row_line : ∃ t, exec (.diagnosis pmSpare [{ seg := 15, diffs := [(3, 0, 0)] }]) (both .rep pmSpare up) = .next t ∧
    t.mnt.pend.map (fun x => match x.change with | .retireMacro m _ => some m | _ => none) = [some pmSpare] := ⟨_, rfl, by decide +kernel⟩
theorem test_spareMapCommit : ∃ t, exec .spareMapCommit (pend [{ change := .freeMacro pmTop, committed := false }] up) = .next t ∧
    t.macroSt pmTop = 1 ∧ t.mnt.pend = [] := ⟨_, rfl, by decide +kernel⟩
theorem test_spareMapCommit_waits : ∃ t, exec .spareMapCommit (pend [{ change := .freeMacro pmTop, committed := false }] (runs up)) = .next t ∧
    t.macroSt pmTop = 0 ∧ t.mnt.pend = [{ change := .freeMacro pmTop, committed := true }] := ⟨_, rfl, by decide +kernel⟩

/-! ## Witnesses: rows -/

def wTask : Task := { cTask with wop := 8 }
def row1 : WRow := { row := 1023, mask := 2 ^ 255, bits := 2 ^ 255, full := false, poison := false }
def row2 : WRow := { row1 with mask := 2 ^ 256 - 1, full := true }
def writeOf (todo written : List WRow) : WriteRun :=
  { frame := 7, mac := 63, sparse := false, page := false, todo := todo, written := written, done := false }
def wRun (w : WriteRun) : Run := { Run.start 1 0 with busy := true, setup := true, writes := [w] }
/-- Core 2047 writes macro 63, which holds frame 7 of function 0. -/
def writing (w : WriteRun) : State := running (wRun w) wTask (framed 7 held up)
theorem next_row (q : WRow) (h : q = row1 ∨ q = row2) :
    RowNext 2047 63 0 (wRun (writeOf [q] [])) (ctxOf wTask) (writeOf [q] []) q [] (writing (writeOf [q] [])) := by
  rcases h with rfl | rfl <;> exact ⟨⟨by decide +kernel, by decide +kernel, by decide +kernel⟩, rfl, rfl, rfl, by decide +kernel, rfl, by decide⟩
theorem runs_readBack : CoreRuns 2047 (wRun (writeOf [] [row1])) (ctxOf wTask) (writing (writeOf [] [row1])) :=
  ⟨by decide +kernel, by decide +kernel, by decide +kernel⟩
/-- Row 1023 of the macro was written at time 5. -/
def aged : State :=
  { (framed 7 held up).setMac pmTop { Mac.fresh 0 with age := [(1023, 5)] } with tick := { up.tick with st := 9 } }
theorem witness_RowsAreWrittenAndRefreshed :
    ((writing (writeOf [row1] [])).life.timingUndefined = false ∧ row1.full = false ∧ row2.full ∧
      remapped (Mac.fresh 0) = false ∧ row1.row < 1024 ∧ row1.mask < 2 ^ 256 ∧ row1.bits < 2 ^ 256) ∧
    ((wRun (writeOf [] [row1])).writeOf 63 = some (0, writeOf [] [row1]) ∧ (writing (writeOf [] [row1])).frame? 0 7 = some held ∧
      (writing (writeOf [] [row1])).fenced ((writing (writeOf [] [row1])).physMac 2047 63) = false ∧
      nextLive (ctxOf wTask) 1 = none ∧ (wRun (writeOf [] [row1])).obuf = [] ∧ held.shadow = none ∧ wTask.isCount = false) ∧
    (pmTop < physMacCount ∧ up.life.diesUp) ∧
    (tget (aged.macAt pmTop).age 1023 = some 5 ∧ aged.frameOfMac pmTop = some (0, 7, held) ∧ aged.logMac pmTop = some (2047, 63) ∧
      held.state = .resident) := by decide +kernel
theorem test_fullRowWrite : ∃ t, exec (.fullRowWrite 2047 63) (writing (writeOf [row2] [])) = .next t ∧
    (rowOf (t.macAt pmTop) 1023).getLsbD 255 ∧ (rowOf (t.macAt pmTop) 1023).getLsbD 254 = false ∧ tget (t.macAt pmTop).age 1023 = some 0 :=
  ⟨_, rfl, by decide +kernel⟩
theorem test_maskedRowWrite : ∃ t, exec (.maskedRowWrite 2047 63 []) (writing (writeOf [row1] [])) = .next t ∧
    dataOf (t.macAt pmTop) 1023 = 2 ^ 255 ∧ (t.core 2047).run.map (fun r => r.writes.map (·.todo)) = some [[]] := ⟨_, rfl, by decide +kernel⟩
theorem test_readBack : ∃ t, exec (.readBack 2047 63 [{ row := 1023, col := 255 }] [{ row := 1023, col := 255 }]) (writing (writeOf [] [row1])) = .next t ∧
    (t.macAt pmTop).poisonRow = [1023] ∧ (t.core 2047).run.map (fun r => (r.busy, r.finished)) = some (false, true) := ⟨_, rfl, by decide +kernel⟩
theorem test_refreshSlot : ∃ t, exec (.refreshSlot 152591 []) (up.setMac 152591 { Mac.fresh 0 with refreshAt := 63 }) = .next t ∧
    (t.macAt 152591).refreshAt = 0 ∧ tget (t.macAt 152591).age 1023 = some 0 := ⟨_, rfl, by decide +kernel⟩
theorem test_urgentRefresh : ∃ t, exec (.urgentRefresh pmTop 1023 []) aged = .next t ∧ t.tick.st = 1536005 ∧
    tget (t.macAt pmTop).age 1023 = some 1536005 ∧ t.jr.raised.map (·.1) = [0x0206] := ⟨_, rfl, by decide +kernel⟩
theorem test_retentionLost : ∃ t, exec (.retentionLost pmTop 1023) aged = .next t ∧ t.tick.st = 3072006 ∧
    (t.frame? 0 7).map (·.state) = some .lost := ⟨_, rfl, by decide +kernel⟩

theorem witness_SliceSumsAreExact : cTask.transposed = false ∧ (jobOf ones).sparse = false ∧ (runOf (jobOf ones)).rc = 64 ∧ ones.valid ≤ 64 ∧
    (15, ones) ∈ (jobOf ones).segs := by decide +kernel
/-- A voltage above every threshold flips in bin 0; one at a level in the centre bin of the level. -/
theorem test_flipBin : (plain up |>.macAt pmTop).flipBin 0 (250 * 2000) = some 0 ∧ ((plain up).macAt pmTop).flipBin 0 (250 * 1380) = some 2 ∧
    ((plain up).macAt pmTop).levelAt 0 (250 * 100) = some (0, false) := by decide +kernel
/-- Bin 27 is the last of level 0 below the last range: level 8 - 26 / 3, GUARD. -/
theorem test_binLevel : binLevel (some 27) = some (0, true) ∧ binLevel (some 26) = some (0, false) ∧ binLevel (some 1) = some (8, true) := by decide

/-! ## Further commands -/

/-- Leaves are combined in their order (R100, R203); a merge of two blocks that saw no key is the first (R203). -/
theorem test_attention : pairwise (fun (a b : List Nat) => a ++ b) [[1], [2], [3]] = some [1, 2, 3] ∧
    (let a : AttnState := { mx := fp32NegInf, l := 0, o := [1] }
     attnMerge a { a with o := [2] } = a) ∧
    maskScores 5 4 1 3 [7, 7, 7, 7] = [7, 7, fp32NegInf, fp32NegInf] := by decide +kernel

theorem test_getEndpointId : ∃ t, exec .getEndpointId { up with od := { up.od with eid := 9 } } = .next t ∧ t.od.eid = 9 ∧ t.host.out.length = 1 :=
  ⟨_, rfl, by decide +kernel⟩
theorem test_tickRefclkRemoved : ∃ t, exec .tickRefclkRemoved up = .next t ∧ t.life.timingUndefined := ⟨_, rfl, by decide +kernel⟩
theorem test_mmuFnClrStats : ∃ t, exec (.mmuFnClrStats 511 0x2002) { up with reg := { up.reg with mmuFnStat := [(511, 7)] } } = .next t ∧
    t.readReg (.mmuFnStat 511) = 0 := ⟨_, rfl, by decide +kernel⟩
theorem test_forceRecoveryAssert : ∃ t, exec .forceRecoveryAssert (inState .aux id) = .next t ∧ t.life.state = .aux ∧
    t.jr.waiting.map (·.code) = [0x0708] := ⟨_, rfl, by decide +kernel⟩
theorem test_pageIn_none : ∃ t, exec (.pageIn 2047 []) up = .next t ∧ t.fm.frames = [] := ⟨_, rfl, by decide +kernel⟩

end Sys2Proof.Tests
end

section
/-!
Host accesses of BAR0 (R16, R484, R485): which writes change nothing, what an aligned write inside a register does, and
how the two halves of a 64-bit register go together.
-/

namespace Sys2Proof.Machine

open Sys2Proof

/-! ## Halves of a 64-bit register (R485) -/

/-- The state in which a low half is held for the register of `key`. -/
def State.holdLow (s : State) (key v : Nat) : State :=
  { s with host := { s.host with heldLow := tput s.host.heldLow key (BitVec.ofNat 32 v) } }

@[simp] theorem State.holdLow_serving (s : State) (key v : Nat) : (s.holdLow key v).serving = s.serving := rfl

theorem State.holdLow_sameOff (s : State) (key v : Nat) : SameOff [.host] s (s.holdLow key v) :=
  (Kept.host (t := s) (v := (s.holdLow key v).host) (List.mem_singleton.2 rfl) (fun w => w) (.refl _ s)).off

theorem tget_holdLow (s : State) (key v : Nat) :
    tget (s.holdLow key v).host.heldLow key = some (BitVec.ofNat 32 v) := tget_tput_self ..

theorem withHalf_low (key cur v : Nat) (act : Nat → State → State) (s : State) :
    withHalf key cur .low v act s = s.holdLow key v := rfl

theorem withHalf_whole_of_dword (key cur : Nat) (v : Dword) (act : Nat → State → State) (s : State) :
    withHalf key cur .whole v.toNat act s = act v.toNat s := by
  have hv : v.toNat % 2 ^ 64 = v.toNat := Nat.mod_eq_of_lt v.isLt
  simp only [withHalf, hv]

/-- A high half takes the held low half with it, whatever the register reads as, and the low half is held no more. -/
theorem withHalf_high_of_held {key : Nat} {s : State} {low : Word} (h : tget s.host.heldLow key = some low) (cur v : Nat)
    (act : Nat → State → State) :
    withHalf key cur .high v act s =
      act (low.toNat + v % 2 ^ 32 * 2 ^ 32) { s with host := { s.host with heldLow := tdel s.host.heldLow key } } := by
  have hlow : low.toNat % 2 ^ 32 = low.toNat := Nat.mod_eq_of_lt low.isLt
  simp only [withHalf, h, halfValue, hlow]

/-! ## Writes of BAR0 (R484, R485) -/

theorem exec_regWrite_bar0 (fn off : Nat) (v : Dword) (width : Nat) (s : State) :
    exec (.regWrite fn 0 off v width) s = .next (bar0Write fn off v.toNat width s) := rfl

theorem bar0Write_of_unmapped {fn off : Nat} (h : regAt fn off = none) (v width : Nat) (s : State) :
    bar0Write fn off v width s = s := by
  simp [bar0Write, h]

theorem bar0Write_of_misaligned {off width : Nat} (h : off % (width / 8) ≠ 0) (fn v : Nat) (s : State) :
    bar0Write fn off v width s = s := by
  simp [bar0Write, h]

theorem bar0Write_of_readOnly {fn off rw base : Nat} {r : RegRef} (h : regAt fn off = some (r, rw, base, true))
    (v width : Nat) (s : State) : bar0Write fn off v width s = s := by
  simp [bar0Write, h]

section
variable {fn off rw base width : Nat} {r : RegRef} {s : State}

/-- What a write does that the rules let through: the module serves, the offset is aligned, and the access lies inside
a register that is not read-only. -/
theorem bar0Write_of_inside (hs : s.serving) (hw : width = 32 ∨ width = 64) (ha : off % (width / 8) = 0)
    (hr : regAt fn off = some (r, rw, base, false)) (hin : off + width / 8 ≤ base + rw) (v : Nat) :
    bar0Write fn off v width s =
      if rw = 4 then writeReg r (v % 2 ^ 32) s
      else withHalf (heldKey fn 0 base) (s.readReg r)
        (if width / 8 = 8 then .whole else if off = base then .low else .high) v (writeReg r) s := by
  have hw' : (width == 32 || width == 64) = true := by simpa using hw
  simp [bar0Write, hs, hw', ha, hr, Nat.not_lt.2 hin]

theorem bar0Write_reg32 (hs : s.serving) (ha : off % 4 = 0) (hr : regAt fn off = some (r, 4, off, false)) (v : Nat) :
    bar0Write fn off v 32 s = writeReg r (v % 2 ^ 32) s :=
  (bar0Write_of_inside hs (.inl rfl) ha hr le_rfl v).trans (if_pos rfl)

theorem bar0Write_low (hs : s.serving) (ha : off % 8 = 0) (hr : regAt fn off = some (r, 8, off, false)) (v : Nat) :
    bar0Write fn off v 32 s = s.holdLow (heldKey fn 0 off) v := by
  rw [bar0Write_of_inside hs (.inl rfl) (by omega) hr (by omega)]
  simp [withHalf_low]

theorem bar0Write_high (hs : s.serving) (ha : off % 8 = 0) (hr : regAt fn (off + 4) = some (r, 8, off, false)) {low : Word}
    (hl : tget s.host.heldLow (heldKey fn 0 off) = some low) (v : Nat) :
    bar0Write fn (off + 4) v 32 s = writeReg r (low.toNat + v % 2 ^ 32 * 2 ^ 32)
      { s with host := { s.host with heldLow := tdel s.host.heldLow (heldKey fn 0 off) } } := by
  rw [bar0Write_of_inside hs (.inl rfl) (by omega) hr (by omega)]
  simp [withHalf_high_of_held hl]

theorem bar0Write_reg64 (hs : s.serving) (ha : off % 8 = 0) (hr : regAt fn off = some (r, 8, off, false)) (v : Dword) :
    bar0Write fn off v.toNat 64 s = writeReg r v.toNat s := by
  rw [bar0Write_of_inside hs (.inr rfl) ha hr le_rfl]
  simp [withHalf_whole_of_dword]

/-! ## Reads of a 64-bit register by halves (R485) -/

theorem exec_lowHalfRead_bar0 (hs : s.serving) (hf : s.fnExists fn) :
    exec (.lowHalfRead fn 0 off) s = .next (lowHalfReadEffect fn off s) := by
  change execLowHalfRead fn 0 off s = _
  simp [execLowHalfRead, hs, hf]

theorem tget_capturedHi_lowHalfReadEffect {ro : Bool} (hr : regAt fn off = some (r, 8, off, ro)) :
    tget (lowHalfReadEffect fn off s).host.capturedHi (heldKey fn 0 off) =
      some (BitVec.ofNat 32 (s.readReg r / 2 ^ 32)) := by
  simp [lowHalfReadEffect, hr]

theorem highHalf_of_captured {ro : Bool} (hr : regAt fn off = some (r, 8, base, ro)) {hi : Word}
    (hc : tget s.host.capturedHi (heldKey fn 0 base) = some hi) : s.highHalf fn off = hi.toNat := by
  simp [State.highHalf, hr, hc]

end

/-- Settles O26: an access that the rules refuse changes nothing, and the others reach the register whole or by
halves. -/
theorem registerWritesFollowTheMap : Obligations.RegisterWritesFollowTheMap := by
  intro s fn off v hs hf
  simp only [exec_regWrite_bar0]
  refine ⟨?outside, ?readOnly, ?reg32, ?halves, ?reg64⟩
  case outside =>
    rintro (hnone | hmis)
    · rw [bar0Write_of_unmapped hnone]
    · rw [bar0Write_of_misaligned hmis]
  case readOnly =>
    intro r rw base hr
    rw [bar0Write_of_readOnly hr]
  case reg32 =>
    intro r hr ha
    rw [bar0Write_reg32 hs ha hr]
  case halves =>
    intro r hlo ha u hhi
    refine ⟨s.holdLow (heldKey fn 0 off) v.toNat, ?_, s.holdLow_sameOff .., ?_⟩
    · rw [bar0Write_low hs ha hlo]
    · rw [bar0Write_high (by simpa using hs) ha hhi (tget_holdLow ..), BitVec.toNat_ofNat]
  case reg64 =>
    intro r hr ha
    refine ⟨by rw [bar0Write_reg64 hs ha hr], lowHalfReadEffect fn off s, exec_lowHalfRead_bar0 hs hf,
      (lowHalfReadEffect_frame ..).off, ?_⟩
    intro t' hc hhi
    have hcap := tget_capturedHi_lowHalfReadEffect (s := s) hr
    rw [← hc] at hcap
    rw [highHalf_of_captured hhi hcap, BitVec.toNat_ofNat]

end Sys2Proof.Machine
end

section
/-!
The flip bins of Table 2-4, the registers right after reset, and the statistics registers.
-/

namespace Sys2Proof.Machine

open Sys2Proof

/-! ## Flip bins (R55, R513) -/

/-- A section flips in bin b exactly where b is the first of the 32 bins whose threshold lies below its voltage (R513). -/
theorem Mac.flipBin_eq_some_iff (m : Mac) (seg : Nat) (uv : Int) (b : Nat) :
    m.flipBin seg uv = some b ↔
      b < 32 ∧ 250 * m.threshold seg b < uv ∧ ∀ i < b, uv ≤ 250 * m.threshold seg i := by
  unfold Mac.flipBin
  rw [List.find?_range_eq_some]
  simp only [decide_eq_true_eq, Bool.not_eq_true', decide_eq_false_iff_not, not_lt, List.mem_range]
  tauto

/-- The levels of Table 2-4: bins 1 to 27 in threes from level 8 down, the middle one of each the CENTRE bin. -/
theorem binLevel_of_le_27 {f : Nat} (h1 : 1 ≤ f) (h27 : f ≤ 27) :
    binLevel (some f) = some (8 - (f - 1) / 3, decide ((f - 1) % 3 ≠ 1)) := by
  have h0 : f ≠ 0 := by omega
  simp only [binLevel, h0, h27, if_true, if_false, bne, decide_not]
  rfl

theorem binLevel_of_28_to_31 {f : Nat} (h28 : 28 ≤ f) (h31 : f ≤ 31) : binLevel (some f) = some (0, true) := by
  have h0 : f ≠ 0 := by omega
  have h27 : ¬ f ≤ 27 := by omega
  simp [binLevel, h0, h27, h31]

theorem binLevel_of_32_le {f : Nat} (h : 32 ≤ f) : binLevel (some f) = none := by
  have h0 : f ≠ 0 := by omega
  have h27 : ¬ f ≤ 27 := by omega
  have h31 : ¬ f ≤ 31 := by omega
  simp [binLevel, h0, h27, h31]

/-- Settles O56: Table 2-4 bin by bin, and the flip bin as the first threshold below the voltage. -/
theorem flipBinsMapToLevels : Obligations.FlipBinsMapToLevels :=
  ⟨rfl, rfl, fun _ => binLevel_of_le_27, fun _ => binLevel_of_28_to_31, fun _ => binLevel_of_32_le,
    Mac.flipBin_eq_some_iff⟩

/-! ## Registers right after reset -/

theorem reset_reg : State.reset.reg = Regs.reset := rfl

theorem reset_host : State.reset.host = HostIf.reset := rfl

theorem tgetD_nil {α : Type} (k : Nat) (x : α) : tgetD ([] : Tab α) k x = x := rfl

theorem reset_partClusters (p : Nat) : State.reset.partClusters p = [] := by
  have h : ∀ c, State.reset.partHas p c = false := by
    intro c
    simp [State.partHas, reset_reg, Regs.reset, tgetD_nil]
  simp [State.partClusters, h]

theorem reset_fnEnabled (f : Nat) : State.reset.fnEnabled f = false := by
  have h : State.reset.serving = false := rfl
  simp [State.fnEnabled, h]

theorem reset_qpairs (f : Nat) : State.reset.qpairs f = 0 := rfl

/-- Settles O17: every table of the registers is empty at reset, so each register reads as what an unlisted unit
reads as. -/
theorem resetValuesAreAsStated : Obligations.ResetValuesAreAsStated := by
  refine ⟨rfl, rfl, rfl, rfl, rfl, rfl, fun p => ⟨?tickCfg, ?partCtl, rfl, rfl⟩,
    fun f => ⟨?mmuFnCfg, ?fmFnCfg, rfl, ?fnStatus, rfl, rfl⟩, fun f p => ?fnPart,
    fun c => ⟨?countCfg, rfl, rfl, rfl⟩, fun d => ⟨rfl, rfl⟩⟩
  case tickCfg => simp [State.readReg, State.tickCfg, reset_reg, Regs.reset, tgetD_nil, tickCfgReset]
  case partCtl => simp [State.readReg, reset_partClusters, reset_reg, Regs.reset, tgetD_nil]
  case mmuFnCfg => simp [State.readReg, State.mmuCfg, reset_reg, Regs.reset, tgetD_nil, mmuFnCfgReset]
  case fmFnCfg => simp [State.readReg, State.fmCfg, reset_reg, Regs.reset, tgetD_nil, fmFnCfgReset]
  case fnStatus => simp [State.readReg, reset_fnEnabled, reset_qpairs, reset_host, HostIf.reset, tgetD_nil, bit01]
  case fnPart =>
    simp [State.readReg, State.fnPartRead, State.fnPart, reset_reg, Regs.reset, tgetD_nil, bit01, setBits, bitsOf]
  case countCfg => simp [State.readReg, State.countCfg, reset_reg, Regs.reset, tgetD_nil, countCfgReset]

/-! ## Statistics registers (R74, R145, R183, R285, R420) -/

section
variable (s : State) (c d : Nat) (v : Word)

theorem execCsqCountClrStats_eq (hs : s.serving) (hc : c < 2048) :
    exec (.csqCountClrStats c v) s = .next (countCfgEffect c v s) := by
  change execCsqCountClrStats c v s = _
  simp [execCsqCountClrStats, hs, hc]

theorem execSeConvClrStats_eq (hs : s.serving) (hc : c < 2048) :
    exec (.seConvClrStats c v) s = .next (convCfgEffect c v s) := by
  change execSeConvClrStats c v s = _
  simp [execSeConvClrStats, hs, hc]

theorem execSeCompClrStats_eq (hs : s.serving) (hc : c < 2048) :
    exec (.seCompClrStats c v) s = .next (compCfgEffect c v s) := by
  change execSeCompClrStats c v s = _
  simp [execSeCompClrStats, hs, hc]

theorem execMmuFnClrStats_eq (hs : s.serving) (hc : c < 512) :
    exec (.mmuFnClrStats c v) s = .next (mmuFnCfgEffect c v s) := by
  change execMmuFnClrStats c v s = _
  simp [execMmuFnClrStats, hs, hc]

theorem execMntDieClrStats_eq (hs : s.serving) (hd : d < 4) :
    exec (.mntDieClrStats d v) s = .next (mntCtlEffect d v s) := by
  change execMntDieClrStats d v s = _
  simp [execMntDieClrStats, hs, hd]

/-- A table entry that bit 0 of a written value clears. -/
theorem tgetD_of_clear {α : Type} (b : Bool) (t : Tab α) (k j : Nat) (x : α) :
    tgetD (if b then tdel t k else t) j x = if b ∧ j = k then x else tgetD t j x := by
  cases b <;> simp [tgetD_tdel]

theorem countCfgEffect_reg :
    (countCfgEffect c v s).reg = { s.reg with
      countCfg := tput s.reg.countCfg c (v &&& 0x0FFFFF00),
      countStat := if v.getLsbD 0 then tdel s.reg.countStat c else s.reg.countStat } := by
  unfold countCfgEffect
  split <;> rfl

theorem convCfgEffect_reg :
    (convCfgEffect c v s).reg = { s.reg with
      convStat := if v.getLsbD 0 then tdel s.reg.convStat c else s.reg.convStat } := by
  unfold convCfgEffect
  split <;> rfl

theorem compCfgEffect_reg :
    (compCfgEffect c v s).reg = { s.reg with
      compStat := if v.getLsbD 0 then tdel s.reg.compStat c else s.reg.compStat } := by
  unfold compCfgEffect
  split <;> rfl

theorem mntCtlEffect_mntDieStat (x : Nat) :
    tgetD (mntCtlEffect d v s).reg.mntDieStat x 0 =
      if v.getLsbD 0 ∧ x = d then tgetD s.reg.mntDieStat d 0 &&& 0xFFFFFFFF00000000 else tgetD s.reg.mntDieStat x 0 := by
  unfold mntCtlEffect
  split <;> simp_all [tgetD_tput]

end

/-- A write of MMU_FN_CFG whose page-size field is one of Table 9-6: CFG_REJ stays until a 1 is written to it. -/
theorem mmuFnCfgEffect_reg (s : State) (f : Nat) (v : Word) (h1 : 1 ≤ bitsOf v.toNat 13 8) (h32 : bitsOf v.toNat 13 8 ≤ 32) :
    ∃ rej : Word, (∀ i < 31, rej.getLsbD i = false) ∧
      (mmuFnCfgEffect f v s).reg = { s.reg with
        mmuFnCfg := tput s.reg.mmuFnCfg f ((v &&& 0x3F01) ||| rej),
        mmuFnStat := if v.getLsbD 1 then tdel s.reg.mmuFnStat f else s.reg.mmuFnStat } := by
  have hbits : ¬ (bitsOf v.toNat 13 8 = 0 ∨ 32 < bitsOf v.toNat 13 8) := by omega
  refine ⟨if (tgetD s.reg.mmuFnCfg f mmuFnCfgReset).getLsbD 31 && !v.getLsbD 31 then 0x80000000 else 0, ?_, ?_⟩
  · intro i hi
    split
    · exact (by decide : ∀ j < 31, (0x80000000 : Word).getLsbD j = false) i hi
    · simp
  · unfold mmuFnCfgEffect
    simp only [hbits, if_false]
    split <;> rfl

theorem mmuFnCfgMask_bit (i : Nat) (h8 : 8 ≤ i) (h13 : i ≤ 13) : (0x3F01 : Word).getLsbD i = true :=
  (by decide : ∀ j ≤ 13, 8 ≤ j → (0x3F01 : Word).getLsbD j = true) i h13 h8

/-- The mask that keeps ACTIVE and QUEUED of MNT_DIE_STAT keeps the bits from 32 up. -/
theorem mntDieStatMask_bit (i : Nat) : (0xFFFFFFFF00000000 : Dword).getLsbD i = (decide (32 ≤ i) && decide (i < 64)) := by
  by_cases h : i < 64
  · exact (by decide : ∀ j < 64, (0xFFFFFFFF00000000 : Dword).getLsbD j = (decide (32 ≤ j) && decide (j < 64))) i h
  · rw [BitVec.getLsbD_of_ge _ _ (by omega)]
    simp [h]

/-- Settles O25: each CLR_STATS row writes the register of its own unit, whose bit clears that unit's
statistics. -/
theorem statisticsAreCleared : Obligations.StatisticsAreCleared := by
  refine ⟨fun s c v hs hc => ⟨?count, ?conv, ?comp⟩, ?mmu, ?mnt⟩
  case count =>
    refine ⟨_, execCsqCountClrStats_eq s c v hs hc, (countCfgEffect_frame c v s).off, ?_, ?_, fun d hd => ⟨?_, ?_⟩⟩ <;>
      simp [State.readReg, State.countCfg, countCfgEffect_reg, tgetD_of_clear, tgetD_tput, *]
    split <;> rfl
  case conv =>
    refine ⟨_, execSeConvClrStats_eq s c v hs hc, (convCfgEffect_frame c v s).off, ?_, fun d hd => ?_⟩ <;>
      simp [State.readReg, convCfgEffect_reg, tgetD_of_clear, *]
    split <;> rfl
  case comp =>
    refine ⟨_, execSeCompClrStats_eq s c v hs hc, (compCfgEffect_frame c v s).off, ?_, fun d hd => ?_⟩ <;>
      simp [State.readReg, compCfgEffect_reg, tgetD_of_clear, *]
    split <;> rfl
  case mmu =>
    intro s f v hs hf h1 h32
    obtain ⟨rej, hrej, hreg⟩ := mmuFnCfgEffect_reg s f v h1 h32
    refine ⟨_, execMmuFnClrStats_eq s f v hs hf, (mmuFnCfgEffect_frame f v s).off, ?_, ?_, ?_, fun g hg => ⟨?_, ?_⟩⟩
    · simp only [State.readReg, hreg, tgetD_of_clear]
      split <;> simp_all
    · rw [State.mmuCfg, hreg, tgetD_tput, if_pos rfl, bitsOf_toNat_or _ _ _ _ (fun i _ hi _ => hrej i (by omega)),
        bitsOf_toNat_and _ _ _ _ (fun i h8 h13 _ => mmuFnCfgMask_bit i h8 h13)]
    · rw [State.mmuCfg, hreg, tgetD_tput, if_pos rfl, bitOf_toNat, BitVec.getLsbD_or, hrej 0 (by omega), BitVec.getLsbD_and]
      simp
    · simp [State.readReg, hreg, tgetD_of_clear, hg]
    · simp [State.mmuCfg, hreg, tgetD_tput, hg]
  case mnt =>
    intro s d v hs hd
    refine ⟨_, execMntDieClrStats_eq s d v hs hd, (mntCtlEffect_frame d v s).off, fun i => ?_, fun x hx => ?_⟩
    · rw [mntCtlEffect_mntDieStat]
      cases h0 : v.getLsbD 0
      · simp
      · rw [if_pos ⟨rfl, rfl⟩, BitVec.getLsbD_and, mntDieStatMask_bit]
        have hlt : (tgetD s.reg.mntDieStat d 0).getLsbD i = true → i < 64 := BitVec.lt_of_getLsbD
        cases hb : (tgetD s.reg.mntDieStat d 0).getLsbD i <;> simp_all
    · rw [State.readReg, mntCtlEffect_mntDieStat, if_neg (by simp [hx]), State.readReg]

end Sys2Proof.Machine
end

section
/-!
The sums of the levels of a slice (R64): the counts of a slice share its rows out, eight at most to a count, so their levels
add up to the packets of all rows.
-/

namespace Sys2Proof.Machine

open Sys2Proof

/-! ## Lists -/

theorem nodup_eraseDups {α : Type} [BEq α] [LawfulBEq α] (l : List α) : l.eraseDups.Nodup := by
  induction hn : l.length using Nat.strong_induction_on generalizing l with
  | _ n ih =>
    cases l with
    | nil => simp
    | cons a l =>
      rw [List.eraseDups_cons, List.nodup_cons, List.mem_eraseDups]
      refine ⟨by simp, ih _ ?_ _ rfl⟩
      have hlen := List.length_filter_le (fun b => !b == a) l
      simp only [List.length_cons] at hn
      omega

/-- In a list with distinct keys the entries with a key are the one entry. -/
theorem filter_key_of_nodup {α : Type} {L : List (Nat × α)} {k : Nat} {v : α} (hn : (L.map (·.1)).Nodup) (h : (k, v) ∈ L) :
    L.filter (fun e => e.1 == k) = [(k, v)] := by
  induction L with
  | nil => simp at h
  | cons e L ih =>
    obtain ⟨hnot, htail⟩ := List.nodup_cons.1 hn
    rcases List.mem_cons.1 h with rfl | hmem
    · have hrest : L.filter (fun e => e.1 == k) = [] := by
        rw [List.filter_eq_nil_iff]
        intro x hx hk
        exact hnot (List.mem_map.2 ⟨x, hx, by simpa using hk⟩)
      simp [hrest]
    · have hne : e.1 ≠ k := fun he => hnot (List.mem_map.2 ⟨(k, v), hmem, he.symm⟩)
      simp [hne, ih htail hmem]

/-- A list cut into chunks of eight is counted chunk by chunk. -/
theorem sum_countP_chunks {α : Type} (p : α → Bool) (l : List α) (n : Nat) :
    ((List.range n).map (fun c => ((l.drop (8 * c)).take 8).countP p)).sum = (l.take (8 * n)).countP p := by
  induction n with
  | zero => simp
  | succ n ih => rw [List.sum_range_succ, ih, Nat.mul_succ, List.take_add, List.countP_append]

/-- A list is counted group by group, where the groups listed are distinct and hold all of it. -/
theorem sum_countP_groups (p : Nat → Bool) {H : List Nat} (hH : H.Nodup) {l : List Nat} (hl : ∀ k ∈ l, k / 8 ∈ H) :
    (H.map (fun h => (inGroup h l).countP p)).sum = l.countP p := by
  induction l with
  | nil => simp [inGroup]
  | cons a l ih =>
    have hstep : ∀ h, (inGroup h (a :: l)).countP p = (inGroup h l).countP p + if a / 8 = h then (if p a then 1 else 0) else 0 := by
      intro h
      by_cases ha : a / 8 = h <;> simp [inGroup, ha, List.countP_cons]
    have hone : (H.map (fun h => if a / 8 = h then (if p a then 1 else 0) else 0)).sum = if p a then 1 else 0 := by
      rw [List.sum_map_eq_nsmul_single (a / 8) _ (fun h hne _ => if_neg (Ne.symm hne)),
        List.count_eq_one_of_mem hH (hl a (by simp)), one_smul, if_pos rfl]
    simp only [hstep, List.sum_map_add, hone, List.countP_cons, ih (fun k hk => hl k (by simp [hk]))]

theorem le_foldl_max {α : Type} (f : α → Nat) (l : List α) (n : Nat) :
    n ≤ l.foldl (fun m a => max m (f a)) n ∧ ∀ a ∈ l, f a ≤ l.foldl (fun m a => max m (f a)) n := by
  induction l generalizing n with
  | nil => simp
  | cons b l ih =>
    obtain ⟨hn, hall⟩ := ih (max n (f b))
    refine ⟨by simp only [List.foldl_cons]; omega, fun a ha => ?_⟩
    rcases List.mem_cons.1 ha with rfl | hmem
    · simp only [List.foldl_cons]; omega
    · exact hall a hmem

/-! ## The level of a section that does not deviate (R55, R513) -/

theorem binLevel_centreBin {n : Nat} (h : n ≤ 8) : (binLevel (some (centreBin n))).map (·.1) = some n := by
  rw [binLevel_of_le_27 (by simp [centreBin]) (by simp [centreBin]; omega)]
  simp only [centreBin, Option.map_some, Option.some.injEq]
  omega

theorem packets_eq_countP (m : Mac) (seg col : Nat) (rows : List Nat) :
    packets m seg col rows = rows.countP (fun r => (rowOf m (64 * seg + r)).getLsbD col) := by
  rw [packets, List.countP_eq_length_filter]

theorem packets_le (m : Mac) (seg col : Nat) (rows : List Nat) : packets m seg col rows ≤ rows.length :=
  List.length_filter_le ..

theorem sectionLevel_nil (m : Mac) (seg col : Nat) {n : Nat} (h : n ≤ 8) : ∃ g, sectionLevel m [] seg col n = some (n, g) := by
  have hl := binLevel_centreBin h
  simp only [sectionLevel, List.find?_nil]
  rcases hb : binLevel (some (centreBin n)) with _ | ⟨l, g⟩
  · simp [hb] at hl
  · simp only [hb, Option.map_some, Option.some.injEq] at hl
    exact ⟨g, by rw [hl]⟩

/-- A data column on the staircase reports the packets that reach it. -/
theorem dataLevel_nil (m : Mac) (seg c : Nat) {rows : List Nat} (h : rows.length ≤ 8) :
    dataLevel m [] seg c rows = packets m seg (physCol m c) rows := by
  obtain ⟨g, hg⟩ := sectionLevel_nil m seg (physCol m c) ((packets_le m seg (physCol m c) rows).trans h)
  simp [dataLevel, hg]

/-! ## The counts of a dense slice (R61-R63) -/

theorem Job.segs_keys_nodup (j : Job) : (j.segs.map (·.1)).Nodup := by
  have hsub : (j.segs.map (·.1)).Sublist ((j.parts.map (·.seg)).eraseDups) := by
    unfold Job.segs
    induction (j.parts.map (·.seg)).eraseDups with
    | nil => simp
    | cons g l ih =>
      rw [List.filterMap_cons]
      cases hg : j.segInput g with
      | none => simpa using ih.cons g
      | some i => simpa using ih.cons_cons g
  exact hsub.nodup (nodup_eraseDups _)

theorem rowsIn_nodup (i : SegIn) (zp : Bool) (sl : Nat) : (rowsIn i zp sl).Nodup := List.nodup_range.filter _

theorem lt_valid_of_mem_rowsIn {i : SegIn} {zp : Bool} {sl k : Nat} (h : k ∈ rowsIn i zp sl) : k < i.valid :=
  List.mem_range.1 (List.mem_filter.1 h).1

theorem inGroup_length_le {rows : List Nat} (hn : rows.Nodup) (h : Nat) : (inGroup h rows).length ≤ 8 := by
  have hn' : (inGroup h rows).Nodup := hn.filter _
  have hsub : inGroup h rows ⊆ List.range' (8 * h) 8 := by
    intro k hk
    have hk8 : k / 8 = h := by simpa using (List.mem_filter.1 hk).2
    rw [List.mem_range'_1]
    omega
  exact (hn'.subperm hsub).length_le

section
variable (x : TaskCtx) (r : Run) (m : Mac) (j : Job)

/-- The segments of a job with the rows of its slice, as a count takes them. -/
def sliceSegs : List (Nat × SegIn × List Nat) := j.segs.map (fun q => (q.1, q.2, rowsIn q.2 (r.slice == x.t.sMax) r.slice))

/-- The count in which each segment raises the rows that `pick` takes of its rows in the slice. -/
def countOfRows (pick : List Nat → List Nat) : List SegCount :=
  (sliceSegs x r j).map (fun q => { seg := q.1, grp := 0, refs := pick q.2.2, rows := pick q.2.2 })

variable {x r m j}

theorem countsOf_packed (ht : x.t.transposed = false) (hs : j.sparse = false) (hp : x.t.packed) :
    countsOf x r m j =
      (List.range ((sliceSegs x r j).foldl (fun n q => max n (ceilDiv q.2.2.length 8)) 0)).map (fun c =>
        countOfRows x r j (fun rows => (rows.drop (8 * c)).take 8)) := by
  simp [countsOf, countsNormal, ht, hs, hp, sliceSegs, countOfRows]

theorem countsOf_fixed (ht : x.t.transposed = false) (hs : j.sparse = false) (hp : x.t.packed = false) :
    countsOf x r m j =
      ((List.range (r.rc / 8)).filter (fun h => (sliceSegs x r j).any (fun q => 8 * h < q.2.1.valid))).map (fun h =>
        countOfRows x r j (inGroup h)) := by
  simp [countsOf, countsNormal, ht, hs, hp, sliceSegs, countOfRows]

/-- In a count a segment of the job counts once, so its level sum is the level of the rows picked. -/
theorem levels_of_countOfRows {g : Nat} {i : SegIn} (hg : (g, i) ∈ j.segs) (c : Nat) {pick : List Nat → List Nat}
    (h8 : (pick (rowsIn i (r.slice == x.t.sMax) r.slice)).length ≤ 8) :
    (((countOfRows x r j pick).filter (fun q => q.seg == g)).map (fun q => dataLevel m [] g c q.refs)).sum =
      packets m g (physCol m c) (pick (rowsIn i (r.slice == x.t.sMax) r.slice)) := by
  have hone := filter_key_of_nodup j.segs_keys_nodup hg
  simp [countOfRows, sliceSegs, List.filter_map, Function.comp_def, hone, dataLevel_nil m g c h8]

end

/-- Settles O57: packed grouping cuts the rows of the slice into chunks of eight, fixed grouping into their row groups. -/
theorem sliceSumsAreExact : Obligations.SliceSumsAreExact := by
  intro x r m j g c i ht hs hrc hvalid hg
  have hmem : (g, i, rowsIn i (r.slice == x.t.sMax) r.slice) ∈ sliceSegs x r j := List.mem_map.2 ⟨(g, i), hg, rfl⟩
  have hnodup := rowsIn_nodup i (r.slice == x.t.sMax) r.slice
  cases hp : x.t.packed with
  | true =>
    have hlen : (rowsIn i (r.slice == x.t.sMax) r.slice).length ≤
        8 * (sliceSegs x r j).foldl (fun n q => max n (ceilDiv q.2.2.length 8)) 0 := by
      have hle := (le_foldl_max (fun q => ceilDiv q.2.2.length 8) (sliceSegs x r j) 0).2 _ hmem
      have hceil : ∀ n, n ≤ 8 * ceilDiv n 8 := by
        intro n
        simp only [ceilDiv, OfNat.ofNat_ne_zero, if_false]
        omega
      exact (hceil _).trans (Nat.mul_le_mul_left 8 hle)
    rw [countsOf_packed ht hs hp, List.map_map]
    have hcount := fun k => levels_of_countOfRows (x := x) (r := r) (m := m) hg c (pick := fun rows => (rows.drop (8 * k)).take 8)
      (List.length_take_le ..)
    simp only [Function.comp_def, hcount, packets_eq_countP]
    rw [sum_countP_chunks, List.take_of_length_le hlen]
  | false =>
    rw [countsOf_fixed ht hs hp, List.map_map]
    simp only [Function.comp_def, levels_of_countOfRows hg c (inGroup_length_le hnodup _), packets_eq_countP]
    refine sum_countP_groups _ (List.nodup_range.filter _) (fun k hk => ?_)
    have hk := lt_valid_of_mem_rowsIn hk
    rw [List.mem_filter, List.mem_range, hrc, List.any_eq_true]
    exact ⟨by omega, _, hmem, by simpa using (by omega : 8 * (k / 8) < i.valid)⟩

end Sys2Proof.Machine
end

section
/-!
What a core's run, the macros and the maintenance queue are after the operations that counts and row writes share.
-/

namespace Sys2Proof.Machine

open Sys2Proof

/-! ## Components that an operation leaves -/

section
variable {L : List Comp} {s t : State}

theorem Kept.fm_eq (h : Kept L s t) (hL : Comp.fm ∉ L) : t.fm = s.fm := h.off.same .fm hL

theorem Kept.mnt_eq (h : Kept L s t) (hL : Comp.mnt ∉ L) : t.mnt = s.mnt := h.off.same .mnt hL

theorem Kept.cores_eq (h : Kept L s t) (hL : Comp.cores ∉ L) : t.cores = s.cores := h.off.same .cores hL

theorem Kept.tick_eq (h : Kept L s t) (hL : Comp.tick ∉ L) : t.tick = s.tick := h.off.same .tick hL

theorem Kept.macAt (h : Kept L s t) (hL : Comp.fm ∉ L) (k : Nat) : t.macAt k = s.macAt k := by
  simp only [State.macAt, h.fm_eq hL]

theorem Kept.core (h : Kept L s t) (hL : Comp.cores ∉ L) (c : Nat) : t.core c = s.core c := by
  simp only [State.core, h.cores_eq hL]

end

theorem SameOff.mono {L M : List Comp} {s t : State} (h : SameOff L s t) (hLM : L ⊆ M) : SameOff M s t :=
  ⟨fun c hc => h.same c (fun hL => hc (hLM hL))⟩

/-! ## The run of a core -/

theorem taskCtx_core {s : State} {c : Nat} {r : Run} {x : TaskCtx} (h : s.taskCtx c r = some x) : x.core = c := by
  unfold State.taskCtx at h
  split at h
  · exact absurd h (by simp)
  · obtain ⟨t, -, rfl⟩ := Option.map_eq_some_iff.1 h
    rfl

theorem core_setRun (c : Nat) (r : Run) (s : State) : (setRun c r s).core c = { s.core c with run := some r } := by
  simp [setRun]

theorem macAt_setRun (c : Nat) (r : Run) (s : State) (k : Nat) : (setRun c r s).macAt k = s.macAt k := rfl

/-- A task that waits for an event makes no progress. -/
theorem proceed_of_waits {x : TaskCtx} {r : Run} {s : State} (h : progress x r s = none) (n : Nat) :
    proceed x n r s = (r, s) := by
  cases n <;> simp [proceed, h]

theorem proceed_succ_of_some {x : TaskCtx} {r r' : Run} {s s' : State} (h : progress x r s = some (r', s')) (n : Nat) :
    proceed x (n + 1) r s = proceed x n r' s' := by
  simp [proceed, h]

/-- The fuel is a variable here, so that no check of the proof computes it. -/
theorem withRun_of_proceed {c : Nat} {r r' r'' : Run} {x : TaskCtx} {s s' s'' : State} {fuel : TaskCtx → Nat}
    (hf : fuelOf = fuel) (hr : (s.core c).run = some r) (hx : s.taskCtx c r = some x)
    {act : TaskCtx → Run → State → Run × State} (ha : act x r s = (r', s'))
    (hp : proceed x (fuel x) r' s' = (r'', s'')) : withRun c act s = setRun c r'' s'' := by
  unfold withRun
  rw [hf]
  simp only [hr, hx, ha, hp]

theorem onRun_of_runs {c : Nat} {r r' r'' : Run} {x : TaskCtx} {s s' s'' : State} (h : CoreRuns c r x s)
    {act : TaskCtx → Run → State → Run × State} (ha : act x r s = (r', s'))
    (hp : proceed x (fuelOf x) r' s' = (r'', s'')) : onRun c act s = setRun c r'' s'' := by
  rw [onRun, if_pos h.ticks, withRun_of_proceed rfl h.run h.ctx ha hp]

/-- The job that a count takes is one of the run's, of the macro and of the round under way. -/
theorem Run.jobOf_eq_some {r : Run} {mac k : Nat} {j : Job} (h : r.jobOf mac = some (k, j)) :
    r.jobs[k]? = some j ∧ j.round = r.round ∧ j.mac = mac := by
  unfold Run.jobOf at h
  split at h
  · exact absurd h (by simp)
  · next i hi =>
    obtain ⟨y, hy, heq⟩ := Option.map_eq_some_iff.1 h
    obtain ⟨rfl, rfl⟩ := Prod.mk.inj heq
    obtain ⟨hlt, hp, -⟩ := List.findIdx?_eq_some_iff_getElem.1 hi
    rw [List.getElem?_eq_getElem hlt, Option.some.injEq] at hy
    subst hy
    simp only [Bool.and_eq_true, beq_iff_eq] at hp
    exact ⟨List.getElem?_eq_getElem hlt, hp.1, hp.2⟩

/-! ## The guard monitor (R72) -/

/-- A macro after one checked count of a segment: its windows advance, one that is full ends first. -/
def guardMac (seg g : Nat) (rt : Bool) (m : Mac) : Mac :=
  let gf := m.guardN.getD seg 0 == guardWindow
  let rf := m.retryN.getD seg 0 == retryWindow
  { m with guardN := m.guardN.set seg ((if gf then 0 else m.guardN.getD seg 0) + 1),
           guardHits := m.guardHits.set seg ((if gf then 0 else m.guardHits.getD seg 0) + g),
           retryN := m.retryN.set seg ((if rf then 0 else m.retryN.getD seg 0) + 1),
           retryHits := m.retryHits.set seg ((if rf then 0 else m.retryHits.getD seg 0) + bit01 rt) }

/-- Beyond the windows of its macro a checked count raises records and asks for re-calibration, at most. -/
theorem guardNote_ind (P : State → Prop) {x : Option TaskCtx} {core lm pm seg g : Nat} {rt : Bool} {s : State}
    (hmac : P (s.setMac pm (guardMac seg g rt (s.macAt pm))))
    (hreq : ∀ code n u, P u → P (requestRecal pm true (macEvent x code core lm (some seg) n u))) :
    P (guardNote x core lm pm seg g rt s) := by
  have hite : ∀ (p : Prop) [Decidable p] (code n : Nat) (u : State), P u →
      P (if p then requestRecal pm true (macEvent x code core lm (some seg) n u) else u) := by
    intro p _ code n u hu
    split
    · exact hreq _ _ _ hu
    · exact hu
  exact hite _ _ _ _ (hite _ _ _ _ hmac)

theorem guardNote_kept (x : Option TaskCtx) (core lm pm seg g : Nat) (rt : Bool) (s : State) :
    Kept [.jr, .host, .mnt] (s.setMac pm (guardMac seg g rt (s.macAt pm))) (guardNote x core lm pm seg g rt s) :=
  guardNote_ind (Kept [.jr, .host, .mnt] _) (.refl ..)
    (fun _ _ _ h => (h.step (by decide) (macEvent_frame ..)).step (by decide) (requestRecal_frame ..))

/-- The Maintenance Arbiter's state but for its queue of requests. -/
def Mnt.sansQueue (m : Mnt) : Mnt := { m with queue := [] }

@[simp] theorem queueMnt_sansQueue (a : Activity) (pm : Nat) (guard : Bool) (s : State) :
    (queueMnt a pm guard s).mnt.sansQueue = s.mnt.sansQueue := by
  unfold queueMnt
  split <;> rfl

@[simp] theorem requestRecal_sansQueue (pm : Nat) (guard : Bool) (s : State) :
    (requestRecal pm guard s).mnt.sansQueue = s.mnt.sansQueue := queueMnt_sansQueue ..

@[simp] theorem requestDiag_sansQueue (pm : Nat) (s : State) : (requestDiag pm s).mnt.sansQueue = s.mnt.sansQueue := by
  unfold requestDiag
  split <;> simp

@[simp] theorem macEvent_mnt (x : Option TaskCtx) (code core lm : Nat) (seg : Option Nat) (info : Nat) (s : State) :
    (macEvent x code core lm seg info s).mnt = s.mnt := (macEvent_frame ..).mnt_eq (by decide)

theorem guardNote_sansQueue (x : Option TaskCtx) (core lm pm seg g : Nat) (rt : Bool) (s : State) :
    (guardNote x core lm pm seg g rt s).mnt.sansQueue = s.mnt.sansQueue :=
  guardNote_ind (fun u => u.mnt.sansQueue = s.mnt.sansQueue) rfl (fun _ _ _ h => by simpa using h)

/-- A run of the guard monitor over segments, with the GUARD decisions `g` of each. -/
def guardNotes (x : Option TaskCtx) (core lm pm : Nat) (segs : List Nat) (g : Nat → Nat) (rt : Bool) (s : State) : State :=
  segs.foldl (fun s k => guardNote x core lm pm k (g k) rt s) s

section
variable (x : Option TaskCtx) (core lm pm : Nat) (segs : List Nat) (g : Nat → Nat) (rt : Bool) (s : State)

theorem guardNotes_sansQueue : (guardNotes x core lm pm segs g rt s).mnt.sansQueue = s.mnt.sansQueue :=
  foldl_inv (fun t : State => t.mnt.sansQueue = s.mnt.sansQueue) _ _ _ rfl
    (fun _ _ h => (guardNote_sansQueue ..).trans h)

theorem macAt_guardNotes_self :
    (guardNotes x core lm pm segs g rt s).macAt pm = segs.foldl (fun m k => guardMac k (g k) rt m) (s.macAt pm) := by
  unfold guardNotes
  induction segs generalizing s with
  | nil => rfl
  | cons k segs ih => rw [List.foldl_cons, ih, List.foldl_cons, (guardNote_kept ..).macAt (by decide), macAt_setMac_self]

theorem macAt_guardNotes_ne {k : Nat} (hk : k ≠ pm) : (guardNotes x core lm pm segs g rt s).macAt k = s.macAt k :=
  foldl_inv (fun t : State => t.macAt k = s.macAt k) _ _ _ rfl
    (fun _ _ h => by rw [(guardNote_kept ..).macAt (by decide), macAt_setMac_ne _ _ hk, h])

end

/-- A macro but for its guard windows. -/
def Mac.sansGuards (m : Mac) : Mac := { m with guardN := [], guardHits := [], retryN := [], retryHits := [] }

theorem guardMacs_sansGuards (segs : List Nat) (g : Nat → Nat) (rt : Bool) (m : Mac) :
    (segs.foldl (fun m k => guardMac k (g k) rt m) m).sansGuards = m.sansGuards :=
  foldl_inv (fun m' : Mac => m'.sansGuards = m.sansGuards) _ _ _ rfl (fun _ _ h => h)

/-- The guard window of a segment after one more checked count (R72). -/
theorem guardMacs_guardN {segs : List Nat} (hn : segs.Nodup) (g : Nat → Nat) (rt : Bool) (m : Mac) {k : Nat} (hk : k ∈ segs)
    (hlen : k < m.guardN.length) :
    (segs.foldl (fun m k => guardMac k (g k) rt m) m).guardN.getD k 0 =
      (if m.guardN.getD k 0 = 512 then 0 else m.guardN.getD k 0) + 1 := by
  have hskip : ∀ {l : List Nat} {m : Mac}, k ∉ l →
      (l.foldl (fun m k => guardMac k (g k) rt m) m).guardN.getD k 0 = m.guardN.getD k 0 := by
    intro l
    induction l with
    | nil => simp
    | cons a l ih =>
      intro m hnot
      obtain ⟨hne, hnot⟩ := not_or.1 (List.mem_cons.not.1 hnot)
      rw [List.foldl_cons, ih hnot]
      simp [guardMac, List.getD_eq_getElem?_getD, List.getElem?_set_ne (Ne.symm hne)]
  induction segs generalizing m with
  | nil => simp at hk
  | cons a segs ih =>
    obtain ⟨hnot, hn⟩ := List.nodup_cons.1 hn
    rw [List.foldl_cons]
    by_cases ha : a = k
    · subst ha
      rw [hskip hnot]
      simp [guardMac, guardWindow, List.getD_eq_getElem?_getD, hlen]
    · rw [ih hn _ ((List.mem_cons.1 hk).resolve_left (Ne.symm ha)) (by simpa [guardMac] using hlen)]
      simp [guardMac, List.getD_eq_getElem?_getD, List.getElem?_set_ne ha]

/-- Every segment of 16 has one more checked count in its guard window. -/
theorem guardNotes_counted {x : Option TaskCtx} {core lm pm : Nat} {g : Nat → Nat} {rt : Bool} {s u : State}
    (hu : (u.macAt pm).guardN = (s.macAt pm).guardN) :
    GuardCounted pm (List.range 16) s (guardNotes x core lm pm (List.range 16) g rt u) := by
  intro hlen k hk
  rw [macAt_guardNotes_self, guardMacs_guardN List.nodup_range g rt _ hk, hu]
  rw [hu, hlen]
  exact List.mem_range.1 hk

end Sys2Proof.Machine
end

section
/-!
Counts (chapter 2, R199, R379): the levels they add, the segments they hold back, and what they leave alone.
-/

namespace Sys2Proof.Machine

open Sys2Proof

/-! ## The live check on the staircase (R67, R68) -/

/-- Where the rows raised hold their reference bits, the packets of a reference column are the rows whose bit is 1. -/
theorem packets_refColumn {m : Mac} {g k : Nat} {rows : List Nat}
    (h : ∀ r ∈ rows, (rowOf m (64 * g + r)).getLsbD (272 + k) = refBit k r) :
    packets m g (272 + k) rows = (rows.filter (refBit k)).length := by
  rw [packets, List.filter_congr h]

theorem segPasses_nil {m : Mac} {g : Nat} {rows : List Nat} (h8 : rows.length ≤ 8)
    (h : ∀ k < 8, ∀ r ∈ rows, (rowOf m (64 * g + r)).getLsbD (272 + k) = refBit k r) : segPasses m [] g rows := by
  simp only [segPasses, List.all_nil, Bool.and_true, List.all_eq_true, List.mem_range]
  intro k hk
  obtain ⟨c, hc⟩ := sectionLevel_nil m g (272 + k) ((packets_le m g (272 + k) rows).trans h8)
  rw [hc, packets_refColumn (h k hk)]
  simp

/-! ## What a count leaves of the macros and the maps -/

/-- What a macro holds for counts to read: all but its windows, flags and counters. -/
def Mac.cells (m : Mac) : Mac :=
  { m with flagged := [], guardN := [], guardHits := [], retryN := [], retryHits := [], ctr := [], rowCtr := [] }

/-- The Maintenance Arbiter's state but for its requests and FILLER_MISMATCH. -/
def Mnt.steady (m : Mnt) : Mnt := { m with queue := [], fillerBad := 0 }

theorem Mnt.steady_of_sansQueue {m n : Mnt} (h : m.sansQueue = n.sansQueue) : m.steady = n.steady :=
  (congrArg Mnt.steady h :)

/-- Cells, Position Stores and spare maps are the same: a count changes windows, flags, counters and requests (R48). -/
structure CellsSame (s t : State) : Prop where
  cells : ∀ k, (t.macAt k).cells = (s.macAt k).cells
  maps : t.mnt.steady = s.mnt.steady

theorem CellsSame.refl (s : State) : CellsSame s s := ⟨fun _ => rfl, rfl⟩

theorem CellsSame.trans {s t u : State} (h : CellsSame s t) (k : CellsSame t u) : CellsSame s u :=
  ⟨fun i => (k.cells i).trans (h.cells i), k.maps.trans h.maps⟩

theorem Kept.cellsSame {L : List Comp} {s t : State} (h : Kept L s t) (hfm : Comp.fm ∉ L) (hmnt : Comp.mnt ∉ L) :
    CellsSame s t :=
  ⟨fun k => by rw [h.macAt hfm], by rw [h.mnt_eq hmnt]⟩

theorem CellsSame.rows {s t : State} (h : CellsSame s t) (k : Nat) : (t.macAt k).rows = (s.macAt k).rows :=
  (congrArg Mac.rows (h.cells k) :)

theorem CellsSame.kept {s t : State} (h : CellsSame s t) (off : SameOff [.fm, .mnt, .reg, .jr, .host, .cores] s t) :
    CellsKept s t :=
  ⟨off, fun k => ⟨h.rows k, (congrArg Mac.pos (h.cells k) :), (congrArg Mac.age (h.cells k) :)⟩⟩

theorem CellsSame.physMac {s t : State} (h : CellsSame s t) (c m : Nat) : t.physMac c m = s.physMac c m := by
  have hcl : t.mnt.clusterMap = s.mnt.clusterMap := (congrArg Mnt.clusterMap (h.maps) :)
  have hco : t.mnt.coreMap = s.mnt.coreMap := (congrArg Mnt.coreMap (h.maps) :)
  have hma : t.mnt.macroMap = s.mnt.macroMap := (congrArg Mnt.macroMap (h.maps) :)
  simp only [State.physMac, State.physCore, State.physCluster, hcl, hco, hma]

theorem countsOf_cells (x : TaskCtx) (r : Run) (m : Mac) (j : Job) : countsOf x r m.cells j = countsOf x r m j := rfl

theorem CellsSame.countsOf {s t : State} (h : CellsSame s t) (x : TaskCtx) (r : Run) (c mac : Nat) (j : Job) :
    countsOf x r (t.macAt (t.physMac c mac)) j = countsOf x r (s.macAt (s.physMac c mac)) j := by
  rw [← countsOf_cells, h.physMac, h.cells, countsOf_cells]

theorem CellsSame.sliceDone {s t : State} (h : CellsSame s t) (x : TaskCtx) (r : Run) : sliceDone x r t = sliceDone x r s := by
  simp only [Machine.sliceDone, h.countsOf]

/-! ## A slice that goes on -/

theorem progress_of_slice_undone {x : TaskCtx} {r : Run} {s : State} (hx : x.t.isCount) (hb : r.busy)
    (h : sliceDone x r s = false) : progress x r s = none := by
  simp [progress, hx, hb, h]

/-- A token whose job has a further count waits for it, whatever the count noted. -/
theorem progress_of_sliceGoesOn {x : TaskCtx} {r : Run} {s t : State} {mac k i : Nat} {j : Job} (hx : x.t.isCount)
    (hb : r.busy) (hj : r.jobOf mac = some (k, j)) (hgo : SliceGoesOn x r mac j i s) (hc : CellsSame s t)
    (failed bad : List Nat) (badLane : List (Nat × Nat)) (retries : Tab Nat) :
    progress x { r with
      jobs := r.jobs.set k { j with next := i, failed := failed, bad := bad, badLane := badLane }, retries := retries } t =
      none := by
  obtain ⟨hk, hround, rfl⟩ := Run.jobOf_eq_some hj
  refine progress_of_slice_undone hx hb ?_
  rw [hc.sliceDone, sliceDone, List.all_eq_false]
  refine ⟨{ j with next := i, failed := failed, bad := bad, badLane := badLane }, ?_, ?_⟩
  · have hlt := (List.getElem?_eq_some_iff.1 hk).1
    simpa [hround] using List.mem_set hlt _
  · have hlen : ¬ (countsOf x r (s.macAt (s.physMac x.core j.mac)) j).length ≤ i := not_le.2 hgo
    simp only [Bool.and_eq_true, decide_eq_true_eq, not_and]
    exact fun _ => hlen

theorem dueCount_eq_some {x : TaskCtx} {r : Run} {mac k : Nat} {s : State} {j : Job} {cs : List SegCount}
    (h : dueCount x r mac s = some (k, j, cs)) :
    x.t.isCount ∧ r.busy ∧ r.jobOf mac = some (k, j) ∧
      (countsOf x r (s.macAt (s.physMac x.core mac)) j)[j.next]? = some cs := by
  unfold dueCount at h
  split at h
  · exact absurd h (by simp)
  · next hc =>
    split at h
    · exact absurd h (by simp)
    · next k' j' hj =>
      split at h
      · exact absurd h (by simp)
      · obtain ⟨cs', hcs, heq⟩ := Option.map_eq_some_iff.1 h
        obtain ⟨rfl, rfl, rfl⟩ : k' = k ∧ j' = j ∧ cs' = cs := by simpa using heq
        simp only [Bool.or_eq_true, Bool.not_eq_true', not_or, Bool.not_eq_false, Bool.and_eq_true] at hc
        exact ⟨hc.1.1, hc.1.2, hj, hcs⟩

/-! ## Counters, windows and flags of the macro that counts -/

/-- State u is s with the counters of macro pm set to c and d; of maintenance only FILLER_MISMATCH has moved. -/
structure CountersSet (pm : Nat) (c d : Tab (BitVec 7)) (s u : State) : Prop where
  mac : u.macAt pm = { s.macAt pm with ctr := c, rowCtr := d }
  others : ∀ k, k ≠ pm → u.macAt k = s.macAt k
  mnt : { u.mnt with fillerBad := 0 } = { s.mnt with fillerBad := 0 }

theorem CountersSet.refl (pm : Nat) (s : State) : CountersSet pm (s.macAt pm).ctr (s.macAt pm).rowCtr s s :=
  ⟨rfl, fun _ _ => rfl, rfl⟩

theorem CountersSet.step {pm : Nat} {c d : Tab (BitVec 7)} {s u v : State} {L : List Comp} (h : CountersSet pm c d s u)
    (k : Kept L u v) (hfm : Comp.fm ∉ L) (hmnt : Comp.mnt ∉ L) : CountersSet pm c d s v :=
  ⟨(k.macAt hfm pm).trans h.mac, fun i hi => (k.macAt hfm i).trans (h.others i hi), by rw [k.mnt_eq hmnt, h.mnt]⟩

theorem Kept.countersSet (pm : Nat) (c d : Tab (BitVec 7)) {s u : State} {L : List Comp} (k : Kept L s u)
    (hfm : Comp.fm ∉ L) (hmnt : Comp.mnt ∉ L) :
    CountersSet pm c d s (u.setMac pm { s.macAt pm with ctr := c, rowCtr := d }) :=
  ⟨macAt_setMac_self .., fun i hi => (macAt_setMac_ne u _ hi).trans (k.macAt hfm i), by
    rw [State.setMac_mnt, k.mnt_eq hmnt]⟩

/-- What a checked count has made of macro pm: counters c and d, and beside them windows and flags alone. -/
structure Counted (pm : Nat) (c d : Tab (BitVec 7)) (s t : State) : Prop extends CellsSame s t where
  ctr : (t.macAt pm).ctr = c
  rowCtr : (t.macAt pm).rowCtr = d

theorem Counted.step {pm : Nat} {c d : Tab (BitVec 7)} {s t u : State} {L : List Comp} (h : Counted pm c d s t)
    (k : Kept L t u) (hfm : Comp.fm ∉ L) (hmnt : Comp.mnt ∉ L) : Counted pm c d s u :=
  ⟨h.toCellsSame.trans (k.cellsSame hfm hmnt), by rw [k.macAt hfm, h.ctr], by rw [k.macAt hfm, h.rowCtr]⟩

section
variable {pm : Nat} {c d : Tab (BitVec 7)} {s u : State} (x : Option TaskCtx) (core lm : Nat) (segs : List Nat) (g : Nat → Nat)
  (rt : Bool)

theorem CountersSet.sansGuards (h : CountersSet pm c d s u) :
    ((guardNotes x core lm pm segs g rt u).macAt pm).sansGuards = ({ s.macAt pm with ctr := c, rowCtr := d } : Mac).sansGuards := by
  rw [macAt_guardNotes_self, guardMacs_sansGuards, h.mac]

theorem CountersSet.counted (h : CountersSet pm c d s u) : Counted pm c d s (guardNotes x core lm pm segs g rt u) := by
  have hself := h.sansGuards x core lm segs g rt
  refine ⟨⟨fun k => ?_, ?_⟩, (congrArg Mac.ctr (hself) :), (congrArg Mac.rowCtr (hself) :)⟩
  · by_cases hk : k = pm
    · subst hk
      exact (congrArg Mac.cells hself :)
    · rw [macAt_guardNotes_ne (hk := hk), h.others k hk]
  · exact (Mnt.steady_of_sansQueue (guardNotes_sansQueue ..)).trans (congrArg Mnt.steady h.mnt :)

theorem CountersSet.flagged (h : CountersSet pm c d s u) (k : Nat) :
    ((guardNotes x core lm pm segs g rt u).macAt k).flagged = (s.macAt k).flagged := by
  by_cases hk : k = pm
  · subst hk
    exact (congrArg Mac.flagged (h.sansGuards x core lm segs g rt) :)
  · rw [macAt_guardNotes_ne (hk := hk), h.others k hk]

end

/-! ## Flags (R69, R71) -/

theorem mem_insertSorted {a b : Nat} {l : List Nat} : a ∈ insertSorted b l ↔ a = b ∨ a ∈ l := by
  induction l with
  | nil => simp [insertSorted]
  | cons y l ih =>
    unfold insertSorted
    split
    · simp
    · split
      · next h => subst h; simp
      · simp [ih, or_left_comm]

theorem flagSeg_kept (x : Option TaskCtx) (core lm pm seg : Nat) (s : State) :
    Kept [.jr, .host, .mnt] (s.setMac pm { s.macAt pm with flagged := insertSorted seg (s.macAt pm).flagged })
      (flagSeg x core lm pm seg s) :=
  ((Kept.refl _ _).step (by decide) (macEvent_frame ..)).step (by decide) (requestDiag_frame ..)

theorem flagSeg_sansQueue (x : Option TaskCtx) (core lm pm seg : Nat) (s : State) :
    (flagSeg x core lm pm seg s).mnt.sansQueue = s.mnt.sansQueue := by
  simp [flagSeg]

/-- Segments that have failed twice are flagged one by one. -/
def flagAll (x : Option TaskCtx) (core lm pm : Nat) (segs : List Nat) (s : State) : State :=
  segs.foldl (fun s g => flagSeg x core lm pm g s) s

section
variable {pm : Nat} {c d : Tab (BitVec 7)} {s t : State} (x : Option TaskCtx) (core lm : Nat) (segs : List Nat)

theorem Counted.flagSeg (h : Counted pm c d s t) (g : Nat) : Counted pm c d s (flagSeg x core lm pm g t) := by
  have hk := flagSeg_kept x core lm pm g t
  have hself := (hk.macAt (by decide) pm).trans (macAt_setMac_self ..)
  refine ⟨h.toCellsSame.trans ⟨fun k => ?_, ?_⟩, by rw [hself, h.ctr], by rw [hself, h.rowCtr]⟩
  · by_cases hpm : k = pm
    · subst hpm
      rw [hself]
      rfl
    · rw [hk.macAt (by decide), macAt_setMac_ne _ _ hpm]
  · exact Mnt.steady_of_sansQueue (flagSeg_sansQueue ..)

theorem Counted.flagAll (h : Counted pm c d s t) : Counted pm c d s (flagAll x core lm pm segs t) :=
  foldl_inv (Counted pm c d s) _ _ _ h (fun _ g k => k.flagSeg x core lm g)

theorem mem_flagged_flagAll {g : Nat} :
    g ∈ ((Machine.flagAll x core lm pm segs t).macAt pm).flagged ↔ g ∈ segs ∨ g ∈ (t.macAt pm).flagged := by
  unfold Machine.flagAll
  induction segs generalizing t with
  | nil => simp
  | cons a segs ih =>
    rw [List.foldl_cons, ih, (flagSeg_kept ..).macAt (by decide), macAt_setMac_self, mem_insertSorted, List.mem_cons]
    tauto

end

end Sys2Proof.Machine
end

section
/-!
What the shared operations of the count commands do (R57, R67-R73, R199).
-/

namespace Sys2Proof.Machine

open Sys2Proof

section
variable (x : TaskCtx) (lm k : Nat) (j : Job) (r : Run) (s : State)

/-- A data count of a macro (R57, R68): the levels of the segments that pass, then the guard monitor. -/
theorem countJob_eq (dev : List Deviation) :
    let pm := s.physMac x.core lm
    let m := s.macAt pm
    let cs := (countsOf x r m j).getD j.next []
    let failed := (List.range 16).filter (fun g => !segPasses m dev g (refRowsOf cs g))
    ∃ t, Counted pm (addLevels x m dev (cs.filter (fun c => !failed.contains c.seg)) j) m.rowCtr s t ∧
      GuardCounted pm (List.range 16) s t ∧
      countJob x lm k dev j r s =
        ({ r with jobs := r.jobs.set k { j with next := j.next + 1, failed := failed, bad := j.bad,
                                                badLane := (j.badLane ++ rowPoison m j cs).eraseDups } }, t) := by
  intro pm m cs failed
  have hwork := (noteWork_frame 1 (dieOfCore x.core) x.fn 1 s).step (by decide) (noteWork_frame 2 (dieOfCore x.core) x.fn 1 _)
  have hu := (hwork.countersSet pm (addLevels x m dev (cs.filter (fun c => !failed.contains c.seg)) j) m.rowCtr
    (by decide) (by decide)).step (noteGuards_frame x.core (((List.range 16).map (refGuards m dev)).sum) (dataGuards m dev) _)
    (by decide) (by decide)
  exact ⟨_, hu.counted (some x) x.core lm (List.range 16) (refGuards m dev) false, guardNotes_counted (by rw [hu.mac]), rfl⟩

/-- The repeat of a count (R69): the levels of the segments that failed, the guard monitor, and the flags of those that fail
again. -/
theorem retryJob_eq (dev : List Deviation) :
    let pm := s.physMac x.core lm
    let m := s.macAt pm
    let cs := (countsOf x r m j).getD (j.next - 1) []
    let dev' := dev.filter (fun d => j.failed.contains d.seg)
    let again := j.failed.filter (fun g => !segPasses m dev' g (refRowsOf cs g))
    ∃ t, Counted pm (addLevels x m dev' (cs.filter (fun c => j.failed.contains c.seg)) j) m.rowCtr s t ∧
      (∀ g ∈ again, g ∈ (t.macAt pm).flagged) ∧
      retryJob x lm k dev j r s =
        ({ r with jobs := r.jobs.set k { j with next := j.next, failed := [], bad := (j.bad ++ again).eraseDups, badLane := j.badLane },
                  retries := tmod r.retries lm 0 (· + 1) }, t) := by
  intro pm m cs dev' again
  have hu := ((noteWork_frame 1 (dieOfCore x.core) x.fn 1 s).countersSet pm
    (addLevels x m dev' (cs.filter (fun c => j.failed.contains c.seg)) j) m.rowCtr (by decide) (by decide)).step
    (noteGuards_frame x.core ((j.failed.map (refGuards m dev')).sum) (dataGuards m dev') _) (by decide) (by decide)
  have hc := (hu.counted (some x) x.core lm j.failed (refGuards m dev') true).step
    (noteRepeat_frame x.core (j.failed.any (fun g => !again.contains g)) (again != []) _) (by decide) (by decide)
  exact ⟨_, hc.flagAll (some x) x.core lm again, fun g hg => (mem_flagged_flagAll ..).2 (.inl hg), rfl⟩

/-- A transposed count (R199): the levels of the rows that pass, then the guard monitor. -/
theorem countRows_eq (dev : List RowDeviation) :
    let pm := s.physMac x.core lm
    let m := s.macAt pm
    let cs := (countsOf x r m j).getD j.next []
    let dev' := dev.filter (fun d => d.row < 1024)
    let failing := rowsFailing m dev' (r.base + j.next)
    ∃ t, Counted pm m.ctr
        (addRowLevels x m dev' (r.slice % x.planes) cs ((List.range 1024).filter (fun row => !failing.contains row))) s t ∧
      GuardCounted pm (List.range 16) s t ∧
      countRows x lm k dev false j r s =
        ({ r with jobs := r.jobs.set k { j with next := j.next + 1, failed := failing, bad := j.bad, badLane := j.badLane } }, t) := by
  intro pm m cs dev' failing
  have hwork := (noteWork_frame 1 (dieOfCore x.core) x.fn 1 s).step (by decide) (noteWork_frame 2 (dieOfCore x.core) x.fn 1 _)
  have hu := (hwork.countersSet pm m.ctr
    (addRowLevels x m dev' (r.slice % x.planes) cs ((List.range 1024).filter (fun row => !failing.contains row)))
    (by decide) (by decide)).step (noteGuards_frame x.core (((List.range 16).map (rowGuards m dev')).sum) (rowDataGuards m dev') _)
    (by decide) (by decide)
  refine ⟨_, hu.counted (some x) x.core lm (List.range 16) (rowGuards m dev') false, guardNotes_counted (by rw [hu.mac]), ?_⟩
  unfold countRows
  simp only [Bool.not_false, Bool.true_or, Bool.and_true]
  rfl

/-- The repeat of a transposed count (R69, R199). -/
theorem countRows_again_eq (dev : List RowDeviation) :
    let pm := s.physMac x.core lm
    let m := s.macAt pm
    let cs := (countsOf x r m j).getD (j.next - 1) []
    let dev' := dev.filter (fun d => d.row < 1024 && j.failed.contains d.row)
    let failing := rowsFailing m dev' (r.base + (j.next - 1))
    ∃ t, Counted pm m.ctr (addRowLevels x m dev' (r.slice % x.planes) cs j.failed) s t ∧
      countRows x lm k dev true j r s =
        ({ r with jobs := r.jobs.set k { j with next := j.next, failed := [], bad := (j.bad ++ failing).eraseDups, badLane := j.badLane },
                  retries := tmod r.retries lm 0 (· + 1) }, t) := by
  intro pm m cs dev' failing
  have hu := ((noteWork_frame 1 (dieOfCore x.core) x.fn 1 s).countersSet pm m.ctr
    (addRowLevels x m dev' (r.slice % x.planes) cs j.failed) (by decide) (by decide)).step
    (noteGuards_frame x.core ((((j.failed.map (· / 64)).eraseDups).map (rowGuards m dev')).sum) (rowDataGuards m dev') _)
    (by decide) (by decide)
  have hc := (hu.counted (some x) x.core lm ((j.failed.map (· / 64)).eraseDups) (rowGuards m dev') true).step
    (noteRepeat_frame x.core (j.failed.any (fun row => !failing.contains row)) (failing != []) _) (by decide) (by decide)
  refine ⟨_, hc.flagAll (some x) x.core lm ((failing.map (· / 64)).eraseDups), ?_⟩
  unfold countRows
  simp only [Bool.not_true, Bool.false_or]
  rfl

end

/-- What the live check of a filler does (R73): FILLER_MISMATCH counts the segments that fail, the guard monitor goes on, and
nothing is flagged or added. -/
structure FillerChecked (pm : Nat) (rows : List Nat) (dev : List Deviation) (s t : State) : Prop
    extends Counted pm (s.macAt pm).ctr (s.macAt pm).rowCtr s t where
  guards : GuardCounted pm (List.range 16) s t
  flagged : ∀ k, (t.macAt k).flagged = (s.macAt k).flagged
  bad : t.mnt.fillerBad =
    (s.mnt.fillerBad + ((List.range 16).filter (fun g => !segPasses (s.macAt pm) dev g (rows.take 8))).length) % 2 ^ 64

theorem fillerCheck_checked (x : Option TaskCtx) (core mac : Nat) (rows : List Nat) (dev : List Deviation) (s : State) :
    FillerChecked (s.physMac core mac) rows dev s (fillerCheck x core mac rows dev s) := by
  let pm := s.physMac core mac
  let m := s.macAt pm
  have hwork : ∀ kind f, CountersSet pm m.ctr m.rowCtr s (noteWork kind (dieOfCore core) f 1 s) := fun kind f =>
    (CountersSet.refl pm s).step (noteWork_frame ..) (by decide) (by decide)
  have hbad : ∀ {u : State} (n : Nat), CountersSet pm m.ctr m.rowCtr s u →
      CountersSet pm m.ctr m.rowCtr s (noteGuards core (((List.range 16).map (refGuards m dev)).sum) (dataGuards m dev)
        { u with mnt := { u.mnt with fillerBad := n } }) := by
    intro u n h
    have hmoved : CountersSet pm m.ctr m.rowCtr s { u with mnt := { u.mnt with fillerBad := n } } :=
      ⟨h.mac, h.others, h.mnt⟩
    exact hmoved.step (noteGuards_frame ..) (by decide) (by decide)
  have hchecked : ∀ {u : State}, CountersSet pm m.ctr m.rowCtr s u →
      u.mnt.fillerBad = (s.mnt.fillerBad + ((List.range 16).filter (fun g => !segPasses m dev g (rows.take 8))).length) % 2 ^ 64 →
      FillerChecked pm rows dev s (guardNotes x core mac pm (List.range 16) (refGuards m dev) false u) := fun hu hn =>
    ⟨hu.counted .., guardNotes_counted (by rw [hu.mac]), hu.flagged x core mac _ _ _,
      (congrArg Mnt.fillerBad (guardNotes_sansQueue ..) :).trans hn⟩
  cases x with
  | none => exact hchecked (hbad _ (hwork 3 512)) rfl
  | some x => exact hchecked (hbad _ (hwork 1 x.fn)) rfl

end Sys2Proof.Machine
end

section
/-!
The statement about counts, command by command (R48, R57, R62, R67-R73, R172, R199, R379).
-/

namespace Sys2Proof.Machine

open Sys2Proof

/-! ## Commands of a core whose task waits for more -/

section
variable {c : Nat} {r r' : Run} {x : TaskCtx} {s t : State} {act : TaskCtx → Run → State → Run × State}

theorem onRun_of_waits (h : CoreRuns c r x s) (ha : act x r s = (r', t)) (hw : progress x r' t = none) :
    onRun c act s = setRun c r' t := onRun_of_runs h ha (proceed_of_waits hw _)

theorem run_setRun (c : Nat) (r : Run) (t : State) : ((setRun c r t).core c).run = some r := by rw [core_setRun]

theorem Kept.setRun_off {L M : List Comp} (h : Kept L s t) (hL : L ⊆ M) (hM : [.cores] ⊆ M) (c : Nat) (r : Run) :
    SameOff M s (setRun c r t) :=
  (((Kept.refl M s).step hL h).step hM (setRun_frame c r t)).off

/-- A count leaves the cells alone, and the core's run is noted after it (R48). -/
theorem CellsSame.kept_setRun (hc : CellsSame s t) (h : Kept [.jr, .host, .reg, .fm, .mnt] s t) (c : Nat) (r : Run) :
    CellsKept s (setRun c r t) :=
  CellsSame.kept ⟨hc.cells, hc.maps⟩ (h.setRun_off (by decide) (by decide) c r)

end

/-! ## COUNT, COUNT_RETRY and TRANSPOSED_COUNT -/

section
variable {s : State} {c mac k : Nat} {r : Run} {x : TaskCtx} {j : Job} {cs : List SegCount}

theorem count_adds_levels (dev : List Deviation) (h : CoreRuns c r x s) (hdue : dueCount x r mac s = some (k, j, cs))
    (ht : x.t.transposed = false) (hfill : isFiller x (s.macAt (s.physMac c mac)) j cs = false)
    (hgo : SliceGoesOn x r mac j (j.next + 1) s) :
    let m := s.macAt (s.physMac c mac)
    let failed := (List.range 16).filter (fun g => !segPasses m dev g (refRowsOf cs g))
    ∃ t, exec (.count c mac dev) s = .next t ∧ CellsKept s t ∧ GuardCounted (s.physMac c mac) (List.range 16) s t ∧
      (t.macAt (s.physMac c mac)).ctr = addLevels x m dev (cs.filter (fun q => !failed.contains q.seg)) j ∧
      JobBecomes c k r id
        { j with next := j.next + 1, failed := failed, badLane := (j.badLane ++ rowPoison m j cs).eraseDups } t := by
  obtain rfl := taskCtx_core h.ctx
  obtain ⟨hx, hb, hj, hcs⟩ := dueCount_eq_some hdue
  obtain ⟨t, hc, hg, heq⟩ := countJob_eq x mac k j r s dev
  rw [List.getD_eq_getElem?_getD, hcs, Option.getD_some] at hc heq
  have hkept := countJob_frame x mac k dev j r s
  rw [heq] at hkept
  have hrun : countEffect x.core mac dev s = _ := onRun_of_waits h ((by simp [hdue, ht, hfill] : _ = countJob x mac k dev j r s).trans heq)
    (progress_of_sliceGoesOn hx hb hj hgo hc.toCellsSame _ _ _ _)
  exact ⟨_, congrArg Host.Outcome.next hrun, hc.toCellsSame.kept_setRun hkept _ _, hg, hc.ctr, run_setRun ..⟩

theorem countRetry_adds_levels (dev : List Deviation) (h : CoreRuns c r x s) (hj : r.jobOf mac = some (k, j))
    (hne : j.failed ≠ []) (hfree : s.fenced (s.physMac c mac) = false) (hx : x.t.isCount) (hb : r.busy)
    (ht : x.t.transposed = false) (hgo : SliceGoesOn x r mac j j.next s) :
    let m := s.macAt (s.physMac c mac)
    let cs := (countsOf x r m j).getD (j.next - 1) []
    let dev' := dev.filter (fun d => j.failed.contains d.seg)
    let again := j.failed.filter (fun g => !segPasses m dev' g (refRowsOf cs g))
    ∃ t, exec (.countRetry c mac dev) s = .next t ∧ CellsKept s t ∧
      (t.macAt (s.physMac c mac)).ctr = addLevels x m dev' (cs.filter (fun q => j.failed.contains q.seg)) j ∧
      JobBecomes c k r (fun r => { r with retries := tmod r.retries mac 0 (· + 1) })
        { j with failed := [], bad := (j.bad ++ again).eraseDups } t ∧
      ∀ g ∈ again, g ∈ (t.macAt (s.physMac c mac)).flagged := by
  obtain rfl := taskCtx_core h.ctx
  obtain ⟨t, hc, hflag, heq⟩ := retryJob_eq x mac k j r s dev
  have hkept := retryJob_frame x mac k dev j r s
  rw [heq] at hkept
  have hrun : retryEffect x.core mac dev s = _ := onRun_of_waits h ((by simp [hj, hne, hfree, ht] : _ = retryJob x mac k dev j r s).trans heq)
    (progress_of_sliceGoesOn hx hb hj hgo hc.toCellsSame _ _ _ _)
  exact ⟨_, congrArg Host.Outcome.next hrun, hc.toCellsSame.kept_setRun hkept _ _, hc.ctr, run_setRun ..,
    hflag⟩

theorem countRetry_adds_row_levels (dev : List Deviation) (h : CoreRuns c r x s) (hj : r.jobOf mac = some (k, j))
    (hne : j.failed ≠ []) (hfree : s.fenced (s.physMac c mac) = false) (hx : x.t.isCount) (hb : r.busy)
    (ht : x.t.transposed) (hgo : SliceGoesOn x r mac j j.next s) :
    let m := s.macAt (s.physMac c mac)
    let cs := (countsOf x r m j).getD (j.next - 1) []
    let dev' := (dev.map (fun d => ({ row := d.seg, sect := d.col, uv := d.uv } : RowDeviation))).filter
      (fun d => d.row < 1024 && j.failed.contains d.row)
    ∃ t, exec (.countRetry c mac dev) s = .next t ∧ CellsKept s t ∧
      (t.macAt (s.physMac c mac)).rowCtr = addRowLevels x m dev' (r.slice % x.planes) cs j.failed ∧
      JobBecomes c k r (fun r => { r with retries := tmod r.retries mac 0 (· + 1) })
        { j with failed := [], bad := (j.bad ++ rowsFailing m dev' (r.base + (j.next - 1))).eraseDups } t := by
  obtain rfl := taskCtx_core h.ctx
  obtain ⟨t, hc, heq⟩ :=
    countRows_again_eq x mac k j r s (dev.map (fun d => { row := d.seg, sect := d.col, uv := d.uv }))
  have hkept := countRows_frame x mac k (dev.map (fun d => { row := d.seg, sect := d.col, uv := d.uv })) true j r s
  rw [heq] at hkept
  have hrun : retryEffect x.core mac dev s = _ := onRun_of_waits h ((by simp [hj, hne, hfree, ht] : _ = countRows x mac k (dev.map (fun d => { row := d.seg, sect := d.col, uv := d.uv })) true j r s).trans heq)
    (progress_of_sliceGoesOn hx hb hj hgo hc.toCellsSame _ _ _ _)
  exact ⟨_, congrArg Host.Outcome.next hrun, hc.toCellsSame.kept_setRun hkept _ _, hc.rowCtr, run_setRun ..⟩

theorem transposedCount_adds_row_levels (dev : List RowDeviation) (h : CoreRuns c r x s)
    (hdue : dueCount x r mac s = some (k, j, cs)) (ht : x.t.transposed)
    (hfill : isFiller x (s.macAt (s.physMac c mac)) j cs = false) (hgo : SliceGoesOn x r mac j (j.next + 1) s) :
    let m := s.macAt (s.physMac c mac)
    let dev' := dev.filter (fun d => d.row < 1024)
    let failing := rowsFailing m dev' (r.base + j.next)
    ∃ t, exec (.transposedCount c mac dev) s = .next t ∧ CellsKept s t ∧ GuardCounted (s.physMac c mac) (List.range 16) s t ∧
      (t.macAt (s.physMac c mac)).rowCtr =
        addRowLevels x m dev' (r.slice % x.planes) cs ((List.range 1024).filter (fun row => !failing.contains row)) ∧
      JobBecomes c k r id { j with next := j.next + 1, failed := failing } t := by
  obtain rfl := taskCtx_core h.ctx
  obtain ⟨hx, hb, hj, hcs⟩ := dueCount_eq_some hdue
  obtain ⟨t, hc, hg, heq⟩ := countRows_eq x mac k j r s dev
  rw [List.getD_eq_getElem?_getD, hcs, Option.getD_some] at hc
  have hkept := countRows_frame x mac k dev false j r s
  rw [heq] at hkept
  have hrun : transposedEffect x.core mac dev s = _ := onRun_of_waits h ((by simp [hdue, ht, hfill] : _ = countRows x mac k dev false j r s).trans heq)
    (progress_of_sliceGoesOn hx hb hj hgo hc.toCellsSame _ _ _ _)
  exact ⟨_, congrArg Host.Outcome.next hrun, hc.toCellsSame.kept_setRun hkept _ _, hg, hc.rowCtr, run_setRun ..⟩

end

end Sys2Proof.Machine
end

section
/-!
Fillers of a task, of a steering slot and of glide load (R62, R73, R172, R379), the ends of the windows (R72), and the
statement about counts.
-/

namespace Sys2Proof.Machine

open Sys2Proof

section
variable {s : State} {c mac k : Nat} {r : Run} {x : TaskCtx} {j : Job} {cs : List SegCount}

theorem fillerCount_checks (rows : List Nat) (dev : List Deviation) (h : CoreRuns c r x s)
    (hdue : dueCount x r mac s = some (k, j, cs)) (hfill : isFiller x (s.macAt (s.physMac c mac)) j cs)
    (hgo : SliceGoesOn x r mac j (j.next + 1) s) :
    let m := s.macAt (s.physMac c mac)
    let raised := (rows.filter (· < 64)).take 8
    ∃ t, exec (.fillerCount c mac rows dev) s = .next t ∧ CellsKept s t ∧ GuardCounted (s.physMac c mac) (List.range 16) s t ∧
      JobBecomes c k r id { j with next := j.next + 1 } t ∧
      (t.macAt (s.physMac c mac)).flagged = m.flagged ∧
      t.mnt.fillerBad = (s.mnt.fillerBad + ((List.range 16).filter (fun g => !segPasses m dev g raised)).length) % 2 ^ 64 := by
  obtain rfl := taskCtx_core h.ctx
  obtain ⟨hx, hb, hj, -⟩ := dueCount_eq_some hdue
  have hf := fillerCheck_checked (some x) x.core mac (rows.filter (· < 64)) dev s
  have hrun : fillerEffect x.core mac rows dev s = _ := onRun_of_waits h
    (by simp [hdue, hfill] : _ = (replaceJob k { j with next := j.next + 1 } r,
      fillerCheck (some x) x.core mac (rows.filter (· < 64)) dev s))
    (progress_of_sliceGoesOn hx hb hj hgo hf.toCellsSame _ _ _ _)
  exact ⟨_, congrArg Host.Outcome.next hrun, hf.toCellsSame.kept_setRun (fillerCheck_frame ..) _ _, hf.guards, run_setRun ..,
    hf.flagged _, hf.bad⟩

/-! ## STEERING_SLOT (R172) -/

/-- Filler checks on macros of a core, one after another. -/
def fillerChecks (x : TaskCtx) (c : Nat) (macs rows : List Nat) (dev : List (Nat × Deviation)) (s : State) : State :=
  macs.foldl (fun s m => fillerCheck (some x) c m rows ((dev.filter (fun d => d.1 = m)).map (·.2)) s) s

theorem fillerChecks_frame (x : TaskCtx) (c : Nat) (macs rows : List Nat) (dev : List (Nat × Deviation)) (s : State) :
    Kept [.jr, .host, .reg, .fm, .mnt] s (fillerChecks x c macs rows dev s) :=
  kept_foldl (fun _ _ h => h.step (by decide) (fillerCheck_frame ..)) (.refl ..)

theorem fillerChecks_cellsSame (x : TaskCtx) (c : Nat) (macs rows : List Nat) (dev : List (Nat × Deviation)) (s : State) :
    CellsSame s (fillerChecks x c macs rows dev s) :=
  foldl_inv (CellsSame s) _ _ _ (.refl s) (fun _ _ h => h.trans (fillerCheck_checked ..).toCellsSame)

theorem fillerChecks_flagged (x : TaskCtx) (c : Nat) (macs rows : List Nat) (dev : List (Nat × Deviation)) (s : State) (k : Nat) :
    ((fillerChecks x c macs rows dev s).macAt k).flagged = (s.macAt k).flagged :=
  foldl_inv (fun t : State => (t.macAt k).flagged = (s.macAt k).flagged) _ _ _ rfl
    (fun _ _ h => ((fillerCheck_checked ..).flagged k).trans h)

theorem steeringSlot_checks (dev : List (Nat × Deviation)) (h : CoreRuns c r x s) (hsp : r.sparse) (hb : r.busy) (hx : x.t.isCount)
    (hfailed : ∀ j ∈ r.jobs, j.failed = []) (hdone : sliceDone x r s = false)
    (hdue : r.steered < 6 * (r.base + (r.jobs.filter (fun j => j.round = r.round)).foldl (fun m j => max m j.next) 0) / 100) :
    ∃ t, exec (.steeringSlot c dev) s = .next t ∧ SameOff [.free, .fm, .mnt, .reg, .jr, .host, .cores] s t ∧
      (t.core c).run = some { r with steered := r.steered + 1 } ∧ t.free = s.free + 1 ∧
      ∀ pm, (t.macAt pm).rows = (s.macAt pm).rows ∧ (t.macAt pm).flagged = (s.macAt pm).flagged := by
  let macs := (List.range 64).filter (fun m => !s.fenced (s.physMac c m))
  let u := fillerChecks x c macs (freeRows s).1 dev (freeRows s).2
  have hkept := fillerChecks_frame x c macs (freeRows s).1 dev (freeRows s).2
  have hc : CellsSame s u := ((freeRows_frame s).cellsSame (by decide) (by decide)).trans (fillerChecks_cellsSame ..)
  have hany : r.jobs.any (fun j => j.failed != []) = false := by
    rw [List.any_eq_false]
    intro j hj
    simp [hfailed j hj]
  have hact : steeringEffect c dev s = _ := onRun_of_waits h
    (by simp only [hsp, hany, Nat.not_le.2 hdue, decide_false, Bool.not_true, Bool.or_false, Bool.false_eq_true, if_false]
        rfl : _ = ({ r with steered := r.steered + 1 }, u))
    (progress_of_slice_undone hx hb ((hc.sliceDone x _).trans hdone))
  have hoff : Kept [.free, .jr, .host, .reg, .fm, .mnt] s u :=
    ((Kept.refl _ s).step (by decide) (freeRows_frame s)).step (by decide) hkept
  exact ⟨_, congrArg Host.Outcome.next hact, hoff.setRun_off (by decide) (by decide) _ _, run_setRun ..,
    hkept.off.same .free (by decide), fun pm => ⟨hc.rows pm, fillerChecks_flagged ..⟩⟩

end

/-! ## GLIDE_FILLER (R379, R380) -/

theorem glideDensity_le (s : State) (p c slot a : Nat) : glideDensity s p c slot a ≤ glideRows s := by
  unfold glideDensity
  dsimp only
  split
  · split
    · exact le_rfl
    · exact Nat.zero_le _
  · split
    · split
      · exact le_rfl
      · exact Nat.sub_le ..
    · split
      · exact min_le_left ..
      · exact Nat.zero_le _

theorem glideDensity_hold {s : State} {p c slot a : Nat} (hw : s.nextWork c) (hp : (s.core c).planned ≠ 0)
    (hs : (s.core c).slot = []) : glideDensity s p c slot a = glideRows s := by
  simp [glideDensity, hw, hp, hs]

theorem glideFiller_checks {s : State} {c mac slot p : Nat} (dev : List Deviation) (hc : c < 2048) (hmac : mac < 64)
    (hen : glideEn s) (hp : s.partOfCluster (clusterOfCore c) = some p) (htick : s.partTicks p) (hrun : (s.core c).run = none)
    (hpaused : (s.core c).paused = []) (hfree : s.fenced (s.physMac c mac) = false) :
    let a := (s.core c).glideFrom.getD slot
    let n := glideDensity s p c slot a
    ∃ t, exec (.glideFiller c mac slot dev) s = .next t ∧ SameOff [.fm, .mnt, .reg, .jr, .host, .cores] s t ∧
      t.core c = { s.core c with glideFrom := some a } ∧
      (if n = 0 then SameOff [.cores] s t
       else GuardCounted (s.physMac c mac) (List.range 16) s t ∧
        t.mnt.fillerBad = (s.mnt.fillerBad + ((List.range 16).filter (fun g =>
          !segPasses (s.macAt (s.physMac c mac)) dev g ((List.range n).map (fun i => 8 * (slot % 8) + i)))).length) % 2 ^ 64) := by
  intro a n
  let u := s.setCore c { s.core c with glideFrom := some a }
  have hu : Kept [.cores] s u := State.setCore_frame ..
  have heff : glideEffect c mac slot dev s =
      if n = 0 then u else fillerCheck none c mac ((List.range n).map (fun i => 8 * (slot % 8) + i)) dev u := by
    simp [glideEffect, hp, hc, hmac, hen, htick, hrun, hpaused, hfree, u, n, a]
  refine ⟨_, rfl, (glideEffect_frame c mac slot dev s).off.mono (by decide), ?_, ?_⟩
  · rw [heff]
    split
    · exact core_setCore_self ..
    · rw [(fillerCheck_frame ..).core (by decide)]
      exact core_setCore_self ..
  · rw [heff]
    split
    · exact hu.off
    · have hf : FillerChecked (s.physMac c mac) ((List.range n).map (fun i => 8 * (slot % 8) + i)) dev u _ :=
        fillerCheck_checked none c mac _ dev u
      have hmac : u.macAt (s.physMac c mac) = s.macAt (s.physMac c mac) := hu.macAt (by decide) _
      have hmnt : u.mnt = s.mnt := hu.mnt_eq (by decide)
      have hguards := hf.guards
      have hbad := hf.bad
      have h8 : ((List.range n).map (fun i => 8 * (slot % 8) + i)).take 8 = (List.range n).map (fun i => 8 * (slot % 8) + i) := by
        have hle : n ≤ min 8 (bitsOf s.reg.glideCfg.toNat 7 4) := glideDensity_le ..
        refine List.take_of_length_le ?_
        rw [List.length_map, List.length_range]
        exact hle.trans (min_le_left ..)
      rw [h8, hmac, hmnt] at hbad
      refine ⟨?_, hbad⟩
      rw [GuardCounted, ← hmac]
      exact hguards

/-! ## GUARD_WINDOW_END and RETRY_WINDOW_END (R72) -/

theorem guardWindowEnd_eq (s : State) (pm g : Nat) :
    if (s.macAt pm).guardN.getD g 0 < 512 then exec (.guardWindowEnd pm g) s = .next s
    else exec (.guardWindowEnd pm g) s = .next (s.setMac pm { s.macAt pm with
      guardN := (s.macAt pm).guardN.set g 0, guardHits := (s.macAt pm).guardHits.set g 0 }) := by
  split
  · next h => exact congrArg Host.Outcome.next (if_pos h)
  · next h => exact congrArg Host.Outcome.next (if_neg h)

theorem retryWindowEnd_eq (s : State) (pm g : Nat) :
    if (s.macAt pm).retryN.getD g 0 < 65536 then exec (.retryWindowEnd pm g) s = .next s
    else exec (.retryWindowEnd pm g) s = .next (s.setMac pm { s.macAt pm with
      retryN := (s.macAt pm).retryN.set g 0, retryHits := (s.macAt pm).retryHits.set g 0 }) := by
  split
  · next h => exact congrArg Host.Outcome.next (if_pos h)
  · next h => exact congrArg Host.Outcome.next (if_neg h)

/-- Settles O58: each count command is its shared operation on the core's run, which waits for its next count. -/
theorem countsAddTheirLevels : Obligations.CountsAddTheirLevels :=
  ⟨fun m g _ h8 href => ⟨segPasses_nil h8 href, fun c => dataLevel_nil m g c h8⟩,
    fun _ _ _ _ dev _ _ _ _ h hdue ht hfill hgo => count_adds_levels dev h hdue ht hfill hgo,
    fun _ _ _ _ dev _ _ _ h hj hne hfree hx hb ht hgo => countRetry_adds_levels dev h hj hne hfree hx hb ht hgo,
    fun _ _ _ _ dev _ _ _ h hj hne hfree hx hb ht hgo => countRetry_adds_row_levels dev h hj hne hfree hx hb ht hgo,
    fun _ _ _ _ dev _ _ _ _ h hdue ht hfill hgo => transposedCount_adds_row_levels dev h hdue ht hfill hgo,
    fun _ _ _ _ rows dev _ _ _ _ h hdue hfill hgo => fillerCount_checks rows dev h hdue hfill hgo,
    fun _ _ dev _ _ h hsp hb hx hfailed hdone hdue => steeringSlot_checks dev h hsp hb hx hfailed hdone hdue,
    fun _ _ _ _ _ dev hc hmac hen hp htick hrun hpaused hfree =>
      ⟨glideDensity_le .., fun hw hpl hs => glideDensity_hold hw hpl hs,
        glideFiller_checks dev hc hmac hen hp htick hrun hpaused hfree⟩,
    fun s pm g => ⟨guardWindowEnd_eq s pm g, retryWindowEnd_eq s pm g⟩⟩

end Sys2Proof.Machine
end

section
/-!
Rows of a macro (R43-R49, R76, R184): what a row and its data are after writes and refreshes.
-/

namespace Sys2Proof.Machine

open Sys2Proof

/-- What the step at an element brings about, and every step keeps, holds after the run over a list with that element. -/
theorem foldl_reaches {α β : Type} (P : β → Prop) {f : β → α → β} {a : α} (hf : ∀ b x, a = x ∨ P b → P (f b x)) {l : List α}
    (ha : a ∈ l) (b : β) : P (l.foldl f b) := by
  induction l generalizing b with
  | nil => exact absurd ha (by simp)
  | cons x l ih =>
    rcases List.mem_cons.1 ha with h | h
    · exact foldl_inv P f l (f b x) (hf b x (.inl h)) (fun b x hb => hf b x (.inr hb))
    · exact ih h _

/-! ## Bits of a row -/

theorem sum_bits_succ (f : Nat → Bool) (n : Nat) :
    ((List.range (n + 1)).map (fun k => bit01 (f k) * 2 ^ k)).sum =
      2 ^ n * bit01 (f n) + ((List.range n).map (fun k => bit01 (f k) * 2 ^ k)).sum := by
  simp [List.range_succ, Nat.mul_comm, Nat.add_comm]

theorem bit01_le (b : Bool) : bit01 b ≤ 1 := by cases b <;> decide

theorem testBit_bit01_zero (b : Bool) : (bit01 b).testBit 0 = b := by cases b <;> decide

theorem sum_bits_lt (f : Nat → Bool) (n : Nat) : ((List.range n).map (fun k => bit01 (f k) * 2 ^ k)).sum < 2 ^ n := by
  induction n with
  | zero => simp
  | succ n ih =>
    rw [sum_bits_succ, pow_succ]
    have := Nat.mul_le_mul_left (2 ^ n) (bit01_le (f n))
    omega

/-- A number put together from bits has those bits. -/
theorem testBit_sum_bits (f : Nat → Bool) {n i : Nat} (hi : i < n) :
    ((List.range n).map (fun k => bit01 (f k) * 2 ^ k)).sum.testBit i = f i := by
  induction n with
  | zero => omega
  | succ n ih =>
    rw [sum_bits_succ, Nat.testBit_two_pow_mul_add _ (sum_bits_lt f n)]
    split
    · next h => exact ih h
    · next h =>
      obtain rfl : i = n := by omega
      rw [Nat.sub_self, testBit_bit01_zero]

theorem testBit_refBits (r : Nat) {k : Nat} (hk : k < 8) : (refBits r).testBit k = refBit k r :=
  testBit_sum_bits (fun k => refBit k r) hk

theorem getLsbD_rowWithRefs (r data : Nat) {i : Nat} (hi : i < 280) :
    (rowWithRefs r data).getLsbD i = if i < 272 then data.testBit i else (refBits (r % 64)).testBit (i - 272) := by
  have hlt : data % 2 ^ 272 < 2 ^ 272 := Nat.mod_lt _ (Nat.two_pow_pos _)
  rw [rowWithRefs, Nat.add_comm, Nat.mul_comm, BitVec.getLsbD_ofNat, Nat.testBit_two_pow_mul_add _ hlt]
  split
  · next h => simp [hi, h, Nat.testBit_mod_two_pow]
  · simp [hi]

/-- The reference columns of a row hold the bits of Table 2-5. -/
theorem getLsbD_rowWithRefs_ref (r data : Nat) {k : Nat} (hk : k < 8) :
    (rowWithRefs r data).getLsbD (272 + k) = refBit k (r % 64) := by
  rw [getLsbD_rowWithRefs _ _ (by omega), if_neg (by omega), Nat.add_sub_cancel_left, testBit_refBits _ hk]

theorem getLsbD_rowWithRefs_data (r data : Nat) {i : Nat} (hi : i < 272) :
    (rowWithRefs r data).getLsbD i = data.testBit i := by
  rw [getLsbD_rowWithRefs _ _ (by omega), if_pos hi]

theorem physCol_lt (m : Mac) {c : Nat} (hc : c < 256) : physCol m c < 272 := by
  unfold physCol
  split
  · next i hi =>
    have := List.mem_range.1 (List.mem_of_find?_eq_some hi)
    omega
  · omega

/-! ## The rows after one of them was stored -/

theorem tget_tputD_ne {α : Type} [DecidableEq α] (d : α) (t : Tab α) {k j : Nat} (v : α) (h : j ≠ k) :
    tget (tputD d t k v) j = tget t j := by
  unfold tputD
  split
  · exact tget_tdel_ne t h
  · exact tget_tput_ne t v h

/-- The macro after rows were stored, with new ages. -/
def Mac.stored (m : Mac) (rows : Tab RowBits) (age : Tab Nat) : Mac := { m with rows := rows, age := age }

section
variable (m : Mac) (rows : Tab RowBits) (age : Tab Nat)

@[simp] theorem Mac.stored_rows : (m.stored rows age).rows = rows := rfl
@[simp] theorem Mac.stored_age : (m.stored rows age).age = age := rfl
@[simp] theorem Mac.stored_remap : (m.stored rows age).remap = m.remap := rfl

end

section
variable {m m' : Mac} {r : Nat} {v : RowBits}

theorem rowOf_of_stored (h : m'.rows = tputD (rowWithRefs r 0) m.rows r v) : rowOf m' r = v := by
  simp [rowOf, h]

theorem rowOf_of_stored_ne (h : m'.rows = tputD (rowWithRefs r 0) m.rows r v) {r' : Nat} (hr : r' ≠ r) :
    rowOf m' r' = rowOf m r' := by
  simp only [rowOf, tgetD, h, tget_tputD_ne _ _ _ hr]

end

theorem physCol_congr {m m' : Mac} (h : m'.remap = m.remap) (c : Nat) : physCol m' c = physCol m c := by
  simp only [physCol, h]

theorem remapped_congr {m m' : Mac} (h : m'.remap = m.remap) : remapped m' = remapped m := by
  simp only [remapped, h]

/-- The data of a row lie in its 272 data and spare columns. -/
theorem dataOf_congr {m m' : Mac} {r : Nat} (hmap : m'.remap = m.remap)
    (h : ∀ i < 272, (rowOf m' r).getLsbD i = (rowOf m r).getLsbD i) : dataOf m' r = dataOf m r := by
  simp only [dataOf, remapped_congr hmap]
  split
  · refine congrArg List.sum (List.map_congr_left fun c hc => ?_)
    simp only [bitOf, BitVec.testBit_toNat, physCol_congr hmap, h _ (physCol_lt m (List.mem_range.1 hc))]
  · refine Nat.eq_of_testBit_eq fun i => ?_
    simp only [Nat.testBit_mod_two_pow, BitVec.testBit_toNat]
    by_cases hi : i < 256
    · rw [h i (by omega)]
    · simp [hi]

/-! ## A full row write (R49, R184) -/

theorem writeRow_rows (m : Mac) (now r data : Nat) :
    (writeRow m now r data).rows = tputD (rowWithRefs r 0) m.rows r (rowWithRefs r (placeRow m data)) := by
  simp only [writeRow]

theorem rowOf_writeRow (m : Mac) (now r data : Nat) : rowOf (writeRow m now r data) r = rowWithRefs r (placeRow m data) :=
  rowOf_of_stored (writeRow_rows ..)

theorem rowOf_writeRow_ne (m : Mac) (now r data : Nat) {r' : Nat} (h : r' ≠ r) :
    rowOf (writeRow m now r data) r' = rowOf m r' :=
  rowOf_of_stored_ne (writeRow_rows ..) h

theorem writeRow_stores (m : Mac) (now r data : Nat) :
    (rowOf (writeRow m now r data) r) = rowWithRefs r (placeRow m data) ∧
    tget (writeRow m now r data).age r = some now ∧ r ∉ (writeRow m now r data).poisonRow ∧
    (∀ k < 8, (rowOf (writeRow m now r data) r).getLsbD (272 + k) = refBit k (r % 64)) ∧
    (∀ r', r' ≠ r → rowOf (writeRow m now r data) r' = rowOf m r') := by
  refine ⟨rowOf_writeRow .., tget_tput_self .., by simp [writeRow], fun k hk => ?_, fun _ h => rowOf_writeRow_ne _ _ _ _ h⟩
  rw [rowOf_writeRow, getLsbD_rowWithRefs_ref _ _ hk]

/-! ## A refresh keeps the data (R76) -/

theorem senseRow_nil (m : Mac) (r : Nat) : senseRow m [] r = rowOf m r := rfl

theorem refreshRow_fst (m : Mac) (now : Nat) (flips : List CellFlip) (r : Nat) : (refreshRow m now flips r).1 =
    m.stored (tputD (rowWithRefs r 0) m.rows r (rowWithRefs r (senseRow m flips r).toNat)) (tput m.age r now) := by
  unfold refreshRow Mac.stored
  rfl

theorem dataOf_refreshRow (m : Mac) (now r r' : Nat) : dataOf (refreshRow m now [] r).1 r' = dataOf m r' := by
  have hrows := (congrArg Mac.rows (refreshRow_fst m now [] r)).trans (Mac.stored_rows ..)
  refine dataOf_congr (by rw [refreshRow_fst, Mac.stored_remap]) fun i hi => ?_
  by_cases hr : r' = r
  · subst hr
    rw [rowOf_of_stored hrows, getLsbD_rowWithRefs_data _ _ hi, senseRow_nil, BitVec.testBit_toNat]
  · rw [rowOf_of_stored_ne hrows hr]

/-- The refresh of one row among others: the macro, and the segments whose reference bits were sensed wrong. -/
def refreshStep (now : Nat) (flips : List CellFlip) (a : Mac × List Nat) (r : Nat) : Mac × List Nat :=
  let (m, bad) := refreshRow a.1 now flips r
  (m, if bad then a.2 ++ [r / 64] else a.2)

/-- Rows of a macro refreshed one after another. -/
def refreshedRows (now : Nat) (flips : List CellFlip) (rows : List Nat) (m : Mac) : Mac × List Nat :=
  rows.foldl (refreshStep now flips) (m, [])

theorem refreshStep_fst (now : Nat) (flips : List CellFlip) (a : Mac × List Nat) (r : Nat) :
    (refreshStep now flips a r).1 = (refreshRow a.1 now flips r).1 := by
  unfold refreshStep
  generalize refreshRow a.1 now flips r = q
  rfl

theorem dataOf_refreshedRows (now : Nat) (rows : List Nat) (m : Mac) (r : Nat) :
    dataOf (refreshedRows now [] rows m).1 r = dataOf m r :=
  foldl_inv (fun a : Mac × List Nat => dataOf a.1 r = dataOf m r) _ _ _ rfl
    (fun _ _ h => by rw [refreshStep_fst, dataOf_refreshRow, h])

/-- Every row refreshed is as old as the refresh. -/
theorem refreshedRows_age (now : Nat) (flips : List CellFlip) {rows : List Nat} (m : Mac) {r : Nat} (hr : r ∈ rows) :
    tget (refreshedRows now flips rows m).1.age r = some now := by
  refine foldl_reaches (fun a : Mac × List Nat => tget a.1.age r = some now) (fun a i h => ?_) hr _
  rw [refreshStep_fst, refreshRow_fst, Mac.stored_age, tget_tput]
  split
  · rfl
  · next hne => exact h.resolve_left hne

/-! ## A masked row write (R184) -/

theorem testBit_dataOf {m : Mac} (h : remapped m = false) (r : Nat) {c : Nat} (hc : c < 256) :
    (dataOf m r).testBit c = (rowOf m r).getLsbD c := by
  rw [dataOf, h, if_neg Bool.false_ne_true, Nat.testBit_mod_two_pow, BitVec.testBit_toNat]
  simp [hc]

/-- The data of a row with the columns of a mask replaced. -/
def maskedData (old mask bits : Nat) : Nat := (old &&& ((2 ^ 256 - 1) ^^^ mask)) ||| (bits &&& mask)

theorem testBit_maskedData (old mask bits : Nat) {c : Nat} (hc : c < 256) :
    (maskedData old mask bits).testBit c = if mask.testBit c then bits.testBit c else old.testBit c := by
  rw [maskedData, Nat.testBit_or, Nat.testBit_and, Nat.testBit_xor, Nat.testBit_two_pow_sub_one, Nat.testBit_and]
  cases mask.testBit c <;> simp [hc]

section
variable (m : Mac) (now : Nat) (flips : List CellFlip) (q : WRow)

theorem maskedWrite_eq : maskedWrite m now flips q =
    (refreshRow m now flips q.row).1.stored (tputD (rowWithRefs q.row 0) (refreshRow m now flips q.row).1.rows q.row
      (rowWithRefs q.row (placeRow (refreshRow m now flips q.row).1
        (maskedData (dataOf (refreshRow m now flips q.row).1 q.row) q.mask q.bits)))) (refreshRow m now flips q.row).1.age := by
  unfold maskedWrite maskedData Mac.stored
  rfl

theorem rowOf_maskedWrite : rowOf (maskedWrite m now flips q) q.row =
    rowWithRefs q.row (placeRow (refreshRow m now flips q.row).1
      (maskedData (dataOf (refreshRow m now flips q.row).1 q.row) q.mask q.bits)) := by
  rw [maskedWrite_eq]
  exact rowOf_of_stored (Mac.stored_rows ..)

theorem remapped_refreshRow (r : Nat) : remapped (refreshRow m now flips r).1 = remapped m :=
  remapped_congr (by rw [refreshRow_fst, Mac.stored_remap])

theorem remapped_maskedWrite : remapped (maskedWrite m now flips q) = remapped m := by
  rw [maskedWrite_eq, remapped_congr (Mac.stored_remap ..), remapped_refreshRow]

end

/-- The columns of the mask take the new bits, the others keep theirs. -/
theorem bitOf_dataOf_maskedWrite (m : Mac) (now : Nat) (q : WRow) (h : remapped m = false) {c : Nat} (hc : c < 256) :
    bitOf (dataOf (maskedWrite m now [] q) q.row) c = if bitOf q.mask c then bitOf q.bits c else bitOf (dataOf m q.row) c := by
  rw [bitOf, testBit_dataOf ((remapped_maskedWrite ..).trans h) _ hc, rowOf_maskedWrite, getLsbD_rowWithRefs_data _ _ (by omega),
    placeRow, remapped_refreshRow, h, if_neg Bool.false_ne_true, Nat.testBit_mod_two_pow, testBit_maskedData _ _ _ hc,
    dataOf_refreshRow]
  rw [decide_eq_true hc, Bool.true_and]
  rfl

end Sys2Proof.Machine
end

section
/-!
The rows of a write task (R49, R184-R186): a row that leaves its write, and the read-back that ends it.
-/

namespace Sys2Proof.Machine

open Sys2Proof

/-! ## The writes of a run -/

theorem Run.writeOf_eq_some {r : Run} {mac k : Nat} {w : WriteRun} (h : r.writeOf mac = some (k, w)) :
    r.writes[k]? = some w := by
  unfold Run.writeOf at h
  split at h
  · exact absurd h (by simp)
  · obtain ⟨y, hy, heq⟩ := Option.map_eq_some_iff.1 h
    obtain ⟨rfl, rfl⟩ := Prod.mk.inj heq
    exact hy

section
variable {x : TaskCtx} {r : Run} {s : State}

/-- A write task of which a write is not done waits for its rows. -/
theorem progress_of_write_undone (hb : r.busy) (hx : x.t.isCount = false) (hw : r.writes.all (·.done) = false) :
    progress x r s = none := by
  simp [progress, hb, hx, hw]

theorem progress_of_writes_done (hb : r.busy) (hs : r.setup) (hf : r.finished = false) (hx : x.t.isCount = false)
    (hw : r.writes.all (·.done)) : progress x r s = some ({ dropStep x r s with writes := [] }, s) := by
  rw [progress, if_neg (by simp [hs, hf]), if_pos hb, if_neg (by simp [hx]), if_pos hw]

theorem progress_of_last_step (hb : r.busy = false) (hs : r.setup) (hf : r.finished = false) (ho : r.obuf = [])
    (hn : nextLive x r.step = none) : progress x r s = some ({ r with finished := true }, s) := by
  simp [progress, oDue, hb, hs, hf, ho, hn]

theorem progress_of_finished (hf : r.finished) : progress x r s = none := by simp [progress, hf]

end

/-- A run after its last step, before it finishes: the blocks of the task's start stay. -/
def lastStepDone (x : TaskCtx) (r : Run) : Run :=
  { r with busy := false, badStep := false, step := r.step + 1, writes := [], inp := [],
           buf := r.buf.filter (fun y => (setupBlocks x).any (fun d => d / 256 == y.1)) }

section
variable {x : TaskCtx} {r : Run}

theorem dropStep_last (s : State) (hn : nextLive x (r.step + 1) = none) :
    { dropStep x r s with writes := [] } = lastStepDone x r := by
  simp [dropStep, lastStepDone, hn]

/-- With its last write done a task comes to its end, in two steps of progress. -/
theorem proceed_of_writes_done (s : State) (hb : r.busy) (hs : r.setup) (hf : r.finished = false) (hx : x.t.isCount = false)
    (hw : r.writes.all (·.done)) (ho : r.obuf = []) (hn : nextLive x (r.step + 1) = none) (n : Nat) :
    proceed x (n + 2) r s = ({ lastStepDone x r with finished := true }, s) := by
  rw [proceed_succ_of_some (progress_of_writes_done hb hs hf hx hw), dropStep_last s hn,
    proceed_succ_of_some (progress_of_last_step (r := lastStepDone x r) rfl hs hf ho hn),
    proceed_of_waits (progress_of_finished rfl)]

end

theorem exists_fuelOf (x : TaskCtx) : ∃ n, fuelOf x = n + 2 := by
  refine ⟨fuelOf x - 2, (Nat.sub_add_cancel ?_).symm⟩
  unfold fuelOf
  omega

/-! ## FULL_ROW_WRITE and MASKED_ROW_WRITE (R49, R184) -/

section
variable {full : Bool} {c mac k : Nat} {r : Run} {x : TaskCtx} {w : WriteRun} {q : WRow} {rest : List WRow} {s : State}

/-- The macro after a row of a write. -/
def writtenMac (full : Bool) (flips : List CellFlip) (q : WRow) (now : Nat) (m : Mac) : Mac :=
  markPoison q.row q.poison (if full then writeRow m now q.row q.bits else maskedWrite m now flips q)

theorem writtenMac_full (flips : List CellFlip) (q : WRow) (now : Nat) (m : Mac) :
    writtenMac true flips q now m = markPoison q.row q.poison (writeRow m now q.row q.bits) := by
  rw [writtenMac, if_pos rfl]

theorem writtenMac_masked (flips : List CellFlip) (q : WRow) (now : Nat) (m : Mac) :
    writtenMac false flips q now m = markPoison q.row q.poison (maskedWrite m now flips q) := by
  rw [writtenMac, if_neg Bool.false_ne_true]

theorem rowWrite_eq (flips : List CellFlip) (hw : r.writeOf mac = some (k, w)) (htodo : w.todo = q :: rest) (hfull : q.full = full)
    (hfree : s.fenced (s.physMac x.core mac) = false) (htime : s.life.timingUndefined = false) :
    rowWrite full mac flips x r s =
      (replaceWrite k { w with todo := rest, written := w.written ++ [q] } r,
        (restartEvac (s.physMac x.core mac) (noteWork 4 (dieOfCore x.core) x.fn 1 s)).setMac (s.physMac x.core mac)
          (writtenMac full flips q s.tick.st (s.macAt (s.physMac x.core mac)))) := by
  subst hfull
  have hbits : resultBits 4 q.bits (noteWork 4 (dieOfCore x.core) x.fn 1 s) = (q.bits, noteWork 4 (dieOfCore x.core) x.fn 1 s) :=
    if_neg (by simpa [noteWork] using htime)
  simp only [rowWrite, hw, htodo, hfree, hbits, bne_self_eq_false, Bool.or_self, Bool.false_eq_true, if_false]
  rfl

theorem rowWrite_written (flips : List CellFlip) (h : RowNext c mac k r x w q rest s) (htime : s.life.timingUndefined = false)
    (hfull : q.full = full) : RowWritten c (s.physMac c mac) k r w q rest
      (writtenMac full flips q s.tick.st (s.macAt (s.physMac c mac))) s (onRun c (rowWrite full mac flips) s) := by
  obtain rfl := taskCtx_core h.ctx
  have hlt := (List.getElem?_eq_some_iff.1 (Run.writeOf_eq_some h.write)).1
  have hwait : ∀ u, progress x (replaceWrite k { w with todo := rest, written := w.written ++ [q] } r) u = none := fun u =>
    progress_of_write_undone h.busy h.kind
      (List.all_eq_false.2 ⟨_, List.mem_set hlt _, by simp [h.undone]⟩)
  rw [onRun_of_waits h.toCoreRuns (rowWrite_eq flips h.write h.row hfull h.free htime) (hwait _)]
  have hoff : Kept [.reg, .mnt, .fm] s ((restartEvac (s.physMac x.core mac) (noteWork 4 (dieOfCore x.core) x.fn 1 s)).setMac
      (s.physMac x.core mac) (writtenMac full flips q s.tick.st (s.macAt (s.physMac x.core mac)))) :=
    (((Kept.refl _ s).step (by decide) (noteWork_frame ..)).step (by decide) (restartEvac_frame ..)).step (by decide)
      (State.setMac_frame ..)
  exact ⟨hoff.setRun_off (by decide) (by decide) _ _, macAt_setMac_self .., fun i hi => macAt_setMac_ne _ _ hi, run_setRun ..⟩

theorem fullRowWrite_writes (h : RowNext c mac k r x w q rest s) (htime : s.life.timingUndefined = false) (hfull : q.full) :
    ∃ t, exec (.fullRowWrite c mac) s = .next t ∧ RowWritten c (s.physMac c mac) k r w q rest
      (markPoison q.row q.poison (writeRow (s.macAt (s.physMac c mac)) s.tick.st q.row q.bits)) s t := by
  refine ⟨onRun c (rowWrite true mac []) s, rfl, ?_⟩
  rw [← writtenMac_full []]
  exact rowWrite_written [] h htime hfull

theorem maskedRowWrite_writes (flips : List CellFlip) (h : RowNext c mac k r x w q rest s)
    (htime : s.life.timingUndefined = false) (hfull : q.full = false) :
    ∃ t, exec (.maskedRowWrite c mac flips) s = .next t ∧ RowWritten c (s.physMac c mac) k r w q rest
      (markPoison q.row q.poison (maskedWrite (s.macAt (s.physMac c mac)) s.tick.st flips q)) s t := by
  refine ⟨onRun c (rowWrite false mac flips) s, rfl, ?_⟩
  rw [← writtenMac_masked]
  exact rowWrite_written flips h htime hfull

end

/-! ## READ_BACK (R186, R290) -/

/-- A macro after the read-back of a write. -/
def readBackMac (w : WriteRun) (again bad : List Nat) (now : Nat) (m : Mac) : Mac :=
  let m := poisonRows (rewriteRows w again now m) bad
  if w.page then { m with suspect := [] } else m

section
variable (w : WriteRun) (again bad : List Nat) (now : Nat) (m : Mac)

theorem readBackMac_rows : (readBackMac w again bad now m).rows = (rewriteRows w again now m).rows := by
  unfold readBackMac
  generalize rewriteRows w again now m = m'
  dsimp only
  split <;> rfl

theorem readBackMac_poisonRow :
    (readBackMac w again bad now m).poisonRow = (poisonRows (rewriteRows w again now m) bad).poisonRow := by
  unfold readBackMac
  generalize poisonRows (rewriteRows w again now m) bad = m'
  dsimp only
  split <;> rfl

theorem rewriteRows_nil : rewriteRows w [] now m = m := by simp [rewriteRows]

end

/-- Rows that mismatch twice are recorded (R186). -/
def noteUnwritten (x : TaskCtx) (bad : List Nat) (s : State) : State :=
  if bad = [] then s else raiseMem 0x0302 x.fn (dieOfCore x.core) (some x.core) none 0 (addMmuStat x.fn 47 32 1 s)

theorem noteUnwritten_frame (x : TaskCtx) (bad : List Nat) (s : State) : Kept [.reg, .jr, .host] s (noteUnwritten x bad s) :=
  kept_ite (.refl ..) (((Kept.refl _ s).step (by decide) (addMmuStat_frame ..)).step (by decide) (raiseMem_frame ..))

section
variable (x : TaskCtx) (w : WriteRun) (s : State)

theorem macAt_frameWritten (k : Nat) : (frameWritten x w s).macAt k = s.macAt k := by
  unfold frameWritten
  split
  · rfl
  · split
    · split
      · rfl
      · exact macAt_setFrame ..
    · exact macAt_setFrame ..

theorem frame_frameWritten {x w s} {f : Frame} (hf : s.frame? x.fn w.frame = some f) (hsh : f.shadow = none) :
    (frameWritten x w s).frame? x.fn w.frame =
      some { f with state := (if f.state = .empty ∨ (f.state = .lost ∧ w.page) then .resident else f.state),
                    wFmt := x.t.fr.wFmt, dirty := true } := by
  simp only [frameWritten, hf, hsh, frame_setFrame_self]

end

/-- The state after the cells of a write have been read back. -/
def cellsReadBack (x : TaskCtx) (w : WriteRun) (pm : Nat) (again bad : List Nat) (s : State) : State :=
  let m := readBackMac w again bad s.tick.st (s.macAt pm)
  noteUnwritten x bad (setChecks pm (denseOf m x.t.fr.wFmt w.sparse)
    ((noteWork 4 (dieOfCore x.core) x.fn again.length s).setMac pm m))

section
variable (x : TaskCtx) (w : WriteRun) (pm : Nat) (again bad : List Nat) (s : State)

theorem macAt_cellsReadBack :
    (cellsReadBack x w pm again bad s).macAt pm = readBackMac w again bad s.tick.st (s.macAt pm) := by
  rw [cellsReadBack, (noteUnwritten_frame ..).macAt (by decide)]
  exact macAt_setMac_self ..

theorem frame_cellsReadBack (fn lf : Nat) : (cellsReadBack x w pm again bad s).frame? fn lf = s.frame? fn lf := by
  rw [cellsReadBack, State.frame?, (noteUnwritten_frame ..).fm_eq (by decide)]
  rfl

theorem cellsReadBack_kept : Kept [.reg, .fm] s (cellsReadBack x w pm again [] s) :=
  (((Kept.refl _ s).step (by decide) (noteWork_frame ..)).step (by decide) (State.setMac_frame ..)).step (by decide)
    (setChecks_frame ..)

end

section
variable {mac k : Nat} {r : Run} {x : TaskCtx} {w : WriteRun} {s : State}

theorem readBack_eq (first second : List CellFlip) (hw : r.writeOf mac = some (k, w)) (htodo : w.todo = []) (hdone : w.done = false)
    (hfree : s.fenced (s.physMac x.core mac) = false) :
    let pm := s.physMac x.core mac
    let again := poisonedBy w (mismatched (s.macAt pm) w first)
    let m := rewriteRows w again s.tick.st (s.macAt pm)
    let bad := (poisonedBy w (mismatched m w second)).filter again.contains
    readBack mac first second x r s =
      (replaceWrite k { w with done := true } r, frameWritten x w (cellsReadBack x w pm again bad s)) := by
  simp only [readBack, hw, htodo, hdone, hfree, ne_eq, not_true_eq_false, Bool.false_eq_true, or_self, if_false]
  rfl

/-- The run of a write task after the read-back of one of its writes: with the last of them the task ends. -/
def readBackRun (x : TaskCtx) (k : Nat) (w : WriteRun) (r : Run) : Run :=
  if (r.writes.set k { w with done := true }).all (·.done) then { lastStepDone x r with finished := true }
  else { r with writes := r.writes.set k { w with done := true } }

theorem proceed_readBack (hb : r.busy) (hs : r.setup) (hf : r.finished = false) (hx : x.t.isCount = false) (ho : r.obuf = [])
    (hn : (r.writes.set k { w with done := true }).all (·.done) → nextLive x (r.step + 1) = none) (u : State) :
    proceed x (fuelOf x) (replaceWrite k { w with done := true } r) u = (readBackRun x k w r, u) := by
  obtain ⟨n, hfuel⟩ := exists_fuelOf x
  rw [hfuel]
  unfold readBackRun
  split
  · next hall =>
    have hlast : lastStepDone x (replaceWrite k { w with done := true } r) = lastStepDone x r := rfl
    rw [proceed_of_writes_done (r := replaceWrite k { w with done := true } r) u hb hs hf hx hall ho (hn hall) n, hlast]
  · next hall =>
    exact proceed_of_waits (progress_of_write_undone (r := replaceWrite k { w with done := true } r) hb hx
      (Bool.eq_false_iff.2 hall)) _

end

/-- What a read-back does to the run, the macro and the frame (R186, R290). -/
theorem readBack_effects {s : State} {c mac k : Nat} (first second : List CellFlip) {r : Run} {x : TaskCtx} {w : WriteRun} {f : Frame}
    (h : CoreRuns c r x s) (hw : r.writeOf mac = some (k, w)) (htodo : w.todo = []) (hdone : w.done = false)
    (hfree : s.fenced (s.physMac c mac) = false) (hb : r.busy) (hs : r.setup) (hf : r.finished = false) (hx : x.t.isCount = false)
    (ho : r.obuf = []) (hfr : s.frame? x.fn w.frame = some f)
    (hn : (r.writes.set k { w with done := true }).all (·.done) → nextLive x (r.step + 1) = none) :
    let pm := s.physMac c mac
    let again := poisonedBy w (mismatched (s.macAt pm) w first)
    let m := rewriteRows w again s.tick.st (s.macAt pm)
    let bad := (poisonedBy w (mismatched m w second)).filter again.contains
    ∃ t, exec (.readBack c mac first second) s = .next t ∧ (t.core c).run = some (readBackRun x k w r) ∧
      (t.macAt pm).rows = m.rows ∧ (t.macAt pm).poisonRow = (poisonRows m bad).poisonRow ∧
      (again = [] → m = s.macAt pm) ∧
      (bad = [] → SameOff [.fm, .cores, .reg] s t) ∧
      (f.shadow = none → ∃ f', t.frame? x.fn w.frame = some f' ∧ f'.wFmt = x.t.fr.wFmt ∧ f'.dirty ∧ f'.mac = f.mac ∧
        f'.state = (if f.state = .empty ∨ (f.state = .lost ∧ w.page) then .resident else f.state)) := by
  intro pm again m bad
  obtain rfl := taskCtx_core h.ctx
  have hrun := onRun_of_runs h (readBack_eq first second hw htodo hdone hfree) (proceed_readBack hb hs hf hx ho hn _)
  have hmac : (setRun x.core (readBackRun x k w r) (frameWritten x w (cellsReadBack x w pm again bad s))).macAt pm =
      readBackMac w again bad s.tick.st (s.macAt pm) := by
    rw [macAt_setRun, macAt_frameWritten, macAt_cellsReadBack]
  refine ⟨_, congrArg Host.Outcome.next hrun, run_setRun .., ?_, ?_, fun hagain => ?_, fun hbad => ?_, fun hsh => ?_⟩
  · exact (congrArg Mac.rows hmac).trans (readBackMac_rows ..)
  · exact (congrArg Mac.poisonRow hmac).trans (readBackMac_poisonRow ..)
  · simp only [m, hagain, rewriteRows_nil]
  · have hkept : Kept [.reg, .fm] s (frameWritten x w (cellsReadBack x w pm again bad s)) := by
      rw [hbad]
      exact (cellsReadBack_kept ..).step (by decide) (frameWritten_frame ..)
    exact hkept.setRun_off (by decide) (by decide) _ _
  · exact ⟨_, frame_frameWritten ((frame_cellsReadBack ..).trans hfr) hsh, rfl, rfl, rfl, rfl⟩

end Sys2Proof.Machine
end

section
/-!
Refresh of rows (R75-R78), the loss of retention, and the statement about row writes and refresh.
-/

namespace Sys2Proof.Machine

open Sys2Proof

/-! ## A refresh of rows of a macro -/

/-- A macro with other segments flagged. -/
def Mac.withFlags (m : Mac) (l : List Nat) : Mac := { m with flagged := l }

section
variable (m : Mac) (l : List Nat)

@[simp] theorem Mac.withFlags_age : (m.withFlags l).age = m.age := rfl
theorem dataOf_withFlags (r : Nat) : dataOf (m.withFlags l) r = dataOf m r := rfl

end

/-- The state after rows of a macro were refreshed, before records of wrong reference bits. -/
def rowsRefreshed (pm : Nat) (rows : List Nat) (flips : List CellFlip) (s : State) : State :=
  let q := refreshedRows s.tick.st flips rows (s.macAt pm)
  let oldest := rows.foldl (fun a r => max a (rowAge (s.macAt pm) s.tick.st r / 16000)) 0
  let d := dieOfPhysMac pm
  let s := s.setMac pm (q.1.withFlags (q.2.foldl (fun l g => insertSorted g l) q.1.flagged))
  { s with mnt := { s.mnt with maxAge := tput s.mnt.maxAge d (max (tgetD s.mnt.maxAge d 0) (min 0xFFFF oldest)) } }

/-- Beyond the refresh itself there are records of wrong reference bits and requests for a diagnosis, at most. -/
theorem refreshRows_ind (P : State → Prop) {pm : Nat} {rows : List Nat} {flips : List CellFlip} {s : State}
    (h0 : P (rowsRefreshed pm rows flips s)) (hstep : ∀ g u, P u → P (requestDiag pm (raiseMacro 0x0208 pm (some g) 0 u))) :
    P (refreshRows pm rows flips s) :=
  foldl_inv P _ _ _ h0 (fun _ _ h => hstep _ _ h)

section
variable (pm : Nat) (rows : List Nat) (flips : List CellFlip) (s : State)

theorem refreshRows_kept : Kept [.jr, .host, .mnt] (rowsRefreshed pm rows flips s) (refreshRows pm rows flips s) :=
  refreshRows_ind (Kept [.jr, .host, .mnt] _) (.refl ..)
    (fun _ _ h => (h.step (by decide) (raiseMacro_frame ..)).step (by decide) (requestDiag_frame ..))

theorem macAt_refreshRows_self : ∃ l, (refreshRows pm rows flips s).macAt pm =
    (refreshedRows s.tick.st flips rows (s.macAt pm)).1.withFlags l := by
  rw [(refreshRows_kept ..).macAt (by decide)]
  exact ⟨_, macAt_setMac_self ..⟩

theorem macAt_refreshRows_ne {k : Nat} (hk : k ≠ pm) : (refreshRows pm rows flips s).macAt k = s.macAt k := by
  rw [(refreshRows_kept ..).macAt (by decide)]
  exact macAt_setMac_ne _ _ hk

theorem refreshRows_urgent : (refreshRows pm rows flips s).mnt.urgent = s.mnt.urgent := by
  refine refreshRows_ind (fun u => u.mnt.urgent = s.mnt.urgent) rfl (fun g u h => ?_)
  have hq := requestDiag_sansQueue pm (raiseMacro 0x0208 pm (some g) 0 u)
  rw [(raiseMacro_frame ..).mnt_eq (by decide)] at hq
  exact (congrArg Mnt.urgent hq :).trans h

end

theorem dataOf_refreshRows (pm : Nat) (rows : List Nat) (s : State) (r : Nat) :
    dataOf ((refreshRows pm rows [] s).macAt pm) r = dataOf (s.macAt pm) r := by
  obtain ⟨l, hl⟩ := macAt_refreshRows_self pm rows [] s
  rw [hl, dataOf_withFlags, dataOf_refreshedRows]

theorem age_refreshRows (pm : Nat) {rows : List Nat} (flips : List CellFlip) (s : State) {r : Nat} (hr : r ∈ rows) :
    tget ((refreshRows pm rows flips s).macAt pm).age r = some s.tick.st := by
  obtain ⟨l, hl⟩ := macAt_refreshRows_self pm rows flips s
  rw [hl, Mac.withFlags_age, refreshedRows_age _ _ _ hr]

/-! ## REFRESH_SLOT (R76) -/

/-- A macro with the next row of its refresh passes. -/
def Mac.refreshNext (m : Mac) (i : Nat) : Mac := { m with refreshAt := i }

@[simp] theorem Mac.refreshNext_refreshAt (m : Mac) (i : Nat) : (m.refreshNext i).refreshAt = i := rfl

@[simp] theorem Mac.refreshNext_age (m : Mac) (i : Nat) : (m.refreshNext i).age = m.age := rfl

theorem dataOf_refreshNext (m : Mac) (i r : Nat) : dataOf (m.refreshNext i) r = dataOf m r := rfl

theorem refreshSlot_refreshes {s : State} {pm : Nat} (hpm : pm < physMacCount) (hup : s.life.diesUp) :
    ∃ t, exec (.refreshSlot pm []) s = .next t ∧ (t.macAt pm).refreshAt = ((s.macAt pm).refreshAt + 1) % 64 ∧
      (∀ g < 16, tget (t.macAt pm).age (64 * g + (s.macAt pm).refreshAt) = some s.tick.st) ∧
      (∀ k, k ≠ pm → t.macAt k = s.macAt k) ∧
      (∀ row, dataOf (t.macAt pm) row = dataOf (s.macAt pm) row) := by
  let i := (s.macAt pm).refreshAt
  let u := refreshRows pm ((List.range 16).map (fun g => 64 * g + i)) [] s
  have heff : refreshSlotEffect pm [] s = u.setMac pm ((u.macAt pm).refreshNext ((i + 1) % 64)) := by
    unfold refreshSlotEffect
    rw [if_neg (by simp [hpm, hup])]
    rfl
  refine ⟨_, congrArg Host.Outcome.next heff, ?_, fun g hg => ?_, fun k hk => ?_, fun row => ?_⟩
  · rw [macAt_setMac_self, Mac.refreshNext_refreshAt]
  · rw [macAt_setMac_self, Mac.refreshNext_age]
    exact age_refreshRows pm [] s (List.mem_map_of_mem (List.mem_range.2 hg))
  · rw [macAt_setMac_ne _ _ hk, macAt_refreshRows_ne _ _ _ _ hk]
  · rw [macAt_setMac_self, dataOf_refreshNext, dataOf_refreshRows]

/-! ## URGENT_REFRESH (R78) -/

/-- A record that is raised at most once in a time has been raised in that time. -/
theorem raiseOncePer_raised {gap : Nat} (hgap : 0 < gap) (key : Nat) (e : EventRec) (fns : List Nat) (s : State) :
    ∃ u, (e.code, key, u) ∈ (raiseOncePer gap key e fns s).jr.raised ∧ s.tick.st < u + gap := by
  unfold raiseOncePer
  split
  · next h =>
    obtain ⟨⟨code, key', u⟩, hmem, heq⟩ := List.any_eq_true.1 h
    obtain ⟨rfl, rfl, hu⟩ := of_decide_eq_true heq
    exact ⟨u, hmem, hu⟩
  · exact ⟨s.tick.st, List.mem_cons_self, by omega⟩

theorem urgentRefresh_refreshes {s : State} {pm row a fn lf c lm : Nat} {f : Frame} (hage : tget (s.macAt pm).age row = some a)
    (hf : s.frameOfMac pm = some (fn, lf, f)) (hlog : s.logMac pm = some (c, lm)) :
    ∃ t, exec (.urgentRefresh pm row []) s = .next t ∧
      t.tick = { s.tick with st := max s.tick.st (a + s.refreshInterval (dieOfPhysMac pm)) } ∧
      tgetD t.mnt.urgent (dieOfPhysMac pm) 0 = satAdd 255 (tgetD s.mnt.urgent (dieOfPhysMac pm) 0) 1 ∧
      tget (t.macAt pm).age row = some t.tick.st ∧ (∀ r', dataOf (t.macAt pm) r' = dataOf (s.macAt pm) r') ∧
      ∃ u, (0x0206, pm, u) ∈ t.jr.raised ∧ t.tick.st < u + msSt := by
  let s1 := advanceTo (a + s.refreshInterval (dieOfPhysMac pm)) s
  let s2 := refreshRows pm [row] [] s1
  let n := satAdd 255 (tgetD s2.mnt.urgent (dieOfPhysMac pm) 0) 1
  let s3 : State := { s2 with mnt := { s2.mnt with urgent := tput s2.mnt.urgent (dieOfPhysMac pm) n } }
  have heff : ∃ e fns, e.code = 0x0206 ∧ urgentRefreshEffect pm row [] s = raiseOncePer msSt pm e fns s3 := by
    unfold urgentRefreshEffect
    simp only [hage, hf, hlog]
    exact ⟨_, _, rfl, rfl⟩
  obtain ⟨e, fns, hcode, heq⟩ := heff
  have hraise := raiseOncePer_frame msSt pm e fns s3
  have htick : (raiseOncePer msSt pm e fns s3).tick = s1.tick :=
    (hraise.tick_eq (by decide)).trans ((refreshRows_frame pm [row] [] s1).tick_eq (by decide))
  have hmac : (raiseOncePer msSt pm e fns s3).macAt pm = s2.macAt pm := hraise.macAt (by decide) pm
  refine ⟨_, congrArg Host.Outcome.next heq, htick, ?_, ?_, fun r' => ?_, ?_⟩
  · rw [hraise.mnt_eq (by decide)]
    refine (tgetD_tput_self ..).trans ?_
    simp only [n, s2, refreshRows_urgent]
    rfl
  · rw [hmac, htick]
    exact age_refreshRows pm [] s1 (List.mem_singleton.2 rfl)
  · rw [hmac]
    exact dataOf_refreshRows pm [row] s1 r'
  · obtain ⟨u, hmem, hu⟩ := raiseOncePer_raised (by decide : 0 < msSt) pm e fns s3
    rw [hcode] at hmem
    refine ⟨u, hmem, ?_⟩
    rw [hraise.tick_eq (by decide)]
    exact hu

/-! ## RETENTION_LOST (R78) -/

theorem frameOfMac_eq_some {s : State} {pm fn lf : Nat} {f : Frame} (h : s.frameOfMac pm = some (fn, lf, f)) :
    f.macsHeld.any (fun m => s.physMac f.core m == pm) := by
  obtain ⟨e, he, heq⟩ := Option.map_eq_some_iff.1 h
  obtain ⟨-, rfl⟩ := Prod.mk.inj (Prod.mk.inj heq).2
  simpa using List.find?_some he

theorem macsHeld_of_noShadow {f : Frame} (h : f.shadow = none) : f.macsHeld = f.mac.toList ++ f.companion.toList := by
  simp [Frame.macsHeld, h]

theorem retentionLost_loses {s : State} {pm row a fn lf : Nat} {f : Frame} (hage : tget (s.macAt pm).age row = some a)
    (hf : s.frameOfMac pm = some (fn, lf, f)) (hst : f.state = .resident ∨ f.state = .empty) (hsh : f.shadow = none) :
    ∃ t, exec (.retentionLost pm row) s = .next t ∧ SameOff [.tick, .fm, .jr, .host, .cores] s t ∧
      t.tick = { s.tick with st := max s.tick.st (a + 2 * s.refreshInterval (dieOfPhysMac pm) + 1) } ∧
      t.frame? fn lf = some { f with state := .lost } ∧ (∀ k, t.macAt k = s.macAt k) := by
  let s1 := advanceTo (a + 2 * s.refreshInterval (dieOfPhysMac pm) + 1) s
  let s2 := s1.setFrame fn lf { f with state := .lost }
  let s3 := poisonJobs fn f.core (f.mac.toList ++ f.companion.toList) pm s2
  have hown : (f.mac.toList ++ f.companion.toList).any (fun m => s1.physMac f.core m == pm) := by
    rw [← macsHeld_of_noShadow hsh]
    exact frameOfMac_eq_some hf
  have heff : retentionLostEffect pm row s = raiseMacro 0x0207 pm (some (row / 64)) lf s3 := by
    unfold retentionLostEffect
    simp only [hage, hf]
    rcases hst with hst | hst
    · simp only [hst]
      rw [if_pos hown]
    · simp only [hst]
      rw [if_pos hown]
  have hkept : Kept [.jr, .host, .cores] s2 (raiseMacro 0x0207 pm (some (row / 64)) lf s3) :=
    ((Kept.refl _ s2).step (by decide) (poisonJobs_frame ..)).step (by decide) (raiseMacro_frame ..)
  have hframe := frame_setFrame_self s1 fn lf { f with state := .lost }
  refine ⟨_, congrArg Host.Outcome.next heff, ?_, hkept.tick_eq (by decide), ?_, fun k => hkept.macAt (by decide) k⟩
  · have hoff := (retentionLostEffect_frame pm row s).off
    rw [heff] at hoff
    exact hoff.mono (by decide)
  · rw [State.frame?, hkept.fm_eq (by decide)]
    exact hframe

/-- Settles O60: the row written, refreshed or read back is one rule about the macro, and the core's task goes on from it. -/
theorem rowsAreWrittenAndRefreshed : Obligations.RowsAreWrittenAndRefreshed :=
  ⟨writeRow_stores,
    fun _ _ _ _ _ _ _ _ _ h htime hfull => fullRowWrite_writes h htime hfull,
    fun _ _ _ _ flips _ _ _ _ _ h htime hfull => maskedRowWrite_writes flips h htime hfull,
    fun m now q h _ _ _ _ hc => bitOf_dataOf_maskedWrite m now q h hc,
    fun _ _ _ _ first second _ _ _ _ h hw htodo hdone hfree hb hs hf hx ho hfr hn =>
      readBack_effects first second h hw htodo hdone hfree hb hs hf hx ho hfr hn,
    fun _ _ hpm hup => refreshSlot_refreshes hpm hup,
    fun _ _ _ _ _ _ _ _ _ hage hf hlog => urgentRefresh_refreshes hage hf hlog,
    fun _ _ _ _ _ _ _ hage hf hst hsh => retentionLost_loses hage hf hst hsh⟩

end Sys2Proof.Machine
end

section
/-!
Rails, sensors, stretches and the refresh interval (R75, R79, R362, R363, R375, R382, R385): the rules of the Power Governor's state
and the rows that change one rail or one die of it.
-/

namespace Sys2Proof.Machine

open Sys2Proof

/-! ## What the accessors of the Power Governor read -/

section
variable {L : List Comp} {s t : State}

theorem Kept.pwr_eq (h : Kept L s t) (hL : Comp.pwr ∉ L) : t.pwr = s.pwr := h.off.same .pwr hL

theorem Kept.reg_eq (h : Kept L s t) (hL : Comp.reg ∉ L) : t.reg = s.reg := h.off.same .reg hL

theorem Kept.od_eq (h : Kept L s t) (hL : Comp.od ∉ L) : t.od = s.od := h.off.same .od hL

theorem Kept.rail (h : Kept L s t) (hL : Comp.pwr ∉ L) (r : Nat) : t.rail r = s.rail r := by
  simp only [State.rail, h.pwr_eq hL]

theorem Kept.pdie (h : Kept L s t) (hL : Comp.pwr ∉ L) (d : Nat) : t.pdie d = s.pdie d := by
  simp only [State.pdie, h.pwr_eq hL]

end

@[simp] theorem rail_setRail_self (r : Nat) (v : RailState) (s : State) : (setRail r v s).rail r = v := by
  simp [State.rail, setRail]

theorem rail_setRail_ne {r q : Nat} (v : RailState) (s : State) (h : q ≠ r) : (setRail r v s).rail q = s.rail q := by
  simp [State.rail, setRail, tgetD_tput_ne _ _ _ h]

@[simp] theorem pdie_setPdie_self (s : State) (d : Nat) (v : PowerDie) : (s.setPdie d v).pdie d = v := by
  simp [State.pdie, State.setPdie]

theorem pdie_setPdie_ne (s : State) {d k : Nat} (v : PowerDie) (h : k ≠ d) : (s.setPdie d v).pdie k = s.pdie k := by
  simp [State.pdie, State.setPdie, tgetD_tput_ne _ _ _ h]

@[simp] theorem ppart_setPpart_self (s : State) (p : Nat) (v : PowerPart) : (s.setPpart p v).ppart p = v := by
  simp [State.ppart, State.setPpart]

/-! ## TELEMETRY_READ (R362) -/

/-- A rail after its read: new values, or one more read without an answer. -/
def RailState.afterRead (k : RailState) : Option RailReading → RailState
  | some v => { k with mv := v.mv, amps := v.amps, tempC := v.tempC, status := v.status, missed := 0 }
  | none => { k with missed := k.missed + 1 }

theorem rail_readRail_self (r : Nat) (x : Option RailReading) (s : State) :
    (readRail r x s).rail r = (s.rail r).afterRead x := by
  cases x with
  | some v => exact rail_setRail_self ..
  | none =>
    unfold readRail
    dsimp only
    split
    · rw [(raisePwr_frame ..).rail (by decide), rail_setRail_self]
      rfl
    · exact rail_setRail_self ..

theorem rail_readRail_ne {r q : Nat} (x : Option RailReading) (s : State) (h : q ≠ r) : (readRail r x s).rail q = s.rail q := by
  cases x with
  | some v => exact rail_setRail_ne _ _ h
  | none =>
    unfold readRail
    dsimp only
    split
    · rw [(raisePwr_frame ..).rail (by decide), rail_setRail_ne _ _ h]
    · exact rail_setRail_ne _ _ h

/-- The reads of the first rails. -/
def readRails (rs : List (Option RailReading)) (s : State) : State :=
  (rs.mapIdx (fun i x => (i, x))).foldl (fun s x => readRail x.1 x.2 s) s

theorem rail_readRails (rs : List (Option RailReading)) (s : State) (i : Nat) :
    (readRails rs s).rail i = (rs[i]?).elim (s.rail i) (s.rail i).afterRead := by
  induction rs using List.reverseRecOn with
  | nil => rfl
  | append_singleton rs x ih =>
    have hlast : readRails (rs ++ [x]) s = readRail rs.length x (readRails rs s) := by
      simp only [readRails, List.mapIdx_concat, List.foldl_append, List.foldl_cons, List.foldl_nil]
    rw [hlast]
    by_cases hi : i = rs.length
    · subst hi
      rw [rail_readRail_self, ih]
      simp
    · rw [rail_readRail_ne _ _ hi, ih]
      rcases Nat.lt_or_gt_of_ne hi with h | h
      · rw [List.getElem?_append_left h]
      · rw [List.getElem?_eq_none (by omega), List.getElem?_eq_none (by simp; omega)]

theorem telemetryRead_rails {s : State} (rs : List (Option RailReading)) (h : s.life.vaux) :
    ∃ t, exec (.telemetryRead rs) s = .next t ∧ ∀ i < 13,
      (∀ v, rs[i]? = some (some v) → t.rail i = { s.rail i with mv := v.mv, amps := v.amps, tempC := v.tempC, status := v.status,
                                                                missed := 0 }) ∧
      (rs[i]? = some none → t.rail i = { s.rail i with missed := (s.rail i).missed + 1 }) ∧
      (rs[i]? = none → t.rail i = s.rail i) := by
  have heff : exec (.telemetryRead rs) s = .next (readRails (rs.take 13) s) := congrArg Host.Outcome.next (if_pos h)
  refine ⟨_, heff, fun i hi => ?_⟩
  have hrail := rail_readRails (rs.take 13) s i
  rw [List.getElem?_take_of_lt hi] at hrail
  refine ⟨fun v hv => ?_, fun hn => ?_, fun hn => ?_⟩
  · rw [hrail, hv]
    rfl
  · rw [hrail, hn]
    rfl
  · rw [hrail, hn]
    rfl

/-! ## PHASE_RETIRE (R363) -/

theorem rail_phaseRetire_self (r : Nat) (s : State) :
    (phaseRetire r s).rail r = { s.rail r with lost := min 26 ((s.rail r).lost + 1) } := by
  unfold phaseRetire
  rw [(raisePwr_frame ..).rail (by decide), rail_setRail_self]

theorem rail_phaseRetire_ne {r q : Nat} (s : State) (h : q ≠ r) : (phaseRetire r s).rail q = s.rail q := by
  unfold phaseRetire
  rw [(raisePwr_frame ..).rail (by decide), rail_setRail_ne _ _ h]

theorem phasesActive_vcore (s : State) {r : Nat} (hr : r < 4) : s.phasesActive r = 24 - ((s.rail r).lost - 2) := by
  simp [State.phasesActive, phasesOf, sparesOf, hr]

theorem freePhases_vcore (s : State) {r : Nat} (hr : r < 4) : s.freePhases r = 2 - (s.rail r).lost := by
  simp [State.freePhases, sparesOf, hr]

/-- The rating of a VCORE rail is that of its active phases. -/
theorem rating_vcore (s : State) {r : Nat} (hr : r < 4) (hl : (s.rail r).lost ≤ 26) :
    s.rating r = 640 * (s.phasesActive r : Rat) / 24 := by
  rw [phasesActive_vcore s hr, Nat.cast_sub (by omega)]
  simp [State.rating, nominalRating, sparesOf, hr]

theorem phaseRetire_retires {s : State} {r : Nat} (hr : r < 4) (hrest : s.life.rails.rest) :
    ∃ t, exec (.phaseRetire r) s = .next t ∧
      SameOff [.pwr, .jr, .host] s t ∧
      ((s.rail r).lost < 2 → t.phasesActive r = 24 ∧ t.freePhases r + 1 = s.freePhases r) ∧
      (2 ≤ (s.rail r).lost → (s.rail r).lost < 26 → t.phasesActive r + 1 = s.phasesActive r ∧
        t.rating r = 640 * (t.phasesActive r : Rat) / 24) ∧
      ∀ q, q ≠ r → t.rail q = s.rail q := by
  have heff : exec (.phaseRetire r) s = .next (phaseRetire r s) := congrArg Host.Outcome.next (if_pos ⟨hr, hrest⟩)
  have hlost : ((phaseRetire r s).rail r).lost = min 26 ((s.rail r).lost + 1) := congrArg RailState.lost (rail_phaseRetire_self r s)
  refine ⟨_, heff, (phaseRetire_frame r s).off.mono (by decide), fun h => ?_, fun h h' => ?_, fun q hq => rail_phaseRetire_ne s hq⟩
  · rw [phasesActive_vcore _ hr, freePhases_vcore _ hr, freePhases_vcore _ hr, hlost]
    omega
  · refine ⟨?_, rating_vcore _ hr (by omega)⟩
    rw [phasesActive_vcore _ hr, phasesActive_vcore _ hr, hlost]
    omega

/-! ## SENSOR_INVALID (R385) -/

theorem pdie_noteCool_self (d : Nat) (tj : Int) (s : State) : (noteCool d tj s).pdie d =
    { s.pdie d with coolSince := if tj ≤ 1328 then some ((s.pdie d).coolSince.getD s.tick.st) else none } :=
  pdie_setPdie_self ..

/-- The readings of a die's sensors change what of the die the sensors say. -/
theorem pdie_readSensors_self (d : Nat) (tj : List Int) (s : State) : ∃ since, (readSensors d tj s).pdie d =
    { s.pdie d with sensorsOk := (s.validTj d tj).length, tjMax := maxInt (s.validTj d tj),
                    hold800 := decide ((s.validTj d tj).length < 8), coolSince := since } := by
  have hraise : ∀ (p : Prop) [Decidable p] (i : Nat) (u : State), (if p then raisePwr 0x0513 d i u else u).pdie d = u.pdie d := by
    intro p _ i u
    split
    · exact (raisePwr_frame ..).pdie (by decide) d
    · rfl
  unfold readSensors
  dsimp only
  rw [hraise]
  split
  · exact ⟨(s.pdie d).coolSince, pdie_setPdie_self ..⟩
  · rw [pdie_noteCool_self, pdie_setPdie_self]
    exact ⟨_, rfl⟩

theorem sensorInvalid_reads {s : State} {d : Nat} {tj : List Int} (hd : d < 4) (hrest : s.life.rails.rest)
    (hlow : (s.validTj d tj).length < 8) :
    ∃ t, exec (.sensorInvalid d tj) s = .next t ∧ SameOff [.pwr, .jr, .host] s t ∧
      t.pdie d = { s.pdie d with sensorsOk := (s.validTj d tj).length, tjMax := maxInt (s.validTj d tj), hold800 := true,
                                        coolSince := (t.pdie d).coolSince } := by
  have heff : exec (.sensorInvalid d tj) s = .next (readSensors d tj s) := congrArg Host.Outcome.next (if_pos ⟨hd, hrest, hlow⟩)
  obtain ⟨since, hdie⟩ := pdie_readSensors_self d tj s
  refine ⟨_, heff, (readSensors_frame d tj s).off.mono (by decide), ?_⟩
  rw [hdie, decide_eq_true hlow]

/-! ## DROOP and STRETCH_RELEASE (R382) -/

theorem droop_notes {s : State} {d n : Nat} (hd : d < 4) (hn : n = 1 ∨ n = 2) (hrest : s.life.rails.rest) :
    ∃ t, exec (.droop d n) s = .next t ∧ SameOff [.pwr] s t ∧
      (t.pdie d).droop = max (s.pdie d).droop n ∧
      ((s.pdie d).droop = 0 → (t.pdie d).events = min 0xFFFF ((s.pdie d).events + 1)) ∧
      ((s.pdie d).droop ≠ 0 → (t.pdie d).events = (s.pdie d).events) := by
  have heff : exec (.droop d n) s = .next (droop d n s) :=
    congrArg Host.Outcome.next (if_pos ⟨hd, by omega, by omega, hrest⟩)
  refine ⟨_, heff, (droop_frame d n s).off, ?_⟩
  unfold droop
  rw [pdie_setPdie_self]
  exact ⟨rfl, fun h => if_pos h, fun h => if_neg h⟩

theorem stretchRelease_releases {s : State} {d : Nat} (hd : d < 4) (hdroop : (s.pdie d).droop ≠ 0) :
    ∃ t, exec (.stretchRelease d) s = .next t ∧ SameOff [.pwr] s t ∧
      (t.pdie d).droop = 0 ∧ (t.pdie d).stretchAt = s.tick.st + (if (s.pdie d).droop = 1 then 400 else 1200) := by
  have heff : exec (.stretchRelease d) s = .next (stretchRelease d s) := congrArg Host.Outcome.next (if_pos ⟨hd, hdroop⟩)
  have hpct : (droopPct (s.pdie d).droop * 2 / 25 - 1) * 400 = if (s.pdie d).droop = 1 then 400 else 1200 := by
    generalize (s.pdie d).droop = n at hdroop
    match n with
    | 0 => exact absurd rfl hdroop
    | 1 => rfl
    | n + 2 => simp [droopPct]
  refine ⟨_, heff, (stretchRelease_frame d s).off, ?_⟩
  unfold stretchRelease
  rw [pdie_setPdie_self, ← hpct]
  exact ⟨rfl, rfl⟩

/-! ## POWER_STRETCH and its release (R375) -/

theorem stretchPct_of_overrun {w : Pwr} (h : w.overrun) : 25 ≤ w.stretchPct := by
  rw [Pwr.stretchPct, if_pos h]
  split <;> decide

theorem powerStretch_stretches {s : State} (w : Nat) (hrest : s.life.rails.rest) :
    (2200 < w → ∃ t, exec (.powerStretch false w) s = .next t ∧ t.pwr.excursion ∧ t.pwr.stretchPct = 50) ∧
    (102 * s.pwrCap < 100 * w → ∃ t, exec (.powerStretch true w) s = .next t ∧ t.pwr.overrun ∧ 25 ≤ t.pwr.stretchPct) := by
  refine ⟨fun h => ⟨_, congrArg Host.Outcome.next (if_pos ⟨hrest, h⟩), ?_⟩,
    fun h => ⟨_, congrArg Host.Outcome.next (if_pos ⟨hrest, h⟩), ?_⟩⟩
  · unfold powerStretch
    rw [(raisePwr_frame ..).pwr_eq (by decide)]
    exact ⟨rfl, rfl⟩
  · unfold powerStretch
    rw [(raisePwr_frame ..).pwr_eq (by decide)]
    exact ⟨rfl, stretchPct_of_overrun rfl⟩

/-- A release notes on each die when its stretch ended, and nothing else. -/
theorem noteReleased_ind (P : Pwr → Prop) {s : State} (h : P s.pwr) (hset : ∀ u d v, P u.pwr → P (State.setPdie u d v).pwr) :
    P (noteReleased s).pwr :=
  foldl_inv (fun u : State => P u.pwr) _ _ _ h (fun _ _ hu => hset _ _ _ hu)

theorem powerStretchRelease_releases (s : State) (w : Nat) :
    (s.pwr.excursion → if w < 2000 then ∃ t, exec (.powerStretchRelease false w) s = .next t ∧ SameOff [.pwr] s t ∧ t.pwr.excursion = false
      else exec (.powerStretchRelease false w) s = .next s) ∧
    (s.pwr.overrun → if w ≤ s.pwrCap then ∃ t, exec (.powerStretchRelease true w) s = .next t ∧ SameOff [.pwr] s t ∧ t.pwr.overrun = false
      else exec (.powerStretchRelease true w) s = .next s) := by
  refine ⟨fun h => ?_, fun h => ?_⟩
  · split
    · next hw => exact ⟨_, congrArg Host.Outcome.next (if_pos ⟨h, hw⟩), (powerRelease_frame false s).off,
        noteReleased_ind (fun p => p.excursion = false) rfl (fun _ _ _ hu => hu)⟩
    · next hw => exact congrArg Host.Outcome.next (if_neg (fun hc => hw hc.2))
  · split
    · next hw => exact ⟨_, congrArg Host.Outcome.next (if_pos ⟨h, hw⟩), (powerRelease_frame true s).off,
        noteReleased_ind (fun p => p.overrun = false) rfl (fun _ _ _ hu => hu)⟩
    · next hw => exact congrArg Host.Outcome.next (if_neg (fun hc => hw hc.2))

/-! ## REFRESH_INTERVAL_CHANGE (R75) -/

theorem pdie_setHot_self (d : Nat) (hot : Bool) (s : State) : (setHot d hot s).pdie d = { s.pdie d with hot := hot } :=
  pdie_setPdie_self ..

/-- A change of the interval asks for thermal activity of the die. -/
theorem setHot_requests (d : Nat) (hot : Bool) (s : State) : ∃ r ∈ (setHot d hot s).mnt.queue, r.act = .thm ∧ r.die = d :=
  ⟨_, List.mem_append_right _ (List.mem_singleton.2 rfl), rfl, rfl⟩

/-- The interval of a die is `new` after a reading of its hottest sensor. -/
structure IntervalIs (d : Nat) (tj : Int) (new : Bool) (s t : State) : Prop where
  die : t.pdie d = { s.pdie d with
    hot := new, coolSince := if tj ≤ 83 * 16 then some ((s.pdie d).coolSince.getD s.tick.st) else none }
  stayed : ∀ u, (s.pdie d).coolSince = some u → new = false → (s.pdie d).hot → u + msSt ≤ t.tick.st
  kept : new = (s.pdie d).hot → t.mnt = s.mnt
  changed : new ≠ (s.pdie d).hot → ∃ r ∈ t.mnt.queue, r.act = .thm ∧ r.die = d

section
variable {d : Nat} {tj : Int} {s : State}

/-- The interval of Table 13-9 after a reading (R75). -/
def nextHot (d : Nat) (tj : Int) (s : State) : Bool :=
  if 85 * 16 < tj then true else if tj ≤ 83 * 16 ∧ (s.pdie d).coolSince.isSome then false else (s.pdie d).hot

theorem noteCool_interval : IntervalIs d tj (s.pdie d).hot s (noteCool d tj s) :=
  ⟨pdie_noteCool_self .., fun _ _ hnew hhot => absurd (hnew.symm.trans hhot) Bool.false_ne_true, fun _ => rfl,
    fun hne => absurd rfl hne⟩

theorem setHot_true_interval (h : (s.pdie d).hot = false) : IntervalIs d tj true s (setHot d true (noteCool d tj s)) := by
  refine ⟨?_, fun _ _ hnew => absurd hnew.symm Bool.false_ne_true, fun heq => ?_, fun _ => setHot_requests ..⟩
  · rw [pdie_setHot_self]
    exact congrArg (fun k : PowerDie => { k with hot := true }) (pdie_noteCool_self d tj s)
  · exact absurd (h.symm.trans heq.symm) Bool.false_ne_true

theorem setHot_false_interval {u : Nat} (h : (s.pdie d).hot) (hu : (s.pdie d).coolSince = some u) :
    IntervalIs d tj false s (setHot d false (advanceTo (u + msSt) (noteCool d tj s))) := by
  refine ⟨?_, fun v hv _ _ => ?_, fun heq => ?_, fun _ => setHot_requests ..⟩
  · rw [pdie_setHot_self]
    exact congrArg (fun k : PowerDie => { k with hot := false }) (pdie_noteCool_self d tj s)
  · obtain rfl := Option.some.inj (hu.symm.trans hv)
    exact le_max_right ..
  · exact absurd (heq.trans h) Bool.false_ne_true

theorem refreshInterval_interval (d : Nat) (tj : Int) (s : State) : IntervalIs d tj (nextHot d tj s) s (refreshInterval d tj s) := by
  have hhot : ((noteCool d tj s).pdie d).hot = (s.pdie d).hot :=
    (congrArg PowerDie.hot (pdie_noteCool_self d tj s) :)
  unfold refreshInterval
  dsimp only
  rw [hhot]
  split
  · next h85 =>
    have hnew : nextHot d tj s = true := if_pos h85
    split
    · next h => rw [hnew, ← h]; exact noteCool_interval
    · next h => rw [hnew]; exact setHot_true_interval (Bool.eq_false_iff.2 h)
  · next h85 =>
    have hnew : nextHot d tj s = if tj ≤ 83 * 16 ∧ (s.pdie d).coolSince.isSome then false else (s.pdie d).hot := if_neg h85
    split
    · next h =>
      split
      · next u hu => rw [hnew, if_pos ⟨h.1, by simp [hu]⟩]; exact setHot_false_interval h.2 hu
      · next hu => rw [hnew, if_neg (by simp [hu])]; exact noteCool_interval
    · next h =>
      have hsame : nextHot d tj s = (s.pdie d).hot := by
        rw [hnew]
        split
        · next hc => exact (Bool.eq_false_iff.2 (fun hh => h ⟨hc.1, hh⟩)).symm
        · rfl
      rw [hsame]
      exact noteCool_interval

theorem refreshIntervalChange_follows (tj : Int) (hd : d < 4) (hrest : s.life.rails.rest) :
    let since := (s.pdie d).coolSince
    let new := if 85 * 16 < tj then true else if tj ≤ 83 * 16 ∧ since.isSome then false else (s.pdie d).hot
    ∃ t, exec (.refreshIntervalChange d tj) s = .next t ∧ SameOff [.tick, .pwr, .mnt] s t ∧
      t.pdie d = { s.pdie d with hot := new, coolSince := if tj ≤ 83 * 16 then some (since.getD s.tick.st) else none } ∧
      (∀ u, since = some u → new = false → (s.pdie d).hot → u + msSt ≤ t.tick.st) ∧
      (new = (s.pdie d).hot → t.mnt = s.mnt) ∧
      (new ≠ (s.pdie d).hot → ∃ r ∈ t.mnt.queue, r.act = .thm ∧ r.die = d) := by
  have heff : exec (.refreshIntervalChange d tj) s = .next (refreshInterval d tj s) :=
    congrArg Host.Outcome.next (if_neg (by simp [hrest]; omega))
  obtain ⟨hdie, hstayed, hkept, hchanged⟩ := refreshInterval_interval d tj s
  exact ⟨_, heff, (refreshInterval_frame d tj s).off, hdie, hstayed, hkept, hchanged⟩

end

/-! ## REFRESH_STATUS_UPDATE (R79) -/

/-- The fields of MNT_REFRESH_STATUS. -/
theorem refreshStat_fields (hot : Bool) {u a : Nat} (hu : u ≤ 255) (ha : a ≤ 0xFFFF) :
    let w := (BitVec.ofNat 32 (bit01 hot * 2 ^ 31 + u * 2 ^ 16 + a)).toNat
    bitOf w 31 = hot ∧ bitsOf w 30 24 = 0 ∧ bitsOf w 23 16 = u ∧ bitsOf w 15 0 = a := by
  have hbit := bit01_le hot
  have hw : (BitVec.ofNat 32 (bit01 hot * 2 ^ 31 + u * 2 ^ 16 + a)).toNat = bit01 hot * 2 ^ 31 + u * 2 ^ 16 + a := by
    rw [BitVec.toNat_ofNat, Nat.mod_eq_of_lt (by omega)]
  intro w
  simp only [w, hw, bitsOf, Nat.shiftRight_eq_div_pow]
  refine ⟨?_, by omega, by omega, by omega⟩
  rw [bitOf, Nat.testBit_eq_decide_div_mod_eq]
  have hdiv : (bit01 hot * 2 ^ 31 + u * 2 ^ 16 + a) / 2 ^ 31 = bit01 hot := by omega
  rw [hdiv]
  cases hot <;> rfl

theorem refreshStatusUpdate_updates {s : State} {d : Nat} (hd : d < 4) (hrest : s.life.rails.rest) :
    ∃ t, exec (.refreshStatusUpdate d) s = .next t ∧ SameOff [.reg, .mnt] s t ∧
      (let w := ((tget t.reg.refreshStat d).getD 0).toNat
       bitOf w 31 = (s.pdie d).hot ∧ bitsOf w 30 24 = 0 ∧ bitsOf w 23 16 = min 255 (tgetD s.mnt.urgent d 0) ∧
       bitsOf w 15 0 = min 0xFFFF (tgetD s.mnt.maxAge d 0)) ∧
      tget t.mnt.urgent d = none ∧ tget t.mnt.maxAge d = none := by
  refine ⟨_, congrArg Host.Outcome.next (if_pos ⟨hd, hrest⟩), (refreshStatus_frame d s).off, ?_, tget_tdel_self .., tget_tdel_self ..⟩
  unfold refreshStatus
  rw [tget_tput_self]
  exact refreshStat_fields _ (min_le_left ..) (min_le_left ..)

end Sys2Proof.Machine
end

section
/-!
The Power Governor's 10 µs loop and its park and resume requests (R371-R373, R377).
-/

namespace Sys2Proof.Machine

open Sys2Proof

/-! ## The partition that a request names (R377) -/

theorem mem_of_foldl_pick {α : Type} {f : Option α → α → Option α} (hf : ∀ b x, f b x = b ∨ f b x = some x) {l : List α} {b : Option α}
    {y : α} (h : l.foldl f b = some y) : b = some y ∨ y ∈ l := by
  induction l generalizing b with
  | nil => exact .inl h
  | cons x l ih =>
    rcases ih h with h | h
    · rcases hf b x with hb | hb
      · exact .inl (hb.symm.trans h)
      · exact .inr (List.mem_cons.2 (.inl (Option.some.inj (h.symm.trans hb))))
    · exact .inr (List.mem_cons_of_mem _ h)

/-- One step of the choice of a partition. -/
def pickStep (before : Nat × Nat → Nat × Nat → Bool) (b : Option (Nat × Nat)) (x : Nat × Nat) : Option (Nat × Nat) :=
  match b with
  | none => some x
  | some b => if before x b then some x else some b

theorem pickPart_eq (before : Nat × Nat → Nat × Nat → Bool) (ps : List (Nat × Nat)) :
    pickPart before ps = (ps.foldl (pickStep before) none).map (·.2) := rfl

theorem pickStep_cases (before : Nat × Nat → Nat × Nat → Bool) (b : Option (Nat × Nat)) (x : Nat × Nat) :
    pickStep before b x = b ∨ pickStep before b x = some x := by
  cases b with
  | none => exact .inr rfl
  | some b =>
    unfold pickStep
    dsimp only
    split
    · exact .inr rfl
    · exact .inl rfl

/-- The choice falls on the one that is before all earlier ones and that no later one is before. -/
theorem pickPart_append_cons {before : Nat × Nat → Nat × Nat → Bool} {l₁ l₂ : List (Nat × Nat)} {x : Nat × Nat}
    (h₁ : ∀ y ∈ l₁, before x y) (h₂ : ∀ y ∈ l₂, before y x = false) : pickPart before (l₁ ++ x :: l₂) = some x.2 := by
  have hx : pickStep before (l₁.foldl (pickStep before) none) x = some x := by
    cases hb : l₁.foldl (pickStep before) none with
    | none => rfl
    | some b =>
      rcases mem_of_foldl_pick (pickStep_cases before) hb with h | h
      · exact absurd h (by simp)
      · exact if_pos (h₁ b h)
  have hrest : ∀ l : List (Nat × Nat), (∀ y ∈ l, before y x = false) → l.foldl (pickStep before) (some x) = some x := by
    intro l
    induction l with
    | nil => exact fun _ => rfl
    | cons y l ih =>
      intro hl
      obtain ⟨hy, hl⟩ := List.forall_mem_cons.1 hl
      rw [List.foldl_cons, pickStep, hy, if_neg Bool.false_ne_true, ih hl]
  rw [pickPart_eq, List.foldl_append, List.foldl_cons, hx, hrest l₂ h₂]
  rfl

theorem pickPart_filter {before : Nat × Nat → Nat × Nat → Bool} {ok : Nat → Bool} {prio : Nat → Nat} {p : Nat} (hp : p < 16) (hok : ok p)
    (hlt : ∀ q < p, ok q → before (prio p, p) (prio q, q)) (hgt : ∀ q, p < q → q < 16 → ok q → before (prio q, q) (prio p, p) = false) :
    pickPart before (((List.range 16).filter ok).map (fun p => (prio p, p))) = some p := by
  have hmem : p ∈ (List.range 16).filter ok := List.mem_filter.2 ⟨List.mem_range.2 hp, hok⟩
  have hin : ∀ q ∈ (List.range 16).filter ok, q < 16 ∧ ok q := fun q hq =>
    ⟨List.mem_range.1 (List.mem_filter.1 hq).1, (List.mem_filter.1 hq).2⟩
  have hsorted : ((List.range 16).filter ok).Pairwise (· < ·) := List.pairwise_lt_range.filter _
  obtain ⟨l₁, l₂, hl⟩ := List.append_of_mem hmem
  rw [hl] at hin hsorted ⊢
  obtain ⟨-, hcons, hcross⟩ := List.pairwise_append.1 hsorted
  rw [List.map_append, List.map_cons]
  refine pickPart_append_cons (x := (prio p, p)) (fun y hy => ?_) (fun y hy => ?_)
  · obtain ⟨q, hq, rfl⟩ := List.mem_map.1 hy
    exact hlt q (hcross q hq p List.mem_cons_self) (hin q (List.mem_append_left _ hq)).2
  · obtain ⟨q, hq, rfl⟩ := List.mem_map.1 hy
    obtain ⟨hq16, hqok⟩ := hin q (List.mem_append_right _ (List.mem_cons_of_mem _ hq))
    exact hgt q ((List.pairwise_cons.1 hcons).1 q hq) hq16 hqok

/-! ## GOV_PARK_REQUEST and GOV_RESUME_REQUEST (R377) -/

section
variable (p : Nat) (s : State)

theorem part_govPark_self : (govPark p s).part p = { s.part p with parkReq := true } := by
  unfold govPark
  simp only [State.part, (raise_frame ..).tick_eq (by decide)]
  exact part_setPart_self ..

theorem part_govPark_ne {q : Nat} (h : q ≠ p) : (govPark p s).part q = s.part q := by
  unfold govPark
  simp only [State.part, (raise_frame ..).tick_eq (by decide)]
  exact part_setPart_ne _ _ h

theorem govPark_st : (govPark p s).tick.st = s.tick.st := by
  unfold govPark
  rw [(raise_frame ..).tick_eq (by decide)]
  rfl

theorem govPark_requests : ((govPark p s).ppart p).parkedByGov ∧ (govPark p s).pwr.govReq = some p := by
  unfold govPark
  refine ⟨?_, congrArg Pwr.govReq ((raise_frame ..).pwr_eq (by decide))⟩
  simp only [State.ppart, (raise_frame ..).pwr_eq (by decide)]
  exact congrArg PowerPart.parkedByGov (ppart_setPpart_self ..)

theorem part_govResume_self : (govResume p s).part p = { s.part p with resumeReq := true } := by
  unfold govResume
  simp only [State.part, (raise_frame ..).tick_eq (by decide)]
  exact part_setPart_self ..

theorem part_govResume_ne {q : Nat} (h : q ≠ p) : (govResume p s).part q = s.part q := by
  unfold govResume
  simp only [State.part, (raise_frame ..).tick_eq (by decide)]
  exact part_setPart_ne _ _ h

theorem govResume_st : (govResume p s).tick.st = s.tick.st := by
  unfold govResume
  rw [(raise_frame ..).tick_eq (by decide)]
  rfl

theorem govResume_requests : (govResume p s).pwr.govReq = some p := by
  unfold govResume
  rw [(raise_frame ..).pwr_eq (by decide)]

end

section
variable {s : State} {t0 p : Nat}

theorem govParkRequest_parks (hs : s.serving) (hm : s.rampMode ≠ 0) (hpend : s.govPending = false) (ht : s.pwr.belowSince = some t0) (hp : p < 16)
    (hleast : ∀ q < 16, s.running q → s.parkable q → s.partClusters q ≠ [] →
      s.parkPrio p < s.parkPrio q ∨ (s.parkPrio p = s.parkPrio q ∧ p ≤ q))
    (hrun : s.running p) (hpark : s.parkable p) (hcl : s.partClusters p ≠ []) :
    ∃ t, exec .govParkRequest s = .next t ∧ t.tick.st = max s.tick.st (t0 + 1600000) ∧ t.part p = { s.part p with parkReq := true } ∧
      (t.ppart p).parkedByGov ∧ t.pwr.govReq = some p ∧ ∀ q, q ≠ p → t.part q = s.part q := by
  have hcand : s.parkCand = some p := by
    refine pickPart_filter hp (by simp [hrun, hpark, hcl]) (fun q hq hok => ?_) (fun q hq hq16 hok => ?_)
    · simp only [Bool.and_eq_true, bne_iff_ne] at hok
      have := hleast q (by omega) hok.1.1 hok.1.2 hok.2
      simp only [decide_eq_true_eq]
      omega
    · simp only [Bool.and_eq_true, bne_iff_ne] at hok
      have := hleast q hq16 hok.1.1 hok.1.2 hok.2
      simp only [decide_eq_false_iff_not]
      omega
  have heff : exec .govParkRequest s = .next (govPark p (advanceTo (t0 + 10 * us10) s)) := by
    have hreq : govParkRequest s = govPark p (advanceTo (t0 + 10 * us10) s) := by simp only [govParkRequest, ht, hcand]
    rw [← hreq]
    exact congrArg Host.Outcome.next (if_pos ⟨hs, hm, by simp [hpend]⟩)
  obtain ⟨hgov, hreq⟩ := govPark_requests p (advanceTo (t0 + 10 * us10) s)
  exact ⟨_, heff, govPark_st .., part_govPark_self .., hgov, hreq, fun q hq => part_govPark_ne _ _ hq⟩

theorem govResumeRequest_resumes (hs : s.serving) (hm : s.rampMode ≠ 0) (hpend : s.govPending = false) (ht : s.pwr.aboveSince = some t0)
    (hp : p < 16)
    (hgreatest : ∀ q < 16, (s.part q).state = .parked → (s.ppart q).parkedByGov →
      s.parkPrio q < s.parkPrio p ∨ (s.parkPrio p = s.parkPrio q ∧ p ≤ q))
    (hparked : (s.part p).state = .parked) (hgov : (s.ppart p).parkedByGov) :
    ∃ t, exec .govResumeRequest s = .next t ∧ t.tick.st = max s.tick.st (t0 + 16000000) ∧
      t.part p = { s.part p with resumeReq := true } ∧ t.pwr.govReq = some p ∧ ∀ q, q ≠ p → t.part q = s.part q := by
  have hcand : s.resumeCand = some p := by
    refine pickPart_filter hp (by simp [hparked, hgov]) (fun q hq hok => ?_) (fun q hq hq16 hok => ?_)
    · simp only [Bool.and_eq_true, beq_iff_eq] at hok
      have := hgreatest q (by omega) hok.1 hok.2
      simp only [decide_eq_true_eq]
      omega
    · simp only [Bool.and_eq_true, beq_iff_eq] at hok
      have := hgreatest q hq16 hok.1 hok.2
      simp only [decide_eq_false_iff_not]
      omega
  have heff : exec .govResumeRequest s = .next (govResume p (advanceTo (t0 + msSt) s)) := by
    have hreq : govResumeRequest s = govResume p (advanceTo (t0 + msSt) s) := by simp only [govResumeRequest, ht, hcand]
    rw [← hreq]
    exact congrArg Host.Outcome.next (if_pos ⟨hs, hm, by simp [hpend]⟩)
  exact ⟨_, heff, govResume_st .., part_govResume_self .., govResume_requests .., fun q hq => part_govResume_ne _ _ hq⟩

end

end Sys2Proof.Machine
end

section
/-!
The 10 µs loop of the Power Governor (R362, R371-R373, R385).
-/

namespace Sys2Proof.Machine

open Sys2Proof

/-! ## What readings of the sensors change -/

/-- A die but for what its sensors say and the end of its last stretch. -/
def PowerDie.bare (k : PowerDie) : PowerDie :=
  { k with sensorsOk := 0, tjMax := 0, hold800 := false, coolSince := none, stretchAt := 0 }

/-- The Power Governor but for what the sensors say. -/
def Pwr.bare (w : Pwr) : Pwr := { w with dies := [], hbmT := [], thermStretch := false, railStretch := false }

/-- Sensors have been read: dies and stretches follow them, and nothing else of the Power Governor. -/
structure Sensed (s t : State) : Prop where
  kept : Kept [.jr, .host, .pwr] s t
  pwr : t.pwr.bare = s.pwr.bare
  dies : ∀ d, (t.pdie d).bare = (s.pdie d).bare

section
variable {s t u : State}

theorem Sensed.refl (s : State) : Sensed s s := ⟨.refl .., rfl, fun _ => rfl⟩

theorem Sensed.trans (h : Sensed s t) (k : Sensed t u) : Sensed s u :=
  ⟨h.kept.step (by decide) k.kept, k.pwr.trans h.pwr, fun d => (k.dies d).trans (h.dies d)⟩

theorem Sensed.of_kept (h : Kept [.jr, .host] s t) : Sensed s t :=
  ⟨(Kept.refl _ s).step (by decide) h, by rw [h.pwr_eq (by decide)], fun d => by rw [h.pdie (by decide)]⟩

theorem Sensed.setPdie (s : State) (d : Nat) {v : PowerDie} (h : v.bare = (s.pdie d).bare) : Sensed s (s.setPdie d v) := by
  refine ⟨(Kept.refl _ s).step (by decide) (State.setPdie_frame ..), rfl, fun k => ?_⟩
  by_cases hk : k = d
  · subst hk
    rw [pdie_setPdie_self, h]
  · rw [pdie_setPdie_ne _ _ hk]

theorem Sensed.foldl {α : Type} {f : State → α → State} (hf : ∀ u x, Sensed u (f u x)) (l : List α) (s : State) :
    Sensed s (l.foldl f s) :=
  foldl_inv (Sensed s) _ _ _ (.refl s) (fun _ _ h => h.trans (hf ..))

end

theorem noteCool_sensed (d : Nat) (tj : Int) (s : State) : Sensed s (noteCool d tj s) := Sensed.setPdie s d rfl

theorem readSensors_sensed (d : Nat) (tj : List Int) (s : State) : Sensed s (readSensors d tj s) := by
  have hraise : ∀ (p : Prop) [Decidable p] (i : Nat) (u : State), Sensed u (if p then raisePwr 0x0513 d i u else u) := by
    intro p _ i u
    split
    · exact .of_kept (raisePwr_frame ..)
    · exact .refl u
  have hset : ∀ v : List Int, Sensed s
      (s.setPdie d { s.pdie d with sensorsOk := v.length, tjMax := maxInt v, hold800 := decide (v.length < 8) }) :=
    fun v => Sensed.setPdie s d rfl
  unfold readSensors
  dsimp only
  refine Sensed.trans ?_ (hraise _ _ _)
  split
  · exact hset _
  · exact (hset _).trans (noteCool_sensed ..)

theorem readAll_sensed (tj : List (List Int)) (hbm : List Int) (s : State) : Sensed s (readAll tj hbm s) := by
  have hdies := Sensed.foldl (fun (s : State) (x : Nat × List Int) => readSensors_sensed x.1 x.2 s)
    ((tj.take 4).mapIdx (fun i x => (i, x))) s
  unfold readAll
  exact hdies.trans ⟨.pwr (by decide) (.refl ..), rfl, fun _ => rfl⟩

theorem thermStretch_sensed (s : State) : Sensed s (thermStretch s) :=
  ⟨(Kept.refl _ s).step (by decide) (thermStretch_frame s), rfl, fun _ => rfl⟩

theorem railStretch_sensed (amps : List Nat) (s : State) : Sensed s (railStretch amps s) :=
  ⟨(Kept.refl _ s).step (by decide) (railStretch_frame amps s), rfl, fun _ => rfl⟩

theorem noteReleased_sensed (s : State) : Sensed s (noteReleased s) :=
  Sensed.foldl (f := fun s d => s.setPdie d { s.pdie d with stretchAt := max (s.pdie d).stretchAt s.tick.st })
    (fun u d => Sensed.setPdie u d rfl) _ s

/-! ## The parts of the loop -/

/-- VCORE of a die as measured. -/
def readCore (mv : List Nat) (d : Nat) (s : State) : State :=
  match mv[d]? with
  | some v => s.setPdie d { s.pdie d with mv := v }
  | none => s

/-- The loop at its instant i, with its measurements noted. -/
def loopStarted (i : Nat) (m : GovMeas) (s : State) : State :=
  let s := advanceTo (i * us10) s
  let s := { s with pwr := { s.pwr with loopAt := i, inputSilent := m.inputW.isNone,
                                        samples := (m.inputW.toList ++ s.pwr.samples).take 1000 } }
  (List.range 4).foldl (fun s d => readCore m.coreMv d s) s

/-- The sensors read and the stretches by temperature and rail decided. -/
def loopSensed (m : GovMeas) (s : State) : State :=
  let before := s.pwr.thermStretch || s.pwr.railStretch
  let s := railStretch m.coreA (thermStretch (readAll m.tj m.hbmT s))
  if before && !(s.pwr.thermStretch || s.pwr.railStretch) then noteReleased s else s

/-- The loop's end: the prediction is noted and the dies' status registers are written. -/
def loopEnded (s : State) : State :=
  (List.range 4).foldl (fun s d => dieStatus d s)
    { s with pwr := { s.pwr with predSum := s.pwr.predSum + s.predNow, predN := s.pwr.predN + 1 } }

/-- The instant of the next loop, in 10 µs. -/
def nextLoop (s : State) : Nat := max (ceilDiv s.tick.st us10) (s.pwr.loopAt + 1)

theorem powerLoop_eq (m : GovMeas) (s : State) : powerLoop m s =
    loopEnded (if (loopSensed m (loopStarted (nextLoop s) m s)).serving then govern (loopSensed m (loopStarted (nextLoop s) m s))
      else loopSensed m (loopStarted (nextLoop s) m s)) := rfl

theorem loopSensed_sensed (m : GovMeas) (s : State) : Sensed s (loopSensed m s) := by
  have h := ((readAll_sensed m.tj m.hbmT s).trans (thermStretch_sensed _)).trans (railStretch_sensed m.coreA _)
  unfold loopSensed
  dsimp only
  split
  · exact h.trans (noteReleased_sensed _)
  · exact h

theorem loopEnded_pwr (s : State) :
    (loopEnded s).pwr = { s.pwr with predSum := s.pwr.predSum + s.predNow, predN := s.pwr.predN + 1 } := by
  have h : Kept [.reg] { s with pwr := { s.pwr with predSum := s.pwr.predSum + s.predNow, predN := s.pwr.predN + 1 } } (loopEnded s) :=
    kept_foldl (fun _ _ h => h.step (by decide) (dieStatus_frame ..)) (.refl ..)
  exact h.pwr_eq (by decide)

/-- Multiples of a period that come up to a time reach it. -/
theorem le_ceilDiv_mul (a : Nat) {b : Nat} (hb : 0 < b) : a ≤ ceilDiv a b * b := by
  rw [ceilDiv, if_neg (by omega)]
  have := Nat.div_add_mod (a + b - 1) b
  have := Nat.mod_lt (a + b - 1) hb
  rw [Nat.mul_comm]
  omega

theorem nextLoop_lt (s : State) : s.pwr.loopAt < nextLoop s := by
  unfold nextLoop
  omega

theorem le_nextLoop (s : State) : s.tick.st ≤ nextLoop s * us10 :=
  (le_ceilDiv_mul _ (by decide)).trans (Nat.mul_le_mul_right _ (le_max_left ..))

/-! ## The start of the loop -/

section
variable (i : Nat) (m : GovMeas) (s : State)

theorem readCore_frame (mv : List Nat) (d : Nat) (s : State) : Kept [.pwr] s (readCore mv d s) := by
  unfold readCore
  split
  · exact State.setPdie_frame ..
  · exact .refl ..

theorem readCore_bare (mv : List Nat) (d : Nat) (s : State) : (readCore mv d s).pwr.bare = s.pwr.bare := by
  unfold readCore
  split <;> rfl

theorem loopStarted_bare : (loopStarted i m s).pwr.bare =
    { s.pwr.bare with loopAt := i, inputSilent := m.inputW.isNone, samples := (m.inputW.toList ++ s.pwr.samples).take 1000 } :=
  foldl_inv (fun u : State => u.pwr.bare = _) _ _ _ rfl (fun _ _ h => (readCore_bare ..).trans h)

theorem loopStarted_kept : Kept [.pwr] (advanceTo (i * us10) s) (loopStarted i m s) :=
  kept_foldl (fun _ _ h => h.step (by decide) (readCore_frame ..)) (.pwr (by decide) (.refl ..))

/-- Every die measured has the voltage measured of it. -/
theorem loopStarted_mv {d v : Nat} (hd : d < 4) (hv : m.coreMv[d]? = some v) : ((loopStarted i m s).pdie d).mv = v := by
  have hstep : ∀ (u : State) (e : Nat), d = e ∨ (u.pdie d).mv = v → ((readCore m.coreMv e u).pdie d).mv = v := by
    intro u e h
    by_cases he : d = e
    · subst he
      simp only [readCore, hv, pdie_setPdie_self]
    · unfold readCore
      split
      · rw [pdie_setPdie_ne _ _ he]
        exact h.resolve_left he
      · exact h.resolve_left he
  exact foldl_reaches (fun u : State => (u.pdie d).mv = v) hstep (List.mem_range.2 hd) _

end

/-! ## Target and trajectory (R371-R373) -/

/-- The Power Governor but for the trajectory and its setpoint. -/
def Pwr.offTrajectory (w : Pwr) : Pwr := { w with setpoint := 0, traj := 0 }

/-- The setpoint in force (R371, R376). -/
def wantedSetpoint (s : State) : Nat :=
  if s.rampMode = 2 then (if s.pwr.fleetSet = 0 then s.pwr.setpoint else s.pwr.fleetSet) else odNat s 0x3000 0x03 1800

/-- A new setpoint starts its trajectory. -/
def trajStarted (s : State) : State :=
  if s.rampMode ≠ 0 ∧ wantedSetpoint s ≠ s.pwr.setpoint then startTraj (wantedSetpoint s) s else s

/-- The trajectory of a state 10 µs on. -/
def nextTraj (s : State) : Rat :=
  let goal : Rat := min s.pwr.setpoint s.pwrCap
  let d : Rat := (s.rampRate : Rat) / 100
  if s.pwr.traj < goal then min goal (s.pwr.traj + d) else max goal (s.pwr.traj - d)

theorem stepTraj_eq (s : State) :
    stepTraj s = { trajStarted s with pwr := { (trajStarted s).pwr with traj := nextTraj (trajStarted s) } } := rfl

theorem stepTraj_offTrajectory (s : State) : (stepTraj s).pwr.offTrajectory = s.pwr.offTrajectory := by
  have h : (trajStarted s).pwr.offTrajectory = s.pwr.offTrajectory := by
    unfold trajStarted
    split <;> rfl
  rw [stepTraj_eq, ← h]
  rfl

theorem stepTraj_traj {s : State} (hmode : s.rampMode = 1) (hset : odNat s 0x3000 0x03 1800 = s.pwr.setpoint) :
    (stepTraj s).pwr.traj = nextTraj s := by
  have hw : wantedSetpoint s = s.pwr.setpoint := by rw [wantedSetpoint, hmode, if_neg (by decide), hset]
  have h : trajStarted s = s := if_neg (fun hc => hc.2 hw)
  rw [stepTraj_eq, h]

/-- The Power Governor but for what one step of the governor decides. -/
def Pwr.undecided (w : Pwr) : Pwr :=
  { w with target := 0, lstar := 0, gMin := 0, gMax := 0, status := 0, outSince := none, belowSince := none, aboveSince := none }

theorem govern_pwr (s : State) : (govern s).pwr.undecided = (stepTraj s).pwr.undecided ∧ (govern s).pwr.target = (stepTraj s).pT := by
  have hraise : ∀ (p : Prop) [Decidable p] (n : Nat) (u : State), (if p then raisePwr 0x0505 11 n u else u).pwr = u.pwr := by
    intro p _ n u
    split
    · exact (raisePwr_frame ..).pwr_eq (by decide)
    · rfl
  unfold govern
  dsimp only
  rw [hraise]
  exact ⟨rfl, rfl⟩

/-! ## What later reads take from objects -/

section
variable {s t : State} (h : t.od = s.od)
include h

theorem odNat_congr (i j d : Nat) : odNat t i j d = odNat s i j d := by
  simp only [odNat, h]

theorem pwrCap_congr : t.pwrCap = s.pwrCap := odNat_congr h ..

theorem rampMode_congr : t.rampMode = s.rampMode := odNat_congr h ..

end

/-- The target under the limit by cap and temperature, and the ramp's (R371). -/
theorem pT_of {s : State} {cap mode floor : Nat} (hcap : s.pwrCap = cap) (hmode : s.rampMode = mode)
    (hfloor : odNat s 0x3000 0x05 0 = floor) :
    s.pT = (let x := min (min (cap : Rat) s.pwr.thCeil) (if mode = 0 then 2200 else max (floor : Nat) s.pwr.traj)
      if s.pwr.inputSilent then x * 9 / 10 else x) := by
  subst hcap hmode hfloor
  rfl

theorem nextTraj_of {s : State} {cap rate : Nat} (hcap : s.pwrCap = cap) (hmode : s.rampMode = 1)
    (hrate : odNat s 0x3000 0x04 100 = rate) :
    nextTraj s = (let goal : Rat := min s.pwr.setpoint cap
      let d : Rat := (rate : Rat) / 100
      if s.pwr.traj < goal then min goal (s.pwr.traj + d) else max goal (s.pwr.traj - d)) := by
  have hr : s.rampRate = rate := by rw [State.rampRate, hmode, if_neg (by decide), hrate]
  subst hcap
  rw [← hr]
  rfl

/-! ## POWER_GOVERNOR_LOOP (R373) -/

/-- What the loop notes of its measurements. -/
def Pwr.measured (w : Pwr) : Nat × Bool × List Nat × Tab PowerDie := (w.loopAt, w.inputSilent, w.samples, w.dies)

theorem govern_measured (s : State) : (govern s).pwr.measured = s.pwr.measured :=
  (congrArg Pwr.measured (govern_pwr s).1 :).trans (congrArg Pwr.measured (stepTraj_offTrajectory s) :)

theorem govern_traj (s : State) : (govern s).pwr.traj = (stepTraj s).pwr.traj := (congrArg Pwr.traj (govern_pwr s).1 :)

/-- The state that the governor decides on. -/
def loopState (m : GovMeas) (s : State) : State := loopSensed m (loopStarted (nextLoop s) m s)

section
variable (m : GovMeas) (s : State)

theorem loopState_bare : (loopState m s).pwr.bare =
    { s.pwr.bare with loopAt := nextLoop s, inputSilent := m.inputW.isNone, samples := (m.inputW.toList ++ s.pwr.samples).take 1000 } :=
  (loopSensed_sensed ..).pwr.trans (loopStarted_bare ..)

theorem loopState_kept : Kept [.jr, .host, .pwr] (advanceTo (nextLoop s * us10) s) (loopState m s) :=
  ((Kept.refl _ _).step (by decide) (loopStarted_kept ..)).step (by decide) (loopSensed_sensed ..).kept

theorem loopState_serving : (loopState m s).serving = s.serving := by
  simp only [State.serving, (loopState_kept m s).life_eq (by decide)]
  rfl

theorem loopState_od : (loopState m s).od = s.od := (loopState_kept m s).od_eq (by decide)

theorem powerLoop_measured : (powerLoop m s).pwr.measured = (loopState m s).pwr.measured := by
  rw [powerLoop_eq, loopEnded_pwr]
  change (ite _ _ _ : State).pwr.measured = _
  split
  · exact govern_measured ..
  · rfl

theorem powerLoop_governs (h : s.serving) : (powerLoop m s).pwr.target = (stepTraj (loopState m s)).pT ∧
    (powerLoop m s).pwr.traj = (stepTraj (loopState m s)).pwr.traj := by
  have hs : (loopSensed m (loopStarted (nextLoop s) m s)).serving := (loopState_serving m s).trans h
  rw [powerLoop_eq, loopEnded_pwr, if_pos hs]
  exact ⟨(govern_pwr _).2, govern_traj _⟩

theorem powerLoop_st : (powerLoop m s).tick.st = nextLoop s * us10 := by
  have hk : Kept [.jr, .host, .pwr, .reg] (advanceTo (nextLoop s * us10) s) (powerLoop m s) := by
    rw [powerLoop_eq]
    refine kept_foldl (fun _ _ h => h.step (by decide) (dieStatus_frame ..)) (.pwr (by decide) ?_)
    exact kept_ite (((Kept.refl _ _).step (by decide) (loopState_kept m s)).step (by decide) (govern_frame _))
      ((Kept.refl _ _).step (by decide) (loopState_kept m s))
  rw [hk.tick_eq (by decide)]
  exact max_eq_right (le_nextLoop s)

end

theorem powerGovernorLoop_governs {s : State} (m : GovMeas) (hrest : s.life.rails.rest) (hup : s.life.diesUp) :
    ∃ t, exec (.powerGovernorLoop m) s = .next t ∧ s.pwr.loopAt < t.pwr.loopAt ∧ t.tick.st = t.pwr.loopAt * 160000 ∧
      s.tick.st ≤ t.tick.st ∧ t.pwr.inputSilent = m.inputW.isNone ∧ t.pwr.samples = (m.inputW.toList ++ s.pwr.samples).take 1000 ∧
      (∀ d < 4, ∀ v, m.coreMv[d]? = some v → (t.pdie d).mv = v) ∧
      (s.serving → ∀ x, x = min (min (s.pwrCap : Rat) s.pwr.thCeil)
          (if s.rampMode = 0 then 2200 else max (odNat s 0x3000 0x05 0 : Nat) t.pwr.traj) →
        t.pwr.target = if m.inputW = none then x * 9 / 10 else x) ∧
      (s.serving → s.rampMode = 1 → odNat s 0x3000 0x03 1800 = s.pwr.setpoint →
        let goal : Rat := min s.pwr.setpoint s.pwrCap
        let d : Rat := (odNat s 0x3000 0x04 100 : Rat) / 100
        t.pwr.traj = if s.pwr.traj < goal then min goal (s.pwr.traj + d) else max goal (s.pwr.traj - d)) := by
  have hmeas := powerLoop_measured m s
  have hbare := loopState_bare m s
  have hat : (powerLoop m s).pwr.loopAt = nextLoop s :=
    (congrArg (·.1) hmeas :).trans (congrArg Pwr.loopAt hbare :)
  have hsilent : (loopState m s).pwr.inputSilent = m.inputW.isNone := (congrArg Pwr.inputSilent hbare :)
  have hdies : (powerLoop m s).pwr.dies = (loopState m s).pwr.dies := (congrArg (·.2.2.2) hmeas :)
  have hod := loopState_od m s
  refine ⟨_, congrArg Host.Outcome.next (if_pos ⟨hrest, hup⟩), ?_, ?_, ?_, ?_, ?_, fun d hd v hv => ?_, fun hs x hx => ?_,
    fun hs hmode hset => ?_⟩
  · rw [hat]
    exact nextLoop_lt s
  · rw [powerLoop_st, hat]
    rfl
  · rw [powerLoop_st]
    exact le_nextLoop s
  · exact (congrArg (·.2.1) hmeas :).trans hsilent
  · exact (congrArg (·.2.2.1) hmeas :).trans (congrArg Pwr.samples hbare :)
  · have hdie : (powerLoop m s).pdie d = (loopState m s).pdie d := by simp only [State.pdie, hdies]
    rw [hdie]
    exact (congrArg PowerDie.mv ((loopSensed_sensed m _).dies d) :).trans (loopStarted_mv _ m s hd hv)
  · obtain ⟨htarget, htraj⟩ := powerLoop_governs m s hs
    have hstep := stepTraj_offTrajectory (loopState m s)
    have hsod : (stepTraj (loopState m s)).od = s.od := ((stepTraj_frame _).od_eq (by decide)).trans hod
    have hceil : (stepTraj (loopState m s)).pwr.thCeil = s.pwr.thCeil :=
      (congrArg Pwr.thCeil hstep :).trans (congrArg Pwr.thCeil hbare :)
    have hsil : (stepTraj (loopState m s)).pwr.inputSilent = m.inputW.isNone := (congrArg Pwr.inputSilent hstep :).trans hsilent
    rw [htarget, pT_of (pwrCap_congr hsod) (rampMode_congr hsod) (odNat_congr hsod ..), hceil, hsil, ← htraj, hx]
    simp only [Option.isNone_iff_eq_none]
  · obtain ⟨-, htraj⟩ := powerLoop_governs m s hs
    have hsetp : (loopState m s).pwr.setpoint = s.pwr.setpoint := (congrArg Pwr.setpoint hbare :)
    have hprev : (loopState m s).pwr.traj = s.pwr.traj := (congrArg Pwr.traj hbare :)
    have hmode' := (rampMode_congr hod).trans hmode
    rw [htraj, stepTraj_traj hmode' ((odNat_congr hod ..).trans (hset.trans hsetp.symm)),
      nextTraj_of (pwrCap_congr hod) hmode' (odNat_congr hod ..), hsetp, hprev]

end Sys2Proof.Machine
end

section
/-!
The end of an epoch (R366, R370, R373, R376, R385), and the statement about power.
-/

namespace Sys2Proof.Machine

open Sys2Proof

/-! ## Stretch loss (R366) -/

/-- The Power Governor but for what an epoch's stretch loss changes. -/
def Pwr.offLoss (w : Pwr) : Pwr := { w with dies := [], lossHist := [], allow := 0 }

/-- The loss of one die is noted. -/
def noteLoss (loss : List Nat) (s : State) (d : Nat) : State :=
  let v := loss.getD d 0
  let s := s.setPdie d { s.pdie d with loss := v }
  if 16 < v then raisePwr 0x0509 d s.pwr.input s else s

theorem noteLoss_kept (loss : List Nat) (s : State) (d : Nat) :
    Kept [.jr, .host] (s.setPdie d { s.pdie d with loss := loss.getD d 0 }) (noteLoss loss s d) :=
  kept_ite (raisePwr_frame ..) (.refl ..)

theorem noteLoss_offLoss (loss : List Nat) (s : State) (d : Nat) : (noteLoss loss s d).pwr.offLoss = s.pwr.offLoss := by
  rw [(noteLoss_kept ..).pwr_eq (by decide)]
  rfl

theorem pdie_noteLoss_self (loss : List Nat) (s : State) (d : Nat) :
    (noteLoss loss s d).pdie d = { s.pdie d with loss := loss.getD d 0 } := by
  rw [(noteLoss_kept ..).pdie (by decide), pdie_setPdie_self]

theorem pdie_noteLoss_ne (loss : List Nat) (s : State) {d k : Nat} (h : k ≠ d) : (noteLoss loss s d).pdie k = s.pdie k := by
  rw [(noteLoss_kept ..).pdie (by decide), pdie_setPdie_ne _ _ h]

theorem vset_noteLoss (loss : List Nat) (s : State) (d k : Nat) : ((noteLoss loss s d).pdie k).vset = (s.pdie k).vset := by
  by_cases hk : k = d
  · subst hk
    rw [pdie_noteLoss_self]
  · rw [pdie_noteLoss_ne _ _ hk]

section
variable (loss : List Nat) (s : State)

/-- The state with the history of losses and the allowance. -/
def lossNoted : State :=
  let hist := (loss :: s.pwr.lossHist).take 32
  let top := (hist.map (fun l => l.foldl max 0)).foldl max 0
  { s with pwr := { s.pwr with lossHist := hist, allow := min 8 (ceilDiv (16 * top) 256) } }

theorem stretchLoss_offLoss : (stretchLoss loss s).pwr.offLoss = s.pwr.offLoss :=
  foldl_inv (fun u : State => u.pwr.offLoss = s.pwr.offLoss) _ _ _ rfl (fun _ _ h => (noteLoss_offLoss ..).trans h)

theorem stretchLoss_vset (k : Nat) : ((stretchLoss loss s).pdie k).vset = (s.pdie k).vset :=
  foldl_inv (fun u : State => (u.pdie k).vset = (s.pdie k).vset) _ _ _ rfl (fun _ _ h => (vset_noteLoss ..).trans h)

theorem stretchLoss_loss {d : Nat} (hd : d < 4) : ((stretchLoss loss s).pdie d).loss = loss.getD d 0 := by
  have hstep : ∀ (u : State) (e : Nat), d = e ∨ (u.pdie d).loss = loss.getD d 0 →
      ((noteLoss loss u e).pdie d).loss = loss.getD d 0 := by
    intro u e h
    by_cases he : d = e
    · subst he
      rw [pdie_noteLoss_self]
    · rw [pdie_noteLoss_ne _ _ he]
      exact h.resolve_left he
  exact foldl_reaches (fun u : State => (u.pdie d).loss = loss.getD d 0) hstep (List.mem_range.2 hd) _

end

/-! ## Energy attribution (R370) -/

/-- Values added to the counters of functions. -/
def addAll (g : Nat → Nat) (fns : List Nat) (t : Tab Nat) : Tab Nat :=
  fns.foldl (fun t f => tput t f ((tgetD t f 0 + g f) % 2 ^ 64)) t

theorem tgetD_addAll_of_notMem (g : Nat → Nat) {fns : List Nat} (t : Tab Nat) {f : Nat} (h : f ∉ fns) :
    tgetD (addAll g fns t) f 0 = tgetD t f 0 := by
  induction fns generalizing t with
  | nil => rfl
  | cons a fns ih =>
    obtain ⟨hne, h⟩ := not_or.1 (List.mem_cons.not.1 h)
    exact (ih _ h).trans (tgetD_tput_ne _ _ _ hne)

theorem tgetD_addAll (g : Nat → Nat) {fns : List Nat} (hn : fns.Nodup) (t : Tab Nat) {f : Nat} (h : f ∈ fns) :
    tgetD (addAll g fns t) f 0 = (tgetD t f 0 + g f) % 2 ^ 64 := by
  induction fns generalizing t with
  | nil => exact absurd h (by simp)
  | cons a fns ih =>
    obtain ⟨ha, hn⟩ := List.nodup_cons.1 hn
    by_cases hf : f = a
    · subst hf
      exact (tgetD_addAll_of_notMem g _ ha).trans (tgetD_tput_self ..)
    · refine (ih hn _ ((List.mem_cons.1 h).resolve_left hf)).trans ?_
      rw [tgetD_tput_ne _ _ _ hf]

/-- The functions of an epoch's activity and reserved slots. -/
def energyFns (s : State) : List Nat :=
  ((s.reg.work.map (fun (y : Nat × Nat) => y.1 % 1024) ++ s.pwr.resSlots.map (fun (y : Nat × Nat) => y.1)).filter (· < 512)).eraseDups

/-- The energy of a function in an epoch, of the measured energy (R370). -/
def energyPart (energy : Nat) (s : State) (f : Nat) : Rat :=
  let sum := ((energyFns s).map s.dFn).sum
  let q : Rat := (energy : Rat) - sum - s.glideMj
  if 0 ≤ q then s.dFn f + q * s.slotShare f
  else if sum = 0 then 0 else s.dFn f * max 0 ((energy : Rat) - s.glideMj) / sum

section
variable {s t : State} (hwork : t.reg.work = s.reg.work) (hv : ∀ d, (t.pdie d).vset = (s.pdie d).vset)
  (hslots : t.pwr.resSlots = s.pwr.resSlots)
include hwork hv

theorem modelMj_congr (f : Nat → Bool) : t.modelMj f = s.modelMj f := by
  simp only [State.modelMj, hwork, hv]

include hslots

theorem energyPart_congr (energy f : Nat) : energyPart energy t f = energyPart energy s f := by
  have hd : t.dFn = s.dFn := funext fun g => modelMj_congr hwork hv _
  have hg : t.glideMj = s.glideMj := modelMj_congr hwork hv _
  have hf : energyFns t = energyFns s := by simp only [energyFns, hwork, hslots]
  have hs : t.slotShare f = s.slotShare f := by simp only [State.slotShare, hslots]
  simp only [energyPart, hd, hg, hf, hs]

end

/-! ## THERMAL_THROTTLE (R385) -/

/-- The ceiling by temperature after an epoch of a power. -/
def nextCeil (power : Rat) (s : State) : Rat :=
  if s.throttleC * 16 ≤ s.hottest then 95 / 100 * min s.pwr.thCeil power
  else if s.hottest ≤ s.throttleC * 16 - 32 then min 2200 (s.pwr.thCeil + (s.pwrCap : Rat) / 50)
  else s.pwr.thCeil

theorem throttle_pwr (power : Rat) (s : State) : (throttle power s).pwr = { s.pwr with thCeil := nextCeil power s } := by
  unfold throttle nextCeil
  dsimp only
  split
  · split
    · exact (raise_frame ..).pwr_eq (by decide)
    · rfl
  · split <;> rfl

/-! ## FLEET_APPLY (R376) -/

/-- The Power Governor but for what a fleet command changes. -/
def Pwr.offFleet (w : Pwr) : Pwr :=
  { w with parts := [], setpoint := 0, traj := 0, belowSince := none, aboveSince := none, govReq := none,
           fleetWait := [], fleetSet := 0, fleetRate := 0 }

theorem govPark_offFleet (p : Nat) (s : State) : (govPark p s).pwr.offFleet = s.pwr.offFleet := by
  unfold govPark
  rw [(raise_frame ..).pwr_eq (by decide)]
  rfl

theorem govResume_offFleet (p : Nat) (s : State) : (govResume p s).pwr.offFleet = s.pwr.offFleet := by
  unfold govResume
  rw [(raise_frame ..).pwr_eq (by decide)]
  rfl

/-- A fleet command has been applied: time and the rest of the Power Governor are as they were. -/
structure FleetKept (s t : State) : Prop where
  pwr : t.pwr.offFleet = s.pwr.offFleet
  st : t.tick.st = s.tick.st

theorem FleetKept.trans {s t u : State} (h : FleetKept s t) (k : FleetKept t u) : FleetKept s u :=
  ⟨k.pwr.trans h.pwr, k.st.trans h.st⟩

theorem FleetKept.foldl {α : Type} {f : State → α → State} (hf : ∀ u x, FleetKept u (f u x)) (l : List α) (s : State) :
    FleetKept s (l.foldl f s) :=
  foldl_inv (FleetKept s) _ _ _ ⟨rfl, rfl⟩ (fun _ _ h => h.trans (hf ..))

theorem fleetApplyOne_kept (w : Dword) (s : State) : FleetKept s (fleetApplyOne w s) := by
  have hset : FleetKept s { s with pwr := { s.pwr with fleetSet := fleetSetp w, fleetRate := fleetRateOf w } } := ⟨rfl, rfl⟩
  have hstart : ∀ u, FleetKept u (startTraj (fleetSetp w) u) := fun _ => ⟨rfl, rfl⟩
  unfold fleetApplyOne
  dsimp only
  refine hset.trans ?_
  split
  · exact ⟨rfl, rfl⟩
  · refine (hstart _).trans ?_
    split
    · exact FleetKept.foldl (f := fun u p => govPark p u) (fun u p => ⟨govPark_offFleet p u, govPark_st p u⟩) _ _
    · exact FleetKept.foldl (f := fun u p => govResume p u) (fun u p => ⟨govResume_offFleet p u, govResume_st p u⟩) _ _
    · exact ⟨rfl, rfl⟩

theorem fleetApply_kept (s : State) : FleetKept s (fleetApply s) := by
  have hwait : ∀ l, FleetKept s { s with pwr := { s.pwr with fleetWait := l } } := fun _ => ⟨rfl, rfl⟩
  exact (hwait _).trans (FleetKept.foldl (f := fun u w => fleetApplyOne w u) (fun u w => fleetApplyOne_kept w u) _ _)

/-! ## EPOCH_END (R366, R370, R373, R385) -/

/-- The epoch that ends next. -/
def nextEpoch (s : State) : Nat := max (ceilDiv s.tick.st msSt) (s.pwr.epochAt + 1)

/-- The state at the end of epoch n, at a time t. -/
def State.atEpoch (s : State) (n t : Nat) : State :=
  { s with tick := { s.tick with st := max s.tick.st t }, pwr := { s.pwr with epochAt := n } }

theorem pdie_atEpoch (s : State) (n t d : Nat) : (s.atEpoch n t).pdie d = s.pdie d := rfl

theorem pwr_atEpoch (s : State) (n t : Nat) : (s.atEpoch n t).pwr = { s.pwr with epochAt := n } := rfl

/-- An epoch's end at its instant, with its energies corrected and its losses noted. -/
def epochCorrected (m : EpochMeas) (s : State) : State :=
  stretchLoss m.lossDie (correct m.energyMj (s.atEpoch (nextEpoch s) (nextEpoch s * msSt)))

/-- An epoch's end before the fleet commands of the epoch that begins. -/
def epochSettled (m : EpochMeas) (s : State) : State :=
  throttle m.energyMj (readAll m.tj m.hbmT (shareEnergy m.energyMj (epochCorrected m s)))

theorem epochEnd_eq (m : EpochMeas) (s : State) :
    epochEnd m s = if (epochSettled m s).serving then fleetApply (epochSettled m s) else epochSettled m s := rfl

theorem nextEpoch_lt (s : State) : s.pwr.epochAt < nextEpoch s := by
  unfold nextEpoch
  omega

theorem le_nextEpoch (s : State) : s.tick.st ≤ nextEpoch s * msSt :=
  (le_ceilDiv_mul _ (by decide)).trans (Nat.mul_le_mul_right _ (le_max_left ..))

/-- The correction after an epoch of an energy (R373). -/
def nextCorr (energy : Nat) (w : Pwr) : Rat :=
  let pred : Rat := w.predSum / ((max 1 w.predN : Nat) : Rat)
  if w.inputSilent ∨ pred ≤ 0 then w.corr
  else w.corr * max (95 / 100) (min (105 / 100) ((energy : Rat) / pred))

theorem nextCorr_epochAt (energy n : Nat) (w : Pwr) : nextCorr energy { w with epochAt := n } = nextCorr energy w := rfl

theorem correct_pwr (energy : Nat) (s : State) :
    (correct energy s).pwr = { s.pwr with corr := nextCorr energy s.pwr, predSum := 0, predN := 0 } := by
  have hc : ((s.pwr.inputSilent || decide (s.pwr.predSum / ((max 1 s.pwr.predN : Nat) : Rat) ≤ 0)) = true) ↔
      (s.pwr.inputSilent ∨ s.pwr.predSum / ((max 1 s.pwr.predN : Nat) : Rat) ≤ 0) := by simp
  unfold correct nextCorr
  exact congrArg (fun c => { s.pwr with corr := c, predSum := 0, predN := 0 }) (if_congr hc rfl rfl)

section
variable (m : EpochMeas) (s : State)

theorem epochCorrected_offLoss : (epochCorrected m s).pwr.offLoss =
    { s.pwr.offLoss with epochAt := nextEpoch s, corr := nextCorr m.energyMj s.pwr, predSum := 0, predN := 0 } := by
  rw [epochCorrected, stretchLoss_offLoss, correct_pwr, pwr_atEpoch, nextCorr_epochAt]
  rfl

theorem epochCorrected_kept : Kept [.jr, .host, .pwr] (advanceTo (nextEpoch s * msSt) s) (epochCorrected m s) :=
  ((Kept.pwr (by decide) (.refl ..)).step (by decide) (correct_frame ..)).step (by decide) (stretchLoss_frame ..)

theorem epochCorrected_vset (d : Nat) : ((epochCorrected m s).pdie d).vset = (s.pdie d).vset := by
  have hc : (correct m.energyMj (s.atEpoch (nextEpoch s) (nextEpoch s * msSt))).pdie d = s.pdie d := by
    rw [State.pdie, correct_pwr, ← pdie_atEpoch s (nextEpoch s) (nextEpoch s * msSt) d]
    rfl
  rw [epochCorrected, stretchLoss_vset, hc]

theorem epochSettled_kept : Kept [.jr, .host, .pwr, .reg] (advanceTo (nextEpoch s * msSt) s) (epochSettled m s) :=
  ((((Kept.refl _ _).step (by decide) (epochCorrected_kept m s)).step (by decide) (shareEnergy_frame ..)).step (by decide)
    (readAll_frame ..)).step (by decide) (throttle_frame ..)

/-- What an epoch's end settles stays when its fleet commands are applied. -/
theorem epochEnd_settles : FleetKept (epochSettled m s) (epochEnd m s) ∧ (epochEnd m s).reg = (epochSettled m s).reg := by
  rw [epochEnd_eq]
  split
  · exact ⟨fleetApply_kept _, (fleetApply_frame _).reg_eq (by decide)⟩
  · exact ⟨⟨rfl, rfl⟩, rfl⟩

end

/-- What an epoch's end notes of energies. -/
def Pwr.attributed (w : Pwr) : Nat × Nat × Nat × Rat × Tab Nat × Tab Nat :=
  (w.epochAt, w.energyMj, w.input, w.corr, w.resSlots, w.fnEnergy)

theorem shareEnergy_attributed (energy : Nat) (s : State) : (shareEnergy energy s).pwr.attributed =
    (s.pwr.epochAt, (s.pwr.energyMj + energy) % 2 ^ 64, energy, s.pwr.corr, [],
      addAll (fun f => (energyPart energy s f).floor.toNat) (energyFns s) s.pwr.fnEnergy) := rfl

theorem pdie_shareEnergy (energy : Nat) (s : State) (d : Nat) : (shareEnergy energy s).pdie d = s.pdie d := rfl

section
variable (m : EpochMeas) (s : State)

theorem epochCorrected_energies (f : Nat) : energyPart m.energyMj (epochCorrected m s) f = energyPart m.energyMj s f ∧
    energyFns (epochCorrected m s) = energyFns s := by
  have hreg : (epochCorrected m s).reg = s.reg := (epochCorrected_kept m s).reg_eq (by decide)
  have hslots : (epochCorrected m s).pwr.resSlots = s.pwr.resSlots := (congrArg Pwr.resSlots (epochCorrected_offLoss m s) :)
  refine ⟨energyPart_congr (by rw [hreg]) (epochCorrected_vset m s) hslots _ f, ?_⟩
  simp only [energyFns, hreg, hslots]

/-- The readings and the energies of an epoch's end, before its ceiling by temperature. -/
def epochRead : State := readAll m.tj m.hbmT (shareEnergy m.energyMj (epochCorrected m s))

theorem epochRead_sensed : Sensed (shareEnergy m.energyMj (epochCorrected m s)) (epochRead m s) := readAll_sensed ..

theorem epochEnd_attributed : (epochEnd m s).pwr.attributed =
    (nextEpoch s, (s.pwr.energyMj + m.energyMj) % 2 ^ 64, m.energyMj, nextCorr m.energyMj s.pwr, [],
      addAll (fun f => (energyPart m.energyMj s f).floor.toNat) (energyFns s) s.pwr.fnEnergy) := by
  have hloss := epochCorrected_offLoss m s
  have hfleet : (epochEnd m s).pwr.attributed = (epochSettled m s).pwr.attributed :=
    (congrArg Pwr.attributed (epochEnd_settles m s).1.pwr :)
  have hceil : (epochSettled m s).pwr.attributed = (epochRead m s).pwr.attributed :=
    (congrArg Pwr.attributed (throttle_pwr m.energyMj (epochRead m s)) :)
  have hread : (epochRead m s).pwr.attributed = (shareEnergy m.energyMj (epochCorrected m s)).pwr.attributed :=
    (congrArg Pwr.attributed (epochRead_sensed m s).pwr :)
  have hepoch : (epochCorrected m s).pwr.epochAt = nextEpoch s := (congrArg Pwr.epochAt hloss :)
  have henergy : (epochCorrected m s).pwr.energyMj = s.pwr.energyMj := (congrArg Pwr.energyMj hloss :)
  have hcorr : (epochCorrected m s).pwr.corr = nextCorr m.energyMj s.pwr := (congrArg Pwr.corr hloss :)
  have hfn : (epochCorrected m s).pwr.fnEnergy = s.pwr.fnEnergy := (congrArg Pwr.fnEnergy hloss :)
  rw [hfleet, hceil, hread, shareEnergy_attributed, hepoch, henergy, hcorr, hfn, (epochCorrected_energies m s 0).2]
  simp only [(epochCorrected_energies m s _).1]

theorem epochEnd_work : (epochEnd m s).reg.work = [] := by
  have hreg : (epochSettled m s).reg = (shareEnergy m.energyMj (epochCorrected m s)).reg :=
    ((throttle_frame ..).reg_eq (by decide)).trans ((readAll_frame ..).reg_eq (by decide))
  rw [(epochEnd_settles m s).2, hreg]
  rfl

theorem epochEnd_st : (epochEnd m s).tick.st = nextEpoch s * msSt := by
  rw [(epochEnd_settles m s).1.st, (epochSettled_kept m s).tick_eq (by decide)]
  exact max_eq_right (le_nextEpoch s)

/-- Later parts of an epoch's end leave the readings. -/
theorem epochEnd_dies : (epochEnd m s).pwr.dies = (epochRead m s).pwr.dies ∧ (epochEnd m s).pwr.hbmT = (epochRead m s).pwr.hbmT := by
  have hfleet := (epochEnd_settles m s).1.pwr
  have hceil := throttle_pwr m.energyMj (epochRead m s)
  exact ⟨(congrArg Pwr.dies hfleet :).trans (congrArg Pwr.dies hceil :), (congrArg Pwr.hbmT hfleet :).trans (congrArg Pwr.hbmT hceil :)⟩

theorem epochEnd_loss {d : Nat} (hd : d < 4) : ((epochEnd m s).pdie d).loss = m.lossDie.getD d 0 := by
  have hdie : (epochEnd m s).pdie d = (epochRead m s).pdie d := by simp only [State.pdie, (epochEnd_dies m s).1]
  have hread : ((epochRead m s).pdie d).loss = ((shareEnergy m.energyMj (epochCorrected m s)).pdie d).loss :=
    (congrArg PowerDie.loss ((epochRead_sensed m s).dies d) :)
  rw [hdie, hread, pdie_shareEnergy, epochCorrected, stretchLoss_loss _ _ hd]

theorem epochEnd_thCeil : (epochEnd m s).pwr.thCeil = nextCeil m.energyMj (epochRead m s) :=
  (congrArg Pwr.thCeil (epochEnd_settles m s).1.pwr :).trans (congrArg Pwr.thCeil (throttle_pwr m.energyMj (epochRead m s)) :)

theorem epochEnd_hottest : (epochEnd m s).hottest = (epochRead m s).hottest := by
  simp only [State.hottest, State.pdie, (epochEnd_dies m s).1, (epochEnd_dies m s).2]

theorem epochRead_thCeil : (epochRead m s).pwr.thCeil = s.pwr.thCeil := by
  have hread : (epochRead m s).pwr.thCeil = (epochCorrected m s).pwr.thCeil := (congrArg Pwr.thCeil (epochRead_sensed m s).pwr :)
  exact hread.trans (congrArg Pwr.thCeil (epochCorrected_offLoss m s) :)

theorem epochRead_od : (epochRead m s).od = s.od :=
  ((readAll_frame ..).od_eq (by decide)).trans (((shareEnergy_frame ..).od_eq (by decide)).trans
    ((epochCorrected_kept m s).od_eq (by decide)))

end

theorem nextCeil_of {s : State} {cap : Nat} {limit hottest : Int} (power : Rat) (hcap : s.pwrCap = cap) (hlimit : s.throttleC = limit)
    (hhot : s.hottest = hottest) :
    nextCeil power s = (if limit * 16 ≤ hottest then 95 / 100 * min s.pwr.thCeil power
      else if hottest ≤ limit * 16 - 32 then min 2200 (s.pwr.thCeil + (cap : Rat) / 50) else s.pwr.thCeil) := by
  subst hcap hlimit hhot
  rfl

theorem throttleC_congr {s t : State} (h : t.od = s.od) : t.throttleC = s.throttleC := congrArg Int.ofNat (odNat_congr h ..)

theorem epochEnd_ends {s : State} (m : EpochMeas) (hrest : s.life.rails.rest) (hup : s.life.diesUp) :
    ∃ t, exec (.epochEnd m) s = .next t ∧ s.pwr.epochAt < t.pwr.epochAt ∧ t.tick.st = t.pwr.epochAt * 16000000 ∧ s.tick.st ≤ t.tick.st ∧
      t.pwr.energyMj = (s.pwr.energyMj + m.energyMj) % 2 ^ 64 ∧ t.pwr.input = m.energyMj ∧
      (let pred : Rat := s.pwr.predSum / ((max 1 s.pwr.predN : Nat) : Rat)
       t.pwr.corr = (if s.pwr.inputSilent ∨ pred ≤ 0 then s.pwr.corr
        else s.pwr.corr * max (95 / 100) (min (105 / 100) ((m.energyMj : Rat) / pred)))) ∧
      (let fns := ((s.reg.work.map (fun (y : Nat × Nat) => y.1 % 1024) ++ s.pwr.resSlots.map (fun (y : Nat × Nat) => y.1)).filter (· < 512)).eraseDups
       let sum := (fns.map s.dFn).sum
       let q : Rat := (m.energyMj : Rat) - sum - s.glideMj
       t.reg.work = [] ∧ t.pwr.resSlots = [] ∧ ∀ f ∈ fns, tgetD t.pwr.fnEnergy f 0 = (tgetD s.pwr.fnEnergy f 0 +
         (if 0 ≤ q then s.dFn f + q * s.slotShare f
          else if sum = 0 then 0 else s.dFn f * max 0 ((m.energyMj : Rat) - s.glideMj) / sum).floor.toNat) % 2 ^ 64) ∧
      (∀ d < 4, (t.pdie d).loss = m.lossDie.getD d 0) ∧
      t.pwr.thCeil = (if s.throttleC * 16 ≤ t.hottest then 95 / 100 * min s.pwr.thCeil m.energyMj
        else if t.hottest ≤ s.throttleC * 16 - 32 then min 2200 (s.pwr.thCeil + (s.pwrCap : Rat) / 50)
        else s.pwr.thCeil) := by
  have hatt := epochEnd_attributed m s
  have hepoch : (epochEnd m s).pwr.epochAt = nextEpoch s := (congrArg (·.1) hatt :)
  have hod := epochRead_od m s
  refine ⟨_, congrArg Host.Outcome.next (if_pos ⟨hrest, hup⟩), ?_, ?_, ?_, (congrArg (·.2.1) hatt :), (congrArg (·.2.2.1) hatt :),
    (congrArg (·.2.2.2.1) hatt :), ⟨epochEnd_work m s, (congrArg (·.2.2.2.2.1) hatt :), fun f hf => ?_⟩, fun d hd => epochEnd_loss m s hd, ?_⟩
  · rw [hepoch]
    exact nextEpoch_lt s
  · rw [epochEnd_st, hepoch]
    rfl
  · rw [epochEnd_st]
    exact le_nextEpoch s
  · have hfn : (epochEnd m s).pwr.fnEnergy = _ := (congrArg (·.2.2.2.2.2) hatt :)
    rw [hfn]
    exact tgetD_addAll _ (nodup_eraseDups _) _ hf
  · rw [epochEnd_thCeil, nextCeil_of _ (pwrCap_congr hod) (throttleC_congr hod) (epochEnd_hottest m s).symm, epochRead_thCeil]

/-- Settles O49: a row changes one rail, one die or one partition, or runs the loop or the epoch's end of the Power Governor. -/
theorem powerFollowsItsRules : Obligations.PowerFollowsItsRules :=
  ⟨fun _ rs h => telemetryRead_rails rs h,
    fun _ _ hr hrest => phaseRetire_retires hr hrest,
    fun _ _ _ hd hrest hlow => sensorInvalid_reads hd hrest hlow,
    fun _ m hrest hup => powerGovernorLoop_governs m hrest hup,
    fun _ _ _ hs hm hpend ht hp hleast hrun hpark hcl => govParkRequest_parks hs hm hpend ht hp hleast hrun hpark hcl,
    fun _ _ _ hs hm hpend ht hp hgreatest hparked hgov => govResumeRequest_resumes hs hm hpend ht hp hgreatest hparked hgov,
    fun _ m hrest hup => epochEnd_ends m hrest hup,
    fun _ _ _ hd hn hrest => droop_notes hd hn hrest,
    fun _ _ hd hdroop => stretchRelease_releases hd hdroop,
    fun _ w hrest => powerStretch_stretches w hrest,
    powerStretchRelease_releases,
    fun _ _ tj hd hrest => refreshIntervalChange_follows tj hd hrest,
    fun _ _ hd hrest => refreshStatusUpdate_updates hd hrest⟩

end Sys2Proof.Machine
end

section
/-!
CORE_RESET, CLUSTER_RESET and PARTITION_RESET (R109, R281, R439-R441): what the reset of a core, of a cluster's memory and of a
Tick Unit clears, and that what a reset still does afterwards makes no core busy and no AS line valid again.
-/

namespace Sys2Proof.Machine

open Sys2Proof

/-! ## Cores and AS lines that stay clear -/

/-- A core is at reset and has no valid AS line. -/
structure CoreClear (c : Nat) (s : State) : Prop where
  core : s.core c = Core.reset
  as : ∀ line < 2 ^ 11, tget s.mem.as (asKey c line) = none

/-- No core at reset becomes busy, and no AS line becomes valid. -/
structure StaysClear (s t : State) : Prop where
  core : ∀ c, s.core c = Core.reset → t.core c = Core.reset
  as : ∀ k, tget s.mem.as k = none → tget t.mem.as k = none

theorem CoreClear.stays {c : Nat} {s t : State} (h : CoreClear c s) (k : StaysClear s t) : CoreClear c t :=
  ⟨k.core c h.core, fun line hl => k.as _ (h.as line hl)⟩

theorem StaysClear.refl (s : State) : StaysClear s s := ⟨fun _ h => h, fun _ h => h⟩

theorem StaysClear.trans {s t u : State} (h : StaysClear s t) (k : StaysClear t u) : StaysClear s u :=
  ⟨fun c hc => k.core c (h.core c hc), fun a ha => k.as a (h.as a ha)⟩

theorem StaysClear.of_eq {s t : State} (hc : t.cores = s.cores) (ha : t.mem.as = s.mem.as) : StaysClear s t :=
  ⟨fun c h => by rw [State.core, hc]; exact h, fun k h => by rw [ha]; exact h⟩

theorem StaysClear.of_kept {L : List Comp} {s t : State} (h : Kept L s t) (hc : Comp.cores ∉ L) (hm : Comp.mem ∉ L) :
    StaysClear s t :=
  .of_eq (h.cores_eq hc) (congrArg Mem.as (h.off.same .mem hm))

theorem StaysClear.ite {s t u : State} {p : Prop} {_ : Decidable p} (ht : StaysClear s t) (hu : StaysClear s u) :
    StaysClear s (if p then t else u) := by
  split <;> assumption

theorem StaysClear.foldl {α : Type} {f : State → α → State} (hf : ∀ t x, StaysClear t (f t x)) (l : List α) (s : State) :
    StaysClear s (l.foldl f s) :=
  foldl_inv (StaysClear s ·) f l s (.refl s) (fun t x h => h.trans (hf t x))

/-- A change of the listed values at some keys, which fixes the value of unlisted keys, is that change of every value read there. -/
theorem tgetD_map_of_fixed {α : Type} {d : α} {f : α → α} (hf : f d = d) (p : Nat → Bool) (t : Tab α) (k : Nat) :
    tgetD (t.map (fun e => if p e.1 then (e.1, f e.2) else e)) k d = if p k then f (tgetD t k d) else tgetD t k d := by
  induction t with
  | nil => simp [tgetD, tget, hf]
  | cons e r ih =>
    obtain ⟨j, v⟩ := e
    by_cases hj : j = k
    · subst hj
      by_cases hp : p j <;> simp [tgetD, tget, hp]
    · by_cases hp : p j <;> simpa [tgetD, tget, hp, hj] using ih

theorem mapCores_staysClear {f : Core → Core} (hf : f Core.reset = Core.reset) (p : Nat → Bool) (s : State) :
    StaysClear s (mapCores p f s) where
  core c h := by
    have hm : (mapCores p f s).core c = if p c then f (s.core c) else s.core c := tgetD_map_of_fixed hf p s.cores c
    rw [hm, h, hf, ite_self]
  as _ h := h

/-- AS lines are only removed. -/
theorem filterAs_staysClear {p : Nat → Bool} {s t : State} (hc : t.cores = s.cores)
    (ha : t.mem.as = s.mem.as.filter (fun e => p e.1)) : StaysClear s t where
  core c h := by rw [State.core, hc]; exact h
  as k h := by rw [ha, tget_filter, h, ite_self]

/-! ## Translations that change (R277) -/

theorem setPte_cores (r : PteRef) (v : Nat) (s : State) : (s.setPte r v).cores = s.cores := by
  unfold State.setPte
  split <;> rfl

theorem setPte_as (r : PteRef) (v : Nat) (s : State) : (s.setPte r v).mem.as = s.mem.as := by
  unfold State.setPte
  split <;> rfl

theorem setPte_staysClear (r : PteRef) (v : Nat) (s : State) : StaysClear s (s.setPte r v) :=
  .of_eq (setPte_cores ..) (setPte_as ..)

theorem openZeroPage_staysClear (r : PteRef) (s : State) : StaysClear s (openZeroPage r s) := by
  unfold openZeroPage
  exact .ite (.of_eq (setPte_cores ..) (setPte_as ..)) (.refl s)

theorem writeBack_staysClear (r : PteRef) (s : State) : StaysClear s (writeBack r s) := by
  unfold writeBack
  refine .ite (.trans (.foldl (fun t i => ?_) _ s) (setPte_staysClear ..)) (.refl s)
  exact .trans (.of_kept (egressBlk_frame ..) (by decide) (by decide)) (.of_eq rfl rfl)

theorem clearPte_staysClear (f w page : Nat) (r : PteRef) (s : State) : StaysClear s (clearPte f w page r s) := by
  unfold clearPte
  exact .ite (.trans (setPte_staysClear ..) (setPte_staysClear ..)) (setPte_staysClear ..)

theorem mmuOpPage_staysClear (op : MmuOp) (f w : Nat) (s : State) (rp : PteRef × Nat) : StaysClear s (mmuOpPage op f w s rp) := by
  cases op with
  | unmap => exact .trans (writeBack_staysClear ..) (clearPte_staysClear ..)
  | protect _ => exact setPte_staysClear ..
  | syncIn => exact .trans (writeBack_staysClear rp.1 s) (.ite (setPte_staysClear ..) (.refl _))
  | disable _ => exact .trans (writeBack_staysClear ..) (clearPte_staysClear ..)

theorem applyMmuOp_staysClear (op : MmuOp) (f w lo n : Nat) (s : State) : StaysClear s (applyMmuOp op f w lo n s) := by
  have hpages : StaysClear s ((s.pagesIn f w lo (lo + n)).foldl (mmuOpPage op f w) s) :=
    .foldl (fun t x => mmuOpPage_staysClear op f w t x) _ s
  cases op with
  | disable _ => exact hpages.trans (.of_eq rfl rfl)
  | _ => exact hpages

theorem applyMmuPend_staysClear (f : Nat) (s : State) : StaysClear s (applyMmuPend f s) := by
  unfold applyMmuPend
  extract_lets mine _ s'
  refine .trans (t := s') (.of_eq rfl rfl) (.foldl (fun t m => ?_) mine s')
  refine .trans (applyMmuOp_staysClear m.op f (m.dva / 2 ^ 32) (m.dva % 2 ^ 32) m.pages t) ?_
  cases m.ticket with
  | none => exact .refl _
  | some k => exact .of_kept (completeSt_frame ..) (by decide) (by decide)

/-! ## Allotments that change (R301, R519) -/

theorem reallot_nil {α : Type} (w : Nat) (old new : List (Nat × Nat × Nat)) : reallot w old new ([] : Tab α) = [] := by
  unfold reallot
  refine List.flatMap_eq_nil_iff.2 (fun x _ => ?_)
  split <;> rfl

theorem reallotPart_staysClear (p : Nat) (before after : State) : StaysClear after (reallotPart p before after) := by
  unfold reallotPart
  refine .ite (.refl _) (mapCores_staysClear ?_ _ _)
  simp only [Core.reset, reallot_nil]

theorem clearMoved_staysClear (before after : State) : StaysClear after (clearMoved before after) :=
  filterAs_staysClear (p := fun k => before.asOwner (k / 2 ^ 11) (k % 2 ^ 11) == after.asOwner (k / 2 ^ 11) (k % 2 ^ 11)) rfl rfl

/-- The effective value of FN_PART_CFG is in place. -/
def fnPartPut (f p v : Nat) (s : State) : State :=
  { s with reg := { s.reg with fnPartEff := tputD 0 s.reg.fnPartEff (pkey f p) (BitVec.ofNat 32 v) } }

/-- The effective value is in place and the allotments have moved with it. -/
def fnPartMoved (f p v : Nat) (s : State) : State := clearMoved s (reallotPart p s (fnPartPut f p v s))

theorem setFnPartEff_eq (f p v : Nat) (s : State) : setFnPartEff f p v s =
    if shareOf v = shareOf (s.fnPartEff f p) then fnPartMoved f p v s
    else flushPlans (fun x => x.key.fn == f && x.key.part == p && x.key.share != shareOf v) (fnPartMoved f p v s) := rfl

theorem fnPartMoved_staysClear (f p v : Nat) (s : State) : StaysClear s (fnPartMoved f p v s) :=
  have hput : StaysClear s (fnPartPut f p v s) := .of_eq rfl rfl
  hput.trans ((reallotPart_staysClear ..).trans (clearMoved_staysClear ..))

theorem setFnPartEff_staysClear (f p v : Nat) (s : State) : StaysClear s (setFnPartEff f p v s) := by
  rw [setFnPartEff_eq]
  have hm := fnPartMoved_staysClear f p v s
  exact .ite hm (hm.trans (.of_kept (flushPlans_frame ..) (by decide) (by decide)))

/-- Every change of `applyPartPend` edits the list of pending changes and may put an effective value in place. -/
theorem applyPartPend_ind (P : State → Prop) (p : Nat) {s : State} (h : P s)
    (hpend : ∀ t l, P t → P { t with reg := { t.reg with partPend := l } })
    (hset : ∀ t f v, P t → P (setFnPartEff f p v t)) : P (applyPartPend p s) := by
  unfold applyPartPend
  refine foldl_inv P _ _ s h (fun t x ht => ?_)
  extract_lets _ _ _ _ v _ _ _ w
  have hw : P w := hpend t _ ht
  clear_value w
  split
  · exact hw
  · exact hset w _ v hw

theorem settlePend_ind (P : State → Prop) {s : State} (h : P s) (hpart : ∀ t p, P t → P (applyPartPend p t)) : P (settlePend s) := by
  unfold settlePend
  refine foldl_inv P _ _ s h (fun t p ht => ?_)
  split
  · exact ht
  · exact hpart t p ht

theorem applyPartPend_staysClear (p : Nat) (s : State) : StaysClear s (applyPartPend p s) :=
  applyPartPend_ind (StaysClear s ·) p (.refl s) (fun _ _ h => h.trans (.of_eq rfl rfl))
    (fun _ _ _ h => h.trans (setFnPartEff_staysClear ..))

theorem settlePend_staysClear (s : State) : StaysClear s (settlePend s) :=
  settlePend_ind (StaysClear s ·) (.refl s) (fun _ p h => h.trans (applyPartPend_staysClear p _))

/-! ## Cores -/

theorem resetCoreState_staysClear (c : Nat) (s : State) : StaysClear s (resetCoreState c s) where
  core d h := by
    by_cases hd : d = c
    · subst hd
      exact core_setCore_self ..
    · exact (core_setCore_ne s Core.reset hd).trans h
  as := (filterAs_staysClear (s := s) (t := { s with mem := (resetCoreState c s).mem })
    (p := fun k => k < asKey c 0 || asKey c 0 + 2 ^ 11 ≤ k) rfl rfl).as

theorem resetCoreState_clears (c : Nat) (s : State) : CoreClear c (resetCoreState c s) where
  core := core_setCore_self ..
  as line hl := by
    have hout : (decide (asKey c line < asKey c 0) || decide (asKey c 0 + 2 ^ 11 ≤ asKey c line)) = false := by
      simp [asKey]
      omega
    have h := tget_filter s.mem.as (fun k => k < asKey c 0 || asKey c 0 + 2 ^ 11 ≤ k) (asKey c line)
    rw [hout] at h
    exact h

theorem foldl_resetCoreState_clears {c : Nat} {cores : List Nat} (hc : c ∈ cores) (s : State) :
    CoreClear c (cores.foldl (fun s c => resetCoreState c s) s) := by
  induction cores generalizing s with
  | nil => exact absurd hc List.not_mem_nil
  | cons d r ih =>
    rcases List.mem_cons.1 hc with rfl | hr
    · exact (resetCoreState_clears c s).stays (.foldl (fun t x => resetCoreState_staysClear x t) r _)
    · exact ih hr _

/-- A reset of cores before the cores are cleared: no admission, execution, transfer or maintenance concerns them any more. -/
def coresQuiet (cores : List Nat) (s : State) : State :=
  abandonMaintenance cores (drainCores cores (absorbOn cores.contains (drainAdmissions cores.contains 1024 s)))

theorem resetCores_eq (cores : List Nat) (s : State) : resetCores cores s =
    settlePend (settleShadows (cores.foldl (fun s c => resetCoreState c s) (coresQuiet cores s))) := rfl

theorem settleShadows_staysClear (s : State) : StaysClear s (settleShadows s) :=
  .of_kept (settleShadows_frame s) (by decide) (by decide)

theorem settleState_staysClear (s : State) : StaysClear s (settleState s) :=
  .of_kept (settleState_frame s) (by decide) (by decide)

theorem resetCores_clears {c : Nat} {cores : List Nat} (hc : c ∈ cores) (s : State) : CoreClear c (resetCores cores s) := by
  rw [resetCores_eq]
  exact (foldl_resetCoreState_clears hc _).stays ((settleShadows_staysClear _).trans (settlePend_staysClear _))

/-! ## Statistics of a core (R74, R267) -/

/-- COUNT_STAT and TICK_STAT of the cores. -/
def Regs.coreStats (r : Regs) : Tab Dword × Tab Dword := (r.countStat, r.tickStat)

theorem setFnPartEff_coreStats (f p v : Nat) (s : State) : (setFnPartEff f p v s).reg.coreStats = s.reg.coreStats := by
  have hmoved : (fnPartMoved f p v s).reg.coreStats = s.reg.coreStats := by
    rw [fnPartMoved, (clearMoved_frame ..).reg_eq (by decide), (reallotPart_frame ..).reg_eq (by decide)]
    rfl
  rw [setFnPartEff_eq]
  split
  · exact hmoved
  · rw [(flushPlans_frame ..).reg_eq (by decide), hmoved]

theorem settlePend_coreStats (s : State) : (settlePend s).reg.coreStats = s.reg.coreStats :=
  settlePend_ind (fun t => t.reg.coreStats = s.reg.coreStats) rfl fun _ p ht =>
    applyPartPend_ind (fun u => u.reg.coreStats = s.reg.coreStats) p ht (fun _ _ hu => hu)
      (fun _ _ _ hu => (setFnPartEff_coreStats ..).trans hu)

theorem resetCores_single_stats (c : Nat) (s : State) :
    (settleState (resetCores [c] s)).readReg (.countStat c) = 0 ∧ (settleState (resetCores [c] s)).readReg (.tickStat c) = 0 := by
  have hstats : (settleState (resetCores [c] s)).reg.coreStats = (resetCoreState c (coresQuiet [c] s)).reg.coreStats := by
    rw [(settleState_frame _).reg_eq (by decide), resetCores_eq, settlePend_coreStats, (settleShadows_frame _).reg_eq (by decide)]
    rfl
  obtain ⟨hcount, htick⟩ := Prod.mk.inj hstats
  simp only [State.readReg, hcount, htick]
  simp [resetCoreState, resetCoreRegs, tgetD]

/-! ## The memory of a cluster (R281, R296) -/

theorem writeHome_staysClear (line : Nat) (v : BitVec 512) (s : State) : StaysClear s (writeHome line v s) := by
  unfold writeHome
  split
  · split
    · exact .of_eq rfl rfl
    · exact .trans (.ite (.trans (openZeroPage_staysClear ..) (setPte_staysClear ..)) (openZeroPage_staysClear ..)) (.of_eq rfl rfl)
  · exact .of_eq rfl rfl

theorem setPte_lines (r : PteRef) (v : Nat) (s : State) : (s.setPte r v).mem.lines = s.mem.lines := by
  unfold State.setPte
  split <;> rfl

theorem openZeroPage_lines (r : PteRef) (s : State) : (openZeroPage r s).mem.lines = s.mem.lines := by
  unfold openZeroPage
  dsimp only
  split
  · exact setPte_lines ..
  · rfl

theorem writeHome_lines (line : Nat) (v : BitVec 512) (s : State) : (writeHome line v s).mem.lines = s.mem.lines := by
  unfold writeHome
  dsimp only
  split
  · split
    · rfl
    · split
      · exact (setPte_lines ..).trans (openZeroPage_lines ..)
      · exact openZeroPage_lines ..
  · rfl

theorem flushLines_staysClear (cls : List Nat) (s : State) : StaysClear s (flushLines cls s) := by
  unfold flushLines
  extract_lets mine _ s'
  refine .trans (t := s') (.of_eq rfl rfl) (.foldl (fun t e => ?_) mine s')
  exact .ite (writeHome_staysClear ..) (.refl t)

theorem flushLines_lines (cls : List Nat) (s : State) :
    (flushLines cls s).mem.lines = s.mem.lines.filter (fun e => !cls.contains (e.1 / 2 ^ 34)) := by
  unfold flushLines
  refine foldl_inv (fun t : State => t.mem.lines = _) _ _ _ rfl (fun t e ht => ?_)
  split
  · exact (writeHome_lines ..).trans ht
  · exact ht

theorem zeroClusters_staysClear (cls : List Nat) (s : State) : StaysClear s (zeroClusters cls s) :=
  .trans (flushLines_staysClear cls s) (.of_eq rfl rfl)

theorem zeroClusters_noLines {cl : Nat} {cls : List Nat} (hcl : cl ∈ cls) (s : State) :
    ∀ x ∈ (zeroClusters cls s).mem.lines, x.1 / 2 ^ 34 ≠ cl := by
  intro x hx hxc
  have hl : (zeroClusters cls s).mem.lines = s.mem.lines.filter (fun e => !cls.contains (e.1 / 2 ^ 34)) := flushLines_lines cls s
  rw [hl] at hx
  have hout : (!cls.contains (x.1 / 2 ^ 34)) = true := (List.mem_filter.1 hx).2
  rw [hxc] at hout
  simp [hcl] at hout

theorem zeroClusters_cmBlk {cl line : Nat} {cls : List Nat} (hcl : cl ∈ cls) (hl : line < 2 ^ 14) (s : State) :
    (zeroClusters cls s).cmBlk cl line = Block.zero := by
  have hkey : cmKey cl line / 2 ^ 14 = cl := by
    unfold cmKey
    omega
  have h := tget_filter (flushLines cls s).mem.cm (fun k => !cls.contains (k / 2 ^ 14)) (cmKey cl line)
  simp only [hkey, List.contains_iff_mem.2 hcl, Bool.not_true, Bool.false_eq_true, if_false] at h
  simp only [State.cmBlk, tgetD]
  exact congrArg (Option.getD · Block.zero) h

theorem mem_clusterCores {c cl : Nat} (h : clusterOfCore c = cl) : c ∈ clusterCores cl := by
  unfold clusterOfCore at h
  exact List.mem_map.2 ⟨c % 16, List.mem_range.2 (by omega), by omega⟩

end Sys2Proof.Machine
end

section
/-!
The Tick Unit and the plans of a partition at its reset (R281, R439-R441), and the statement about the three resets of units.
-/

namespace Sys2Proof.Machine

open Sys2Proof

/-! ## Executions that are absorbed -/

/-- A core at reset holds nothing of any execution. -/
theorem dropWork_reset (base : Nat) (e : Exec) : dropWork base e Core.reset = Core.reset := rfl

theorem absorbExec_staysClear (withCompletion : Bool) (id : Nat) (s : State) : StaysClear s (absorbExec withCompletion id s) := by
  unfold absorbExec
  split
  · exact .refl s
  · next e _ =>
    extract_lets u w
    have hu : StaysClear s u := .trans (mapCores_staysClear (dropWork_reset ..) ..) (.of_eq rfl rfl)
    clear_value u
    have hw : StaysClear s w := hu.trans (.ite (.of_eq rfl rfl) (.of_eq rfl rfl))
    clear_value w
    exact .ite (hw.trans (.of_eq rfl rfl)) hw

theorem absorbWhere_staysClear (hit : Exec → Bool) (s : State) : StaysClear s (absorbWhere hit s) := by
  unfold absorbWhere
  exact .foldl (fun t e => .trans (.of_kept (dropArmed_frame ..) (by decide) (by decide)) (absorbExec_staysClear ..)) _ s

/-! ## No plan and no execution of a partition -/

/-- Neither the plan cache nor an execution has a plan of partition p. -/
structure NoPlans (p : Nat) (a : Adm) : Prop where
  plans : ∀ x ∈ a.plans, x.key.part ≠ p
  execs : ∀ x ∈ a.execs, x.plan.key.part ≠ p

theorem readmit_noPlans {p : Nat} (e : Exec) {s : State} (h : NoPlans p s.adm) : NoPlans p (readmit e s).adm :=
  ⟨fun x hx => h.plans x (List.mem_filter.1 hx).1, fun x hx => h.execs x (List.mem_filter.1 hx).1⟩

theorem flushPlans_noPlans {p : Nat} (which : Plan → Bool) {s : State} (h : NoPlans p s.adm) :
    NoPlans p (flushPlans which s).adm := by
  unfold flushPlans
  refine foldl_inv (fun t : State => NoPlans p t.adm) _ _ _ ?_ (fun t e ht => readmit_noPlans e ht)
  exact ⟨fun x hx => h.plans x (List.mem_filter.1 hx).1, h.execs⟩

theorem fnPartMoved_adm (f p v : Nat) (s : State) : (fnPartMoved f p v s).adm = s.adm := by
  rw [fnPartMoved, (clearMoved_frame ..).off.same .adm (by decide), (reallotPart_frame ..).off.same .adm (by decide)]
  rfl

theorem setFnPartEff_noPlans {p : Nat} (f q v : Nat) {s : State} (h : NoPlans p s.adm) : NoPlans p (setFnPartEff f q v s).adm := by
  have hmoved : NoPlans p (fnPartMoved f q v s).adm := fnPartMoved_adm f q v s ▸ h
  rw [setFnPartEff_eq]
  split
  · exact hmoved
  · exact flushPlans_noPlans _ hmoved

theorem applyPartPend_noPlans {p : Nat} (q : Nat) {s : State} (h : NoPlans p s.adm) : NoPlans p (applyPartPend q s).adm :=
  applyPartPend_ind (fun t => NoPlans p t.adm) q h (fun _ _ ht => ht) (fun _ _ _ ht => setFnPartEff_noPlans _ _ _ ht)

/-! ## The reset of a Tick Unit, part by part -/

/-- Arrivals that waited for the partition have applied, and its executions are absorbed. -/
def partQuiet (p : Nat) (s : State) : State :=
  let due := s.tick.arrivals.filter (fun a => a.part = p)
  let s := { s with tick := { s.tick with arrivals := s.tick.arrivals.filter (fun a => a.part ≠ p) } }
  let s := due.foldl (fun s a => meetWaiters a.gate (addArrivals a.gate a.n s)) s
  absorbWhere (fun e => e.plan.key.part == p) (completeAll (due.filterMap (·.ticket)) stOk s)

/-- The Tick Unit at reset but for the features that other modules reported. -/
def Part.cleared (pt : Part) : Part := { Part.reset with features := pt.features }

/-- The Tick Unit is IDLE, and requests to park or resume have ended. -/
def partIdle (p : Nat) (s : State) : State :=
  completeAll (((s.part p).parkTk ++ (s.part p).resumeTk).map (·.2)) stAborted (s.setPart p (s.part p).cleared)

/-- The executions and plans of the partition are gone, and so is what the Power Governor holds of it. -/
def partEmptied (p : Nat) (s : State) : State :=
  let s := { s with adm := { s.adm with execs := s.adm.execs.filter (fun e => e.plan.key.part ≠ p),
                                        plans := s.adm.plans.filter (fun x => x.key.part ≠ p) } }
  s.setPpart p { s.ppart p with parkedByGov := false, acc := 0 }

/-- Changes of translations that waited for executions take effect for every function that has none left. -/
def translationsSettled (s : State) : State :=
  ((s.mem.pend.map (·.fn)).eraseDups).foldl (fun s f => if s.fnRunning f then s else applyMmuPend f s) s

theorem resetPart_eq (p : Nat) (s : State) :
    resetPart p s = applyPartPend p (translationsSettled (partEmptied p (partIdle p (partQuiet p s)))) := rfl

theorem partQuiet_staysClear (p : Nat) (s : State) : StaysClear s (partQuiet p s) := by
  unfold partQuiet
  extract_lets due _ u w
  have hu : StaysClear s u := .of_eq rfl rfl
  have hstep : ∀ t (a : Arrival), StaysClear t (meetWaiters a.gate (addArrivals a.gate a.n t)) := fun t a =>
    .trans (.of_kept (addArrivals_frame a.gate a.n t) (by decide) (by decide)) (.of_kept (meetWaiters_frame ..) (by decide) (by decide))
  have hw : StaysClear u w := .foldl hstep due u
  have hdone : StaysClear w (completeAll (due.filterMap (·.ticket)) stOk w) :=
    .of_kept (completeAll_frame ..) (by decide) (by decide)
  exact hu.trans (hw.trans (hdone.trans (absorbWhere_staysClear ..)))

theorem partIdle_staysClear (p : Nat) (s : State) : StaysClear s (partIdle p s) :=
  .trans (t := s.setPart p (s.part p).cleared) (.of_eq rfl rfl) (.of_kept (completeAll_frame ..) (by decide) (by decide))

theorem partEmptied_staysClear (p : Nat) (s : State) : StaysClear s (partEmptied p s) := .of_eq rfl rfl

theorem translationsSettled_staysClear (s : State) : StaysClear s (translationsSettled s) :=
  .foldl (fun t f => .ite (.refl t) (applyMmuPend_staysClear f t)) _ s

theorem translationsSettled_kept (s : State) : Kept [.jr, .host, .reg, .mem] s (translationsSettled s) :=
  kept_foldl (fun t f ht => kept_ite ht (ht.step (by decide) (applyMmuPend_frame f t))) (.refl _ s)

theorem resetPart_staysClear (p : Nat) (s : State) : StaysClear s (resetPart p s) := by
  rw [resetPart_eq]
  exact (partQuiet_staysClear p s).trans ((partIdle_staysClear p _).trans ((partEmptied_staysClear p _).trans
    ((translationsSettled_staysClear _).trans (applyPartPend_staysClear p _))))

theorem partEmptied_tick (p : Nat) (s : State) : (partEmptied p s).tick = s.tick := rfl

theorem resetPart_part (p : Nat) (s : State) : (resetPart p s).part p = ((partQuiet p s).part p).cleared := by
  have htick : (resetPart p s).tick = ((partQuiet p s).setPart p ((partQuiet p s).part p).cleared).tick := by
    rw [resetPart_eq, (applyPartPend_frame ..).tick_eq (by decide), (translationsSettled_kept _).tick_eq (by decide),
      partEmptied_tick, partIdle, completeAll_tick]
  simp only [State.part, htick]
  exact part_setPart_self ..

theorem resetPart_noPlans (p : Nat) (s : State) : NoPlans p (resetPart p s).adm := by
  have hemptied : ∀ t, NoPlans p (partEmptied p t).adm := fun t =>
    ⟨fun x hx => by simpa using (List.mem_filter.1 hx).2, fun x hx => by simpa using (List.mem_filter.1 hx).2⟩
  rw [resetPart_eq]
  refine applyPartPend_noPlans p ?_
  rw [(translationsSettled_kept _).off.same .adm (by decide)]
  exact hemptied _

/-! ## CORE_RESET, CLUSTER_RESET and PARTITION_RESET (R439-R441) -/

section
variable {q e : Nat} {k : Ticket} {s : State}

theorem exec_coreReset_of_front (h : Front opCoreReset 0 q e k s) :
    exec (.coreReset 0 q) s = .next (coreResetEffect e k (popEntry 0 q s)) :=
  congrArg Host.Outcome.next (onEntry_act _ _ _ _ _ _ _ h)

theorem exec_clusterReset_of_front (h : Front opClusterReset 0 q e k s) :
    exec (.clusterReset 0 q) s = .next (clusterResetEffect e k (popEntry 0 q s)) :=
  congrArg Host.Outcome.next (onEntry_act _ _ _ _ _ _ _ h)

theorem exec_partitionReset_of_front (h : Front opPartitionReset 0 q e k s) :
    exec (.partitionReset 0 q) s = .next (partitionResetEffect e k (popEntry 0 q s)) :=
  congrArg Host.Outcome.next (onEntry_act _ _ _ _ _ _ _ h)

theorem popEntry_partCores (fn p : Nat) : (popEntry fn q s).partCores p = s.partCores p := by
  rw [popEntry_host]
  rfl

end

theorem coreReset_clears (c : Nat) (s : State) : CoreClear c (settleState (resetCores [c] s)) :=
  (resetCores_clears (List.mem_singleton_self c) s).stays (settleState_staysClear _)

theorem clusterReset_clears {c cl : Nat} (h : clusterOfCore c = cl) (s : State) :
    CoreClear c (settleState (zeroClusters [cl] (resetCores (clusterCores cl) s))) :=
  (resetCores_clears (mem_clusterCores h) s).stays ((zeroClusters_staysClear ..).trans (settleState_staysClear _))

theorem partitionReset_clears {c : Nat} {cores cls : List Nat} (h : c ∈ cores) (p : Nat) (s : State) :
    CoreClear c (settleState (resetPart p (zeroClusters cls (resetCores cores s)))) :=
  (resetCores_clears h s).stays
    ((zeroClusters_staysClear ..).trans ((resetPart_staysClear ..).trans (settleState_staysClear _)))

theorem settleState_mem (s : State) : (settleState s).mem = s.mem := (settleState_frame s).off.same .mem (by decide)

theorem settleState_part (s : State) (p : Nat) : (settleState s).part p = s.part p := by
  simp only [State.part, (settleState_frame s).tick_eq (by decide)]

theorem settleState_adm (s : State) : (settleState s).adm = s.adm := (settleState_frame s).off.same .adm (by decide)

/-- Settles O38: the cores are cleared last but for the settling of pending changes, which makes no core busy and no AS line valid;
the memory of a cluster and the Tick Unit of a partition are cleared after them. -/
theorem unitResetsClearTheUnit : Obligations.UnitResetsClearTheUnit := by
  refine ⟨fun s q e k h => ?_, fun s q e k h => ?_, fun s q e k h => ?_⟩
  · rw [exec_coreReset_of_front h]
    simp only [coreResetEffect]
    split
    · rfl
    · obtain ⟨hcore, has⟩ := coreReset_clears (entF e 0x08 2) (popEntry 0 q s)
      exact ⟨_, rfl, hcore, has, resetCores_single_stats ..⟩
  · rw [exec_clusterReset_of_front h]
    simp only [clusterResetEffect]
    split
    · rfl
    · refine ⟨_, rfl, fun c hc => ?_, fun line hl => ?_, ?_⟩
      · obtain ⟨hcore, has⟩ := clusterReset_clears hc (popEntry 0 q s)
        exact ⟨hcore, has⟩
      · simp only [State.cmBlk, settleState_mem]
        exact zeroClusters_cmBlk (List.mem_singleton_self _) hl _
      · rw [settleState_mem]
        exact zeroClusters_noLines (List.mem_singleton_self _) _
  · rw [exec_partitionReset_of_front h]
    simp only [partitionResetEffect]
    split
    · rfl
    · obtain ⟨hplans, hexecs⟩ := resetPart_noPlans (entF e 0x08 2)
        (zeroClusters ((popEntry 0 q s).partClusters (entF e 0x08 2))
          (resetCores ((popEntry 0 q s).partCores (entF e 0x08 2)) (popEntry 0 q s)))
      refine ⟨_, rfl, ?_, ?_, ?_, ?_, ?_, fun c hc => ?_⟩
      · rw [settleState_part, resetPart_part]
        rfl
      · rw [settleState_part, resetPart_part]
        rfl
      · rw [settleState_part, resetPart_part]
        rfl
      · rw [settleState_adm]
        exact hplans
      · rw [settleState_adm]
        exact hexecs
      · rw [← popEntry_partCores (q := q) 0] at hc
        obtain ⟨hcore, has⟩ := partitionReset_clears hc (entF e 0x08 2) (popEntry 0 q s)
        exact ⟨hcore, has⟩

end Sys2Proof.Machine
end

section
/-!
Staging levels and remote blocks (R223, R329): what STAGING_COPY does with a run that is at its end, and with one whose
start waits for a block of another module.
-/

namespace Sys2Proof.Machine

open Sys2Proof

/-! ## STAGING_COPY (R223) -/

section
variable {c l m off d : Nat} {r : Run} {x : TaskCtx} {s : State}

theorem exec_stagingCopy (c : Nat) (s : State) : exec (.stagingCopy c) s = .next (onRun c stageStep s) := rfl

theorem stageStep_of_finished (h : r.finished) (x : TaskCtx) (s : State) : stageStep x r s = (r, s) := by
  simp [stageStep, h]

theorem progress_of_not_setup (h : r.setup = false) : progress x r s = none := by
  simp [progress, h]

/-- A run at its end asks for nothing, whatever blocks its task still lacks. -/
theorem exec_stagingCopy_of_finished (h : CoreRuns c r x s) (hf : r.finished) :
    exec (.stagingCopy c) s = .next (setRun c r s) := by
  rw [exec_stagingCopy, onRun_of_waits h (stageStep_of_finished hf x s) (progress_of_finished hf)]

/-- The request for one block of module m, as the task sends it (R329, Table 11-5). -/
def blockRequest (x : TaskCtx) (m off : Nat) (s : State) : LinkRecord :=
  { header := mkHeader 2 0 s.moduleNo m (s.pid x.part % 4096) x.fn 0 1 (cwOf (fmtBits x.t.fr.aFmt)) off s.net.nextTag, blocks := [] }

/-- A block that the task waits for, asked for on link l. -/
def blockAwaited (x : TaskCtx) (d m l : Nat) (s : State) : Remote :=
  { tag := s.net.nextTag, core := x.core, fn := x.fn, dst := d, write := false, sentAt := s.tick.st, dest := m,
    elems := 2048 / fmtBits x.t.fr.aFmt, step := 0, link := l }

/-- The request leaves on link l, its block is awaited, and the next tag is taken. -/
def sendBlockRequest (x : TaskCtx) (d m off l : Nat) (s : State) : State :=
  sendOn l (blockRequest x m off s)
    { s with net := { s.net with remote := s.net.remote ++ [blockAwaited x d m l s], nextTag := (s.net.nextTag + 1) % 2 ^ 16 } }

theorem askBlocks_of_routed (r : Run) (hd : s.locate x.fn x.part d = .peer m off) (hl : s.routeOf (blockRequest x m off s) = some l) :
    askBlocks x r [d] s = ({ r with remote := r.remote ++ [s.net.nextTag] }, sendBlockRequest x d m off l s) := by
  rw [blockRequest] at hl
  simp [askBlocks, hd, request, hl, sendBlockRequest, blockRequest, blockAwaited]

/-- A run whose start lacks one block of another module asks for it, where the run is not at its end. -/
theorem exec_stagingCopy_asks (h : CoreRuns c r x s) (hrem : r.remote = []) (hneed : remoteNeeds x r s = [d])
    (hset : r.setup = false) (hfin : r.finished = false) (hd : s.locate x.fn x.part d = .peer m off)
    (hl : s.routeOf (blockRequest x m off s) = some l) :
    exec (.stagingCopy c) s =
      .next (setRun c { r with remote := [s.net.nextTag] } (sendBlockRequest x d m off l s)) := by
  have hstep : stageStep x r s = ({ r with remote := [s.net.nextTag] }, sendBlockRequest x d m off l s) := by
    simp [stageStep, hrem, hneed, hset, hfin, askBlocks_of_routed r hd hl]
  have hwait : progress x { r with remote := [s.net.nextTag] } (sendBlockRequest x d m off l s) = none :=
    progress_of_not_setup (r := { r with remote := [s.net.nextTag] }) hset
  rw [exec_stagingCopy, onRun_of_waits h hstep hwait]

end

/-! ## A run that is at its end without having been set up -/

/-- A header in the exchange window of module 1. -/
def farHdr : Nat := 10 * 2 ^ 44 + 2 ^ 32

def farHdrTask : Task := { parseTask 0 0 0 (parseFormat 0 0) with fr := { parseFormat 0 0 with aHdr := farHdr } }

/-- The execution of the one task, on partition 0. -/
def farHdrExec : Exec :=
  { id := 1, ticket := { fn := 0, q := 1, cid := 0, sqHead := 1 },
    plan := {
      key := { fn := 0, graphVa := 0, tag := 0, buckets := [], level := 4, part := 0, period := 0x20, mwin := 0x14, rr := 0x20, share := 256 },
      tasks := [farHdrTask], edges := [], stages := [{ core := 0, asKib := 0, cmKib := 0 }], gateBase := 0, targets := [],
      placed := [{ id := 0, stage := 0, tick := 0, cost := 1, bEff := 1, work := [] }], length := 2, trips := [], frames := [],
      swaps := [], noCache := false, thresh := 100, ext := [], startedAt := 0 },
    xs := [], startTick := none, admitted := 0, phase := .running, planTick := 0, tick0 := 0, heldCnt := 0, poisoned := 0,
    retired := [], committed := [], waitHeld := 0, swapsDue := [] }

/-- FINISHED is set though the start has not been made: the hypotheses of the statement leave such a run in. -/
def unsetFinished : Run := { Run.start 1 0 with finished := true }

/-- Partition 0 spans modules 0 and 1 of a pair as PID 0x123, its pair's link is UP, and its core 0 runs the task. -/
def farHdrState : State :=
  let s : State := { State.reset with
    adm := { State.reset.adm with execs := [farHdrExec] },
    reg := { State.reset.reg with partClLo := [(0, 1)] },
    cores := [(0, { Core.reset with run := some unsetFinished, window := some 0 })],
    od := { State.reset.od with vals := [(odKey 0x4000 0x01, [1]), (odKey 0x4010 0x01, [0x23, 0x01]), (odKey 0x4010 0x02, [2, 0]),
      (odKey 0x4010 0x03, [0, 0, 1, 0])] } }
  (s.setPart 0 { Part.reset with state := .running }).setLink (0x123 % 36) { Link.reset with mode := .up, level := 4 }

def farHdrCtx : TaskCtx := mkCtx 0 farHdrExec 0 farHdrTask

theorem runs_farHdrState : CoreRuns 0 unsetFinished farHdrCtx farHdrState :=
  ⟨by decide +kernel, by decide +kernel, by decide +kernel⟩

theorem farHdrState_needs : remoteNeeds farHdrCtx unsetFinished farHdrState = [farHdr] := by decide +kernel

theorem farHdrState_locate : farHdrState.locate farHdrCtx.fn farHdrCtx.part farHdr = .peer 1 0 := by decide +kernel

theorem farHdrState_route : farHdrState.routeOf (blockRequest farHdrCtx 1 0 farHdrState) = some (0x123 % 36) := by decide +kernel

/-- Refutes O59: its clause on remote blocks does not ask that the run is not finished. A finished run that was never set up still
lacks the block of its header, and STAGING_COPY leaves it as it is. With that hypothesis the clause holds: `exec_stagingCopy_asks`. -/
theorem not_tasksStartAndRetire : ¬ Obligations.TasksStartAndRetire := by
  unfold Obligations.TasksStartAndRetire
  intro ⟨_, _, _, hask, _⟩
  have hasked := hask farHdrState 0 _ 1 0 farHdr unsetFinished farHdrCtx runs_farHdrState rfl farHdrState_needs rfl
    farHdrState_locate farHdrState_route
  rw [exec_stagingCopy_of_finished runs_farHdrState rfl] at hasked
  injection hasked with hstate
  have hrun := congrArg (fun t => ((t.core 0).run.map (·.remote))) hstate
  simp [run_setRun, unsetFinished, Run.start] at hrun

end Sys2Proof.Machine
end

section
/-!
PARTITION_PARK and PARTITION_RESUME (R207, R209, R210, R353): the boundary that a request names.
-/

namespace Sys2Proof.Machine

open Sys2Proof

theorem popEntry_part (fn q : Nat) (s : State) (p : Nat) : (popEntry fn q s).part p = s.part p := by
  rw [popEntry_host]
  rfl

/-- A park has nothing to stop: the partition does not run, and no resume is asked for that would make it run (R210). -/
def Part.ignoresPark (pt : Part) : Prop := pt.state ≠ .running ∧ ¬(pt.state = .parked ∧ pt.resumeReq)

/-- A resume has nothing to start: the partition is not parked, and no park is asked for that would park it (R210). -/
def Part.ignoresResume (pt : Part) : Prop := pt.state ≠ .parked ∧ ¬(pt.state = .running ∧ pt.parkReq)

/-- The park is asked for, and its command waits for the boundary that it names. -/
def Part.parkNamed (pt : Part) (t : Ticket) : Part :=
  { pt with parkReq := true, parkTk := pt.parkTk ++ [(pt.requestAt, t)] }

/-- The resume is asked for, and its command waits for the boundary that it names. -/
def Part.resumeNamed (pt : Part) (t : Ticket) : Part :=
  { pt with resumeReq := true, resumeTk := pt.resumeTk ++ [(pt.requestAt, t)] }

/-- The partition is to resume by command, and the Power Governor's own park of it is over. -/
def resumePart (p : Nat) (t : Ticket) (s : State) : State :=
  (s.setPart p ((s.part p).resumeNamed t)).setPpart p { s.ppart p with parkedByGov := false }

theorem resumePart_kept (p : Nat) (t : Ticket) (s : State) : Kept [.tick, .pwr] s (resumePart p t s) :=
  .step (by decide) (.step (by decide) (.refl _ s) (State.setPart_frame ..)) (State.setPpart_frame ..)

theorem part_resumePart (p : Nat) (t : Ticket) (s : State) : (resumePart p t s).part p = (s.part p).resumeNamed t :=
  part_setPart_self s p _

section
variable {e p : Nat} {t : Ticket} {s : State} (hp : entF e 0x08 2 = p)
include hp

/-! ## What a request does -/

theorem parkEffect_of_invalid (h : 16 ≤ p) : parkEffect e t s = completeSt t stInvalid s := by
  simp [parkEffect, hp, h]

theorem parkEffect_of_ignored (h : ¬ 16 ≤ p) (hi : (s.part p).ignoresPark) : parkEffect e t s = completeSt t stState s := by
  subst hp
  simp [parkEffect, h, hi.1, hi.2]

theorem parkEffect_of_named (h : ¬ 16 ≤ p) (hi : ¬ (s.part p).ignoresPark) :
    parkEffect e t s = s.setPart p ((s.part p).parkNamed t) := by
  subst hp
  simp only [parkEffect, if_neg h]
  exact if_neg (by simpa [Part.ignoresPark] using hi)

theorem resumeEffect_of_invalid (h : 16 ≤ p) : resumeEffect e t s = completeSt t stInvalid s := by
  simp [resumeEffect, hp, h]

theorem resumeEffect_of_ignored (h : ¬ 16 ≤ p) (hi : (s.part p).ignoresResume) :
    resumeEffect e t s = completeSt t stState s := by
  subst hp
  simp [resumeEffect, h, hi.1, hi.2]

theorem resumeEffect_of_named (h : ¬ 16 ≤ p) (hi : ¬ (s.part p).ignoresResume) : resumeEffect e t s = resumePart p t s := by
  subst hp
  simp only [resumeEffect, if_neg h]
  exact if_neg (by simpa [Part.ignoresResume] using hi)

end

section
variable {q e : Nat} {k : Ticket} {s : State}

theorem exec_partitionPark_of_front (h : Front opPartitionPark 0 q e k s) :
    exec (.partitionPark 0 q) s = .next (parkEffect e k (popEntry 0 q s)) :=
  congrArg Host.Outcome.next (onEntry_act _ _ _ _ _ _ _ h)

theorem exec_partitionResume_of_front (h : Front opPartitionResume 0 q e k s) :
    exec (.partitionResume 0 q) s = .next (resumeEffect e k (popEntry 0 q s)) :=
  congrArg Host.Outcome.next (onEntry_act _ _ _ _ _ _ _ h)

end

/-- Settles O39: each request is refused, ignored with STATE, or put down with the boundary that it names; the entry that asks for it
has changed no partition. -/
theorem parkRequestsNameABoundary : Obligations.ParkRequestsNameABoundary := by
  refine ⟨fun s q e k h => ?park, fun s q e k h => ?resume⟩
  case park =>
    rw [exec_partitionPark_of_front h]
    extract_lets p pt u
    have hpart : u.part p = pt := popEntry_part 0 q s p
    split
    next hp => rw [parkEffect_of_invalid rfl hp]
    next hp =>
      split
      next hi => rw [parkEffect_of_ignored rfl hp (hpart ▸ hi)]
      next hi =>
        rw [parkEffect_of_named rfl hp (hpart ▸ hi), hpart]
        rfl
  case resume =>
    rw [exec_partitionResume_of_front h]
    extract_lets p pt u
    have hpart : u.part p = pt := popEntry_part 0 q s p
    split
    next hp => rw [resumeEffect_of_invalid rfl hp]
    next hp =>
      split
      next hi => rw [resumeEffect_of_ignored rfl hp (hpart ▸ hi)]
      next hi =>
        have hresume := resumePart_kept p k u
        have hkept : Kept [.host, .tick, .pwr] s (resumePart p k u) :=
          .step (by decide) (.step (by decide) (.refl _ s) (popEntry_frame 0 q s)) hresume
        refine ⟨_, congrArg _ (resumeEffect_of_named rfl hp (hpart ▸ hi)), hkept.off, hresume.off.same .host (by decide), ?_⟩
        rw [part_resumePart, hpart]
        rfl

end Sys2Proof.Machine
end

section
/-!
What a tick is made of, through everything that happens at a boundary: the Tick Units and TICK_CFG stay as they are while blocks
are written, records are sent, frames are paged and units are exchanged.
-/

namespace Sys2Proof.Machine

open Sys2Proof

section
variable {L : List Comp} {s t : State}

theorem Kept.adm_eq (h : Kept L s t) (hL : Comp.adm ∉ L) : t.adm = s.adm := h.off.same .adm hL

theorem Kept.part (h : Kept L s t) (hL : Comp.tick ∉ L) (p : Nat) : t.part p = s.part p := by
  simp only [State.part, h.tick_eq hL]

theorem Kept.tickCfg (h : Kept L s t) (hL : Comp.reg ∉ L) (p : Nat) : t.tickCfg p = s.tickCfg p := by
  simp only [State.tickCfg, h.reg_eq hL]

end

/-- The Tick Units and the written TICK_CFG are the same. -/
structure TicksKept (s t : State) : Prop where
  parts : t.tick.parts = s.tick.parts
  cfg : t.reg.tickCfg = s.reg.tickCfg

theorem TicksKept.refl (s : State) : TicksKept s s := ⟨rfl, rfl⟩

theorem TicksKept.trans {s t u : State} (h : TicksKept s t) (k : TicksKept t u) : TicksKept s u :=
  ⟨k.parts.trans h.parts, k.cfg.trans h.cfg⟩

/-- Follow a change that touches neither by another. -/
theorem TicksKept.after_eq {s t u : State} (h : TicksKept t u) (hp : t.tick.parts = s.tick.parts)
    (hc : t.reg.tickCfg = s.reg.tickCfg) : TicksKept s u :=
  .trans ⟨hp, hc⟩ h

theorem TicksKept.of_kept {L : List Comp} {s t : State} (h : Kept L s t)
    (hL : Comp.tick ∉ L ∧ Comp.reg ∉ L := by decide) : TicksKept s t :=
  ⟨congrArg Tick.parts (h.tick_eq hL.1), congrArg Regs.tickCfg (h.reg_eq hL.2)⟩

theorem TicksKept.ite {s t u : State} {p : Prop} {_ : Decidable p} (ht : TicksKept s t) (hu : TicksKept s u) :
    TicksKept s (if p then t else u) := by
  split <;> assumption

theorem TicksKept.ite_snd {α : Type} {s : State} {a b : α × State} {p : Prop} {_ : Decidable p} (ha : TicksKept s a.2)
    (hb : TicksKept s b.2) : TicksKept s (if p then a else b).2 := by
  split <;> assumption

theorem TicksKept.snd {α : Type} {s t : State} {a : α} (h : TicksKept s t) : TicksKept s (a, t).2 := h

theorem TicksKept.foldl {α : Type} {f : State → α → State} (hf : ∀ t x, TicksKept t (f t x)) (l : List α) (s : State) :
    TicksKept s (l.foldl f s) :=
  foldl_inv (TicksKept s ·) f l s (.refl s) (fun t x h => h.trans (hf t x))

theorem TicksKept.part {s t : State} (h : TicksKept s t) (p : Nat) : t.part p = s.part p := by
  simp only [State.part, h.parts]

theorem TicksKept.tickCfg {s t : State} (h : TicksKept s t) (p : Nat) : t.tickCfg p = s.tickCfg p := by
  simp only [State.tickCfg, h.cfg]

/-! ## Blocks -/

theorem addMmuStat_ticks (f hi lo n : Nat) (s : State) : TicksKept s (addMmuStat f hi lo n s) := ⟨rfl, rfl⟩

theorem noteWork_ticks (kind die f n : Nat) (s : State) : TicksKept s (noteWork kind die f n s) := ⟨rfl, rfl⟩

theorem verifyBlk_ticks (f die : Nat) (core : Option Nat) (dva : Nat) (b : Block) (s : State) :
    TicksKept s (verifyBlk f die core dva b s).2 :=
  .ite_snd (.refl s) ((addMmuStat_ticks ..).trans (.of_kept (raiseMem_frame ..)))

theorem deliver_ticks (f die key : Nat) (core : Option Nat) (dva : Nat) (b : Block) (s : State) :
    TicksKept s (deliver f die key core dva b s).2 :=
  .ite_snd (.trans (.of_kept (raiseMem_frame ..)) (verifyBlk_ticks ..)) (verifyBlk_ticks ..)

theorem fillPage_ticks (f dva : Nat) (r : PteRef) (failed : List Nat) (s : State) : TicksKept s (fillPage f dva r failed s) := by
  unfold fillPage
  extract_lets e ba bad blk _ u v w
  have hv : TicksKept s v := .trans (t := u) ⟨rfl, rfl⟩ (.of_kept (State.setPte_frame ..))
  have hw : TicksKept s w := hv.trans (addMmuStat_ticks ..)
  exact .ite hw (hw.trans (.of_kept (raiseMem_frame ..)))

theorem ensurePresent_ticks (f dva : Nat) (core : Option Nat) (l : Loc) (s : State) :
    TicksKept s (ensurePresent f dva core l s) := by
  unfold ensurePresent
  split
  · split
    · extract_lets here wrote _ u
      have hu : TicksKept s u := by
        refine .trans ?_ (.of_kept (noteHostWait_frame ..))
        exact (fillPage_ticks ..).after_eq rfl rfl
      clear_value u
      exact .ite (hu.trans (.of_kept (State.setPte_frame ..))) hu
    · exact .refl s
  · exact .refl s

theorem writeBlk_ticks (f p : Nat) (core : Option Nat) (dva : Nat) (b : Block) (s : State) :
    TicksKept s (writeBlk f p core dva b s) := by
  unfold writeBlk
  extract_lets l
  refine .ite (.of_kept (outOfWindow_frame ..)) (.trans (verifyBlk_ticks f l.die core dva b s) ?_)
  obtain ⟨c, t⟩ := verifyBlk f l.die core dva b s
  cases l with
  | bad => exact .refl t
  | peer m off => exact .of_kept (outOfWindow_frame ..)
  | host a w wr => exact ⟨rfl, rfl⟩
  | as c line => exact .of_kept (State.setAs_frame ..)
  | cm cl line => exact .of_kept (State.setCm_frame ..)
  | hbm r pte hpa w wr =>
    have hopen : TicksKept t (openZeroPage r (ensurePresent f dva core (.hbm r pte hpa w wr) t)) :=
      (ensurePresent_ticks ..).trans (.of_kept (openZeroPage_frame ..))
    refine .trans (.trans ?_ (noteWork_ticks ..)) (.of_kept (State.setHbm_frame ..))
    exact .ite (hopen.trans (.of_kept (State.setPte_frame ..))) hopen

theorem readBlk_ticks (f p : Nat) (core : Option Nat) (dva : Nat) (s : State) : TicksKept s (readBlk f p core dva s).2 := by
  unfold readBlk
  split
  · exact .of_kept (outOfWindow_frame ..)
  · exact .of_kept (outOfWindow_frame ..)
  · exact .ite_snd (.of_kept (raiseMem_frame ..)) (.refl s)
  · split
    · exact deliver_ticks ..
    · have hmiss := addMmuStat_ticks f 63 48 1 s
      exact .ite_snd (hmiss.trans (.of_kept (raiseMem_frame ..))) hmiss
  · exact deliver_ticks ..
  · refine .ite_snd (.refl s) ?_
    extract_lets u b d
    have hu : TicksKept s u := ensurePresent_ticks ..
    exact .ite_snd hu (hu.trans ((noteWork_ticks ..).trans (deliver_ticks ..)))

theorem readPage_ticks (fn p imageVa : Nat) (s : State) : TicksKept s (readPage fn p imageVa s).2 := by
  unfold readPage
  have hhdr := readBlk_ticks fn p none (imageVa - 256) s
  refine .ite_snd hhdr (foldl_inv (fun x : List (List Byte) × List Nat × State => TicksKept s x.2.2) _ _ _ hhdr ?_)
  exact fun x i h => h.trans (readBlk_ticks ..)

theorem writeZeroImage_ticks (fn va : Nat) (s : State) : TicksKept s (writeZeroImage fn va s) :=
  (writeBlk_ticks ..).trans (.foldl (fun _ _ => writeBlk_ticks ..) _ _)

theorem writeImage_ticks (fn va : Nat) (h : PageHdr) (dense : List Nat) (bad : Nat → Bool) (s : State) :
    TicksKept s (writeImage fn va h dense bad s) :=
  (writeBlk_ticks ..).trans (.foldl (fun _ _ => writeBlk_ticks ..) _ _)

/-! ## Changes of translations -/

theorem egressBlk_ticks (f k dva : Nat) (s : State) : TicksKept s (egressBlk f k dva s).2 :=
  .ite_snd (.refl s) (deliver_ticks ..)

theorem writeBack_ticks (r : PteRef) (s : State) : TicksKept s (writeBack r s) := by
  unfold writeBack
  refine .ite (.trans (.foldl (fun t i => ?_) _ s) (.of_kept (State.setPte_frame ..))) (.refl s)
  exact (egressBlk_ticks r.fn (ptePfn (s.pte r) * 256 + i) 0 t).trans ⟨rfl, rfl⟩

theorem mmuOpPage_ticks (op : MmuOp) (f w : Nat) (s : State) (rp : PteRef × Nat) : TicksKept s (mmuOpPage op f w s rp) := by
  cases op with
  | unmap => exact (writeBack_ticks ..).trans (.of_kept (clearPte_frame ..))
  | disable win => exact (writeBack_ticks ..).trans (.of_kept (clearPte_frame ..))
  | protect wr => exact .of_kept (State.setPte_frame ..)
  | syncIn => exact (writeBack_ticks ..).trans (.ite (.of_kept (State.setPte_frame ..)) (.refl _))

theorem applyMmuOp_ticks (op : MmuOp) (f w lo n : Nat) (s : State) : TicksKept s (applyMmuOp op f w lo n s) := by
  have hpages := TicksKept.foldl (mmuOpPage_ticks op f w) (s.pagesIn f w lo (lo + n)) s
  unfold applyMmuOp
  split
  · exact hpages.trans ⟨rfl, rfl⟩
  · exact hpages

theorem applyMmuPend_ticks (f : Nat) (s : State) : TicksKept s (applyMmuPend f s) := by
  unfold applyMmuPend
  extract_lets mine _ u
  have hu : TicksKept s u := ⟨rfl, rfl⟩
  refine hu.trans (.foldl (fun t m => ?_) mine u)
  refine .trans (applyMmuOp_ticks m.op f (m.dva / 2 ^ 32) (m.dva % 2 ^ 32) m.pages t) ?_
  split
  · exact .refl _
  · exact .of_kept (completeSt_frame ..)

/-! ## Frames -/

theorem pageOutImage_ticks (fn lf : Nat) (f : Frame) (flips : List CellFlip) (s : State) :
    TicksKept s (pageOutImage fn lf f flips s) := by
  unfold pageOutImage
  split
  · exact .refl s
  · exact (writeImage_ticks ..).trans (.of_kept (State.setFrame_frame ..))

theorem evictOne_ticks (fn lf : Nat) (flips : List CellFlip) (s : State) : TicksKept s (evictOne fn lf flips s).2 := by
  unfold evictOne
  split
  · exact .refl s
  · refine .ite_snd (.of_kept (evictFrame_frame ..)) (.ite_snd ?_ (.of_kept (raiseMem_frame ..)))
    exact (pageOutImage_ticks ..).trans (.of_kept (evictFrame_frame ..))

theorem evictUntil_ticks (fn c : Nat) (keep : Nat → Bool) (done : State → Bool) (n : Nat) (skip : List Nat) (s : State) :
    TicksKept s (evictUntil fn c keep done n skip s).2 := by
  induction n generalizing skip s with
  | zero => exact .refl s
  | succ n ih =>
    unfold evictUntil
    refine .ite_snd (.refl s) ?_
    split
    · exact .refl s
    · exact (evictOne_ticks ..).trans (ih ..)

theorem evictExcess_ticks (s : State) : TicksKept s (evictExcess s) :=
  .foldl (fun t _ => .ite (.refl t) (evictUntil_ticks ..)) _ s

theorem loadImageArea_ticks (fn : Nat) (f : Frame) (pg : Page) (s : State) : TicksKept s (loadImageArea fn f pg s) :=
  .ite (.refl s) (writeImage_ticks ..)

theorem hostSwaps_ticks (s : State) : TicksKept s (hostSwaps s) := by
  unfold hostSwaps
  extract_lets due
  refine .foldl (fun t x => ?_) due s
  extract_lets fn lf u
  have hu : TicksKept t u := .of_kept (swapFrame_frame ..)
  clear_value u
  split
  · extract_lets pm pg w
    have hw : TicksKept t w := hu.trans (loadImageArea_ticks ..)
    split
    · exact hw.trans (.of_kept (completeSt_frame ..))
    · exact hw
  · exact hu

theorem loadInPlace_ticks (fn lf : Nat) (f : Frame) (pg : Page) (flips : List CellFlip) (s : State) :
    TicksKept s (loadInPlace fn lf f pg flips s) := by
  unfold loadInPlace
  split
  · exact .refl s
  · extract_lets sp comp u v _ w
    have hv : TicksKept s v := .trans (.of_kept (writePage_frame ..)) (.foldl (fun _ _ => .of_kept (writePage_frame ..)) _ u)
    have hw : TicksKept s w := hv.trans (.of_kept (State.setFrame_frame ..))
    exact hw.trans (loadImageArea_ticks ..)

theorem loadAct_ticks {t : Ticket} {fn lf : Nat} {pg : Page} {flips : List CellFlip} {s u : State}
    (h : loadAct t fn lf pg flips s = some u) : TicksKept s u := by
  unfold loadAct at h
  split at h
  · cases h
    exact .of_kept (completeSt_frame ..)
  · split_ifs at h
    · cases h
      exact (loadImageArea_ticks ..).trans (.trans (.of_kept (State.setFrame_frame ..)) (.of_kept (completeSt_frame ..)))
    · cases h
      exact (loadInPlace_ticks ..).trans (.of_kept (completeSt_frame ..))
    · extract_lets keep need r at h
      have hr : TicksKept s r.2 := evictUntil_ticks ..
      split_ifs at h
      cases h
      exact hr.trans (.of_kept (loadShadow_frame ..))

theorem loadTry_ticks (t : Ticket) (fn lf va : Nat) (flips : List CellFlip) (s : State) :
    TicksKept s (loadTry t fn lf va flips s) := by
  unfold loadTry
  refine .ite (.of_kept (completeSt_frame ..)) (.ite (.of_kept (refuseCmd_frame ..)) ?_)
  have hread := readPage_ticks fn 0 va s
  generalize readPage fn 0 va s = x at hread ⊢
  obtain ⟨pg, u⟩ := x
  cases pg with
  | none => exact hread.trans (.of_kept (refuseCmd_frame ..))
  | some pg =>
    dsimp only
    split
    · rename_i hact
      split_ifs at hact
      exact hread.trans (loadAct_ticks hact)
    · exact ⟨rfl, rfl⟩

theorem allocBacked_ticks (fn c first count va : Nat) (s : State) : TicksKept s (allocBacked fn c first count va s) :=
  .foldl (fun _ _ => .trans (.of_kept (State.setFrame_frame ..)) (writeZeroImage_ticks ..)) _ s

theorem allocEffect_ticks (e : Nat) (t : Ticket) (s : State) : TicksKept s (allocEffect e t s) := by
  unfold allocEffect
  extract_lets fn c first count va keep r u
  have hr : TicksKept s r.2 := evictUntil_ticks ..
  have hu : TicksKept s u := hr.trans (.of_kept (allocUnbacked_frame ..))
  split_ifs
  · exact .of_kept (completeSt_frame ..)
  · exact .of_kept (completeSt_frame ..)
  · exact .of_kept (refuseCmd_frame ..)
  · exact (allocBacked_ticks ..).trans (.of_kept (completeSt_frame ..))
  · exact .of_kept (refuseCmd_frame ..)
  · exact ⟨hu.parts, hu.cfg⟩
  · exact hr.trans (.of_kept (refuseCmd_frame ..))

theorem allocTry_ticks (e : Nat) (t : Ticket) (s : State) : TicksKept s (allocTry e t s) :=
  .ite ⟨rfl, rfl⟩ (allocEffect_ticks ..)

theorem retryWaits_ticks (s : State) : TicksKept s (retryWaits s) := by
  unfold retryWaits
  extract_lets todo _ u
  refine (TicksKept.foldl (fun t w => ?_) todo u).after_eq rfl rfl
  cases w with
  | alloc t' fn first count => exact .refl t
  | free t' fn first count => exact .of_kept (freeTry_frame ..)
  | load t' fn frame image => exact loadTry_ticks ..
  | later t' e => exact allocTry_ticks ..

/-! ## Records to other modules -/

theorem egressSeg_ticks (l : Nat) (r : LinkRecord) (i : Nat) (seg : BitVec 128 × BlockData) (s : State) :
    TicksKept s (egressSeg l r i seg s).2 := by
  unfold egressSeg
  exact .snd (verifyBlk_ticks ..)

theorem egressAll_ticks (l : Nat) (r : LinkRecord) (s : State) : TicksKept s (egressAll l r s).2 := by
  unfold egressAll
  exact foldl_inv (fun a : List (BitVec 128 × BlockData) × State => TicksKept s a.2) _ _ _ (.refl s)
    (fun _ _ h => .snd (h.trans (egressSeg_ticks ..)))

theorem transmit_ticks (l i : Nat) (r : LinkRecord) (s : State) : TicksKept s (transmit l i r s) := by
  unfold transmit
  refine (egressAll_ticks l r s).trans (.trans (.trans ?_ (noteWork_ticks ..)) (.of_kept (noteSent_frame ..)))
  exact .trans (.of_kept (State.setLink_frame ..)) (.of_kept (sendMsg_frame ..))

theorem pump_ticks (l n : Nat) (s : State) : TicksKept s (pump l n s) := by
  induction n generalizing s with
  | zero => exact .refl s
  | succ n ih =>
    unfold pump
    split
    · exact .refl s
    · split
      · exact .refl s
      · exact (transmit_ticks ..).trans (ih _)

theorem sendRecord_ticks (r : LinkRecord) (s : State) : TicksKept s (sendRecord r s).2 := by
  unfold sendRecord
  split
  · exact .refl s
  · exact .trans (.of_kept (State.setLink_frame ..)) (pump_ticks ..)

theorem sendArrive_ticks (p fn m gate : Nat) (s : State) : TicksKept s (sendArrive p fn m gate s) := by
  unfold sendArrive
  extract_lets r
  have hsent := sendRecord_ticks r s
  generalize sendRecord r s = x at hsent ⊢
  obtain ⟨routed, u⟩ := x
  cases routed with
  | true => exact hsent
  | false => exact hsent.trans (.of_kept (raiseRoute_frame ..))

/-! ## Exchanged units -/

theorem freshSlips_ticks (c : Nat) (s : State) : TicksKept s (freshSlips c s) :=
  (TicksKept.of_kept (State.setCore_frame ..)).trans ⟨rfl, rfl⟩

theorem setMac_moveChecks_ticks (src dst : Nat) (m : Mac) (s : State) : TicksKept s (moveChecks src dst (s.setMac dst m)) :=
  .trans (.of_kept (State.setMac_frame ..)) (.of_kept (moveChecks_frame ..))

theorem moveCore_ticks (c : Nat) {remap : State → State} {s : State} (h : TicksKept s (remap s)) :
    TicksKept s (moveCore c remap s) :=
  h.trans (.foldl (fun t _ => .ite (.refl t) (setMac_moveChecks_ticks ..)) _ _)

theorem setMacroSt_ticks (pm v : Nat) (s : State) : TicksKept s (setMacroSt pm v s) := ⟨rfl, rfl⟩

theorem raiseMnt_ticks (code unit info : Nat) (s : State) : TicksKept s (raiseMnt code unit info s) :=
  .of_kept (raiseMnt_frame ..)

theorem bumpRepairs_ticks (d : Nat) (s : State) : TicksKept s (bumpRepairs d s) := ⟨rfl, rfl⟩

theorem applyChange_ticks (ch : MapChange) (s : State) : TicksKept s (applyChange ch s) := by
  unfold applyChange
  split
  · exact ⟨rfl, rfl⟩
  · extract_lets _ u
    have hu : TicksKept s u := .of_kept (State.setMac_frame ..)
    exact .ite (hu.trans (.trans (raiseMnt_ticks ..) (bumpRepairs_ticks ..))) hu
  · extract_lets u
    have hu : TicksKept s u := (setMacroSt_ticks ..).trans (raiseMnt_ticks ..)
    exact ⟨hu.parts, hu.cfg⟩
  · exact setMacroSt_ticks ..
  · exact .of_kept (State.setMac_frame ..)
  · extract_lets c old u _ w
    have hu : TicksKept s u := moveCore_ticks c ⟨rfl, rfl⟩
    have hw : TicksKept s w := ⟨hu.parts, hu.cfg⟩
    exact hw.trans ((raiseMnt_ticks ..).trans (.trans (freshSlips_ticks ..) (bumpRepairs_ticks ..)))
  · extract_lets old remap s0 u _ _ w x
    have hu : TicksKept s u := by
      refine (TicksKept.foldl (fun t k => ?_) (List.range 16) (remap s)).after_eq rfl rfl
      exact .foldl (fun _ _ => setMac_moveChecks_ticks ..) _ t
    have hw : TicksKept s w := ⟨hu.parts, hu.cfg⟩
    have hx : TicksKept s x := hw.trans (.foldl (fun _ _ => freshSlips_ticks ..) _ w)
    exact hx.trans ((raiseMnt_ticks ..).trans (bumpRepairs_ticks ..))

theorem applyTrim_ticks (t : TrimPend) (s : State) : TicksKept s (applyTrim t s) := .of_kept (applyTrim_frame ..)

theorem applyChanges_ticks (p : Option Nat) (s : State) : TicksKept s (applyChanges p s) := by
  unfold applyChanges
  extract_lets due trims _ u
  have htrims : ∀ t, TicksKept t (trims.foldl (fun s x => applyTrim x s) t) := fun t => .foldl (fun _ _ => applyTrim_ticks ..) _ t
  refine TicksKept.after_eq (t := u) (.trans (.foldl (fun t r => ?_) _ u) (htrims _)) rfl rfl
  exact .foldl (fun _ _ => applyChange_ticks ..) _ t

theorem substituteFor_ticks (cores : List Nat) (s : State) : TicksKept s (substituteFor cores s) := by
  unfold substituteFor
  extract_lets due _ u
  exact (TicksKept.foldl (fun _ _ => applyChange_ticks ..) due u).after_eq rfl rfl

theorem endWindows_ticks (p : Nat) (s : State) : TicksKept s (endWindows p s) := by
  unfold endWindows
  extract_lets mine beyond _ u
  refine (TicksKept.foldl (fun t w => ?_) mine u).after_eq rfl rfl
  exact ⟨rfl, rfl⟩

end Sys2Proof.Machine
end

section
/-!
Executions through a boundary: what happens at a boundary besides commit and count of held ticks makes queued executions start, or
leave, and takes every execution in progress or absorbed as it is.
-/

namespace Sys2Proof.Machine

open Sys2Proof

/-! ## The executions of one number -/

/-- The executions of number i: one at most where the numbers are distinct. -/
def State.execsOf (s : State) (i : Nat) : List Exec := s.adm.execs.filter (fun e => e.id == i)

theorem mem_execsOf {s : State} {i : Nat} {e : Exec} : e ∈ s.execsOf i ↔ e ∈ s.adm.execs ∧ e.id = i := by
  simp [State.execsOf]

theorem exec?_eq_some {s : State} {i : Nat} {e : Exec} (h : s.exec? i = some e) : e ∈ s.execsOf i :=
  mem_execsOf.2 ⟨List.mem_of_find?_eq_some h, by simpa using List.find?_some h⟩

theorem execsOf_congr {s t : State} (h : t.adm.execs = s.adm.execs) (i : Nat) : t.execsOf i = s.execsOf i := by
  simp only [State.execsOf, h]

/-- An element of a list of executions with distinct numbers, and those before and after it. -/
theorem exists_append_cons_of_mem {l : List Exec} (hn : (l.map (·.id)).Nodup) {e : Exec} (he : e ∈ l) :
    ∃ l₁ l₂, l = l₁ ++ e :: l₂ ∧ (∀ x ∈ l₁, x.id ≠ e.id) ∧ ∀ x ∈ l₂, x.id ≠ e.id := by
  obtain ⟨l₁, l₂, rfl⟩ := List.append_of_mem he
  rw [List.map_append, List.map_cons, List.nodup_middle, List.nodup_cons] at hn
  have hne : ∀ x ∈ l₁ ++ l₂, x.id ≠ e.id := fun x hx hid =>
    hn.1 (List.map_append ▸ hid ▸ List.mem_map_of_mem hx)
  exact ⟨l₁, l₂, rfl, fun x hx => hne x (List.mem_append_left _ hx), fun x hx => hne x (List.mem_append_right _ hx)⟩

theorem execsOf_of_nodup {s : State} (hn : (s.adm.execs.map (·.id)).Nodup) {e : Exec} (he : e ∈ s.adm.execs) :
    s.execsOf e.id = [e] := by
  obtain ⟨l₁, l₂, hl, h₁, h₂⟩ := exists_append_cons_of_mem hn he
  have hnil : ∀ l : List Exec, (∀ x ∈ l, x.id ≠ e.id) → l.filter (fun x => x.id == e.id) = [] := fun l h =>
    List.filter_eq_nil_iff.2 (by simpa using h)
  simp [State.execsOf, hl, hnil l₁ h₁, hnil l₂ h₂]

theorem execsOf_map {s t : State} {f : Exec → Exec} (h : t.adm.execs = s.adm.execs.map f) (hf : ∀ x, (f x).id = x.id) (i : Nat) :
    t.execsOf i = (s.execsOf i).map f := by
  have hid : (fun e : Exec => e.id == i) ∘ f = fun e => e.id == i := funext fun x => by simp [hf]
  simp only [State.execsOf, h, List.filter_map, hid]

theorem execsOf_setExec (e : Exec) (s : State) (i : Nat) :
    (setExec e s).execsOf i = (s.execsOf i).map (fun x => if x.id = e.id then e else x) :=
  execsOf_map rfl (fun x => by split <;> simp_all) i

theorem execsOf_setExec_self (e : Exec) (s : State) : (setExec e s).execsOf e.id = (s.execsOf e.id).map (fun _ => e) := by
  rw [execsOf_setExec]
  exact List.map_congr_left fun x hx => if_pos (mem_execsOf.1 hx).2

theorem execsOf_setExec_ne {e : Exec} {i : Nat} (h : e.id ≠ i) (s : State) : (setExec e s).execsOf i = s.execsOf i := by
  rw [execsOf_setExec, List.map_congr_left (g := id), List.map_id]
  exact fun x hx => if_neg fun hid => h (hid.symm.trans (mem_execsOf.1 hx).2)

theorem execsOf_dropExec_self (i : Nat) (s : State) : (dropExec i s).execsOf i = [] := by
  simp [State.execsOf, dropExec, List.filter_filter]

theorem execsOf_dropExec_ne {j i : Nat} (h : j ≠ i) (s : State) : (dropExec j s).execsOf i = s.execsOf i := by
  simp only [State.execsOf, dropExec, List.filter_filter]
  refine List.filter_congr fun x _ => ?_
  by_cases hx : x.id = i
  · simp [hx, h.symm]
  · simp [hx]

/-! ## Carrying on -/

/-- What the ticks of an execution are counted in. -/
def Exec.progress (e : Exec) : Nat × ExecPhase × Plan × Nat × Nat := (e.id, e.phase, e.plan, e.planTick, e.heldCnt)

/-- No more than one execution has number i, and it has started. -/
structure Settled (i : Nat) (s : State) : Prop where
  single : (s.execsOf i).length ≤ 1
  started : ∀ e ∈ s.execsOf i, isQueued e.phase = false

theorem Settled.ne_of_queued {i : Nat} {s : State} (h : Settled i s) {e : Exec} (he : e ∈ s.adm.execs) (hq : isQueued e.phase) :
    e.id ≠ i := by
  intro hid
  have hs := h.started e (mem_execsOf.2 ⟨he, hid⟩)
  simp [hs] at hq

theorem Settled.execsOf_eq {i : Nat} {s : State} (h : Settled i s) {e : Exec} (he : e ∈ s.execsOf i) : s.execsOf i = [e] := by
  obtain ⟨x, hx⟩ := List.length_eq_one_iff.1 (le_antisymm h.single (List.length_pos_of_mem he))
  rw [hx, List.mem_singleton] at he
  rw [hx, he]

theorem settled_of_execsOf_eq {i : Nat} {s : State} {e : Exec} (h : s.execsOf i = [e]) (hq : isQueued e.phase = false) :
    Settled i s :=
  ⟨by simp [h], by simp [h, hq]⟩

/-- An execution of number i that has started stays, with the same phase, plan tick and count of held ticks, or stays away. -/
def ExecsKept (i : Nat) (s t : State) : Prop :=
  Settled i s → (t.execsOf i).map Exec.progress = (s.execsOf i).map Exec.progress

theorem ExecsKept.of_execsOf {i : Nat} {s t : State} (h : Settled i s → t.execsOf i = s.execsOf i) : ExecsKept i s t :=
  fun hs => congrArg _ (h hs)

theorem ExecsKept.of_adm {i : Nat} {s t : State} (h : t.adm.execs = s.adm.execs) : ExecsKept i s t :=
  .of_execsOf fun _ => execsOf_congr h i

theorem ExecsKept.of_kept {i : Nat} {L : List Comp} {s t : State} (h : Kept L s t) (hL : Comp.adm ∉ L := by decide) :
    ExecsKept i s t :=
  .of_adm (congrArg Adm.execs (h.adm_eq hL))

theorem ExecsKept.settled {i : Nat} {s t : State} (h : ExecsKept i s t) (hs : Settled i s) : Settled i t where
  single := by
    have hlen := congrArg List.length (h hs)
    rw [List.length_map, List.length_map] at hlen
    exact hlen ▸ hs.single
  started e he := by
    have hmem : e.progress ∈ (s.execsOf i).map Exec.progress := h hs ▸ List.mem_map_of_mem he
    obtain ⟨x, hx, hxe⟩ := List.mem_map.1 hmem
    have hphase : x.phase = e.phase := congrArg (·.2.1) hxe
    exact hphase ▸ hs.started x hx

theorem ExecsKept.trans {i : Nat} {s t u : State} (h : ExecsKept i s t) (k : ExecsKept i t u) : ExecsKept i s u :=
  fun hs => (k (h.settled hs)).trans (h hs)

/-- Tick Units, TICK_CFG and the started executions of number i carry on as they are. -/
structure CarriesOn (i : Nat) (s t : State) : Prop where
  ticks : TicksKept s t
  execs : ExecsKept i s t

section
variable {i : Nat} {s t u : State}

theorem CarriesOn.refl (i : Nat) (s : State) : CarriesOn i s s := ⟨.refl s, .of_adm rfl⟩

theorem CarriesOn.trans (h : CarriesOn i s t) (k : CarriesOn i t u) : CarriesOn i s u :=
  ⟨h.ticks.trans k.ticks, h.execs.trans k.execs⟩

theorem CarriesOn.of_kept {L : List Comp} (h : Kept L s t)
    (hL : (Comp.tick ∉ L ∧ Comp.reg ∉ L) ∧ Comp.adm ∉ L := by decide) : CarriesOn i s t :=
  ⟨.of_kept h hL.1, .of_kept h hL.2⟩

/-- A change that keeps the Tick Units and leaves the executions alone. -/
theorem CarriesOn.of_ticks {L : List Comp} (h : TicksKept s t) (k : Kept L s t) (hL : Comp.adm ∉ L := by decide) :
    CarriesOn i s t :=
  ⟨h, .of_kept k hL⟩

theorem CarriesOn.ite {p : Prop} {_ : Decidable p} (ht : CarriesOn i s t) (hu : CarriesOn i s u) :
    CarriesOn i s (if p then t else u) := by
  split <;> assumption

end

theorem CarriesOn.foldl {i : Nat} {α : Type} {f : State → α → State} (hf : ∀ t x, CarriesOn i t (f t x)) (l : List α) (s : State) :
    CarriesOn i s (l.foldl f s) :=
  foldl_inv (CarriesOn i s ·) f l s (.refl i s) (fun t x h => h.trans (hf t x))

/-! ## Executions that go back or leave before they start -/

/-- Executions that have not started are taken out one by one, whatever else is done with each. -/
theorem foldl_execsOf_of_queued {i : Nat} {s u : State} {f : State → Exec → State} (l : List Exec) (hs : Settled i s)
    (hl : ∀ e ∈ l, e ∈ s.adm.execs ∧ isQueued e.phase) (hu : u.execsOf i = s.execsOf i)
    (hf : ∀ t e, e.id ≠ i → (f t e).execsOf i = t.execsOf i) : (l.foldl f u).execsOf i = s.execsOf i :=
  List.foldlRecOn (motive := fun t => t.execsOf i = s.execsOf i) l f hu
    (fun t ht e he => (hf t e (hs.ne_of_queued (hl e he).1 (hl e he).2)).trans ht)

theorem execsOf_readmit_ne {e : Exec} {i : Nat} (h : e.id ≠ i) (s : State) : (readmit e s).execsOf i = s.execsOf i :=
  execsOf_dropExec_ne h s

theorem readmit_carriesOn {i : Nat} {e : Exec} {s : State} (he : e ∈ s.adm.execs) (hq : isQueued e.phase) :
    CarriesOn i s (readmit e s) :=
  ⟨.of_kept (readmit_frame ..), .of_execsOf fun hs => execsOf_readmit_ne (hs.ne_of_queued he hq) s⟩

theorem flushPlans_carriesOn (i : Nat) (p : Plan → Bool) (s : State) : CarriesOn i s (flushPlans p s) := by
  refine ⟨.of_kept (flushPlans_frame ..), .of_execsOf fun hs => ?_⟩
  refine foldl_execsOf_of_queued _ hs (fun e he => ?_) rfl (fun t e h => execsOf_readmit_ne h t)
  have hmem := List.mem_filter.1 (List.mem_reverse.1 he)
  exact ⟨hmem.1, (Bool.and_eq_true _ _ ▸ hmem.2).1⟩

theorem endEmpty_carriesOn (i p n : Nat) (s : State) : CarriesOn i s (endEmpty p n s) := by
  refine ⟨.of_kept (endEmpty_frame ..), .of_execsOf fun hs => ?_⟩
  refine foldl_execsOf_of_queued _ hs (fun e he => ?_) rfl (fun t e h => execsOf_dropExec_ne h t)
  obtain ⟨hmem, hq⟩ := List.mem_filter.1 he
  simp only [Bool.and_eq_true] at hq
  exact ⟨hmem, hq.1.1⟩

theorem execsOf_absorbExec_ne {j i : Nat} (h : j ≠ i) (withCompletion : Bool) (s : State) :
    (absorbExec withCompletion j s).execsOf i = s.execsOf i := by
  unfold absorbExec
  split
  · rfl
  · rename_i e he
    have hid : e.id ≠ i := fun hi => h ((mem_execsOf.1 (exec?_eq_some he)).2.symm.trans hi)
    extract_lets u v
    have hv : v.execsOf i = s.execsOf i := by
      unfold v
      split
      · exact execsOf_dropExec_ne h u
      · exact execsOf_setExec_ne (e := { e with phase := .absorbed }) hid u
    split
    · exact hv
    · exact hv

theorem disarmGates_ticks (id : Nat) (s : State) : TicksKept s (disarmGates id s) := ⟨rfl, rfl⟩

theorem absorbExec_ticks (withCompletion : Bool) (id : Nat) (s : State) : TicksKept s (absorbExec withCompletion id s) := by
  unfold absorbExec
  split
  · exact .refl s
  · extract_lets u v
    have hu : TicksKept s u := .trans (.of_kept (mapCores_frame ..)) (disarmGates_ticks ..)
    have hv : TicksKept s v := .ite (hu.trans (.of_kept (dropExec_frame ..))) (hu.trans (.of_kept (setExec_frame ..)))
    exact .ite (hv.trans (.of_kept (complete_frame ..))) hv

/-! ## Preparation (R290) -/

theorem mem_of_nextExec {s : State} {fn p : Nat} {e : Exec} (h : s.nextExec fn p = some e) :
    e ∈ s.adm.execs ∧ isQueued e.phase := by
  have hmem : ∀ x, s.nextExec fn p = some x →
      x ∈ s.adm.execs.filter (fun e => e.ticket.fn = fn ∧ e.plan.key.part = p ∧ isQueued e.phase) := by
    refine List.foldlRecOn (motive := fun b : Option Exec => ∀ x, b = some x → x ∈ _) _ _ (by simp) (fun b hb e he x hx => ?_)
    split at hx
    · cases hx; exact he
    · split at hx
      · cases hx; exact he
      · cases hx; exact hb _ rfl
  obtain ⟨he, hq⟩ := List.mem_filter.1 (hmem e h)
  simp only [decide_eq_true_eq] at hq
  exact ⟨he, hq.2.2⟩

theorem prepareNext_carriesOn (i fn p : Nat) (s : State) : CarriesOn i s (prepareNext fn p s) := by
  unfold prepareNext
  split
  · exact .refl i s
  · rename_i e hnext
    obtain ⟨he, hq⟩ := mem_of_nextExec hnext
    refine .ite (.refl i s) (.ite (readmit_carriesOn he hq) ?_)
    extract_lets r r'
    have hr : Kept [.jr, .host, .fm, .mnt] s r.2 :=
      kept_foldl_snd (fun t x h => h.step (by decide) (prepareFrame_frame e x t.2)) (.refl _ s)
    have hr' : Kept [.jr, .host, .fm, .mnt] s r'.2 :=
      kept_ite_snd (kept_foldl_snd (fun t lf h => h.step (by decide) (prepareShadow_frame e lf t.2)) hr) hr
    clear_value r r'
    have hcarry : CarriesOn i s r'.2 := .of_kept hr'
    have he' : e ∈ r'.2.adm.execs := hr'.adm_eq (by decide) ▸ he
    split
    · refine hcarry.trans ⟨.of_kept (setExec_frame ..), .of_execsOf fun hs => ?_⟩
      have hne : e.id ≠ i := hs.ne_of_queued he' hq
      exact execsOf_setExec_ne (e := { e with phase := .prepared, admitted := r'.2.tick.st }) hne _
    · exact hcarry.trans ⟨absorbExec_ticks .., .of_execsOf fun hs => execsOf_absorbExec_ne (hs.ne_of_queued he' hq) ..⟩
    · exact hcarry

/-- A change of the times of admission leaves the progress of every execution as it is. -/
theorem ExecsKept.of_map_admitted {i : Nat} {s t : State} {f : Exec → Nat}
    (h : t.adm.execs = s.adm.execs.map (fun e => { e with admitted := f e })) : ExecsKept i s t := fun _ => by
  rw [execsOf_map h (fun _ => rfl), List.map_map]
  rfl

theorem reportNext_carriesOn (i fn p : Nat) (s : State) : CarriesOn i s (reportNext fn p s) := by
  have hprep := prepareNext_carriesOn i fn p s
  unfold reportNext
  extract_lets u
  exact .ite (hprep.trans ⟨⟨rfl, rfl⟩, .of_map_admitted rfl⟩) hprep

theorem substFirst_carriesOn (i : Nat) (e : Exec) (s : State) : CarriesOn i s (substFirst e s) := by
  unfold substFirst
  extract_lets u
  have hu : CarriesOn i s u := .of_ticks (substituteFor_ticks ..) (substituteFor_frame ..)
  refine hu.trans ⟨⟨rfl, rfl⟩, .of_map_admitted (f := fun o => if o.id = e.id then u.tick.st else o.admitted) ?_⟩
  exact List.map_congr_left fun o _ => by split <;> rfl

/-! ## Starts (R259) -/

theorem isQueued_of_mayStart {s : State} {e : Exec} {n : Nat} (h : s.mayStart e n) : isQueued e.phase := by
  simp only [State.mayStart, Bool.and_eq_true] at h
  exact h.1.1.1.1

theorem setGate_ticks (g : Nat) (v : Gate) (s : State) : TicksKept s (s.setGate g v) := ⟨rfl, rfl⟩

theorem armGates_ticks (e : Exec) (s : State) : TicksKept s (armGates e s) := by
  unfold armGates
  exact .foldl (fun _ _ => setGate_ticks ..) _ s

theorem startExec_carriesOn {i n : Nat} {e : Exec} {s : State} (he : e ∈ s.adm.execs) (hq : isQueued e.phase) :
    CarriesOn i s (startExec n e s) := by
  refine ⟨(armGates_ticks e s).trans ⟨rfl, rfl⟩, .of_execsOf fun hs => ?_⟩
  have hne : e.id ≠ i := hs.ne_of_queued he hq
  have harm : (armGates e s).execsOf i = s.execsOf i :=
    execsOf_congr (congrArg Adm.execs ((armGates_frame e s).adm_eq (by decide))) i
  exact (execsOf_setExec_ne (e := { e with phase := .running, tick0 := n, planTick := 0 }) hne (armGates e s)).trans harm

theorem startAll_carriesOn (i p n : Nat) (s : State) : CarriesOn i s (startAll p n s) := by
  unfold startAll
  extract_lets ids
  refine .foldl (fun t id => ?_) ids s
  split
  · exact .refl i t
  · refine .ite (substFirst_carriesOn ..) (.ite ?_ (.refl i t))
    extract_lets u
    have hu : CarriesOn i t u := .ite (reportNext_carriesOn ..) (.refl i t)
    clear_value u
    split
    · rename_i e he
      have hmem : e ∈ u.adm.execs := (mem_execsOf.1 (exec?_eq_some he)).1
      split_ifs with hprep hstale hstart
      · exact hu
      · have hphase : e.phase = .prepared := by simpa using hprep
        exact hu.trans (readmit_carriesOn hmem (by rw [hphase]; rfl))
      · exact hu.trans (startExec_carriesOn hmem (isQueued_of_mayStart hstart))
      · exact hu
    · exact hu

/-! ## Pending changes of shares and allotments (R301, R519) -/

theorem fnPartMoved_ticks (f p v : Nat) (s : State) : TicksKept s (fnPartMoved f p v s) := by
  have hput : TicksKept s (fnPartPut f p v s) := ⟨rfl, rfl⟩
  exact hput.trans (.trans (.of_kept (reallotPart_frame ..)) (.of_kept (clearMoved_frame ..)))

theorem setFnPartEff_carriesOn (i f p v : Nat) (s : State) : CarriesOn i s (setFnPartEff f p v s) := by
  have hmoved : CarriesOn i s (fnPartMoved f p v s) := ⟨fnPartMoved_ticks .., .of_adm (congrArg Adm.execs (fnPartMoved_adm ..))⟩
  rw [setFnPartEff_eq]
  exact .ite hmoved (hmoved.trans (flushPlans_carriesOn ..))

theorem applyPartPend_carriesOn (i p : Nat) (s : State) : CarriesOn i s (applyPartPend p s) :=
  applyPartPend_ind (CarriesOn i s ·) p (.refl i s) (fun _ _ h => h.trans ⟨⟨rfl, rfl⟩, .of_adm rfl⟩)
    (fun _ _ _ h => h.trans (setFnPartEff_carriesOn ..))

theorem boundaryChanges_carriesOn (i p : Nat) (adv : Bool) (s : State) : CarriesOn i s (boundaryChanges p adv s) := by
  unfold boundaryChanges
  extract_lets u v w x
  have hu : CarriesOn i s u := applyPartPend_carriesOn ..
  have hmmu : ∀ t f, CarriesOn i t (applyMmuPend f t) := fun t f => .of_ticks (applyMmuPend_ticks f t) (applyMmuPend_frame f t)
  have hv : CarriesOn i s v := hu.trans (.foldl (fun t f => .ite (.refl i t) (hmmu t f)) _ u)
  have hw : CarriesOn i s w := .ite (hv.trans (.of_ticks (hostSwaps_ticks v) (hostSwaps_frame v))) hv
  have hx : CarriesOn i s x := .ite hw (hw.trans (.of_ticks (applyChanges_ticks ..) (applyChanges_frame ..)))
  refine hx.trans (.trans (.of_kept (settleShadows_frame x)) (.trans ?_ (.of_ticks (retryWaits_ticks _) (retryWaits_frame _))))
  exact .of_ticks (evictExcess_ticks _) (evictExcess_frame _)

/-! ## Arrivals at gates (R255) -/

theorem addArrivals_ticks (g n : Nat) (s : State) : TicksKept s (addArrivals g n s) := by
  unfold addArrivals
  extract_lets x u
  have hu : TicksKept s u := setGate_ticks ..
  exact .ite (hu.trans (.of_kept (raise_frame ..))) hu

theorem meetWaiters_ticks (g : Nat) (s : State) : TicksKept s (meetWaiters g s) := by
  unfold meetWaiters
  extract_lets x u
  have hu : TicksKept s u := setGate_ticks ..
  exact .ite (hu.trans (.foldl (fun _ _ => .of_kept (complete_frame ..)) _ u)) (.refl s)

theorem applyArrivals_ticks (p n : Nat) (s : State) : TicksKept s (applyArrivals p n s) := by
  unfold applyArrivals
  extract_lets due _ u v w gs
  have hv : TicksKept u v := .foldl (fun _ _ => addArrivals_ticks ..) due u
  have hw : TicksKept u w := hv.trans (.of_kept (completeAll_frame ..))
  exact (hw.trans (.foldl (fun _ _ => meetWaiters_ticks ..) gs w)).after_eq rfl rfl

theorem applyArrivals_carriesOn (i p n : Nat) (s : State) : CarriesOn i s (applyArrivals p n s) :=
  .of_ticks (applyArrivals_ticks ..) (applyArrivals_frame ..)

/-! ## Commit (R261) -/

theorem commitBlocks_ticks (e : Exec) (s : State) : TicksKept s (commitBlocks e s) := by
  unfold commitBlocks
  refine .foldl (fun t c => ?_) _ s
  exact .trans (.of_kept (State.setCore_frame ..)) (.foldl (fun _ _ => writeBlk_ticks ..) _ _)

/-- What an execution has brought about up to a boundary is there: its swaps, its blocks and its arrivals. -/
def commitResults (e : Exec) (s : State) : State :=
  let fn := e.ticket.fn
  let p := e.plan.key.part
  let s := e.swapsDue.foldl (fun s x => swapFrame fn x.1 x.2 s) s
  let s := commitBlocks e s
  let s := (localArrivals e.plan e.retired).foldl (fun s g => addArrivals g 1 s) s
  (remoteArrivals e.plan e.retired).foldl (fun s x =>
    if x.1 = s.moduleNo then addArrivals x.2 1 s else sendArrive p fn x.1 x.2 s) s

/-- An execution whose results have committed. -/
def Exec.committedAll (e : Exec) : Exec := { e with retired := [], committed := e.committed ++ e.retired, swapsDue := [] }

theorem commitExec_eq_of_some {i : Nat} {s : State} {e : Exec} (h : s.exec? i = some e) :
    commitExec i s = if e.phase ≠ .running then s else setExec e.committedAll (commitResults e s) := by
  simp only [commitExec, h]
  rfl

theorem commitResults_ticks (e : Exec) (s : State) : TicksKept s (commitResults e s) := by
  unfold commitResults
  extract_lets fn p u v w
  have hu : TicksKept s u := .foldl (fun _ _ => .of_kept (swapFrame_frame ..)) _ s
  have hv : TicksKept s v := hu.trans (commitBlocks_ticks ..)
  have hw : TicksKept s w := hv.trans (.foldl (fun _ _ => addArrivals_ticks ..) _ v)
  exact hw.trans (.foldl (fun _ _ => .ite (addArrivals_ticks ..) (sendArrive_ticks ..)) _ w)

theorem commitResults_kept (e : Exec) (s : State) :
    Kept [.jr, .host, .reg, .mem, .fm, .tick, .cores, .net] s (commitResults e s) := by
  unfold commitResults
  extract_lets fn p u v w
  have hu : Kept [.jr, .host, .reg, .mem, .fm, .tick, .cores, .net] s u :=
    kept_foldl (fun _ _ h => h.step (by decide) (swapFrame_frame ..)) (.refl _ s)
  have hv : Kept [.jr, .host, .reg, .mem, .fm, .tick, .cores, .net] s v := hu.step (by decide) (commitBlocks_frame ..)
  have hw : Kept [.jr, .host, .reg, .mem, .fm, .tick, .cores, .net] s w :=
    kept_foldl (fun _ _ h => h.step (by decide) (addArrivals_frame ..)) hv
  exact kept_foldl (fun _ _ h => kept_ite (h.step (by decide) (addArrivals_frame ..)) (h.step (by decide) (sendArrive_frame ..))) hw

theorem commitExec_carriesOn (i j : Nat) (s : State) : CarriesOn i s (commitExec j s) := by
  cases h : s.exec? j with
  | none =>
    simp only [commitExec, h]
    exact .refl i s
  | some e =>
    rw [commitExec_eq_of_some h]
    have hres : CarriesOn i s (commitResults e s) := .of_ticks (commitResults_ticks e s) (commitResults_kept e s)
    refine .ite (.refl i s) (hres.trans ⟨.of_kept (setExec_frame ..), fun hs => ?_⟩)
    by_cases hi : e.id = i
    · subst hi
      have hmem : e ∈ (commitResults e s).execsOf e.id :=
        mem_execsOf.2 ⟨(commitResults_kept e s).adm_eq (by decide) ▸ (mem_execsOf.1 (exec?_eq_some h)).1, rfl⟩
      have hset : (setExec e.committedAll (commitResults e s)).execsOf e.id = [e.committedAll] := by
        rw [show e.id = e.committedAll.id from rfl, execsOf_setExec_self, show e.committedAll.id = e.id from rfl, hs.execsOf_eq hmem]
        rfl
      rw [hset, hs.execsOf_eq hmem]
      rfl
    · exact congrArg _ (execsOf_setExec_ne (e := e.committedAll) hi _)

/-! ## The plan tick after a commit (R261) -/

theorem endExec_ticks (e : Exec) (n : Nat) (s : State) : TicksKept s (endExec e n s) := by
  unfold endExec
  extract_lets u
  have hu : TicksKept s u := (disarmGates_ticks ..).trans (.of_kept (dropExec_frame ..))
  exact .ite (hu.trans (.of_kept (complete_frame ..))) hu

theorem nextPlanTick_ticks (n : Nat) (e : Exec) (s : State) : TicksKept s (nextPlanTick n e s) := by
  unfold nextPlanTick
  split
  · exact .refl s
  · exact .ite (endExec_ticks ..) (.of_kept (setExec_frame ..))

theorem execsOf_endExec (e : Exec) (n : Nat) (s : State) (i : Nat) :
    (endExec e n s).execsOf i = (dropExec e.id s).execsOf i := by
  unfold endExec
  split <;> rfl

theorem execsOf_nextPlanTick_ne {n i : Nat} {e : Exec} (h : e.id ≠ i) (s : State) :
    (nextPlanTick n e s).execsOf i = s.execsOf i := by
  unfold nextPlanTick
  split
  · rfl
  · rename_i x hx
    have hxi : x.id ≠ i := (mem_execsOf.1 (exec?_eq_some hx)).2 ▸ h
    extract_lets y
    split
    · rw [execsOf_endExec]
      exact execsOf_dropExec_ne hxi s
    · exact execsOf_setExec_ne (e := y) hxi s

/-- The execution is at its next plan tick, where it has one; after its last it is gone. -/
theorem execsOf_nextPlanTick_self {n : Nat} {e x : Exec} {s : State} (h : s.execsOf e.id = [x]) :
    (nextPlanTick n e s).execsOf e.id =
      if x.plan.length ≤ x.planTick + 1 then [] else [{ x with planTick := x.planTick + 1 }] := by
  have hid : x.id = e.id := (mem_execsOf.1 (h ▸ List.mem_singleton_self x)).2
  have hx : s.exec? e.id = some x := by
    rw [State.exec?, ← List.head?_filter]
    exact congrArg List.head? h
  simp only [nextPlanTick, hx]
  split
  · rw [execsOf_endExec, ← hid]
    exact execsOf_dropExec_self x.id s
  · rw [← hid] at h ⊢
    rw [show x.id = ({ x with planTick := x.planTick + 1 } : Exec).id from rfl, execsOf_setExec_self]
    exact congrArg _ h

theorem commitPart_ticks (p n : Nat) (s : State) : TicksKept s (commitPart p n s) := by
  unfold commitPart
  extract_lets es u
  have hu : TicksKept s u := .foldl (fun t e => (commitExec_carriesOn 0 e.id t).ticks) es s
  exact hu.trans (.foldl (fun _ _ => nextPlanTick_ticks ..) es u)

theorem foldl_nextPlanTick_ne {n i : Nat} {l : List Exec} (h : ∀ x ∈ l, x.id ≠ i) (s : State) :
    (l.foldl (fun t e => nextPlanTick n e t) s).execsOf i = s.execsOf i :=
  List.foldlRecOn (motive := fun t => t.execsOf i = s.execsOf i) l _ rfl
    (fun t ht e he => (execsOf_nextPlanTick_ne (h e he) t).trans ht)

/-- An advancing boundary takes an execution in progress to its next plan tick, or ends it. -/
theorem commitPart_execs {p n : Nat} {s : State} (hn : (s.adm.execs.map (·.id)).Nodup) {e : Exec} (he : e ∈ s.adm.execs)
    (hrun : e.phase = .running) (hp : e.plan.key.part = p) :
    ((commitPart p n s).execsOf e.id).map Exec.progress =
      if e.plan.length ≤ e.planTick + 1 then [] else [{ e with planTick := e.planTick + 1 }.progress] := by
  have hset : Settled e.id s := settled_of_execsOf_eq (execsOf_of_nodup hn he) (by simp [hrun, isQueued])
  have hmem : e ∈ s.startedOn p := List.mem_filter.2 ⟨he, by simp [hrun, hp]⟩
  have hnodup : ((s.startedOn p).map (·.id)).Nodup := hn.sublist (List.filter_sublist.map _)
  obtain ⟨l₁, l₂, hl, h₁, h₂⟩ := exists_append_cons_of_mem hnodup hmem
  unfold commitPart
  extract_lets es u
  have hu : CarriesOn e.id s u := .foldl (fun _ _ => commitExec_carriesOn ..) es s
  have hprog : (u.execsOf e.id).map Exec.progress = [e.progress] := by
    rw [hu.execs hset, execsOf_of_nodup hn he]
    rfl
  obtain ⟨x, hx, hxe⟩ := List.map_eq_singleton_iff.1 hprog
  have hes : es = l₁ ++ e :: l₂ := hl
  have hbefore : (l₁.foldl (fun t e => nextPlanTick n e t) u).execsOf e.id = [x] := (foldl_nextPlanTick_ne h₁ u).trans hx
  rw [hes, List.foldl_append, List.foldl_cons, foldl_nextPlanTick_ne h₂, execsOf_nextPlanTick_self hbefore]
  simp only [Exec.progress, Prod.mk.injEq] at hxe
  obtain ⟨hid, hphase, hplan, htick, hheld⟩ := hxe
  rw [hplan, htick]
  split
  · rfl
  · simp [Exec.progress, hid, hphase, hheld]

/-- After `commitPart_execs`, the execution is settled. -/
theorem settled_of_progress {s : State} {e : Exec} {i k m : Nat}
    (h : (s.execsOf i).map Exec.progress = if m ≤ k then [] else [{ e with planTick := k }.progress]) (hrun : e.phase = .running) :
    Settled i s := by
  split at h
  · rw [List.map_eq_nil_iff] at h
    exact ⟨by simp [h], by simp [h]⟩
  · obtain ⟨x, hx, hxe⟩ := List.map_eq_singleton_iff.1 h
    have hphase : x.phase = e.phase := congrArg (·.2.1) hxe
    exact settled_of_execsOf_eq hx (by simp [hphase, hrun, isQueued])

/-- A held boundary counts for an execution in progress. -/
theorem heldBoundary_execs {p : Nat} {slip : Bool} {s : State} (hn : (s.adm.execs.map (·.id)).Nodup) {e : Exec}
    (he : e ∈ s.adm.execs) (hrun : e.phase = .running) (hp : e.plan.key.part = p) :
    (heldBoundary p slip s).execsOf e.id = [{ e with heldCnt := e.heldCnt + 1 }] := by
  unfold heldBoundary
  extract_lets w u
  have hu : u.adm = s.adm := by
    unfold u
    split
    · exact (raiseSlip_frame ..).adm_eq (by decide)
    · rfl
  rw [execsOf_map (s := u) rfl (fun x => by split <;> rfl), execsOf_congr (congrArg Adm.execs hu), execsOf_of_nodup hn he]
  simp [hrun, hp]

end Sys2Proof.Machine
end

section
/-!
TICK_BOUNDARY (R207, R261, R264, R349) part by part: the word of the tick is final, the boundary is reached, what it commits or holds,
what it changes, and the tick that begins at it.
-/

namespace Sys2Proof.Machine

open Sys2Proof

/-! ## The boundary is reached -/

/-- The word that ends a tick: the final one, or where none has been taken yet, the merge. -/
def Part.lastWord (pt : Part) : Dword := if pt.hasFinal then pt.final else pt.merged

/-- The word of the tick is final, its boundary has come, and its windows have ended. -/
def boundaryReached (p : Nat) (s : State) : State :=
  let s := pennantFinal p s
  endWindows p (advanceTo (s.part p).next s)

theorem advanceTo_ticks (n : Nat) (s : State) : TicksKept s (advanceTo n s) := ⟨rfl, rfl⟩

theorem boundaryReached_ticks (p : Nat) (s : State) : TicksKept (pennantFinal p s) (boundaryReached p s) :=
  (advanceTo_ticks ..).trans (endWindows_ticks ..)

theorem boundaryReached_tickCfg (p q : Nat) (s : State) : (boundaryReached p s).tickCfg q = s.tickCfg q := by
  rw [(boundaryReached_ticks p s).tickCfg, (pennantFinal_frame p s).tickCfg (by decide)]

theorem boundaryReached_adm (p : Nat) (s : State) : (boundaryReached p s).adm = s.adm :=
  ((endWindows_frame ..).adm_eq (by decide)).trans ((pennantFinal_frame p s).adm_eq (by decide))

theorem endWindows_partPend (p : Nat) (s : State) : (endWindows p s).reg.partPend = s.reg.partPend := by
  unfold endWindows
  extract_lets mine beyond _ u
  exact foldl_inv (fun t : State => t.reg.partPend = s.reg.partPend) _ mine u rfl (fun _ _ h => h)

theorem boundaryReached_partPend (p : Nat) (s : State) : (boundaryReached p s).reg.partPend = s.reg.partPend :=
  (endWindows_partPend ..).trans (congrArg Regs.partPend ((pennantFinal_frame p s).reg_eq (by decide)))

/-- What a Tick Unit holds of the end of its tick: its state, the tick's number and end, and whether it freezes there. -/
def Part.ending (pt : Part) : PartState × Nat × Nat × Bool := (pt.state, pt.tick, pt.next, pt.freezeNext)

theorem pennantFinal_part {p : Nat} {s : State} (ht : s.partTicks p) (hl : (s.part p).lead) :
    ((pennantFinal p s).part p).ending = (s.part p).ending ∧ ((pennantFinal p s).part p).final = (s.part p).lastWord := by
  unfold pennantFinal
  extract_lets pt u w due pt' gone v _ v'
  have hword : pt.hasFinal = false → w = pt.lastWord := fun hf => by simp [w, Part.lastWord, hf]
  split
  next hgo =>
    have hf : pt.hasFinal := by simpa [ht, pt, hl] using hgo
    exact ⟨rfl, by simp [Part.lastWord, pt, hf]⟩
  next hgo =>
    have hf : pt.hasFinal = false := by simpa [ht, pt, hl] using hgo
    split
    · have hv : v'.part p = v.part p := by
        unfold v'
        split <;> rfl
      rw [State.part, completeAll_tick]
      change (v'.part p).ending = _ ∧ (v'.part p).final = _
      rw [hv, part_setPart_self]
      exact ⟨rfl, hword hf⟩
    · rw [part_setPart_self]
      exact ⟨rfl, hword hf⟩

theorem boundaryReached_part {p : Nat} {s : State} (ht : s.partTicks p) (hl : (s.part p).lead) :
    ((boundaryReached p s).part p).ending = (s.part p).ending ∧ ((boundaryReached p s).part p).final = (s.part p).lastWord := by
  rw [(boundaryReached_ticks p s).part]
  exact pennantFinal_part ht hl

/-! ## What the boundary commits or holds, and what it changes -/

/-- Boundary n has committed or is held, and what waited for it there has arrived or ended. -/
def boundaryDone (p n : Nat) (adv slip : Bool) (s : State) : State :=
  applyArrivals p n (endEmpty p n (if adv then commitPart p n (flushLines (s.partClusters p) s) else heldBoundary p slip s))

/-- Pending changes, the clock, the level and the voltages follow at boundary n. -/
def boundarySettled (p n : Nat) (adv : Bool) (pt : Part) (s : State) : State :=
  settleVcore (levelEpoch p n (stepClock p (penTlen pt.final) (penTlen pt.ownWord) (boundaryChanges p adv s)))

/-- The tick that ends at boundary n, with the Tick Unit as it is there, and the next begins. -/
def boundaryPassed (p n : Nat) (pt : Part) (s : State) : State :=
  let adv := pt.state == .running && !penSlip pt.final
  let r := parkResume p n (penSlip pt.final) (boundaryDone p n adv (penSlip pt.final) s)
  settleState (beginTick p n (penTlen pt.final) (adv || r.1) (boundarySettled p n adv pt r.2))

/-- The partition freezes at boundary n (R519). -/
def boundaryFrozen (p n : Nat) (pt : Part) (s : State) : State :=
  settleState (applyPartPend p (s.setPart p { pt with state := .frozen, tick := n, freezeNext := false }))

theorem tickBoundary_eq {p n : Nat} {pt : Part} {s : State} (ht : s.partTicks p) (hl : (s.part p).lead)
    (hpt : (pennantFinal p s).part p = pt) (hn : (pt.tick + 1) % 2 ^ 48 = n) :
    tickBoundary p s =
      if pt.freezeNext then boundaryFrozen p n pt (boundaryReached p s) else boundaryPassed p n pt (boundaryReached p s) := by
  unfold tickBoundary
  rw [if_neg (by simp [ht, hl])]
  simp only [hpt, hn]
  split
  · simp only [boundaryFrozen, boundaryReached, hpt]
  · simp only [boundaryPassed, boundaryDone, boundarySettled, boundaryReached, hpt]

theorem boundaryDone_ticks (p n : Nat) (adv slip : Bool) (s : State) : TicksKept s (boundaryDone p n adv slip s) := by
  refine .trans ?_ (.trans (.of_kept (endEmpty_frame p n _)) (applyArrivals_ticks p n _))
  exact .ite (.trans (.of_kept (flushLines_frame ..)) (commitPart_ticks ..)) (.of_kept (heldBoundary_frame ..))

/-- What `boundaryDone` does after the commit or the held boundary. -/
theorem boundaryDone_execs (i p n : Nat) (adv slip : Bool) (s : State) :
    ExecsKept i (if adv then commitPart p n (flushLines (s.partClusters p) s) else heldBoundary p slip s)
      (boundaryDone p n adv slip s) :=
  ((endEmpty_carriesOn i p n _).trans (applyArrivals_carriesOn i p n _)).execs

/-! ## Park and resume at the boundary -/

theorem parkResume_runs {p n : Nat} {held : Bool} {s : State} (h : (s.part p).state = .running) :
    (parkResume p n held s).1 = false := by
  simp [parkResume, h]

theorem parkResume_next (p n : Nat) (held : Bool) (s : State) :
    ((parkResume p n held s).2.part p).next = (s.part p).next := by
  unfold parkResume
  extract_lets pt parkNow resumeNow pt' waiting due rest _ u v w x
  have htick : x.tick = v.tick := by
    have hw : w.tick = v.tick := by
      unfold w
      split
      · rfl
      · exact completeAll_tick ..
    exact (completeAll_tick ..).trans hw
  have hv : x.part p = v.part p := by
    simp only [State.part, htick]
  rw [hv, part_setPart_self]

/-! ## The level and the rest of what changes -/

theorem levelEpoch_next (p n : Nat) (s : State) : ((levelEpoch p n s).part p).next = (s.part p).next := by
  unfold levelEpoch
  extract_lets pt
  split
  · split
    · rfl
    · rename_i l _
      extract_lets u
      have hu : (u.part p).next = pt.next := by
        unfold u
        rw [part_setPart_self]
      split
      · exact hu
      · rw [(flushPlans_carriesOn 0 _ u).ticks.part]
        exact hu
  · rfl

theorem levelEpoch_execs (i p n : Nat) (s : State) : ExecsKept i s (levelEpoch p n s) := by
  unfold levelEpoch
  extract_lets pt
  split
  · split
    · exact .of_adm rfl
    · extract_lets u
      have hu : ExecsKept i s u := .of_kept (State.setPart_frame ..)
      split
      · exact hu
      · exact hu.trans (flushPlans_carriesOn ..).execs
  · exact .of_adm rfl

theorem boundarySettled_next (p n : Nat) (adv : Bool) (pt : Part) (s : State) :
    ((boundarySettled p n adv pt s).part p).next = (s.part p).next := by
  rw [boundarySettled, (settleVcore_frame _).part (by decide), levelEpoch_next, (stepClock_frame ..).part (by decide),
    (boundaryChanges_carriesOn 0 p adv s).ticks.part]

theorem boundarySettled_tickCfg (p n : Nat) (adv : Bool) (pt : Part) (s : State) (q : Nat) :
    (boundarySettled p n adv pt s).tickCfg q = s.tickCfg q := by
  rw [boundarySettled, (settleVcore_frame _).tickCfg (by decide), (levelEpoch_frame ..).tickCfg (by decide),
    (stepClock_frame ..).tickCfg (by decide), (boundaryChanges_carriesOn 0 p adv s).ticks.tickCfg]

theorem boundarySettled_execs (i p n : Nat) (adv : Bool) (pt : Part) (s : State) :
    ExecsKept i s (boundarySettled p n adv pt s) := by
  refine (boundaryChanges_carriesOn i p adv s).execs.trans (.trans ?_ (.of_kept (settleVcore_frame _)))
  exact .trans (.of_kept (stepClock_frame ..)) (levelEpoch_execs i p n _)

/-! ## The tick that begins -/

/-- The Tick Unit in the tick of number n that ends at `next`. -/
def Part.begun (pt : Part) (n next k : Nat) (fresh : Bool) : Part :=
  { pt with tick := n, next := next, k := min 22 k, prevAdv := fresh, lead := false, merged := 0, round := 0, hasFinal := false }

/-- TICK_CFG as written takes effect. -/
def tickCfgTaken (p : Nat) (s : State) : State :=
  { s with reg := { s.reg with tickCfgEff := tput s.reg.tickCfgEff p (BitVec.ofNat 32 (s.tickCfg p % 2 ^ 18)) } }

theorem tickCfgTaken_period (p : Nat) (s : State) : periodOf ((tickCfgTaken p s).tickCfgEff p) = periodOf (s.tickCfg p) := by
  simp only [State.tickCfgEff, tickCfgTaken, tgetD_tput, if_true, BitVec.toNat_ofNat, periodOf, bitsOf]
  omega

/-- TICK_CFG has taken effect, and the Tick Unit is in the tick of number n. -/
def tickBegun (p n k : Nat) (fresh : Bool) (s : State) : State :=
  let u := tickCfgTaken p s
  u.setPart p ((s.part p).begun n ((s.part p).next + periodOf (u.tickCfgEff p) * 2000 * (8 + min 22 k)) k fresh)

theorem beginTick_carriesOn (i p n k : Nat) (fresh : Bool) (s : State) :
    CarriesOn i (tickBegun p n k fresh s) (beginTick p n k fresh s) := by
  unfold beginTick
  extract_lets _ u pt k' at_ v cores w other x y z
  have hv : tickBegun p n k fresh s = v := rfl
  rw [hv]
  clear_value v
  have hw : CarriesOn i v w := .of_kept (reserveSlots_frame ..)
  have hx : CarriesOn i v x := hw.trans (.of_kept (mapCores_frame ..))
  have hy : CarriesOn i v y := hx.trans (startAll_carriesOn ..)
  have hz : CarriesOn i v z := .ite (hy.trans (.foldl (fun _ _ => .of_kept (loadSlots_frame ..)) _ y)) hw
  exact .ite (hz.trans (.foldl (fun t _ => .ite (.of_kept (openFirst_frame ..)) (.refl i t)) cores z)) (.of_kept (mapCores_frame ..))

theorem beginTick_part (p n k : Nat) (fresh : Bool) (s : State) : (beginTick p n k fresh s).part p =
    (s.part p).begun n ((s.part p).next + periodOf (s.tickCfg p) * 2000 * (8 + min 22 k)) k fresh := by
  rw [(beginTick_carriesOn 0 p n k fresh s).ticks.part, tickBegun, part_setPart_self, tickCfgTaken_period]

theorem beginTick_execs (i p n k : Nat) (fresh : Bool) (s : State) : ExecsKept i s (beginTick p n k fresh s) := by
  have hbegun : ExecsKept i s (tickBegun p n k fresh s) := .of_adm rfl
  exact hbegun.trans (beginTick_carriesOn ..).execs

/-! ## The boundary as a whole -/

section
variable {p n : Nat} {pt : Part} {s : State} (hpt : s.part p = pt) (hrun : pt.state = .running)
include hpt hrun

/-- A partition that runs advances or is held: it does not resume at the boundary. -/
theorem boundaryPassed_eq : boundaryPassed p n pt s =
    settleState (beginTick p n (penTlen pt.final) (!penSlip pt.final) (boundarySettled p n (!penSlip pt.final) pt
      (parkResume p n (penSlip pt.final) (boundaryDone p n (!penSlip pt.final) (penSlip pt.final) s)).2)) := by
  have hpart := (boundaryDone_ticks p n (!penSlip pt.final) (penSlip pt.final) s).part p
  have hresumed := parkResume_runs (n := n) (held := penSlip pt.final) (hpart ▸ hpt ▸ hrun)
  simp only [boundaryPassed, hrun, beq_self_eq_true, Bool.true_and, hresumed, Bool.or_false]

theorem boundaryPassed_part : ∃ q : Part, (boundaryPassed p n pt s).part p =
    q.begun n (pt.next + periodOf (s.tickCfg p) * 2000 * (8 + min 22 (penTlen pt.final))) (penTlen pt.final) (!penSlip pt.final) := by
  have hdone := boundaryDone_ticks p n (!penSlip pt.final) (penSlip pt.final) s
  rw [boundaryPassed_eq hpt hrun, settleState_part, beginTick_part, boundarySettled_next, parkResume_next, hdone.part, hpt,
    boundarySettled_tickCfg, (parkResume_frame ..).tickCfg (by decide), hdone.tickCfg]
  exact ⟨_, rfl⟩

/-- After the commit or the held boundary, executions in progress carry on as they are. -/
theorem boundaryPassed_execs (i : Nat) : ExecsKept i
    (if !penSlip pt.final then commitPart p n (flushLines (s.partClusters p) s) else heldBoundary p (penSlip pt.final) s)
    (boundaryPassed p n pt s) := by
  rw [boundaryPassed_eq hpt hrun]
  refine (boundaryDone_execs i p n (!penSlip pt.final) (penSlip pt.final) s).trans ?_
  refine ExecsKept.trans (.of_kept (parkResume_frame p n (penSlip pt.final) _)) ?_
  exact (boundarySettled_execs i p n _ pt _).trans (.trans (beginTick_execs i p n _ _ _) (.of_kept (settleState_frame _)))

end

section
variable {p n : Nat} {pt : Part} {s : State} {e : Exec} (hpt : s.part p = pt) (hrun : pt.state = .running)
  (hnodup : (s.adm.execs.map (·.id)).Nodup) (he : e ∈ s.adm.execs) (hphase : e.phase = .running) (hep : e.plan.key.part = p)
include hpt hrun hnodup he hphase hep

theorem boundaryPassed_held (hslip : penSlip pt.final) : ∃ e' ∈ (boundaryPassed p n pt s).adm.execs,
    e'.id = e.id ∧ e'.planTick = e.planTick ∧ e'.heldCnt = e.heldCnt + 1 := by
  have hkept := boundaryPassed_execs (n := n) hpt hrun e.id
  rw [hslip, if_neg (by decide)] at hkept
  have hheld := heldBoundary_execs (slip := true) hnodup he hphase hep
  have hprog := hkept (settled_of_execsOf_eq hheld (by simp [hphase, isQueued]))
  rw [hheld, List.map_singleton] at hprog
  obtain ⟨x, hx, hxe⟩ := List.map_eq_singleton_iff.1 hprog
  simp only [Exec.progress, Prod.mk.injEq] at hxe
  obtain ⟨hid, -, -, htick, hcnt⟩ := hxe
  exact ⟨x, (mem_execsOf.1 (hx ▸ List.mem_singleton_self x)).1, hid, htick, hcnt⟩

theorem boundaryPassed_advanced (hslip : penSlip pt.final = false) : ∀ e' ∈ (boundaryPassed p n pt s).adm.execs, e'.id = e.id →
    e'.planTick = e.planTick + 1 ∧ e.planTick + 1 < e.plan.length := by
  intro e' he' hid
  have hkept := boundaryPassed_execs (n := n) hpt hrun e.id
  rw [hslip, if_pos (by decide)] at hkept
  have hflush : (flushLines (s.partClusters p) s).adm = s.adm := (flushLines_frame ..).adm_eq (by decide)
  have hcommit := commitPart_execs (n := n) (hflush ▸ hnodup) (hflush ▸ he) hphase hep
  have hmem : e'.progress ∈ ((boundaryPassed p n pt s).execsOf e.id).map Exec.progress :=
    List.mem_map_of_mem (mem_execsOf.2 ⟨he', hid⟩)
  have hsettled : Settled e.id (commitPart p n (flushLines (s.partClusters p) s)) := settled_of_progress hcommit hphase
  rw [hkept hsettled, hcommit] at hmem
  split at hmem
  · simp at hmem
  · rename_i hlen
    simp only [List.mem_singleton, Exec.progress, Prod.mk.injEq] at hmem
    exact ⟨hmem.2.2.2.1, by omega⟩

end

/-! ## A partition that freezes -/

theorem boundaryFrozen_part (p n : Nat) (pt : Part) (s : State) :
    (boundaryFrozen p n pt s).part p = { pt with state := .frozen, tick := n, freezeNext := false } := by
  rw [boundaryFrozen, settleState_part, (applyPartPend_carriesOn 0 p _).ticks.part, part_setPart_self]

theorem applyPartPend_of_none {p : Nat} {s : State} (h : ∀ y ∈ s.reg.partPend, y.part ≠ p) : applyPartPend p s = s := by
  have hnone : s.reg.partPend.filter (fun x => x.part = p) = [] := List.filter_eq_nil_iff.2 (by simpa using h)
  rw [applyPartPend, hnone]
  rfl

theorem boundaryFrozen_adm {p n : Nat} {pt : Part} {s : State} (h : ∀ y ∈ s.reg.partPend, y.part ≠ p) :
    (boundaryFrozen p n pt s).adm = s.adm := by
  rw [boundaryFrozen, settleState_adm, applyPartPend_of_none (s := s.setPart p _) h]
  rfl

theorem exec_tickBoundary {p : Nat} (hp : p < 16) (s : State) : exec (.tickBoundary p) s = .next (tickBoundary p s) :=
  congrArg Host.Outcome.next (if_pos hp)

section
variable {p : Nat} {s : State} (hticks : s.partTicks p) (hlead : (s.part p).lead)
include hticks hlead

theorem tickBoundary_of_freeze (hf : (s.part p).freezeNext) : tickBoundary p s =
    boundaryFrozen p (((s.part p).tick + 1) % 2 ^ 48) ((boundaryReached p s).part p) (boundaryReached p s) := by
  have hend := (boundaryReached_part hticks hlead).1
  simp only [Part.ending, Prod.mk.injEq] at hend
  obtain ⟨-, htick, -, hfreeze⟩ := hend
  rw [tickBoundary_eq hticks hlead ((boundaryReached_ticks p s).part p).symm (by rw [htick]), hfreeze, if_pos hf]

theorem tickBoundary_of_tick (hf : (s.part p).freezeNext = false) : tickBoundary p s =
    boundaryPassed p (((s.part p).tick + 1) % 2 ^ 48) ((boundaryReached p s).part p) (boundaryReached p s) := by
  have hend := (boundaryReached_part hticks hlead).1
  simp only [Part.ending, Prod.mk.injEq] at hend
  obtain ⟨-, htick, -, hfreeze⟩ := hend
  rw [tickBoundary_eq hticks hlead ((boundaryReached_ticks p s).part p).symm (by rw [htick]), hfreeze, if_neg (by simp [hf])]

end

/-- Settles O43: a boundary is reached with the last word of its tick; the partition freezes there, or commits, or is held, and the next
tick begins. What else happens at the boundary leaves the executions in progress and their Tick Unit as they are. -/
theorem boundariesAdvanceOrHold : Obligations.BoundariesAdvanceOrHold := by
  intro s p hp hrun hlead hnodup pt w
  have hticks : s.partTicks p := by simp [State.partTicks, hrun]
  obtain ⟨hend, hword⟩ := boundaryReached_part hticks hlead
  simp only [Part.ending, Prod.mk.injEq] at hend
  obtain ⟨hstate, -, hnext, -⟩ := hend
  have hadm := boundaryReached_adm p s
  rw [exec_tickBoundary hp]
  refine ⟨_, rfl, ?_⟩
  cases hf : pt.freezeNext with
  | true =>
    rw [tickBoundary_of_freeze hticks hlead hf, boundaryFrozen_part]
    refine ⟨rfl, fun _ => ⟨rfl, fun hpend => ?_⟩, by simp⟩
    rw [boundaryFrozen_adm (by rwa [boundaryReached_partPend]), hadm]
  | false =>
    rw [tickBoundary_of_tick hticks hlead hf]
    have hrun' := hstate.trans hrun
    obtain ⟨q, hq⟩ := boundaryPassed_part (n := (pt.tick + 1) % 2 ^ 48) (s := boundaryReached p s) rfl hrun'
    rw [hnext, hword, boundaryReached_tickCfg] at hq
    rw [hq]
    refine ⟨rfl, by simp, fun _ => ⟨rfl, rfl, rfl, rfl, rfl, fun e he hphase hep => ?_⟩⟩
    have hslip : penSlip ((boundaryReached p s).part p).final = penSlip w := congrArg penSlip hword
    split
    next hw => exact boundaryPassed_held rfl hrun' (hadm ▸ hnodup) (hadm ▸ he) hphase hep (hslip.trans hw)
    next hw =>
      exact boundaryPassed_advanced rfl hrun' (hadm ▸ hnodup) (hadm ▸ he) hphase hep (hslip.trans (Bool.eq_false_iff.2 hw))

end Sys2Proof.Machine
end

section
/-!
Gate commands of a gate's owner (R253-R255, R519).
-/

namespace Sys2Proof.Machine

open Sys2Proof

/-! ## Arrivals that do not meet the target -/

theorem meetWaiters_of_lt {g : Nat} {s : State} (h : (s.gate g).count < (s.gate g).target) : meetWaiters g s = s :=
  if_neg (Nat.not_le.2 h)

theorem addArrivals_of_lt {g n : Nat} {s : State} (h : (s.gate g).count + n < 2 ^ 32) :
    addArrivals g n s = s.setGate g { s.gate g with count := (s.gate g).count + n } := by
  have hmin : min ((s.gate g).count + n) (2 ^ 32 - 1) = (s.gate g).count + n := by omega
  rw [addArrivals, hmin]
  exact if_neg (Nat.not_le.2 h)

/-- Arrivals at a gate that no execution in progress has armed count at once; below the target they meet no waiter. -/
theorem arriveAt_of_gatePart_none {g n : Nat} {t : Option Ticket} {s : State} (hp : s.gatePart g = none)
    (hn : (s.gate g).count + n < (s.gate g).target) (ht : (s.gate g).target < 2 ^ 32) :
    arriveAt g n t s =
      let u := s.setGate g { s.gate g with count := (s.gate g).count + n }
      t.elim u (fun t => completeSt t stOk u) := by
  rw [arriveAt, hp, addArrivals_of_lt (hn.trans ht)]
  dsimp only
  rw [meetWaiters_of_lt (by simpa using hn)]
  cases t <;> rfl

theorem arriveAt_of_gatePart_some {g n p : Nat} {t : Option Ticket} {s : State} (hp : s.gatePart g = some p) :
    arriveAt g n t s = { s with tick := { s.tick with arrivals := s.tick.arrivals ++
      [{ gate := g, n := n, part := p, after := if (s.part p).lead then (s.part p).tick + 2 else (s.part p).tick + 1,
         ticket := t }] } } := by
  rw [arriveAt, hp]

/-! ## The three commands -/

/-- The owner's command acts on the gate that its entry names; another function's is DENIED (R254). -/
theorem onEntry_onGate {op fn q e : Nat} {k : Ticket} {s : State} {act : Nat → Nat → Ticket → State → State}
    (h : Front op fn q e k s) : onEntry op fn q (onGate act) s =
      if (s.gate (entF e 0x08 2 % 2 ^ 14)).owner ≠ fn then completeSt k stDenied (popEntry fn q s)
      else act (entF e 0x08 2 % 2 ^ 14) e k (popEntry fn q s) := by
  rw [onEntry_act _ _ _ _ _ _ _ h, onGate, pop_gate, (front_ticket h).1]

/-- GATE_ARM: no waiter is met where the gate waits for a boundary, or has a TARGET that COUNT 0 does not reach. -/
theorem gateArmEffect_of_unmet {g e : Nat} {t : Ticket} {s : State} (h : s.gatePart g ≠ none ∨ entF e 0x0C 4 ≠ 0) :
    gateArmEffect g e t s = completeSt t stOk (s.setGate g { s.gate g with count := 0, target := entF e 0x0C 4 }) := by
  unfold gateArmEffect
  extract_lets x u v
  have hu : u.gatePart g = s.gatePart g := gatePart_set s g g _ rfl
  have hv : v = u := by
    unfold v
    split
    next hp =>
      refine meetWaiters_of_lt ?_
      simpa [u, Nat.pos_iff_ne_zero] using h.resolve_left (not_not_intro (hu ▸ hp))
    next => rfl
  rw [hv]

theorem gateArriveEffect_of_range {g e : Nat} {t : Ticket} {s : State} (h1 : 1 ≤ entF e 0x0C 4) (h2 : entF e 0x0C 4 ≤ 65536) :
    gateArriveEffect g e t s = arriveAt g (entF e 0x0C 4) (some t) s := if_neg (by omega)

/-- Settles O12: the owner's ARM and ARRIVE change the gate, or put the arrival down for its boundary, WAIT is looked at at once; the
commands of the other functions are DENIED. -/
theorem gateCommandsOfTheOwner : Obligations.GateCommandsOfTheOwner := by
  intro s fn q e k g x u
  have hx : u.gate g = x := pop_gate ..
  have hp : u.gatePart g = s.gatePart g := pop_gatePart ..
  have owner {op act} (h : Front op fn q e k s) (ho : x.owner = fn) : onEntry op fn q (onGate act) s = act g e k u :=
    (onEntry_onGate h).trans (if_neg (not_not_intro ho))
  have denied {op act} (ho : x.owner ≠ fn) (h : Front op fn q e k s) :
      onEntry op fn q (onGate act) s = completeSt k stDenied u := (onEntry_onGate h).trans (if_pos ho)
  refine ⟨fun h ho hunmet => ?_, fun h ho h1 h2 => ?_, fun h ho => ?_, fun ho => ⟨?_, ?_, ?_⟩⟩
  · refine congrArg Host.Outcome.next ((owner h ho).trans ?_)
    rw [gateArmEffect_of_unmet (hp ▸ hunmet), hx]
  · have hact : exec (.gateArrive fn q) s = .next (arriveAt g (entF e 0x0C 4) (some k) u) :=
      congrArg Host.Outcome.next ((owner h ho).trans (gateArriveEffect_of_range h1 h2))
    rw [hact]
    split
    next hnone =>
      intro hn ht
      rw [arriveAt_of_gatePart_none (hp.trans hnone) (hx ▸ hn) (hx ▸ ht), hx]
      rfl
    next p hsome =>
      rw [arriveAt_of_gatePart_some (hp.trans hsome), popEntry_part]
      have htick : u.tick = s.tick := pop_tick ..
      refine ⟨_, rfl, ?_, rfl, by rw [htick]⟩
      exact (Kept.tick (by decide) (.step (by decide) (.refl _ s) (popEntry_frame fn q s))).off
  · refine congrArg Host.Outcome.next ((owner h ho).trans ?_)
    rw [gateWaitEffect, hx, hp]
  · exact fun h => congrArg Host.Outcome.next (denied ho h)
  · exact fun h => congrArg Host.Outcome.next (denied ho h)
  · exact fun h => congrArg Host.Outcome.next (denied ho h)

end Sys2Proof.Machine
end

section
/-!
SUBMIT and FLUSH, and the turns of an Admission Engine (R241, R258, R493).
-/

namespace Sys2Proof.Machine

open Sys2Proof

/-- A change of the entry at one place of a list. -/
theorem mapIdx_ite_eq_set {α : Type} {l : List α} {a : Nat} {x : α} (h : l[a]? = some x) (f : α → α) :
    l.mapIdx (fun i y => if i = a then f y else y) = l.set a (f x) := by
  refine List.ext_getElem? fun i => ?_
  rw [List.getElem?_mapIdx, List.getElem?_set]
  obtain ⟨hlt, hx⟩ := List.getElem?_eq_some_iff.1 h
  by_cases hi : a = i
  · subst hi
    simp [hx, hlt]
  · simp [hi, Ne.symm hi]

theorem setAe_eq {a : Nat} {ae : Ae} {s : State} (h : s.adm.aes[a]? = some ae) (f : Ae → Ae) :
    setAe a f s = { s with adm := { s.adm with aes := s.adm.aes.set a (f ae) } } := by
  rw [setAe, mapIdx_ite_eq_set h]

/-! ## SUBMIT -/

/-- The submission that an entry of SUBMIT makes. -/
def submissionOf (e : Nat) (t : Ticket) : Sub :=
  { id := none, ticket := t, graphVa := entF e 0x08 8, part := entF e 0x18 1,
    xs := (List.range 7).map (fun i => entF e (0x1C + 4 * i) 4),
    startTick := if bitOf (entF e 0x01 1) 0 then some (entF e 0x10 8 % 2 ^ 48) else none, phase := .check }

/-- The PART of the entry is no partition of the function. -/
def submitDenied (e fn : Nat) (s : State) : Prop := 16 ≤ entF e 0x18 1 ∨ shareOf (s.fnPartEff fn (entF e 0x18 1)) = 0

theorem submitEffect_of_denied {e : Nat} {t : Ticket} {s : State} (h : submitDenied e t.fn s) :
    submitEffect e t s = completeSt t stDenied s := if_pos h

/-- A submission goes behind those at a busy engine; it waits behind other functions' turns from its function's next turn on. -/
theorem submitEffect_of_busy {e : Nat} {t : Ticket} {s : State} {ae : Ae} (h : ¬ submitDenied e t.fn s)
    (hae : s.adm.aes[t.fn % 8]? = some ae) (hsubs : ae.subs ≠ []) :
    submitEffect e t s = { s with adm := { s.adm with
      aes := s.adm.aes.set (t.fn % 8) { ae with subs := ae.subs ++ [submissionOf e t] },
      behind := if ae.subs.any (fun y => y.ticket.fn == t.fn) then s.adm.behind else tdel s.adm.behind t.fn } } := by
  have hget : s.adm.aes.getD (t.fn % 8) Ae.reset = ae := by rw [List.getD_eq_getElem?_getD, hae]; rfl
  unfold submitEffect
  extract_lets p start x a subs idle adm v w
  have hs : subs = ae.subs := congrArg Ae.subs hget
  have hidle : idle = false := by simpa [idle, hs] using hsubs
  have hv : v = { s with adm := { s.adm with
      behind := if ae.subs.any (fun y => y.ticket.fn == t.fn) then s.adm.behind else tdel s.adm.behind t.fn } } := by
    unfold v
    rw [hs]
    split <;> rfl
  refine (if_neg h).trans ?_
  rw [hidle, if_neg Bool.false_ne_true]
  unfold w
  rw [setAe_eq (ae := ae) (by rw [hv]; exact hae), hv]
  rfl

theorem pop_fnPartEff (fn q : Nat) (s : State) (f p : Nat) : (popEntry fn q s).fnPartEff f p = s.fnPartEff f p := by
  rw [popEntry_host]; rfl

/-! ## FLUSH -/

/-- The plans that an entry of FLUSH names: those of the function, or of one of its graphs. -/
def flushNames (e fn : Nat) (p : Plan) : Bool := p.key.fn == fn && (entF e 0x08 8 == 0 || p.key.graphVa == entF e 0x08 8)

theorem flushEffect_eq (e : Nat) (t : Ticket) (s : State) : flushEffect e t s =
    complete { Compl.mk' t stOk with info := (s.adm.plans.filter (flushNames e t.fn)).length } (flushPlans (flushNames e t.fn) s) :=
  rfl

theorem flushNames_congr {e fn : Nat} {p r : Plan} (h : p.key = r.key) : flushNames e fn p = flushNames e fn r := by
  rw [flushNames, flushNames, h]

theorem mem_flushPlans {e fn : Nat} {p : Plan} {s : State} :
    p ∈ (flushPlans (flushNames e fn) s).adm.plans ↔ p ∈ s.adm.plans ∧ flushNames e fn p = false :=
  ⟨flushPlans_plans _ s p, fun ⟨hp, hn⟩ => flushPlans_keeps _ (fun _ _ => flushNames_congr) s p hp hn⟩

/-- Settles O14: a submission is denied or goes behind those at its engine, and FLUSH takes out the plans that it names. -/
theorem submissionsQueueAndFlushRemovesPlans : Obligations.SubmissionsQueueAndFlushRemovesPlans := by
  refine ⟨fun s fn q e k h => ?submit, fun s fn q e k h => ?flush⟩
  case submit =>
    have hexec : exec (.submit fn q) s = .next (submitEffect e k (popEntry fn q s)) :=
      congrArg Host.Outcome.next (onEntry_act _ _ _ _ _ _ _ h)
    obtain rfl : k.fn = fn := (front_ticket h).1
    have hdenied : submitDenied e k.fn (popEntry k.fn q s) ↔
        16 ≤ entF e 0x18 1 ∨ shareOf (s.fnPartEff k.fn (entF e 0x18 1)) = 0 := by rw [submitDenied, pop_fnPartEff]
    refine ⟨fun hd => by rw [hexec, submitEffect_of_denied (hdenied.2 hd)], fun ae hp hshare hae hsubs => ?_⟩
    have hadm : (popEntry k.fn q s).adm = s.adm := pop_adm ..
    refine ⟨_, submissionOf e k, hexec.trans (congrArg _ (submitEffect_of_busy ?_ (by rw [hadm]; exact hae) hsubs)), ?_, rfl, ?_,
      rfl, rfl, rfl, rfl, rfl⟩
    · rw [hdenied]; omega
    · exact (Kept.adm (by decide) (.step (by decide) (.refl _ s) (popEntry_frame k.fn q s))).off
    · rw [hadm]
  case flush =>
    have hexec : exec (.flush fn q) s = .next (flushEffect e k (popEntry fn q s)) :=
      congrArg Host.Outcome.next (onEntry_act _ _ _ _ _ _ _ h)
    obtain rfl : k.fn = fn := (front_ticket h).1
    have hadm : (popEntry k.fn q s).adm = s.adm := pop_adm ..
    rw [flushEffect_eq, hadm] at hexec
    refine ⟨_, hexec, ?_, fun p => ?_, ?_⟩
    · exact (Kept.step (by decide) (.step (by decide) (.step (by decide) (.refl [.host, .adm] s) (popEntry_frame k.fn q s))
        (flushPlans_frame ..)) (complete_frame ..)).off
    · rw [complete_adm, mem_flushPlans, hadm]
      rfl
    · exact congrArg (HostIf.complete · _) (flushPlans_host ..)

/-! ## AE_TURN -/

/-- The state in which the submission whose turn it is acts: its function and queue are those served last. -/
def turnBegun (a : Nat) (ae : Ae) (x : Sub) (s : State) : State :=
  setAe a (fun ae => { ae with lastFn := x.ticket.fn, lastQ := tput ae.lastQ x.ticket.fn x.ticket.q })
    (noteWait x.ticket.fn ((ae.subs.map (·.ticket.fn)).filter (· ≠ x.ticket.fn)) s)

theorem turnBegun_kept (a : Nat) (ae : Ae) (x : Sub) (s : State) : Kept [.adm] s (turnBegun a ae x s) :=
  .step (by decide) (noteWait_frame ..) (setAe_frame ..)

theorem turnBegun_lastFn {a : Nat} {ae : Ae} {s : State} (h : s.adm.aes[a]? = some ae) (x : Sub) :
    ((turnBegun a ae x s).adm.aes[a]?).map (·.lastFn) = some x.ticket.fn := by
  have hae : (noteWait x.ticket.fn ((ae.subs.map (·.ticket.fn)).filter (· ≠ x.ticket.fn)) s).adm.aes[a]? = some ae := h
  obtain ⟨hlt, -⟩ := List.getElem?_eq_some_iff.1 hae
  rw [turnBegun, setAe_eq hae]
  exact congrArg (Option.map _) (List.getElem?_set_self hlt)

/-- The turn is that of one of the function's submissions, where the engine has work of the function. -/
theorem exists_sub_of_nextAfter {ae : Ae} {fn : Nat} (h : fn ∈ ae.subs.map (·.ticket.fn)) :
    ∃ q x, nextAfter (tgetD ae.lastQ fn 0) ((ae.subs.filter (fun x => x.ticket.fn = fn)).map (·.ticket.q)) = some q ∧
      ae.subs.find? (fun x => x.ticket.fn = fn ∧ x.ticket.q = q) = some x := by
  obtain ⟨y, hy, hfn⟩ := List.mem_map.1 h
  have hmine : y ∈ ae.subs.filter (fun x => x.ticket.fn = fn) := List.mem_filter.2 ⟨hy, decide_eq_true hfn⟩
  obtain ⟨q, hq⟩ := nextAfter_isSome (tgetD ae.lastQ fn 0) ((ae.subs.filter (fun x => x.ticket.fn = fn)).map (·.ticket.q))
    (List.ne_nil_of_mem (List.mem_map_of_mem hmine))
  obtain ⟨z, hz, hzq⟩ := List.mem_map.1 (nextAfter_spec _ _ _ hq).1
  obtain ⟨hz, hzfn⟩ := List.mem_filter.1 hz
  obtain ⟨x, hx⟩ : ∃ x, ae.subs.find? (fun x => x.ticket.fn = fn ∧ x.ticket.q = q) = some x :=
    Option.isSome_iff_exists.1 (List.find?_isSome.2 ⟨z, hz, by simpa [hzq] using hzfn⟩)
  exact ⟨q, x, hq, hx⟩

theorem aeTurn_eq {a fn q : Nat} {ae : Ae} {x : Sub} {s : State} (hae : s.adm.aes[a]? = some ae)
    (hfn : nextAfter ae.lastFn (ae.subs.map (·.ticket.fn)) = some fn)
    (hq : nextAfter (tgetD ae.lastQ fn 0) ((ae.subs.filter (fun x => x.ticket.fn = fn)).map (·.ticket.q)) = some q)
    (hx : ae.subs.find? (fun x => x.ticket.fn = fn ∧ x.ticket.q = q) = some x) :
    aeTurn a s = match x.phase with
      | .check => checkTurn x (turnBegun a ae x s)
      | .fit gd bt bs ts => admitTurn x gd bt bs ts (turnBegun a ae x s) := by
  obtain ⟨rfl, rfl⟩ : x.ticket.fn = fn ∧ x.ticket.q = q := by simpa using List.find?_some hx
  simp only [aeTurn, hae, hfn, hq, hx]
  rfl

/-- Settles O15: the function is the next after the one served last, by the rule of `nextAfter`, and one of its submissions acts. -/
theorem admissionEnginesServeRoundRobin : Obligations.AdmissionEnginesServeRoundRobin := by
  intro s a ae hae hsubs
  obtain ⟨fn, hfn⟩ := nextAfter_isSome ae.lastFn (ae.subs.map (·.ticket.fn)) (by simpa using hsubs)
  obtain ⟨hmem, habove, hlowest⟩ := nextAfter_spec _ _ _ hfn
  obtain ⟨q, x, hq, hx⟩ := exists_sub_of_nextAfter hmem
  obtain ⟨rfl, -⟩ : x.ticket.fn = fn ∧ x.ticket.q = q := by simpa using List.find?_some hx
  exact ⟨_, turnBegun a ae x s, x, rfl, List.mem_of_find?_eq_some hx,
    fun y hy => habove _ (List.mem_map_of_mem hy), fun h y hy => hlowest h _ (List.mem_map_of_mem hy),
    turnBegun_lastFn hae x, (turnBegun_kept ..).off, aeTurn_eq hae hfn hq hx⟩

end Sys2Proof.Machine
end

section
/-!
The list scheduler (R250): the tasks that it has placed always make a legal plan.
-/

namespace Sys2Proof.Machine

open Sys2Proof

/-- A placement of tasks is legal: no slot exceeds the tick budget, no tick passes 4,095, every predecessor of a placed task is placed
early enough, and no task is placed twice. -/
structure LegalPlan (c : AdmCtx) (ps : List Placed) : Prop where
  budget : ∀ st t, usedIn ps st t ≤ c.window
  placed : ∀ x ∈ ps, x.tick ≤ 4095 ∧ ∀ p ∈ predsOf c.pairs x.id, ∃ y ∈ ps, y.id = p ∧
    if y.stage = x.stage then y.tick ≤ x.tick else y.tick < x.tick
  once : (ps.map (·.id)).Nodup

theorem legalPlan_nil (c : AdmCtx) : LegalPlan c [] := ⟨by simp [usedIn], by simp, by simp⟩

theorem usedIn_append (ps : List Placed) (x : Placed) (st t : Nat) :
    usedIn (ps ++ [x]) st t = usedIn ps st t + if x.stage = st ∧ x.tick = t then x.cost else 0 := by
  by_cases h : x.stage = st ∧ x.tick = t <;> simp [usedIn, List.filter_append, h]

/-! ## The first tick with room -/

theorem le_fitTick (ps : List Placed) (st cost w n t : Nat) : t ≤ fitTick ps st cost w n t := by
  induction n generalizing t with
  | zero => exact le_refl t
  | succ n ih =>
    rw [fitTick]
    split
    · exact (Nat.le_succ t).trans (ih (t + 1))
    · exact le_refl t

/-- The search ends at a tick with room, or it has used up its fuel. -/
theorem fitTick_fits (ps : List Placed) (st cost w n t : Nat) :
    usedIn ps st (fitTick ps st cost w n t) + cost ≤ w ∨ fitTick ps st cost w n t = t + n := by
  induction n generalizing t with
  | zero => exact .inr rfl
  | succ n ih =>
    rw [fitTick]
    split
    · exact (ih (t + 1)).imp_right (fun h => by omega)
    next h => exact .inl (by omega)

/-! ## The first tick that the predecessors allow -/

/-- The first tick of a task of a stage that its predecessor allows; a predecessor that is not placed allows every tick. -/
def afterPred (ps : List Placed) (stage p : Nat) : Nat :=
  match ps.find? (fun x => x.id = p) with
  | some x => if x.stage = stage then x.tick else x.tick + 1
  | none => 0

/-- A fold whose steps never fall, and reach a bound of each element, reaches every bound. -/
theorem le_foldl_of_step {α : Type} {f : Nat → α → Nat} {g : α → Nat} (hf : ∀ t a, t ≤ f t a ∧ g a ≤ f t a) (l : List α)
    (t : Nat) : t ≤ l.foldl f t ∧ ∀ a ∈ l, g a ≤ l.foldl f t := by
  induction l generalizing t with
  | nil => simp
  | cons a l ih =>
    obtain ⟨hle, hall⟩ := ih (f t a)
    exact ⟨(hf t a).1.trans hle, List.forall_mem_cons.2 ⟨(hf t a).2.trans hle, hall⟩⟩

/-- A predecessor that has been placed allows the ticks that `LegalPlan` asks for. -/
theorem exists_of_afterPred_le {ps : List Placed} {stage p t : Nat} (hp : p ∈ ps.map (·.id)) (ht : afterPred ps stage p ≤ t) :
    ∃ y ∈ ps, y.id = p ∧ if y.stage = stage then y.tick ≤ t else y.tick < t := by
  obtain ⟨z, hz, hid⟩ := List.mem_map.1 hp
  obtain ⟨y, hy⟩ : ∃ y, ps.find? (fun x => x.id = p) = some y :=
    Option.isSome_iff_exists.1 (List.find?_isSome.2 ⟨z, hz, by simpa using hid⟩)
  refine ⟨y, List.mem_of_find?_eq_some hy, by simpa using List.find?_some hy, ?_⟩
  rw [afterPred, hy] at ht
  dsimp only at ht
  split
  next hs => rwa [if_pos hs] at ht
  next hs => rwa [if_neg hs] at ht

/-! ## Placing a task -/

/-- A task is placed in a slot with room, no earlier than its predecessors allow, and in none of the ticks past 4,095. -/
theorem placeTask_ok {s : State} {c : AdmCtx} {ps qs : List Placed} {a : TaskA} (h : placeTask s c ps a = .ok qs) :
    ∃ x : Placed, qs = ps ++ [x] ∧ x.id = a.id ∧ x.tick ≤ 4095 ∧ usedIn ps x.stage x.tick + x.cost ≤ c.window ∧
      ∀ p ∈ predsOf c.pairs a.id, afterPred ps x.stage p ≤ x.tick := by
  unfold placeTask at h
  split at h
  · exact absurd h (by simp)
  next hres =>
    extract_lets stage t0 t1 t2 at h
    split at h
    · exact absurd h (by simp)
    next hlate =>
      have h0 : ∀ p ∈ predsOf c.pairs a.id, afterPred ps stage p ≤ t0 := by
        refine (le_foldl_of_step (fun t p => ?_) _ 0).2
        unfold afterPred
        cases ps.find? (fun x => x.id = p) <;> simp
      have h01 : t0 ≤ t1 := (le_foldl_max (fun e : Edge => e.aux) _ t0).1
      have h12 : t1 ≤ t2 := le_fitTick ..
      refine ⟨_, (Except.ok.inj h).symm, rfl, not_lt.1 hlate, ?_, fun p hp => ?_⟩
      · exact (fitTick_fits ps stage (c.cost a.id) c.window 4096 t1).resolve_right (by change t2 ≠ _; omega)
      · exact (h0 p hp).trans (h01.trans h12)

theorem placeTask_legal {s : State} {c : AdmCtx} {ps qs : List Placed} {a : TaskA} (hps : LegalPlan c ps)
    (hnew : a.id ∉ ps.map (·.id)) (hpreds : ∀ p ∈ predsOf c.pairs a.id, p ∈ ps.map (·.id))
    (h : placeTask s c ps a = .ok qs) : LegalPlan c qs := by
  obtain ⟨x, rfl, hid, htick, hroom, hafter⟩ := placeTask_ok h
  have grow {stage tick p : Nat} (h : ∃ y ∈ ps, y.id = p ∧ if y.stage = stage then y.tick ≤ tick else y.tick < tick) :
      ∃ y ∈ ps ++ [x], y.id = p ∧ if y.stage = stage then y.tick ≤ tick else y.tick < tick :=
    h.imp fun y hy => ⟨List.mem_append_left _ hy.1, hy.2⟩
  refine ⟨fun st t => ?_, fun y hy => ?_, ?_⟩
  · rw [usedIn_append]
    split
    next hslot => rwa [← hslot.1, ← hslot.2]
    next => simpa using hps.budget st t
  · rcases List.mem_append.1 hy with hold | hone
    · exact ⟨(hps.placed y hold).1, fun p hp => grow ((hps.placed y hold).2 p hp)⟩
    · obtain rfl := List.mem_singleton.1 hone
      refine ⟨htick, fun p hp => ?_⟩
      rw [hid] at hp
      exact grow (exists_of_afterPred_le (hpreds p hp) (hafter p hp))
  · rw [List.map_append, List.nodup_append]
    exact ⟨hps.once, by simp, by simpa [hid] using hnew⟩

theorem schedule_legal {s : State} {c : AdmCtx} {order : List Nat} {n : Nat} {ps qs : List Placed} (hps : LegalPlan c ps)
    (h : schedule s c order n ps = .ok qs) : LegalPlan c qs := by
  induction n generalizing ps with
  | zero => exact Except.ok.inj h ▸ hps
  | succ n ih =>
    rw [schedule] at h
    split at h
    · exact Except.ok.inj h ▸ hps
    next i hi =>
      split at h
      · exact Except.ok.inj h ▸ hps
      next a ha =>
        split at h
        · exact absurd h (by simp)
        next us hplace =>
          obtain rfl : a.id = i := by simpa using List.find?_some ha
          have hready := List.find?_some hi
          simp only [Bool.and_eq_true, Bool.not_eq_true', List.all_eq_true, List.contains_eq_mem, decide_eq_true_eq,
            decide_eq_false_iff_not] at hready
          exact ih (placeTask_legal hps hready.1 hready.2 hplace) h

/-- Settles O16, by induction over the tasks placed: each is placed in a slot with room, after its predecessors. -/
theorem schedulesRespectBudgetAndPrecedence : Obligations.SchedulesRespectBudgetAndPrecedence := by
  intro s c order n ps h
  obtain ⟨hbudget, hplaced, honce⟩ := schedule_legal (legalPlan_nil c) h
  exact ⟨hbudget, hplaced, honce⟩

end Sys2Proof.Machine
end

section
/-!
Writes of TICK_CFG and ADM_BUDGET_CFG (R245, R246, R258).
-/

namespace Sys2Proof.Machine

open Sys2Proof

theorem exec_tickCfgWrite {p : Nat} {s : State} (hs : s.serving) (hp : p < 16) (v : Word) :
    exec (.tickCfgWrite p v) s = .next (tickCfgEffect p v s) :=
  congrArg Host.Outcome.next (if_pos (by simp [hs, hp]))

theorem exec_admBudgetCfgWrite {s : State} (hs : s.serving) (v : Word) :
    exec (.admBudgetCfgWrite v) s = .next (budgetCfgEffect v s) :=
  congrArg Host.Outcome.next (if_pos hs)

/-- The state in which register TICK_CFG of a partition has been written. -/
def tickCfgWritten (p n : Nat) (s : State) : State :=
  { s with reg := { s.reg with tickCfg := tput s.reg.tickCfg p (BitVec.ofNat 32 n) } }

theorem tickCfgWritten_kept (p n : Nat) (s : State) : Kept [.reg] s (tickCfgWritten p n s) :=
  .reg (by decide) (.refl _ s)

theorem tickCfg_tickCfgWritten_self (p n : Nat) (s : State) : (tickCfgWritten p n s).tickCfg p = n % 2 ^ 32 := by
  simp [State.tickCfg, tickCfgWritten]

theorem tickCfg_tickCfgWritten_ne {p q : Nat} (h : q ≠ p) (n : Nat) (s : State) :
    (tickCfgWritten p n s).tickCfg q = s.tickCfg q := by
  simp [State.tickCfg, tickCfgWritten, tgetD_tput_ne _ _ _ h]

theorem flushPlans_tickCfg (f : Plan → Bool) (s : State) (q : Nat) : (flushPlans f s).tickCfg q = s.tickCfg q :=
  (flushPlans_frame f s).tickCfg (by decide) q

theorem flushPlans_tickCfgEff (f : Plan → Bool) (s : State) (q : Nat) : (flushPlans f s).tickCfgEff q = s.tickCfgEff q := by
  simp only [State.tickCfgEff, (flushPlans_frame f s).reg_eq (by decide)]

theorem flushPlans_rr (f : Plan → Bool) (s : State) : (flushPlans f s).rr = s.rr := by
  simp only [State.rr, (flushPlans_frame f s).reg_eq (by decide)]

/-! ## The fields of TICK_CFG (R245) -/

/-- TICK_CFG made of its fields. -/
def tickCfgOf (per mw : Nat) (rej : Bool) : Nat := per + mw * 1024 + bit01 rej * 2 ^ 31

section
variable {per mw : Nat} (rej : Bool) (hper : per < 2 ^ 10)
include hper

theorem periodOf_tickCfgOf : periodOf (tickCfgOf per mw rej) = per := by
  rw [periodOf, bitsOf, tickCfgOf, Nat.shiftRight_eq_div_pow]
  omega

variable (hmw : mw < 2 ^ 8)
include hmw

theorem tickCfgOf_lt : tickCfgOf per mw rej < 2 ^ 32 := by
  have : bit01 rej ≤ 1 := by cases rej <;> decide
  unfold tickCfgOf
  omega

theorem mwinOf_tickCfgOf : mwinOf (tickCfgOf per mw rej) = mw := by
  rw [mwinOf, bitsOf, tickCfgOf, Nat.shiftRight_eq_div_pow]
  omega

theorem bitOf_31_tickCfgOf : bitOf (tickCfgOf per mw rej) 31 = rej := by
  rw [bitOf, tickCfgOf, Nat.testBit_eq_decide_div_mod_eq]
  cases rej
  · simp [bit01]; omega
  · simp [bit01]; omega

end

/-- The value that a field takes: what is written, where that lies in the range, else what it held. -/
def fieldTaken (lo hi new old : Nat) : Nat := if lo ≤ new ∧ new ≤ hi then new else old

theorem tickCfgEffect_eq (p : Nat) (v : Word) (s : State) :
    ∃ rej : Bool, (rej ↔ ¬(8 ≤ periodOf v.toNat ∧ periodOf v.toNat ≤ 1000) ∨
        ¬(1 ≤ mwinOf v.toNat ∧ mwinOf v.toNat ≤ 100) ∨ (bitOf (s.tickCfg p) 31 ∧ ¬ bitOf v.toNat 31)) ∧
      let per := fieldTaken 8 1000 (periodOf v.toNat) (periodOf (s.tickCfg p))
      let mw := fieldTaken 1 100 (mwinOf v.toNat) (mwinOf (s.tickCfg p))
      tickCfgEffect p v s = flushPlans (fun x => x.key.part == p && (x.key.period != per || x.key.mwin != mw))
        (tickCfgWritten p (tickCfgOf per mw rej) s) := by
  have taken {lo hi new old : Nat} : (if (new < lo || hi < new : Bool) then old else new) = fieldTaken lo hi new old := by
    unfold fieldTaken
    simp only [Bool.or_eq_true, decide_eq_true_eq]
    split <;> split <;> omega
  refine ⟨periodOf v.toNat < 8 || 1000 < periodOf v.toNat || (mwinOf v.toNat < 1 || 100 < mwinOf v.toNat) ||
    (bitOf (s.tickCfg p) 31 && !bitOf v.toNat 31), ?_, ?_⟩
  · simp only [Bool.or_eq_true, Bool.and_eq_true, decide_eq_true_eq, Bool.not_eq_true', Bool.not_eq_true, not_and_or, Nat.not_le,
      or_assoc]
  · rw [← taken, ← taken]
    rfl

theorem fieldTaken_lt {lo hi new old n : Nat} (hnew : new < n) (hold : old < n) : fieldTaken lo hi new old < n := by
  unfold fieldTaken
  split <;> assumption

/-! ## ADM_BUDGET_CFG (R246) -/

/-- The state in which ADM_BUDGET_CFG has been written. -/
def budgetWritten (v : Word) (s : State) : State := { s with reg := { s.reg with budgetCfg := v &&& 0xFFFF } }

theorem budgetWritten_kept (v : Word) (s : State) : Kept [.reg] s (budgetWritten v s) := .reg (by decide) (.refl _ s)

theorem rr_budgetWritten (v : Word) (s : State) : (budgetWritten v s).rr = bitsOf v.toNat 15 0 := by
  refine bitsOf_toNat_and v 0xFFFF 15 0 fun i _ hi _ => ?_
  interval_cases i <;> decide

theorem budgetCfgEffect_eq (v : Word) (s : State) :
    budgetCfgEffect v s = flushPlans (fun x => x.key.rr != (budgetWritten v s).rr) (budgetWritten v s) := rfl

/-- Settles O22: the written register is its fields, each taken or kept, and the plans flushed are those that the new fields do not fit. -/
theorem tickAndBudgetWritesFlushPlans : Obligations.TickAndBudgetWritesFlushPlans := by
  refine ⟨fun s p v hs hp => ?tick, fun s v hs => ?budget⟩
  case tick =>
    obtain ⟨rej, hrej, heff⟩ := tickCfgEffect_eq p v s
    extract_lets per mw
    replace heff : tickCfgEffect p v s = flushPlans (fun x => x.key.part == p && (x.key.period != per || x.key.mwin != mw))
      (tickCfgWritten p (tickCfgOf per mw rej) s) := heff
    have hper : per < 2 ^ 10 := fieldTaken_lt (bitsOf_lt ..) (bitsOf_lt ..)
    have hmw : mw < 2 ^ 8 := fieldTaken_lt (bitsOf_lt ..) (bitsOf_lt ..)
    rw [exec_tickCfgWrite hs hp, heff]
    have hself : (tickCfgWritten p (tickCfgOf per mw rej) s).tickCfg p = tickCfgOf per mw rej := by
      rw [tickCfg_tickCfgWritten_self, Nat.mod_eq_of_lt (tickCfgOf_lt rej hper hmw)]
    refine ⟨_, rfl, ?_, ?_, ?_, ?_, fun q hq => ?_, fun q => ?_, fun x hx => ?_⟩
    · exact (Kept.step (by decide) (.step (by decide) (.refl _ s) (tickCfgWritten_kept ..)) (flushPlans_frame ..)).off
    · rw [flushPlans_tickCfg, hself, periodOf_tickCfgOf rej hper]
    · rw [flushPlans_tickCfg, hself, mwinOf_tickCfgOf rej hper hmw]
    · rw [flushPlans_tickCfg, hself, bitOf_31_tickCfgOf rej hper hmw]; exact hrej
    · rw [flushPlans_tickCfg, tickCfg_tickCfgWritten_ne hq]
    · rw [flushPlans_tickCfgEff]; rfl
    · obtain ⟨hmem, hkept⟩ := flushPlans_plans _ _ x hx
      refine ⟨hmem, fun hpart => ?_⟩
      simpa [hpart] using hkept
  case budget =>
    have hwritten : (budgetWritten v s).rr = bitsOf v.toNat 15 0 := rr_budgetWritten v s
    rw [exec_admBudgetCfgWrite hs, budgetCfgEffect_eq]
    refine ⟨_, rfl, ?_, ?_, fun x hx => ?_⟩
    · exact (Kept.step (by decide) (.step (by decide) (.refl _ s) (budgetWritten_kept v s)) (flushPlans_frame ..)).off
    · rw [flushPlans_rr, hwritten]
    · obtain ⟨hmem, hkept⟩ := flushPlans_plans _ _ x hx
      refine ⟨hmem, ?_⟩
      simpa [hwritten] using hkept

end Sys2Proof.Machine
end

section
/-!
EXECUTION_PREPARE of an execution whose plan is stale, and of one whose frames and shadows are there (R290, R291, R518).
-/

namespace Sys2Proof.Machine

open Sys2Proof

/-- A frame that holds a macro, of the layout that the plan counts where it counts the page, is prepared as it is. -/
theorem prepareFrame_of_held {e : Exec} {x : Nat × Nat × Bool × Nat} {s : State} {f : Frame}
    (hf : s.frame? e.ticket.fn x.1 = some f) (hheld : isHeld f.state) (hmac : x.2.2.2 = 0 ∨ (f.macFor x.2.2.1).isSome) :
    prepareFrame e x s = (.done, s) := by
  have hev : f.state ≠ .evicted := by
    intro h
    rw [h] at hheld
    exact absurd hheld (by decide)
  have hlayout : ¬ (x.2.2.2 ≠ 0 && (f.macFor x.2.2.1).isNone) := by
    rcases hmac with h | h
    · simp [h]
    · simp [Option.isNone_iff_eq_none, Option.isSome_iff_ne_none.1 h]
  simp only [prepareFrame, hf]
  rw [if_neg hev, if_neg (by simpa using hheld), if_neg hlayout]

/-- A shadow of a SWAP, with one for the companion where the page has frames of both layouts, is prepared as it is. -/
theorem prepareShadow_of_shadow {e : Exec} {lf : Nat} {s : State} {f : Frame} {sh : Shadow}
    (hf : s.frame? e.ticket.fn lf = some f) (hsh : f.shadow = some sh) (hhost : sh.host = false)
    (hcomp : f.companion = none ∨ sh.compMac.isSome) : prepareShadow e lf s = (.done, s) := by
  have hpair : ¬ (f.companion.isSome && sh.compMac.isNone && !sh.host) := by
    rcases hcomp with h | h
    · simp [h]
    · simp [Option.isNone_iff_eq_none, Option.isSome_iff_ne_none.1 h]
  simp only [prepareShadow, prepareCompShadow, hf, hsh]
  rw [if_neg (by simp [hhost]), if_pos (by rfl), if_neg hpair]

/-- Preparations that change nothing leave nothing to prepare. -/
theorem foldl_join_done {α : Type} {f : α → State → PrepStep × State} {l : List α} {s : State}
    (h : ∀ x ∈ l, f x s = (.done, s)) :
    l.foldl (fun (a : PrepStep × State) x => (a.1.join (f x a.2).1, (f x a.2).2)) (.done, s) = (.done, s) := by
  induction l with
  | nil => rfl
  | cons x l ih =>
    rw [List.foldl_cons, h x List.mem_cons_self]
    exact ih fun y hy => h y (List.mem_cons_of_mem x hy)

section
variable {s : State} {fn part : Nat} {e : Exec} (hnext : s.nextExec fn part = some e) (hq : e.phase = .queued)
include hnext hq

theorem prepareNext_of_stale (hstale : planStale s fn e.plan) : prepareNext fn part s = readmit e s := by
  simp [prepareNext, hnext, hq, hstale]

theorem prepareNext_of_ready (hstale : planStale s fn e.plan = false)
    (hframes : ∀ x ∈ e.plan.frames, prepareFrame e x s = (.done, s))
    (hswaps : ∀ lf ∈ e.plan.swaps, prepareShadow e lf s = (.done, s)) :
    prepareNext fn part s = setExec { e with phase := .prepared, admitted := s.tick.st } s := by
  have hf := foldl_join_done hframes
  have hs := foldl_join_done hswaps
  simp only [prepareNext, hnext]
  rw [if_neg (by simp [hq]), if_neg (by simp [hstale])]
  rw [hf, if_pos rfl, hs]

end

theorem nextExec_fn {s : State} {fn part : Nat} {e : Exec} (h : s.nextExec fn part = some e) : e.ticket.fn = fn := by
  have hfn : ∀ x, s.nextExec fn part = some x → x.ticket.fn = fn := by
    refine List.foldlRecOn (motive := fun b : Option Exec => ∀ x, b = some x → x.ticket.fn = fn) _ _ (by simp)
      (fun b hb y hy x hx => ?_)
    have hy : y.ticket.fn = fn := (of_decide_eq_true (List.mem_filter.1 hy).2).1
    cases b with
    | none => exact Option.some.inj hx ▸ hy
    | some z =>
      dsimp only at hx
      split at hx
      · exact Option.some.inj hx ▸ hy
      · exact Option.some.inj hx ▸ hb z rfl
  exact hfn e h

/-- Settles O30: a stale plan sends its execution back; where the frames and shadows are there, nothing is left to prepare, and the
execution is prepared in the state as it is. -/
theorem executionsArePrepared : Obligations.ExecutionsArePrepared := by
  intro s fn part e hnext hq
  refine ⟨fun hstale => ⟨congrArg Host.Outcome.next (prepareNext_of_stale hnext hq hstale), fun p hp => ?_, fun x hx => ?_⟩,
    fun hstale hframes hswaps => ?_⟩
  · rw [readmit_plans] at hp
    simpa using (List.mem_filter.1 hp).2
  · simpa using (List.mem_filter.1 hx).2
  · obtain rfl : e.ticket.fn = fn := nextExec_fn hnext
    refine ⟨_, congrArg Host.Outcome.next (prepareNext_of_ready hnext hq hstale (fun x hx => ?_) (fun lf hlf => ?_)), (setExec_frame ..).off, rfl⟩
    · obtain ⟨f, hf, hheld, hmac⟩ := hframes x hx
      exact prepareFrame_of_held hf hheld hmac
    · obtain ⟨f, sh, hf, hsh, hhost, hcomp⟩ := hswaps lf hlf
      exact prepareShadow_of_shadow hf hsh hhost hcomp

end Sys2Proof.Machine
end

section
/-!
The windows of a tick (R260): the next window opens with its function's paused task, and a task that is paused or resumed is still
the core's work.
-/

namespace Sys2Proof.Machine

open Sys2Proof

/-- The work of a core: the task it runs, and those it has paused. -/
def Core.work (k : Core) : List Run := k.run.toList ++ k.paused

theorem pauseRun_run (k : Core) : (pauseRun k).run = none := by
  unfold pauseRun
  split
  · assumption
  · rfl

theorem mem_work_pauseRun (k : Core) (r : Run) : r ∈ (pauseRun k).work ↔ r ∈ k.work := by
  unfold pauseRun
  split
  · rfl
  next x hx => simp [Core.work, hx, or_comm]

/-- A paused task that resumes is still among the core's work. -/
theorem mem_work_resume {k k' : Core} {x : Run} (hrun : k.run = none) (hx : x ∈ k.paused) (h : k'.run = some x)
    (hp : k'.paused = k.paused.filter (fun y => y != x)) (r : Run) : r ∈ k'.work ↔ r ∈ k.work := by
  by_cases hr : r = x <;> simp [Core.work, hrun, h, hp, hr, hx]

section
variable {k : Core} (hrun : k.run = none)
include hrun

theorem openWindow_spec (f : Nat) (s : State) : (openWindow f s k).window = some f ∧
    (∀ r, r ∈ (openWindow f s k).work ↔ r ∈ k.work) ∧ ∀ r, (openWindow f s k).run = some r → s.runFn r = some f := by
  unfold openWindow
  split
  next x hx =>
    refine ⟨rfl, mem_work_resume hrun (List.mem_of_find?_eq_some hx) rfl rfl, fun r hr => ?_⟩
    obtain rfl := Option.some.inj hr
    simpa using List.find?_some hx
  next => exact ⟨rfl, fun _ => .rfl, fun r hr => absurd (hrun.symm.trans hr) (by simp)⟩

theorem openOverflow_spec (fns : List Nat) (s : State) : (openOverflow s fns k).window = none ∧
    ∀ r, r ∈ (openOverflow s fns k).work ↔ r ∈ k.work := by
  unfold openOverflow
  extract_lets k'
  split
  next x hx =>
    obtain ⟨f, -, hf⟩ := List.exists_of_findSome?_eq_some hx
    exact ⟨rfl, mem_work_resume (k := k) hrun (List.mem_of_find?_eq_some hf) rfl rfl⟩
  next => exact ⟨rfl, fun _ => .rfl⟩

end

/-- The core after the end of a window: in the window of the next function, or in the overflow region. -/
def nextWindow (fn : Nat) (fns : List Nat) (s : State) (k : Core) : Core :=
  match (fns.filter (fun f => fn < f)).head? with
  | some f => openWindow f s k
  | none => openOverflow s fns k

theorem nextWindow_spec {k : Core} (hrun : k.run = none) (fn : Nat) (fns : List Nat) (s : State) :
    (nextWindow fn fns s k).window = (fns.filter (fun f => fn < f)).head? ∧
    (∀ r, r ∈ (nextWindow fn fns s k).work ↔ r ∈ k.work) ∧
    ∀ r f, (nextWindow fn fns s k).window = some f → (nextWindow fn fns s k).run = some r → s.runFn r = some f := by
  unfold nextWindow
  cases (fns.filter (fun f => fn < f)).head? with
  | some g =>
    obtain ⟨hwindow, hwork, hfn⟩ := openWindow_spec hrun g s
    exact ⟨hwindow, hwork, fun r f hf hr => (hfn r hr).trans (hwindow.symm.trans hf)⟩
  | none =>
    obtain ⟨hwindow, hwork⟩ := openOverflow_spec hrun fns s
    exact ⟨hwindow, hwork, fun r f hf _ => absurd (hwindow.symm.trans hf) (by simp)⟩

theorem windowEnd_of_closed {c fn : Nat} {s : State} (h : (s.core c).window ≠ some fn) : windowEnd c fn s = s := if_neg h

theorem windowEnd_of_open {c fn : Nat} {s : State} (h : (s.core c).window = some fn) :
    windowEnd c fn s = s.setCore c (nextWindow fn (s.coreFns c) s (pauseRun (s.core c))) := by
  refine (if_pos h).trans ?_
  unfold nextWindow
  cases ((s.coreFns c).filter (fun f => fn < f)).head? <;> rfl

/-- Settles O44: the end of a window pauses the core's task and opens the next window; a window that is not open has no end. -/
theorem windowsFollowInOrder : Obligations.WindowsFollowInOrder := by
  intro s c fn
  refine ⟨fun h => congrArg Host.Outcome.next (windowEnd_of_closed h), fun h => ?_⟩
  obtain ⟨hwindow, hwork, hfn⟩ := nextWindow_spec (pauseRun_run (s.core c)) fn (s.coreFns c) s
  refine ⟨_, congrArg Host.Outcome.next (windowEnd_of_open h), (State.setCore_frame ..).off, ?_, fun r => ?_, fun r f => ?_,
    fun d hd => core_setCore_ne s _ hd⟩
  all_goals rw [core_setCore_self]
  · exact hwindow
  · exact (hwork r).trans (mem_work_pauseRun ..)
  · exact hfn r f

end Sys2Proof.Machine
end

section
/-!
LEAD_POINT (R262, R263, R351, Table 11-8): what the cores report, the fields of the module word, and what forming it leaves of the
partition.
-/

namespace Sys2Proof.Machine

open Sys2Proof

/-! ## What a core reports -/

theorem slipCause_le (s : State) (c : Nat) : s.slipCause c ≤ 2 := by
  unfold State.slipCause
  extract_lets k under
  repeat' split
  all_goals omega

theorem coreLead_cause_le (c n : Nat) (s : State) : (coreLead c n s).1.2.2 ≤ 2 := by
  have hcause : (if (!(s.core c).idle) then s.slipCause c else 0) ≤ 2 := by
    split
    · exact slipCause_le s c
    · omega
  exact hcause

/-- A core that has not retired its tasks slips (R263). -/
theorem coreLead_slip_of_late {c n : Nat} {s : State} (h : (s.core c).idle = false) : (coreLead c n s).1.2.1 = true := by
  have hlate : (!(s.core c).idle) = true := by rw [h]; rfl
  exact (congrArg (· || _) hlate).trans (Bool.true_or _)

/-- The report of a core changes no other core. -/
theorem core_coreLead_ne {c d : Nat} (h : d ≠ c) (n : Nat) (s : State) : (coreLead c n s).2.core d = s.core d := by
  unfold coreLead
  extract_lets k late cause slack neg drift slip recent times neg t v was bad many v v v regs u ev w
  have hw : Kept [.jr, .host, .mnt] u w :=
    kept_ite (.step (by decide) (.step (by decide) (.refl _ u) (raiseFor_frame ..)) (requestSubst_frame ..)) (.refl _ u)
  exact (hw.core (by decide) d).trans (core_setCore_ne s _ h)

/-- The next core reports: the least slack so far, and the first core that slips. -/
def leadStep (n : Nat) (a : (Int × Option (Nat × Nat)) × State) (c : Nat) : (Int × Option (Nat × Nat)) × State :=
  let r := coreLead c n a.2
  ((min a.1.1 r.1.1, if a.1.2.isNone && r.1.2.1 then some (c, r.1.2.2) else a.1.2), r.2)

theorem coresLead_eq (p n : Nat) (s : State) : coresLead p n s = (s.partCores p).foldl (leadStep n) ((32767, none), s) := rfl

theorem isSome_leadStep {n c : Nat} {a : (Int × Option (Nat × Nat)) × State} (h : a.1.2.isSome ∨ (a.2.core c).idle = false) :
    (leadStep n a c).1.2.isSome := by
  unfold leadStep
  dsimp only
  split
  · rfl
  next hn =>
    rcases h with h | h
    · exact h
    · rw [coreLead_slip_of_late h] at hn
      cases ha : a.1.2
      · simp [ha] at hn
      · rfl

/-- Where a core has not retired its tasks, one slips. -/
theorem isSome_foldl_leadStep {n : Nat} (l : List Nat) {a : (Int × Option (Nat × Nat)) × State}
    (h : a.1.2.isSome ∨ ∃ c ∈ l, (a.2.core c).idle = false) : (l.foldl (leadStep n) a).1.2.isSome := by
  induction l generalizing a with
  | nil => simpa using h
  | cons c l ih =>
    refine ih ?_
    rcases h with h | ⟨d, hd, hidle⟩
    · exact .inl (isSome_leadStep (.inl h))
    · by_cases hdc : d = c
      · exact .inl (isSome_leadStep (.inr (hdc ▸ hidle)))
      · refine .inr ⟨d, (List.mem_cons.1 hd).resolve_left hdc, ?_⟩
        rw [← hidle]
        exact congrArg Core.idle (core_coreLead_ne hdc n a.2)

/-- The first core that slips is one of those that report, and gives one of the causes of R263. -/
theorem foldl_leadStep_some {n : Nat} (l : List Nat) {a : (Int × Option (Nat × Nat)) × State} {x : Nat × Nat}
    (h : (l.foldl (leadStep n) a).1.2 = some x) : a.1.2 = some x ∨ (x.1 ∈ l ∧ x.2 ≤ 2) := by
  induction l generalizing a with
  | nil => exact .inl h
  | cons c l ih =>
    rcases ih h with hstep | ⟨hmem, hle⟩
    · unfold leadStep at hstep
      dsimp only at hstep
      split at hstep
      · obtain rfl := Option.some.inj hstep
        exact .inr ⟨List.mem_cons_self, coreLead_cause_le c n a.2⟩
      · exact .inl hstep
    · exact .inr ⟨List.mem_cons_of_mem c hmem, hle⟩

theorem lt_of_mem_partCores {s : State} {p c : Nat} (h : c ∈ s.partCores p) : c < 2048 := by
  simp only [State.partCores, State.partClusters, List.mem_flatMap, List.mem_filter, List.mem_map, List.mem_range] at h
  obtain ⟨cl, ⟨hcl, -⟩, k, hk, rfl⟩ := h
  omega

/-! ## The module word (Table 11-8) -/

theorem wrapInt_lt (n : Nat) (x : Int) : wrapInt n x < 2 ^ n := by
  have hpos : (0 : Int) < 2 ^ n := by positivity
  have hlo := Int.emod_nonneg x hpos.ne'
  have hhi := Int.emod_lt_of_pos x hpos
  unfold wrapInt
  zify
  rw [Int.toNat_of_nonneg hlo]
  exact_mod_cast hhi

theorem bit01_false : bit01 false = 0 := rfl

theorem bit01_true : bit01 true = 1 := rfl

theorem getLsbD_of_div {w : Dword} {i : Nat} {b : Bool} (h : w.toNat / 2 ^ i % 2 = bit01 b) : w.getLsbD i = b := by
  rw [← BitVec.testBit_toNat, Nat.testBit_eq_decide_div_mod_eq, h]
  cases b <;> rfl

section
variable {pid tick modNo tlen : Nat} {slip : Option (Nat × Nat)} {park resume prevAdv : Bool} {slack : Int}
  (hmod : modNo < 4096) (hslip : ∀ x, slip = some x → x.1 < 2048 ∧ x.2 ≤ 2) (htlen : tlen ≤ 22)
include hmod hslip htlen

/-- The fields of a module word do not overlap; those of SLIP are 0 where no core slips. -/
theorem penWord_toNat : ∃ cause mod core sl : Nat, (cause < 4 ∧ mod < 4096 ∧ core < 2048 ∧ sl < 4096) ∧
    (slip = none → cause = 0 ∧ mod = 0 ∧ core = 0) ∧
    (penWord pid slip park resume prevAdv tick slack modNo tlen).toNat =
      2 ^ 60 + pid % 4096 * 2 ^ 48 + bit01 slip.isSome * 2 ^ 47 + cause * 2 ^ 45 + bit01 park * 2 ^ 44 + bit01 resume * 2 ^ 43 +
      bit01 prevAdv * 2 ^ 42 + tick % 4 * 2 ^ 40 + sl * 2 ^ 28 + mod * 2 ^ 16 + core * 2 ^ 5 + tlen := by
  have hsl := wrapInt_lt 12 (max (-2048) (min 2047 (slack / 16)))
  have h1 := bit01_le park
  have h2 := bit01_le resume
  have h3 := bit01_le prevAdv
  cases slip with
  | none =>
    refine ⟨0, 0, 0, _, ⟨by omega, by omega, by omega, hsl⟩, fun _ => ⟨rfl, rfl, rfl⟩, ?_⟩
    simp only [penWord, BitVec.toNat_ofNat, Option.isSome_none, bit01_false]
    omega
  | some x =>
    obtain ⟨hcore, hcause⟩ := hslip x rfl
    refine ⟨x.2, modNo, x.1, _, ⟨by omega, hmod, hcore, hsl⟩, fun h => absurd h (by simp), ?_⟩
    simp only [penWord, BitVec.toNat_ofNat, Option.isSome_some, bit01_true]
    omega

theorem penWord_fields : let w := penWord pid slip park resume prevAdv tick slack modNo tlen
    bitsOf w.toNat 63 60 = 1 ∧ penPid w = pid % 4096 ∧ penPark w = park ∧ penResume w = resume ∧ w.getLsbD 42 = prevAdv ∧
    bitsOf w.toNat 41 40 = tick % 4 ∧ penTlen w = tlen ∧ penSlip w = slip.isSome ∧
    (slip = none → penCause w = 0 ∧ penMod w = 0 ∧ penCore w = 0) := by
  intro w
  obtain ⟨cause, mod, core, sl, ⟨hcause, hmod', hcore, hsl⟩, hnone, hw⟩ :
      ∃ cause mod core sl : Nat, _ ∧ _ ∧ w.toNat = _ := penWord_toNat hmod hslip htlen
  have h0 := bit01_le slip.isSome
  have h1 := bit01_le park
  have h2 := bit01_le resume
  have h3 := bit01_le prevAdv
  simp only [penPid, penPark, penResume, penTlen, penSlip, penCause, penMod, penCore, bitsOf, Nat.shiftRight_eq_div_pow]
  refine ⟨by omega, by omega, getLsbD_of_div ?_, getLsbD_of_div ?_, getLsbD_of_div ?_, by omega, by omega, getLsbD_of_div ?_,
    fun hs => ?_⟩
  · omega
  · omega
  · omega
  · omega
  · obtain ⟨rfl, rfl, rfl⟩ := hnone hs
    exact ⟨by omega, by omega, by omega⟩

end

/-! ## The lead point -/

/-- The state in which the cores of a partition report: its waits have timed out or are counted. -/
def leadReached (p : Nat) (s : State) : State := countWaits p (waitTimeouts p (advanceTo (s.part p).leadSt s))

/-- The cores have reported. -/
def leadReports (p : Nat) (s : State) : (Int × Option (Nat × Nat)) × State := coresLead p (s.part p).tick (leadReached p s)

/-- The tick length and the clock of the next tick are asked for. -/
def leadAsked (p : Nat) (s : State) : State :=
  let g := (tlenRequest (leadReports p s).2 p).2
  raiseVcore p g.nextClk ((leadReports p s).2.setPpart p g)

/-- The module word of the running tick. -/
def leadWord (p : Nat) (s : State) : Dword :=
  let pt := s.part p
  penWord (s.pid p) (leadReports p s).1.2 pt.parkReq pt.resumeReq pt.prevAdv pt.tick (leadReports p s).1.1 s.moduleNo
    (tlenRequest (leadReports p s).2 p).1

theorem raiseOncePer_ticks (gap key : Nat) (e : EventRec) (fns : List Nat) (s : State) : TicksKept s (raiseOncePer gap key e fns s) :=
  .of_kept (raiseOncePer_frame ..)

theorem waitTimeouts_ticks (p : Nat) (s : State) : TicksKept s (waitTimeouts p s) :=
  .foldl (fun _ _ => (raiseOncePer_ticks ..).trans (absorbExec_ticks ..)) _ s

theorem leadReached_part (p q : Nat) (s : State) : (leadReached p s).part q = s.part q :=
  ((countWaits_frame ..).part (by decide) q).trans
    (((advanceTo_ticks ..).trans (waitTimeouts_ticks ..)).part q)

theorem leadAsked_part (p q : Nat) (s : State) : (leadAsked p s).part q = s.part q :=
  ((raiseVcore_frame ..).part (by decide) q).trans (((State.setPpart_frame ..).part (by decide) q).trans
    (((coresLead_frame ..).part (by decide) q).trans (leadReached_part p q s)))

theorem leadReached_kept (p : Nat) (s : State) : Kept [.jr, .host, .adm, .tick, .cores] s (leadReached p s) :=
  .step (by decide) (.step (by decide) (.step (by decide) (.refl _ s) (advanceTo_frame ..)) (waitTimeouts_frame ..))
    (countWaits_frame ..)

theorem leadAsked_kept (p : Nat) (s : State) :
    Kept [.jr, .host, .reg, .adm, .tick, .cores, .pwr, .mnt] s (leadAsked p s) :=
  .step (by decide) (.step (by decide) (.step (by decide) (.step (by decide) (.refl _ s) (leadReached_kept p s))
    (coresLead_frame ..)) (State.setPpart_frame ..)) (raiseVcore_frame ..)

section
variable {L : List Comp} {s t : State}

theorem Kept.pid (h : Kept L s t) (hL : Comp.od ∉ L) (p : Nat) : t.pid p = s.pid p := by
  simp only [State.pid, odNat, h.od_eq hL]

theorem Kept.moduleNo (h : Kept L s t) (hL : Comp.od ∉ L ∧ Comp.life ∉ L) : t.moduleNo = s.moduleNo := by
  simp only [State.moduleNo, odNat, h.od_eq hL.1, h.life_eq hL.2]

theorem Kept.partCores (h : Kept L s t) (hL : Comp.reg ∉ L) (p : Nat) : t.partCores p = s.partCores p := by
  simp only [State.partCores, State.partClusters, State.partHas, h.reg_eq hL]

end

/-- The partition after its lead point: the module word joins the words received. -/
def Part.led (pt : Part) (w : Dword) (level : Option Nat) : Part :=
  { pt with lead := true, ownWord := w, merged := if pt.merged = 0 then w else penMerge w pt.merged, round := 0,
            hasFinal := false, parkReq := false, resumeReq := false, nextLevel := level }

theorem leadPoint_eq {p : Nat} {s : State} (ht : s.partTicks p) (hl : (s.part p).lead = false) : ∃ level,
    leadPoint p s = settleState ((leadAsked p s).setPart p ((s.part p).led (leadWord p s) level)) := by
  have hasked : leadPoint p s = settleState ((leadAsked p s).setPart p (((leadAsked p s).part p).led
      (penWord ((leadAsked p s).pid p) (leadReports p s).1.2 ((leadAsked p s).part p).parkReq ((leadAsked p s).part p).resumeReq
        ((leadAsked p s).part p).prevAdv ((leadAsked p s).part p).tick (leadReports p s).1.1 (leadAsked p s).moduleNo
        (tlenRequest (leadReports p s).2 p).1)
      (if (((leadAsked p s).part p).tick + 1) % 4096 = 2048 then some ((leadAsked p s).levelNow p)
        else ((leadAsked p s).part p).nextLevel))) := by
    unfold leadPoint
    rw [if_neg (by simp [ht, hl])]
    rfl
  rw [leadAsked_part, (leadAsked_kept p s).pid (by decide), (leadAsked_kept p s).moduleNo (by decide)] at hasked
  exact ⟨_, hasked⟩

theorem exec_leadPoint {p : Nat} (hp : p < 16) (s : State) : exec (.leadPoint p) s = .next (leadPoint p s) :=
  congrArg Host.Outcome.next (if_pos hp)

/-- Waits that have not stayed unmet for WAIT_TIMEOUT absorb no execution (R316). -/
theorem waitTimeouts_of_early {p : Nat} {s : State} (h : ∀ e ∈ s.adm.execs, e.phase = .running → e.plan.key.part = p →
    e.waitHeld + 1 < waitTimeout s e.ticket.fn) : waitTimeouts p s = s := by
  have hdue : s.adm.execs.filter (fun e => e.phase == .running && e.plan.key.part == p && !(s.part p).prevAdv &&
      waitTimeout s e.ticket.fn ≤ e.waitHeld + 1 && e.plan.cores.any (fun c => s.blockedOn c e.id)) = [] := by
    rw [List.filter_eq_nil_iff]
    intro e he
    have := h e he
    simp only [Bool.and_eq_true, beq_iff_eq, decide_eq_true_eq]
    rintro ⟨⟨⟨⟨hrun, hpart⟩, -⟩, hheld⟩, -⟩
    exact absurd hheld (not_le.2 (this hrun hpart))
  unfold waitTimeouts
  dsimp only
  rw [hdue]
  rfl

theorem leadReached_core_of_early {p : Nat} {s : State} (h : ∀ e ∈ s.adm.execs, e.phase = .running → e.plan.key.part = p →
    e.waitHeld + 1 < waitTimeout s e.ticket.fn) (c : Nat) : (leadReached p s).core c = s.core c := by
  have hearly : waitTimeouts p (advanceTo (s.part p).leadSt s) = advanceTo (s.part p).leadSt s := waitTimeouts_of_early h
  rw [leadReached, hearly]
  rfl

theorem tlenRequest_le (s : State) (p : Nat) : (tlenRequest s p).1 ≤ 22 := Nat.min_le_left ..

theorem leadReports_slip {p : Nat} {s : State} {x : Nat × Nat} (h : (leadReports p s).1.2 = some x) : x.1 < 2048 ∧ x.2 ≤ 2 := by
  rw [leadReports, coresLead_eq] at h
  obtain ⟨hmem, hcause⟩ := (foldl_leadStep_some _ h).resolve_left (by simp)
  exact ⟨lt_of_mem_partCores hmem, hcause⟩

/-- Settles O40: the fields of the word are those of the partition at its lead point, and of the first core that slips. -/
theorem leadPointFormsTheWord : Obligations.LeadPointFormsTheWord := by
  intro s p hp ht hl hmod pt
  obtain ⟨level, hlead⟩ := leadPoint_eq ht hl
  obtain ⟨htype, hpid, hpark, hresume, hadv, htick, htlen, hslip, hnone⟩ :=
    penWord_fields (pid := s.pid p) (tick := pt.tick) (park := pt.parkReq) (resume := pt.resumeReq) (prevAdv := pt.prevAdv)
      (slack := (leadReports p s).1.1) hmod (fun x => leadReports_slip (p := p) (s := s)) (tlenRequest_le (leadReports p s).2 p)
  have hpart : (leadPoint p s).part p = pt.led (leadWord p s) level := by
    rw [hlead, (settleState_frame _).part (by decide), part_setPart_self]
  refine ⟨_, leadWord p s, exec_leadPoint hp s, ?_, htype, hpid, hpark, hresume, hadv, htick, htlen.trans_le (tlenRequest_le ..),
    fun h => hnone ?_, fun hearly hlate => ?_⟩
  · rw [hpart]
    rfl
  · exact Option.not_isSome_iff_eq_none.1 (by rw [← hslip]; exact ne_true_of_eq_false h)
  · obtain ⟨c, hc, hidle⟩ := hlate
    refine hslip.trans (isSome_foldl_leadStep _ (.inr ⟨c, ?_, ?_⟩))
    · rwa [(leadReached_kept p s).partCores (by decide)]
    · rwa [leadReached_core_of_early hearly]

end Sys2Proof.Machine
end

section
/-!
Sending a record (R325, R327, R331-R333): which record of an output port leaves next, and what the sending of the only record of a port
does.
-/

namespace Sys2Proof.Machine

open Sys2Proof

/-! ## The record that leaves next (R327, R331, R333) -/

theorem mem_flowHeads {q : List LinkRecord} {x : Nat × LinkRecord} : x ∈ flowHeads q ↔
    q[x.1]? = some x.2 ∧ ∀ y ∈ q.take x.1, sameFlow x.2 y = false := by
  rw [flowHeads, List.mem_filter, List.mem_mapIdx]
  refine and_congr ⟨?_, fun h => ?_⟩ (by simp)
  · rintro ⟨i, hi, rfl⟩
    exact List.getElem?_eq_getElem hi
  · obtain ⟨hi, hx⟩ := List.getElem?_eq_some_iff.1 h
    exact ⟨x.1, hi, by rw [hx]⟩

theorem sameFlow_comm (a b : LinkRecord) : sameFlow a b = sameFlow b a := by
  simp only [sameFlow, Bool.beq_comm]

/-- The lesser of the least entry so far and one more. -/
def lesserBy {α : Type} (key : α → Nat) (b : Option α) (x : α) : α := b.elim x (fun y => if key x < key y then x else y)

theorem leastBy_append_singleton {α : Type} (key : α → Nat) (xs : List α) (x : α) :
    leastBy key (xs ++ [x]) = some (lesserBy key (leastBy key xs) x) := by
  rw [leastBy, List.foldl_append]
  unfold lesserBy
  change List.foldl _ (leastBy key xs) [x] = _
  cases leastBy key xs with
  | none => rfl
  | some y => exact (apply_ite some _ _ _).symm

theorem leastBy_eq_none {α : Type} {key : α → Nat} {xs : List α} : leastBy key xs = none ↔ xs = [] := by
  induction xs using List.reverseRecOn with
  | nil => simp [leastBy]
  | append_singleton xs x _ => simp [leastBy_append_singleton]

/-- The entry with the least key is one of the list, and no entry has a lesser one. -/
theorem leastBy_spec {α : Type} {key : α → Nat} {xs : List α} {y : α} (h : leastBy key xs = some y) :
    y ∈ xs ∧ ∀ x ∈ xs, key y ≤ key x := by
  induction xs using List.reverseRecOn generalizing y with
  | nil => exact absurd h (by simp [leastBy])
  | append_singleton xs x ih =>
    rw [leastBy_append_singleton] at h
    cases hxs : leastBy key xs with
    | none =>
      rw [hxs] at h
      obtain rfl := Option.some.inj h
      simp [leastBy_eq_none.1 hxs, lesserBy]
    | some z =>
      obtain ⟨hz, hleast⟩ := ih hxs
      rw [hxs] at h
      obtain rfl := Option.some.inj h
      simp only [lesserBy, Option.elim]
      split
      next hlt => exact ⟨by simp, List.forall_mem_append.2 ⟨fun w hw => hlt.le.trans (hleast w hw), by simp⟩⟩
      next hge => exact ⟨by simp [hz], List.forall_mem_append.2 ⟨hleast, by simpa using hge⟩⟩

/-- The records that could leave now. -/
def Link.ready (k : Link) : List (Nat × LinkRecord) := (flowHeads k.queue).filter (fun x => k.canSend x.2)

theorem mem_ready {k : Link} {x : Nat × LinkRecord} : x ∈ k.ready ↔ x ∈ flowHeads k.queue ∧ k.canSend x.2 := List.mem_filter

/-- A record that leaves next is ready; it is a CTL record where no DATA record is ready or three flits of DATA have gone, and else the
DATA record whose turn it is. -/
theorem pick_spec {k : Link} {i : Nat} (h : k.pick = some i) : ∃ r, (i, r) ∈ k.ready ∧
    ((∃ c ∈ k.ready, isData (recType c.2) = false) → (∃ d ∈ k.ready, isData (recType d.2)) →
      (isData (recType r) = false ↔ 3 ≤ k.ctlGap)) ∧
    (isData (recType r) → ∀ d ∈ k.ready, isData (recType d.2) → k.turnKey r ≤ k.turnKey d.2) := by
  have hctl {c : Nat × LinkRecord} (hc : k.ready.find? (fun x => !isData (recType x.2)) = some c) :
      c ∈ k.ready ∧ isData (recType c.2) = false := ⟨List.mem_of_find?_eq_some hc, by simpa using List.find?_some hc⟩
  have hdata {d : Nat × LinkRecord}
      (hd : leastBy (fun x => k.turnKey x.2) (k.ready.filter (fun x => isData (recType x.2))) = some d) :
      d ∈ k.ready ∧ isData (recType d.2) ∧ ∀ e ∈ k.ready, isData (recType e.2) → k.turnKey d.2 ≤ k.turnKey e.2 := by
    obtain ⟨hmem, hleast⟩ := leastBy_spec hd
    obtain ⟨hmem, htype⟩ := List.mem_filter.1 hmem
    exact ⟨hmem, htype, fun e he ht => hleast e (List.mem_filter.2 ⟨he, ht⟩)⟩
  unfold Link.pick at h
  extract_lets ok ctl data at h
  cases hc : ctl with
  | none =>
    cases hd : data with
    | none => simp [hc, hd] at h
    | some d =>
      obtain ⟨hmem, htype, hleast⟩ := hdata hd
      obtain rfl : d.1 = i := by simpa [hc, hd] using h
      refine ⟨d.2, hmem, fun ⟨c, hcmem, hcn⟩ _ => ?_, fun _ => hleast⟩
      exact absurd (List.find?_eq_none.1 hc c hcmem) (by simp [hcn])
  | some c =>
    obtain ⟨hcmem, hcn⟩ := hctl hc
    cases hd : data with
    | none =>
      obtain rfl : c.1 = i := by simpa [hc, hd] using h
      refine ⟨c.2, hcmem, fun _ ⟨d, hdmem, hdt⟩ => ?_, fun ht => absurd (hcn.symm.trans ht) (by simp)⟩
      exact absurd (leastBy_eq_none.1 hd) (List.ne_nil_of_mem (List.mem_filter.2 ⟨hdmem, hdt⟩))
    | some d =>
      obtain ⟨hmem, htype, hleast⟩ := hdata hd
      obtain rfl : (if 3 ≤ k.ctlGap then c.1 else d.1) = i := by simpa [hc, hd] using h
      split
      next hgap => exact ⟨c.2, hcmem, fun _ _ => iff_of_true hcn hgap, fun ht => absurd (hcn.symm.trans ht) (by simp)⟩
      next hgap => exact ⟨d.2, hmem, fun _ _ => iff_of_false (by simp [htype]) hgap, fun _ => hleast⟩

/-! ## A record at a protocol level (R332) -/

/-- The level of a link decides bit 4 of the header alone. -/
theorem hdrF_recAtLevel {hi lo : Nat} (h : hi < 4 ∨ 4 < lo) (r : LinkRecord) (level : Nat) :
    hdrF (recAtLevel r level).header hi lo = hdrF r.header hi lo := by
  have hbit {i : Nat} (hlo : lo ≤ i) (hhi : i ≤ hi) : (BitVec.ofNat 256 16).getLsbD i = false := by
    rw [BitVec.getLsbD_ofNat, show (16 : Nat) = 2 ^ 4 from rfl, Nat.testBit_two_pow_of_ne (by omega), Bool.and_false]
  unfold recAtLevel
  split
  · exact bitsOf_toNat_or _ _ _ _ fun i hlo hhi _ => hbit hlo hhi
  · refine bitsOf_toNat_and _ _ _ _ fun i hlo hhi hi => ?_
    rw [BitVec.getLsbD_not, hbit hlo hhi, decide_eq_true hi]
    rfl

theorem recType_recAtLevel (r : LinkRecord) (level : Nat) : recType (recAtLevel r level) = recType r :=
  hdrF_recAtLevel (.inl (by decide)) r level

theorem recHop_recAtLevel (r : LinkRecord) (level : Nat) : recHop (recAtLevel r level) = recHop r :=
  hdrF_recAtLevel (.inr (by decide)) r level

theorem recBuf_recAtLevel (r : LinkRecord) (level : Nat) : recBuf (recAtLevel r level) = recBuf r := by
  rw [recBuf, recType_recAtLevel, recHop_recAtLevel]
  rfl

theorem recFlits_pos (r : LinkRecord) : 0 < recFlits r := by
  rw [recFlits, ceilDiv, if_neg (by decide), recLen]
  omega

/-! ## Flits (R325) -/

/-- Sending the flits of a record numbers them on, and touches neither the queue nor the credit. -/
theorem foldl_txFlit (body : Nat → List Byte) (k : Link) (n : Nat) :
    let k' := (List.range n).foldl (fun (k : Link) j => k.txFlit (body j)) k
    k'.queue = k.queue ∧ k'.credit = k.credit ∧ (0 < n → k'.txSeq = (k.txSeq + n) % 4096) := by
  induction n with
  | zero => simp
  | succ n ih =>
    obtain ⟨hq, hc, hs⟩ := ih
    rw [List.range_succ, List.foldl_append]
    refine ⟨hq, hc, fun _ => ?_⟩
    rcases Nat.eq_zero_or_pos n with rfl | hn
    · rfl
    · refine (congrArg (fun m => (m + 1) % 4096) (hs hn)).trans ?_
      omega

/-! ## The check at egress -/

theorem egressAll_of_nil {r : LinkRecord} (h : r.blocks = []) (l : Nat) (s : State) : egressAll l r s = (r.blocks, s) := by
  rw [egressAll, h]
  rfl

/-- A block whose check word holds leaves as it is. -/
theorem egressAll_of_good {r : LinkRecord} {seg : BitVec 128 × BlockData} (h : r.blocks = [seg])
    (hgood : crc32c (blockBytes (segBlock (recCw r) seg).data) = (segBlock (recCw r) seg).check) (l : Nat) (s : State) :
    egressAll l r s = (r.blocks, s) := by
  have hseg : egressSeg l r 0 seg s = (seg, s) := by
    rw [egressSeg, verifyBlk, if_pos hgood]
    simp
  rw [egressAll, h]
  change ([] ++ [(egressSeg l r 0 seg s).1], (egressSeg l r 0 seg s).2) = _
  rw [hseg]
  rfl

/-! ## The only record of a port -/

/-- What the sending of a record looks at of its link, beside the queue: mode, level, credit and TXSEQ. -/
def Link.port (k : Link) : LinkMode × Nat × Tab Nat × Nat := (k.mode, k.level, k.credit, k.txSeq)

theorem pick_of_alone {k : Link} {r : LinkRecord} (hq : k.queue = [r]) :
    k.pick = if k.canSend r then some 0 else none := by
  have hheads : flowHeads k.queue = [(0, r)] := by rw [hq]; rfl
  rw [Link.pick, hheads]
  cases hs : k.canSend r <;> cases ht : isData (recType r) <;> simp [hs, ht, leastBy]

section
variable {l : Nat} {r : LinkRecord} {s : State}

/-- What a sent record is, where its check words hold at egress. -/
theorem transmit_of_verified (hv : egressAll l r s = (r.blocks, s)) : ∃ k : Link,
    transmit l 0 r s = noteSent l (recAtLevel r (s.link l).level) (noteWork 7 (l / 9) (recFn (recAtLevel r (s.link l).level))
      (recLen (recAtLevel r (s.link l).level)) (sendMsg (.record l (recAtLevel r (s.link l).level)) (s.setLink l k))) ∧
    k.queue = (s.link l).queue.eraseIdx 0 ∧
    k.credit = tputD bufUnits (s.link l).credit (recBuf r) (tgetD (s.link l).credit (recBuf r) bufUnits -
      recUnits (recAtLevel r (s.link l).level)) ∧
    k.txSeq = ((s.link l).txSeq + recFlits (recAtLevel r (s.link l).level)) % 4096 := by
  have hturn (k : Link) (a : LinkRecord) :
      (k.afterTurn a).queue = k.queue ∧ (k.afterTurn a).credit = k.credit ∧ (k.afterTurn a).txSeq = k.txSeq := by
    unfold Link.afterTurn
    split <;> exact ⟨rfl, rfl, rfl⟩
  unfold transmit
  rw [hv]
  extract_lets x u k a left k1 bytes k2
  obtain ⟨hq, hc, hseq⟩ := foldl_txFlit (fun j => (bytes.drop (248 * j)).take 248) (k1.afterTurn a) (recFlits a)
  obtain ⟨htq, htc, hts⟩ := hturn k1 a
  refine ⟨k2, rfl, hq.trans htq, hc.trans (htc.trans ?_), (hseq (recFlits_pos a)).trans ?_⟩
  · change tputD bufUnits (s.link l).credit (recBuf (recAtLevel r (s.link l).level))
      (tgetD (s.link l).credit (recBuf (recAtLevel r (s.link l).level)) bufUnits - _) = _
    rw [recBuf_recAtLevel]
  · rw [hts]

/-- Every check word of the record holds at the egress of a link (Table 9-5). -/
def LeavesWhole (l : Nat) (r : LinkRecord) : Prop := ∀ s : State, egressAll l r s = (r.blocks, s)

theorem noteSent_link (k : Nat) : (noteSent l r s).link k = s.link k := by
  unfold noteSent
  split <;> rfl

/-- The sending of the last record of a port. -/
theorem transmit_sent (hv : LeavesWhole l r) (hq : (s.link l).queue = [r]) :
    Kept [.net, .host, .reg] s (transmit l 0 r s) ∧ RecordSent l r s (transmit l 0 r s) := by
  obtain ⟨k, ht, hkq, hkc, hks⟩ := transmit_of_verified (hv s)
  rw [ht]
  have hlink : (noteSent l (recAtLevel r (s.link l).level) (noteWork 7 (l / 9) (recFn (recAtLevel r (s.link l).level))
      (recLen (recAtLevel r (s.link l).level)) (sendMsg (.record l (recAtLevel r (s.link l).level)) (s.setLink l k)))).link l = k :=
    (noteSent_link l).trans (link_setLink_self s l k)
  refine ⟨?_, ?_⟩
  · exact .step (by decide) (.step (by decide) (.step (by decide) (.step (by decide) (.refl _ s) (State.setLink_frame ..))
      (sendMsg_frame ..)) (noteWork_frame ..)) (noteSent_frame ..)
  · refine { out := ?_, queue := ?_, credit := ?_, flits := ?_ }
    · exact congrArg HostIf.out ((noteSent_frame ..).off.same .host (by decide))
    · rw [hlink, hkq, hq]
      rfl
    · rw [hlink, hkc, tgetD_tputD_self]
    · rw [hlink, hks]

/-- The same record has been sent from every state with this port. -/
theorem RecordSent.of_port {t u : State} (h : RecordSent l r u t) (hout : u.host.out = s.host.out)
    (hport : (u.link l).port = (s.link l).port) : RecordSent l r s t := by
  obtain ⟨-, hl, hc, hs⟩ : (u.link l).mode = (s.link l).mode ∧ (u.link l).level = (s.link l).level ∧
      (u.link l).credit = (s.link l).credit ∧ (u.link l).txSeq = (s.link l).txSeq := by
    simpa [Link.port] using hport
  refine { out := ?_, queue := h.queue, credit := ?_, flits := ?_ }
  · rw [← hout, ← hl]
    exact h.out
  · rw [← hc, ← hl]
    exact h.credit
  · rw [← hs, ← hl]
    exact h.flits

/-- The state with record r alone in the queue of link l. -/
def queued (l : Nat) (r : LinkRecord) (s : State) : State := s.setLink l { s.link l with queue := [r] }

theorem queued_link : (queued l r s).link l = { s.link l with queue := [r] } := link_setLink_self ..

/-- A record that comes to a free port leaves at once where it may, and waits where it may not. -/
theorem sendOn_of_free (hq : (s.link l).queue = []) :
    sendOn l r s = if (s.link l).canSend r then transmit l 0 r (queued l r s) else queued l r s := by
  have hqueue : sendOn l r s = pump l 1 (queued l r s) := by
    change pump l ((s.link l).queue.length + 1) (s.setLink l { s.link l with queue := (s.link l).queue ++ [r] }) = _
    rw [hq, List.nil_append, List.length_nil, Nat.zero_add, queued]
  have hpick : ((queued l r s).link l).pick = if (s.link l).canSend r then some 0 else none := by
    rw [queued_link, pick_of_alone (r := r) rfl]
    rfl
  rw [hqueue, pump, hpick]
  cases (s.link l).canSend r with
  | false => rfl
  | true => simp [queued_link, pump]

theorem sendOn_of_ready (hv : LeavesWhole l r) (hp : PortReady l r s) :
    Kept [.net, .host, .reg] s (sendOn l r s) ∧ RecordSent l r s (sendOn l r s) := by
  obtain ⟨hkept, hsent⟩ := transmit_sent (s := queued l r s) hv (by rw [queued_link])
  rw [sendOn_of_free hp.alone, if_pos hp.can]
  exact ⟨.step (by decide) (.step (by decide) (.refl _ s) (State.setLink_frame ..)) hkept,
    hsent.of_port rfl (by rw [queued_link]; rfl)⟩

theorem sendOn_of_blocked (hq : (s.link l).queue = []) (hc : (s.link l).canSend r = false) :
    Kept [.net] s (sendOn l r s) ∧ ((sendOn l r s).link l).queue = [r] := by
  rw [sendOn_of_free hq, hc]
  exact ⟨State.setLink_frame .., by rw [if_neg (by decide), queued_link]⟩

end

end Sys2Proof.Machine
end

section
/-!
Received records at their target (R328, R330): which of them a link takes, and the answers to a WR and an RD_REQ of one block.
-/

namespace Sys2Proof.Machine

open Sys2Proof

/-! ## The buffer that a record has left -/

section
variable {l n o : Nat} {r a : LinkRecord} {s u : State}

theorem oweFor_link_owed (l o : Nat) (r : LinkRecord) (s : State) :
    ∃ owed, (oweFor l r s).link o = { s.link o with owed := owed } := by
  by_cases h : o = l
  · subst h
    exact ⟨_, link_setLink_self ..⟩
  · exact ⟨(s.link o).owed, link_setLink_ne _ _ h⟩

theorem oweFor_port : ((oweFor l r s).link o).port = (s.link o).port := by
  obtain ⟨owed, h⟩ := oweFor_link_owed l o r s
  rw [h]
  rfl

theorem oweFor_queue : ((oweFor l r s).link o).queue = (s.link o).queue := by
  obtain ⟨owed, h⟩ := oweFor_link_owed l o r s
  rw [h]

theorem oweFor_mode : ((oweFor l r s).link o).mode = (s.link o).mode := by
  obtain ⟨owed, h⟩ := oweFor_link_owed l o r s
  rw [h]

theorem oweFor_level : ((oweFor l r s).link o).level = (s.link o).level := by
  obtain ⟨owed, h⟩ := oweFor_link_owed l o r s
  rw [h]

theorem oweFor_canSend : ((oweFor l r s).link o).canSend a = (s.link o).canSend a := by
  obtain ⟨owed, h⟩ := oweFor_link_owed l o r s
  rw [h]
  rfl

theorem PortReady.owed (h : PortReady o a s) : PortReady o a (oweFor l r s) :=
  ⟨oweFor_queue.trans h.alone, oweFor_canSend.trans h.can⟩

/-! What a request looks at of the module beside its links. -/

theorem oweFor_exchDva (i : Nat) : exchDva a i (oweFor l r s) = exchDva a i s := rfl

theorem oweFor_locate (f p dva : Nat) : (oweFor l r s).locate f p dva = s.locate f p dva := rfl

theorem oweFor_exchOk (p m : Nat) (wr : Bool) : exchOk p a m wr (oweFor l r s) = exchOk p a m wr s := rfl

theorem oweFor_pte (ref : PteRef) : (oweFor l r s).pte ref = s.pte ref := rfl

/-! ## What a link takes -/

/-- A record whose type and CHK are good is taken where it is for this module, and else goes on. -/
theorem onRecord_of_checked (hm : (s.link l).mode.usable) (ht : recType r = n) (hc : 4 ≤ (s.link l).level → recChk r)
    (act : State → State) :
    onRecord l n r act s = if recDst r ≠ s.moduleNo then forward l r (oweFor l r s) else act (oweFor l r s) := by
  unfold onRecord
  rw [hm]
  refine (if_neg (by decide)).trans (if_neg ?_)
  rintro (hne | ⟨hl, hbad⟩)
  · exact hne ht
  · simp [hc (oweFor_level (o := l) ▸ hl)] at hbad

theorem onRecord_of_takes (h : LinkTakes l n r s) (act : State → State) : onRecord l n r act s = act (oweFor l r s) := by
  rw [onRecord_of_checked h.usable h.rtype h.check, if_neg (not_not_intro h.mine)]

/-! ## Answers (R328, R330) -/

theorem leavesWhole_of_nil (h : a.blocks = []) : LeavesWhole o a := fun s => egressAll_of_nil h o s

/-- Between two modules an answer leaves on the link of its request (R334). -/
theorem sendAnswer_of_ready (ht : s.topology = 1) (hv : LeavesWhole l a) (hp : PortReady l a s) :
    Kept [.net, .host, .reg] s (sendAnswer l a s) ∧ RecordSent l a s (sendAnswer l a s) := by
  rw [sendAnswer, if_pos ht]
  exact sendOn_of_ready hv hp

theorem statusAnswer_eq {status : Nat} (hn : (if recType r = 1 then 4 else 3) = n) :
    statusAnswer l r status s = sendAnswer l (answerTo n status [] r s) s := by
  rw [statusAnswer, hn]
  rfl

theorem statusAnswer_of_ready {status : Nat} (hn : (if recType r = 1 then 4 else 3) = n) (ht : s.topology = 1)
    (hp : PortReady l (answerTo n status [] r s) s) :
    Kept [.net, .host, .reg] s (statusAnswer l r status s) ∧ RecordSent l (answerTo n status [] r s) s (statusAnswer l r status s) := by
  rw [statusAnswer_eq hn]
  exact sendAnswer_of_ready ht (leavesWhole_of_nil rfl) hp

/-- An answer sent once the buffer of the request is free again. -/
theorem answered {t : State} (h : Kept [.net, .host, .reg] (oweFor l r s) t ∧ RecordSent l a (oweFor l r s) t) :
    SameOff [.net, .host, .reg] s t ∧ RecordSent l a s t :=
  ⟨(Kept.step (by decide) (.step (by decide) (.refl _ s) (oweFor_frame ..)) h.1).off, h.2.of_port rfl oweFor_port⟩

/-- The compression width of an answer is that of its request. -/
theorem recCw_answerTo {status : Nat} {blocks : List (BitVec 128 × BlockData)} (hm : s.moduleNo < 4096) (hn : n < 16)
    (hs : status < 8) (hb : blocks.length < 32) : recCw (answerTo n status blocks r s) = recCw r := by
  have field (hi lo : Nat) : hdrF r.header hi lo < 2 ^ (hi + 1 - lo) := Nat.mod_lt _ (Nat.two_pow_pos _)
  have hsrc : recSrc r < 2 ^ 12 := field 19 8
  have hpid : recPid r < 2 ^ 12 := field 43 32
  have hfn : recFn r < 2 ^ 9 := field 52 44
  have hcw : recCw r < 2 ^ 3 := field 63 61
  have hoff : recOff r < 2 ^ 40 := field 103 64
  have htag : recTag r < 2 ^ 16 := field 119 104
  simp only [answerTo, mkHeader]
  generalize recSrc r = src at *
  generalize recPid r = pid at *
  generalize recFn r = fn at *
  generalize hc : recCw r = cw at *
  generalize recOff r = off at *
  generalize recTag r = tag at *
  rw [recCw, hdrF, bitsOf, BitVec.toNat_ofNat, Nat.shiftRight_eq_div_pow]
  omega

theorem moduleNo_lt_of_takes (h : LinkTakes l n r s) : s.moduleNo < 4096 := by
  rw [← h.mine]
  exact Nat.mod_lt _ (by decide)

/-! ## A WR of one block (R330) -/

theorem hbmBlk_setHbm (k : Nat) (b : Block) (s : State) : (s.setHbm k b).hbmBlk k = b.inHbm := by
  simp only [State.hbmBlk, State.setHbm, tget_tput_self]

theorem hbmBlk_setHbm_ne {k j : Nat} (h : j ≠ k) (b : Block) (s : State) : (s.setHbm k b).hbmBlk j = s.hbmBlk j := by
  simp only [State.hbmBlk, State.setHbm, tget_tput_ne _ _ h]

/-- A block whose check word holds enters the module as it came. -/
theorem ingress_of_good {f dva : Nat} {b : Block} (h : crc32c (blockBytes b.data) = b.check) : ingress l f dva b s = (b, s) := by
  unfold ingress
  split
  · rw [verifyBlk, if_pos h]
  · rw [h]

theorem ingressAll_of_nil (h : r.blocks = []) : ingressAll l r s = ([], s) := by
  rw [ingressAll, h]
  rfl

theorem ingressAll_of_good {seg : BitVec 128 × BlockData} (h : r.blocks = [seg])
    (hgood : crc32c (blockBytes (segBlock (recCw r) seg).data) = (segBlock (recCw r) seg).check) :
    ingressAll l r s = ([segBlock (recCw r) seg], s) := by
  rw [ingressAll, h]
  change ([] ++ [(ingress l (recFn r) (recOff r + 256 * 0) (segBlock (recCw r) seg) s).1],
    (ingress l (recFn r) (recOff r + 256 * 0) (segBlock (recCw r) seg) s).2) = _
  rw [ingress_of_good hgood]
  rfl

section
variable {f p dva pte hpa w : Nat} {wr : Bool} {ref : PteRef} {b : Block}

/-- A whole block for an open page of HBM is written as it is (R280, R283). -/
theorem writeBlk_of_hbm (hloc : s.locate f p dva = .hbm ref pte hpa w true) (hh : pteHost pte = false)
    (hz : pteZero (s.pte ref) = false) (hgood : crc32c (blockBytes b.data) = b.check) :
    writeBlk f p none dva b s = (noteWork 6 (hpa / 2 ^ 37) f 256 s).setHbm (hpa / 256) b := by
  have hverify (die : Nat) : verifyBlk f die none dva b s = (b, s) := if_pos hgood
  have hopen : openZeroPage ref s = s := if_neg (by simp [hz])
  have hpresent : ensurePresent f dva none (.hbm ref pte hpa w true) s = s := if_neg (by simp [hh])
  unfold writeBlk
  extract_lets l
  have hl : l = .hbm ref pte hpa w true := hloc
  clear_value l
  subst hl
  rw [if_neg (by simp [Loc.writable]), hverify]
  dsimp only
  rw [hpresent, hopen, hh]
  rfl

/-- A whole block of HBM is read as it is (R283). -/
theorem readBlk_of_hbm (hloc : s.locate f p dva = .hbm ref pte hpa w wr) (hh : pteHost pte = false) (hz : pteZero pte = false)
    (hcz : (s.hbmBlk (hpa / 256)).cz = false) (hecc : s.mem.eccBad.contains (eccKey 0 (hpa / 256)) = false)
    (hgood : crc32c (blockBytes (s.hbmBlk (hpa / 256)).data) = (s.hbmBlk (hpa / 256)).check) :
    readBlk f p none dva s = (s.hbmBlk (hpa / 256), noteWork 6 (hpa / 2 ^ 37) f 256 s) := by
  have hpresent : ensurePresent f dva none (.hbm ref pte hpa 0 false) s = s := if_neg (by simp [hh])
  unfold readBlk
  rw [hloc]
  dsimp only
  rw [hz, if_neg (by decide), hpresent, hcz, if_neg (by decide)]
  refine (if_neg ?_).trans (if_pos hgood)
  rw [show (noteWork _ _ f 256 s).mem = s.mem from rfl, hecc]
  decide

end

theorem wrTarget_of_unknown (h : s.partOfPid (recPid r) = none) : wrTarget l r s = statusAnswer l r 1 s := by
  simp only [wrTarget, h]

theorem rdTarget_of_unknown (h : s.partOfPid (recPid r) = none) : rdTarget l r s = statusAnswer l r 1 s := by
  simp only [rdTarget, h]

/-- A WR of one whole block within the exchange window writes it, and is answered with status 0. -/
theorem wrTarget_of_block {p : Nat} {seg : BitVec 128 × BlockData} (hp : s.partOfPid (recPid r) = some p) (hn : recNblk r = 1)
    (hb : r.blocks = [seg]) (hx : exchOk p r 1 true s)
    (hgood : crc32c (blockBytes (segBlock (recCw r) seg).data) = (segBlock (recCw r) seg).check)
    (hw : writeBlk (recFn r) p none (exchDva r 0 s) (segBlock (recCw r) seg) s = u) : wrTarget l r s = statusAnswer l r 0 u := by
  have hlen : min (recNblk r) (min 16 r.blocks.length) = 1 := by rw [hn, hb]; rfl
  have hin : ingressAll l { r with blocks := r.blocks.take 1 } s = ([segBlock (recCw r) seg], s) :=
    ingressAll_of_good (r := { r with blocks := r.blocks.take 1 }) (by rw [hb]; rfl) hgood
  unfold wrTarget
  rw [hp]
  dsimp only
  rw [hlen, if_pos hx, hin]
  dsimp only
  rw [List.mapIdx_cons, List.mapIdx_nil, List.foldl_cons, List.foldl_nil, hw]

/-- An RD_REQ of one block within the exchange window is answered with it. -/
theorem rdTarget_of_block {p : Nat} {b : Block} (hp : s.partOfPid (recPid r) = some p) (hn : recNblk r = 1)
    (hx : exchOk p r 1 false s) (hr : readBlk (recFn r) p none (exchDva r 0 s) s = (b, u)) :
    rdTarget l r s = sendAnswer l (answerTo 3 0 [blockSeg (recCw r) b] r s) u := by
  have hlen : min (recNblk r) 16 = 1 := by rw [hn]; rfl
  have hread : readExch p r (List.range 1) s = ([b], u) := by
    rw [readExch, List.range_one, List.foldl_cons, List.foldl_nil, hr]
    rfl
  unfold rdTarget
  rw [hp]
  dsimp only
  rw [hlen, if_pos hx, hread]
  rfl

/-! ## The requests of a link -/

theorem wr_of_unknown (h : LinkTakes l 1 r s) (ht : s.topology = 1) (hp : s.partOfPid (recPid r) = none)
    (hr : PortReady l (answerTo 4 1 [] r s) s) :
    ∃ t, exec (.wr l r) s = .next t ∧ SameOff [.net, .host, .reg] s t ∧ RecordSent l (answerTo 4 1 [] r s) s t := by
  have hact : wrTarget l r (oweFor l r s) = statusAnswer l r 1 (oweFor l r s) := wrTarget_of_unknown hp
  refine ⟨_, congrArg Host.Outcome.next ((onRecord_of_takes h _).trans hact), ?_⟩
  exact answered (statusAnswer_of_ready (if_pos h.rtype) ht hr.owed)

theorem rdReq_of_unknown (h : LinkTakes l 2 r s) (ht : s.topology = 1) (hp : s.partOfPid (recPid r) = none)
    (hr : PortReady l (answerTo 3 1 [] r s) s) :
    ∃ t, exec (.rdReq l r) s = .next t ∧ SameOff [.net, .host, .reg] s t ∧ RecordSent l (answerTo 3 1 [] r s) s t := by
  have hact : rdTarget l r (oweFor l r s) = statusAnswer l r 1 (oweFor l r s) := rdTarget_of_unknown hp
  refine ⟨_, congrArg Host.Outcome.next ((onRecord_of_takes h _).trans hact), ?_⟩
  exact answered (statusAnswer_of_ready (if_neg (by simp [h.rtype])) ht hr.owed)

section
variable {p pte hpa w : Nat} {wr : Bool} {ref : PteRef} {seg : BitVec 128 × BlockData}

theorem wr_of_block (h : LinkTakes l 1 r s) (ht : s.topology = 1) (hp : s.partOfPid (recPid r) = some p) (hn : recNblk r = 1)
    (hb : r.blocks = [seg]) (hx : exchOk p r 1 true s) (hloc : s.locate (recFn r) p (exchDva r 0 s) = .hbm ref pte hpa w true)
    (hh : pteHost pte = false) (hz : pteZero (s.pte ref) = false)
    (hgood : crc32c (blockBytes (segBlock (recCw r) seg).data) = (segBlock (recCw r) seg).check)
    (hr : PortReady l (answerTo 4 0 [] r s) s) :
    ∃ t, exec (.wr l r) s = .next t ∧ t.hbmBlk (hpa / 256) = (segBlock (recCw r) seg).inHbm ∧
      (∀ k, k ≠ hpa / 256 → t.hbmBlk k = s.hbmBlk k) ∧ RecordSent l (answerTo 4 0 [] r s) s t := by
  let u := (noteWork 6 (hpa / 2 ^ 37) (recFn r) 256 (oweFor l r s)).setHbm (hpa / 256) (segBlock (recCw r) seg)
  have hwrite : writeBlk (recFn r) p none (exchDva r 0 (oweFor l r s)) (segBlock (recCw r) seg) (oweFor l r s) = u :=
    writeBlk_of_hbm (by rw [oweFor_locate, oweFor_exchDva, hloc]) hh (by rw [oweFor_pte, hz]) hgood
  have hact : wrTarget l r (oweFor l r s) = statusAnswer l r 0 u :=
    wrTarget_of_block hp hn hb (by rw [oweFor_exchOk, hx]) hgood hwrite
  have hready : PortReady l (answerTo 4 0 [] r u) u := ⟨hr.owed.alone, hr.owed.can⟩
  obtain ⟨hkept, hsent⟩ := statusAnswer_of_ready (s := u) (if_pos h.rtype) ht hready
  have hhbm (k : Nat) : (statusAnswer l r 0 u).hbmBlk k = u.hbmBlk k := by
    simp only [State.hbmBlk, show (statusAnswer l r 0 u).mem = u.mem from hkept.off.same .mem (by decide)]
  refine ⟨_, congrArg Host.Outcome.next ((onRecord_of_takes h _).trans hact), ?_, fun k hk => ?_, ?_⟩
  · rw [hhbm, hbmBlk_setHbm]
  · rw [hhbm, hbmBlk_setHbm_ne hk]
    rfl
  · exact hsent.of_port rfl (oweFor_port (r := r))

theorem rdReq_of_block (h : LinkTakes l 2 r s) (ht : s.topology = 1) (hp : s.partOfPid (recPid r) = some p) (hn : recNblk r = 1)
    (hx : exchOk p r 1 false s) (hloc : s.locate (recFn r) p (exchDva r 0 s) = .hbm ref pte hpa w wr)
    (hh : pteHost pte = false) (hz : pteZero pte = false) (hcz : (s.hbmBlk (hpa / 256)).cz = false)
    (hecc : s.mem.eccBad.contains (eccKey 0 (hpa / 256)) = false)
    (hgood : crc32c (blockBytes (s.hbmBlk (hpa / 256)).data) = (s.hbmBlk (hpa / 256)).check)
    (hseg : blockSeg (recCw r) (s.hbmBlk (hpa / 256)) = seg)
    (hsent : crc32c (blockBytes (segBlock (recCw r) seg).data) = (segBlock (recCw r) seg).check)
    (hr : PortReady l (answerTo 3 0 [seg] r s) s) :
    ∃ t, exec (.rdReq l r) s = .next t ∧ SameOff [.net, .host, .reg] s t ∧ RecordSent l (answerTo 3 0 [seg] r s) s t := by
  let u := noteWork 6 (hpa / 2 ^ 37) (recFn r) 256 (oweFor l r s)
  have hread : readBlk (recFn r) p none (exchDva r 0 (oweFor l r s)) (oweFor l r s) = (s.hbmBlk (hpa / 256), u) :=
    readBlk_of_hbm (by rw [oweFor_locate, oweFor_exchDva, hloc]) hh hz hcz hecc hgood
  have hact : rdTarget l r (oweFor l r s) = sendAnswer l (answerTo 3 0 [seg] r s) u := by
    rw [rdTarget_of_block (s := oweFor l r s) hp hn (by rw [oweFor_exchOk, hx]) hread, hseg]
    rfl
  have hcw : recCw (answerTo 3 0 [seg] r s) = recCw r :=
    recCw_answerTo (moduleNo_lt_of_takes h) (by decide) (by decide) (by simp)
  have hwhole : LeavesWhole l (answerTo 3 0 [seg] r s) := fun u => egressAll_of_good rfl (hcw ▸ hsent) l u
  obtain ⟨hkept, hleft⟩ := sendAnswer_of_ready (s := u) ht hwhole ⟨hr.owed.alone, hr.owed.can⟩
  refine ⟨_, congrArg Host.Outcome.next ((onRecord_of_takes h _).trans hact), ?_, ?_⟩
  · exact (Kept.step (by decide) (.step (by decide) (.step (by decide) (.refl _ s) (oweFor_frame ..)) (noteWork_frame ..)) hkept).off
  · exact hleft.of_port rfl (oweFor_port (r := r))

end

theorem arrive_eq (h : LinkTakes l 5 r s) : exec (.arrive l r) s = .next (arriveAt (recOff r % 2 ^ 14) 1 none (oweFor l r s)) :=
  congrArg Host.Outcome.next (onRecord_of_takes h _)

/-! ## A record for another module (R334-R336) -/

theorem recordForward_eq (h1 : 1 ≤ recType r) (h5 : recType r ≤ 5) (hm : (s.link l).mode.usable)
    (hc : 4 ≤ (s.link l).level → recChk r) (hd : recDst r ≠ s.moduleNo) :
    exec (.recordForward l r) s = .next (forward l r (oweFor l r s)) := by
  refine congrArg Host.Outcome.next ((if_pos ⟨h1, h5⟩).trans ?_)
  rw [onRecord_of_checked hm rfl hc, if_pos hd]

theorem oweFor_linkOk (m k : Nat) : (oweFor l r s).linkOk m k = s.linkOk m k := by
  have hst : (oweFor l r s).linkSt m k = s.linkSt m k := by
    unfold State.linkSt
    rw [oweFor_mode]
    rfl
  rw [State.linkOk, State.linkOk, hst]

/-- Routes depend on the modes of the links alone. -/
theorem oweFor_routeLink (src dst key : Nat) : (oweFor l r s).routeLink src dst key = s.routeLink src dst key := by
  have hglobal (g x : Nat) : (oweFor l r s).globalOk g x = s.globalOk g x := oweFor_linkOk ..
  have hidx (g gd src : Nat) : (oweFor l r s).globalIdx g gd src = s.globalIdx g gd src := by
    have hok (g : Nat) : (oweFor l r s).globalOk g = s.globalOk g := funext (hglobal g)
    unfold State.globalIdx
    simp only [hok]
    rfl
  have hlocal (q : Nat) : (oweFor l r s).localLink q = s.localLink q := by
    unfold State.localLink
    simp only [oweFor_linkOk]
    rfl
  unfold State.routeLink
  simp only [oweFor_linkOk, hidx, hlocal]
  rfl

theorem forward_of_blocks_nil (hhop : recHop r < 4) (ho : s.routeOf r = some o) (hb : r.blocks = []) :
    forward l r s = sendOn o (bumpHop r) s := by
  unfold forward
  rw [if_neg (Nat.not_le.2 hhop), ho, ingressAll_of_nil hb]
  exact congrArg (fun bs => sendOn o { bumpHop r with blocks := bs } s) hb.symm

end

end Sys2Proof.Machine
end

section
/-!
Accesses that end (R330): the record that tells of a record with no route stays in the journal, and the task that waits for a tag waits
no more.
-/

namespace Sys2Proof.Machine

open Sys2Proof

/-! ## What waits for the event journal -/

/-- No record that waits for the event journal is lost. -/
def JournalGrows (s t : State) : Prop := s.jr.waiting ⊆ t.jr.waiting

theorem JournalGrows.refl (s : State) : JournalGrows s s := List.Subset.refl _

theorem JournalGrows.trans {s t u : State} (h : JournalGrows s t) (k : JournalGrows t u) : JournalGrows s u := List.Subset.trans h k

theorem JournalGrows.of_kept {L : List Comp} {s t : State} (h : Kept L s t) (hL : Comp.jr ∉ L := by decide) : JournalGrows s t := by
  have hjr : t.jr = s.jr := h.off.same .jr hL
  rw [JournalGrows, hjr]
  exact List.Subset.refl _

theorem JournalGrows.snd {α : Type} {s t : State} {a : α} (h : JournalGrows s t) : JournalGrows s (a, t).2 := h

theorem JournalGrows.journalled {code : Nat} {s t : State} (h : JournalGrows s t) (hs : Journalled code s) : Journalled code t := by
  obtain ⟨e, he, hc⟩ := hs
  exact ⟨e, h he, hc⟩

section
variable {l n : Nat} {r : LinkRecord} {s : State}

theorem raiseFor_journal (e : EventRec) (fns : List Nat) (s : State) : JournalGrows s (raiseFor e fns s) := by
  simp only [JournalGrows, raiseFor]
  split
  · exact List.subset_append_left _ _
  · exact List.Subset.refl _

theorem raiseMem_journal (code f die : Nat) (core info : Option Nat) (dva : Nat) (s : State) :
    JournalGrows s (raiseMem code f die core info dva s) := by
  unfold raiseMem raiseOncePer
  split
  · exact .refl s
  · exact raiseFor_journal ..

theorem verifyBlk_journal (f die : Nat) (core : Option Nat) (dva : Nat) (b : Block) (s : State) :
    JournalGrows s (verifyBlk f die core dva b s).2 := by
  unfold verifyBlk
  split
  · exact .refl s
  · exact raiseMem_journal (s := addMmuStat f 47 32 1 s) ..

theorem egressSeg_journal (l : Nat) (r : LinkRecord) (i : Nat) (seg : BitVec 128 × BlockData) (s : State) :
    JournalGrows s (egressSeg l r i seg s).2 := by
  unfold egressSeg
  exact .snd (verifyBlk_journal ..)

theorem egressAll_journal (l : Nat) (r : LinkRecord) (s : State) : JournalGrows s (egressAll l r s).2 := by
  unfold egressAll
  exact foldl_inv (fun a : List (BitVec 128 × BlockData) × State => JournalGrows s a.2) _ _ _ (.refl s)
    (fun _ _ h => .snd (h.trans (egressSeg_journal ..)))

theorem transmit_journal (l i : Nat) (r : LinkRecord) (s : State) : JournalGrows s (transmit l i r s) := by
  unfold transmit
  refine (egressAll_journal l r s).trans (.of_kept (L := [.host, .reg, .net]) ?_)
  exact .step (by decide) (.step (by decide) (.step (by decide) (.step (by decide) (.refl _ _) (State.setLink_frame ..))
    (sendMsg_frame ..)) (noteWork_frame ..)) (noteSent_frame ..)

theorem pump_journal (l n : Nat) (s : State) : JournalGrows s (pump l n s) := by
  induction n generalizing s with
  | zero => exact .refl s
  | succ n ih =>
    unfold pump
    split
    · exact .refl s
    · split
      · exact .refl s
      · exact (transmit_journal ..).trans (ih _)

theorem sendOn_journal (l : Nat) (r : LinkRecord) (s : State) : JournalGrows s (sendOn l r s) :=
  .trans (.of_kept (State.setLink_frame ..)) (pump_journal ..)

theorem raiseRoute_journal (link : Option Nat) (rtype status dst : Nat) (s : State) :
    JournalGrows s (raiseRoute link rtype status dst s) := raiseFor_journal ..

theorem sendAnswer_journal (back : Nat) (r : LinkRecord) (s : State) : JournalGrows s (sendAnswer back r s) := by
  have hrecord : JournalGrows s (sendRecord r s).2 := by
    unfold sendRecord
    split
    · exact .refl s
    · exact sendOn_journal ..
  unfold sendAnswer
  split
  · exact sendOn_journal ..
  · generalize sendRecord r s = x at hrecord
    obtain ⟨routed, u⟩ := x
    cases routed with
    | true => exact hrecord
    | false => exact hrecord.trans (raiseRoute_journal ..)

theorem raiseRoute_journalled (link : Option Nat) (rtype status dst : Nat) (s : State) :
    Journalled 0x040D (raiseRoute link rtype status dst s) :=
  ⟨_, List.mem_append_right _ (List.mem_singleton_self _), rfl⟩

/-- A record with no way on is journalled; where its request is of another module, the module keeps all but links and registers. -/
theorem noRoute_of_other (hs : recSrc r ≠ s.moduleNo) :
    Kept [.jr, .host, .reg, .net] s (noRoute l r s) ∧ Journalled 0x040D (noRoute l r s) := by
  have hraised := raiseRoute_journalled (some l) (recType r) 2 (recDst r) s
  have hkept := raiseRoute_frame (some l) (recType r) 2 (recDst r) s
  unfold noRoute
  extract_lets u
  split
  · have hsrc : recSrc r ≠ u.moduleNo := hs
    rw [if_neg hsrc]
    exact ⟨.step (by decide) (.step (by decide) (.refl _ s) hkept) (statusAnswer_frame ..),
      (sendAnswer_journal ..).journalled hraised⟩
  · exact ⟨.step (by decide) (.refl _ s) hkept, hraised⟩

/-- A record that has passed four links goes no further (R334). -/
theorem forward_of_hops (hhop : 4 ≤ recHop r) : forward l r s = noRoute l r s := if_pos hhop

end

/-! ## The end of a wait (R330, R334) -/

section
variable {x : Remote} {f : Run → Run} {s u : State}

/-- The task that waits for a tag waits no more. -/
theorem tagDone_onTag (hr : u.net.remote = s.net.remote.filter (fun y => y.tag != x.tag)) (hc : u.core x.core = s.core x.core) :
    TagDone x f s (onTag x.core x.tag f u) := by
  refine ⟨hr, fun r hrun hwait => ?_⟩
  unfold onTag
  extract_lets k g
  rw [core_setCore_self]
  change k.run.map g = _
  rw [show k.run = some r from (congrArg Core.run hc).trans hrun, Option.map_some]
  exact congrArg some (if_pos hwait)

theorem dropTag_done (hn : u.net.remote = s.net.remote) (tag : Nat) :
    (dropTag tag u).net.remote = s.net.remote.filter (fun y => y.tag != tag) := by
  rw [← hn]
  rfl

theorem tagDone_failWrite (hr : u.net.remote = s.net.remote.filter (fun y => y.tag != x.tag)) (hc : u.core x.core = s.core x.core) :
    TagDone x (fun k => ((s.core x.core).failStep x.step x.elems k).1) s (failWrite x.core x.tag x.step x.elems u) := by
  have hnet : (failWrite x.core x.tag x.step x.elems u).net = u.net := (failWrite_frame ..).off.same .net (by decide)
  refine ⟨(congrArg LinkNet.remote hnet).trans hr, fun r hrun hwait => ?_⟩
  have hfind : ((u.core x.core).run.toList ++ (u.core x.core).paused).find? (fun r => r.remote.contains x.tag) = some r := by
    rw [hc, hrun, Option.toList_some, List.singleton_append, List.find?_cons_of_pos (by exact hwait)]
  unfold failWrite
  dsimp only
  rw [hfind]
  dsimp only
  unfold onTag
  rw [core_setCore_self, core_setCore_self]
  change Option.map _ (u.core x.core).run = _
  rw [hc, hrun, Option.map_some, if_pos hwait]
  rfl

/-- A failed access first leaves the table of those that wait. -/
theorem failAccess_dropped (x : Remote) (status : Nat) (s : State) : ∃ u, Kept [.jr, .host, .net] s u ∧
    u.net.remote = s.net.remote.filter (fun y => y.tag != x.tag) ∧ (status ≠ 1 → Kept [.net] s u) ∧
    failAccess x status s = if x.write then failWrite x.core x.tag x.step x.elems u
      else onTag x.core x.tag (fun r => { r with buf := (x.dst / 256, Block.zeroPoison) :: r.buf }) u := by
  by_cases h : status = 1
  · have hk := outOfWindow_frame x.fn (some x.core) x.dst s
    refine ⟨dropTag x.tag (outOfWindow x.fn (some x.core) x.dst s), ?_,
      dropTag_done (congrArg LinkNet.remote (hk.off.same .net (by decide))) _,
      fun hne => absurd h hne, ?_⟩
    · exact .step (by decide) (.step (by decide) (.refl _ s) hk) (dropTag_frame ..)
    · rw [failAccess, if_pos h]
  · refine ⟨dropTag x.tag s, .step (by decide) (.refl _ s) (dropTag_frame ..), dropTag_done rfl _, fun _ => dropTag_frame .., ?_⟩
    rw [failAccess, if_neg h]

/-- What an access that ends with a status makes of the task that waited for it. -/
def failedRun (k : Core) (x : Remote) (r : Run) : Run :=
  if x.write then (k.failStep x.step x.elems r).1 else { r with buf := (x.dst / 256, Block.zeroPoison) :: r.buf }

theorem failedRun_of_read (k : Core) (h : x.write = false) :
    failedRun k x = fun r => { r with buf := (x.dst / 256, Block.zeroPoison) :: r.buf } := by
  funext r
  rw [failedRun, h]
  exact if_neg (by decide)

theorem failedRun_of_write (k : Core) (h : x.write = true) : failedRun k x = fun r => (k.failStep x.step x.elems r).1 := by
  funext r
  rw [failedRun, if_pos h]

/-- A failed write has failed its step; a failed read delivers zeros, poisoned. -/
theorem tagDone_failAccess (status : Nat) (hn : u.net.remote = s.net.remote) (hc : u.core x.core = s.core x.core) :
    TagDone x (failedRun (s.core x.core) x) s (failAccess x status u) := by
  obtain ⟨v, hv, hremote, -, heq⟩ := failAccess_dropped x status u
  have hr : v.net.remote = s.net.remote.filter (fun y => y.tag != x.tag) := hremote.trans (by rw [hn])
  have hcore : v.core x.core = s.core x.core := (hv.core (by decide) _).trans hc
  rw [heq]
  unfold failedRun
  cases x.write with
  | true => exact tagDone_failWrite hr hcore
  | false => exact tagDone_onTag hr hcore

theorem failAccess_kept {status : Nat} (h : status ≠ 1) : Kept [.cores, .net] s (failAccess x status s) := by
  obtain ⟨u, -, -, hu, heq⟩ := failAccess_dropped x status s
  rw [heq]
  refine kept_ite ?_ ?_
  · exact .step (by decide) (.step (by decide) (.refl _ s) (hu h)) (failWrite_frame ..)
  · exact .step (by decide) (.step (by decide) (.refl _ s) (hu h)) (onTag_frame ..)

end

/-! ## RD_DATA, ACK and the timeout -/

section
variable {l : Nat} {r : LinkRecord} {x : Remote} {s : State}

/-- RD_DATA with a status other than OK. -/
theorem rdDataIn_of_failed {u : State} (hx : u.waiting (recTag r) false = some x) (hs : recStatus r ≠ 0) :
    rdDataIn l r u = failAccess x (recStatus r) u := by
  simp only [rdDataIn, hx, if_pos hs]

/-- RD_DATA that brings a whole block. -/
theorem rdDataIn_of_good {u : State} {seg : BitVec 128 × BlockData} {rest : List (BitVec 128 × BlockData)}
    (hx : u.waiting (recTag r) false = some x) (hs : recStatus r = 0) (hb : r.blocks = seg :: rest)
    (hgood : crc32c (blockBytes (segBlock (recCw r) seg).data) = (segBlock (recCw r) seg).check) :
    rdDataIn l r u = onTag x.core x.tag (fun k => { k with buf := (x.dst / 256, segBlock (recCw r) seg) :: k.buf }) (dropTag x.tag u) := by
  unfold rdDataIn
  rw [hx]
  dsimp only
  rw [if_neg (not_not_intro hs), hb]
  dsimp only
  rw [ingress_of_good hgood]

/-- ACK (R330): an ACK of status 0 ends the wait, another fails the write. -/
theorem ackIn_of_waiting {u : State} (hx : u.waiting (recTag r) true = some x) :
    ackIn r u = if recStatus r ≠ 0 then failAccess x (recStatus r) u else onTag x.core x.tag (fun k => k) (dropTag x.tag u) := by
  simp only [ackIn, hx]

theorem waiting_write {u : State} {tag : Nat} {wr : Bool} (hx : u.waiting tag wr = some x) : x.write = wr := by
  have h := List.find?_some hx
  simp only [Bool.and_eq_true, beq_iff_eq] at h
  exact h.2

theorem waiting_eq_none {tag : Nat} (h : ∀ x ∈ s.net.remote, x.tag ≠ tag) (wr : Bool) : s.waiting tag wr = none :=
  List.find?_eq_none.2 fun x hx => by simp [h x hx]

theorem rdData_done (h : LinkTakes l 3 r s) (hx : s.waiting (recTag r) false = some x) :
    ∃ t, exec (.rdData l r) s = .next t ∧
      (recStatus r ≠ 0 → TagDone x (fun k => { k with buf := (x.dst / 256, Block.zeroPoison) :: k.buf }) s t) ∧
      (∀ seg rest, recStatus r = 0 → r.blocks = seg :: rest →
        crc32c (blockBytes (segBlock (recCw r) seg).data) = (segBlock (recCw r) seg).check →
        TagDone x (fun k => { k with buf := (x.dst / 256, segBlock (recCw r) seg) :: k.buf }) s t) := by
  refine ⟨_, congrArg Host.Outcome.next (onRecord_of_takes h _), fun hs => ?_, fun seg rest hs hb hgood => ?_⟩
  · rw [rdDataIn_of_failed (u := oweFor l r s) hx hs, ← failedRun_of_read (s.core x.core) (waiting_write hx)]
    exact tagDone_failAccess _ rfl rfl
  · rw [rdDataIn_of_good (u := oweFor l r s) hx hs hb hgood]
    exact tagDone_onTag (dropTag_done rfl _) rfl

theorem ack_done (h : LinkTakes l 4 r s) (hx : s.waiting (recTag r) true = some x) :
    ∃ t, exec (.ack l r) s = .next t ∧
      TagDone x (fun k => if recStatus r = 0 then k else ((s.core x.core).failStep x.step x.elems k).1) s t := by
  refine ⟨_, congrArg Host.Outcome.next (onRecord_of_takes h _), ?_⟩
  rw [ackIn_of_waiting (u := oweFor l r s) hx]
  by_cases hs : recStatus r = 0
  · simp only [hs, ne_eq, not_true_eq_false, if_false, if_true]
    exact tagDone_onTag (dropTag_done rfl _) rfl
  · simp only [hs, ne_eq, not_false_eq_true, if_false, if_true]
    rw [← failedRun_of_write (s.core x.core) (waiting_write hx)]
    exact tagDone_failAccess _ rfl rfl

theorem rdData_of_unasked (ht : ∀ x ∈ s.net.remote, x.tag ≠ recTag r) (h : LinkTakes l 3 r s) :
    exec (.rdData l r) s = .next (oweFor l r s) := by
  refine congrArg Host.Outcome.next ((onRecord_of_takes h _).trans ?_)
  simp only [rdDataIn, waiting_eq_none (s := oweFor l r s) ht false]

theorem ack_of_unasked (ht : ∀ x ∈ s.net.remote, x.tag ≠ recTag r) (h : LinkTakes l 4 r s) :
    exec (.ack l r) s = .next (oweFor l r s) := by
  refine congrArg Host.Outcome.next ((onRecord_of_takes h _).trans ?_)
  simp only [ackIn, waiting_eq_none (s := oweFor l r s) ht true]

/-- A request that is still in a queue has not been sent, and waits on. -/
theorem requestTimeout_of_unsent {tag : Nat} (hx : s.net.remote.find? (fun y => y.tag == tag) = some x) (h : s.unsent tag) :
    exec (.requestTimeout tag) s = .next s := by
  change execRequestTimeout tag s = _
  simp only [execRequestTimeout, hx, if_pos h]

theorem requestTimeout_of_sent {tag : Nat} (hx : s.net.remote.find? (fun y => y.tag == tag) = some x) (h : s.unsent tag = false) :
    ∃ t, exec (.requestTimeout tag) s = .next t ∧ t.tick.st = max s.tick.st (x.sentAt + 16000000) ∧ Journalled 0x040D t ∧
      TagDone x (failedRun (s.core x.core) x) s t := by
  let u := raiseRoute (some x.link) (if x.write then 1 else 2) 3 x.dest (advanceTo (x.sentAt + msSt) s)
  have hu : Kept [.jr, .host] (advanceTo (x.sentAt + msSt) s) u := raiseRoute_frame ..
  have hend : Kept [.cores, .net] u (failAccess x 3 u) := failAccess_kept (by decide)
  refine ⟨failAccess x 3 u, ?_, ?_, ?_, ?_⟩
  · change execRequestTimeout tag s = _
    simp only [execRequestTimeout, hx, h]
    rfl
  · rw [hend.tick_eq (by decide), hu.tick_eq (by decide)]
    rfl
  · exact (JournalGrows.of_kept hend).journalled (raiseRoute_journalled ..)
  · exact tagDone_failAccess _ (congrArg LinkNet.remote (hu.off.same .net (by decide))) (hu.core (by decide) _)

end

end Sys2Proof.Machine
end

section
/-!
Received flits (R325, R326): the flit that is discarded and asked for again, and the accepted flit that ends no record.
-/

namespace Sys2Proof.Machine

open Sys2Proof

section
variable {l : Nat} {f : BlockData} {bad : Bool} {m : Dword} {s : State}

theorem flitGood_iff : flitGood f bad = true ↔
    bad = false ∧ fieldLE (blockBytes f) 252 4 = (crc32 ((blockBytes f).take 252)).toNat := by
  simp [flitGood]

theorem markerIn_of_idle (h : bitsOf m.toNat 63 60 = 0) : markerIn l m s = s := by
  simp only [markerIn, h]

/-- What an accepted flit does beside its header. -/
def flitBody (l : Nat) (f : BlockData) (s : State) : State :=
  if (s.link l).mode.usable then reportBack l (bodyIn l f s) else s

theorem flitReceive_eq (hm : (s.link l).mode.usable ∨ (s.link l).mode = .soak) (hi : bitsOf m.toNat 63 60 = 0) :
    exec (.flitReceive l f ⟨bad, m⟩) s =
      .next (if (flitReceive l f bad s).1 then flitBody l f (flitReceive l f bad s).2 else (flitReceive l f bad s).2) := by
  have hmode : ((s.link l).mode.usable || (s.link l).mode == .soak) = true := by simpa using hm
  refine congrArg Host.Outcome.next ((if_pos hmode).trans ?_)
  dsimp only
  rw [markerIn_of_idle hi, ite_self, flitBody]
  cases (flitReceive l f bad s).1 <;> rfl

/-! ## A flit that is discarded (R326) -/

/-- What a discarded flit counts as on its link. -/
def Link.noted (k : Link) (good bad : Bool) : Link :=
  if good then k
  else { k with fecUncorr := if bad then (k.fecUncorr + 1) % 2 ^ 64 else k.fecUncorr, errNow := true, soakBad := true }

theorem noteFlit_spec (l : Nat) (good bad : Bool) (s : State) :
    Kept [.net, .jr, .host] s (noteFlit l good bad s) ∧ (noteFlit l good bad s).link l = (s.link l).noted good bad := by
  unfold noteFlit Link.noted
  dsimp only
  split
  · exact ⟨.refl _ s, rfl⟩
  · split
    · have hraise := raiseLinkSec_frame 0x040B l (s.setLink l { s.link l with
        fecUncorr := if bad then ((s.link l).fecUncorr + 1) % 2 ^ 64 else (s.link l).fecUncorr, errNow := true, soakBad := true })
      refine ⟨.step (by decide) (.step (by decide) (.refl _ s) (State.setLink_frame ..)) hraise, ?_⟩
      rw [State.link, hraise.off.same .net (by decide)]
      exact link_setLink_self ..
    · exact ⟨.step (by decide) (.refl _ s) (State.setLink_frame ..), link_setLink_self ..⟩

theorem discardFlit_link : (discardFlit l s).link l = if (s.link l).nakSent then s.link l else
    { s.link l with nakSent := true, sinceAck := 0 } := by
  unfold discardFlit
  dsimp only
  split
  · rfl
  · exact link_setLink_self ..

theorem discardFlit_kept : Kept [.net, .host] s (discardFlit l s) := by
  unfold discardFlit
  exact kept_ite (.refl _ s) (.step (by decide) (.step (by decide) (.refl _ s) (State.setLink_frame ..)) (sendMsg_frame ..))

/-- The first discarded flit is answered with NAK. -/
theorem discardFlit_nak (h : (s.link l).nakSent = false) :
    OutMsg.nak l (((s.link l).rxSeq + 4095) % 4096) ∈ (discardFlit l s).host.out := by
  unfold discardFlit
  dsimp only
  rw [h, if_neg (by decide)]
  exact List.mem_append_right _ (List.mem_singleton_self _)

theorem flitReceive_of_discarded (h : flitGood f bad = false ∨
    (bitOf (fieldLE (blockBytes f) 0 4) 25 = false ∧ fieldLE (blockBytes f) 0 4 % 4096 ≠ (s.link l).rxSeq)) :
    flitReceive l f bad s = (false, discardFlit l (noteFlit l (flitGood f bad) bad s)) := by
  have hseq : ((noteFlit l (flitGood f bad) bad s).link l).rxSeq = (s.link l).rxSeq := by
    rw [(noteFlit_spec ..).2, Link.noted]
    split <;> rfl
  refine if_pos ?_
  rw [hseq]
  rcases h with hbad | ⟨hnull, hne⟩
  · simp [hbad]
  · simp [hnull, hne]

/-! ## An accepted flit -/

/-- A link after an accepted flit, but for the replay it may ask for. -/
def Link.taken (k : Link) (w : Nat) : Link :=
  { k with rxSeq := if bitOf w 25 then k.rxSeq else (k.rxSeq + 1) % 4096, nakSent := false, sinceAck := k.sinceAck + 1 }

theorem takeCredit_of_none {code : Nat} (h : 40 ≤ code) : takeCredit l code s = s := if_neg (by omega)

theorem flitReceive_of_accepted (hgood : flitGood f bad = true)
    (hseq : bitOf (fieldLE (blockBytes f) 0 4) 25 ∨ fieldLE (blockBytes f) 0 4 % 4096 = (s.link l).rxSeq)
    (hcred : 40 ≤ bitsOf (fieldLE (blockBytes f) 0 4) 31 26) :
    flitReceive l f bad s = (true,
      let u := s.setLink l ((s.link l).taken (fieldLE (blockBytes f) 0 4))
      if bitOf (fieldLE (blockBytes f) 0 4) 24 then replayFlits l (bitsOf (fieldLE (blockBytes f) 0 4) 23 12) u
      else u.setLink l { u.link l with replayRow := 0 }) := by
  have hnote : noteFlit l (flitGood f bad) bad s = s := by rw [hgood]; rfl
  unfold flitReceive
  dsimp only
  rw [hnote, takeCredit_of_none hcred, if_neg]
  · rfl
  · rcases hseq with hnull | heq
    · simp [hgood, hnull]
    · simp [hgood, heq]

/-- A NAK whose replay is below the threshold and is not the eighth of one flit in a row (R326). -/
theorem replayFlits_of_few {ack : Nat} {n : Nat}
    (hn : n = min (s.link l).kept.length (((s.link l).txSeq + 4096 - (ack + 1)) % 4096))
    (hsec : (s.link l).replaysSec + n ≤ replayThresh s) (hrow : (s.link l).replayRow < 7 ∨ (s.link l).replayFrom ≠ ack) :
    ∃ row, replayFlits l ack s = sendMsg (.replay l ((ack + 1) % 4096) n)
      (s.setLink l { s.link l with replays := ((s.link l).replays + n) % 2 ^ 64, replaysSec := (s.link l).replaysSec + n,
                                   replayRow := row, replayFrom := ack }) := by
  subst hn
  refine ⟨if (s.link l).replayRow != 0 && (s.link l).replayFrom == ack then (s.link l).replayRow + 1 else 1, ?_⟩
  have hlast : (if (s.link l).replayRow != 0 && (s.link l).replayFrom == ack then (s.link l).replayRow + 1 else 1) < 8 := by
    split
    next hsame =>
      have heq : (s.link l).replayFrom = ack := by simp at hsame; exact hsame.2
      have := hrow.resolve_right (not_not_intro heq)
      omega
    next => decide
  unfold replayFlits
  dsimp only
  refine (if_neg (Nat.not_le.2 hlast)).trans (if_neg (Nat.not_lt.2 hsec))

/-! ## The body of a flit that ends no record -/

theorem takeRecords_of_filling (n : Nat) {bs : List Byte} (h : fieldLE bs 0 1 % 16 = 0) : takeRecords (n + 1) bs = ([], []) := by
  rw [takeRecords, if_pos h]

theorem bodyIn_of_filling (h : bitOf (fieldLE (blockBytes f) 0 4) 25 ∨
    ((s.link l).rxBody = [] ∧ fieldLE (blockBytes f) 4 1 % 16 = 0)) :
    Kept [.net] s (bodyIn l f s) ∧ (bodyIn l f s).link l = s.link l := by
  by_cases hnull : bitOf (fieldLE (blockBytes f) 0 4) 25
  · rw [bodyIn, if_pos hnull]
    exact ⟨.refl _ s, rfl⟩
  · obtain ⟨hempty, hfirst⟩ := h.resolve_left hnull
    have hbytes : fieldLE ((s.link l).rxBody ++ ((blockBytes f).drop 4).take 248) 0 1 % 16 = 0 := by
      rw [hempty, List.nil_append, fieldLE, List.drop_zero, List.take_take]
      exact hfirst
    have heq : bodyIn l f s = s.setLink l { s.link l with rxBody := [] } := by
      unfold bodyIn
      dsimp only
      rw [if_neg hnull, takeRecords_of_filling 15 hbytes, List.foldl_nil]
    rw [heq]
    refine ⟨State.setLink_frame .., (link_setLink_self ..).trans ?_⟩
    rw [← hempty]

theorem reportBack_of_settled (ho : (s.link l).owed = []) (ha : (s.link l).sinceAck < 64) : reportBack l s = s := by
  have hreturn : returnCredit l 64 s = s := by rw [returnCredit, if_pos ho]
  rw [reportBack, hreturn]
  exact if_neg (Nat.not_le.2 ha)

theorem flitBody_of_filling (h : bitOf (fieldLE (blockBytes f) 0 4) 25 ∨
    ((s.link l).rxBody = [] ∧ fieldLE (blockBytes f) 4 1 % 16 = 0)) (ho : (s.link l).owed = []) (ha : (s.link l).sinceAck < 64) :
    Kept [.net] s (flitBody l f s) ∧ (flitBody l f s).link l = s.link l := by
  obtain ⟨hkept, hlink⟩ := bodyIn_of_filling h
  unfold flitBody
  split
  · rw [reportBack_of_settled (by rw [hlink, ho]) (by rw [hlink]; exact ha)]
    exact ⟨hkept, hlink⟩
  · exact ⟨.refl _ s, rfl⟩

end

end Sys2Proof.Machine
end

section
/-!
Flits and records as a module meets them: the clauses of R325-R336 put together.
-/

namespace Sys2Proof.Machine

open Sys2Proof

section
variable {l : Nat} {f : BlockData} {bad : Bool} {m : Dword} {s : State}

/-- A flit that fails its check or its sequence is discarded, and the first one asks for a replay. -/
theorem flitReceive_discards (hm : (s.link l).mode.usable ∨ (s.link l).mode = .soak) (hi : bitsOf m.toNat 63 60 = 0)
    (h : flitGood f bad = false ∨
      (bitOf (fieldLE (blockBytes f) 0 4) 25 = false ∧ fieldLE (blockBytes f) 0 4 % 4096 ≠ (s.link l).rxSeq)) :
    ∃ t, exec (.flitReceive l f ⟨bad, m⟩) s = .next t ∧
      t.link l = (if (s.link l).nakSent then (s.link l).noted (flitGood f bad) bad else
        { (s.link l).noted (flitGood f bad) bad with nakSent := true, sinceAck := 0 }) ∧
      t.mem = s.mem ∧ t.cores = s.cores ∧
      ((s.link l).nakSent = false → OutMsg.nak l (((s.link l).rxSeq + 4095) % 4096) ∈ t.host.out) := by
  obtain ⟨hkept, hlink⟩ := noteFlit_spec l (flitGood f bad) bad s
  have hnoted : ((s.link l).noted (flitGood f bad) bad).nakSent = (s.link l).nakSent ∧
      ((s.link l).noted (flitGood f bad) bad).rxSeq = (s.link l).rxSeq := by
    unfold Link.noted
    split <;> exact ⟨rfl, rfl⟩
  have hall := Kept.step (by decide) hkept (discardFlit_kept (l := l))
  refine ⟨discardFlit l (noteFlit l (flitGood f bad) bad s), ?_, ?_, hall.off.same .mem (by decide),
    hall.cores_eq (by decide), fun hnak => ?_⟩
  · rw [flitReceive_eq hm hi, flitReceive_of_discarded h]
    rfl
  · rw [discardFlit_link, hlink, hnoted.1]
  · rw [← hnoted.2, ← hlink]
    exact discardFlit_nak (by rw [hlink, hnoted.1, hnak])

/-- An accepted flit that ends no record and returns no credit. -/
theorem flitReceive_accepts (hm : (s.link l).mode.usable ∨ (s.link l).mode = .soak) (hi : bitsOf m.toNat 63 60 = 0)
    (hgood : flitGood f bad = true) (hseq : bitOf (fieldLE (blockBytes f) 0 4) 25 ∨
      (fieldLE (blockBytes f) 0 4 % 4096 = (s.link l).rxSeq ∧ (s.link l).rxBody = [] ∧ fieldLE (blockBytes f) 4 1 % 16 = 0))
    (hcred : 40 ≤ bitsOf (fieldLE (blockBytes f) 0 4) 31 26) (howed : (s.link l).owed = []) (hack : (s.link l).sinceAck + 1 < 64) :
    ∃ t, exec (.flitReceive l f ⟨bad, m⟩) s = .next t ∧
      (bitOf (fieldLE (blockBytes f) 0 4) 24 = false → SameOff [.net] s t ∧
        t.link l = { (s.link l).taken (fieldLE (blockBytes f) 0 4) with replayRow := 0 }) ∧
      (bitOf (fieldLE (blockBytes f) 0 4) 24 →
        let ack := bitsOf (fieldLE (blockBytes f) 0 4) 23 12
        let n := min (s.link l).kept.length (((s.link l).txSeq + 4096 - (ack + 1)) % 4096)
        (s.link l).replaysSec + n ≤ replayThresh s → (s.link l).replayRow < 7 ∨ (s.link l).replayFrom ≠ ack →
        t.host.out = s.host.out ++ [.replay l ((ack + 1) % 4096) n] ∧ (t.link l).replays = ((s.link l).replays + n) % 2 ^ 64) := by
  have hbody : bitOf (fieldLE (blockBytes f) 0 4) 25 ∨ ((s.link l).rxBody = [] ∧ fieldLE (blockBytes f) 4 1 % 16 = 0) :=
    hseq.imp_right And.right
  have hexec := flitReceive_eq (f := f) (bad := bad) hm hi
  rw [flitReceive_of_accepted hgood (hseq.imp_right And.left) hcred, if_pos rfl] at hexec
  refine ⟨_, hexec, fun hnak => ?_, fun hnak => ?_⟩
  · dsimp only
    rw [hnak, if_neg (by decide), link_setLink_self]
    have htaken := flitBody_of_filling (f := f) (s := (s.setLink l ((s.link l).taken (fieldLE (blockBytes f) 0 4))).setLink l
      { (s.link l).taken (fieldLE (blockBytes f) 0 4) with replayRow := 0 }) (l := l)
    rw [link_setLink_self] at htaken
    obtain ⟨hkept, hlink⟩ := htaken hbody howed hack
    exact ⟨(Kept.step (by decide) (.step (by decide) (.step (by decide) (.refl _ s) (State.setLink_frame ..))
      (State.setLink_frame ..)) hkept).off, hlink⟩
  · intro ack n hsec hrow
    dsimp only
    rw [hnak, if_pos rfl]
    obtain ⟨row, hreplay⟩ := replayFlits_of_few (l := l) (ack := ack) (n := n)
      (s := s.setLink l ((s.link l).taken (fieldLE (blockBytes f) 0 4))) (by rw [link_setLink_self]; rfl)
      (by rw [link_setLink_self]; exact hsec) (by rw [link_setLink_self]; exact hrow)
    rw [link_setLink_self] at hreplay
    rw [hreplay]
    generalize hw : sendMsg _ _ = w
    have hwlink : w.link l = { (s.link l).taken (fieldLE (blockBytes f) 0 4) with
        replays := ((s.link l).replays + n) % 2 ^ 64, replaysSec := (s.link l).replaysSec + n, replayRow := row, replayFrom := ack } := by
      rw [← hw]
      exact link_setLink_self ..
    obtain ⟨hkept, hlink⟩ := flitBody_of_filling (f := f) (s := w) (l := l) (by rw [hwlink]; exact hbody) (by rw [hwlink]; exact howed)
      (by rw [hwlink]; exact hack)
    refine ⟨?_, by rw [hlink, hwlink]⟩
    rw [show (flitBody l f w).host = w.host from hkept.off.same .host (by decide), ← hw]
    rfl

end

theorem noted_eq (k : Link) (f : BlockData) (bad : Bool) : k.noted (flitGood f bad) bad =
    if bad = false ∧ fieldLE (blockBytes f) 252 4 = (crc32 ((blockBytes f).take 252)).toNat then k else
      { k with fecUncorr := if bad then (k.fecUncorr + 1) % 2 ^ 64 else k.fecUncorr, errNow := true, soakBad := true } :=
  if_congr flitGood_iff rfl rfl

/-- The record that leaves may leave, none of its flow stands before it, and it is the one whose turn it is (R327, R331, R333). -/
theorem pick_in_order {k : Link} {i : Nat} {r : LinkRecord} (hpick : k.pick = some i) (hr : k.queue[i]? = some r) :
    k.canSend r ∧ (∀ j q, j < i → k.queue[j]? = some q → sameFlow q r = false) ∧
    (∀ c d : Nat × LinkRecord, c ∈ flowHeads k.queue → k.canSend c.2 → isData (recType c.2) = false →
      d ∈ flowHeads k.queue → k.canSend d.2 → isData (recType d.2) → (isData (recType r) = false ↔ 3 ≤ k.ctlGap)) ∧
    (isData (recType r) → ∀ d ∈ flowHeads k.queue, k.canSend d.2 → isData (recType d.2) → k.turnKey r ≤ k.turnKey d.2) := by
  obtain ⟨r', hready, hclass, hturn⟩ := pick_spec hpick
  obtain ⟨hhead, hcan⟩ := mem_ready.1 hready
  obtain ⟨hi, hfirst⟩ := mem_flowHeads.1 hhead
  obtain rfl : r = r' := Option.some.inj (hr.symm.trans hi)
  refine ⟨hcan, fun j q hj hq => ?_, fun c d hc hcs hct hd hds hdt => ?_, fun ht d hd hds hdt => ?_⟩
  · rw [sameFlow_comm]
    refine hfirst q (List.mem_of_getElem? (i := j) ?_)
    rw [List.getElem?_take_of_lt hj, hq]
  · exact hclass ⟨c, mem_ready.2 ⟨hc, hcs⟩, hct⟩ ⟨d, mem_ready.2 ⟨hd, hds⟩, hdt⟩
  · exact hturn ht d (mem_ready.2 ⟨hd, hds⟩) hdt

/-- A record for another module that comes to a free port leaves by its route, or waits there (R334, R335). -/
theorem recordForward_of_route {l o : Nat} {r : LinkRecord} {s : State} (hm : (s.link l).mode.usable) (h1 : 1 ≤ recType r)
    (h5 : recType r ≤ 5) (hc : 4 ≤ (s.link l).level → recChk r) (hd : recDst r ≠ s.moduleNo) (hhop : recHop r < 4)
    (ho : s.routeOf r = some o) (hb : r.blocks = []) (hq : (s.link o).queue = []) :
    ((s.link o).canSend (bumpHop r) → ∃ t, exec (.recordForward l r) s = .next t ∧ SameOff [.net, .host, .reg] s t ∧
      RecordSent o (bumpHop r) s t) ∧
    ((s.link o).canSend (bumpHop r) = false → ∃ t, exec (.recordForward l r) s = .next t ∧ SameOff [.net] s t ∧
      (t.link o).queue = [bumpHop r]) := by
  have hroute : (oweFor l r s).routeOf r = some o := (oweFor_routeLink ..).trans ho
  have hexec : exec (.recordForward l r) s = .next (sendOn o (bumpHop r) (oweFor l r s)) := by
    rw [recordForward_eq h1 h5 hm hc hd, forward_of_blocks_nil hhop hroute hb]
  refine ⟨fun hcan => ⟨_, hexec, ?_⟩, fun hcan => ⟨_, hexec, ?_⟩⟩
  · obtain ⟨hkept, hsent⟩ := sendOn_of_ready (s := oweFor l r s) (r := bumpHop r) (leavesWhole_of_nil hb)
      (PortReady.owed ⟨hq, hcan⟩)
    exact ⟨(Kept.step (by decide) (.step (by decide) (.refl _ s) (oweFor_frame ..)) hkept).off, hsent.of_port rfl oweFor_port⟩
  · obtain ⟨hkept, hqueue⟩ := sendOn_of_blocked (s := oweFor l r s) (oweFor_queue.trans hq) (oweFor_canSend.trans hcan)
    exact ⟨(Kept.step (by decide) (oweFor_frame l r s) hkept).off, hqueue⟩

/-- A record that has passed four links is told of in the journal (R334). -/
theorem recordForward_of_hops {l : Nat} {r : LinkRecord} {s : State} (hm : (s.link l).mode.usable) (h1 : 1 ≤ recType r)
    (h5 : recType r ≤ 5) (hc : 4 ≤ (s.link l).level → recChk r) (hd : recDst r ≠ s.moduleNo) (hhop : 4 ≤ recHop r)
    (hs : recSrc r ≠ s.moduleNo) :
    ∃ t, exec (.recordForward l r) s = .next t ∧ Journalled 0x040D t ∧ t.mem = s.mem ∧ t.cores = s.cores := by
  obtain ⟨hkept, hjr⟩ := noRoute_of_other (l := l) (s := oweFor l r s) hs
  have hall : Kept [.jr, .host, .reg, .net] s (noRoute l r (oweFor l r s)) :=
    .step (by decide) (.step (by decide) (.refl _ s) (oweFor_frame ..)) hkept
  refine ⟨_, ?_, hjr, hall.off.same .mem (by decide), hall.cores_eq (by decide)⟩
  rw [recordForward_eq h1 h5 hm hc hd, forward_of_hops hhop]

/-- Settles O52: each kind of flit and record is met by the lemma about its command; the answers go by `sendOn_of_ready`. -/
theorem recordsAreAnswered : Obligations.RecordsAreAnswered := by
  refine ⟨fun s l f bad m hm hi => ?_, fun k i r hpick hr => ?_, fun s l r h => ?_, fun s l p r seg h ht => ⟨fun hp hr => ?_, ?_⟩,
    fun s l p r h ht => ⟨fun hp hr => ?_, ?_⟩, fun s l r x h hx => rdData_done h hx, fun s l r x h hx => ack_done h hx,
    fun s l r ht => ⟨rdData_of_unasked ht, ack_of_unasked ht⟩,
    fun s tag x hx => ⟨requestTimeout_of_unsent hx, requestTimeout_of_sent hx⟩,
    fun s l o r hm h1 h5 hc hd => ⟨?_, ?_⟩⟩
  · intro w k good noted
    obtain ⟨t, ht⟩ : ∃ t, exec (.flitReceive l f ⟨bad, m⟩) s = .next t := ⟨_, flitReceive_eq hm hi⟩
    refine ⟨t, ht, fun hbad => ?_, fun hgood hseq hcred howed hack => ?_⟩
    · obtain ⟨u, hu, hlink, hrest⟩ := flitReceive_discards hm hi
        (hbad.imp_left fun h => Bool.eq_false_iff.2 (mt flitGood_iff.1 h))
      obtain rfl : u = t := Host.Outcome.next.inj (hu.symm.trans ht)
      rw [noted_eq] at hlink
      exact ⟨hlink, hrest⟩
    · obtain ⟨u, hu, hrest⟩ := flitReceive_accepts hm hi (flitGood_iff.2 hgood) hseq hcred howed hack
      obtain rfl : u = t := Host.Outcome.next.inj (hu.symm.trans ht)
      exact hrest
  · exact pick_in_order hpick hr
  · intro g u
    rw [arrive_eq h]
    split
    next hnone =>
      intro hn ht
      exact congrArg Host.Outcome.next (arriveAt_of_gatePart_none (s := u) hnone hn ht)
    next p hsome => exact congrArg Host.Outcome.next (arriveAt_of_gatePart_some (s := u) hsome)
  · exact wr_of_unknown h ht hp hr
  · exact fun ref pte hpa w hp hn hb hx hloc hh hz hgood hr => wr_of_block h ht hp hn hb hx hloc hh hz hgood hr
  · exact rdReq_of_unknown h ht hp hr
  · exact fun ref pte hpa w wr hp hn hx hloc hh hz hcz hecc hgood hsent hr =>
      rdReq_of_block h ht hp hn hx hloc hh hz hcz hecc hgood rfl hsent hr
  · exact fun hhop ho hb hq _ => recordForward_of_route hm h1 h5 hc hd hhop ho hb hq
  · exact fun hhop hs => recordForward_of_hops hm h1 h5 hc hd hhop hs

end Sys2Proof.Machine
end

section
/-!
Every command keeps what it does not name in its footprint, and every step keeps the canonical form of the memories (R278, R282).
-/

namespace Sys2Proof.Machine

open Sys2Proof

/-- A command leaves every component outside its footprint, and the canonical form of the memories: each row by its own law. -/
theorem exec_kept : ∀ {i : Instr} {s t : State}, exec i s = .next t → Kept (footprint i) s t
  | .sqTail .., _, _, h => execSqTail_frame _ _ _ _ _ _ _ h
  | .cqHead .., _, _, h => execCqHead_frame _ _ _ _ _ _ h
  | .eqHead .., _, _, h => execEqHead_frame _ _ _ _ _ h
  | .submit .., _, _, h => execSubmit_frame _ _ _ _ h
  | .flush .., _, _, h => execFlush_frame _ _ _ _ h
  | .gateArm .., _, _, h => execGateArm_frame _ _ _ _ h
  | .gateArrive .., _, _, h => execGateArrive_frame _ _ _ _ h
  | .gateWait .., _, _, h => execGateWait_frame _ _ _ _ h
  | .createQp .., _, _, h => execCreateQp_frame _ _ _ _ h
  | .deleteQp .., _, _, h => execDeleteQp_frame _ _ _ _ h
  | .createEq .., _, _, h => execCreateEq_frame _ _ _ _ h
  | .alloc .., _, _, h => execAlloc_frame _ _ _ _ h
  | .frameZeroing .., _, _, h => execFrameZeroing_frame _ _ _ _ h
  | .free .., _, _, h => execFree_frame _ _ _ _ h
  | .load .., _, _, h => execLoad_frame _ _ _ _ _ h
  | .map .., _, _, h => execMap_frame _ _ _ _ h
  | .unmap .., _, _, h => execUnmap_frame _ _ _ _ h
  | .protect .., _, _, h => execProtect_frame _ _ _ _ h
  | .syncIn .., _, _, h => execSyncIn_frame _ _ _ _ h
  | .syncOut .., _, _, h => execSyncOut_frame _ _ _ _ h
  | .gateOwn .., _, _, h => execGateOwn_frame _ _ _ _ h
  | .fnReset .., _, _, h => execFnReset_frame _ _ _ _ h
  | .coreReset .., _, _, h => execCoreReset_frame _ _ _ _ h
  | .clusterReset .., _, _, h => execClusterReset_frame _ _ _ _ h
  | .partitionReset .., _, _, h => execPartitionReset_frame _ _ _ _ h
  | .partitionPark .., _, _, h => execPartitionPark_frame _ _ _ _ h
  | .partitionResume .., _, _, h => execPartitionResume_frame _ _ _ _ h
  | .regWrite .., _, _, h => execRegWrite_frame _ _ _ _ _ _ _ h
  | .mmuWinCfgWrite .., _, _, h => execMmuWinCfgWrite_frame _ _ _ _ _ _ h
  | .fmFnCfgWrite .., _, _, h => execFmFnCfgWrite_frame _ _ _ _ h
  | .fnPartCfgWrite .., _, _, h => execFnPartCfgWrite_frame _ _ _ _ _ h
  | .tickCfgWrite .., _, _, h => execTickCfgWrite_frame _ _ _ _ h
  | .admBudgetCfgWrite .., _, _, h => execAdmBudgetCfgWrite_frame _ _ _ h
  | .gateOwnerWrite .., _, _, h => execGateOwnerWrite_frame _ _ _ _ h
  | .partClWrite .., _, _, h => execPartClWrite_frame _ _ _ _ _ _ h
  | .fnAqCfgWrite .., _, _, h => execFnAqCfgWrite_frame _ _ _ _ h
  | .csqCountClrStats .., _, _, h => execCsqCountClrStats_frame _ _ _ _ h
  | .seConvClrStats .., _, _, h => execSeConvClrStats_frame _ _ _ _ h
  | .seCompClrStats .., _, _, h => execSeCompClrStats_frame _ _ _ _ h
  | .mmuFnClrStats .., _, _, h => execMmuFnClrStats_frame _ _ _ _ h
  | .mntDieClrStats .., _, _, h => execMntDieClrStats_frame _ _ _ _ h
  | .msixUnmask .., _, _, h => execMsixUnmask_frame _ _ _ _ h
  | .coalescingTimeout .., _, _, h => execCoalescingTimeout_frame _ _ _ _ h
  | .vfEnable .., _, _, h => execVfEnable_frame _ _ _ _ h
  | .functionLevelReset .., _, _, h => execFunctionLevelReset_frame _ _ _ h
  | .hotReset, _, _, h => execHotReset_frame _ _ h
  | .read .., _, _, h => execRead_frame _ _ _ h
  | .write .., _, _, h => execWrite_frame _ _ _ h
  | .segWrite .., _, _, h => execSegWrite_frame _ _ _ h
  | .segCommit .., _, _, h => execSegCommit_frame _ _ _ h
  | .segAbort .., _, _, h => execSegAbort_frame _ _ _ h
  | .describe .., _, _, h => execDescribe_frame _ _ _ h
  | .list .., _, _, h => execList_frame _ _ _ h
  | .stagingExpiry .., _, _, h => execStagingExpiry_frame _ _ _ h
  | .setEndpointId .., _, _, h => execSetEndpointId_frame _ _ _ h
  | .getEndpointId, _, _, h => execGetEndpointId_frame _ _ h
  | .getMctpVersionSupport .., _, _, h => execGetMctpVersionSupport_frame _ _ _ h
  | .getMessageTypeSupport, _, _, h => execGetMessageTypeSupport_frame _ _ h
  | .getVendorDefinedMessageSupport .., _, _, h => execGetVendorDefinedMessageSupport_frame _ _ _ h
  | .dynamicAddressAssignment .., _, _, h => execDynamicAddressAssignment_frame _ _ _ h
  | .release .., _, _, h => execRelease_frame _ _ _ _ h
  | .moduleReset .., _, _, h => execModuleReset_frame _ _ _ _ h
  | .standby .., _, _, h => execStandby_frame _ _ _ _ h
  | .wake .., _, _, h => execWake_frame _ _ _ _ h
  | .factoryDefaults .., _, _, h => execFactoryDefaults_frame _ _ _ _ h
  | .keyWrite .., _, _, h => execKeyWrite_frame _ _ _ _ _ h
  | .keyRevoke .., _, _, h => execKeyRevoke_frame _ _ _ _ h
  | .clearSaved .., _, _, h => execClearSaved_frame _ _ _ _ _ h
  | .fleetSend .., _, _, h => execFleetSend_frame _ _ _ _ h
  | .pwrCapWrite .., _, _, h => execPwrCapWrite_frame _ _ _ _ h
  | .setpointChange .., _, _, h => execSetpointChange_frame _ _ _ _ h
  | .activate .., _, _, h => execActivate_frame _ _ _ _ h
  | .confirm .., _, _, h => execConfirm_frame _ _ _ _ h
  | .download .., _, _, h => execDownload_frame _ _ _ _ _ _ h
  | .verify .., _, _, h => execVerify_frame _ _ _ _ _ _ h
  | .erase .., _, _, h => execErase_frame _ _ _ _ _ h
  | .clear .., _, _, h => execClear_frame _ _ _ _ h
  | .request .., _, _, h => execRequest_frame _ _ _ _ h
  | .journalDataRecord, _, _, h => execJournalDataRecord_frame _ _ h
  | .journalCommitRecord, _, _, h => execJournalCommitRecord_frame _ _ h
  | .objectStoreRewrite, _, _, h => execObjectStoreRewrite_frame _ _ h
  | .journalAppliedRecord, _, _, h => execJournalAppliedRecord_frame _ _ h
  | .journalBlockErase, _, _, h => execJournalBlockErase_frame _ _ h
  | .eventJournalCommit, _, _, h => execEventJournalCommit_frame _ _ h
  | .vauxUp, _, _, h => execVauxUp_frame _ _ h
  | .vauxLost, _, _, h => execVauxLost_frame _ _ h
  | .vinWithinLimits, _, _, h => execVinWithinLimits_frame _ _ h
  | .perstAssert, _, _, h => execPerstAssert_frame _ _ h
  | .perstDeassert .., _, _, h => execPerstDeassert_frame _ _ _ h
  | .pinSample .., _, _, h => execPinSample_frame _ _ _ _ h
  | .pwrFail .., _, _, h => execPwrFail_frame _ _ _ h
  | .pwrFailCleared, _, _, h => execPwrFailCleared_frame _ _ h
  | .forceRecoveryAssert, _, _, h => execForceRecoveryAssert_frame _ _ h
  | .forceRecoveryHeld60s, _, _, h => execForceRecoveryHeld60s_frame _ _ h
  | .warmHoldExpiry, _, _, h => execWarmHoldExpiry_frame _ _ h
  | .s1BootVerify .., _, _, h => execS1BootVerify_frame _ _ _ _ h
  | .s2ConfigCheck .., _, _, h => execS2ConfigCheck_frame _ _ _ _ h
  | .s3RailsUp, _, _, h => execS3RailsUp_frame _ _ h
  | .s4HbmTraining .., _, _, h => execS4HbmTraining_frame _ _ _ _ _ h
  | .s5LinkTraining .., _, _, h => execS5LinkTraining_frame _ _ _ _ h
  | .s6CoreFirmware .., _, _, h => execS6CoreFirmware_frame _ _ _ _ h
  | .s7SelfTest .., _, _, h => execS7SelfTest_frame _ _ _ _ h
  | .stageTimeout, _, _, h => execStageTimeout_frame _ _ h
  | .thermalTrip .., _, _, h => execThermalTrip_frame _ _ _ _ h
  | .thermalTripRelease .., _, _, h => execThermalTripRelease_frame _ _ _ h
  | .pwrRailFault .., _, _, h => execPwrRailFault_frame _ _ _ h
  | .phaseRetire .., _, _, h => execPhaseRetire_frame _ _ _ h
  | .telemetryRead .., _, _, h => execTelemetryRead_frame _ _ _ h
  | .powerGovernorLoop .., _, _, h => execPowerGovernorLoop_frame _ _ _ h
  | .epochEnd .., _, _, h => execEpochEnd_frame _ _ _ h
  | .sensorInvalid .., _, _, h => execSensorInvalid_frame _ _ _ _ h
  | .droop .., _, _, h => execDroop_frame _ _ _ _ h
  | .stretchRelease .., _, _, h => execStretchRelease_frame _ _ _ h
  | .powerStretch .., _, _, h => execPowerStretch_frame _ _ _ _ h
  | .powerStretchRelease .., _, _, h => execPowerStretchRelease_frame _ _ _ _ h
  | .govParkRequest, _, _, h => execGovParkRequest_frame _ _ h
  | .govResumeRequest, _, _, h => execGovResumeRequest_frame _ _ h
  | .refreshIntervalChange .., _, _, h => execRefreshIntervalChange_frame _ _ _ _ h
  | .refreshStatusUpdate .., _, _, h => execRefreshStatusUpdate_frame _ _ _ h
  | .leadPoint .., _, _, h => execLeadPoint_frame _ _ _ h
  | .waitTimeout .., _, _, h => execWaitTimeout_frame _ _ _ h
  | .pennantRound .., _, _, h => execPennantRound_frame _ _ _ _ h
  | .pennantFinal .., _, _, h => execPennantFinal_frame _ _ _ h
  | .tickBoundary .., _, _, h => execTickBoundary_frame _ _ _ h
  | .windowEnd .., _, _, h => execWindowEnd_frame _ _ _ _ h
  | .partitionStart .., _, _, h => execPartitionStart_frame _ _ _ h
  | .aeTurn .., _, _, h => execAeTurn_frame _ _ _ h
  | .executionPrepare .., _, _, h => execExecutionPrepare_frame _ _ _ _ h
  | .pageOut .., _, _, h => execPageOut_frame _ _ _ _ h
  | .pageIn .., _, _, h => execPageIn_frame _ _ _ _ h
  | .taskStart .., _, _, h => execTaskStart_frame _ _ _ h
  | .stagingCopy .., _, _, h => execStagingCopy_frame _ _ _ h
  | .count .., _, _, h => execCount_frame _ _ _ _ _ h
  | .countRetry .., _, _, h => execCountRetry_frame _ _ _ _ _ h
  | .fillerCount .., _, _, h => execFillerCount_frame _ _ _ _ _ _ h
  | .glideFiller .., _, _, h => execGlideFiller_frame _ _ _ _ _ _ h
  | .steeringSlot .., _, _, h => execSteeringSlot_frame _ _ _ _ h
  | .transposedCount .., _, _, h => execTransposedCount_frame _ _ _ _ _ h
  | .guardWindowEnd .., _, _, h => execGuardWindowEnd_frame _ _ _ _ h
  | .retryWindowEnd .., _, _, h => execRetryWindowEnd_frame _ _ _ _ h
  | .refreshSlot .., _, _, h => execRefreshSlot_frame _ _ _ _ h
  | .urgentRefresh .., _, _, h => execUrgentRefresh_frame _ _ _ _ _ h
  | .retentionLost .., _, _, h => execRetentionLost_frame _ _ _ _ h
  | .fullRowWrite .., _, _, h => execFullRowWrite_frame _ _ _ _ h
  | .maskedRowWrite .., _, _, h => execMaskedRowWrite_frame _ _ _ _ _ h
  | .readBack .., _, _, h => execReadBack_frame _ _ _ _ _ _ h
  | .frameReadOut .., _, _, h => execFrameReadOut_frame _ _ _ _ h
  | .taskRetire .., _, _, h => execTaskRetire_frame _ _ _ h
  | .scaleRecordUpdate .., _, _, h => execScaleRecordUpdate_frame _ _ _ h
  | .hostFill .., _, _, h => execHostFill_frame _ _ _ _ _ h
  | .hostFillComplete .., _, _, h => execHostFillComplete_frame _ _ _ _ _ h
  | .rd .., _, _, h => execRd_frame _ _ _ _ h
  | .own .., _, _, h => execOwn_frame _ _ _ _ h
  | .wb .., _, _, h => execWb_frame _ _ _ _ _ h
  | .flitReceive .., _, _, h => execFlitReceive_frame _ _ _ _ _ h
  | .wr .., _, _, h => execWr_frame _ _ _ _ h
  | .rdReq .., _, _, h => execRdReq_frame _ _ _ _ h
  | .rdData .., _, _, h => execRdData_frame _ _ _ _ h
  | .ack .., _, _, h => execAck_frame _ _ _ _ h
  | .arrive .., _, _, h => execArrive_frame _ _ _ _ h
  | .recordForward .., _, _, h => execRecordForward_frame _ _ _ _ h
  | .requestTimeout .., _, _, h => execRequestTimeout_frame _ _ _ h
  | .pennant .., _, _, h => execPennant_frame _ _ _ _ h
  | .feature .., _, _, h => execFeature_frame _ _ _ _ h
  | .syncReq .., _, _, h => execSyncReq_frame _ _ _ _ _ h
  | .syncResp .., _, _, h => execSyncResp_frame _ _ _ _ h
  | .syncInterval, _, _, h => execSyncInterval_frame _ _ h
  | .fleet .., _, _, h => execFleet_frame _ _ _ _ h
  | .laneSwap .., _, _, h => execLaneSwap_frame _ _ _ _ h
  | .laneSwapSlot .., _, _, h => execLaneSwapSlot_frame _ _ _ h
  | .announce .., _, _, h => execAnnounce_frame _ _ _ _ h
  | .announceInterval, _, _, h => execAnnounceInterval_frame _ _ h
  | .featureResend .., _, _, h => execFeatureResend_frame _ _ _ h
  | .linkstate .., _, _, h => execLinkstate_frame _ _ _ _ h
  | .soakEnd .., _, _, h => execSoakEnd_frame _ _ _ _ _ h
  | .berWindow .., _, _, h => execBerWindow_frame _ _ _ _ _ h
  | .laneLockLost .., _, _, h => execLaneLockLost_frame _ _ _ _ _ h
  | .linkRetry .., _, _, h => execLinkRetry_frame _ _ _ _ h
  | .lowpwrEntry .., _, _, h => execLowpwrEntry_frame _ _ _ _ h
  | .lowpwrWake .., _, _, h => execLowpwrWake_frame _ _ _ h
  | .parentLinkFail, _, _, h => execParentLinkFail_frame _ _ h
  | .holdoverTimeout, _, _, h => execHoldoverTimeout_frame _ _ h
  | .maintenanceWindowStart .., _, _, h => execMaintenanceWindowStart_frame _ _ _ _ h
  | .recalibration .., _, _, h => execRecalibration_frame _ _ _ _ h
  | .recalTrigger .., _, _, h => execRecalTrigger_frame _ _ _ _ h
  | .scrubPass .., _, _, h => execScrubPass_frame _ _ _ _ _ _ h
  | .scrubDeadline .., _, _, h => execScrubDeadline_frame _ _ _ h
  | .calDeadline .., _, _, h => execCalDeadline_frame _ _ _ h
  | .evacuationCopy .., _, _, h => execEvacuationCopy_frame _ _ _ _ h
  | .diagnosis .., _, _, h => execDiagnosis_frame _ _ _ _ h
  | .spareMapCommit, _, _, h => execSpareMapCommit_frame _ _ h
  | .alertRelease, _, _, h => execAlertRelease_frame _ _ h
  | .tickRefclkRemoved, _, _, h => execTickRefclkRemoved_frame _ _ h
  | .lowHalfRead .., _, _, h => execLowHalfRead_frame _ _ _ _ _ h

/-- A step keeps the canonical form: a command by `exec_kept`, and the passing of time touches no memory. -/
theorem step_memWf {s t : State} (hw : s.memWf) (h : step s = .next t) : t.memWf := by
  cases hp : s.pending with
  | nil =>
    rw [step, hp] at h
    cases h
    exact hw
  | cons c rest =>
    rw [step, hp] at h
    exact (exec_kept h).wf hw

/-- Settles O19: the invariant of `step_memWf`. -/
theorem stepKeepsMemoryCanonical : Obligations.StepKeepsMemoryCanonical := fun _ _ => step_memWf

/-- Right after reset the module is OFF without supplies, and no memory lists an entry. -/
theorem reset_memWf : State.reset.memWf := ⟨tcanon_nil 0, Mem.wf_reset⟩

/-- In OFF the rules of Tables 14-1 to 14-3 ask for nothing. -/
theorem Life.ok_of_off {l : Life} (h : l.state = .off) (hs : l.standby = false) : l.ok where
  powered hne := absurd h hne
  released hst := by simp [h, ModState.started] at hst
  standby hsb := by simp [hs] at hsb
  rails hst := by simp [h, ModState.starting] at hst
  serves hsv := by simp [h, ModState.serves] at hsv

/-- Settles O18: the memories are empty at reset and the module is OFF. -/
theorem resetMeetsTheInvariants : Obligations.ResetMeetsTheInvariants := ⟨reset_memWf, Life.ok_of_off rfl rfl⟩

end Sys2Proof.Machine
end

section
/-!
The cluster directory (R294, R295): what a line reads as once it has been put down, which requests are served at once, and RD, OWN and
WB at a Descriptor Cache that has room.
-/

namespace Sys2Proof.Machine

open Sys2Proof

/-! ## The lines of a cluster -/

section
variable {core line : Nat} {d : DirLine} {s : State}

theorem dirLine_fn (h : (s.lineFn line).isSome) : s.lineFn line = some (s.dirLine core line).fn := by
  obtain ⟨f, hf⟩ := Option.isSome_iff_exists.1 h
  unfold State.dirLine
  split
  · split
    · assumption
    · simp [hf]
  · simp [hf]

/-- Only a line that the directory lists has an M holder. -/
theorem dirLine_fn_of_owner {c : Nat} (h : (s.dirLine core line).owner = some c) :
    s.lineFn line = some (s.dirLine core line).fn := by
  cases hl : tget s.mem.lines (lineKey (clusterOfCore core) line) with
  | none => simp [State.dirLine, hl] at h
  | some d =>
    by_cases hf : s.lineFn line = some d.fn
    · simp [State.dirLine, hl, hf]
    · simp [State.dirLine, hl, hf] at h

/-- The function of a line is read from the page tables and the registers, which the directory does not touch. -/
theorem lineFn_of_eq {t : State} (hd : t.mem.dir = s.mem.dir) (hl : t.mem.leaf = s.mem.leaf) (hr : t.reg = s.reg) :
    t.lineFn line = s.lineFn line := by
  have hpage : t.pageAt = s.pageAt := by
    funext pfn
    rw [State.pageAt, State.pageAt, hd, hl]
  have hcm : t.cmFn = s.cmFn := by
    funext cl l
    unfold State.cmFn State.partOfCluster State.partHas State.partFns State.cmBase State.lowerSum State.fmCfg State.partFns
    rw [hr]
  rw [State.lineFn, State.lineFn, hpage, hcm]

theorem lineFn_setDirLine : (setDirLine core line d s).lineFn line = s.lineFn line := lineFn_of_eq rfl rfl rfl

theorem lines_setDirLine : tget (setDirLine core line d s).mem.lines (lineKey (clusterOfCore core) line) = some d :=
  tget_tput_self ..

theorem dirLine_setDirLine (h : s.lineFn line = some d.fn) : (setDirLine core line d s).dirLine core line = d := by
  rw [State.dirLine, lines_setDirLine, lineFn_setDirLine]
  exact if_pos h

theorem lines_setDirLine_ne {k : Nat} (h : k ≠ lineKey (clusterOfCore core) line) :
    tget (setDirLine core line d s).mem.lines k = tget s.mem.lines k :=
  tget_tput_ne _ _ h

theorem setDirLine_off (core line : Nat) (d : DirLine) (s : State) : SameOff [.mem] s (setDirLine core line d s) :=
  (setDirLine_frame ..).off

end

/-! ## Requests (R294, R295) -/

section
variable {c : Nat} {d : DirLine}

theorem waiting_of_nil (h : d.waiting = []) : { d with waiting := [] } = d := by
  rw [← h]

/-- A request that needs no recall is served, and none is held back behind it. -/
theorem serveLine_single (m : Bool) (h : d.owner = none ∨ d.owner = some c) :
    serveLine [(c, m)] d = { (if m then d.grant c else if d.owner = some c then d else d.share c) with waiting := [] } := by
  rcases h with h | h <;> simp [serveLine, h]

theorem ask_of_free (m : Bool) (hw : d.waiting = []) (h : d.owner = none ∨ d.owner = some c) :
    d.ask c m = { (if m then d.grant c else if d.owner = some c then d else d.share c) with waiting := [] } := by
  rw [DirLine.ask, hw, List.nil_append, serveLine_single m h]

/-- A request for a line that another core owns is held back. -/
theorem ask_of_owned {o : Nat} (m : Bool) (hw : d.waiting = []) (h : d.owner = some o) (ho : o ≠ c) :
    d.ask c m = { d with waiting := [(c, m)] } := by
  simp [DirLine.ask, serveLine, hw, h, ho]

theorem serveLine_fn (l : List (Nat × Bool)) (d : DirLine) : (serveLine l d).fn = d.fn := by
  induction l generalizing d with
  | nil => rfl
  | cons x r ih =>
    obtain ⟨c, m⟩ := x
    unfold serveLine
    split
    · rfl
    · rw [ih]
      split
      · rfl
      · split <;> rfl

theorem ask_fn (m : Bool) : (d.ask c m).fn = d.fn := serveLine_fn ..

theorem back_fn (v : BitVec 512) : (d.back v).fn = d.fn := serveLine_fn ..

end

/-! ## RD, OWN and WB -/

/-- What RD and OWN do: they leave the line of the directory at x, and every other line as it was. -/
def LineBecomes (core line : Nat) (x : DirLine) (s t : State) : Prop :=
  SameOff [.mem] s t ∧ t.dirLine core line = x ∧ ∀ k, k ≠ lineKey (clusterOfCore core) line → tget t.mem.lines k = tget s.mem.lines k

theorem setDirLine_becomes {core line : Nat} {x : DirLine} {s : State} (h : s.lineFn line = some x.fn) :
    LineBecomes core line x s (setDirLine core line x s) :=
  ⟨setDirLine_off .., dirLine_setDirLine h, fun _ => lines_setDirLine_ne⟩

section
variable {core line : Nat} {s : State}

theorem evictLine_of_room (h : (s.heldLines core).length < 1024) : evictLine core line s = s := by
  simp [evictLine, h]

theorem askLine_becomes (m : Bool) (hc : core < 2048) (hf : (s.lineFn line).isSome) (hroom : (s.heldLines core).length < 1024) :
    LineBecomes core line ((s.dirLine core line).ask core m) s (askLine core line m s) := by
  have heq : askLine core line m s = setDirLine core line ((s.dirLine core line).ask core m) s := by
    simp [askLine, hc, hf, evictLine_of_room hroom]
  rw [heq]
  exact setDirLine_becomes ((dirLine_fn hf).trans (congrArg some (ask_fn m).symm))

theorem askLine_of_none (m : Bool) (h : 2048 ≤ core ∨ s.lineFn line = none) : askLine core line m s = s := by
  rcases h with h | h
  · simp [askLine, Nat.not_lt.2 h]
  · simp [askLine, h]

theorem exec_rd (core line : Nat) (s : State) : exec (.rd core line) s = .next (askLine core line false s) := rfl

theorem exec_own (core line : Nat) (s : State) : exec (.own core line) s = .next (askLine core line true s) := rfl

theorem exec_wb_of_owner (data : BitVec 512) (h : (s.dirLine core line).owner = some core) :
    exec (.wb core line data) s = .next (setDirLine core line ((s.dirLine core line).back data) s) := by
  simp [exec, execWb, h]

theorem exec_wb_of_other (data : BitVec 512) (h : (s.dirLine core line).owner ≠ some core) :
    exec (.wb core line data) s = .next s := by
  simp [exec, execWb, h]

theorem wb_becomes (data : BitVec 512) (h : (s.dirLine core line).owner = some core) :
    LineBecomes core line ((s.dirLine core line).back data) s (setDirLine core line ((s.dirLine core line).back data) s) :=
  setDirLine_becomes ((dirLine_fn_of_owner h).trans (congrArg some (back_fn data).symm))

end

/-- Settles O36: the directory puts down what `DirLine.ask` and `DirLine.back` give, which are worked out for the requests that are
served at once and for those that a recall holds back. -/
theorem linesHaveOneWriter : Obligations.LinesHaveOneWriter := by
  intro s core line key d only
  refine ⟨fun hc hf hroom hw => ?_, fun h => ?_, fun data ho => ?_, fun data ho => exec_wb_of_other data ho⟩
  · obtain ⟨hrdOff, hrd, hrdOnly⟩ := askLine_becomes false hc hf hroom
    obtain ⟨hownOff, hown, hownOnly⟩ := askLine_becomes true hc hf hroom
    refine ⟨fun ho => ?_, fun ho => ?_, fun ho => ?_, fun o ho hne => ⟨?_, ?_⟩⟩
    · refine ⟨_, exec_own core line s, hownOff, hown.trans ?_, hownOnly⟩
      rw [ask_of_free true hw ho]
      simpa [d, DirLine.grant] using hw
    · refine ⟨_, exec_rd core line s, hrdOff, hrd.trans ?_, hrdOnly⟩
      rw [ask_of_free false hw (.inr ho), if_neg (by decide), if_pos ho]
      exact waiting_of_nil hw
    · refine ⟨_, exec_rd core line s, hrdOff, hrd.trans ?_, hrdOnly⟩
      rw [ask_of_free false hw (.inl ho)]
      simpa [d, ho, DirLine.share] using hw
    · exact ⟨_, exec_rd core line s, hrdOff, hrd.trans (ask_of_owned false hw ho hne), hrdOnly⟩
    · exact ⟨_, exec_own core line s, hownOff, hown.trans (ask_of_owned true hw ho hne), hownOnly⟩
  · rw [exec_rd, exec_own, askLine_of_none false h, askLine_of_none true h]
    exact ⟨rfl, rfl⟩
  · obtain ⟨hoff, hline, honly⟩ := wb_becomes data ho
    refine ⟨_, exec_wb_of_owner data ho, hoff, honly, fun hw => hline.trans ?_, fun c hw => hline.trans ?_, fun c hw => hline.trans ?_⟩
    · simp [DirLine.back, serveLine, d, hw]
    · simp [DirLine.back, serveLine, DirLine.grant, d, hw]
    · simp [DirLine.back, serveLine, DirLine.share, d, hw]

end Sys2Proof.Machine
end

section
/-!
The frames of a function (R288, R289): the range of an ALLOC or FREE, frames that take free macros and wait for their zeroing, the
zeroing of a macro, and frames that are released.
-/

namespace Sys2Proof.Machine

open Sys2Proof

/-! ## The frame table -/

theorem tget_ne_none_of_mem {α : Type} {t : Tab α} {x : Nat × α} (h : x ∈ t) : tget t x.1 ≠ none := by
  induction t with
  | nil => cases h
  | cons y r ih =>
    obtain ⟨j, w⟩ := y
    rcases List.mem_cons.1 h with rfl | h
    · simp [tget]
    · unfold tget
      split
      · simp
      · exact ih h

/-- A number of the frame table is that of a frame of function fn in a range. -/
abbrev inFrames (fn first count n : Nat) : Bool := n / 2 ^ 21 == fn && first ≤ n % 2 ^ 21 && n % 2 ^ 21 < first + count

theorem inFrames_iff {fn first count n : Nat} :
    inFrames fn first count n ↔ n / 2 ^ 21 = fn ∧ first ≤ n % 2 ^ 21 ∧ n % 2 ^ 21 < first + count := by
  simp only [inFrames, Bool.and_eq_true, beq_iff_eq, decide_eq_true_eq, and_assoc]

theorem fkey_of_inFrames {fn first count n : Nat} (h : inFrames fn first count n) :
    n = fkey fn (first + (n % 2 ^ 21 - first)) ∧ n % 2 ^ 21 - first < count := by
  obtain ⟨hfn, hlo, hhi⟩ := inFrames_iff.1 h
  rw [fkey]
  omega

/-- A range without a frame has no entry in the frame table. -/
theorem not_inFrames_of_unallocated {fn first count : Nat} {s : State} (h : ∀ i < count, s.frame? fn (first + i) = none)
    {x : Nat × Frame} (hx : x ∈ s.fm.frames) : ¬ inFrames fn first count x.1 := by
  intro hin
  obtain ⟨hkey, hlt⟩ := fkey_of_inFrames hin
  have hnone := h _ hlt
  rw [State.frame?, ← hkey] at hnone
  exact tget_ne_none_of_mem hx hnone

theorem frame?_setFrame_ne {g lg fn lf : Nat} (s : State) (v : Frame) (h : fkey g lg ≠ fkey fn lf) :
    (s.setFrame fn lf v).frame? g lg = s.frame? g lg :=
  tget_tput_ne _ _ h

/-- Put down a frame for each element of a list. -/
def setFrames {α : Type} (fn : Nat) (lf : α → Nat) (v : α → Frame) (l : List α) (s : State) : State :=
  l.foldl (fun s x => s.setFrame fn (lf x) (v x)) s

section
variable {α : Type} {fn : Nat} {lf : α → Nat} {v : α → Frame}

theorem setFrames_cons (x : α) (r : List α) (s : State) :
    setFrames fn lf v (x :: r) s = setFrames fn lf v r (s.setFrame fn (lf x) (v x)) := rfl

theorem setFrames_kept (l : List α) (s : State) : Kept [.fm] s (setFrames fn lf v l s) :=
  kept_foldl (fun _ _ h => .step (by decide) h (State.setFrame_frame ..)) (.refl _ s)

/-- A run of frames touches neither the macros nor the commands that wait. -/
theorem setFrames_fm (l : List α) (s : State) :
    (setFrames fn lf v l s).fm.macs = s.fm.macs ∧ (setFrames fn lf v l s).fm.waits = s.fm.waits :=
  foldl_inv (fun t : State => t.fm.macs = s.fm.macs ∧ t.fm.waits = s.fm.waits) _ l s ⟨rfl, rfl⟩ (fun _ _ h => h)

theorem frame?_setFrames_of_notMem {g lg : Nat} {l : List α} (h : ∀ x ∈ l, fkey g lg ≠ fkey fn (lf x)) (s : State) :
    (setFrames fn lf v l s).frame? g lg = s.frame? g lg := by
  induction l generalizing s with
  | nil => rfl
  | cons x r ih =>
    obtain ⟨hx, hr⟩ := List.forall_mem_cons.1 h
    rw [setFrames_cons, ih hr, frame?_setFrame_ne s _ hx]

theorem frame?_setFrames_of_mem {l : List α} (hn : (l.map lf).Nodup) {x : α} (hx : x ∈ l) (s : State) :
    (setFrames fn lf v l s).frame? fn (lf x) = some (v x) := by
  induction l generalizing s with
  | nil => cases hx
  | cons y r ih =>
    obtain ⟨hy, hr⟩ := List.nodup_cons.1 hn
    rw [setFrames_cons]
    rcases List.mem_cons.1 hx with rfl | hx
    · rw [frame?_setFrames_of_notMem fun z hz heq => ?_, frame_setFrame_self]
      exact hy (Nat.add_left_cancel heq ▸ List.mem_map_of_mem hz)
    · exact ih hr hx _

end

/-! ## ALLOC (R288, R289) -/

theorem evictUntil_of_done {fn c : Nat} {keep : Nat → Bool} {done : State → Bool} {skip : List Nat} {s : State} (h : done s) (n : Nat) :
    evictUntil fn c keep done n skip s = (true, s) := by
  cases n <;> simp [evictUntil, h]

theorem allocUnbacked_eq (fn c first count : Nat) (s : State) : allocUnbacked fn c first count s =
    setFrames fn (fun p => first + p.1) (fun p => Frame.new .zeroing c (some p.2) 0) ((List.range count).zip (s.freeMacs c)) s := rfl

section
variable {fn c first count : Nat} {s : State}

theorem frame?_allocUnbacked {i : Nat} (hi : i < count) (hroom : count ≤ (s.freeMacs c).length) :
    (allocUnbacked fn c first count s).frame? fn (first + i) = some (Frame.new .zeroing c ((s.freeMacs c)[i]?) 0) := by
  have hi' : i < (s.freeMacs c).length := hi.trans_le hroom
  have hfst : ((List.range count).zip (s.freeMacs c)).map Prod.fst = List.range count :=
    List.map_fst_zip (by simpa using hroom)
  have hnodup : (((List.range count).zip (s.freeMacs c)).map fun p => first + p.1).Nodup := by
    have := (List.nodup_range (n := count)).map (f := (first + ·)) (fun a b h => Nat.add_left_cancel h)
    rwa [← hfst, List.map_map] at this
  have hmem : (i, (s.freeMacs c)[i]) ∈ (List.range count).zip (s.freeMacs c) :=
    List.mem_iff_getElem.2 ⟨i, by simp; omega, by simp⟩
  rw [allocUnbacked_eq, List.getElem?_eq_getElem hi']
  exact frame?_setFrames_of_mem hnodup hmem s

theorem frame?_allocUnbacked_ne {g lf : Nat} (h : ∀ i < count, fkey g lf ≠ fkey fn (first + i)) :
    (allocUnbacked fn c first count s).frame? g lf = s.frame? g lf := by
  refine frame?_setFrames_of_notMem (fun p hp => h p.1 ?_) s
  exact List.mem_range.1 (List.of_mem_zip hp).1

/-- The frames of an ALLOC that waits for their zeroing. -/
def allocStarted (t : Ticket) (c first count : Nat) (s : State) : State :=
  let u := allocUnbacked t.fn c first count s
  { u with fm := { u.fm with waits := u.fm.waits ++ [.alloc t t.fn first count] } }

theorem allocTry_of_unbacked {e : Nat} {t : Ticket} (hc : entF e 0x08 2 = c) (hfirst : entF e 0x0C 4 % 2 ^ 21 = first)
    (hcount : entF e 0x10 4 = count) (hva : entF e 0x18 8 = 0) (hpos : count ≠ 0) (hrange : first + count ≤ 2 ^ 21)
    (hcore : s.fnHasCore t.fn c) (hnone : ∀ i < count, s.frame? t.fn (first + i) = none) (hfree : s.freeWaits t.fn first count = false)
    (hquota : s.unbacked t.fn c + count ≤ framesOf (s.fmCfg t.fn)) (hroom : count ≤ (s.freeMacs c).length) :
    allocTry e t s = allocStarted t c first count s := by
  have hany : s.fm.frames.any (fun x => inFrames t.fn first count x.1) = false :=
    List.any_eq_false.2 fun x hx => not_inFrames_of_unallocated hnone hx
  have hgranted : ¬ (!s.fnHasCore t.fn c || s.fm.frames.any (fun x => inFrames t.fn first count x.1) ||
      ((0 : Nat) == 0 && framesOf (s.fmCfg t.fn) < s.unbacked t.fn c + count)) = true := by
    simp [hcore, hany, hquota]
  unfold allocTry
  rw [hfirst, hcount, hfree, if_neg (by decide)]
  unfold allocEffect
  simp only [hc, hfirst, hcount, hva]
  rw [if_neg hpos, if_neg (Nat.not_lt.2 hrange), if_neg hgranted, if_neg (by decide),
    evictUntil_of_done (by simpa using hroom), if_pos rfl, allocStarted]

end

/-! ## FRAME_ZEROING (R289) -/

/-- Completing the ALLOCs whose frames are zeroed changes, of the frame manager, only the commands that wait. -/
theorem finishAllocs_fm (s : State) : (finishAllocs s).fm.frames = s.fm.frames ∧ (finishAllocs s).fm.macs = s.fm.macs ∧
    ∀ w ∈ (finishAllocs s).fm.waits, w ∈ s.fm.waits := by
  unfold finishAllocs
  extract_lets done u
  refine foldl_inv (fun t : State => t.fm.frames = s.fm.frames ∧ t.fm.macs = s.fm.macs ∧ ∀ w ∈ t.fm.waits, w ∈ s.fm.waits) _ _ _
    ⟨rfl, rfl, fun w hw => (List.mem_filter.1 hw).1⟩ (fun t w h => ?_)
  split <;> exact h

/-- Where every command that waits is an ALLOC, none is tried again. -/
theorem retryWaits_of_allocs {s : State} (h : ∀ w ∈ s.fm.waits, ∃ k g a n, w = .alloc k g a n) : retryWaits s = s := by
  unfold retryWaits
  extract_lets todo _ u
  have htodo : todo = [] := List.filter_eq_nil_iff.2 fun w hw => by
    obtain ⟨k, g, a, n, rfl⟩ := h w hw
    exact Bool.false_ne_true
  have hu : u = s := by
    dsimp only [u]
    rw [List.filter_eq_self.2]
    intro w hw
    obtain ⟨k, g, a, n, rfl⟩ := h w hw
    rfl
  rw [htodo, hu, List.foldl_nil]

/-- The macro is zero and its frame EMPTY, before the commands that wait are looked at. -/
def frameZeroed (core mac key : Nat) (f : Frame) (s : State) : State :=
  let u := zeroLogMac core mac s
  let v : State := { u with fm := { u.fm with frames := tput u.fm.frames key { f with state := .empty } } }
  setChecks (v.physMac core mac) [] v

section
variable {core mac key : Nat} {f : Frame} {s : State}

theorem frameZeroed_kept : Kept [.fm, .mnt] s (frameZeroed core mac key f s) :=
  .step (by decide) (.fm (by decide) (zeroLogMac_frame core mac s)) (setChecks_frame ..)

theorem frameZeroed_frames : (frameZeroed core mac key f s).fm.frames = tput s.fm.frames key { f with state := .empty } := rfl

theorem frameZeroed_waits : (frameZeroed core mac key f s).fm.waits = s.fm.waits := rfl

theorem frameZeroed_macAt_self : (frameZeroed core mac key f s).macAt (s.physMac core mac) =
    zeroMac (s.macAt (s.physMac core mac)) s.tick.st :=
  macAt_setMac_self ..

theorem frameZeroed_macAt_ne {pm : Nat} (h : pm ≠ s.physMac core mac) : (frameZeroed core mac key f s).macAt pm = s.macAt pm :=
  macAt_setMac_ne (restartEvac (s.physMac core mac) s) _ h

theorem frameZeroing_eq
    (hfind : s.fm.frames.find? (fun x => x.2.core = core ∧ x.2.mac = some mac ∧ x.2.state = .zeroing) = some (key, f))
    (hfence : s.fenced (s.physMac core mac) = false) :
    exec (.frameZeroing core mac) s = .next (retryWaits (finishAllocs (frameZeroed core mac key f s))) := by
  rw [exec, execFrameZeroing, frameZeroingEffect, hfind]
  exact congrArg Host.Outcome.next (if_neg (Bool.eq_false_iff.1 hfence))

end

theorem rowOf_zeroMac (m : Mac) (now r : Nat) : rowOf (zeroMac m now) r = rowWithRefs r 0 := rfl

/-! ## FREE (R289) -/

/-- A frame of the range is named by an execution in progress, or is still being zeroed. -/
def State.freeBlocked (s : State) (fn first count : Nat) : Prop :=
  ∃ x ∈ s.fm.frames, inFrames fn first count x.1 ∧ (s.namedRunning fn (x.1 % 2 ^ 21) ∨ x.2.state = .zeroing)

section
variable {t : Ticket} {fn first count : Nat} {s : State}

/-- The commands that wait on the frame manager are these. -/
def State.withWaits (s : State) (ws : List FmWait) : State := { s with fm := { s.fm with waits := ws } }

/-- The frames of a range are gone. -/
def State.withoutFrames (s : State) (fn first count : Nat) : State :=
  { s with fm := { s.fm with frames := s.fm.frames.filter (fun x => !inFrames fn first count x.1) } }

theorem fmBusy_of_noWaits (hw : s.fm.waits = []) : s.fmBusy fn first count =
    s.fm.frames.any (fun x => inFrames fn first count x.1 && x.2.state == .zeroing) := by
  rw [State.fmBusy, hw, List.any_nil, Bool.or_false]

theorem freeBlocked_iff (hw : s.fm.waits = []) : s.freeBlocked fn first count ↔
    (s.fm.frames.any (fun x => inFrames fn first count x.1 && s.namedRunning fn (x.1 % 2 ^ 21)) || s.fmBusy fn first count) = true := by
  rw [fmBusy_of_noWaits hw, Bool.or_eq_true, List.any_eq_true, List.any_eq_true, ← exists_or]
  simp only [State.freeBlocked, Bool.and_eq_true, beq_iff_eq, ← and_or_left]

theorem freeTry_of_blocked (hw : s.fm.waits = []) (h : s.freeBlocked fn first count) :
    freeTry t fn first count s = s.withWaits [.free t fn first count] := by
  refine (if_pos ((freeBlocked_iff hw).1 h)).trans ?_
  rw [hw, List.nil_append, State.withWaits]

theorem freeTry_of_unblocked (hw : s.fm.waits = []) (h : ¬ s.freeBlocked fn first count) :
    freeTry t fn first count s = completeSt t stOk (s.withoutFrames fn first count) :=
  if_neg (mt (freeBlocked_iff hw).2 h)

/-- A FREE that waits alone is tried again. -/
theorem retryWaits_of_free : retryWaits (s.withWaits [.free t fn first count]) = freeTry t fn first count (s.withWaits []) := rfl

theorem withWaits_nil (hw : s.fm.waits = []) : s.withWaits [] = s := by
  rw [State.withWaits, ← hw]

theorem tget_withoutFrames (n : Nat) : tget (s.withoutFrames fn first count).fm.frames n =
    if inFrames fn first count n then none else tget s.fm.frames n := by
  rw [State.withoutFrames, tget_filter s.fm.frames (fun n => !inFrames fn first count n) n]
  cases inFrames fn first count n <;> rfl

end

/-! ## ALLOC and FREE at the front of a queue -/

/-- The state with another host interface. -/
def State.withHost (s : State) (h : HostIf) : State := { s with host := h }

/-- A command that has left its queue acts on a state that differs in the host interface. -/
theorem popEntry_eq_withHost (fn q : Nat) (s : State) : ∃ h, popEntry fn q s = s.withHost h := ⟨_, popEntry_host fn q s⟩

section
variable {fn q e : Nat} {k : Ticket} {s : State}

theorem exec_alloc_of_front (h : Front opAlloc fn q e k s) : exec (.alloc fn q) s = .next (allocTry e k (popEntry fn q s)) :=
  congrArg Host.Outcome.next (onEntry_act _ _ _ _ _ _ _ h)

theorem exec_free_of_front (h : Front opFree fn q e k s) : exec (.free fn q) s =
    .next (retryWaits (freeTry k fn (entF e 0x0C 4 % 2 ^ 21) (entF e 0x10 4) (popEntry fn q s))) :=
  congrArg Host.Outcome.next (onEntry_act _ _ _ _ _ _ _ h)

end

/-- Settles O27: an ALLOC goes by `allocTry_of_unbacked` and a zeroing by `frameZeroing_eq`; neither tries another command. -/
theorem allocatedFramesAreZeroed : Obligations.AllocatedFramesAreZeroed := by
  refine ⟨?_, fun s core mac fn lf f hlf hfind hfence hwaits => ?_⟩
  · intro s fn q e k h c first count hva hpos hrange hcore hnone hfree hquota hroom
    obtain ⟨rfl, rfl⟩ := front_ticket h
    obtain ⟨hst, hpop⟩ := popEntry_eq_withHost k.fn k.q s
    have hact : allocTry e k (s.withHost hst) = allocStarted k c first count (s.withHost hst) :=
      allocTry_of_unbacked rfl rfl rfl hva hpos hrange hcore hnone hfree hquota hroom
    refine ⟨allocStarted k c first count (s.withHost hst), ?_, ?_, ?_, fun i hi => ?_, fun g lf hne => ?_, ?_, ?_⟩
    · rw [exec_alloc_of_front h, hpop, hact]
    · refine off_trans (hpop ▸ off_mono (popEntry_hostonly k.fn k.q s) (by decide)) (Kept.off (.fm (by decide) ?_))
      exact .step (by decide) (.refl [.host, .fm] _) (allocUnbacked_frame ..)
    · rw [hpop]
      exact (allocUnbacked_frame k.fn c first count (s.withHost hst)).off.same .host (by decide)
    · exact frame?_allocUnbacked (s := s.withHost hst) hi hroom
    · exact frame?_allocUnbacked_ne (s := s.withHost hst) hne
    · exact congrArg (· ++ [FmWait.alloc k k.fn first count]) (setFrames_fm ..).2
    · exact (setFrames_fm ..).1
  · obtain ⟨hframes, hmacs, hsub⟩ := finishAllocs_fm (frameZeroed core mac (fkey fn lf) f s)
    have hmac (pm : Nat) : (finishAllocs (frameZeroed core mac (fkey fn lf) f s)).macAt pm =
        (frameZeroed core mac (fkey fn lf) f s).macAt pm := by
      simp only [State.macAt, hmacs]
    refine ⟨finishAllocs (frameZeroed core mac (fkey fn lf) f s), ?_, ?_, ?_, fun n hn => ?_, fun r => ?_, fun pm hpm => ?_⟩
    · rw [frameZeroing_eq hfind hfence, retryWaits_of_allocs fun w hw => hwaits w (hsub w hw)]
    · exact (Kept.step (by decide) (.step (by decide) (.refl _ s) frameZeroed_kept) (finishAllocs_frame _)).off
    · rw [State.frame?, hframes, frameZeroed_frames, tget_tput_self]
    · rw [hframes, frameZeroed_frames, tget_tput_ne _ _ hn]
    · rw [hmac, frameZeroed_macAt_self, rowOf_zeroMac]
    · rw [hmac, frameZeroed_macAt_ne hpm]

/-- Settles O28: a FREE that is blocked waits, and waits again when it is tried again; one that is not releases its frames. -/
theorem freeReleasesFrames : Obligations.FreeReleasesFrames := by
  intro s fn q e k h hw first count mine busy
  obtain ⟨hst, hpop⟩ := popEntry_eq_withHost fn q s
  have hoff : SameOff [.host, .fm] s (s.withHost hst) := by
    rw [← hpop]
    exact off_mono (popEntry_hostonly fn q s) (by decide)
  have hexec : exec (.free fn q) s = .next (retryWaits (freeTry k fn first count (s.withHost hst))) :=
    hpop ▸ exec_free_of_front h
  have hmine (n : Nat) : mine n ↔ inFrames fn first count n := inFrames_iff.symm
  have hbusy : busy ↔ (s.withHost hst).freeBlocked fn first count := by
    simp only [busy, hmine, State.freeBlocked, State.namedRunning, State.withHost]
  have hw : (s.withHost hst).fm.waits = [] := hw
  rw [hexec, hpop]
  by_cases hb : busy
  · have hblocked := hbusy.1 hb
    refine ⟨(s.withHost hst).withWaits [.free k fn first count], ?_, ?_, rfl, fun _ => ⟨rfl, rfl, rfl⟩,
      fun hn => absurd hb hn⟩
    · rw [freeTry_of_blocked hw hblocked, retryWaits_of_free, withWaits_nil hw, freeTry_of_blocked hw hblocked]
    · exact ⟨fun c hc => Comp.same_trans (hoff.same c hc) ((Kept.fm (by decide) (.refl [.host, .fm] _)).off.same c hc)⟩
  · have hfree := mt hbusy.2 hb
    refine ⟨completeSt k stOk ((s.withHost hst).withoutFrames fn first count), ?_, ?_, rfl, fun hn => absurd hn hb,
      fun _ => ⟨fun x hx => ?_, fun x hx => ?_, hw, rfl⟩⟩
    · rw [freeTry_of_unblocked hw hfree, retryWaits_of_allocs]
      intro w hmem
      exact absurd hmem (by simp [completeSt, State.withoutFrames, hw])
    · refine off_trans hoff (Kept.off ?_)
      exact .step (by decide) (.fm (by decide) (.refl _ _)) (completeSt_frame ..)
    · exact (tget_withoutFrames x).trans (if_pos ((hmine x).1 hx))
    · exact (tget_withoutFrames x).trans (if_neg (mt (hmine x).2 hx))

end Sys2Proof.Machine
end

section
/-!
The settings: every register but MMU_FN_STAT and the activity counts. Reading and writing blocks, images and pages, and paging frames
out, leave them as they are.
-/

namespace Sys2Proof.Machine

open Sys2Proof

/-- The registers without MMU_FN_STAT and the activity counts, which every access of memory may change (R285, R368). -/
def Regs.settings (r : Regs) : Regs := { r with mmuFnStat := [], work := [] }

theorem Kept.settings {L : List Comp} {s t : State} (h : Kept L s t) (hL : Comp.reg ∉ L := by decide) :
    t.reg.settings = s.reg.settings := congrArg Regs.settings (h.reg_eq hL)

theorem foldl_settings {α : Type} {f : State → α → State} (hf : ∀ t x, (f t x).reg.settings = t.reg.settings) (l : List α) (s : State) :
    (l.foldl f s).reg.settings = s.reg.settings :=
  foldl_inv (fun t : State => t.reg.settings = s.reg.settings) f l s rfl (fun t x h => (hf t x).trans h)

/-! ## What the settings hold -/

section
variable {s t : State} (h : t.reg.settings = s.reg.settings)
include h

theorem fmCfg_of_settings (f : Nat) : t.fmCfg f = s.fmCfg f := by
  have hq : t.reg.fmFnCfg = s.reg.fmFnCfg := (congrArg Regs.fmFnCfg h :)
  rw [State.fmCfg, State.fmCfg, hq]

theorem sparseCfg_of_settings : t.reg.sparseCfg = s.reg.sparseCfg := (congrArg Regs.sparseCfg h :)

end

/-! ## Blocks -/

@[simp] theorem addMmuStat_settings (f hi lo n : Nat) (s : State) : (addMmuStat f hi lo n s).reg.settings = s.reg.settings := rfl

@[simp] theorem noteWork_settings (kind die f n : Nat) (s : State) : (noteWork kind die f n s).reg.settings = s.reg.settings := rfl

@[simp] theorem raiseMem_settings (code f die : Nat) (core info : Option Nat) (dva : Nat) (s : State) :
    (raiseMem code f die core info dva s).reg.settings = s.reg.settings := (raiseMem_frame ..).settings

@[simp] theorem outOfWindow_settings (f : Nat) (core : Option Nat) (dva : Nat) (s : State) :
    (outOfWindow f core dva s).reg.settings = s.reg.settings := (outOfWindow_frame ..).settings

@[simp] theorem setPte_settings (r : PteRef) (v : Nat) (s : State) : (s.setPte r v).reg.settings = s.reg.settings :=
  (State.setPte_frame ..).settings

@[simp] theorem verifyBlk_settings (f die : Nat) (core : Option Nat) (dva : Nat) (b : Block) (s : State) :
    (verifyBlk f die core dva b s).2.reg.settings = s.reg.settings := by
  unfold verifyBlk
  split <;> simp

@[simp] theorem deliver_settings (f die key : Nat) (core : Option Nat) (dva : Nat) (b : Block) (s : State) :
    (deliver f die key core dva b s).2.reg.settings = s.reg.settings := by
  unfold deliver
  split <;> simp

@[simp] theorem fillPage_settings (f dva : Nat) (r : PteRef) (failed : List Nat) (s : State) :
    (fillPage f dva r failed s).reg.settings = s.reg.settings := by
  unfold fillPage
  dsimp only
  split <;> simp

@[simp] theorem ensurePresent_settings (f dva : Nat) (core : Option Nat) (l : Loc) (s : State) :
    (ensurePresent f dva core l s).reg.settings = s.reg.settings := by
  unfold ensurePresent
  split
  · split
    · dsimp only
      split <;> simp [(noteHostWait_frame core _).settings]
    · rfl
  · rfl

@[simp] theorem readBlk_settings (f p : Nat) (core : Option Nat) (dva : Nat) (s : State) :
    (readBlk f p core dva s).2.reg.settings = s.reg.settings := by
  unfold readBlk
  split
  · simp
  · simp
  · dsimp only
    split <;> simp
  · split
    · simp
    · dsimp only
      split <;> simp
  · simp
  · split
    · rfl
    · dsimp only
      split <;> simp

@[simp] theorem writeBlk_settings (f p : Nat) (core : Option Nat) (dva : Nat) (b : Block) (s : State) :
    (writeBlk f p core dva b s).reg.settings = s.reg.settings := by
  unfold writeBlk
  extract_lets l
  split
  · simp
  · rw [← verifyBlk_settings f l.die core dva b s]
    obtain ⟨c, t⟩ := verifyBlk f l.die core dva b s
    cases l with
    | bad => rfl
    | peer m off => simp
    | host a w wr => rfl
    | as cr line => rfl
    | cm cl line => rfl
    | hbm r pte hpa w wr =>
      dsimp only
      rw [(State.setHbm_frame ..).settings, noteWork_settings]
      split <;> simp [(openZeroPage_frame r _).settings]

/-! ## Images, pages and frames -/

theorem readPage_settings (fn p imageVa : Nat) (s : State) : (readPage fn p imageVa s).2.reg.settings = s.reg.settings := by
  have hhdr := readBlk_settings fn p none (imageVa - 256) s
  unfold readPage
  dsimp only
  split
  · exact hhdr
  · exact foldl_inv (fun x : List (List Byte) × List Nat × State => x.2.2.reg.settings = s.reg.settings) _ _ _ hhdr
      fun x i h => (readBlk_settings ..).trans h

@[simp] theorem writeImage_settings (fn va : Nat) (h : PageHdr) (dense : List Nat) (bad : Nat → Bool) (s : State) :
    (writeImage fn va h dense bad s).reg.settings = s.reg.settings :=
  (foldl_settings (fun _ _ => writeBlk_settings ..) _ _).trans (writeBlk_settings ..)

theorem pageOutImage_settings (fn lf : Nat) (f : Frame) (flips : List CellFlip) (s : State) :
    (pageOutImage fn lf f flips s).reg.settings = s.reg.settings := by
  unfold pageOutImage
  split
  · rfl
  · exact (State.setFrame_frame ..).settings.trans (writeImage_settings ..)

theorem evictOne_settings (fn lf : Nat) (flips : List CellFlip) (s : State) :
    (evictOne fn lf flips s).2.reg.settings = s.reg.settings := by
  unfold evictOne
  split
  · rfl
  · split
    · exact (evictFrame_frame ..).settings
    · split
      · exact (evictFrame_frame ..).settings.trans (pageOutImage_settings ..)
      · exact raiseMem_settings ..

theorem evictUntil_settings (fn c : Nat) (keep : Nat → Bool) (done : State → Bool) (n : Nat) (skip : List Nat) (s : State) :
    (evictUntil fn c keep done n skip s).2.reg.settings = s.reg.settings := by
  induction n generalizing skip s with
  | zero => rfl
  | succ n ih =>
    unfold evictUntil
    split
    · rfl
    · split
      · rfl
      · exact (ih ..).trans (evictOne_settings ..)

theorem evictExcess_settings (s : State) : (evictExcess s).reg.settings = s.reg.settings := by
  refine foldl_settings (fun t p => ?_) _ s
  split
  · rfl
  · exact evictUntil_settings ..

end Sys2Proof.Machine
end

section
/-!
FM_FN_CFG and MMU_WIN_CFG (R271, R272, R286): a refused write sets CFG_REJ and nothing else, an accepted quota is in force after the
frames above it have been evicted, and a window is enabled with an empty directory.
-/

namespace Sys2Proof.Machine

open Sys2Proof

/-! ## A refused write -/

section
variable (f : Nat) (s : State)

theorem mmuCfgRej_off : SameOff [.reg] s (mmuCfgRej f s) := (Kept.reg (by decide) (.refl _ s)).off

theorem mmuCfgRej_sets : bitOf ((mmuCfgRej f s).mmuCfg f) 31 = true := by
  rw [State.mmuCfg, bitOf_toNat]
  simp [mmuCfgRej]

end

/-! ## FM_FN_CFG (R286) -/

section
variable {f : Nat} {v : Word} {s : State}

theorem exec_fmFnCfgWrite (hs : s.serving) (hf : f < 512) : exec (.fmFnCfgWrite f v) s = .next (fmFnCfgEffect f v s) := by
  change execFmFnCfgWrite f v s = _
  simp [execFmFnCfgWrite, hs, hf]

theorem fmRefused_iff {n : Nat} : fmRefused s f n = true ↔
    (pageSlotsOf n = 0 ∨ 64 < framesOf n ∨ 32 < as16kOf n ∨ 32 < cm128kOf n ∨
      (∃ p ∈ s.fnParts f, s.partClusters p ≠ [] ∧ (64 < s.quotaSum p f n framesOf ∨ 32 < s.quotaSum p f n as16kOf ∨
        32 < s.quotaSum p f n cm128kOf)) ∨
      (∃ x ∈ s.fm.frames, x.1 / 2 ^ 21 = f ∧ framesOf n < s.unbacked f x.2.core)) := by
  simp only [fmRefused, Bool.or_eq_true, Bool.and_eq_true, List.any_eq_true, beq_iff_eq, bne_iff_ne, decide_eq_true_eq, or_assoc]

/-- The quota that an accepted write puts down: the value without its reserved bits. -/
def quotaPut (f : Nat) (v : Word) (s : State) : State :=
  { s with reg := { s.reg with fmFnCfg := tput s.reg.fmFnCfg f (v &&& 0x0FFFF07F) } }

theorem fmFnCfgEffect_of_accepted (h : fmRefused s f v.toNat = false) :
    fmFnCfgEffect f v s = evictExcess (clearMoved s (quotaPut f v s)) := by
  rw [fmFnCfgEffect, h]
  rfl

/-- What is cleared and evicted under a new quota leaves the quotas. -/
theorem fmFnCfgEffect_fmCfg (h : fmRefused s f v.toNat = false) (g : Nat) :
    (fmFnCfgEffect f v s).fmCfg g = (quotaPut f v s).fmCfg g := by
  rw [fmFnCfgEffect_of_accepted h, fmCfg_of_settings ((evictExcess_settings _).trans (clearMoved_frame ..).settings)]

theorem quotaPut_fmCfg_self : (quotaPut f v s).fmCfg f = (v &&& 0x0FFFF07F).toNat := by
  simp [State.fmCfg, quotaPut]

theorem quotaPut_fmCfg_ne {g : Nat} (h : g ≠ f) : (quotaPut f v s).fmCfg g = s.fmCfg g := by
  simp [State.fmCfg, quotaPut, tgetD_tput_ne _ _ _ h]

/-- The mask keeps FRAMES. -/
theorem fmFnCfgMask_low (i : Nat) (h : i ≤ 6) : (0x0FFFF07F : Word).getLsbD i = true :=
  (by decide : ∀ j ≤ 6, (0x0FFFF07F : Word).getLsbD j = true) i h

/-- The mask keeps AS16K, CM128K and PAGE_SLOTS. -/
theorem fmFnCfgMask_high (i : Nat) (h12 : 12 ≤ i) (h27 : i ≤ 27) : (0x0FFFF07F : Word).getLsbD i = true :=
  (by decide : ∀ j ≤ 27, 12 ≤ j → (0x0FFFF07F : Word).getLsbD j = true) i h27 h12

end

/-! ## MMU_WIN_CFG (R271, R272) -/

theorem winMask_lt (v : Nat) : winMask v < 2 ^ 64 := setBits_lt _ _ _ _ _ (by omega) (by omega) (Nat.mod_lt _ (by omega))

section
variable {f w : Nat} {v : Dword} {s : State}

theorem exec_mmuWinCfgWrite (hs : s.serving) (hf : f < 512) (hw : w < 16) :
    exec (.mmuWinCfgWrite f w .whole v) s = .next (winCfgEffect f w v.toNat s) := by
  change execMmuWinCfgWrite f w .whole v s = _
  rw [execMmuWinCfgWrite, withHalf_whole_of_dword]
  simp [hs, hf, hw]

/-- A window that is enabled, with an empty directory. -/
def winOpened (f w n : Nat) (s : State) : State :=
  setWinCfg f w n { s with mem := { s.mem with dir := tclear s.mem.dir (dirKey f w 0) (2 ^ 18) } }

theorem winCfgEffect_of_enable {n : Nat} (hen : winEn (winMask n)) (hold : winEn (s.winCfg f w) = false)
    (hok : winRefused s f w (winMask n) = false) : winCfgEffect f w n s = winOpened f w (winMask n) s := by
  simp [winCfgEffect, hen, hold, hok, winOpened]

theorem winOpened_winCfg {n : Nat} (hn : n < 2 ^ 64) : (winOpened f w n s).winCfg f w = n := by
  simp only [State.winCfg, winOpened, setWinCfg, tgetD_tput_self, BitVec.toNat_ofNat, Nat.mod_eq_of_lt hn]

theorem winOpened_off (n : Nat) : SameOff [.reg, .mem] s (winOpened f w n s) := by
  refine (Kept.reg (by decide) (.mem (by decide) (fun hw => ?_) (.refl _ s))).off
  exact ⟨hw.1, hw.2.1, hw.2.2.1, hw.2.2.2.1, tcanon_filter _ hw.2.2.2.2.1, hw.2.2.2.2.2⟩

theorem winSize2M_lt (n : Nat) : winSize2M n < 2 ^ 18 := bitsOf_lt ..

/-- Every directory entry of a window that has just been enabled is invalid. -/
theorem tget_winOpened_dir {n i : Nat} (hi : i < 2 ^ 18) : tget (winOpened f w n s).mem.dir (dirKey f w i) = none := by
  have h := tget_filter s.mem.dir (fun k => k < dirKey f w 0 || dirKey f w 0 + 2 ^ 18 ≤ k) (dirKey f w i)
  refine h.trans (if_neg ?_)
  rw [Bool.or_eq_true, decide_eq_true_eq, decide_eq_true_eq]
  simp only [dirKey]
  omega

theorem winOpened_walk {n dva : Nat} (hlo : winBase2M ((winOpened f w n s).winCfg f w) ≤ dva / 2 ^ 21)
    (hhi : dva / 2 ^ 21 < winBase2M ((winOpened f w n s).winCfg f w) + winSize2M ((winOpened f w n s).winCfg f w)) :
    (winOpened f w n s).walk f w dva = .bad := by
  have hsize := winSize2M_lt ((winOpened f w n s).winCfg f w)
  have hpage : (dva - winBase2M ((winOpened f w n s).winCfg f w) * 2 ^ 21) / 2 ^ 21 < 2 ^ 18 := by omega
  unfold State.walk
  dsimp only
  rw [tgetD, tget_winOpened_dir hpage]
  rfl

end

/-- Settles O24: the checks of each register are those of the statement; an accepted FM_FN_CFG goes by `fmFnCfgEffect_fmCfg`, an
enabled window by `winOpened_walk`. -/
theorem quotasAndWindowsAreChecked : Obligations.QuotasAndWindowsAreChecked := by
  refine ⟨?_, fun s f w v hs hf hw => ⟨fun href => ?_, fun hen hold hok => ?_⟩⟩
  · intro s f v hs hf n refused
    have hiff : fmRefused s f n = true ↔ refused := fmRefused_iff
    refine ⟨fun href => ⟨_, exec_fmFnCfgWrite hs hf, ?_⟩, fun href => ⟨_, exec_fmFnCfgWrite hs hf, ?_⟩⟩
    · rw [fmFnCfgEffect, if_pos (hiff.2 href)]
      exact ⟨mmuCfgRej_off f s, fun _ => rfl, mmuCfgRej_sets f s⟩
    · have hacc : fmRefused s f v.toNat = false := Bool.eq_false_iff.2 (mt hiff.1 href)
      have hself : (fmFnCfgEffect f v s).fmCfg f = (v &&& 0x0FFFF07F).toNat :=
        (fmFnCfgEffect_fmCfg hacc f).trans quotaPut_fmCfg_self
      simp only [hself]
      refine ⟨?_, ?_, ?_, ?_, fun g hg => (fmFnCfgEffect_fmCfg hacc g).trans (quotaPut_fmCfg_ne hg)⟩
      · exact bitsOf_toNat_and v _ 6 0 fun i _ h _ => fmFnCfgMask_low i h
      · exact bitsOf_toNat_and v _ 17 12 fun i hl hh _ => fmFnCfgMask_high i hl (by omega)
      · exact bitsOf_toNat_and v _ 23 18 fun i hl hh _ => fmFnCfgMask_high i (by omega) (by omega)
      · exact bitsOf_toNat_and v _ 27 24 fun i hl hh _ => fmFnCfgMask_high i (by omega) hh
  · refine ⟨_, exec_mmuWinCfgWrite hs hf hw, ?_⟩
    rw [winCfgEffect, if_pos href]
    exact ⟨mmuCfgRej_off f s, fun _ _ => rfl, mmuCfgRej_sets f s⟩
  · refine ⟨_, exec_mmuWinCfgWrite hs hf hw, ?_⟩
    rw [winCfgEffect_of_enable hen hold hok]
    exact ⟨winOpened_off _, winOpened_winCfg (winMask_lt _), fun dva => winOpened_walk⟩

end Sys2Proof.Machine
end

section
/-!
LOAD (R292): the checks of the image, a page that goes to the image area of an evicted frame, and one that goes into the macro of a
frame that no execution names.
-/

namespace Sys2Proof.Machine

open Sys2Proof

/-! ## The checks of the image -/

section
variable {t : Ticket} {fn lf va : Nat} {flips : List CellFlip} {s v : State} {f : Frame}

theorem loadTry_of_invalid (h : va % 256 ≠ 0 ∨ s.frame? fn lf = none) : loadTry t fn lf va flips s = completeSt t stInvalid s := by
  rw [loadTry, if_pos h]

theorem not_invalid (ha : va % 256 = 0) (hf : s.frame? fn lf = some f) : ¬ (va % 256 ≠ 0 ∨ s.frame? fn lf = none) := by
  simp [ha, hf]

theorem loadTry_of_outside (ha : va % 256 = 0) (hf : s.frame? fn lf = some f) (hw : s.loadInWindow fn va = false) :
    loadTry t fn lf va flips s = refuseCmd t 0x0301 (some f.core) (s.winOf fn va) va s := by
  rw [loadTry, if_neg (not_invalid ha hf), hw, hf]
  rfl

theorem loadTry_of_unreadable (ha : va % 256 = 0) (hf : s.frame? fn lf = some f) (hw : s.loadInWindow fn va)
    (hread : readPage fn 0 va s = (none, v)) :
    loadTry t fn lf va flips s = refuseCmd t 0x0305 (some f.core) (some lf) va v := by
  rw [loadTry, if_neg (not_invalid ha hf), hw, hf, hread]
  rfl

theorem loadTry_of_page {pg : Page} {u : State} (ha : va % 256 = 0) (hf : s.frame? fn lf = some f) (hw : s.loadInWindow fn va)
    (hread : readPage fn 0 va s = (some pg, v)) (hfree : s.freeWaits fn lf 1 = false)
    (hact : loadAct t fn lf pg flips v = some u) : loadTry t fn lf va flips s = u := by
  rw [loadTry, if_neg (not_invalid ha hf), hw, hread, hfree]
  simp [hact]

end

/-! ## What a LOAD does -/

section
variable {t : Ticket} {fn lf m : Nat} {pg : Page} {flips : List CellFlip} {s : State} {f : Frame}

theorem loadAct_of_evicted (hf : s.frame? fn lf = some f) (he : f.state = .evicted) : loadAct t fn lf pg flips s =
    some (completeSt t stOk ((loadImageArea fn f pg s).setFrame fn lf { f.withHdr pg.hdr with dirty := false })) := by
  simp only [loadAct, hf, he, if_true]

/-- A frame of one macro whose page nothing uses, moves or swaps: a LOAD may write it in place. -/
structure LoadsInPlace (fn lf m : Nat) (f : Frame) (s : State) : Prop where
  frame : s.frame? fn lf = some f
  mac : f.mac = some m
  held : isHeld f.state
  paging : s.pagingOf fn lf = false
  shadow : f.shadow = none
  companion : f.companion = none
  running : s.namedRunning fn lf = false
  queued : s.namedQueued fn lf = false
  swap : s.swapPending fn lf = false
  evac : s.evacPending f.core m = false
  fence : s.fenced (s.physMac f.core m) = false

theorem loadAct_of_inPlace (h : LoadsInPlace fn lf m f s) :
    loadAct t fn lf pg flips s = some (completeSt t stOk (loadInPlace fn lf f pg flips s)) := by
  have hne : f.state ≠ .evicted := fun he => by simpa [he, isHeld] using h.held
  have hmacs : f.macsHeld = [m] := by simp [macsHeld_of_noShadow h.shadow, h.mac, h.companion]
  simp only [loadAct, h.frame, if_neg hne, h.held, h.paging, hmacs, List.any_cons, List.any_nil, h.evac, h.fence, h.swap, h.shadow,
    h.running, h.queued, Option.any_none, Bool.or_self, Bool.not_true, Bool.not_false, Bool.false_eq_true, if_false, if_true]

end

/-! ## The page in its macro (R186) -/

/-- The macro that a page has been written into and read back. -/
def pageWritten (m : Mac) (now : Nat) (sp : Bool) (pg : Page) (flips : List CellFlip) : Mac :=
  poisonRows (buildFrame m now sp pg) (failedRows sp flips)

section
variable (fn core pm : Nat) (sp : Bool) (pg : Page) (flips : List CellFlip) (s : State)

/-- Of the frame manager a written page changes the macro and its check words; a record that it raises changes nothing of it. -/
theorem writePage_fm : (writePage fn core pm sp pg flips s).fm =
    (setChecks pm pg.dense ((restartEvac pm s).setMac pm (pageWritten (s.macAt pm) s.tick.st sp pg flips))).fm := by
  unfold writePage
  dsimp only
  split
  · rfl
  · exact (raiseMem_frame ..).fm_eq (by decide)

theorem writePage_frames : (writePage fn core pm sp pg flips s).fm.frames = s.fm.frames := by
  rw [writePage_fm]
  rfl

theorem writePage_macAt_self : (writePage fn core pm sp pg flips s).macAt pm = pageWritten (s.macAt pm) s.tick.st sp pg flips := by
  rw [State.macAt, writePage_fm]
  exact macAt_setMac_self ..

theorem writePage_macAt_ne {k : Nat} (h : k ≠ pm) : (writePage fn core pm sp pg flips s).macAt k = s.macAt k := by
  rw [State.macAt, writePage_fm]
  exact macAt_setMac_ne (restartEvac pm s) _ h

end

/-- The frame of a page that has been loaded in place. -/
def Frame.loaded (f : Frame) (h : PageHdr) (sp : Bool) : Frame :=
  { f.withHdr h with state := .resident, sparse := sp, companion := none, dirty := false }

section
variable {fn lf m : Nat} {f : Frame} {pg : Page} {flips : List CellFlip} {s : State}

theorem loadInPlace_eq (hm : f.mac = some m) (hc : f.companion = none) : loadInPlace fn lf f pg flips s =
    loadImageArea fn f pg ((writePage fn f.core (s.physMac f.core m) (s.loadSparse fn lf f pg.hdr) pg flips s).setFrame fn lf
      (f.loaded pg.hdr (s.loadSparse fn lf f pg.hdr))) := by
  rw [loadInPlace, hm, hc]
  rfl

theorem loadImageArea_fm (s : State) : (loadImageArea fn f pg s).fm = s.fm := (loadImageArea_frame ..).fm_eq (by decide)

theorem imagePut_fm (fn lf : Nat) (f : Frame) (pg : Page) (x : Frame) (s : State) :
    ((loadImageArea fn f pg s).setFrame fn lf x).fm = { s.fm with frames := tput s.fm.frames (fkey fn lf) x } := by
  rw [State.setFrame, loadImageArea_fm]

variable (hm : f.mac = some m) (hc : f.companion = none)
include hm hc

theorem loadInPlace_frames : (loadInPlace fn lf f pg flips s).fm.frames =
    tput s.fm.frames (fkey fn lf) (f.loaded pg.hdr (s.loadSparse fn lf f pg.hdr)) := by
  rw [loadInPlace_eq hm hc, loadImageArea_fm, State.setFrame, writePage_frames]

theorem loadInPlace_macAt_self : (loadInPlace fn lf f pg flips s).macAt (s.physMac f.core m) =
    pageWritten (s.macAt (s.physMac f.core m)) s.tick.st (s.loadSparse fn lf f pg.hdr) pg flips := by
  rw [loadInPlace_eq hm hc, State.macAt, loadImageArea_fm]
  exact writePage_macAt_self ..

theorem loadInPlace_macAt_ne {pm : Nat} (h : pm ≠ s.physMac f.core m) : (loadInPlace fn lf f pg flips s).macAt pm = s.macAt pm := by
  rw [loadInPlace_eq hm hc, State.macAt, loadImageArea_fm]
  exact writePage_macAt_ne _ _ _ _ _ _ _ h

end

/-! ## The state after the image has been read -/

/-- Reading an image leaves what a LOAD looks at: frames, macros, executions, the maps, the time and the settings. -/
structure LoadKept (s t : State) : Prop where
  fm : t.fm = s.fm
  adm : t.adm = s.adm
  mnt : t.mnt = s.mnt
  tick : t.tick = s.tick
  sparseCfg : t.reg.sparseCfg = s.reg.sparseCfg

theorem readPage_loadKept (fn va : Nat) (s : State) : LoadKept s (readPage fn 0 va s).2 where
  fm := (readPage_frame ..).fm_eq (by decide)
  adm := (readPage_frame ..).adm_eq (by decide)
  mnt := (readPage_frame ..).mnt_eq (by decide)
  tick := (readPage_frame ..).tick_eq (by decide)
  sparseCfg := sparseCfg_of_settings (readPage_settings ..)

section
variable {s t : State} (h : LoadKept s t)
include h

theorem LoadKept.physMac (c m : Nat) : t.physMac c m = s.physMac c m := by
  simp only [State.physMac, State.physCore, State.physCluster, h.mnt]

theorem LoadKept.macAt (pm : Nat) : t.macAt pm = s.macAt pm := by simp only [State.macAt, h.fm]

theorem LoadKept.loadSparse (fn lf : Nat) (f : Frame) (hd : PageHdr) : t.loadSparse fn lf f hd = s.loadSparse fn lf f hd := by
  simp only [State.loadSparse, State.sparseEligible, h.adm, h.sparseCfg]

theorem LoadKept.loadsInPlace {fn lf m : Nat} {f : Frame} (hp : LoadsInPlace fn lf m f s) : LoadsInPlace fn lf m f t where
  frame := by rw [State.frame?, h.fm]; exact hp.frame
  mac := hp.mac
  held := hp.held
  paging := by rw [State.pagingOf, h.fm]; exact hp.paging
  shadow := hp.shadow
  companion := hp.companion
  running := by rw [State.namedRunning, h.adm]; exact hp.running
  queued := by rw [State.namedQueued, h.adm]; exact hp.queued
  swap := by rw [State.swapPending, h.adm]; exact hp.swap
  evac := by rw [State.evacPending, h.mnt]; exact hp.evac
  fence := by rw [h.physMac, State.fenced, h.mnt]; exact hp.fence

end

theorem exec_load_of_front {fn q e : Nat} {k : Ticket} {flips : List CellFlip} {s : State} (h : Front opLoad fn q e k s) :
    exec (.load fn q flips) s =
      .next (loadTry k fn (entF e 0x0C 4 % 2 ^ 21) (entF e 0x18 8) flips (popEntry fn q s)) :=
  congrArg Host.Outcome.next (onEntry_act _ _ _ _ _ _ _ h)

/-- Settles O29: the checks by `loadTry`'s lemmas; the page is written by `loadAct`, in the state that the reading of the image leaves. -/
theorem loadReplacesAPage : Obligations.LoadReplacesAPage := by
  intro s fn q e k flips h lf va u
  have hexec : exec (.load fn q flips) s = .next (loadTry k fn lf va flips u) := exec_load_of_front h
  obtain ⟨hst, hpop⟩ : ∃ hst, u = s.withHost hst := popEntry_eq_withHost fn q s
  clear_value u
  subst hpop
  rw [hexec]
  refine ⟨fun hbad => ?_, fun f ha hf hw => ?_, fun f v ha hf hw hread => ?_, fun f pg v ha hf hw hread hfree => ?_⟩
  · exact congrArg Host.Outcome.next (loadTry_of_invalid hbad)
  · exact congrArg Host.Outcome.next (loadTry_of_outside ha hf hw)
  · exact congrArg Host.Outcome.next (loadTry_of_unreadable ha hf hw hread)
  · have hkept : LoadKept (s.withHost hst) v := by
      have := readPage_loadKept fn va (s.withHost hst)
      rwa [hread] at this
    have hfv : v.frame? fn lf = some f := by
      rw [State.frame?, hkept.fm]
      exact hf
    refine ⟨fun he => ?_, ?_⟩
    · have hfm := (imagePut_fm fn lf f pg { f.withHdr pg.hdr with dirty := false } v).trans (by rw [hkept.fm])
      refine ⟨_, congrArg Host.Outcome.next (loadTry_of_page ha hf hw hread hfree (loadAct_of_evicted hfv he)), rfl, ?_,
        fun g hg => ?_, ?_⟩
      · exact frame_setFrame_self ..
      · exact (congrArg (fun x : Fm => tget x.frames g) hfm).trans (tget_tput_ne _ _ hg)
      · exact (congrArg Fm.macs hfm :)
    · intro m hm hheld hpaging hsh hcomp hrun hqueue hswap hevac hfence sp
      have hplace : LoadsInPlace fn lf m f v :=
        hkept.loadsInPlace ⟨hf, hm, hheld, hpaging, hsh, hcomp, hrun, hqueue, hswap, hevac, hfence⟩
      have hsp : v.loadSparse fn lf f pg.hdr = sp := hkept.loadSparse fn lf f pg.hdr
      have hpm : v.physMac f.core m = s.physMac f.core m := hkept.physMac f.core m
      refine ⟨_, congrArg Host.Outcome.next (loadTry_of_page ha hf hw hread hfree (loadAct_of_inPlace hplace)), rfl, ?_, ?_,
        fun g hg => ?_, fun pm hne => ?_⟩
      · change tget (loadInPlace fn lf f pg flips v).fm.frames (fkey fn lf) = _
        rw [loadInPlace_frames hm hcomp, tget_tput_self, hsp]
        rfl
      · change (loadInPlace fn lf f pg flips v).macAt (s.physMac f.core m) = _
        rw [← hpm, loadInPlace_macAt_self hm hcomp, hsp, hkept.macAt, hkept.tick, hpm]
        rfl
      · change tget (loadInPlace fn lf f pg flips v).fm.frames g = _
        rw [loadInPlace_frames hm hcomp, tget_tput_ne _ _ hg, hkept.fm]
        rfl
      · change (loadInPlace fn lf f pg flips v).macAt pm = _
        rw [loadInPlace_macAt_ne hm hcomp (hpm ▸ hne), hkept.macAt]
        rfl

end Sys2Proof.Machine
end

section
/-!
Bytes of blocks, ranges of tables, and page-table entries: what each reads as after it has been written (R274, R275, R282).
-/

namespace Sys2Proof.Machine

open Sys2Proof

/-! ## Bytes of a block (R13, R282) -/

theorem testBit_ofLE (bs : List Byte) (j : Nat) {i : Nat} (hi : i < 8) : (ofLE bs).testBit (8 * j + i) = (bs.getD j 0).getLsbD i := by
  induction bs generalizing j with
  | nil => simp [ofLE]
  | cons b r ih =>
    rw [ofLE, Nat.add_comm, show 256 = 2 ^ 8 from rfl, Nat.testBit_two_pow_mul_add _ b.isLt]
    cases j with
    | zero => simp [hi, BitVec.testBit_toNat]
    | succ j =>
      rw [if_neg (by omega), show 8 * (j + 1) + i - 8 = 8 * j + i by omega, ih]
      rfl

theorem byteOf_blockOfBytes {bs : List Byte} {j : Nat} (hj : j < 256) : byteOf (blockOfBytes bs) j = bs.getD j 0 := by
  refine BitVec.eq_of_getLsbD_eq fun i hi => ?_
  have htake : (bs.take 256).getD j 0 = bs.getD j 0 := by simp [List.getD, hj]
  have hbyte : (byteOf (blockOfBytes bs) j).getLsbD i = (ofLE (bs.take 256)).testBit (8 * j + i) := by
    have hlt : 8 * j + i < 2048 := by omega
    rw [byteOf, blockOfBytes, BitVec.truncate_eq_setWidth, BitVec.getLsbD_setWidth, BitVec.getLsbD_ushiftRight, BitVec.getLsbD_ofNat]
    simp [hi, hlt]
  rw [hbyte, testBit_ofLE _ _ hi, htake]

theorem getD_hostRead (m : Tab Byte) (a : Nat) {n j : Nat} (hj : j < n) : (hostRead m a n).getD j 0 = hostByte m (a + j) := by
  simp [hostRead, List.getD, hj]

/-! ## Ranges of a table -/

theorem tget_append {α : Type} (t u : Tab α) (k : Nat) : tget (t ++ u) k = (tget t k).or (tget u k) := by
  induction t with
  | nil => rfl
  | cons x r ih =>
    obtain ⟨j, v⟩ := x
    rw [List.cons_append, tget, tget]
    split
    · rfl
    · exact ih

theorem tget_map_range {α : Type} (lo n : Nat) (v : Nat → α) (k : Nat) :
    tget ((List.range n).map (fun i => (lo + i, v i))) k = if lo ≤ k ∧ k < lo + n then some (v (k - lo)) else none := by
  induction n with
  | zero => exact (if_neg (by omega)).symm
  | succ n ih =>
    rw [List.range_succ, List.map_append, tget_append, ih]
    by_cases hk : k = lo + n
    · subst hk
      simp [tget]
    · have hlast : tget ([n].map (fun i => (lo + i, v i))) k = none := if_neg (Ne.symm hk)
      rw [hlast, Option.or_none]
      exact if_congr (by omega) rfl rfl

theorem tget_tfill {α : Type} (t : Tab α) (lo : Nat) (v : Nat → α) {n i : Nat} (hi : i < n) :
    tget (tfill t lo n v) (lo + i) = some (v i) := by
  have hlow : tget (t.filter (fun e => e.1 < lo)) (lo + i) = none := by
    rw [tget_filter t (fun k => k < lo), if_neg (by simp)]
  rw [tfill, tget_append, tget_append, hlow, Option.none_or, tget_map_range, if_pos (by omega), Nat.add_sub_cancel_left,
    Option.some_or]

theorem tget_tclear {α : Type} (t : Tab α) (lo n k : Nat) : tget (tclear t lo n) k = if k < lo ∨ lo + n ≤ k then tget t k else none := by
  have h := tget_filter t (fun k => k < lo || lo + n ≤ k) k
  simp only [Bool.or_eq_true, decide_eq_true_eq] at h
  exact h

/-! ## Page-table entries (R274) -/

/-- The width of an entry: 64 bits in the directory, 128 in a leaf table. -/
def PteRef.width (r : PteRef) : Nat := if r.leaf then 128 else 64

section
variable (r : PteRef) (s : State)

theorem pte_lt : s.pte r < 2 ^ r.width := by
  unfold State.pte PteRef.width
  split
  · exact BitVec.isLt _
  · exact BitVec.isLt _

theorem pte_setPte_self (v : Nat) : (s.setPte r v).pte r = v % 2 ^ r.width := by
  unfold State.setPte State.pte PteRef.width
  split <;> simp_all

theorem pte_setPte_ne {r q : PteRef} (v : Nat) (h : q ≠ r) : (s.setPte r v).pte q = s.pte q := by
  obtain ⟨rl, rk⟩ := r
  obtain ⟨ql, qk⟩ := q
  cases rl <;> cases ql <;> simp [State.setPte, State.pte] at h ⊢
  · rw [tgetD_tputD_ne _ _ _ h]
  · rw [tgetD_tputD_ne _ _ _ h]

/-- A mark that is set in an entry stays within it. -/
theorem pte_setPte_or {n : Nat} (hn : n < 2 ^ 64) : (s.setPte r (s.pte r ||| n)).pte r = s.pte r ||| n := by
  rw [pte_setPte_self]
  refine Nat.mod_eq_of_lt (Nat.or_lt_two_pow (pte_lt r s) (hn.trans_le ?_))
  unfold PteRef.width
  split <;> exact Nat.pow_le_pow_right (by omega) (by omega)

theorem setPte_hbm (v : Nat) : (s.setPte r v).mem.hbm = s.mem.hbm := by
  unfold State.setPte
  split <;> rfl

theorem setPte_fills (v : Nat) : (s.setPte r v).mem.fills = s.mem.fills := by
  unfold State.setPte
  split <;> rfl

end

end Sys2Proof.Machine
end

section
/-!
Host-backed pages (R278): what a fill writes, that it does not change where an address leads, and HOST_FILL and HOST_FILL_COMPLETE.
-/

namespace Sys2Proof.Machine

open Sys2Proof

/-! ## Where an address leads (R270, R275) -/

/-- An address within its window. -/
def State.winOff (s : State) (f w dva : Nat) : Nat := dva - winBase2M (s.winCfg f w) * 2 ^ 21

/-- The directory entry and the leaf entry of an offset of a window. -/
def dirRef (f w o : Nat) : PteRef := { leaf := false, key := dirKey f w (o / 2 ^ 21) }
def leafRef (f w o : Nat) : PteRef := { leaf := true, key := leafKey (dirKey f w (o / 2 ^ 21)) (o % 2 ^ 21 / 2 ^ 16) }

section
variable (s : State) (f w dva : Nat)

theorem walk_eq : s.walk f w dva =
    let o := s.winOff f w dva
    let d := s.pte (dirRef f w o)
    let p := s.pte (leafRef f w o)
    if !pteV d then .bad
    else if !pteTbl d then .hbm (dirRef f w o) d (ptePfn d * 2 ^ 16 + o % 2 ^ 21) w (!winRo (s.winCfg f w) && pteW d)
    else if !pteV p then .bad
    else if pteHost p && !pteHcache p then .host (pteHostBa p + o % 2 ^ 16) w (!winRo (s.winCfg f w) && pteW d && pteW p)
    else .hbm (leafRef f w o) p (ptePfn p * 2 ^ 16 + o % 2 ^ 16) w (!winRo (s.winCfg f w) && pteW d && pteW p) := rfl

theorem walk_writable : (s.walk f w dva).writable =
    let d := s.pte (dirRef f w (s.winOff f w dva))
    let p := s.pte (leafRef f w (s.winOff f w dva))
    (pteV d && !winRo (s.winCfg f w) && pteW d && (!pteTbl d || pteV p && pteW p)) := by
  rw [walk_eq]
  dsimp only
  split_ifs <;> simp_all [Loc.writable]

end

theorem bitOf_or_present (e : Nat) {i : Nat} (h : i ≠ 6) : bitOf (e ||| 0x40) i = bitOf e i := by
  have hbit : (0x40 : Nat).testBit i = false := by
    rw [show 0x40 = 2 ^ 6 from rfl, Nat.testBit_two_pow, decide_eq_false (Ne.symm h)]
  rw [bitOf, bitOf, Nat.testBit_or, hbit, Bool.or_false]

/-- Two states read the same registers and objects, and their entries differ at most in PRESENT. -/
structure MapsAlike (s t : State) : Prop where
  reg : t.reg = s.reg
  od : t.od = s.od
  life : t.life = s.life
  pte : ∀ r i, i ≠ 6 → bitOf (t.pte r) i = bitOf (s.pte r) i

section
variable {s t : State} (h : MapsAlike s t)
include h

theorem MapsAlike.winCfg (f w : Nat) : t.winCfg f w = s.winCfg f w := by rw [State.winCfg, State.winCfg, h.reg]

theorem MapsAlike.winLive (f w : Nat) : t.winLive f w = s.winLive f w := by rw [State.winLive, State.winLive, h.winCfg, h.reg]

/-- PRESENT decides neither where an address leads nor whether it may be written. -/
theorem MapsAlike.walk (f w dva : Nat) : (t.walk f w dva).writable = (s.walk f w dva).writable := by
  have hoff : t.winOff f w dva = s.winOff f w dva := by rw [State.winOff, State.winOff, h.winCfg]
  have hd := h.pte (dirRef f w (s.winOff f w dva))
  have hl := h.pte (leafRef f w (s.winOff f w dva))
  rw [walk_writable, walk_writable, hoff, h.winCfg]
  simp only [pteV, pteTbl, pteW, hd 0 (by decide), hd 1 (by decide), hd 2 (by decide), hl 0 (by decide),
    hl 2 (by decide)]

theorem MapsAlike.exchLoc (f p off : Nat) : (t.exchLoc f p off).writable = (s.exchLoc f p off).writable := by
  have hwin : t.exchWin f p = s.exchWin f p := by simp only [State.exchWin, h.winLive, h.winCfg]
  unfold State.exchLoc
  rw [hwin]
  split
  · rfl
  next w _ =>
    rw [h.winCfg]
    split_ifs
    · exact h.walk ..
    · rfl

theorem MapsAlike.moduleNo : t.moduleNo = s.moduleNo := by
  rw [State.moduleNo, State.moduleNo, h.life, odNat_congr h.od]

theorem MapsAlike.partMembers (p : Nat) : t.partMembers p = s.partMembers p := by
  rw [State.partMembers, State.partMembers, h.od, h.moduleNo]

theorem MapsAlike.locate (f p dva : Nat) : (t.locate f p dva).writable = (s.locate f p dva).writable := by
  have hpart : t.partOfCluster = s.partOfCluster := by unfold State.partOfCluster State.partHas; rw [h.reg]
  have hcore : t.fnHasCore = s.fnHasCore := by unfold State.fnHasCore State.fnParts State.partHas State.fnPartEff; rw [h.reg]
  have hparts : t.fnParts = s.fnParts := by unfold State.fnParts State.fnPartEff; rw [h.reg]
  have hcfg : t.fmCfg = s.fmCfg := by unfold State.fmCfg; rw [h.reg]
  have hlow : t.lowerSum = s.lowerSum := by unfold State.lowerSum State.partFns; rw [h.reg]
  have hwin : t.winOf = s.winOf := by
    funext f dva
    simp only [State.winOf, h.winLive, h.winCfg]
  unfold State.locate State.asBase State.cmBase
  simp only [hpart, hcore, hparts, hcfg, hlow, hwin, h.moduleNo, h.partMembers]
  generalize dva / 2 ^ 44 = n
  split
  · rfl
  · rfl
  · split_ifs
    · exact h.exchLoc ..
    · rfl
    · rfl
  · split_ifs
    · rfl
    · exact h.exchLoc ..
    · rfl
    · rfl
  · split_ifs
    · split
      · rfl
      · exact h.walk ..
    · rfl

end

/-! ## The fill of a page -/

/-- Block `i` of a page's copy as host memory gives it. -/
def hostBlk (r : PteRef) (s : State) (i : Nat) : Block :=
  Block.ofData (blockOfBytes (hostRead s.host.mem (pteHostBa (s.pte r) + 256 * i) 256))

/-- The data of a page's copy is that of host memory. -/
def pageCopied (r : PteRef) (s : State) : State :=
  { s with mem := { s.mem with hbm := tfill s.mem.hbm (ptePfn (s.pte r) * 256) 256 (hostBlk r s) } }

/-- The page is copied and PRESENT, and counted. -/
def pageFilled (f : Nat) (r : PteRef) (s : State) : State :=
  addMmuStat f 31 16 1 ((pageCopied r s).setPte r (s.pte r ||| 0x40))

section
variable {f dva : Nat} {r : PteRef} {s : State}

theorem hostPoisoned_of_clean (h : ∀ i < 256, ¬ s.host.memPoison.contains ((pteHostBa (s.pte r) + 256 * i) / 256)) {i : Nat} (hi : i < 128) :
    s.hostPoisoned (pteHostBa (s.pte r) + 512 * i) = false := by
  have h0 := h (2 * i) (by omega)
  have h1 := h (2 * i + 1) (by omega)
  rw [show pteHostBa (s.pte r) + 256 * (2 * i) = pteHostBa (s.pte r) + 512 * i by omega] at h0
  rw [show (pteHostBa (s.pte r) + 256 * (2 * i + 1)) / 256 = (pteHostBa (s.pte r) + 512 * i) / 256 + 1 by omega] at h1
  rw [State.hostPoisoned, Bool.eq_false_iff.2 h0, Bool.eq_false_iff.2 h1, Bool.or_false]

theorem fillPage_of_clean (h : ∀ i < 256, ¬ s.host.memPoison.contains ((pteHostBa (s.pte r) + 256 * i) / 256)) :
    fillPage f dva r [] s = pageFilled f r s := by
  have hbad : (List.range 128).filter (fun i => ([] : List Nat).contains i || s.hostPoisoned (pteHostBa (s.pte r) + 512 * i)) = [] := by
    refine List.filter_eq_nil_iff.2 fun i hi => ?_
    simp [hostPoisoned_of_clean h (List.mem_range.1 hi)]
  unfold fillPage
  simp only [hbad, if_true]
  rfl

theorem pageFilled_kept : Kept [.reg, .mem] s (pageFilled f r s) := by
  refine .reg (by decide) (.step (by decide) (.mem (by decide) (fun w => ?_) (.refl _ s)) (State.setPte_frame ..))
  exact ⟨twf_tfill w.1, w.2⟩

theorem pageFilled_pte_self : (pageFilled f r s).pte r = s.pte r ||| 0x40 := pte_setPte_or r (pageCopied r s) (by decide)

/-- A fill sets PRESENT of one entry and changes nothing that the translation of an address looks at. -/
theorem pageFilled_locate (g p a : Nat) : ((pageFilled f r s).locate g p a).writable = (s.locate g p a).writable := by
  have hkept : Kept [.mem] (pageCopied r s) ((pageCopied r s).setPte r (s.pte r ||| 0x40)) := State.setPte_frame ..
  have halike : MapsAlike s ((pageCopied r s).setPte r (s.pte r ||| 0x40)) :=
    { reg := hkept.reg_eq (by decide), od := hkept.od_eq (by decide), life := hkept.off.same .life (by decide),
      pte := fun q i hi => by
        by_cases hq : q = r
        · subst hq
          exact (congrArg (bitOf · i) (pageFilled_pte_self (f := f))).trans (bitOf_or_present _ hi)
        · exact congrArg (bitOf · i) (pte_setPte_ne (pageCopied r s) _ hq) }
  exact halike.locate g p a

theorem pageFilled_hbm : (pageFilled f r s).mem.hbm = (pageCopied r s).mem.hbm := setPte_hbm ..

theorem pageFilled_fills : (pageFilled f r s).mem.fills = s.mem.fills := setPte_fills ..

theorem hbmBlk_of_copied {t : State} (h : t.mem.hbm = (pageCopied r s).mem.hbm) {i : Nat} (hi : i < 256) :
    t.hbmBlk (ptePfn (s.pte r) * 256 + i) = hostBlk r s i := by
  rw [State.hbmBlk, h, pageCopied, tget_tfill _ _ _ hi]

theorem byteOf_copied {t : State} (h : t.mem.hbm = (pageCopied r s).mem.hbm) {i j : Nat} (hi : i < 256) (hj : j < 256) :
    byteOf (t.hbmBlk (ptePfn (s.pte r) * 256 + i)).data j = hostByte s.host.mem (pteHostBa (s.pte r) + 256 * i + j) := by
  rw [hbmBlk_of_copied h hi, hostBlk, Block.ofData, byteOf_blockOfBytes hj, getD_hostRead _ _ hj]

end

/-! ## HOST_FILL and HOST_FILL_COMPLETE -/

section
variable {f dva : Nat} {r : PteRef} {x : Fill} {s : State}

theorem exec_hostFill_of_first (wr : Bool) (hr : s.absentPage f dva = some r)
    (hnone : ∀ x ∈ s.mem.fills, x.fn = f → pageOf x.dva ≠ pageOf dva) : exec (.hostFill f dva wr) s =
      .next { s with mem := { s.mem with fills := s.mem.fills ++ [{ fn := f, dva := dva, wrote := wr }] } } := by
  have hfind : s.mem.fills.find? (fun x => x.fn = f ∧ pageOf x.dva = pageOf dva) = none :=
    List.find?_eq_none.2 fun x hx => by simpa using hnone x hx
  change Host.Outcome.next (hostFillEffect f dva wr s) = _
  rw [hostFillEffect, hr, hfind]

/-- The fills of the page are no longer asked for. -/
def fillTaken (f dva : Nat) (s : State) : State :=
  { s with mem := { s.mem with fills := s.mem.fills.filter (fun y => !(y.fn = f ∧ pageOf y.dva = pageOf dva)) } }

/-- The page is filled, and DIRTY where a device write that may write waited. -/
def fillDone (f dva : Nat) (wrote : Bool) (r : PteRef) (s : State) : State :=
  let u := pageFilled f r (fillTaken f dva s)
  if wrote && (u.locate f 0 dva).writable then u.setPte r (u.pte r ||| 0x80) else u

theorem exec_hostFillComplete (hr : s.absentPage f dva = some r)
    (hx : (s.inFlight f).find? (fun x => pageOf x.dva = pageOf dva) = some x)
    (hclean : ∀ i < 256, ¬ s.host.memPoison.contains ((pteHostBa (s.pte r) + 256 * i) / 256)) :
    exec (.hostFillComplete f dva []) s = .next (fillDone f dva x.wrote r s) := by
  have hr' : (fillTaken f dva s).absentPage f dva = some r := hr
  have hfill : fillPage f x.dva r [] (fillTaken f dva s) = pageFilled f r (fillTaken f dva s) := fillPage_of_clean hclean
  change Host.Outcome.next (hostFillCompleteEffect f dva [] s) = _
  simp only [hostFillCompleteEffect, hx]
  rw [← fillTaken, hr', fillDone, ← hfill]

theorem exec_hostFillComplete_of_none (h : (s.inFlight f).find? (fun x => pageOf x.dva = pageOf dva) = none) :
    exec (.hostFillComplete f dva []) s = .next s := by
  change Host.Outcome.next (hostFillCompleteEffect f dva [] s) = _
  rw [hostFillCompleteEffect, h]

theorem fillTaken_kept : Kept [.mem] s (fillTaken f dva s) := .mem (by decide) (fun w => w) (.refl _ s)

theorem fillDone_kept (wrote : Bool) : Kept [.reg, .mem] s (fillDone f dva wrote r s) := by
  have hfilled : Kept [.reg, .mem] s (pageFilled f r (fillTaken f dva s)) :=
    .step (by decide) (.step (by decide) (.refl _ s) fillTaken_kept) pageFilled_kept
  exact kept_ite (.step (by decide) hfilled (State.setPte_frame ..)) hfilled

theorem fillDone_pte (wrote : Bool) : (fillDone f dva wrote r s).pte r =
    (if wrote && (s.locate f 0 dva).writable then s.pte r ||| 0x40 ||| 0x80 else s.pte r ||| 0x40) := by
  have hpte : (pageFilled f r (fillTaken f dva s)).pte r = s.pte r ||| 0x40 := pageFilled_pte_self
  have hloc : ((pageFilled f r (fillTaken f dva s)).locate f 0 dva).writable = (s.locate f 0 dva).writable := pageFilled_locate ..
  rw [fillDone, hloc]
  split
  · rw [pte_setPte_or _ _ (by decide), hpte]
  · exact hpte

theorem fillDone_hbm (wrote : Bool) : (fillDone f dva wrote r s).mem.hbm = (pageCopied r s).mem.hbm := by
  have hfilled : (pageFilled f r (fillTaken f dva s)).mem.hbm = (pageCopied r s).mem.hbm := pageFilled_hbm
  unfold fillDone
  dsimp only
  split
  · rw [setPte_hbm, hfilled]
  · exact hfilled

theorem fillDone_fills (wrote : Bool) : (fillDone f dva wrote r s).mem.fills = (fillTaken f dva s).mem.fills := by
  unfold fillDone
  dsimp only
  split
  · rw [setPte_fills, pageFilled_fills]
  · exact pageFilled_fills

end

theorem bitOf_present : bitOf 0x40 6 = true := by decide

theorem bitOf_dirty : bitOf 0x80 7 = true := by decide

theorem bitOf_or (a b i : Nat) : bitOf (a ||| b) i = (bitOf a i || bitOf b i) := Nat.testBit_or ..

/-- Settles O35: a first fill is appended; a fill in flight that is complete leaves `fillDone`, whose entry, copy and fills are
read off. -/
theorem hostPagesAreFilled : Obligations.HostPagesAreFilled := by
  refine fun s f dva => ⟨fun r wr => exec_hostFill_of_first wr, fun r x hr hx hclean => ?_, exec_hostFillComplete_of_none⟩
  refine ⟨_, exec_hostFillComplete hr hx hclean, (fillDone_kept x.wrote).off, ?_, ?_, fun y hy => ?_, fun i hi j hj => ⟨?_, ?_⟩⟩
  · rw [fillDone_pte]
    split <;> simp only [ptePresent, bitOf_or, bitOf_present, Bool.or_true, Bool.true_or]
  · rw [fillDone_pte, ← Bool.and_eq_true]
    split
    next hw => simp only [pteDirty, bitOf_or, bitOf_dirty, hw, Bool.or_true, or_true]
    next hw => simp only [pteDirty, bitOf_or_present _ (show 7 ≠ 6 by decide), hw, Bool.false_eq_true, or_false]
  · rw [fillDone_fills] at hy
    simpa [-not_and, not_and_or] using List.mem_filter.1 hy
  · exact byteOf_copied (fillDone_hbm x.wrote) hi hj
  · rw [hbmBlk_of_copied (fillDone_hbm x.wrote) hi]
    rfl

end Sys2Proof.Machine
end

section
/-!
MAP (R276): the entries that a MAP writes, and where each page of the mapped range leads.
-/

namespace Sys2Proof.Machine

open Sys2Proof

/-! ## The entries of a page of a window (R274) -/

/-- The directory entry and the leaf entry of a 64 KiB page of a window. -/
def pageDir (f w p : Nat) : PteRef := { leaf := false, key := dirKey f w (p / 32) }
def pageLeaf (f w p : Nat) : PteRef := { leaf := true, key := leafKey (dirKey f w (p / 32)) (p % 32) }

section
variable {f w p q : Nat}

theorem pageDir_ne_pageLeaf : pageDir f w p ≠ pageLeaf f w q := fun h => Bool.noConfusion (congrArg PteRef.leaf h)

theorem pageLeaf_ne (h : p ≠ q) : pageLeaf f w p ≠ pageLeaf f w q := fun hk => by
  have hkey := congrArg PteRef.key hk
  simp only [pageLeaf, leafKey, dirKey] at hkey
  omega

theorem pageDir_ne (h : p / 32 ≠ q / 32) : pageDir f w p ≠ pageDir f w q := fun hk => by
  have hkey := congrArg PteRef.key hk
  simp only [pageDir, dirKey] at hkey
  omega

theorem pageDir_congr (h : p / 32 = q / 32) : pageDir f w p = pageDir f w q := by rw [pageDir, pageDir, h]

variable {x : Nat} (hx : x < 65536)
include hx

theorem dirRef_page : dirRef f w (65536 * p + x) = pageDir f w p := by
  rw [dirRef, pageDir, show (65536 * p + x) / 2 ^ 21 = p / 32 by omega]

theorem leafRef_page : leafRef f w (65536 * p + x) = pageLeaf f w p := by
  rw [leafRef, pageLeaf, show (65536 * p + x) / 2 ^ 21 = p / 32 by omega, show (65536 * p + x) % 2 ^ 21 / 2 ^ 16 = p % 32 by omega]

end

/-! ## What a MAP writes -/

/-- The entry that MAP writes into a leaf table. -/
def leafImage (e ba : Nat) : Nat := e + (if pteHost e then ba * 2 ^ 64 else 0)

/-- The page can be mapped in a leaf table: its 2 MiB is not mapped as one page. -/
def LeafTableFits (f w p : Nat) (s : State) : Prop := pteV (s.pte (pageDir f w p)) → pteTbl (s.pte (pageDir f w p))

/-- The page is mapped in a leaf table, with a directory entry that permits writes where the leaf entry does. -/
structure LeafMapped (f w p v : Nat) (s : State) : Prop where
  valid : pteV (s.pte (pageDir f w p))
  table : pteTbl (s.pte (pageDir f w p))
  entry : s.pte (pageLeaf f w p) = v

/-- A leaf table with every entry invalid. -/
def newLeafTable (f w p : Nat) (s : State) : State :=
  { s with mem := { s.mem with dir := tput s.mem.dir (dirKey f w (p / 32)) (BitVec.ofNat 64 7),
                               leaf := tclear s.mem.leaf (leafKey (dirKey f w (p / 32)) 0) 32 } }

/-- The state with a leaf table for the page. -/
def withLeafTable (f w p : Nat) (s : State) : State := if pteV (s.pte (pageDir f w p)) then s else newLeafTable f w p s

section
variable {f w p q v : Nat} {s : State}

theorem mapLeaf_eq (e ba : Nat) : mapLeaf f w p e ba s = (withLeafTable f w p s).setPte (pageLeaf f w p) (leafImage e ba) := rfl

theorem newLeafTable_pte_dir_self (h : q / 32 = p / 32) : (newLeafTable f w p s).pte (pageDir f w q) = 7 := by
  rw [pageDir_congr h]
  exact congrArg BitVec.toNat (tgetD_tput_self s.mem.dir (dirKey f w (p / 32)) (BitVec.ofNat 64 7) 0)

theorem newLeafTable_pte_dir_ne (h : q / 32 ≠ p / 32) : (newLeafTable f w p s).pte (pageDir f w q) = s.pte (pageDir f w q) :=
  congrArg BitVec.toNat (tgetD_tput_ne s.mem.dir _ 0 fun hk => h (Nat.add_left_cancel hk))

theorem newLeafTable_pte_leaf_ne (h : q / 32 ≠ p / 32) : (newLeafTable f w p s).pte (pageLeaf f w q) = s.pte (pageLeaf f w q) := by
  refine congrArg (fun o : Option (BitVec 128) => (o.getD 0).toNat) ((tget_tclear ..).trans (if_pos ?_))
  simp only [pageLeaf, leafKey, dirKey]
  omega

theorem withLeafTable_fits (h : LeafTableFits f w p s) :
    pteV ((withLeafTable f w p s).pte (pageDir f w p)) ∧ pteTbl ((withLeafTable f w p s).pte (pageDir f w p)) := by
  unfold withLeafTable
  split
  next hv => exact ⟨hv, h hv⟩
  next => exact newLeafTable_pte_dir_self (s := s) rfl ▸ ⟨by decide, by decide⟩

theorem LeafMapped.withLeafTable (h : LeafMapped f w q v s) : LeafMapped f w q v (withLeafTable f w p s) := by
  unfold Machine.withLeafTable
  split
  · exact h
  next hv =>
    have hne : q / 32 ≠ p / 32 := fun hk => hv (pageDir_congr hk ▸ h.valid)
    exact { valid := newLeafTable_pte_dir_ne (s := s) hne ▸ h.valid, table := newLeafTable_pte_dir_ne (s := s) hne ▸ h.table,
            entry := (newLeafTable_pte_leaf_ne hne).trans h.entry }

theorem LeafTableFits.withLeafTable (h : LeafTableFits f w q s) : LeafTableFits f w q (withLeafTable f w p s) := by
  unfold Machine.withLeafTable
  split
  · exact h
  · intro hv
    by_cases hk : q / 32 = p / 32
    · rw [newLeafTable_pte_dir_self hk]
      decide
    · rw [newLeafTable_pte_dir_ne hk] at hv ⊢
      exact h hv

theorem setPte_pageLeaf_dir (x : Nat) : (s.setPte (pageLeaf f w p) x).pte (pageDir f w q) = s.pte (pageDir f w q) :=
  pte_setPte_ne s x pageDir_ne_pageLeaf

variable (e ba : Nat)

theorem LeafTableFits.mapLeaf (h : LeafTableFits f w q s) : LeafTableFits f w q (mapLeaf f w p e ba s) := by
  rw [mapLeaf_eq, LeafTableFits, setPte_pageLeaf_dir]
  exact h.withLeafTable

theorem LeafMapped.mapLeaf (h : LeafMapped f w q v s) (hne : q ≠ p) : LeafMapped f w q v (mapLeaf f w p e ba s) := by
  obtain ⟨hvalid, htable, hentry⟩ := h.withLeafTable (p := p)
  rw [mapLeaf_eq]
  exact { valid := by rwa [setPte_pageLeaf_dir], table := by rwa [setPte_pageLeaf_dir],
          entry := (pte_setPte_ne _ _ (pageLeaf_ne hne)).trans hentry }

theorem leafMapped_mapLeaf (h : LeafTableFits f w p s) : LeafMapped f w p (leafImage e ba % 2 ^ 128) (mapLeaf f w p e ba s) := by
  obtain ⟨hvalid, htable⟩ := withLeafTable_fits h
  rw [mapLeaf_eq]
  exact { valid := by rwa [setPte_pageLeaf_dir], table := by rwa [setPte_pageLeaf_dir], entry := pte_setPte_self .. }

end

/-! ## A range of pages -/

section
variable {f w psize q v : Nat} {s : State}

theorem mapPages_small (hps : psize ≠ 1) (e ba n page : Nat) : mapPages f w psize e ba (n + 1) page s =
    mapPages f w psize (e + 2 ^ 16) (ba + 2 ^ 16) n (page + 1) (mapLeaf f w page e ba s) := if_neg hps

theorem mapPages_large (e ba n page : Nat) : mapPages f w 1 e ba (n + 1) page s =
    mapPages f w 1 (e + 2 ^ 21) ba n (page + 32) (s.setPte (pageDir f w page) e) := rfl

theorem LeafMapped.mapPages (hps : psize ≠ 1) {n e ba page : Nat} (h : LeafMapped f w q v s) (hq : q < page) :
    LeafMapped f w q v (mapPages f w psize e ba n page s) := by
  induction n generalizing e ba page s with
  | zero => exact h
  | succ n ih =>
    rw [mapPages_small hps]
    exact ih (h.mapLeaf e ba (by omega)) (by omega)

/-- Page `j` of a range of 64 KiB pages. -/
theorem mapPages_leafMapped (hps : psize ≠ 1) {n e ba page j : Nat} (hfit : ∀ p, page ≤ p → p < page + n → LeafTableFits f w p s)
    (hj : j < n) : LeafMapped f w (page + j) (leafImage (e + 65536 * j) (ba + 65536 * j) % 2 ^ 128)
      (mapPages f w psize e ba n page s) := by
  induction n generalizing e ba page s j with
  | zero => omega
  | succ n ih =>
    rw [mapPages_small hps]
    cases j with
    | zero => exact (leafMapped_mapLeaf e ba (hfit page (by omega) (by omega))).mapPages hps (by omega)
    | succ j =>
      have hrest := ih (e := e + 2 ^ 16) (ba := ba + 2 ^ 16) (page := page + 1)
        (fun p hlo hhi => (hfit p (by omega) (by omega)).mapLeaf (p := page) e ba) (show j < n by omega)
      rwa [show page + 1 + j = page + (j + 1) by omega, show e + 2 ^ 16 + 65536 * j = e + 65536 * (j + 1) by omega,
        show ba + 2 ^ 16 + 65536 * j = ba + 65536 * (j + 1) by omega] at hrest

theorem mapPages_pte_dir_ne {n e ba page : Nat} (hq : q / 32 < page / 32) :
    (mapPages f w 1 e ba n page s).pte (pageDir f w q) = s.pte (pageDir f w q) := by
  induction n generalizing e page s with
  | zero => rfl
  | succ n ih =>
    rw [mapPages_large, ih (by omega), pte_setPte_ne _ _ (pageDir_ne (by omega))]

/-- The directory entry of page `i` of a range of 2 MiB pages. -/
theorem mapPages_pte_dir {n e ba page i : Nat} (hi : i < n) :
    (mapPages f w 1 e ba n page s).pte (pageDir f w (page + 32 * i)) = (e + 2 ^ 21 * i) % 2 ^ 64 := by
  induction n generalizing e page s i with
  | zero => omega
  | succ n ih =>
    rw [mapPages_large]
    cases i with
    | zero => exact (mapPages_pte_dir_ne (by omega)).trans (pte_setPte_self ..)
    | succ i =>
      have hrest := ih (e := e + 2 ^ 21) (page := page + 32) (s := s.setPte (pageDir f w page) e) (show i < n by omega)
      rwa [show page + 32 + 32 * i = page + 32 * (i + 1) by omega, show e + 2 ^ 21 + 2 ^ 21 * i = e + 2 ^ 21 * (i + 1) by omega]
        at hrest

end

/-! ## Where a mapped page leads (R275) -/

section
variable {f w p x dva : Nat} {s : State} (hx : x < 65536) (hoff : s.winOff f w dva = 65536 * p + x)
include hx hoff

theorem walk_of_leafMapped {v : Nat} (h : LeafMapped f w p v s) (hv : pteV v) :
    ∃ wr, s.walk f w dva = (if pteHost v ∧ pteHcache v = false then .host (pteHostBa v + x) w wr
      else .hbm (pageLeaf f w p) v (65536 * ptePfn v + x) w wr) ∧ (wr → pteW v ∧ winRo (s.winCfg f w) = false) := by
  refine ⟨!winRo (s.winCfg f w) && pteW (s.pte (pageDir f w p)) && pteW v, ?_, fun hwr => ?_⟩
  · rw [walk_eq, hoff]
    simp only [dirRef_page hx, leafRef_page hx, h.valid, h.table, h.entry, hv, Bool.not_true, Bool.false_eq_true, if_false,
      Bool.and_eq_true, Bool.not_eq_true', show (65536 * p + x) % 2 ^ 16 = x by omega, show ptePfn v * 2 ^ 16 = 65536 * ptePfn v by omega]
  · simp only [Bool.and_eq_true, Bool.not_eq_true'] at hwr
    exact ⟨hwr.2, hwr.1.1⟩

theorem walk_of_dirMapped {d : Nat} (h : s.pte (pageDir f w p) = d) (hv : pteV d) (ht : pteTbl d = false) :
    ∃ wr, s.walk f w dva = .hbm (pageDir f w p) d (65536 * (ptePfn d + p % 32) + x) w wr ∧
      (wr → pteW d ∧ winRo (s.winCfg f w) = false) := by
  refine ⟨!winRo (s.winCfg f w) && pteW d, ?_, fun hwr => ?_⟩
  · rw [walk_eq, hoff]
    simp only [dirRef_page hx, h, hv, ht, Bool.not_true, Bool.not_false, Bool.false_eq_true, if_false, if_true,
      show ptePfn d * 2 ^ 16 + (65536 * p + x) % 2 ^ 21 = 65536 * (ptePfn d + p % 32) + x by omega]
  · simp only [Bool.and_eq_true, Bool.not_eq_true'] at hwr
    exact ⟨hwr.2, hwr.1⟩

end

/-! ## The entry of an image -/

/-- The entry that an image asks for: PRESENT and DIRTY are 0. -/
def mapEntry (img : Nat) : Nat := setBits (setBits img 6 6 0) 7 7 0

section
variable {img v m : Nat}

/-- Two entries with the same low 16 bits have the same marks. -/
theorem bitOf_of_mod {a b i : Nat} (h : a % 65536 = b % 65536) (hi : i < 16) : bitOf a i = bitOf b i := by
  have hbit (n : Nat) : (n % 2 ^ 16).testBit i = n.testBit i := by rw [Nat.testBit_mod_two_pow, decide_eq_true hi, Bool.true_and]
  rw [bitOf, bitOf, ← hbit a, ← hbit b]
  exact congrArg (Nat.testBit · i) h

theorem bitOf_mapEntry (img : Nat) {i : Nat} (h : i < 6) : bitOf (mapEntry img) i = bitOf img i := by
  rw [mapEntry, bitOf_setBits _ _ _ _ _ (by omega), bitOf_setBits _ _ _ _ _ (by omega), if_neg (by omega), if_neg (by omega)]

theorem ptePresent_mapEntry (img : Nat) : ptePresent (mapEntry img) = false := by
  rw [ptePresent, mapEntry, bitOf_setBits _ _ _ _ _ (by omega), bitOf_setBits _ _ _ _ _ (by omega), if_neg (by omega),
    if_pos (by omega), bitOf, Nat.zero_testBit]

theorem pteDirty_mapEntry (img : Nat) : pteDirty (mapEntry img) = false := by
  rw [pteDirty, mapEntry, bitOf_setBits _ _ _ _ _ (by omega), if_pos (by omega), bitOf, Nat.zero_testBit]

theorem ptePfn_mapEntry (img : Nat) : ptePfn (mapEntry img) = ptePfn img := by
  rw [ptePfn, mapEntry, bitsOf_setBits_ne _ _ _ _ _ _ (by omega) (by omega), bitsOf_setBits_ne _ _ _ _ _ _ (by omega) (by omega)]
  rfl

theorem ptePfn_eq (v : Nat) : ptePfn v = v / 65536 % 2 ^ 23 := by
  rw [ptePfn, bitsOf, Nat.shiftRight_eq_div_pow]

theorem mapEntry_lt (himg : img < 2 ^ 64) (h : bitsOf img 63 39 = 0) : mapEntry img < 2 ^ 39 := by
  have hlow : img < 2 ^ 39 := by
    rw [bitsOf, Nat.shiftRight_eq_div_pow] at h
    omega
  exact setBits_lt _ _ _ _ _ (by omega) (by omega) (setBits_lt _ _ _ _ _ (by omega) (by omega) hlow)

/-- An entry of the range has the marks of the image. -/
structure MarksOf (img v : Nat) : Prop where
  valid : pteV v = pteV img
  table : pteTbl v = pteTbl img
  write : pteW v = pteW img
  host : pteHost v = pteHost img
  hcache : pteHcache v = pteHcache img
  present : ptePresent v = false
  dirty : pteDirty v = false

theorem marksOf_of_mod (h : v % 65536 = mapEntry img % 65536) : MarksOf img v where
  valid := (bitOf_of_mod h (by omega)).trans (bitOf_mapEntry img (by omega))
  table := (bitOf_of_mod h (by omega)).trans (bitOf_mapEntry img (by omega))
  write := (bitOf_of_mod h (by omega)).trans (bitOf_mapEntry img (by omega))
  host := (bitOf_of_mod h (by omega)).trans (bitOf_mapEntry img (by omega))
  hcache := (bitOf_of_mod h (by omega)).trans (bitOf_mapEntry img (by omega))
  present := (bitOf_of_mod h (by omega)).trans (ptePresent_mapEntry img)
  dirty := (bitOf_of_mod h (by omega)).trans (pteDirty_mapEntry img)

theorem ptePfn_of_div (h : v / 65536 % 2 ^ 23 = (mapEntry img / 65536 + m) % 2 ^ 23) (hm : ptePfn img + m < 2 ^ 23) :
    ptePfn v = ptePfn img + m := by
  have himg := ptePfn_mapEntry img
  rw [ptePfn_eq] at himg ⊢
  omega

end

/-- The leaf entry of page `j` of a range. -/
def leafEntry (img ba j : Nat) : Nat := leafImage (mapEntry img + 65536 * j) (ba + 65536 * j) % 2 ^ 128

section
variable {img ba j : Nat}

theorem leafEntry_split (img ba j : Nat) : ∃ c, leafEntry img ba j = (mapEntry img + 65536 * j + 2 ^ 64 * c) % 2 ^ 128 := by
  rw [leafEntry, leafImage]
  split
  · exact ⟨ba + 65536 * j, by rw [Nat.mul_comm (2 ^ 64)]⟩
  · exact ⟨0, rfl⟩

theorem leafEntry_marks (img ba j : Nat) : MarksOf img (leafEntry img ba j) := by
  obtain ⟨c, hc⟩ := leafEntry_split img ba j
  exact marksOf_of_mod (by omega)

theorem leafEntry_pfn (h : ptePfn img + j < 2 ^ 23) : ptePfn (leafEntry img ba j) = ptePfn img + j := by
  obtain ⟨c, hc⟩ := leafEntry_split img ba j
  exact ptePfn_of_div (by omega) h

theorem leafEntry_hostBa (hlow : mapEntry img + 65536 * j < 2 ^ 64) (hhost : pteHost img) (hba : ba % 65536 = 0)
    (hend : ba + 65536 * j < 2 ^ 64) : pteHostBa (leafEntry img ba j) = ba + 65536 * j := by
  have hmark : pteHost (mapEntry img + 65536 * j) = true :=
    (marksOf_of_mod (by omega)).host.trans hhost
  rw [pteHostBa, bitsOf, Nat.shiftRight_eq_div_pow, leafEntry, leafImage, hmark, if_pos rfl]
  omega

end

/-! ## The checks of a MAP -/

theorem mem_of_tget {α : Type} {t : Tab α} {k : Nat} {v : α} (h : tget t k = some v) : (k, v) ∈ t := by
  induction t with
  | nil => exact absurd h (by simp [tget])
  | cons x r ih =>
    obtain ⟨j, u⟩ := x
    rw [tget] at h
    split at h
    next hk => simp_all
    next => exact List.mem_cons_of_mem _ (ih h)

section
variable {f w dva n lo : Nat} {s : State}

theorem pageIn_eq_some (h : s.pageIn f w dva n = some lo) :
    dva = winBase2M (s.winCfg f w) * 2 ^ 21 + 65536 * lo ∧ lo + n ≤ 32 * winSize2M (s.winCfg f w) := by
  unfold State.pageIn at h
  dsimp only at h
  split at h
  next hc =>
    simp only [Bool.and_eq_true, beq_iff_eq, decide_eq_true_eq] at hc
    obtain ⟨⟨⟨-, halign⟩, hbase⟩, hend⟩ := hc
    have hlo := Option.some.inj h
    omega
  next => exact absurd h (by simp)

/-- No page of the range is valid: no 2 MiB of it is mapped as one page. -/
theorem leafTableFits_of_not_mapBusy {p : Nat} (hbusy : s.mapBusy f w lo (lo + n) 0 = false) (hlo : lo ≤ p) (hhi : p < lo + n)
    (hp : p < 2 ^ 23) : LeafTableFits f w p s := by
  intro hv
  cases hd : tget s.mem.dir (dirKey f w (p / 32)) with
  | none =>
    have hzero : s.pte (pageDir f w p) = 0 := congrArg (fun o : Option (BitVec 64) => (o.getD 0).toNat) hd
    rw [hzero] at hv
    exact absurd hv (by decide)
  | some d =>
    have hpte : s.pte (pageDir f w p) = d.toNat := congrArg (fun o : Option (BitVec 64) => (o.getD 0).toNat) hd
    have hkey : dirKey f w (p / 32) / 2 ^ 18 = f * 16 + w ∧ dirKey f w (p / 32) % 2 ^ 18 = p / 32 := by
      unfold dirKey
      omega
    have hentry := List.any_eq_false.1 hbusy _ (mem_of_tget hd)
    rw [hpte] at hv ⊢
    by_contra ht
    have hover : p / 32 * 32 < lo + n ∧ lo < p / 32 * 32 + 32 := by omega
    simp only [hkey, hv, Bool.eq_false_iff.2 ht, hover, beq_self_eq_true, decide_true, Bool.not_false, Bool.or_true, Bool.true_or, Bool.and_self,
      not_true_eq_false] at hentry

end

/-! ## The MAP -/

/-- The 64 KiB pages that a MAP covers. -/
def mapSpan (e : Nat) : Nat := if entF e 0x09 1 = 1 then 32 * entF e 0x18 4 else entF e 0x18 4

/-- A MAP names a range of pages, from page `lo`, of a window of a function that exists. -/
structure MapRange (e lo : Nat) (s : State) : Prop where
  fn : s.fnExists (entFn e)
  pages : entF e 0x18 4 ≠ 0
  range : s.pageIn (entFn e) (entF e 0x08 1) (entF e 0x10 8) (mapSpan e) = some lo

/-- The range, the image and the host address pass the checks of a MAP. -/
structure MapAccepted (e lo : Nat) (s : State) : Prop extends MapRange e lo s where
  size : entF e 0x09 1 ≤ 1
  valid : pteV (entF e 0x20 8)
  table : pteTbl (entF e 0x20 8) = false
  high : bitsOf (entF e 0x20 8) 63 39 = 0
  low : bitsOf (entF e 0x20 8) 15 8 = 0
  host : pteHost (entF e 0x20 8) → winHostOk (s.winCfg (entFn e) (entF e 0x08 1)) ∧ entF e 0x09 1 = 0 ∧
    entF e 0x28 8 % 65536 = 0 ∧ entF e 0x28 8 + 65536 * entF e 0x18 4 ≤ 2 ^ 64
  large : entF e 0x09 1 = 1 → lo % 32 = 0 ∧ ptePfn (entF e 0x20 8) % 32 = 0
  cached : pteHost (entF e 0x20 8) = false ∨ pteHcache (entF e 0x20 8) → hpaWindowable (ptePfn (entF e 0x20 8)) (mapSpan e) ∧
    ∀ r ∈ s.mappedHpa, r.1 + r.2 ≤ ptePfn (entF e 0x20 8) ∨ ptePfn (entF e 0x20 8) + mapSpan e ≤ r.1
  free : s.mapBusy (entFn e) (entF e 0x08 1) lo (lo + mapSpan e) (entF e 0x09 1) = false

/-- The pages of the range are mapped. -/
def mapped (e lo : Nat) (s : State) : State :=
  mapPages (entFn e) (entF e 0x08 1) (entF e 0x09 1) (mapEntry (entF e 0x20 8)) (entF e 0x28 8) (entF e 0x18 4) lo s

section
variable {e lo : Nat} {k : Ticket} {s : State}

theorem mapEffect_of_busy (h : MapRange e lo s)
    (hbusy : s.mapBusy (entFn e) (entF e 0x08 1) lo (lo + mapSpan e) (entF e 0x09 1)) : mapEffect e k s = completeSt k stInvalid s := by
  obtain ⟨hfn, hpages, hrange⟩ := h
  rw [mapSpan] at hrange hbusy
  simp only [mapEffect, hfn, hpages, hrange, hbusy, Bool.or_true, Bool.not_true, Bool.false_eq_true, if_false, if_true]

theorem mapEffect_of_accepted (h : MapAccepted e lo s) : mapEffect e k s = completeSt k stOk (mapped e lo s) := by
  obtain ⟨⟨hfn, hpages, hrange⟩, hsize, hvalid, htable, hhigh, hlow, hhost, hlarge, hcached, hfree⟩ := h
  rw [mapSpan] at hrange hcached hfree
  have hsize' : ¬ entF e 0x09 1 > 1 := by omega
  have hhost' : (pteHost (entF e 0x20 8) && (!winHostOk (s.winCfg (entFn e) (entF e 0x08 1)) || entF e 0x09 1 == 1 ||
      entF e 0x28 8 % 65536 != 0)) = false := by
    cases hm : pteHost (entF e 0x20 8) with
    | false => rfl
    | true =>
      obtain ⟨hok, hsmall, halign, -⟩ := hhost hm
      simp [hok, hsmall, halign]
  have hlarge' : (entF e 0x09 1 == 1 && (lo % 32 != 0 || ptePfn (entF e 0x20 8) % 32 != 0)) = false := by
    by_cases hone : entF e 0x09 1 = 1
    · obtain ⟨hlo, hpfn⟩ := hlarge hone
      simp [hlo, hpfn]
    · simp [hone]
  have hcached' : ((!pteHost (entF e 0x20 8) || pteHcache (entF e 0x20 8)) &&
      (!hpaWindowable (ptePfn (entF e 0x20 8)) (if entF e 0x09 1 = 1 then 32 * entF e 0x18 4 else entF e 0x18 4) ||
        s.mappedHpa.any (fun r => ptePfn (entF e 0x20 8) < r.1 + r.2 &&
          r.1 < ptePfn (entF e 0x20 8) + if entF e 0x09 1 = 1 then 32 * entF e 0x18 4 else entF e 0x18 4))) = false := by
    cases hc : (!pteHost (entF e 0x20 8) || pteHcache (entF e 0x20 8)) with
    | false => rfl
    | true =>
      obtain ⟨hwin, hapart⟩ := hcached (by simpa using hc)
      have hany : s.mappedHpa.any (fun r => ptePfn (entF e 0x20 8) < r.1 + r.2 &&
          r.1 < ptePfn (entF e 0x20 8) + if entF e 0x09 1 = 1 then 32 * entF e 0x18 4 else entF e 0x18 4) = false := by
        refine List.any_eq_false.2 fun r hr => ?_
        have := hapart r hr
        simp only [Bool.and_eq_true, decide_eq_true_eq]
        omega
      rw [hwin, hany]
      rfl
  simp only [mapEffect, hfn, hpages, hrange, hsize', hvalid, htable, hhigh, hlow, hhost', hlarge', hcached', hfree, decide_false,
    bne_self_eq_false, Bool.or_false, Bool.not_true, Bool.false_eq_true, if_false]
  rfl

theorem entF_lt (e o n : Nat) : entF e o n < 2 ^ (8 * n) := Nat.mod_lt _ (by positivity)

theorem mapped_kept : Kept [.mem] s (mapped e lo s) := mapPages_frame ..

theorem mapped_winOff (h : MapAccepted e lo s) {j x : Nat} :
    (mapped e lo s).winOff (entFn e) (entF e 0x08 1) (entF e 0x10 8 + 65536 * j + x) = 65536 * (lo + j) + x := by
  obtain ⟨hdva, -⟩ := pageIn_eq_some h.range
  rw [State.winOff, State.winCfg, mapped_kept.reg_eq (by decide), ← State.winCfg]
  omega

/-- Page `j` of an accepted range of 64 KiB pages has its leaf entry. -/
theorem mapped_leafMapped (h : MapAccepted e lo s) (hps : entF e 0x09 1 = 0) {j : Nat} (hj : j < entF e 0x18 4) :
    LeafMapped (entFn e) (entF e 0x08 1) (lo + j) (leafEntry (entF e 0x20 8) (entF e 0x28 8) j) (mapped e lo s) := by
  obtain ⟨-, hend⟩ := pageIn_eq_some h.range
  have hwin := winSize2M_lt (s.winCfg (entFn e) (entF e 0x08 1))
  have hspan : mapSpan e = entF e 0x18 4 := if_neg (by omega)
  have hfree := h.free
  rw [hspan] at hend hfree
  rw [hps] at hfree
  exact mapPages_leafMapped (by omega) (fun p hlo hhi => leafTableFits_of_not_mapBusy hfree hlo hhi (by omega)) hj

/-- The directory entry of 2 MiB page `i` of a range. -/
def dirEntry (img i : Nat) : Nat := (mapEntry img + 2 ^ 21 * i) % 2 ^ 64

theorem dirEntry_marks (img i : Nat) : MarksOf img (dirEntry img i) := marksOf_of_mod (by unfold dirEntry; omega)

theorem dirEntry_pfn {img i : Nat} (h : ptePfn img + 32 * i < 2 ^ 23) : ptePfn (dirEntry img i) = ptePfn img + 32 * i :=
  ptePfn_of_div (by unfold dirEntry; omega) h

theorem mapped_pte_dir (h : MapAccepted e lo s) (hps : entF e 0x09 1 = 1) {j : Nat} (hj : j < 32 * entF e 0x18 4) :
    (mapped e lo s).pte (pageDir (entFn e) (entF e 0x08 1) (lo + j)) = dirEntry (entF e 0x20 8) (j / 32) := by
  obtain ⟨hlo, -⟩ := h.large hps
  rw [pageDir_congr (show (lo + j) / 32 = (lo + 32 * (j / 32)) / 32 by omega), mapped, hps]
  exact mapPages_pte_dir (by omega)

theorem pfn_lt_of_cached (h : MapAccepted e lo s) (hc : pteHost (entF e 0x20 8) = false ∨ pteHcache (entF e 0x20 8)) {j : Nat}
    (hj : j < mapSpan e) : ptePfn (entF e 0x20 8) + j < 2 ^ 23 := by
  obtain ⟨hwin, -⟩ := h.cached hc
  simp only [hpaWindowable, Bool.and_eq_true, decide_eq_true_eq] at hwin
  omega

/-- Where page `j` of the range leads, by whichever size of page it is mapped. -/
theorem mapped_walk (h : MapAccepted e lo s) {j x : Nat} (hj : j < mapSpan e) (hx : x < 65536) : ∃ r pte wr,
    (mapped e lo s).walk (entFn e) (entF e 0x08 1) (entF e 0x10 8 + 65536 * j + x) =
      (if pteHost (entF e 0x20 8) ∧ pteHcache (entF e 0x20 8) = false then
        .host (entF e 0x28 8 + 65536 * j + x) (entF e 0x08 1) wr
       else .hbm r pte (65536 * (ptePfn (entF e 0x20 8) + j) + x) (entF e 0x08 1) wr) ∧
    (wr → pteW (entF e 0x20 8) ∧ winRo (s.winCfg (entFn e) (entF e 0x08 1)) = false) ∧
    (pteHost (entF e 0x20 8) = false ∨ pteHcache (entF e 0x20 8) →
      (mapped e lo s).pte r = pte ∧ ptePresent pte = false ∧ pteDirty pte = false) := by
  have hcfg : (mapped e lo s).winCfg (entFn e) (entF e 0x08 1) = s.winCfg (entFn e) (entF e 0x08 1) := by
    rw [State.winCfg, mapped_kept.reg_eq (by decide), State.winCfg]
  rcases Nat.le_one_iff_eq_zero_or_eq_one.1 h.size with hps | hps
  · have hspan : mapSpan e = entF e 0x18 4 := if_neg (by omega)
    have hleaf := mapped_leafMapped h hps (hspan ▸ hj)
    have hmarks := leafEntry_marks (entF e 0x20 8) (entF e 0x28 8) j
    obtain ⟨wr, hwalk, hwr⟩ := walk_of_leafMapped hx (mapped_winOff h) hleaf (hmarks.valid.trans h.valid)
    rw [hmarks.host, hmarks.hcache] at hwalk
    rw [hmarks.write, hcfg] at hwr
    refine ⟨_, _, wr, hwalk.trans ?_, hwr, fun _ => ⟨hleaf.entry, hmarks.present, hmarks.dirty⟩⟩
    split
    next hhost =>
      obtain ⟨-, -, halign, hend⟩ := h.host hhost.1
      have hlow := mapEntry_lt (entF_lt e 0x20 8) h.high
      have hpages := entF_lt e 0x18 4
      rw [leafEntry_hostBa (by omega) hhost.1 halign (by omega)]
    next hhost =>
      rw [leafEntry_pfn (pfn_lt_of_cached h (by simpa [or_iff_not_imp_left] using hhost) hj)]
  · have hspan : mapSpan e = 32 * entF e 0x18 4 := if_pos hps
    have hhost : pteHost (entF e 0x20 8) = false := Bool.eq_false_iff.2 fun hm => by
      obtain ⟨-, hsmall, -⟩ := h.host hm
      omega
    have hdir := mapped_pte_dir h hps (hspan ▸ hj)
    have hmarks := dirEntry_marks (entF e 0x20 8) (j / 32)
    have hpfn := pfn_lt_of_cached h (.inl hhost) hj
    obtain ⟨hlo, -⟩ := h.large hps
    obtain ⟨wr, hwalk, hwr⟩ := walk_of_dirMapped hx (mapped_winOff h) hdir (hmarks.valid.trans h.valid) (hmarks.table.trans h.table)
    rw [hmarks.write, hcfg] at hwr
    refine ⟨_, _, wr, hwalk.trans ?_, hwr, fun _ => ⟨hdir, hmarks.present, hmarks.dirty⟩⟩
    rw [if_neg (by simp [hhost]), dirEntry_pfn (by omega)]
    congr 1
    omega

end

theorem popEntry_fnExists (fn q f : Nat) (s : State) : (popEntry fn q s).fnExists f = s.fnExists f := by
  unfold popEntry
  split <;> rfl

theorem exec_map_of_front {fn q e : Nat} {k : Ticket} {s : State} (h : Front opMap fn q e k s) :
    exec (.map fn q) s = .next (mapEffect e k (popEntry fn q s)) := congrArg Host.Outcome.next (onEntry_act _ _ _ _ _ _ _ h)

/-- Settles O33: a valid page refuses the command; an accepted one leaves `mapped`, whose pages `mapped_walk` reads. -/
theorem mapMakesPagesUsable : Obligations.MapMakesPagesUsable := by
  intro s q e k h f w psize pages dva img ba n hfn hpages lo hlo
  have hfn' : (popEntry 0 q s).fnExists f := (popEntry_fnExists 0 q f s).trans hfn
  have hexec := exec_map_of_front h
  obtain ⟨hst, hpop⟩ := popEntry_eq_withHost 0 q s
  rw [hpop] at hfn' hexec ⊢
  have hrange : MapRange e lo (s.withHost hst) := ⟨hfn', hpages, hlo⟩
  refine ⟨fun hbusy => ?_, fun hsize hvalid htable hhigh hlow hhost hlarge hcached hfree => ?_⟩
  · rw [hexec, mapEffect_of_busy hrange hbusy]
  · have hacc : MapAccepted e lo (s.withHost hst) :=
      { hrange with
        size := hsize, valid := hvalid, table := htable, high := hhigh, low := hlow, host := hhost, large := hlarge,
        cached := hcached, free := hfree }
    have hhostIf : (mapped e lo (s.withHost hst)).host = hst := mapped_kept.off.same .host (by decide)
    rw [mapEffect_of_accepted hacc] at hexec
    refine ⟨_, hexec, ?_, ?_, fun j hj x hx => mapped_walk hacc hj hx⟩
    · exact (execMap_frame 0 q s _ hexec).off
    · exact congrArg (HostIf.complete · (Compl.mk' k stOk)) hhostIf

end Sys2Proof.Machine
end

section
/-!
Queue pairs, the event queue and MSI-X (R303-R308, R491, R494): fetching up to a new tail, posting and holding back a completion,
creating and deleting queues, and the messages of vectors.
-/

namespace Sys2Proof.Machine

open Sys2Proof

/-- One pair of the host interface is `p`. -/
def HostIf.setPair (h : HostIf) (fn q : Nat) (p : QPair) : HostIf := { h with qps := tput h.qps (qkey fn q) p }

theorem setPair_self (h : HostIf) (fn q : Nat) (p : QPair) : tget (h.setPair fn q p).qps (qkey fn q) = some p := tget_tput_self ..

/-! ## SQ_TAIL (R304) -/

/-- The number of entries from the head up to the tail takes the head to the tail. -/
theorem ring_distance {head tail size : Nat} (hh : head < size) (ht : tail < size) :
    (head + (tail + size - head) % size) % size = tail := by
  rw [Nat.add_mod_mod, show head + (tail + size - head) = tail + size by omega, Nat.add_mod_right, Nat.mod_eq_of_lt ht]

theorem fnEnabled_hostWrites (s : State) (ws : List HostWrite) (fn : Nat) :
    State.fnEnabled { s with host := s.host.hostWrites ws } fn = s.fnEnabled fn := by
  obtain ⟨hen, hnum⟩ := hostWrites_vf s.host ws
  simp only [State.fnEnabled, State.fnExists, hen, hnum]
  rfl

/-- A well-formed tail of an existing pair is taken, and the pair fetches up to it. -/
theorem sqTailEffect_of_ok {fn q : Nat} {v : Word} {s : State} {p : QPair} (hen : s.fnEnabled fn) (hq : q < 8)
    (hp : tget s.host.qps (qkey fn q) = some p) (h16 : v.toNat < 65536) (hsize : v.toNat < 2 ^ p.sqLog2) :
    sqTailEffect fn q v 32 s =
      { s with host := (s.host.setPair fn q { p with tail := v.toNat }).fetch fn q (2 ^ p.sqLog2) } := by
  simp [sqTailEffect, doorbellOk, HostIf.fetchAll, HostIf.setPair, hen, hq, hp, h16, hsize]

/-- Settles O4: the entries are those that `fetch_run` fetches from the pair with its new tail. -/
theorem sqTailFetchesInRingOrder : Obligations.SqTailFetchesInRingOrder := by
  intro s fn q v ws p h size entry n hen hq h16 hsize hhead hp hfull hready hdel hknown
  have hph : tget h.qps (qkey fn q) = some p := by rw [← hp, ← hostWrites_qps s.host ws]
  have hn : n < size := Nat.mod_lt _ (by omega)
  obtain ⟨g, hfetch, hpair, hother⟩ := fetch_run fn q n (h.setPair fn q { p with tail := v.toNat }) { p with tail := v.toNat }
    size hn.le (setPair_self ..) hfull hready hdel hhead (ring_distance hhead hsize).symm hn hknown
  have hen' : State.fnEnabled { s with host := h } fn := (fnEnabled_hostWrites s ws fn).trans hen
  have hexec : exec (.sqTail fn q v 32 ws) s = .next { s with host := { h with qps := g } } :=
    congrArg Host.Outcome.next ((sqTailEffect_of_ok hen' hq hph h16 hsize).trans (by rw [hfetch]; rfl))
  refine ⟨_, hexec, (exec_kept hexec).off, hpair, fun k hk => ?_, rfl⟩
  rw [hother k hk, HostIf.setPair, tget_tput_ne _ _ hk]
  exact congrArg (tget · k) (hostWrites_qps s.host ws)

/-! ## Completions (R305, R494) -/

theorem tput_tput_self {α : Type} (t : Tab α) (k : Nat) (v w : α) : tput (tput t k v) k w = tput t k w := by
  induction t with
  | nil => simp [tput]
  | cons e r ih =>
    obtain ⟨j, x⟩ := e
    rcases lt_trichotomy k j with h | rfl | h
    · simp [tput, h]
    · simp [tput]
    · simp [tput, h.not_gt, h.ne', ih]

theorem setPair_setPair (h : HostIf) (fn q : Nat) (p r : QPair) : (h.setPair fn q p).setPair fn q r = h.setPair fn q r := by
  simp only [HostIf.setPair, tput_tput_self]

section
variable {fn q : Nat} {h : HostIf} {p : QPair} (hp : tget h.qps (qkey fn q) = some p)
include hp

theorem postReady_single (hf : p.full = false) (c : Compl) :
    h.postReady fn q [c] = h.postOne fn q { p with ready := [] } c := by
  simp [HostIf.postReady, hp, hf]

/-- A full completion queue takes none of the completions that are ready. -/
theorem postReady_of_full (hf : p.full = true) {cs : List Compl} (hcs : cs ≠ []) :
    h.postReady fn q cs = h.setPair fn q { p with ready := cs } := by
  obtain ⟨c, r, rfl⟩ := List.exists_cons_of_ne_nil hcs
  simp [HostIf.postReady, hp, hf, HostIf.setPair]

theorem finishDelete_of_none (hd : p.deleting = none) : h.finishDelete fn q = h := by
  simp [HostIf.finishDelete, hp, hd]

end

theorem complete_of_full {h : HostIf} {c : Compl} {p : QPair} (hp : tget h.qps (qkey c.ticket.fn c.ticket.q) = some p)
    (hd : p.deleting = none) (hf : p.full = true) :
    h.complete c = h.setPair c.ticket.fn c.ticket.q { p with open_ := p.open_ - 1, ready := p.ready ++ [c] } := by
  have hpost := postReady_of_full (setPair_self h c.ticket.fn c.ticket.q { p with open_ := p.open_ - 1 }) hf
    (List.append_ne_nil_of_right_ne_nil p.ready (List.cons_ne_nil c []))
  rw [setPair_setPair] at hpost
  unfold HostIf.complete
  rw [hp]
  exact (congrArg (HostIf.finishDelete · c.ticket.fn c.ticket.q) hpost).trans (finishDelete_of_none (setPair_self ..) hd)

theorem hostRead_complBytes (m : Tab Byte) (a : Nat) (c : Compl) (ph : Bool) :
    hostRead (hostWrite m a (complBytes c ph)) a 64 = complBytes c ph := by
  have hlen := complBytes_length c ph
  generalize complBytes c ph = bs at hlen ⊢
  rw [← hlen]
  exact hostRead_hostWrite bs m a (by omega)

theorem mem_complete_of_room {h : HostIf} {c : Compl} {p : QPair} (hp : tget h.qps (qkey c.ticket.fn c.ticket.q) = some p)
    (hr : p.ready = []) (hd : p.deleting = none) (hf : p.full = false) :
    (h.complete c).mem = hostWrite h.mem (p.cqBase + 64 * p.cqTail) (complBytes c p.cqPhase) := by
  rw [complete_eq h c p hp hr hd hf, postOne_mem]

/-- Settles O6: with room the completion is the one entry that `complete_eq` posts; a full queue keeps it ready. -/
theorem completionsAreWrittenOrHeld : Obligations.CompletionsAreWrittenOrHeld := by
  refine ⟨fun h c p hp hr hd hf => ⟨?_, fun a ha => ?_, ?_⟩, fun h c p hp hd hf => ?_⟩
  · rw [mem_complete_of_room hp hr hd hf]
    exact hostRead_complBytes ..
  · rw [mem_complete_of_room hp hr hd hf]
    exact hostByte_hostWrite_out _ _ _ _ (by rwa [complBytes_length])
  · obtain ⟨u, hu⟩ := postOne_qps { h with qps := tput h.qps (qkey c.ticket.fn c.ticket.q) { p with open_ := p.open_ - 1 } }
      c.ticket.fn c.ticket.q { p with open_ := p.open_ - 1, ready := [] } c
    exact ⟨u, by rw [complete_eq h c p hp hr hd hf, hu, tget_tput_self, hr]⟩
  · rw [complete_of_full hp hd hf]
    exact ⟨rfl, rfl, tget_tput_self ..⟩

/-! ## Creating queues (R303, Table 10-3) -/

theorem qkey_ne {fn q r : Nat} (h : q ≠ r) : qkey fn q ≠ qkey fn r := by
  unfold qkey
  omega

theorem depthOk_iff (n : Nat) : depthOk n ↔ 4 ≤ n ∧ n ≤ 12 := by simp [depthOk]

/-- Settles O8: the limits are those that `createQpEffect` and `createEqEffect` check; taking the entry changes none of them. -/
theorem queuesAreCreatedWithinLimits : Obligations.QueuesAreCreatedWithinLimits := by
  refine ⟨fun s fn e k h => ?_, fun s fn e k h => ?_⟩
  · intro n u p
    have hexec : exec (.createQp fn 0) s = .next (createQpEffect fn e k u) :=
      congrArg Host.Outcome.next (onEntry_act _ _ _ _ _ _ _ h)
    have hpair (hn : 1 ≤ entF e 0x08 1) : tget u.host.qps (qkey fn (entF e 0x08 1)) = tget s.host.qps (qkey fn (entF e 0x08 1)) :=
      popEntry_qps _ _ _ _ (qkey_ne (by omega))
    rw [hexec, createQpEffect, qpairsMax_pop]
    by_cases hn : 1 ≤ n
    · simp only [n, hpair hn, depthOk_iff, and_assoc]
      split_ifs <;> rfl
    · rw [if_neg (fun hc => hn hc.1), if_neg (fun hc => hn hc.1)]
  · intro u x
    have hexec : exec (.createEq fn 0) s = .next (createEqEffect fn e k u) :=
      congrArg Host.Outcome.next (onEntry_act _ _ _ _ _ _ _ h)
    rw [hexec, createEqEffect, show u.host.eqs = s.host.eqs from popEntry_eqs ..]
    split_ifs <;> rfl

/-! ## Deleting a pair (R303) -/

/-- The host interface without one pair. -/
def HostIf.dropPair (h : HostIf) (fn q : Nat) : HostIf := { h with qps := tdel h.qps (qkey fn q) }

section
variable {fn q : Nat} {h : HostIf} {p : QPair} {t : Ticket}

theorem finishDelete_of_busy (hp : tget h.qps (qkey fn q) = some p)
    (hbusy : p.open_ ≠ 0 ∨ p.ready ≠ [] ∨ p.fetched ≠ []) : h.finishDelete fn q = h := by
  have hnot : ¬ (p.open_ = 0 ∧ p.ready = [] ∧ p.fetched = []) := by tauto
  unfold HostIf.finishDelete
  rw [hp]
  split
  · rfl
  next x hx =>
    cases hx
    split
    · rfl
    · exact if_neg hnot

/-- With no command under way the pair is gone, and DELETE_QP joins the completions that are ready on its own pair. -/
theorem finishDelete_of_idle {p0 : QPair} (hp : tget h.qps (qkey fn q) = some p) (hd : p.deleting = some t) (ho : p.open_ = 0)
    (hr : p.ready = []) (hf : p.fetched = []) (hne : qkey t.fn t.q ≠ qkey fn q) (hp0 : tget h.qps (qkey t.fn t.q) = some p0) :
    h.finishDelete fn q =
      ((h.dropPair fn q).setPair t.fn t.q { p0 with open_ := p0.open_ - 1 }).postReady t.fn t.q (p0.ready ++ [Compl.mk' t stOk]) := by
  simp [HostIf.finishDelete, hp, hd, ho, hr, hf, tget_tdel_ne _ hne, hp0, HostIf.dropPair, HostIf.setPair]

/-- With room and no completion before it DELETE_QP's completion is written. -/
theorem finishDelete_posts {p0 : QPair} (hp : tget h.qps (qkey fn q) = some p) (hd : p.deleting = some t) (ho : p.open_ = 0)
    (hr : p.ready = []) (hf : p.fetched = []) (hne : qkey t.fn t.q ≠ qkey fn q) (hp0 : tget h.qps (qkey t.fn t.q) = some p0)
    (hr0 : p0.ready = []) (hroom : p0.full = false) :
    h.finishDelete fn q =
      ((h.dropPair fn q).setPair t.fn t.q { p0 with open_ := p0.open_ - 1 }).postOne t.fn t.q
        { p0 with open_ := p0.open_ - 1, ready := [] } (Compl.mk' t stOk) := by
  have hroom' : QPair.full { p0 with open_ := p0.open_ - 1 } = false := hroom
  rw [finishDelete_of_idle hp hd ho hr hf hne hp0, show p0.ready ++ [Compl.mk' t stOk] = [Compl.mk' t stOk] by rw [hr0]; rfl]
  exact postReady_single (setPair_self ..) hroom' _

end

theorem popEntry_mem (fn q : Nat) (s : State) : (popEntry fn q s).host.mem = s.host.mem := by
  unfold popEntry
  split <;> rfl

theorem popEntry_out (fn q : Nat) (s : State) : (popEntry fn q s).host.out = s.host.out := by
  unfold popEntry
  split <;> rfl

/-- Settles O9: an idle pair goes at once and its command is posted alone; a busy one is marked. -/
theorem deleteQpWaitsForItsCommands : Obligations.DeleteQpWaitsForItsCommands := by
  intro s fn e k p p0 h n u h1 h7 hp hd hp0 hd0
  obtain ⟨rfl, hkq⟩ := front_ticket h
  have hne : qkey k.fn k.q ≠ qkey k.fn n := qkey_ne (by omega)
  have hpu : tget u.host.qps (qkey k.fn n) = some p := by
    rw [← hp]
    exact popEntry_qps _ _ _ _ (qkey_ne (by omega))
  have hq0 : qkey k.fn 0 = qkey k.fn k.q := by rw [hkq]
  rw [hq0] at hp0 ⊢
  let marked := u.host.setPair k.fn n { p with deleting := some k }
  have hmarked : tget marked.qps (qkey k.fn n) = some { p with deleting := some k } := setPair_self ..
  have hexec : exec (.deleteQp k.fn 0) s = .next { u with host := marked.finishDelete k.fn n } := by
    refine congrArg Host.Outcome.next ((onEntry_act _ _ _ _ _ _ _ h).trans ?_)
    simp only [deleteQpEffect]
    rw [show tget (popEntry k.fn 0 s).host.qps (qkey k.fn (entF e 0x08 1)) = some p from hpu]
    exact if_pos ⟨h1, h7, hd⟩
  refine ⟨fun ho hr hf hr0 hfull => ?_, fun hbusy => ?_⟩
  · have hp0' : tget marked.qps (qkey k.fn k.q) = some p0 := (tget_tput_ne _ _ hne).trans hp0
    rw [finishDelete_posts hmarked rfl ho hr hf hne hp0' hr0 hfull] at hexec
    refine ⟨_, hexec, (exec_kept hexec).off, ?_, ?_, ?_⟩
    · obtain ⟨c, hc⟩ := postOne_qps _ k.fn k.q _ _
      rw [hc, tget_tput_ne _ _ hne.symm]
      exact (tget_tput_ne _ _ hne.symm).trans (tget_tdel_self ..)
    · rw [postOne_mem]
      exact hostRead_complBytes ..
    · obtain ⟨c, hc⟩ := postOne_qps _ k.fn k.q _ _
      rw [hc, tget_tput_self]
      rfl
  · rw [finishDelete_of_busy hmarked hbusy] at hexec
    exact ⟨_, hexec, (exec_kept hexec).off, hmarked, popEntry_mem .., popEntry_out ..⟩

/-! ## MSI-X (R308) -/

theorem getLsbD_ofNat_two_pow {w i : Nat} (j : Nat) (h : i < w) : (BitVec.ofNat w (2 ^ i)).getLsbD j = decide (i = j) := by
  rw [BitVec.getLsbD_ofNat, Nat.testBit_two_pow]
  by_cases hj : i = j
  · subst hj
    simp [h]
  · simp [hj]

section
variable (h : HostIf) (fn v : Nat)

theorem unmask_masked : (h.unmask fn v).masked fn v = false := by
  have hentry : (h.unmask fn v).msixEntry fn v = h.msixEntry fn v &&& ~~~(BitVec.ofNat 128 (2 ^ 96)) := by
    unfold HostIf.unmask
    dsimp only
    split <;> exact tgetD_tput_self ..
  rw [HostIf.masked, hentry, BitVec.getLsbD_and, BitVec.getLsbD_not, getLsbD_ofNat_two_pow _ (by omega)]
  simp

variable {h fn v}

theorem unmask_of_pending (hv : v < 32) (hp : (tgetD h.msixPend fn 0).getLsbD v = true) :
    (h.unmask fn v).out = h.out ++ [.msix fn v] ∧ (tgetD (h.unmask fn v).msixPend fn 0).getLsbD v = false := by
  unfold HostIf.unmask
  dsimp only
  rw [if_pos hp]
  refine ⟨rfl, ?_⟩
  rw [tgetD_tput_self, BitVec.getLsbD_and, BitVec.getLsbD_not, getLsbD_ofNat_two_pow _ hv]
  simp

theorem unmask_of_idle (hp : ¬ (tgetD h.msixPend fn 0).getLsbD v = true) :
    (h.unmask fn v).out = h.out ∧ (h.unmask fn v).msixPend = h.msixPend := by
  unfold HostIf.unmask
  dsimp only
  rw [if_neg hp]
  exact ⟨rfl, rfl⟩

theorem signal_of_masked (hv : v < 32) (hm : h.masked fn v = true) :
    (h.signal fn v).out = h.out ∧ (tgetD (h.signal fn v).msixPend fn 0).getLsbD v = true := by
  rw [HostIf.signal, if_pos hm]
  refine ⟨rfl, ?_⟩
  rw [tgetD_tput_self, BitVec.getLsbD_or, getLsbD_ofNat_two_pow _ hv]
  simp

theorem signal_of_unmasked (hm : ¬ h.masked fn v = true) : (h.signal fn v).out = h.out ++ [.msix fn v] := by
  rw [HostIf.signal, if_neg hm]

end

/-- Settles O11: an unmask sends what is pending, and the timeout signals, which a mask turns into a pending message. -/
theorem interruptsAreSentOnce : Obligations.InterruptsAreSentOnce := by
  refine ⟨fun s fn v hfn hv => ?_, fun s fn q p hq hp hu hv => ?_⟩
  · have hexec : exec (.msixUnmask fn v) s = .next { s with host := s.host.unmask fn v } :=
      congrArg Host.Outcome.next (if_pos (by simp [hfn, hv]))
    refine ⟨_, hexec, (exec_kept hexec).off, unmask_masked .., ?_⟩
    split
    next hpend => exact unmask_of_pending hv hpend
    next hpend => exact unmask_of_idle hpend
  · let h : HostIf := s.host.setPair fn q { p with unsig := 0 }
    have hcoal : s.host.coalesced fn q = h.signal fn p.vec := by simp [HostIf.coalesced, HostIf.setPair, hq, hp, hu, h]
    have hexec : exec (.coalescingTimeout fn q) s = .next { s with host := h.signal fn p.vec } :=
      congrArg (fun x => Host.Outcome.next (s.withHost x)) hcoal
    refine ⟨_, hexec, (exec_kept hexec).off, ?_, ?_⟩
    · rw [signal_qps]
      exact setPair_self ..
    · split
      next hm => exact signal_of_masked hv hm
      next hm => exact signal_of_unmasked hm

end Sys2Proof.Machine
end

section
/-!
FN_PART_CFG (R300, R301, R519): which values are refused, what an accepted one asks for, and what of it takes effect when the
partition has no running tick.
-/

namespace Sys2Proof.Machine

open Sys2Proof

/-! ## Fields of a register value -/

/-- A field that lies within a field just written. -/
theorem bitsOf_setBits_within (n v : Nat) {hi lo h2 l2 : Nat} (hl : lo ≤ l2) (hm : l2 ≤ h2) (hh : h2 ≤ hi) :
    bitsOf (setBits n hi lo v) h2 l2 = bitsOf v (h2 - lo) (l2 - lo) := by
  apply Nat.eq_of_testBit_eq
  intro i
  rw [bitsOf_testBit, bitsOf_testBit, setBits_testBit _ _ _ _ _ (by omega)]
  by_cases hi' : i < h2 + 1 - l2
  · rw [if_pos (by omega), show l2 + i - lo = l2 - lo + i by omega]
    simp [hi', show i < h2 - lo + 1 - (l2 - lo) by omega]
  · simp [hi', show ¬ i < h2 - lo + 1 - (l2 - lo) by omega]

/-- A field of a field. -/
theorem bitsOf_bitsOf (n : Nat) {hi lo h2 l2 : Nat} (hh : h2 + lo ≤ hi) :
    bitsOf (bitsOf n hi lo) h2 l2 = bitsOf n (h2 + lo) (l2 + lo) := by
  apply Nat.eq_of_testBit_eq
  intro i
  rw [bitsOf_testBit, bitsOf_testBit, bitsOf_testBit, show lo + (l2 + i) = l2 + lo + i by omega,
    show h2 + lo + 1 - (l2 + lo) = h2 + 1 - l2 by omega]
  by_cases hi' : i < h2 + 1 - l2
  · simp [hi', show l2 + i < hi + 1 - lo by omega]
  · simp [hi']

/-- The fields of FN_PART_CFG that the host writes. -/
def fnPartFields (n : Nat) : Nat := setBits (setBits 0 8 0 (shareOf n)) 19 12 (bitsOf n 19 12)

theorem shareOf_fnPartFields (n : Nat) : shareOf (fnPartFields n) = shareOf n := by
  rw [shareOf, fnPartFields, bitsOf_setBits_ne _ _ _ _ _ _ (by omega) (by omega), bitsOf_setBits_self _ _ _ _ (by omega)]
  exact Nat.mod_eq_of_lt (bitsOf_lt n 8 0)

theorem tilesOf_fnPartFields (n : Nat) : tilesOf (fnPartFields n) = tilesOf n := by
  rw [tilesOf, fnPartFields, bitsOf_setBits_within _ _ (by omega) (by omega) (by omega), bitsOf_bitsOf _ (by omega)]
  rfl

theorem accmOf_fnPartFields (n : Nat) : accmOf (fnPartFields n) = accmOf n := by
  rw [accmOf, fnPartFields, bitsOf_setBits_within _ _ (by omega) (by omega) (by omega), bitsOf_bitsOf _ (by omega)]
  rfl

theorem fnPartFields_lt (n : Nat) : fnPartFields n < 2 ^ 32 :=
  setBits_lt _ _ _ _ _ (by omega) (by omega) (setBits_lt _ _ _ _ _ (by omega) (by omega) (by omega))

/-- A write of CFG_REJ leaves the other fields. -/
theorem fields_setBits_rej (n r : Nat) : shareOf (setBits n 31 31 r) = shareOf n ∧ tilesOf (setBits n 31 31 r) = tilesOf n ∧
    accmOf (setBits n 31 31 r) = accmOf n := by
  refine ⟨?_, ?_, ?_⟩ <;> exact bitsOf_setBits_ne _ _ _ _ _ _ (by omega) (by omega)

/-! ## What a write asks for -/

/-- The change of the effective value `eff` that the value `n` asks for. -/
def fnPartChange (f p n eff : Nat) : PartCfgPend :=
  { fn := f, part := p, share := if shareOf n = shareOf eff then none else some (shareOf n),
    tiles := if tilesOf n = tilesOf eff ∧ accmOf n = accmOf eff then none else some (tilesOf n, accmOf n) }

/-- Nothing of a change is left to be made. -/
def PartCfgPend.isDone (x : PartCfgPend) : Bool := x.share.isNone && x.tiles.isNone

/-- The pending changes after a write: the change of the function takes the place of one that waited. -/
def pendAfter (f p : Nat) (x : PartCfgPend) (l : List PartCfgPend) : List PartCfgPend :=
  let keep := l.filter (fun y => !(y.fn == f && y.part == p))
  if x.isDone then keep else keep ++ [x]

def State.putFnPart (s : State) (f p n : Nat) : State :=
  { s with reg := { s.reg with fnPartCfg := tput s.reg.fnPartCfg (pkey f p) (BitVec.ofNat 32 n) } }

/-- The change that a write of `n` asks for. -/
def State.changeAsked (s : State) (f p n : Nat) : PartCfgPend := fnPartChange f p (fnPartFields n) (s.fnPartEff f p)

/-- An accepted value is held, and its change waits. -/
def State.askFnPart (s : State) (f p n r : Nat) : State :=
  { s with reg := { s.reg with
      fnPartCfg := tput s.reg.fnPartCfg (pkey f p) (BitVec.ofNat 32 (setBits (fnPartFields n) 31 31 r)),
      partPend := pendAfter f p (s.changeAsked f p n) s.reg.partPend } }

section
variable {s : State} {f p : Nat}

theorem fnPart_putFnPart {n : Nat} (hn : n < 2 ^ 32) : (s.putFnPart f p n).fnPart f p = n := by
  simp only [State.fnPart, State.putFnPart, tgetD_tput_self, BitVec.toNat_ofNat, Nat.mod_eq_of_lt hn]

theorem fnPart_lt : s.fnPart f p < 2 ^ 32 := BitVec.isLt _

theorem fnPart_askFnPart {n r : Nat} : (s.askFnPart f p n r).fnPart f p = setBits (fnPartFields n) 31 31 r :=
  fnPart_putFnPart (setBits_lt _ _ _ _ _ (by omega) (by omega) (fnPartFields_lt n))

theorem fnPartEffect_of_refused {v : Word} (h : fnPartRefused s f p v.toNat = true) :
    fnPartEffect f p v s = s.putFnPart f p (setBits (s.fnPart f p) 31 31 1) := if_pos h

theorem fnPartEffect_of_accepted {v : Word} (h : fnPartRefused s f p v.toNat = false) : ∃ r, fnPartEffect f p v s =
    if s.partTicks p then s.askFnPart f p v.toNat r else applyPartPend p (s.askFnPart f p v.toNat r) :=
  ⟨bit01 (bitOf (s.fnPart f p) 31 && !v.getLsbD 31), if_neg (Bool.eq_false_iff.1 h)⟩

/-- PEND reads as set while the change of the allotments waits. -/
theorem pendAfter_any_tiles (x : PartCfgPend) (hf : x.fn = f) (hp : x.part = p) (l : List PartCfgPend) :
    (pendAfter f p x l).any (fun y => y.fn == f && y.part == p && y.tiles.isSome) = x.tiles.isSome := by
  have hkeep : (l.filter (fun y => !(y.fn == f && y.part == p))).any
      (fun y => y.fn == f && y.part == p && y.tiles.isSome) = false := by
    rw [List.any_filter, List.any_eq_false]
    intro y _
    cases y.fn == f && y.part == p <;> simp
  unfold pendAfter
  dsimp only
  split
  next hdone =>
    have hnone : x.tiles.isNone = true := (Bool.and_eq_true _ _ ▸ hdone : _ ∧ _).2
    rw [hkeep, ← Option.not_isNone, hnone]
    rfl
  next =>
    rw [List.any_append, hkeep]
    simp [hf, hp]

/-- Where no other function's change waits for the partition, at most the change just asked for does. -/
theorem pendAfter_filter_part (x : PartCfgPend) (hp : x.part = p) {l : List PartCfgPend} (hl : ∀ y ∈ l, y.part = p → y.fn = f) :
    (pendAfter f p x l).filter (fun y => y.part = p) = if x.isDone then [] else [x] := by
  have hkeep : (l.filter (fun y => !(y.fn == f && y.part == p))).filter (fun y => y.part = p) = [] := by
    rw [List.filter_filter, List.filter_eq_nil_iff]
    intro y hy
    by_cases hyp : y.part = p <;> simp [hyp, hl y hy]
  unfold pendAfter
  dsimp only
  split
  · exact hkeep
  · rw [List.filter_append, hkeep]
    simp [hp]

end

/-! ## What takes effect (R519) -/

/-- A value with a change made to it. -/
def PartCfgPend.value (x : PartCfgPend) (v : Nat) : Nat :=
  let w := match x.share with
    | some sh => setBits v 8 0 sh
    | none => v
  match x.tiles with
  | some t => setBits (setBits w 15 12 t.1) 19 16 t.2
  | none => w

theorem PartCfgPend.value_lt (x : PartCfgPend) {v : Nat} (hv : v < 2 ^ 32) : x.value v < 2 ^ 32 := by
  have hput {n hi lo w : Nat} (hn : n < 2 ^ 32) (hl : lo ≤ hi) (hh : hi < 32) : setBits n hi lo w < 2 ^ 32 :=
    setBits_lt _ _ _ _ _ hl hh hn
  unfold PartCfgPend.value
  extract_lets w
  have hw : w < 2 ^ 32 := by
    unfold w
    split
    · exact hput hv (by omega) (by omega)
    · exact hv
  clear_value w
  split
  · exact hput (hput hw (by omega) (by omega)) (by omega) (by omega)
  · exact hw

/-- The change that a value asks for gives its fields. -/
theorem value_fnPartChange (f p n eff : Nat) :
    let v := (fnPartChange f p n eff).value eff
    shareOf v = shareOf n ∧ tilesOf v = tilesOf n ∧ accmOf v = accmOf n := by
  have hshare (a b c : Nat) : shareOf (setBits (setBits a 15 12 b) 19 16 c) = shareOf a := by
    rw [shareOf, bitsOf_setBits_ne _ _ _ _ _ _ (by omega) (by omega), bitsOf_setBits_ne _ _ _ _ _ _ (by omega) (by omega)]
    rfl
  have hself : shareOf (setBits eff 8 0 (shareOf n)) = shareOf n :=
    (bitsOf_setBits_self _ _ _ _ (by omega)).trans (Nat.mod_eq_of_lt (bitsOf_lt n 8 0))
  have htiles (a c : Nat) : tilesOf (setBits (setBits a 15 12 (tilesOf n)) 19 16 c) = tilesOf n := by
    rw [tilesOf, bitsOf_setBits_ne _ _ _ _ _ _ (by omega) (by omega), bitsOf_setBits_self _ _ _ _ (by omega)]
    exact Nat.mod_eq_of_lt (bitsOf_lt n 15 12)
  have haccm (a : Nat) : accmOf (setBits a 19 16 (accmOf n)) = accmOf n :=
    (bitsOf_setBits_self _ _ _ _ (by omega)).trans (Nat.mod_eq_of_lt (bitsOf_lt n 19 16))
  have hkeep (a : Nat) : tilesOf (setBits eff 8 0 a) = tilesOf eff ∧ accmOf (setBits eff 8 0 a) = accmOf eff :=
    ⟨bitsOf_setBits_ne _ _ _ _ _ _ (by omega) (by omega), bitsOf_setBits_ne _ _ _ _ _ _ (by omega) (by omega)⟩
  intro v
  unfold v PartCfgPend.value fnPartChange
  by_cases hs : shareOf n = shareOf eff <;> by_cases ht : tilesOf n = tilesOf eff ∧ accmOf n = accmOf eff
  · simp [hs, ht]
  · simp [hs, ht, hshare, htiles, haccm]
  · simp [hs, ht, hself, hkeep]
  · simp [hs, ht, hshare, hself, htiles, haccm]

section
variable {s : State} {f p v : Nat}

theorem setFnPartEff_reg (f p v : Nat) (s : State) : (setFnPartEff f p v s).reg = (fnPartPut f p v s).reg := by
  have hmoved : (fnPartMoved f p v s).reg = (fnPartPut f p v s).reg := by
    rw [fnPartMoved, (clearMoved_frame ..).reg_eq (by decide), (reallotPart_frame ..).reg_eq (by decide)]
  rw [setFnPartEff_eq]
  split
  · exact hmoved
  · rw [(flushPlans_frame ..).reg_eq (by decide), hmoved]

theorem setFnPartEff_fnPartEff_self (hv : v < 2 ^ 32) : (setFnPartEff f p v s).fnPartEff f p = v := by
  simp only [State.fnPartEff, setFnPartEff_reg, fnPartPut, tgetD_tputD_self, BitVec.toNat_ofNat, Nat.mod_eq_of_lt hv]

theorem applyPartPend_fnPartCfg (p : Nat) (s : State) : (applyPartPend p s).reg.fnPartCfg = s.reg.fnPartCfg :=
  applyPartPend_ind (fun t => t.reg.fnPartCfg = s.reg.fnPartCfg) p rfl (fun _ _ h => h)
    (fun _ _ _ h => (congrArg Regs.fnPartCfg (setFnPartEff_reg ..)).trans h)

theorem fnRunningOn_of_not_partRunning (h : s.partRunning p = false) (f : Nat) : s.fnRunningOn f p = false := by
  simp only [State.partRunning, State.fnRunningOn, List.any_eq_false, Bool.and_eq_true, not_and] at h ⊢
  exact fun e he hrun => h e he hrun.2

/-- The only change that waits for a partition with nothing in progress is made in full. -/
theorem applyPartPend_single {x : PartCfgPend} (hx : s.reg.partPend.filter (fun y => y.part = p) = [x])
    (hrun : s.partRunning p = false) : (applyPartPend p s).fnPartEff x.fn p = x.value (s.fnPartEff x.fn p) := by
  have hrunOn := fnRunningOn_of_not_partRunning hrun x.fn
  unfold applyPartPend
  rw [hx, List.foldl_cons, List.foldl_nil]
  extract_lets shareNow tilesNow v0 v1 v rest keep w
  have hv : v = x.value v0 := by
    have hshare : shareNow = x.share.isSome := by simp [shareNow, hrunOn]
    have htiles : tilesNow = x.tiles.isSome := by simp [tilesNow, hrun]
    unfold v v1 PartCfgPend.value
    rw [hshare, htiles]
    cases x.share <;> cases x.tiles <;> rfl
  clear_value v
  subst hv
  split
  next hsame => exact hsame.symm
  next => exact setFnPartEff_fnPartEff_self (x.value_lt (BitVec.isLt _))

end

/-! ## FN_PART_CFG_WRITE -/

section
variable {s : State} {f p : Nat}

theorem exec_fnPartCfgWrite {v : Word} (hs : s.serving) (hf : f < 512) (hp : p < 16) :
    exec (.fnPartCfgWrite f p v) s = .next (fnPartEffect f p v s) :=
  congrArg Host.Outcome.next (if_pos (by simp [hs, hf, hp]))

theorem askFnPart_partPend (s : State) (f p n r : Nat) :
    (s.askFnPart f p n r).reg.partPend = pendAfter f p (s.changeAsked f p n) s.reg.partPend := rfl

/-- What a partition without a running tick makes of the value asked for, where no other change waits for it. -/
theorem askFnPart_takesEffect {n r : Nat} (hrun : s.partRunning p = false)
    (hpend : ∀ y ∈ s.reg.partPend, y.part = p → y.fn = f) :
    (applyPartPend p (s.askFnPart f p n r)).fnPartEff f p = (s.changeAsked f p n).value (s.fnPartEff f p) := by
  have hwaits : (s.askFnPart f p n r).reg.partPend.filter (fun y => y.part = p) =
      if (s.changeAsked f p n).isDone then [] else [s.changeAsked f p n] :=
    askFnPart_partPend s f p n r ▸ pendAfter_filter_part (p := p) (s.changeAsked f p n) rfl hpend
  split at hwaits
  next hdone =>
    have hnone : ∀ y ∈ (s.askFnPart f p n r).reg.partPend, y.part ≠ p := by
      simpa [List.filter_eq_nil_iff] using hwaits
    obtain ⟨hshare, htiles⟩ := Bool.and_eq_true _ _ ▸ hdone
    rw [applyPartPend_of_none hnone, PartCfgPend.value, Option.isNone_iff_eq_none.1 hshare, Option.isNone_iff_eq_none.1 htiles]
    rfl
  next =>
    have heff : (s.askFnPart f p n r).fnPartEff f p = s.fnPartEff f p := rfl
    rw [← heff]
    exact applyPartPend_single (x := s.changeAsked f p n) hwaits hrun

theorem askFnPart_off (s : State) (f p n r : Nat) : SameOff [.reg] s (s.askFnPart f p n r) := (Kept.reg (by decide) (.refl _ s)).off

theorem putFnPart_off (s : State) (f p n : Nat) : SameOff [.reg] s (s.putFnPart f p n) := (Kept.reg (by decide) (.refl _ s)).off

/-- PEND reads as set exactly while the allotments asked for are not those in effect. -/
theorem fnPartRead_askFnPart {n r : Nat} : bitOf ((s.askFnPart f p n r).fnPartRead f p) 30 ↔
    tilesOf n ≠ tilesOf (s.fnPartEff f p) ∨ accmOf n ≠ accmOf (s.fnPartEff f p) := by
  have hany := pendAfter_any_tiles (f := f) (p := p) (s.changeAsked f p n) rfl rfl s.reg.partPend
  rw [← askFnPart_partPend s f p n r] at hany
  have hbit (b : Bool) : bitOf (bit01 b) 0 = b := by cases b <;> rfl
  rw [State.fnPartRead, bitOf_setBits _ _ _ _ _ (by omega), if_pos ⟨by omega, by omega⟩, hbit, hany]
  simp only [State.changeAsked, fnPartChange, tilesOf_fnPartFields, accmOf_fnPartFields]
  split
  next h => simp [h]
  next h => exact iff_of_true rfl (not_and_or.1 h)

end

/-- Settles O21: a refused value leaves the effective ones, an accepted one is held and asks for its change, which takes effect at
once where `applyPartPend` finds nothing in progress. -/
theorem partitionSharesAreChecked : Obligations.PartitionSharesAreChecked := by
  intro s f p v hs hf hp n refused
  have hrefused : refused ↔ fnPartRefused s f p n = true := by
    simp only [refused, fnPartRefused, Bool.or_eq_true, Bool.and_eq_true, decide_eq_true_eq, beq_iff_eq, bne_iff_ne,
      List.any_eq_true, ne_eq, or_assoc, and_assoc]
  refine ⟨fun h => ?_, fun h => ?_⟩
  · refine ⟨_, (exec_fnPartCfgWrite hs hf hp).trans (congrArg _ (fnPartEffect_of_refused (hrefused.1 h))), putFnPart_off .., ?_,
      fun _ _ => rfl⟩
    exact fnPart_putFnPart (setBits_lt _ _ _ _ _ (by omega) (by omega) fnPart_lt)
  · obtain ⟨r, heff⟩ := fnPartEffect_of_accepted (Bool.eq_false_iff.2 (mt hrefused.2 h))
    have hexec := (exec_fnPartCfgWrite hs hf hp).trans (congrArg _ heff)
    obtain ⟨hshare, htiles, haccm⟩ := fields_setBits_rej (fnPartFields n) r
    rw [shareOf_fnPartFields] at hshare
    rw [tilesOf_fnPartFields] at htiles
    rw [accmOf_fnPartFields] at haccm
    by_cases hticks : s.partTicks p
    · rw [if_pos hticks] at hexec
      refine ⟨_, hexec, ?_, ?_, ?_, fun _ => ⟨askFnPart_off .., fun _ _ => rfl, fnPartRead_askFnPart⟩, fun hno => ?_⟩
      · rw [fnPart_askFnPart, hshare]
      · rw [fnPart_askFnPart, htiles]
      · rw [fnPart_askFnPart, haccm]
      · exact absurd hticks (Bool.eq_false_iff.1 hno)
    · rw [if_neg hticks] at hexec
      have hheld : (applyPartPend p (s.askFnPart f p n r)).fnPart f p = setBits (fnPartFields n) 31 31 r := by
        rw [State.fnPart, applyPartPend_fnPartCfg]
        exact fnPart_askFnPart
      refine ⟨_, hexec, ?_, ?_, ?_, fun hyes => absurd hyes hticks, fun _ hrun hpend => ?_⟩
      · rw [hheld, hshare]
      · rw [hheld, htiles]
      · rw [hheld, haccm]
      · rw [askFnPart_takesEffect hrun hpend]
        have hvalue := value_fnPartChange f p (fnPartFields n) (s.fnPartEff f p)
        rwa [shareOf_fnPartFields, tilesOf_fnPartFields, accmOf_fnPartFields] at hvalue

end Sys2Proof.Machine
end

section
/-!
WAIT_TIMEOUT (R316): what absorbing an execution leaves of those of its number, and which executions a lead point absorbs.
-/

namespace Sys2Proof.Machine

open Sys2Proof

/-! ## Absorbing executions one by one -/

theorem exec?_eq_head? (s : State) (i : Nat) : s.exec? i = (s.execsOf i).head? := by
  rw [State.exec?, State.execsOf, List.head?_filter]

/-- An execution that is absorbed, under its own number. -/
theorem execsOf_absorbExec_self {i : Nat} {s : State} {e : Exec} (withCompletion : Bool) (h : s.exec? i = some e) :
    (absorbExec withCompletion i s).execsOf i =
      if isQueued e.phase then [] else (s.execsOf i).map (fun _ => { e with phase := .absorbed }) := by
  obtain rfl : e.id = i := (mem_execsOf.1 (exec?_eq_some h)).2
  unfold absorbExec
  rw [h]
  dsimp -zeta only
  extract_lets u v
  have hv : v.execsOf e.id = if isQueued e.phase then [] else (s.execsOf e.id).map (fun _ => { e with phase := .absorbed }) := by
    unfold v
    split
    · exact execsOf_dropExec_self ..
    · exact execsOf_setExec_self { e with phase := .absorbed } u
  clear_value v
  split <;> exact hv

section
variable {g : State → Exec → State} (hg : ∀ t e, ∃ u : State, u.adm = t.adm ∧ g t e = absorbExec true e.id u)
include hg

/-- Executions of other numbers than those absorbed stay. -/
theorem foldl_absorb_others {l : List Exec} {i : Nat} (hl : ∀ e ∈ l, e.id ≠ i) (s : State) :
    (l.foldl g s).execsOf i = s.execsOf i := by
  refine List.foldlRecOn (motive := fun t => t.execsOf i = s.execsOf i) l g rfl (fun t ht e he => ?_)
  obtain ⟨u, hu, hgu⟩ := hg t e
  rw [hgu, execsOf_absorbExec_ne (hl e he), execsOf_congr (congrArg Adm.execs hu), ht]

/-- Each started execution of a list of distinct ones is absorbed. -/
theorem foldl_absorb_each {l : List Exec} (hn : (l.map (·.id)).Nodup) {e : Exec} (he : e ∈ l) {s : State}
    (hs : s.execsOf e.id = [e]) (hq : isQueued e.phase = false) :
    (l.foldl g s).execsOf e.id = [{ e with phase := .absorbed }] := by
  obtain ⟨l₁, l₂, rfl, h₁, h₂⟩ := exists_append_cons_of_mem hn he
  obtain ⟨u, hu, hgu⟩ := hg (l₁.foldl g s) e
  have hue : u.execsOf e.id = [e] := by
    rw [execsOf_congr (congrArg Adm.execs hu), foldl_absorb_others hg h₁, hs]
  rw [List.foldl_append, List.foldl_cons, foldl_absorb_others hg h₂, hgu,
    execsOf_absorbExec_self true (by rw [exec?_eq_head?, hue]; rfl), hq, hue]
  rfl

end

/-! ## The executions whose WAIT has timed out -/

/-- The WAIT of an execution of the partition has stayed unmet for its function's WAIT_TIMEOUT held ticks. -/
def State.waitsOut (s : State) (p : Nat) (e : Exec) : Bool :=
  e.phase == .running && e.plan.key.part == p && !(s.part p).prevAdv && waitTimeout s e.ticket.fn ≤ e.waitHeld + 1 &&
    e.plan.cores.any (fun c => s.blockedOn c e.id)

theorem waitsOut_iff {s : State} {p : Nat} {e : Exec} : s.waitsOut p e ↔ e.phase = .running ∧ e.plan.key.part = p ∧
    (s.part p).prevAdv = false ∧ waitTimeout s e.ticket.fn ≤ e.waitHeld + 1 ∧ ∃ c ∈ e.plan.cores, s.blockedOn c e.id := by
  simp [State.waitsOut, and_assoc]

/-- The executions that have timed out are absorbed in their order; the records raised change none. -/
theorem waitTimeouts_eq_foldl (p : Nat) (s : State) : ∃ g : State → Exec → State,
    (∀ t e, ∃ u : State, u.adm = t.adm ∧ g t e = absorbExec true e.id u) ∧
    waitTimeouts p s = (s.adm.execs.filter (s.waitsOut p)).foldl g s :=
  ⟨_, fun _ _ => ⟨_, (raiseOncePer_frame ..).adm_eq (by decide), rfl⟩, rfl⟩

/-- Settles O41: the executions are numbered distinctly, so each is absorbed under its own number and no other is touched. -/
theorem unmetWaitsTimeOut : Obligations.UnmetWaitsTimeOut := by
  intro s p hticks hlead hn due
  have hdue (e : Exec) : due e ↔ s.waitsOut p e := waitsOut_iff.symm
  have hexec : exec (.waitTimeout p) s = .next (settleState (waitTimeouts p s)) :=
    congrArg Host.Outcome.next (if_pos (by simp [hticks, hlead]))
  obtain ⟨g, hg, hfold⟩ := waitTimeouts_eq_foldl p s
  refine ⟨_, hexec, fun e he hd => ?_, fun e he hd => ?_⟩ <;> rw [settleState_adm, hfold]
  · have hrunning : isQueued e.phase = false := by rw [hd.1]; rfl
    have habs := foldl_absorb_each hg (hn.sublist (List.filter_sublist.map _)) (List.mem_filter.2 ⟨he, (hdue e).1 hd⟩)
      (execsOf_of_nodup hn he) hrunning
    exact (mem_execsOf.1 (habs ▸ List.mem_singleton_self _)).1
  · have hothers : ∀ x ∈ s.adm.execs.filter (s.waitsOut p), x.id ≠ e.id := by
      intro x hx hid
      obtain ⟨hxs, hxd⟩ := List.mem_filter.1 hx
      exact hd ((hdue e).2 (List.inj_on_of_nodup_map hn hxs he hid ▸ hxd))
    have hkept := foldl_absorb_others hg hothers s
    exact (mem_execsOf.1 (hkept ▸ mem_execsOf.2 ⟨he, rfl⟩)).1

end Sys2Proof.Machine
end

section
/-!
Function reset (R298, R310, R441): what the reset of a function leaves of its own work and queues, and that neither the settling
after it nor the reset of another function brings any of it back.
-/

namespace Sys2Proof.Machine

open Sys2Proof

/-! ## Queues that do not come back -/

/-- No pair and no event queue comes into being, and VF Enable stays. -/
structure HostIf.NoneAdded (h k : HostIf) : Prop where
  pairs : ∀ i, tget h.qps i = none → tget k.qps i = none
  events : ∀ f, tget h.eqs f = none → tget k.eqs f = none
  vfEn : k.vfEn = h.vfEn
  numVfs : k.numVfs = h.numVfs

section
variable {h k l : HostIf}

theorem HostIf.NoneAdded.refl (h : HostIf) : h.NoneAdded h := ⟨fun _ e => e, fun _ e => e, rfl, rfl⟩

theorem HostIf.NoneAdded.trans (hk : h.NoneAdded k) (kl : k.NoneAdded l) : h.NoneAdded l :=
  ⟨fun i e => kl.pairs i (hk.pairs i e), fun f e => kl.events f (hk.events f e), kl.vfEn.trans hk.vfEn, kl.numVfs.trans hk.numVfs⟩

theorem HostIf.NoneAdded.of_eq (hq : k.qps = h.qps) (he : k.eqs = h.eqs) (hv : k.vfEn = h.vfEn) (hn : k.numVfs = h.numVfs) :
    h.NoneAdded k :=
  ⟨fun i e => by rw [hq, e], fun f e => by rw [he, e], hv, hn⟩

theorem HostIf.NoneAdded.ite {p : Prop} {_ : Decidable p} (hk : h.NoneAdded k) (hl : h.NoneAdded l) :
    h.NoneAdded (if p then k else l) := by
  split <;> assumption

theorem HostIf.NoneAdded.foldl {α : Type} {f : HostIf → α → HostIf} (hf : ∀ (k : HostIf) x, k.NoneAdded (f k x))
    (l : List α) (h : HostIf) : h.NoneAdded (l.foldl f h) :=
  foldl_inv (h.NoneAdded ·) f l h (.refl h) (fun k x e => e.trans (hf k x))

/-- A change of a listed key lists no other. -/
theorem tget_tput_none {α : Type} {t : Tab α} {k j : Nat} {x v : α} (hk : tget t k = some x) (hj : tget t j = none) :
    tget (tput t k v) j = none := by
  rw [tget_tput_ne _ _ (fun e => by simp [← e, hj] at hk), hj]

theorem HostIf.NoneAdded.pair {i : Nat} {p x : QPair} (hx : tget h.qps i = some x) : h.NoneAdded { h with qps := tput h.qps i p } :=
  ⟨fun _ => tget_tput_none hx, fun _ e => e, rfl, rfl⟩

theorem HostIf.NoneAdded.event {f : Nat} {e x : EQueue} (hx : tget h.eqs f = some x) :
    h.NoneAdded { h with eqs := tput h.eqs f e } :=
  ⟨fun _ e => e, fun _ => tget_tput_none hx, rfl, rfl⟩

end

theorem devWrite_noneAdded (h : HostIf) (a : Nat) (bs : List Byte) : h.NoneAdded (h.devWrite a bs) := .of_eq rfl rfl rfl rfl

theorem blkWrite_noneAdded (h : HostIf) (a : Nat) (b : Block) : h.NoneAdded (h.blkWrite a b) :=
  .ite (.of_eq rfl rfl rfl rfl) (devWrite_noneAdded ..)

theorem signal_noneAdded (h : HostIf) (fn v : Nat) : h.NoneAdded (h.signal fn v) :=
  .ite (.of_eq rfl rfl rfl rfl) (.of_eq rfl rfl rfl rfl)

theorem postOne_noneAdded {h : HostIf} {fn q : Nat} {x : QPair} (hx : tget h.qps (qkey fn q) = some x) (p : QPair) (c : Compl) :
    h.NoneAdded (h.postOne fn q p c) := by
  unfold HostIf.postOne
  generalize complBytes c p.cqPhase = bs
  extract_lets w t p1 fire p2 v
  have hv : h.NoneAdded v := (devWrite_noneAdded h (p.cqBase + 64 * p.cqTail) bs).trans (.pair (h := w) hx)
  clear_value v
  exact .ite (hv.trans (signal_noneAdded ..)) hv

theorem postReady_noneAdded (fn q : Nat) (cs : List Compl) (h : HostIf) : h.NoneAdded (h.postReady fn q cs) := by
  induction cs generalizing h with
  | nil => exact .refl h
  | cons c r ih =>
    unfold HostIf.postReady
    split
    · exact .refl h
    next p hp => exact .ite (.pair hp) ((postOne_noneAdded hp ..).trans (ih _))

theorem drop_noneAdded (h : HostIf) (i : Nat) : h.NoneAdded { h with qps := tdel h.qps i } := by
  refine ⟨fun j hj => ?_, fun _ e => e, rfl, rfl⟩
  by_cases hij : j = i
  · exact hij ▸ tget_tdel_self ..
  · exact (tget_tdel_ne _ hij).trans hj

theorem finishDelete_noneAdded (h : HostIf) (fn q : Nat) : h.NoneAdded (h.finishDelete fn q) := by
  unfold HostIf.finishDelete
  split
  · exact .refl h
  · split
    · exact .refl h
    · refine .ite ?_ (.refl h)
      dsimp only
      split
      · exact drop_noneAdded ..
      next p0 hp0 =>
        exact (drop_noneAdded ..).trans (.trans (.pair (h := { h with qps := tdel h.qps (qkey fn q) }) hp0) (postReady_noneAdded ..))

theorem complete_noneAdded (h : HostIf) (c : Compl) : h.NoneAdded (h.complete c) := by
  unfold HostIf.complete
  split
  · exact .refl h
  next p hp => exact (HostIf.NoneAdded.pair hp).trans ((postReady_noneAdded ..).trans (finishDelete_noneAdded ..))

theorem pushEvent_noneAdded (h : HostIf) (fn : Nat) (e : EventRec) : h.NoneAdded (h.pushEvent fn e) := by
  unfold HostIf.pushEvent
  split
  · exact .refl h
  next x hx =>
    refine .ite (.of_eq rfl rfl rfl rfl) ?_
    generalize eventBytes { e with seq := x.seq } x.phase = bs
    extract_lets w t q1 fire q2 v
    have hv : h.NoneAdded v := (devWrite_noneAdded h (x.base + 64 * x.tail) bs).trans (.event (h := w) hx)
    clear_value v
    exact .ite (hv.trans (signal_noneAdded ..)) hv

theorem route_noneAdded (h : HostIf) (e : EventRec) (fns : List Nat) : h.NoneAdded (h.route e fns) := by
  unfold HostIf.route
  extract_lets k
  have hk : h.NoneAdded k := .ite (.foldl (fun l f => pushEvent_noneAdded l f (e.viewOf f)) fns h) (.refl h)
  exact .ite (hk.trans (pushEvent_noneAdded ..)) hk

/-! ## What the settling of a reset keeps -/

/-- The registers of a function that stand at its reset: windows, FN_PART_CFG and FM_FN_CFG (R310). -/
def Regs.fnCfg (r : Regs) : Tab Dword × Tab Word × Tab Word := (r.mmuWin, r.fnPartCfg, r.fmFnCfg)

/-- No queue comes into being, VF Enable stays, and so do the windows, FN_PART_CFG and FM_FN_CFG of every function. -/
structure FnsKept (s t : State) : Prop where
  host : s.host.NoneAdded t.host
  cfg : t.reg.fnCfg = s.reg.fnCfg

section
variable {s t u : State}

theorem FnsKept.refl (s : State) : FnsKept s s := ⟨.refl _, rfl⟩

theorem FnsKept.trans (h : FnsKept s t) (k : FnsKept t u) : FnsKept s u := ⟨h.host.trans k.host, k.cfg.trans h.cfg⟩

theorem FnsKept.ite {p : Prop} {_ : Decidable p} (ht : FnsKept s t) (hu : FnsKept s u) : FnsKept s (if p then t else u) := by
  split <;> assumption

theorem FnsKept.foldl {α : Type} {f : State → α → State} (hf : ∀ t x, FnsKept t (f t x)) (l : List α) (s : State) :
    FnsKept s (l.foldl f s) :=
  foldl_inv (FnsKept s ·) f l s (.refl s) (fun t x h => h.trans (hf t x))

theorem FnsKept.of_host (h : s.host.NoneAdded t.host) (hr : t.reg = s.reg) : FnsKept s t := ⟨h, by rw [hr]⟩

theorem FnsKept.of_kept {L : List Comp} (h : Kept L s t) (hL : Comp.host ∉ L ∧ Comp.reg ∉ L := by decide) : FnsKept s t :=
  .of_host ((h.off.same .host hL.1 : t.host = s.host) ▸ .refl _) (h.reg_eq hL.2)

theorem FnsKept.winCfg (h : FnsKept s t) (f w : Nat) : t.winCfg f w = s.winCfg f w := by
  have hwin : t.reg.mmuWin = s.reg.mmuWin := congrArg Prod.fst h.cfg
  rw [State.winCfg, State.winCfg, hwin]

theorem FnsKept.fnExists (h : FnsKept s t) (f : Nat) : t.fnExists f = s.fnExists f := by
  rw [State.fnExists, State.fnExists, h.host.vfEn, h.host.numVfs]

theorem FnsKept.fnPart (h : FnsKept s t) (f p : Nat) : t.fnPart f p = s.fnPart f p := by
  have hpart : t.reg.fnPartCfg = s.reg.fnPartCfg := congrArg (fun x => x.2.1) h.cfg
  rw [State.fnPart, State.fnPart, hpart]

theorem FnsKept.fmCfg (h : FnsKept s t) (f : Nat) : t.fmCfg f = s.fmCfg f := by
  have hfm : t.reg.fmFnCfg = s.reg.fmFnCfg := congrArg (fun x => x.2.2) h.cfg
  rw [State.fmCfg, State.fmCfg, hfm]

end

theorem complete_fnsKept (c : Compl) (s : State) : FnsKept s (complete c s) := .of_host (complete_noneAdded ..) rfl

theorem completeSt_fnsKept (t : Ticket) (st : Nat) (s : State) : FnsKept s (completeSt t st s) := complete_fnsKept ..

theorem raiseFor_fnsKept (e : EventRec) (fns : List Nat) (s : State) : FnsKept s (raiseFor e fns s) :=
  .of_host (route_noneAdded ..) rfl

theorem raiseOncePer_fnsKept (gap key : Nat) (e : EventRec) (fns : List Nat) (s : State) : FnsKept s (raiseOncePer gap key e fns s) :=
  .ite (.refl s) ((raiseFor_fnsKept e fns s).trans (.of_host (.refl _) rfl))

theorem raiseMem_fnsKept (code f die : Nat) (core info : Option Nat) (dva : Nat) (s : State) :
    FnsKept s (raiseMem code f die core info dva s) := raiseOncePer_fnsKept ..

theorem deliver_fnsKept (f die key : Nat) (core : Option Nat) (dva : Nat) (b : Block) (s : State) :
    FnsKept s (deliver f die key core dva b s).2 := by
  have hverify (b : Block) (s : State) : FnsKept s (verifyBlk f die core dva b s).2 := by
    unfold verifyBlk
    split
    · exact .refl s
    · exact .trans (t := addMmuStat f 47 32 1 s) ⟨.refl _, rfl⟩ (raiseMem_fnsKept ..)
  unfold deliver
  split
  · exact (raiseMem_fnsKept ..).trans (hverify ..)
  · exact hverify ..

theorem egressBlk_fnsKept (f k dva : Nat) (s : State) : FnsKept s (egressBlk f k dva s).2 := by
  unfold egressBlk
  dsimp only
  split
  · exact .refl s
  · exact deliver_fnsKept ..

theorem setPte_fnsKept (r : PteRef) (v : Nat) (s : State) : FnsKept s (s.setPte r v) := .of_kept (State.setPte_frame ..)

theorem writeBack_fnsKept (r : PteRef) (s : State) : FnsKept s (writeBack r s) := by
  unfold writeBack
  refine .ite (.trans (.foldl (fun t i => ?_) _ s) (setPte_fnsKept ..)) (.refl s)
  exact .trans (egressBlk_fnsKept ..) (.of_host (blkWrite_noneAdded ..) rfl)

theorem mmuOpPage_fnsKept (op : MmuOp) (f w : Nat) (s : State) (rp : PteRef × Nat) : FnsKept s (mmuOpPage op f w s rp) := by
  cases op with
  | unmap => exact .trans (writeBack_fnsKept ..) (.of_kept (clearPte_frame ..))
  | protect _ => exact setPte_fnsKept ..
  | syncIn => exact .trans (writeBack_fnsKept rp.1 s) (.ite (setPte_fnsKept ..) (.refl _))
  | disable _ => exact .trans (writeBack_fnsKept ..) (.of_kept (clearPte_frame ..))

theorem applyMmuOp_fnsKept (op : MmuOp) (f w lo n : Nat) (s : State) : FnsKept s (applyMmuOp op f w lo n s) := by
  have hpages : FnsKept s ((s.pagesIn f w lo (lo + n)).foldl (mmuOpPage op f w) s) :=
    .foldl (fun t x => mmuOpPage_fnsKept op f w t x) _ s
  cases op with
  | disable _ => exact hpages.trans ⟨.refl _, rfl⟩
  | _ => exact hpages

theorem applyMmuPend_fnsKept (f : Nat) (s : State) : FnsKept s (applyMmuPend f s) := by
  unfold applyMmuPend
  extract_lets mine _ s'
  refine .trans (t := s') ⟨.refl _, rfl⟩ (.foldl (fun t m => ?_) mine s')
  refine .trans (applyMmuOp_fnsKept m.op f (m.dva / 2 ^ 32) (m.dva % 2 ^ 32) m.pages t) ?_
  cases m.ticket with
  | none => exact .refl _
  | some k => exact completeSt_fnsKept ..

theorem settleState_fnsKept (s : State) : FnsKept s (settleState s) := by
  have henter (m : ModState) : FnsKept s (enterState m s) :=
    .ite (.refl s) (.trans (t := { s with life := { s.life with state := m } }) ⟨.refl _, rfl⟩ (raiseFor_fnsKept ..))
  exact .ite (henter _) (.refl s)

theorem setFnPartEff_fnsKept (f p v : Nat) (s : State) : FnsKept s (setFnPartEff f p v s) where
  host := ((setFnPartEff_frame f p v s).off.same .host (by decide) : _ = s.host) ▸ .refl _
  cfg := (congrArg Regs.fnCfg (setFnPartEff_reg f p v s)).trans rfl

theorem applyPartPend_fnsKept (p : Nat) (s : State) : FnsKept s (applyPartPend p s) :=
  applyPartPend_ind (FnsKept s ·) p (.refl s) (fun _ _ h => ⟨h.host, h.cfg⟩) (fun _ _ _ h => h.trans (setFnPartEff_fnsKept ..))

theorem settlePend_fnsKept (s : State) : FnsKept s (settlePend s) :=
  settlePend_ind (FnsKept s ·) (.refl s) (fun _ p h => h.trans (applyPartPend_fnsKept p _))

/-! ## No work of a function -/

/-- The function has no plan, no execution but absorbed ones, and no submission. -/
structure NoWork (f : Nat) (a : Adm) : Prop where
  plans : ∀ p ∈ a.plans, p.key.fn ≠ f
  execs : ∀ e ∈ a.execs, e.ticket.fn = f → e.phase = .absorbed
  subs : ∀ ae ∈ a.aes, ∀ x ∈ ae.subs, x.ticket.fn ≠ f

section
variable {f : Nat} {s : State}

theorem readmit_noWork {e : Exec} (he : e.ticket.fn ≠ f) (h : NoWork f s.adm) : NoWork f (readmit e s).adm where
  plans p hp := h.plans p (List.mem_filter.1 hp).1
  execs x hx := h.execs x (List.mem_filter.1 hx).1
  subs ae hae x hx := by
    obtain ⟨i, hi, rfl⟩ := List.mem_mapIdx.1 hae
    have hold : ∀ y ∈ s.adm.aes[i].subs, y.ticket.fn ≠ f := h.subs _ (List.getElem_mem hi)
    dsimp only [dropExec] at hx
    split at hx
    · rcases List.mem_cons.1 hx with rfl | hx
      · exact he
      · exact hold x hx
    · exact hold x hx

/-- What goes back to its engine is an execution that waits, so none of a function without work. -/
theorem flushPlans_noWork (which : Plan → Bool) (h : NoWork f s.adm) : NoWork f (flushPlans which s).adm := by
  unfold flushPlans
  extract_lets back _ u
  have hu : NoWork f u.adm := ⟨fun p hp => h.plans p (List.mem_filter.1 hp).1, h.execs, h.subs⟩
  refine List.foldlRecOn (motive := fun t : State => NoWork f t.adm) back.reverse _ hu (fun t ht e he => readmit_noWork ?_ ht)
  intro hf
  obtain ⟨hmem, hq⟩ := List.mem_filter.1 (List.mem_reverse.1 he)
  rw [h.execs e hmem hf] at hq
  exact absurd hq (by simp [isQueued])

theorem setFnPartEff_noWork (g p v : Nat) (h : NoWork f s.adm) : NoWork f (setFnPartEff g p v s).adm := by
  have hmoved : NoWork f (fnPartMoved g p v s).adm := fnPartMoved_adm g p v s ▸ h
  rw [setFnPartEff_eq]
  split
  · exact hmoved
  · exact flushPlans_noWork _ hmoved

theorem settlePend_noWork (h : NoWork f s.adm) : NoWork f (settlePend s).adm :=
  settlePend_ind (fun t => NoWork f t.adm) h fun _ p ht =>
    applyPartPend_ind (fun t => NoWork f t.adm) p ht (fun _ _ hu => hu) (fun _ _ _ hu => setFnPartEff_noWork _ _ _ hu)

end

/-- Absorbing leaves plans and engines alone. -/
theorem absorbExec_rest (withCompletion : Bool) (i : Nat) (s : State) :
    (absorbExec withCompletion i s).adm.plans = s.adm.plans ∧ (absorbExec withCompletion i s).adm.aes = s.adm.aes := by
  unfold absorbExec
  split
  · exact ⟨rfl, rfl⟩
  · extract_lets u v
    have hv : v.adm.plans = s.adm.plans ∧ v.adm.aes = s.adm.aes := by
      unfold v
      split <;> exact ⟨rfl, rfl⟩
    clear_value v
    split <;> exact hv

/-- After an absorption there are the executions there were, and absorbed ones of its number only. -/
theorem absorbExec_execs {withCompletion : Bool} {i : Nat} {s : State} {e : Exec} (he : e ∈ (absorbExec withCompletion i s).adm.execs) :
    (e ∈ s.adm.execs ∧ e.id ≠ i) ∨ e.phase = .absorbed := by
  have hmem : e ∈ (absorbExec withCompletion i s).execsOf e.id := mem_execsOf.2 ⟨he, rfl⟩
  by_cases hi : i = e.id
  · right
    cases hx : s.exec? i with
    | none =>
      have hno : s.execsOf i = [] := List.head?_eq_none_iff.1 (exec?_eq_head? s i ▸ hx)
      have hsame : absorbExec withCompletion i s = s := by rw [absorbExec, hx]
      rw [hsame, ← hi, hno] at hmem
      exact absurd hmem List.not_mem_nil
    | some x =>
      rw [← hi, execsOf_absorbExec_self _ hx] at hmem
      split at hmem
      · exact absurd hmem List.not_mem_nil
      · obtain ⟨-, -, rfl⟩ := List.mem_map.1 hmem
        rfl
  · rw [execsOf_absorbExec_ne hi] at hmem
    exact .inl ⟨(mem_execsOf.1 hmem).1, Ne.symm hi⟩

theorem absorbExec_noWork {f : Nat} (withCompletion : Bool) (i : Nat) {s : State} (h : NoWork f s.adm) :
    NoWork f (absorbExec withCompletion i s).adm := by
  obtain ⟨hplans, haes⟩ := absorbExec_rest withCompletion i s
  refine ⟨hplans ▸ h.plans, fun e he hf => ?_, haes ▸ h.subs⟩
  exact (absorbExec_execs he).elim (fun hold => h.execs e hold.1 hf) id

/-- After absorptions of several numbers there are the executions of other numbers, and absorbed ones. -/
theorem foldl_absorbExec_execs {ids : List Nat} {s : State} {e : Exec}
    (he : e ∈ (ids.foldl (fun s i => absorbExec false i s) s).adm.execs) : (e ∈ s.adm.execs ∧ e.id ∉ ids) ∨ e.phase = .absorbed := by
  induction ids generalizing s with
  | nil => exact .inl ⟨he, List.not_mem_nil⟩
  | cons i r ih =>
    rcases ih he with ⟨hmem, hr⟩ | habs
    · exact (absorbExec_execs hmem).imp_left fun hold => ⟨hold.1, by simp [hold.2, hr]⟩
    · exact .inr habs

/-- The executions of the function are absorbed. -/
def fnAbsorbed (f : Nat) (s : State) : State :=
  ((s.adm.execs.filter (fun e => e.ticket.fn = f)).map (·.id)).foldl (fun s i => absorbExec false i s) s

theorem fnResetWork_eq (f : Nat) (s : State) : fnResetWork f s = { fnAbsorbed f s with adm := { (fnAbsorbed f s).adm with
      aes := (fnAbsorbed f s).adm.aes.map (fun ae => { ae with subs := ae.subs.filter (fun x => x.ticket.fn ≠ f) }),
      plans := (fnAbsorbed f s).adm.plans.filter (fun p => p.key.fn ≠ f) } } := rfl

theorem fnResetWork_clears (f : Nat) (s : State) : NoWork f (fnResetWork f s).adm := by
  rw [fnResetWork_eq]
  refine ⟨fun p hp => by simpa using (List.mem_filter.1 hp).2, fun e he hf => ?_, fun ae hae x hx => ?_⟩
  · rcases foldl_absorbExec_execs he with ⟨hmem, hout⟩ | habs
    · exact absurd (List.mem_map_of_mem (List.mem_filter.2 ⟨hmem, by simpa using hf⟩)) hout
    · exact habs
  · obtain ⟨a, -, rfl⟩ := List.mem_map.1 hae
    simpa using (List.mem_filter.1 hx).2

theorem fnResetWork_noWork {f : Nat} (g : Nat) {s : State} (h : NoWork f s.adm) : NoWork f (fnResetWork g s).adm := by
  have habs : NoWork f (fnAbsorbed g s).adm :=
    foldl_inv (fun t : State => NoWork f t.adm) _ _ s h (fun _ i ht => absorbExec_noWork false i ht)
  rw [fnResetWork_eq]
  refine ⟨fun p hp => habs.plans p (List.mem_filter.1 hp).1, habs.execs, fun ae hae x hx => ?_⟩
  obtain ⟨a, ha, rfl⟩ := List.mem_map.1 hae
  exact habs.subs a ha x (List.mem_filter.1 hx).1

theorem fnResetWork_fnsKept (f : Nat) (s : State) : FnsKept s (fnResetWork f s) := by
  have habs (i : Nat) (t : State) : FnsKept t (absorbExec false i t) := by
    unfold absorbExec
    split
    · exact .refl t
    · extract_lets u v
      have hv : FnsKept t v := .ite ⟨.refl _, rfl⟩ ⟨.refl _, rfl⟩
      clear_value v
      exact .ite (hv.trans (complete_fnsKept ..)) hv
  exact .trans (t := fnAbsorbed f s) (.foldl (fun t i => habs i t) _ s) ⟨.refl _, rfl⟩

/-! ## Gates -/

/-- A change of every listed value, which fixes the value of unlisted keys, is that change of the value read. -/
theorem tgetD_map_value {α : Type} {d : α} {φ : α → α} (hφ : φ d = d) (t : Tab α) (k : Nat) :
    tgetD (t.map (fun e => (e.1, φ e.2))) k d = φ (tgetD t k d) :=
  tgetD_map_of_fixed hφ (fun _ => true) t k

/-- The owners of the gates stay. -/
theorem fnResetWork_owner (f g : Nat) (s : State) : ((fnResetWork f s).gate g).owner = (s.gate g).owner := by
  have hdisarm (i : Nat) (t : State) : ((disarmGates i t).gate g).owner = (t.gate g).owner := by
    let φ (x : Gate) : Gate := if x.armedBy = some i then { x with armedBy := none } else x
    have hmap : (disarmGates i t).tick.gates = t.tick.gates.map (fun e => (e.1, φ e.2)) :=
      List.map_congr_left fun e _ => by dsimp only [φ]; split <;> rfl
    rw [State.gate, hmap, tgetD_map_value (φ := φ) rfl]
    dsimp only [φ]
    split <;> rfl
  have habs (i : Nat) (t : State) : ((absorbExec false i t).gate g).owner = (t.gate g).owner := by
    unfold absorbExec
    split
    · rfl
    next e _ =>
      extract_lets u v
      have hv : (v.gate g).owner = (t.gate g).owner := by
        have hu : (u.gate g).owner = (t.gate g).owner := hdisarm i _
        unfold v
        split <;> exact hu
      clear_value v
      split <;> exact hv
  exact foldl_inv (fun t : State => (t.gate g).owner = (s.gate g).owner) _ _ s rfl (fun t i h => (habs i t).trans h)

/-- A gate of the function after the reset of its gates. -/
theorem fnResetGates_gate {f g : Nat} {s : State} (h : (s.gate g).owner = f) :
    (fnResetGates f s).gate g = { s.gate g with count := 0, target := 0, waiters := [] } := by
  let φ (x : Gate) : Gate := if x.owner = f then { x with count := 0, target := 0, waiters := [] } else x
  have hmap : (fnResetGates f s).tick.gates = s.tick.gates.map (fun e => (e.1, φ e.2)) :=
    List.map_congr_left fun e _ => by dsimp only [φ]; split <;> rfl
  have hreset : φ Gate.reset = Gate.reset := by
    dsimp only [φ]
    split <;> rfl
  rw [State.gate, hmap, tgetD_map_value hreset]
  exact if_pos h

/-! ## The reset of a function (R310) -/

/-- The work, the mailboxes and the frames of the function are gone. -/
def fnDropped (f : Nat) (s : State) : State := fnResetFrames f (resetMailboxes (· == f) (fnResetWork f s))

/-- So are its stores and pages, and what its gates counted. -/
def fnQuiet (f : Nat) (s : State) : State := fnResetPages f (fnResetGates f (fnResetStores f (fnDropped f s)))

/-- The reset of the function but for the pending changes of FN_PART_CFG, which take effect last. -/
def fnEmptied (f : Nat) (s : State) : State := settleState (applyMmuPend f (fnResetHost f (fnQuiet f s)))

theorem fnReset_eq (f : Nat) (s : State) : fnReset f s = settlePend (fnEmptied f s) := rfl

theorem fnEmptied_kept (f : Nat) (s : State) :
    Kept [.life, .jr, .host, .reg, .mem, .tick, .cores, .net] (fnDropped f s) (fnEmptied f s) :=
  .step (by decide) (.step (by decide) (.step (by decide) (.step (by decide) (.step (by decide) (.step (by decide) (.refl _ _)
    (fnResetStores_frame ..)) (fnResetGates_frame ..)) (fnResetPages_frame ..)) (fnResetHost_frame ..)) (applyMmuPend_frame ..))
    (settleState_frame ..)

theorem fnReset_frames (f : Nat) (s : State) : (fnReset f s).fm.frames = s.fm.frames.filter (fun x => x.1 / 2 ^ 21 ≠ f) := by
  have hwork : (fnResetWork f s).fm = s.fm := (fnResetWork_frame f s).fm_eq (by decide)
  have hdropped : (fnDropped f s).fm.frames = (fnResetWork f s).fm.frames.filter (fun x => x.1 / 2 ^ 21 ≠ f) := rfl
  rw [fnReset_eq, (settlePend_frame _).fm_eq (by decide), (fnEmptied_kept f s).fm_eq (by decide), hdropped, hwork]

theorem fnReset_noWork {f g : Nat} {s : State} (h : NoWork f (fnResetWork g s).adm) : NoWork f (fnReset g s).adm := by
  rw [fnReset_eq]
  refine settlePend_noWork ?_
  rwa [(fnEmptied_kept g s).adm_eq (by decide)]

theorem fnReset_gate {f g : Nat} {s : State} (h : (s.gate g).owner = f) : ∃ x : Gate, x.owner = f ∧
    (fnReset f s).gate g = { x with count := 0, target := 0, waiters := [] } := by
  let u := fnResetStores f (fnDropped f s)
  have hu : u.gate g = (fnResetWork f s).gate g := by
    have htick : u.tick = (fnDropped f s).tick := (fnResetStores_frame ..).tick_eq (by decide)
    rw [State.gate, htick]
    rfl
  have howner : (u.gate g).owner = f := by rw [hu, fnResetWork_owner, h]
  have htick : (fnReset f s).tick = (fnResetGates f u).tick := by
    rw [fnReset_eq, (settlePend_frame _).tick_eq (by decide), fnEmptied, (settleState_frame _).tick_eq (by decide),
      (applyMmuPend_frame ..).tick_eq (by decide), (fnResetHost_frame ..).tick_eq (by decide)]
    exact (fnResetPages_frame ..).tick_eq (by decide)
  refine ⟨u.gate g, howner, ?_⟩
  rw [← fnResetGates_gate howner, State.gate, State.gate, htick]

/-- The queues of the function are gone. -/
theorem fnResetHost_none (f : Nat) (s : State) :
    (∀ q < 8, tget (fnResetHost f s).host.qps (qkey f q) = none) ∧ tget (fnResetHost f s).host.eqs f = none := by
  refine ⟨fun q hq => ?_, tget_tdel_self ..⟩
  have hin : (decide (qkey f q < qkey f 0) || decide (qkey f 0 + 8 ≤ qkey f q)) = false := by
    simp [qkey]
    omega
  have h := tget_filter s.host.qps (fun k => k < qkey f 0 || qkey f 0 + 8 ≤ k) (qkey f q)
  rw [hin] at h
  exact h

theorem fnResetHost_fnsKept (f : Nat) (s : State) : FnsKept s (fnResetHost f s) := by
  refine ⟨⟨fun i hi => ?_, fun g hg => ?_, rfl, rfl⟩, rfl⟩
  · have h := tget_filter s.host.qps (fun k => k < qkey f 0 || qkey f 0 + 8 ≤ k) i
    rw [hi, ite_self] at h
    exact h
  · by_cases hgf : g = f
    · exact hgf ▸ tget_tdel_self ..
    · exact (tget_tdel_ne _ hgf).trans hg

/-- What comes after the queues of the function are gone. -/
theorem fnReset_settling (f : Nat) (s : State) : FnsKept (fnResetHost f (fnQuiet f s)) (fnReset f s) := by
  rw [fnReset_eq, fnEmptied]
  exact (applyMmuPend_fnsKept ..).trans ((settleState_fnsKept _).trans (settlePend_fnsKept _))

theorem fnReset_fnsKept (f : Nat) (s : State) : FnsKept s (fnReset f s) := by
  have hdropped : FnsKept s (fnDropped f s) :=
    (fnResetWork_fnsKept f s).trans (.trans (.of_kept (resetMailboxes_frame ..)) (.of_kept (fnResetFrames_frame ..)))
  have hquiet : FnsKept (fnDropped f s) (fnQuiet f s) :=
    .trans (.of_kept (fnResetStores_frame ..)) (.trans (.of_kept (fnResetGates_frame ..)) (.of_kept (fnResetPages_frame ..)))
  exact hdropped.trans (hquiet.trans ((fnResetHost_fnsKept ..).trans (fnReset_settling ..)))

/-- The function has no frame, no work and no queue. -/
structure FnGone (f : Nat) (t : State) : Prop where
  frames : ∀ x ∈ t.fm.frames, x.1 / 2 ^ 21 ≠ f
  work : NoWork f t.adm
  pairs : ∀ q < 8, tget t.host.qps (qkey f q) = none
  events : tget t.host.eqs f = none

theorem fnReset_gone (f : Nat) (s : State) : FnGone f (fnReset f s) := by
  obtain ⟨hpairs, hevents⟩ := fnResetHost_none f (fnQuiet f s)
  have hsettling := (fnReset_settling f s).host
  refine ⟨fun x hx => ?_, fnReset_noWork (fnResetWork_clears f s), fun q hq => hsettling.pairs _ (hpairs q hq),
    hsettling.events _ hevents⟩
  rw [fnReset_frames] at hx
  simpa using (List.mem_filter.1 hx).2

/-- The reset of another function brings nothing of a function back. -/
theorem FnGone.fnReset {f : Nat} (g : Nat) {s : State} (h : FnGone f s) : FnGone f (fnReset g s) := by
  have hhost := (fnReset_fnsKept g s).host
  refine ⟨fun x hx => ?_, fnReset_noWork (fnResetWork_noWork g h.work), fun q hq => hhost.pairs _ (h.pairs q hq),
    hhost.events _ h.events⟩
  rw [fnReset_frames] at hx
  exact h.frames x (List.mem_filter.1 hx).1

theorem fnReset_cleared (f : Nat) (s : State) : FnCleared f s (fnReset f s) := by
  obtain ⟨hframes, ⟨hplans, hexecs, hsubs⟩, hpairs, hevents⟩ := fnReset_gone f s
  have hkept := fnReset_fnsKept f s
  refine ⟨hframes, hplans, hexecs, hsubs, hpairs, hevents, fun g hg => ?_, hkept.winCfg f, hkept.fnPart f, hkept.fmCfg f⟩
  obtain ⟨x, hx, hgate⟩ := fnReset_gate hg
  rw [hgate]
  exact ⟨rfl, rfl, rfl, hx⟩

/-- What `FnCleared` compares is the same before the front entry is taken. -/
theorem fnReset_popEntry_cleared (f q : Nat) (s : State) : FnCleared f s (fnReset f (popEntry 0 q s)) := by
  obtain ⟨hst, hpop⟩ := popEntry_eq_withHost 0 q s
  rw [hpop]
  exact { fnReset_cleared f (s.withHost hst) with }

/-! ## Resets of several functions (R298, R441) -/

section
variable {which : Nat → Bool} {fns : List Nat}

theorem resetFns_fnsKept (s : State) : FnsKept s (resetFns which fns s) :=
  .foldl (fun t f => .ite (fnReset_fnsKept f t) (.refl t)) fns s

theorem FnGone.resetFns {f : Nat} {s : State} (h : FnGone f s) : FnGone f (resetFns which fns s) :=
  foldl_inv (FnGone f ·) _ fns s h fun t g ht => by
    split
    · exact ht.fnReset g
    · exact ht

/-- Each function that is named is gone once all have been reset. -/
theorem resetFns_gone {f : Nat} (hf : f ∈ fns) (hw : which f) (s : State) : FnGone f (resetFns which fns s) := by
  induction fns generalizing s with
  | nil => exact absurd hf List.not_mem_nil
  | cons g r ih =>
    rcases List.mem_cons.1 hf with rfl | hr
    · have hfirst : FnGone f (if which f then fnReset f s else s) := by
        rw [if_pos hw]
        exact fnReset_gone f s
      exact hfirst.resetFns (fns := r)
    · exact ih hr _

end

theorem mem_functions {f : Nat} (h : f < 512) : f ∈ List.range Config.functions := List.mem_range.2 h

theorem lt_of_fnExists {f : Nat} {s : State} (h : s.fnExists f) : f < 512 := by
  simp only [State.fnExists, Bool.or_eq_true, beq_iff_eq, Bool.and_eq_true, decide_eq_true_eq] at h
  omega

/-- The virtual functions are those that VF_ENABLE names. -/
def State.withVfs (s : State) (n : Nat) (en : Bool) : State := { s with host := { s.host with numVfs := min 511 n, vfEn := en } }

/-- The functions that stop existing. -/
def State.stopped (s : State) (n : Nat) (en : Bool) (f : Nat) : Bool := s.fnExists f && !(s.withVfs n en).fnExists f

theorem exec_vfEnable (n : Nat) (en : Bool) (s : State) : exec (.vfEnable n en) s =
    .next (resetFns (s.stopped n en) (List.range Config.functions) (s.withVfs n en)) := rfl

/-- Settles O37: a function reset by `fnReset_cleared`; the resets of several functions undo none of one another. -/
theorem functionResetClearsTheFunction : Obligations.FunctionResetClearsTheFunction := by
  refine ⟨fun s f hf => ?flr, fun s q e k h => ?command, fun s => ?hot, fun s n en => ?vf⟩
  case flr => exact ⟨_, congrArg Host.Outcome.next (if_pos hf), fnReset_cleared f s⟩
  case command =>
    have hexec : exec (.fnReset 0 q) s = .next (fnResetEffect e k (popEntry 0 q s)) :=
      congrArg Host.Outcome.next (onEntry_act _ _ _ _ _ _ _ h)
    rw [hexec, fnResetEffect, popEntry_fnExists]
    refine ⟨fun hbad => by rw [if_pos (by simpa using hbad)], fun hne hex => ?_⟩
    rw [if_neg (by simp [hne, hex])]
    exact ⟨_, rfl, fnReset_popEntry_cleared ..⟩
  case hot =>
    refine ⟨_, rfl, fun f hf w => ?_⟩
    obtain ⟨hframes, hwork, -, hevents⟩ := resetFns_gone (mem_functions (lt_of_fnExists hf)) hf s
    exact ⟨hframes, hwork.plans, hevents, (resetFns_fnsKept s).winCfg f w⟩
  case vf =>
    rw [exec_vfEnable]
    have hkept : FnsKept (s.withVfs n en) (resetFns (s.stopped n en) (List.range Config.functions) (s.withVfs n en)) :=
      resetFns_fnsKept ..
    refine ⟨_, rfl, hkept.host.vfEn, hkept.host.numVfs, fun f hf hex hgone => ?_⟩
    have hstops : s.stopped n en f := by
      rw [hkept.fnExists] at hgone
      simp [State.stopped, hex, hgone]
    obtain ⟨hframes, hwork, -, hevents⟩ := resetFns_gone (mem_functions hf) hstops (s.withVfs n en)
    exact ⟨hframes, hwork.plans, hevents⟩

end Sys2Proof.Machine
end

section
/-!
Messages that leave (R350, Table 11-7): a marker sent on every link of a list, and the flood of a marker to the members of a partition.
And the unit of time that passes on an empty queue.
-/

namespace Sys2Proof.Machine

open Sys2Proof

/-! ## Time on an empty queue -/

theorem step_of_empty {s : State} (h : s.pending = []) : step s = .next (passTime s) := by
  rw [step, h]

theorem passTime_off (s : State) : SameOff [.now, .tick] s (passTime s) := by
  refine ⟨fun c hc => ?_⟩
  cases c with
  | now | tick => exact absurd (by decide) hc
  | _ => rfl

/-- Settles O2. -/
theorem emptyQueueLetsTimePass : Obligations.EmptyQueueLetsTimePass := by
  intro s h
  refine ⟨passTime s, step_of_empty h, rfl, ?_, passTime_off s⟩
  unfold passTime
  cases s.life.diesUp <;> rfl

/-! ## Messages sent one after another -/

/-- Messages leave, and nothing else changes. -/
def sent (ms : List OutMsg) (s : State) : State := { s with host := { s.host with out := s.host.out ++ ms } }

theorem sent_nil (s : State) : sent [] s = s := by
  simp [sent]

theorem sendMsg_sent (m : OutMsg) (ms : List OutMsg) (s : State) : sendMsg m (sent ms s) = sent (ms ++ [m]) s := by
  simp [sendMsg, sent]

/-- A message for each link that meets a condition, which sending does not change. -/
theorem foldl_sent {f : State → Nat → State} {c : Nat → Bool} {m : Nat → OutMsg} {s : State}
    (hf : ∀ ms l, f (sent ms s) l = if c l then sent (ms ++ [m l]) s else sent ms s) (ls : List Nat) :
    ls.foldl f s = sent ((ls.filter c).map m) s := by
  have hgen : ∀ ms, ls.foldl f (sent ms s) = sent (ms ++ (ls.filter c).map m) s := by
    induction ls with
    | nil => simp
    | cons l ls ih =>
      intro ms
      rw [List.foldl_cons, hf]
      cases hc : c l <;> simp [hc, ih]
  simpa [sent_nil] using hgen []

/-! ## Markers to the members of a partition -/

/-- Link l leads to a member of partition p. -/
def State.toMember (s : State) (p l : Nat) : Bool := ((s.peer l).map (fun x => (s.partMembers p).contains x.1)).getD false

theorem flood_eq (skip : Option Nat) (w : Dword) (s : State) :
    flood skip w s = sent (((s.markerLinks false).filter (fun l => skip ≠ some l)).map (fun l => .marker l w)) s := by
  unfold flood
  refine foldl_sent (fun ms l => ?_) _
  rw [sendMsg_sent]
  by_cases h : skip = some l <;> simp [h]

theorem floodMembers_eq (p : Nat) (skip : Option Nat) (w : Dword) (s : State) : floodMembers p skip w s =
    sent (((s.markerLinks false).filter (fun l => skip ≠ some l ∧ s.toMember p l)).map (fun l => .marker l w)) s := by
  unfold floodMembers
  refine foldl_sent (fun ms l => ?_) _
  rw [sendMsg_sent]
  change (if skip = some l then _ else match s.peer l with
    | some (m, _) => if (s.partMembers p).contains m then _ else _
    | none => _) = _
  by_cases h : skip = some l
  · simp [h]
  · cases hp : s.peer l with
    | none => simp [State.toMember, hp]
    | some x => simp [h, State.toMember, hp]

end Sys2Proof.Machine
end


section
/-!
PENNANT_ROUND and PENNANT_FINAL (R352, R353): the words that a round sends, and what the final merge leaves of the partition.
-/

namespace Sys2Proof.Machine

open Sys2Proof

section
variable {p r : Nat} {s : State}

/-! ## A round -/

/-- The round has begun: its time has come, and the partition counts it. -/
def roundBegun (p r : Nat) (s : State) : State :=
  (advanceTo ((s.part p).leadSt + roundSt r) s).setPart p { s.part p with round := r }

/-- The word that a round sends. -/
def Part.roundWord (pt : Part) (r : Nat) : Dword := if r = 1 then pt.ownWord else pt.merged

theorem pennantRound_eq (hsp : s.spanning p) (ht : s.partTicks p) (hl : (s.part p).lead) (hf : (s.part p).hasFinal = false)
    (hr : r = (s.part p).round + 1) (h3 : r ≤ 3) : pennantRound p r s =
      sent (((s.markerLinks false).filter (s.toMember p)).map (fun l => .marker l ((s.part p).roundWord r))) (roundBegun p r s) := by
  unfold pennantRound
  rw [if_pos (by simp [hsp, ht, hl, hf, hr, hr ▸ h3])]
  refine foldl_sent (s := roundBegun p r s) (fun ms l => ?_) _
  rw [sendMsg_sent]
  change (match s.peer l with
    | none => _
    | some (m, _) => if (s.partMembers p).contains m then _ else _) = _
  cases hp : s.peer l with
  | none => simp [State.toMember, hp]
  | some x =>
    simp only [State.toMember, hp, Option.map_some, Option.getD_some]
    rfl

theorem exec_pennantRound (hp : p < 16) : exec (.pennantRound p r) s = .next (pennantRound p r s) :=
  congrArg Host.Outcome.next (if_pos hp)

/-! ## The final merge -/

/-- The partition has taken the merge as final. -/
def Part.withFinal (pt : Part) : Part := { pt with final := pt.merged, hasFinal := true }

/-- The partition with the boundaries that the final merge names (R353). -/
def Part.finalNamed (pt : Part) : Part :=
  { pt.withFinal with
      parkAt := if penPark pt.merged && pt.state == .running then some (pt.parkAt.getD (pt.tick + 2)) else pt.parkAt,
      resumeAt := if penResume pt.merged && pt.state == .parked then some (pt.resumeAt.getD (pt.tick + 2)) else pt.resumeAt }

/-- The partition where the final merge asks for both: the commands of boundary T + 2 wait no more. -/
def Part.finalBoth (pt : Part) : Part :=
  { pt.withFinal with parkTk := pt.parkTk.filter (fun x => x.1 ≠ pt.tick + 2), resumeTk := pt.resumeTk.filter (fun x => x.1 ≠ pt.tick + 2) }

/-- Park and resume together change nothing: their commands complete with STATE, and the Power Governor's own park is over. -/
def finalBoth (p : Nat) (pt : Part) (s : State) : State :=
  let s := s.setPart p pt.finalBoth
  completeAll (ticketsDue (pt.tick + 2) pt.parkTk ++ ticketsDue (pt.tick + 2) pt.resumeTk) stState
    (if pt.state == .running then s.setPpart p { s.ppart p with parkedByGov := false } else s)

theorem pennantFinal_eq (ht : s.partTicks p) (hl : (s.part p).lead) (hf : (s.part p).hasFinal = false) : pennantFinal p s =
    if penPark (s.part p).merged && penResume (s.part p).merged then finalBoth p (s.part p) (advanceTo ((s.part p).leadSt + 14080) s)
    else (advanceTo ((s.part p).leadSt + 14080) s).setPart p (s.part p).finalNamed :=
  if_neg (by simp [ht, hl, hf])

theorem finalBoth_tick (p : Nat) (pt : Part) (s : State) : (finalBoth p pt s).tick = (s.setPart p pt.finalBoth).tick := by
  refine (completeAll_tick ..).trans ?_
  split <;> rfl

/-- Both requests together name no boundary. -/
theorem finalBoth_part (p : Nat) (pt : Part) (s : State) : (finalBoth p pt s).part p = pt.finalBoth := by
  rw [State.part, finalBoth_tick]
  exact part_setPart_self ..

theorem exec_pennantFinal (hp : p < 16) : exec (.pennantFinal p) s = .next (pennantFinal p s) :=
  congrArg Host.Outcome.next (if_pos hp)

end

/-- Settles O42: a round sends its word to the members; the final merge names its boundaries unless both requests are set. -/
theorem pennantWordsAreExchanged : Obligations.PennantWordsAreExchanged := by
  intro s p hp ht hl hf pt toMember
  have hmember : toMember = s.toMember p := by
    funext l
    simp only [toMember, State.toMember]
    cases s.peer l <;> rfl
  refine ⟨fun r hsp hr h3 => ?round, ?final⟩
  case round =>
    refine ⟨_, exec_pennantRound hp, (pennantRound_frame p r s).off.mono (by decide), ?_⟩
    rw [pennantRound_eq hsp ht hl hf hr h3, hmember]
    exact ⟨part_setPart_self .., rfl, Nat.le_max_right ..⟩
  case final =>
    refine ⟨_, exec_pennantFinal hp, (pennantFinal_frame p s).off.mono (by decide), ?_⟩
    rw [pennantFinal_eq ht hl hf]
    split
    next hboth =>
      obtain ⟨hpark, hresume⟩ := Bool.and_eq_true_iff.1 hboth
      refine ⟨?_, fun hnot => absurd hnot (by simp [pt, hpark, hresume]), fun _ _ => ?_⟩
      · rw [finalBoth_tick]
        exact Nat.le_max_right ..
      · rw [finalBoth_part]
        exact ⟨rfl, rfl, rfl, rfl, rfl⟩
    next hboth =>
      refine ⟨Nat.le_max_right .., fun _ => ?_, fun hpark hresume => absurd (Bool.and_eq_true_iff.2 ⟨hpark, hresume⟩) hboth⟩
      rw [part_setPart_self]
      simp only [pt, Part.finalNamed, Part.withFinal, Bool.and_eq_true, beq_iff_eq]

end Sys2Proof.Machine
end

section
/-!
The start of a partition (R348): what it does to the time, and the partition in its tick 0.
-/

namespace Sys2Proof.Machine

open Sys2Proof

/-! ## What takes no time -/

/-- The time is as it was. -/
structure TimeKept (s t : State) : Prop where
  st : t.tick.st = s.tick.st

section
variable {s t u : State}

theorem TimeKept.refl (s : State) : TimeKept s s := ⟨rfl⟩

theorem TimeKept.trans (h : TimeKept s t) (k : TimeKept t u) : TimeKept s u := ⟨k.st.trans h.st⟩

theorem TimeKept.of_kept {L : List Comp} (h : Kept L s t) (hL : Comp.tick ∉ L := by decide) : TimeKept s t :=
  ⟨congrArg Tick.st (h.tick_eq hL)⟩

theorem TimeKept.ite {p : Prop} {_ : Decidable p} (ht : TimeKept s t) (hu : TimeKept s u) : TimeKept s (if p then t else u) := by
  split <;> assumption

end

theorem TimeKept.foldl {α : Type} {f : State → α → State} (hf : ∀ t x, TimeKept t (f t x)) (l : List α) (s : State) :
    TimeKept s (l.foldl f s) :=
  foldl_inv (TimeKept s ·) f l s (.refl s) (fun t x h => h.trans (hf t x))

theorem setPart_timeKept (p : Nat) (v : Part) (s : State) : TimeKept s (s.setPart p v) := ⟨rfl⟩

theorem setGate_timeKept (g : Nat) (v : Gate) (s : State) : TimeKept s (s.setGate g v) := ⟨rfl⟩

theorem checkPaths_timeKept (s : State) : TimeKept s (checkPaths s) := by
  unfold checkPaths
  exact .foldl (fun t _ => (setPart_timeKept .. : TimeKept t _).trans (.of_kept (raise_frame ..))) _ s

theorem absorbExec_timeKept (withCompletion : Bool) (id : Nat) (s : State) : TimeKept s (absorbExec withCompletion id s) := by
  unfold absorbExec
  split
  · exact .refl s
  · extract_lets u v
    have hu : TimeKept s u := (TimeKept.of_kept (mapCores_frame ..)).trans ⟨rfl⟩
    have hv : TimeKept s v := .ite (hu.trans (.of_kept (dropExec_frame ..))) (hu.trans (.of_kept (setExec_frame ..)))
    exact .ite (hv.trans (.of_kept (complete_frame ..))) hv

theorem armGates_timeKept (e : Exec) (s : State) : TimeKept s (armGates e s) := by
  unfold armGates
  exact .foldl (fun _ _ => setGate_timeKept ..) _ s

theorem prepareNext_timeKept (fn p : Nat) (s : State) : TimeKept s (prepareNext fn p s) := by
  unfold prepareNext
  split
  · exact .refl s
  · next e _ =>
    refine .ite (.refl s) (.ite (.of_kept (readmit_frame ..)) ?_)
    extract_lets r r'
    have hr : Kept [.jr, .host, .fm, .mnt] s r.2 :=
      kept_foldl_snd (fun t x h => h.step (by decide) (prepareFrame_frame e x t.2)) (.refl _ s)
    have hr' : TimeKept s r'.2 :=
      .of_kept (kept_ite_snd (kept_foldl_snd (fun t lf h => h.step (by decide) (prepareShadow_frame e lf t.2)) hr) hr)
    clear_value r r'
    split
    · exact hr'.trans (.of_kept (setExec_frame ..))
    · exact hr'.trans (absorbExec_timeKept ..)
    · exact hr'

theorem reportNext_timeKept (fn p : Nat) (s : State) : TimeKept s (reportNext fn p s) := by
  have hprep := prepareNext_timeKept fn p s
  unfold reportNext
  extract_lets u
  exact .ite ⟨hprep.st⟩ hprep

theorem startExec_timeKept (n : Nat) (e : Exec) (s : State) : TimeKept s (startExec n e s) :=
  ⟨(armGates_timeKept e s).st⟩

theorem startAll_timeKept (p n : Nat) (s : State) : TimeKept s (startAll p n s) := by
  unfold startAll
  extract_lets ids
  refine .foldl (fun t id => ?_) ids s
  split
  · exact .refl t
  · refine .ite (.of_kept (substFirst_frame ..)) (.ite ?_ (.refl t))
    extract_lets u
    have hu : TimeKept t u := .ite (reportNext_timeKept ..) (.refl t)
    clear_value u
    split
    · exact .ite hu (.ite (hu.trans (.of_kept (readmit_frame ..))) (.ite (hu.trans (startExec_timeKept ..)) hu))
    · exact hu

theorem beginTick_timeKept (p n k : Nat) (fresh : Bool) (s : State) : TimeKept s (beginTick p n k fresh s) := by
  unfold beginTick
  extract_lets t u pt k' at_ v cores w other x y z
  have hv : TimeKept s v := ⟨rfl⟩
  have hw : TimeKept s w := hv.trans (.of_kept (reserveSlots_frame ..))
  have hx : TimeKept s x := hw.trans (.of_kept (mapCores_frame ..))
  have hy : TimeKept s y := hx.trans (startAll_timeKept ..)
  have hz : TimeKept s z := .ite (hy.trans (.foldl (fun _ _ => .of_kept (loadSlots_frame ..)) _ y)) hw
  exact .ite (hz.trans (.foldl (fun r _ => .ite (.of_kept (openFirst_frame ..)) (.refl r)) cores z))
    (hv.trans (.of_kept (mapCores_frame ..)))

/-! ## The partition that starts -/

/-- The Tick Unit at boundary 0. -/
def State.startPart (s : State) (p st : Nat) : Part :=
  { Part.reset with state := .running, next := st, level := s.levelNow p, features := (s.part p).features }

/-- The partition at boundary 0, before the pending changes of the boundary. -/
def partReady (p st : Nat) (s : State) : State :=
  (advanceTo st s).setPart p (s.startPart p st)

/-- The check of a spanning partition's paths. -/
def pathsChecked (p : Nat) (s : State) : State := if s.spanning p then checkPaths s else s

/-- The partition has begun its tick 0. -/
def partStarted (p st : Nat) (s : State) : State :=
  settleState (beginTick p 0 0 true (boundaryChanges p true (partReady p st s)))

section
variable {p st : Nat} {s : State}

theorem levelNow_advanceTo (p st : Nat) (s : State) : (advanceTo st s).levelNow p = s.levelNow p := rfl

theorem partStarted_part (p st : Nat) (s : State) : (partStarted p st s).part p =
    (s.startPart p st).begun 0 (st + periodOf (s.tickCfg p) * 2000 * 8) 0 true := by
  have hchanges := (boundaryChanges_carriesOn 0 p true (partReady p st s)).ticks
  rw [partStarted, settleState_part, beginTick_part, hchanges.part, hchanges.tickCfg, partReady, part_setPart_self]
  rfl

theorem le_partStarted_st (p st : Nat) (s : State) : st ≤ (partStarted p st s).tick.st := by
  have htime : TimeKept (partReady p st s) (partStarted p st s) :=
    .trans (.of_kept (boundaryChanges_frame ..)) ((beginTick_timeKept ..).trans (.of_kept (settleState_frame _)))
  rw [htime.st]
  exact Nat.le_max_right s.tick.st st

theorem checkPaths_part (p : Nat) (s : State) : ∃ b, (checkPaths s).part p = { s.part p with freezeNext := b } := by
  unfold checkPaths
  refine foldl_inv (fun t => ∃ b, t.part p = { s.part p with freezeNext := b }) _ _ s ⟨_, rfl⟩ (fun t q h => ?_)
  obtain ⟨b, hb⟩ := h
  rw [(raise_frame ..).part (by decide)]
  by_cases hq : q = p
  · subst hq
    exact ⟨true, by rw [part_setPart_self, hb]⟩
  · exact ⟨b, by rw [part_setPart_ne _ _ (Ne.symm hq), hb]⟩

theorem pathsChecked_part (p : Nat) (s : State) : ∃ b, (pathsChecked p s).part p = { s.part p with freezeNext := b } := by
  unfold pathsChecked
  split
  · exact checkPaths_part p s
  · exact ⟨_, rfl⟩

theorem pathsChecked_timeKept (p : Nat) (s : State) : TimeKept s (pathsChecked p s) :=
  .ite (checkPaths_timeKept s) (.refl s)

variable (hserving : s.serving) (hidle : (s.part p).state = .idle) (hreq : (s.part p).startReq = some st)
include hserving hidle hreq

theorem partitionStart_eq : partitionStart p s =
    if s.spanning p && !s.featuresAgree p then
      raise { EventRec.mk' 0x040C with part := some p, unit := some (s.pid p), info := some 0 }
        (s.setPart p { s.part p with startReq := none })
    else pathsChecked p (partStarted p st s) := by
  simp only [partitionStart, hidle, hreq, hserving, Bool.not_true, Bool.false_eq_true, if_false, levelNow_advanceTo,
    pathsChecked, partStarted, partReady, State.startPart]
  rfl

/-- A start that the members' reports do not allow. -/
theorem partitionStart_differs (hspan : s.spanning p) (hdiffer : s.featuresAgree p = false) : partitionStart p s =
    raise { EventRec.mk' 0x040C with part := some p, unit := some (s.pid p), info := some 0 }
      (s.setPart p { s.part p with startReq := none }) := by
  rw [partitionStart_eq hserving hidle hreq, if_pos (by simp [hspan, hdiffer])]

/-- The partition runs in tick 0, whether its paths are all there or not. -/
theorem partitionStart_part (hagree : s.spanning p → s.featuresAgree p) : ∃ b, (partitionStart p s).part p =
    { (s.startPart p st).begun 0 (st + periodOf (s.tickCfg p) * 2000 * 8) 0 true with freezeNext := b } := by
  rw [partitionStart_eq hserving hidle hreq, if_neg (by simpa using hagree), ← partStarted_part]
  exact pathsChecked_part ..

theorem le_partitionStart_st (hagree : s.spanning p → s.featuresAgree p) : st ≤ (partitionStart p s).tick.st := by
  rw [partitionStart_eq hserving hidle hreq, if_neg (by simpa using hagree)]
  exact (le_partStarted_st p st s).trans_eq (pathsChecked_timeKept ..).st.symm

end

theorem exec_partitionStart {p : Nat} (hp : p < 16) (s : State) : exec (.partitionStart p) s = .next (partitionStart p s) :=
  congrArg Host.Outcome.next (if_pos hp)

/-- Settles O45: the partition that starts has its tick 0 begun at START_ST; the checks after it change neither its tick nor the time. -/
theorem partitionsStartTogether : Obligations.PartitionsStartTogether := by
  intro s p st hp hserving hidle hreq
  have hstarts (hagree : s.spanning p → s.featuresAgree p) :
      ∃ t, exec (.partitionStart p) s = .next t ∧ (t.part p).state = .running ∧ (t.part p).tick = 0 ∧ (t.part p).startReq = none ∧
        (t.part p).next = st + periodOf (s.tickCfg p) * 2000 * 8 ∧ st ≤ t.tick.st ∧ (t.part p).level = s.levelNow p := by
    obtain ⟨b, hpart⟩ := partitionStart_part hserving hidle hreq hagree
    refine ⟨_, exec_partitionStart hp s, ?_⟩
    rw [hpart]
    exact ⟨rfl, rfl, rfl, rfl, le_partitionStart_st hserving hidle hreq hagree, rfl⟩
  refine ⟨fun hlocal => hstarts (by simp [hlocal]), fun _ hagree => hstarts (fun _ => hagree), fun hspan hdiffer => ?_⟩
  refine ⟨_, exec_partitionStart hp s, ?_⟩
  rw [partitionStart_differs hserving hidle hreq hspan hdiffer]
  have hset : Kept [.jr, .host, .tick] s (s.setPart p { s.part p with startReq := none }) :=
    .step (by decide) (.refl _ s) (State.setPart_frame ..)
  exact ⟨(hset.step (by decide) (raise_frame ..)).off, by rw [(raise_frame ..).part (by decide), part_setPart_self]⟩

end Sys2Proof.Machine
end

section
/-!
What goes on beside a change of a link: messages that have left stay sent, and the work of the output ports leaves the state of every
link as it is. A change of mode is the new mode and such work (R334, R336).
-/

namespace Sys2Proof.Machine

open Sys2Proof

/-! ## Messages that have left -/

/-- No message that has left is taken back. -/
structure OutGrows (s t : State) : Prop where
  out : s.host.out ⊆ t.host.out

section
variable {s t u : State}

theorem OutGrows.refl (s : State) : OutGrows s s := ⟨List.Subset.refl _⟩

theorem OutGrows.trans (h : OutGrows s t) (k : OutGrows t u) : OutGrows s u := ⟨List.Subset.trans h.out k.out⟩

theorem OutGrows.of_kept {L : List Comp} (h : Kept L s t) (hL : Comp.host ∉ L := by decide) : OutGrows s t := by
  have hhost : t.host = s.host := h.off.same .host hL
  exact ⟨hhost ▸ List.Subset.refl _⟩

theorem OutGrows.ite {p : Prop} {_ : Decidable p} (ht : OutGrows s t) (hu : OutGrows s u) : OutGrows s (if p then t else u) := by
  split <;> assumption

end

theorem sent_grows (ms : List OutMsg) (s : State) : OutGrows s (sent ms s) := ⟨List.subset_append_left ..⟩

theorem sendMsg_grows (m : OutMsg) (s : State) : OutGrows s (sendMsg m s) := ⟨List.subset_append_left ..⟩

theorem signal_out (h : HostIf) (fn v : Nat) : h.out ⊆ (h.signal fn v).out := by
  unfold HostIf.signal
  split
  · exact List.Subset.refl _
  · exact List.subset_append_left ..

theorem devWrite_out (h : HostIf) (a : Nat) (bs : List Byte) : (h.devWrite a bs).out = h.out := rfl

theorem pushEvent_out (h : HostIf) (fn : Nat) (e : EventRec) : h.out ⊆ (h.pushEvent fn e).out := by
  unfold HostIf.pushEvent
  split
  · exact List.Subset.refl _
  · split
    · exact List.Subset.refl _
    · extract_lets k t q fire q' k'
      have hk : k.out = h.out := by
        unfold k
        rw [devWrite_out]
      clear_value k
      rw [← hk]
      split
      · exact signal_out k' ..
      · exact List.Subset.refl _

theorem route_out (h : HostIf) (e : EventRec) (fns : List Nat) : h.out ⊆ (h.route e fns).out := by
  unfold HostIf.route
  extract_lets k
  have hfold : h.out ⊆ (fns.foldl (fun h f => h.pushEvent f (e.viewOf f)) h).out :=
    foldl_inv (fun k : HostIf => h.out ⊆ k.out) _ _ _ (List.Subset.refl _) (fun _ _ hk => List.Subset.trans hk (pushEvent_out ..))
  have hk : h.out ⊆ k.out := by
    unfold k
    split
    · exact hfold
    · exact List.Subset.refl _
  split
  · exact List.Subset.trans hk (pushEvent_out ..)
  · exact hk

theorem raiseFor_grows (e : EventRec) (fns : List Nat) (s : State) : OutGrows s (raiseFor e fns s) := ⟨route_out ..⟩

theorem raise_grows (e : EventRec) (s : State) : OutGrows s (raise e s) := raiseFor_grows ..

theorem enterState_grows (m : ModState) (s : State) : OutGrows s (enterState m s) := by
  unfold enterState
  exact .ite (.refl s) ⟨(raise_grows _ { s with life := { s.life with state := m } }).out⟩

theorem settleState_grows (s : State) : OutGrows s (settleState s) := .ite (enterState_grows ..) (.refl s)

/-! ## The work of the output ports -/

/-- A link without its output port: what its mode, its lanes and the tick network look at. -/
def Link.service (k : Link) : Link :=
  { k with queue := [], credit := [], owed := [], rrPid := 0, rrFn := [], ctlGap := 0, txSeq := 0, kept := [], sinceAck := 0 }

/-- Output ports work: each link without its port is as it was, no message is taken back, and no time passes. -/
structure PortWork (s t : State) : Prop where
  service : ∀ l, (t.link l).service = (s.link l).service
  sent : OutGrows s t
  time : TimeKept s t

section
variable {s t u : State}

theorem PortWork.refl (s : State) : PortWork s s := ⟨fun _ => rfl, .refl s, .refl s⟩

theorem PortWork.trans (h : PortWork s t) (k : PortWork t u) : PortWork s u :=
  ⟨fun l => (k.service l).trans (h.service l), h.sent.trans k.sent, h.time.trans k.time⟩

/-- A change of components without links, messages or time. -/
theorem PortWork.of_kept {L : List Comp} (h : Kept L s t)
    (hL : (Comp.net ∉ L ∧ Comp.host ∉ L) ∧ Comp.tick ∉ L := by decide) : PortWork s t where
  service l := by rw [State.link, State.link, h.off.same .net hL.1.1]
  sent := .of_kept h hL.1.2
  time := .of_kept h hL.2

/-- A change that sends messages, without links or time. -/
theorem PortWork.of_sent {L : List Comp} (h : Kept L s t) (hsent : OutGrows s t)
    (hL : Comp.net ∉ L ∧ Comp.tick ∉ L := by decide) : PortWork s t where
  service l := by rw [State.link, State.link, h.off.same .net hL.1]
  sent := hsent
  time := .of_kept h hL.2

theorem PortWork.ite {p : Prop} {_ : Decidable p} (ht : PortWork s t) (hu : PortWork s u) : PortWork s (if p then t else u) := by
  split <;> assumption

theorem PortWork.snd {α : Type} {a : α} (h : PortWork s t) : PortWork s (a, t).2 := h

theorem PortWork.foldl {α : Type} {f : State → α → State} (hf : ∀ t x, PortWork t (f t x)) (l : List α) (s : State) :
    PortWork s (l.foldl f s) :=
  foldl_inv (PortWork s ·) f l s (.refl s) (fun t x h => h.trans (hf t x))

/-! ### What is read of a link without its port -/

theorem PortWork.mode (h : PortWork s t) (l : Nat) : (t.link l).mode = (s.link l).mode :=
  (congrArg Link.mode (h.service l) : (t.link l).service.mode = (s.link l).service.mode)

theorem PortWork.st (h : PortWork s t) : t.tick.st = s.tick.st := h.time.st

end

/-- A change of a link's port. -/
theorem setLink_work {l : Nat} {k : Link} {s : State} (h : k.service = (s.link l).service) : PortWork s (s.setLink l k) where
  service j := by
    rcases eq_or_ne j l with rfl | hne
    · rw [link_setLink_self, h]
    · rw [link_setLink_ne _ _ hne]
  sent := .of_kept (State.setLink_frame ..)
  time := .of_kept (State.setLink_frame ..)

theorem raise_work (e : EventRec) (s : State) : PortWork s (raise e s) := .of_sent (raise_frame ..) (raise_grows ..)

theorem sendMsg_work (m : OutMsg) (s : State) : PortWork s (sendMsg m s) := .of_sent (sendMsg_frame ..) (sendMsg_grows ..)

theorem raiseMem_work (code f die : Nat) (core info : Option Nat) (dva : Nat) (s : State) :
    PortWork s (raiseMem code f die core info dva s) := by
  refine .of_sent (raiseMem_frame ..) ?_
  unfold raiseMem raiseOncePer
  split
  · exact .refl s
  · exact ⟨(raiseFor_grows ..).out⟩

theorem verifyBlk_work (f die : Nat) (core : Option Nat) (dva : Nat) (b : Block) (s : State) :
    PortWork s (verifyBlk f die core dva b s).2 := by
  unfold verifyBlk
  split
  · exact .refl s
  · exact .snd (.trans (.of_kept (addMmuStat_frame f 47 32 1 s)) (raiseMem_work ..))

theorem egressSeg_work (l : Nat) (r : LinkRecord) (i : Nat) (seg : BitVec 128 × BlockData) (s : State) :
    PortWork s (egressSeg l r i seg s).2 := by
  unfold egressSeg
  exact .snd (verifyBlk_work ..)

theorem egressAll_work (l : Nat) (r : LinkRecord) (s : State) : PortWork s (egressAll l r s).2 := by
  unfold egressAll
  exact foldl_inv (fun a : List (BitVec 128 × BlockData) × State => PortWork s a.2) _ _ _ (.refl s)
    (fun _ _ h => .snd (h.trans (egressSeg_work ..)))

theorem dropTag_work (tag : Nat) (s : State) : PortWork s (dropTag tag s) :=
  ⟨fun _ => rfl, .of_kept (dropTag_frame ..), .of_kept (dropTag_frame ..)⟩

theorem noteSent_work (l : Nat) (r : LinkRecord) (s : State) : PortWork s (noteSent l r s) :=
  ⟨fun j => congrArg Link.service (noteSent_link j), .of_kept (noteSent_frame ..), .of_kept (noteSent_frame ..)⟩

theorem foldl_txFlit_service (body : Nat → List Byte) (k : Link) (n : Nat) :
    ((List.range n).foldl (fun (k : Link) j => k.txFlit (body j)) k).service = k.service :=
  foldl_inv (fun k' : Link => k'.service = k.service) _ _ _ rfl (fun _ _ h => h)

theorem afterTurn_service (k : Link) (r : LinkRecord) : (k.afterTurn r).service = k.service := by
  unfold Link.afterTurn
  split <;> rfl

theorem transmit_work (l i : Nat) (r : LinkRecord) (s : State) : PortWork s (transmit l i r s) := by
  unfold transmit
  extract_lets x u k a left k1 bytes k2
  have hk2 : k2.service = (u.link l).service := (foldl_txFlit_service _ _ _).trans (afterTurn_service ..)
  have hsent : PortWork s (sendMsg (.record l a) (u.setLink l k2)) :=
    (egressAll_work l r s).trans ((setLink_work hk2).trans (sendMsg_work ..))
  exact (hsent.trans (.of_kept (noteWork_frame ..))).trans (noteSent_work ..)

theorem pump_work (l n : Nat) (s : State) : PortWork s (pump l n s) := by
  induction n generalizing s with
  | zero => exact .refl s
  | succ n ih =>
    unfold pump
    split
    · exact .refl s
    · split
      · exact .refl s
      · exact (transmit_work ..).trans (ih _)

theorem sendOn_work (l : Nat) (r : LinkRecord) (s : State) : PortWork s (sendOn l r s) :=
  (setLink_work (k := { s.link l with queue := (s.link l).queue ++ [r] }) rfl).trans (pump_work ..)

theorem raiseRoute_work (link : Option Nat) (rtype status dst : Nat) (s : State) : PortWork s (raiseRoute link rtype status dst s) :=
  raise_work ..

theorem sendAnswer_work (back : Nat) (r : LinkRecord) (s : State) : PortWork s (sendAnswer back r s) := by
  have hrecord : PortWork s (sendRecord r s).2 := by
    unfold sendRecord
    split
    · exact .refl s
    · exact sendOn_work ..
  unfold sendAnswer
  split
  · exact sendOn_work ..
  · generalize sendRecord r s = x at hrecord
    obtain ⟨routed, u⟩ := x
    cases routed with
    | true => exact hrecord
    | false => exact hrecord.trans (raiseRoute_work ..)

theorem failAccess_work (x : Remote) (status : Nat) (s : State) : PortWork s (failAccess x status s) := by
  unfold failAccess
  extract_lets t
  have ht : PortWork s t := .trans (.ite (raiseMem_work ..) (.refl s)) (dropTag_work ..)
  exact ht.trans (.ite (.of_kept (failWrite_frame ..)) (.of_kept (onTag_frame ..)))

theorem noRoute_work (l : Nat) (r : LinkRecord) (s : State) : PortWork s (noRoute l r s) := by
  unfold noRoute
  extract_lets t
  have ht : PortWork s t := raiseRoute_work ..
  refine ht.trans (.ite (.ite ?_ (sendAnswer_work ..)) (.refl t))
  split
  · exact failAccess_work ..
  · exact .refl t

theorem reroute_work (l : Nat) (r : LinkRecord) (s : State) : PortWork s (reroute l r s) := by
  unfold reroute
  split
  · exact sendOn_work ..
  · exact noRoute_work ..

/-! ## Changes of mode (R334, R336) -/

theorem flood_work (skip : Option Nat) (w : Dword) (s : State) : PortWork s (flood skip w s) :=
  .of_sent (flood_frame ..) (flood_eq skip w s ▸ sent_grows ..)

theorem checkPaths_work (s : State) : PortWork s (checkPaths s) := by
  unfold checkPaths
  exact .foldl (fun t _ => .trans (t := t.setPart _ _) ⟨fun _ => rfl, ⟨List.Subset.refl _⟩, ⟨rfl⟩⟩ (raise_work ..)) _ s

/-- Link l in mode m. -/
def inMode (l : Nat) (m : LinkMode) (s : State) : State := s.setLink l { s.link l with mode := m }

theorem setLinkMode_work (l : Nat) (m : LinkMode) (s : State) : PortWork (inMode l m s) (setLinkMode l m s) := by
  unfold setLinkMode
  extract_lets k t _ u w v
  split
  next hmode =>
    refine ⟨fun j => ?_, ⟨List.Subset.refl _⟩, ⟨rfl⟩⟩
    rcases eq_or_ne j l with rfl | hne
    · rw [inMode, link_setLink_self, ← hmode]
    · rw [inMode, link_setLink_ne _ _ hne]
  next =>
    have hu : PortWork (inMode l m s) u := by
      refine ⟨fun j => ?_, ⟨List.Subset.refl _⟩, ⟨rfl⟩⟩
      change (t.link j).service = _
      rcases eq_or_ne j l with rfl | hne
      · simp only [t, inMode, link_setLink_self, Link.service]
        rfl
      · simp only [t, inMode, link_setLink_ne _ _ hne]
    have hv : PortWork (inMode l m s) v := hu.trans ((flood_work ..).trans (checkPaths_work _))
    exact .ite (hv.trans (pump_work ..)) (hv.trans (.foldl (fun _ _ => reroute_work ..) _ v))

section
variable {l j : Nat} {m : LinkMode} {s : State}

theorem setLinkMode_service : ((setLinkMode l m s).link l).service = { (s.link l).service with mode := m } :=
  ((setLinkMode_work l m s).service l).trans (by rw [inMode, link_setLink_self]; rfl)

theorem setLinkMode_mode : ((setLinkMode l m s).link l).mode = m := congrArg Link.mode setLinkMode_service

theorem setLinkMode_st : (setLinkMode l m s).tick.st = s.tick.st := (setLinkMode_work l m s).st

theorem setLinkMode_grows : OutGrows s (setLinkMode l m s) := ⟨(setLinkMode_work l m s).sent.out⟩

end

end Sys2Proof.Machine
end

section
/-!
Links in service (R337-R339, R341, R342, R344, R346): lane swaps, the end of the soak, training, and the loss of the time parent.
-/

namespace Sys2Proof.Machine

open Sys2Proof

/-! ## Records that wait for the event journal -/

theorem raise_journalled {e : EventRec} (h : routeJr e.code) (s : State) : Journalled e.code (raise e s) := by
  refine ⟨{ e with time := s.tick.st }, ?_, rfl⟩
  simp only [raise, raiseFor, h, if_true]
  exact List.mem_append_right _ (List.mem_singleton_self _)

theorem raiseLink_journalled {code : Nat} (h : routeJr code) (l lane : Nat) (s : State) : Journalled code (raiseLink code l lane s) :=
  raise_journalled (e := linkEvent code l lane s) h s

theorem raiseLink_net (code l lane : Nat) (s : State) : (raiseLink code l lane s).net = s.net := (raise_frame ..).off.same .net (by decide)

theorem raiseLink_link (code l lane j : Nat) (s : State) : (raiseLink code l lane s).link j = s.link j := by
  rw [State.link, raiseLink_net, State.link]

theorem enterState_journal (m : ModState) (s : State) : JournalGrows s (enterState m s) := by
  unfold enterState
  split
  · exact .refl s
  · exact raiseFor_journal (s := { s with life := { s.life with state := m } }) ..

theorem settleState_journal (s : State) : JournalGrows s (settleState s) := by
  unfold settleState
  split
  · exact enterState_journal ..
  · exact .refl s

theorem settleState_link (s : State) (l : Nat) : (settleState s).link l = s.link l := by
  rw [State.link, (settleState_frame s).off.same .net (by decide), State.link]

/-! ## Markers and lanes (R339) -/

theorem onMarker_of_taken {l type : Nat} {w : Dword} {soak : Bool} {s : State} (h : MarkerOn l type w soak s) (act : State → State) :
    onMarker l type w soak act s = act s := if_pos h

section
variable {l lane : Nat} {s : State}

theorem swapLane_link : (swapLane l lane s).link l = { s.link l with
    laneMap := setBits (s.link l).laneMap lane lane 1, swapLane := none, overBer := (s.link l).overBer.set lane 0 } := by
  rw [swapLane, raiseLink_link, link_setLink_self]

theorem swapLane_journalled : Journalled 0x0403 (swapLane l lane s) := raiseLink_journalled (by decide) ..

theorem swapLane_st : (swapLane l lane s).tick.st = s.tick.st := congrArg Tick.st ((swapLane_frame ..).tick_eq (by decide))

theorem bitOf_setBit_self (n i : Nat) : bitOf (setBits n i i 1) i := by
  rw [bitOf_setBits _ _ _ _ _ le_rfl, if_pos ⟨le_rfl, le_rfl⟩, Nat.sub_self]
  rfl

theorem bitOf_setBit_ne (n : Nat) {i j : Nat} (h : j ≠ i) : bitOf (setBits n i i 1) j = bitOf n j := by
  rw [bitOf_setBits _ _ _ _ _ le_rfl, if_neg (by omega)]

/-- The slot at which a lane swap falls, where it is not past. -/
theorem laneSwapSlot_of_set {n : Nat} (h : (s.link l).swapLane = some n) : ∃ u, exec (.laneSwapSlot l) s = .next (swapLane l n u) ∧
    u.net = s.net ∧ s.tick.st ≤ u.tick.st := by
  have hexec : exec (.laneSwapSlot l) s = execLaneSwapSlot l s := rfl
  simp only [hexec, execLaneSwapSlot, h]
  refine ⟨_, rfl, ?_⟩
  split
  · exact ⟨rfl, Nat.le_max_left ..⟩
  · exact ⟨rfl, le_rfl⟩

/-! ## Links that go down or are refused -/

variable {code : Nat}

theorem linkDown_service : ((linkDown code l lane s).link l).service =
    ({ (s.link l).unlock with downAt := s.tick.st, mode := .down } : Link).service := by
  rw [linkDown, raiseLink_link, setLinkMode_service, link_setLink_self]
  rfl

theorem linkDown_mode : ((linkDown code l lane s).link l).mode = .down := congrArg Link.mode linkDown_service

theorem linkDown_lock : ((linkDown code l lane s).link l).lock = false := congrArg Link.lock linkDown_service

theorem linkDown_journalled (h : routeJr code) : Journalled code (linkDown code l lane s) := raiseLink_journalled h ..

theorem linkDown_st : (linkDown code l lane s).tick.st = s.tick.st := by
  rw [linkDown, raiseLink, (raise_work ..).st, setLinkMode_st]
  rfl

theorem linkRefused_mode : ((linkRefused code l s).link l).mode = .refused := by
  rw [linkRefused, raiseLink_link, setLinkMode_mode]

theorem linkRefused_journalled (h : routeJr code) : Journalled code (linkRefused code l s) := raiseLink_journalled h ..

theorem linkRefused_service : ((linkRefused code l s).link l).service =
    ({ s.link l with cleanWin := 0, mode := .refused } : Link).service := by
  rw [linkRefused, raiseLink_link, setLinkMode_service, link_setLink_self]
  rfl

theorem linkRefused_st : (linkRefused code l s).tick.st = s.tick.st := by
  rw [linkRefused, raiseLink, (raise_work ..).st, setLinkMode_st]
  rfl

end

/-! ## HELD for a link (R431) -/

theorem linkConnected_congr {s t : State} (hod : t.od = s.od) (hlife : t.life = s.life) (l : Nat) :
    t.linkConnected l = s.linkConnected l := by
  simp only [State.linkConnected, State.peerPresent, State.peer, State.topology, State.nGroups, State.moduleNo, odNat,
    hod, hlife]

section
variable {l : Nat} {s : State} (hc : s.linkConnected l) (hd : (s.link l).mode = .down)
include hc hd

/-- A connected link that is DOWN stays so in HELD. -/
theorem idleLinks_down : ((idleLinks s).link l).mode = .down := by
  unfold idleLinks
  refine (foldl_inv (fun t : State => (t.od = s.od ∧ t.life = s.life) ∧ (t.link l).mode = .down) _ _ s ⟨⟨rfl, rfl⟩, hd⟩
    (fun t j h => ?_)).2
  obtain ⟨⟨hod, hlife⟩, hdown⟩ := h
  refine ⟨⟨hod, hlife⟩, ?_⟩
  rcases eq_or_ne l j with rfl | hne
  · rw [link_setLink_self]
    simp [linkConnected_congr hod hlife, hc, hdown]
  · rw [link_setLink_ne _ _ hne, hdown]

theorem failStage_down (n : Nat) : ((failStage n s).link l).mode = .down := by
  have hkept := raise_frame { EventRec.mk' 0x0703 with unit := some n } s
  have hnet : ∀ u : State, ∀ cause obj, (enterHeld cause obj u).net = (idleLinks u).net := fun u cause obj =>
    (enterState_frame .held { (idleLinks u) with life := _ }).off.same .net (by decide)
  rw [failStage, State.link, hnet]
  refine idleLinks_down ?_ ?_
  · rw [linkConnected_congr (hkept.od_eq (by decide)) (hkept.life_eq (by decide)), hc]
  · rw [State.link, hkept.off.same .net (by decide), ← State.link, hd]

end

theorem failStage_held (n : Nat) (s : State) : (failStage n s).life.state = .held :=
  congrArg Life.state (enterState_life ..)

theorem enterHeld_journal (cause obj : Nat) (s : State) : JournalGrows s (enterHeld cause obj s) := by
  unfold enterHeld
  extract_lets t
  have hidle : JournalGrows s t := .of_kept (idleLinks_frame s)
  clear_value t
  exact hidle.trans (enterState_journal .held { t with life := { t.life with heldCause := cause, heldObject := obj } })

theorem failStage_journal (n : Nat) (s : State) : JournalGrows s (failStage n s) :=
  (raiseFor_journal ..).trans (enterHeld_journal ..)

/-! ## Training (R338, R341, R342) -/

/-- The link after a training that succeeded, with what it found of its peer. -/
def linkTrained (l : Nat) (fresh : Bool) (res : TrainResult) (s : State) : State :=
  let equal := if !fresh && s.savedFor l res && res.restoreOk then (s.odCur (0x4040 + l) 0x0B).drop 3 else res.equal
  s.setLink l { s.link l with peerModule := res.peerModule, peerLink := res.peerLink, propNs := res.propNs, lock := true,
                              soakBad := false, equal := equal, equalEff := s.equalWith l equal }

section
variable {l : Nat} {fresh : Bool} {res : TrainResult} {s : State}

theorem trainLink_of_failed (hr : res.restoreOk = false) (hf : res.fullOk = false) (h2 : res.secondOk = false) :
    trainLink l fresh res s = linkDown 0x0401 l 7 s := by
  unfold trainLink
  extract_lets k kept restored
  exact if_pos (by simp [restored, hr, hf, h2])

section
variable (hf : res.fullOk)
include hf

theorem trainLink_of_full : trainLink l fresh res s =
    let u := linkTrained l fresh res s
    if s.peer l ≠ some (res.peerModule, res.peerLink) ∨ 75 < res.propNs then linkRefused 0x0406 l u
    else (commonLevel s.life.generation res.peerLevel res.peerLevelMin).elim (linkRefused 0x0405 l u)
      (fun v => setLinkMode l (if (s.link l).lock && (s.link l).historyOk then .up else .soak) (u.setLink l { u.link l with level := v })) := by
  unfold trainLink
  extract_lets k kept restored equal u
  rw [if_neg (by simp [hf])]
  change (if s.peer l ≠ some (res.peerModule, res.peerLink) ∨ 75 < res.propNs then _ else _) = _
  split
  · rfl
  · change (match commonLevel s.life.generation res.peerLevel res.peerLevelMin with | none => _ | some v => _) = _
    cases commonLevel s.life.generation res.peerLevel res.peerLevelMin <;> rfl

theorem trainLink_of_stranger (h : s.peer l ≠ some (res.peerModule, res.peerLink) ∨ 75 < res.propNs) :
    trainLink l fresh res s = linkRefused 0x0406 l (linkTrained l fresh res s) :=
  (trainLink_of_full hf).trans (if_pos h)

variable (hp : s.peer l = some (res.peerModule, res.peerLink)) (hn : res.propNs ≤ 75)
include hp hn

theorem trainLink_of_peer : trainLink l fresh res s =
    (commonLevel s.life.generation res.peerLevel res.peerLevelMin).elim (linkRefused 0x0405 l (linkTrained l fresh res s))
      (fun v => setLinkMode l (if (s.link l).lock && (s.link l).historyOk then .up else .soak)
        ((linkTrained l fresh res s).setLink l { (linkTrained l fresh res s).link l with level := v })) :=
  (trainLink_of_full hf).trans (if_neg (by simp [hp, hn]))

end

theorem trainLink_st : (trainLink l fresh res s).tick.st = s.tick.st := by
  unfold trainLink
  extract_lets k kept restored equal u
  have hu : u.tick.st = s.tick.st := rfl
  clear_value u
  split
  · exact linkDown_st
  · split
    · exact linkRefused_st.trans hu
    · split
      · exact linkRefused_st.trans hu
      · exact setLinkMode_st.trans hu

end

end Sys2Proof.Machine
end

section
/-!
The modes of the links (R337-R339, R341, R342, R344, R346): each event of a link in service.
-/

namespace Sys2Proof.Machine

open Sys2Proof

/-! ## The end of the soak (R338) -/

theorem all_gateBer_iff {ber : List Nat} : ber.all (· < gateBer) = true ↔ ∀ b ∈ ber, b < 1000 := by
  rw [List.all_eq_true]
  exact forall₂_congr fun b _ => decide_eq_true_iff

theorem gatePass_iff {k : Link} {ber : List Nat} {bad : Bool} :
    k.gatePass ber bad = true ↔ (∀ b ∈ ber, b < 1000) ∧ k.soakBad = false ∧ bad = false := by
  rw [Link.gatePass, Bool.and_eq_true, all_gateBer_iff, Bool.not_eq_true', Bool.or_eq_false_iff]

theorem allMapped_congr {s t : State} (h : t.mnt = s.mnt) : t.allMapped = s.allMapped := by
  simp only [State.allMapped, State.unworking, State.logMac, State.logCore, State.physMac, State.physCore, State.physCluster, h]

theorem tryReady_kept {s : State} (h : s.allMapped) : Kept [.life, .jr, .host, .tick] s (tryReady s) := by
  unfold tryReady
  simp only [h, if_true]
  refine kept_ite (.step (by decide) (.step (by decide) ?_ (enterState_frame ..)) (checkPaths_frame _)) (.refl _ s)
  exact .life (by decide) (.refl _ s)

theorem newTxn_txns (ents : List (Nat × List Byte)) (done : TxnDone) (host : Bool) (s : State) :
    ∃ x, (newTxn ents done host s).od.txns = s.od.txns ++ [x] ∧ x.ents = ents := ⟨_, rfl, rfl⟩

section
variable {l : Nat} {ber : List Nat} {bad : Bool} {s : State}

/-- The link after a soak that passed, with its settings to be saved. -/
def soakPassed (l : Nat) (s : State) : State :=
  ptcTxn [(odKey (0x4040 + l) 0x0B, savedBytes (s.link l)), (odKey (0x4040 + l) 0x0C, [1])]
    (setLinkMode l .up (s.setLink l { s.link l with soakFails := 0, cleanWin := 2, errNow := false }))

theorem soakPassed_service : ((soakPassed l s).link l).service =
    ({ s.link l with soakFails := 0, cleanWin := 2, errNow := false, mode := .up } : Link).service := by
  rw [soakPassed, State.link, (ptcTxn_frame ..).off.same .net (by decide), ← State.link, setLinkMode_service, link_setLink_self]
  rfl

theorem soakPassed_txns : ∃ x, (soakPassed l s).od.txns = s.od.txns ++ [x] ∧
    x.ents = [(odKey (0x4040 + l) 0x0B, savedBytes (s.link l)), (odKey (0x4040 + l) 0x0C, [1])] := by
  obtain ⟨x, hx, hents⟩ := newTxn_txns [(odKey (0x4040 + l) 0x0B, savedBytes (s.link l)), (odKey (0x4040 + l) 0x0C, [1])] .ptc false
    (setLinkMode l .up (s.setLink l { s.link l with soakFails := 0, cleanWin := 2, errNow := false }))
  exact ⟨x, hx.trans (by rw [(setLinkMode_frame ..).od_eq (by decide)]; rfl), hents⟩

theorem soakPassed_mnt : (soakPassed l s).mnt = s.mnt := by
  rw [soakPassed, (ptcTxn_frame ..).mnt_eq (by decide), (setLinkMode_frame ..).mnt_eq (by decide)]
  rfl

theorem soakEnd_of_pass (hm : s.allMapped) (h : (s.link l).gatePass ber bad) :
    Kept [.life, .jr, .host, .tick] (soakPassed l s) (soakEnd l ber bad s) := by
  have hend : soakEnd l ber bad s = tryReady (soakPassed l s) := if_pos h
  rw [hend]
  exact tryReady_kept ((allMapped_congr soakPassed_mnt).trans hm)

theorem soakEnd_of_first (h : (s.link l).gatePass ber bad = false) (hf : (s.link l).soakFails = 0) :
    soakEnd l ber bad s = setLinkMode l .train (s.setLink l { (s.link l).unlock with soakFails := 1 }) :=
  (if_neg (by simp [h])).trans (if_pos hf)

/-- A soak that fails again leaves the link DOWN. -/
def soakFailed (l : Nat) (s : State) : State := linkDown 0x0402 l 7 (s.setLink l { s.link l with soakFails := 0 })

theorem soakEnd_of_again (h : (s.link l).gatePass ber bad = false) (hf : (s.link l).soakFails ≠ 0) :
    soakEnd l ber bad s = if (soakFailed l s).life.state = .training then failStage 8 (soakFailed l s) else soakFailed l s :=
  (if_neg (by simp [h])).trans (if_neg hf)

theorem soakFailed_kept : Kept [.jr, .host, .reg, .tick, .cores, .net] s (soakFailed l s) :=
  .step (by decide) (.step (by decide) (.refl _ s) (State.setLink_frame ..)) (linkDown_frame ..)

theorem soakEnd_down (hc : s.linkConnected l) (h : (s.link l).gatePass ber bad = false) (hf : (s.link l).soakFails ≠ 0) :
    ((soakEnd l ber bad s).link l).mode = .down ∧ Journalled 0x0402 (soakEnd l ber bad s) ∧
      (s.life.state = .training → (soakEnd l ber bad s).life.state = .held) := by
  have hmode : ((soakFailed l s).link l).mode = .down := linkDown_mode
  have hjournal : Journalled 0x0402 (soakFailed l s) := linkDown_journalled (by decide)
  have hlife : (soakFailed l s).life = s.life := soakFailed_kept.life_eq (by decide)
  have hconnected : (soakFailed l s).linkConnected l := by
    rw [linkConnected_congr (soakFailed_kept.od_eq (by decide)) hlife, hc]
  rw [soakEnd_of_again h hf]
  split
  next => exact ⟨failStage_down hconnected hmode 8, (failStage_journal ..).journalled hjournal, fun _ => failStage_held ..⟩
  next htrain => exact ⟨hmode, hjournal, fun ht => absurd (hlife ▸ ht) htrain⟩

theorem exec_soakEnd (hl : l < 36) (hm : (s.link l).mode = .soak) : exec (.soakEnd l ber bad) s = .next (soakEnd l ber bad s) :=
  congrArg Host.Outcome.next (if_pos ⟨hl, hm⟩)

end

/-! ## Lost lane lock (R339) -/

section
variable {l n : Nat} {ok : Bool} {s : State}

theorem laneLockLost_of_spare (hn : n < 4) (hb : bitOf (s.link l).replaced n = false) (h : (s.link l).spareFree) :
    laneLockLost l n ok s = if ok then swapLane l n s else linkDown 0x0404 l n s := by
  unfold laneLockLost
  rw [if_neg (by omega), if_neg (by simp [hb]), h, Bool.true_and]

theorem laneLockLost_of_noSpare (hn : n < 4) (hb : bitOf (s.link l).replaced n = false) (h : (s.link l).spareFree = false) :
    laneLockLost l n ok s = linkDown 0x0404 l n s := by
  unfold laneLockLost
  rw [if_neg (by omega), if_neg (by simp [hb]), h, Bool.false_and, if_neg (by decide)]

theorem spareFree_iff {k : Link} : k.spareFree = true ↔ k.spareBad = false ∧ k.replaced = 0 := by
  simp [Link.spareFree]

/-- The link whose spare lane has lost lock. -/
def spareLost (l : Nat) (s : State) : State :=
  s.setLink l { s.link l with spareBad := true, laneMap := setBits (s.link l).laneMap 7 7 1 }

theorem laneLockLost_spare : laneLockLost l 4 ok s =
    if (s.link l).replaced % 16 = 0 then spareLost l s else linkDown 0x0404 l 4 (spareLost l s) := rfl

theorem exec_laneLockLost (hl : l < 36) (hn : n < 5) (hm : (s.link l).mode.usable ∨ (s.link l).mode = .soak) :
    exec (.laneLockLost l n ok) s = .next (settleState (laneLockLost l n ok s)) :=
  congrArg Host.Outcome.next (if_pos ⟨hl, hn, hm⟩)

end

/-! ## The election of the time master (R344) -/

/-- A way to the time master is a link on which a module announced itself. -/
theorem mem_announced {s : State} {c : Nat × Nat × Nat × Nat} (h : c ∈ s.announced) :
    c.2.2.2 ∈ s.markerLinks true ∧ (s.link c.2.2.2).master = some (c.2.1, c.1, c.2.2.1) ∧ c.1 ≠ 0 ∧ c.2.1 ≠ s.moduleNo := by
  obtain ⟨l, hl, hc⟩ := List.mem_filterMap.1 h
  split at hc
  next m prio hops hmaster =>
    split at hc
    next hcond =>
      obtain rfl := Option.some.inj hc
      exact ⟨hl, hmaster, hcond⟩
    next => cases hc
  next => cases hc

/-- The ways are gone through one by one, and the best so far is one of them. -/
theorem foldl_way_mem (ways : List (Nat × Nat × Nat × Nat)) : ∀ x,
    ways.foldl (fun (b : Option (Nat × Nat)) (c : Nat × Nat × Nat × Nat) =>
      match b with
      | none => some (c.2.2.1, c.2.2.2)
      | some b => if c.2.2.1 < b.1 then some (c.2.2.1, c.2.2.2) else some b) none = some x →
    ∃ c ∈ ways, (c.2.2.1, c.2.2.2) = x := by
  refine List.foldlRecOn (motive := fun b : Option (Nat × Nat) => ∀ x, b = some x → ∃ c ∈ ways, (c.2.2.1, c.2.2.2) = x)
    ways _ (by simp) (fun b hb c hc x hx => ?_)
  split at hx
  · exact ⟨c, hc, Option.some.inj hx⟩
  · split at hx
    · exact ⟨c, hc, Option.some.inj hx⟩
    · exact hb _ (by simpa using hx)

theorem elect_links (s : State) : (elect s).net.links = s.net.links := by
  unfold elect
  extract_lets own cands all best
  rcases best with _ | ⟨prio, m⟩
  · rfl
  · dsimp only
    split <;> rfl

theorem elect_link (s : State) (l : Nat) : (elect s).link l = s.link l := by
  rw [State.link, elect_links, State.link]

theorem elect_parent {s : State} {l : Nat} (h : (elect s).net.parent = some l) : ∃ c ∈ s.announced, c.2.2.2 = l := by
  unfold elect at h
  extract_lets own cands all best at h
  rcases best with _ | ⟨prio, m⟩
  · cases h
  · dsimp only at h
    split at h
    · cases h
    · obtain ⟨x, hx, rfl⟩ := Option.map_eq_some_iff.1 h
      obtain ⟨c, hc, rfl⟩ := foldl_way_mem _ _ hx
      exact ⟨c, (List.mem_filter.1 hc).1, rfl⟩

/-- A link with no announcement is no parent. -/
theorem elect_parent_ne {s : State} {l : Nat} (h : (s.link l).master = none) : (elect s).net.parent ≠ some l := fun hp => by
  obtain ⟨c, hc, rfl⟩ := elect_parent hp
  obtain ⟨-, hmaster, -, -⟩ := mem_announced hc
  exact absurd (h.symm.trans hmaster) (by simp)

/-! ## BER windows, LOWPWR and the time parent -/

section
variable {l : Nat} {ber : List Nat} {corr : Nat} {s : State}

/-- The link after a window of bit error rates. -/
def Link.windowed (k : Link) (ber : List Nat) (corr swap : Nat) : Link :=
  { k with ber := ber.foldl max 0,
           overBer := (List.range 4).map (fun i => if swap < ber.getD i 0 then k.overBer.getD i 0 + 1 else 0),
           fecCorr := (k.fecCorr + corr) % 2 ^ 64, replaysSec := 0,
           cleanWin := if ber.all (· < gateBer) && !k.errNow then k.cleanWin + 1 else 0, errNow := false }

/-- A degraded lane asks for its swap, beside the window's counts. -/
theorem berWindow_link : (berWindow l ber corr s).link l = (s.link l).windowed ber corr (swapBer s) := by
  unfold berWindow
  extract_lets k counts clean t k'
  have ht : t.link l = k.windowed ber corr (swapBer s) := link_setLink_self ..
  split
  · exact ht
  · exact ht

theorem exec_berWindow (hl : l < 36) (hk : (s.link l).lock) : exec (.berWindow l ber corr) s = .next (berWindow l ber corr s) :=
  congrArg Host.Outcome.next (if_pos ⟨hl, hk⟩)

theorem exec_linkRetry {res : TrainResult} (hl : l < 36) (hs : s.serving) (hc : s.linkConnected l) (hd : (s.link l).mode = .down) :
    exec (.linkRetry l res) s = .next (trainLink l false res (advanceTo ((s.link l).downAt + 10000 * msSt) s)) := by
  refine (congrArg Host.Outcome.next (if_pos ⟨hl, hs, hc⟩)).trans ?_
  rw [hd]

theorem exec_lowpwrEntry {asks : Bool} (hl : l < 36) (hm : (s.link l).mode = .up) : exec (.lowpwrEntry l asks) s =
    .next (if s.partsParked && asks then settleState (setLinkMode l .lowpwr s) else s) :=
  congrArg Host.Outcome.next (if_pos ⟨hl, hm⟩)

theorem exec_lowpwrWake (hm : (s.link l).mode = .lowpwr) : exec (.lowpwrWake l) s = .next (setLinkMode l .up s) :=
  congrArg Host.Outcome.next (if_pos hm)

/-- The time parent's link without what came over it. -/
def parentLost (l : Nat) (s : State) : State := s.setLink l { s.link l with master := none, syncT1 := none }

theorem exec_parentLinkFail (hp : s.net.parent = some l) (hu : (s.link l).mode.usable = false) (hm : (s.link l).mode ≠ .soak) :
    exec .parentLinkFail s = .next (elect (parentLost l s)) := by
  have hexec : exec .parentLinkFail s = execParentLinkFail s := rfl
  rw [hexec, execParentLinkFail, hp]
  exact congrArg Host.Outcome.next (if_neg (by simp [hu, hm]))

theorem raiseOncePer_of_fresh {gap key : Nat} {e : EventRec} {fns : List Nat} (hj : routeJr e.code)
    (h : ∀ x ∈ s.jr.raised, x.1 ≠ e.code) : Journalled e.code (raiseOncePer gap key e fns s) := by
  unfold raiseOncePer
  split
  next hany =>
    obtain ⟨x, hx, hcond⟩ := List.any_eq_true.1 hany
    exact absurd (decide_eq_true_iff.1 hcond).1 (h x hx)
  next =>
    refine ⟨{ e with time := s.tick.st }, ?_, rfl⟩
    simp only [raiseFor, hj, if_true]
    exact List.mem_append_right _ (List.mem_singleton_self _)

theorem exec_holdoverTimeout {u : Nat} (hm : s.net.master = none) (hu : s.net.lostSince = some u) : exec .holdoverTimeout s =
    .next (raiseOncePer (1000 * msSt) 0 { EventRec.mk' 0x0409 with info := some 0 } [] (advanceTo (u + 1000 * msSt) s)) := by
  have hexec : exec .holdoverTimeout s = execHoldoverTimeout s := rfl
  rw [hexec, execHoldoverTimeout, hm, hu]

end

/-- Settles O54: each event of a link is its change of mode or of lanes, and the work of the output ports leaves both as they are. -/
theorem linkModesFollowTheLanes : Obligations.LinkModesFollowTheLanes := by
  refine ⟨fun s l w hmark => ?laneSwap, fun s l n hswap hn => ?laneSwapSlot, fun s l ber bad hl hsoak hmapped hconn => ?soakEnd,
    fun s l corr ber hl hlock => ?berWindow, fun s l n ok hl hn hmode hfree => ?lockLost, fun s l ok hl hmode => ?spareLost,
    fun s l res hl hserving hconn hdown => ?linkRetry, fun s l asks hl hup => ?lowpwrEntry, fun s l hlow => ?lowpwrWake,
    fun s l hparent husable hsoak => ?parentLinkFail, fun s u hmaster hlost hfresh => ?holdover⟩
  case laneSwap =>
    have hexec : exec (.laneSwap l w) s = .next (laneSwapMark l w s) := rfl
    rw [hexec, laneSwapMark, onMarker_of_taken hmark]
    simp [bitsOf]
  case laneSwapSlot =>
    obtain ⟨u, hexec, hnet, hst⟩ := laneSwapSlot_of_set hswap
    have hlink : u.link l = s.link l := by rw [State.link, hnet, State.link]
    refine ⟨_, hexec, ?_⟩
    rw [swapLane_link, swapLane_st, hlink]
    exact ⟨rfl, bitOf_setBit_self .., fun i hi => bitOf_setBit_ne _ hi, rfl, hst, swapLane_journalled⟩
  case soakEnd =>
    refine ⟨fun hpass => ?_, fun hfail => ⟨_, exec_soakEnd hl hsoak, ?_⟩⟩
    · have hend := soakEnd_of_pass hmapped (gatePass_iff.2 hpass)
      obtain ⟨x, hx, hents⟩ := soakPassed_txns (l := l) (s := s)
      have hlink : (soakEnd l ber bad s).link l = (soakPassed l s).link l := by
        rw [State.link, hend.off.same .net (by decide), State.link]
      refine ⟨_, x, exec_soakEnd hl hsoak, ?_, ?_, ?_, hents⟩
      · rw [hlink]
        exact congrArg Link.mode soakPassed_service
      · rw [hlink]
        exact congrArg Link.soakFails soakPassed_service
      · rw [hend.od_eq (by decide), hx]
    · have hgate : (s.link l).gatePass ber bad = false := Bool.eq_false_iff.2 fun h => hfail (gatePass_iff.1 h)
      split
      next hfirst =>
        have hend := setLinkMode_service (l := l) (m := .train) (s := s.setLink l { (s.link l).unlock with soakFails := 1 })
        rw [soakEnd_of_first hgate hfirst]
        exact ⟨setLinkMode_mode, (congrArg Link.soakFails hend).trans (by rw [link_setLink_self]; rfl)⟩
      next hagain => exact soakEnd_down hconn hgate hagain
  case berWindow =>
    refine ⟨_, exec_berWindow hl hlock, (berWindow_frame ..).off, ?_⟩
    rw [berWindow_link]
    refine ⟨rfl, rfl, rfl, ?_, fun i hi => ?_⟩
    · simp only [Link.windowed, Bool.and_eq_true, all_gateBer_iff, Bool.not_eq_true']
    · simp [Link.windowed, hi, swapBer]
  case lockLost =>
    refine ⟨_, exec_laneLockLost hl (by omega) hmode, ?_⟩
    rw [settleState_link]
    split
    next hcond =>
      obtain ⟨hbad, hnone, hok⟩ := hcond
      rw [laneLockLost_of_spare hn hfree (spareFree_iff.2 ⟨hbad, hnone⟩), if_pos hok, swapLane_link]
      exact ⟨bitOf_setBit_self .., rfl, (settleState_journal _).journalled swapLane_journalled⟩
    next hcond =>
      have hdown : laneLockLost l n ok s = linkDown 0x0404 l n s := by
        cases hspare : (s.link l).spareFree with
        | false => exact laneLockLost_of_noSpare hn hfree hspare
        | true =>
          obtain ⟨hbad, hnone⟩ := spareFree_iff.1 hspare
          rw [laneLockLost_of_spare hn hfree hspare, if_neg fun hok => hcond ⟨hbad, hnone, hok⟩]
      rw [hdown]
      exact ⟨linkDown_mode, linkDown_lock, (settleState_journal _).journalled (linkDown_journalled (by decide))⟩
  case spareLost =>
    refine ⟨_, exec_laneLockLost hl (by omega) hmode, ?_⟩
    rw [settleState_link, laneLockLost_spare]
    split
    next => exact ⟨by rw [spareLost, link_setLink_self], by rw [spareLost, link_setLink_self]⟩
    next =>
      refine ⟨(congrArg Link.spareBad linkDown_service).trans ?_, linkDown_mode,
        (settleState_journal _).journalled (linkDown_journalled (by decide))⟩
      rw [spareLost, link_setLink_self]
      rfl
  case linkRetry =>
    refine ⟨_, exec_linkRetry hl hserving hconn hdown, trainLink_st, fun hrestore hfull hsecond => ?_, fun hfull hstranger => ?_,
      fun hfull hpeer hprop => ?_⟩
    · rw [trainLink_of_failed hrestore hfull hsecond]
      exact ⟨linkDown_mode, linkDown_journalled (by decide)⟩
    · rw [trainLink_of_stranger (s := advanceTo _ s) hfull hstranger]
      exact ⟨linkRefused_mode, linkRefused_journalled (by decide)⟩
    · rw [trainLink_of_peer (s := advanceTo _ s) hfull hpeer hprop]
      have hlevel : commonLevel s.life.generation res.peerLevel res.peerLevelMin =
        if s.life.generation - 1 ≤ min s.life.generation res.peerLevel ∧ res.peerLevelMin ≤ min s.life.generation res.peerLevel
          then some (min s.life.generation res.peerLevel) else none := rfl
      rw [advanceTo_life, hlevel]
      dsimp only
      split
      next =>
        refine ⟨setLinkMode_mode.trans ?_, (congrArg Link.level setLinkMode_service).trans ?_⟩
        · simp only [Bool.and_eq_true]
          rfl
        · rw [link_setLink_self]
          rfl
      next => exact ⟨linkRefused_mode, linkRefused_journalled (by decide)⟩
  case lowpwrEntry =>
    rw [exec_lowpwrEntry hl hup]
    split
    next hcond =>
      refine ⟨_, rfl, ?_⟩
      rw [if_pos (by simp [hcond]), settleState_link, setLinkMode_mode]
    next hcond => rw [if_neg (by simpa using hcond)]
  case lowpwrWake => exact ⟨_, exec_lowpwrWake hlow, setLinkMode_mode⟩
  case parentLinkFail =>
    have hexec := exec_parentLinkFail hparent husable hsoak
    refine ⟨_, hexec, (exec_kept hexec).off, ?_, fun j hj => ?_, elect_parent_ne ?_⟩
    · rw [elect_link, parentLost, link_setLink_self]
    · rw [elect_link, parentLost, link_setLink_ne _ _ hj]
    · rw [parentLost, link_setLink_self]
  case holdover =>
    refine ⟨_, exec_holdoverTimeout hmaster hlost, ?_, raiseOncePer_of_fresh (by decide) hfresh, ?_⟩
    · rw [(raiseOncePer_frame ..).tick_eq (by decide)]
      rfl
    · exact (raiseOncePer_frame ..).off.same .net (by decide)

end Sys2Proof.Machine
end

section
/-!
Markers of the tick network (R335, R344, R345, R350-R356, R376): what each type of Table 11-7 does where the link takes it.
-/

namespace Sys2Proof.Machine

open Sys2Proof

/-! ## PENNANT (R351-R353) -/

section
variable {l p : Nat} {w : Dword} {s : State}

theorem exec_pennant (hmark : MarkerOn l 1 w false s) (hp : s.memberPart l (penPid w) = some p) :
    exec (.pennant l w) s = .next (pennantIn p l w s) := by
  have hexec : exec (.pennant l w) s = .next (pennantMark l w s) := rfl
  rw [hexec, pennantMark, onMarker_of_taken hmark, hp]

/-- A word of another tick: the partition is frozen. -/
def pennantFreeze (p l : Nat) (w : Dword) (s : State) : State :=
  floodMembers p (some l) w (s.setPart p { s.part p with state := .frozen })

theorem pennantIn_of_other (ht : s.partTicks p) (h : ¬(w.getLsbD 42 = (s.part p).prevAdv ∧ bitsOf w.toNat 41 40 = (s.part p).tick % 4)) :
    ∃ e : EventRec, e.code = 0x0408 ∧ pennantIn p l w s = raise e (settleState (applyPartPend p (pennantFreeze p l w s))) := by
  unfold pennantIn
  rw [if_neg (by simp [ht])]
  refine ⟨_, rfl, if_pos ?_⟩
  rw [Bool.or_eq_true, bne_iff_ne, bne_iff_ne]
  by_contra hboth
  obtain ⟨hadv, htick⟩ := not_or.1 hboth
  exact h ⟨not_not.1 hadv, not_not.1 htick⟩

theorem pennantIn_of_same (ht : s.partTicks p) (h : w.getLsbD 42 = (s.part p).prevAdv ∧ bitsOf w.toNat 41 40 = (s.part p).tick % 4) :
    pennantIn p l w s = if (s.part p).hasFinal then s
      else s.setPart p { s.part p with merged := if (s.part p).merged = 0 then w else penMerge (s.part p).merged w } := by
  obtain ⟨hadv, htick⟩ := h
  unfold pennantIn
  rw [if_neg (by simp [ht])]
  exact if_neg (by rw [hadv, htick, bne_self_eq_false, bne_self_eq_false]; decide)

theorem pennantIn_of_stopped (ht : s.partTicks p = false) : pennantIn p l w s = s := if_pos (by simp [ht])

theorem applyPartPend_grows (p : Nat) (s : State) : OutGrows s (applyPartPend p s) := .of_kept (applyPartPend_frame p s)

/-- After the freeze, pending changes of shares and the module's state settle. -/
theorem freezeSettled_part (q : Nat) : (settleState (applyPartPend p (pennantFreeze p l w s))).part q =
    (s.setPart p { s.part p with state := .frozen }).part q := by
  rw [settleState_part, (applyPartPend_carriesOn 0 p _).ticks.part, pennantFreeze,
    (floodMembers_frame ..).part (by decide)]

/-- The flood of a marker that came by link l. -/
theorem floodMembers_from (p l : Nat) (w : Dword) (s : State) : floodMembers p (some l) w s =
    sent (((s.markerLinks false).filter (fun j => j ≠ l ∧ s.toMember p j)).map (fun j => .marker j w)) s := by
  rw [floodMembers_eq]
  simp only [ne_eq, Option.some.injEq, eq_comm]

theorem pennantFreeze_out {j : Nat} (hj : j ∈ s.markerLinks false) (hne : j ≠ l) (hm : s.toMember p j) :
    OutMsg.marker j w ∈ (pennantFreeze p l w s).host.out := by
  rw [pennantFreeze, floodMembers_from]
  exact List.mem_append_right _ (List.mem_map.2 ⟨j, List.mem_filter.2 ⟨hj, decide_eq_true ⟨hne, hm⟩⟩, rfl⟩)

/-! ## FEATURE (R348) -/

theorem exec_feature (hmark : MarkerOn l 2 w false s) (hp : s.memberPart l (bitsOf w.toNat 59 48) = some p) :
    exec (.feature l w) s = .next (featureIn p l w s) := by
  have hexec : exec (.feature l w) s = .next (featureMark l w s) := rfl
  rw [hexec, featureMark, onMarker_of_taken hmark, hp]

theorem featureIn_of_known (h : (featOrigin w, w) ∈ (s.part p).features) : featureIn p l w s = s :=
  if_pos (.inr (.inr (List.any_eq_true.2 ⟨_, h, by simp⟩)))

/-- A report that is new is held in place of the one before, and goes on. -/
theorem featureIn_of_new (ho : featOrigin w ≠ s.moduleNo) (hm : (s.partMembers p).contains (featOrigin w))
    (h : (featOrigin w, w) ∉ (s.part p).features) : featureIn p l w s = floodMembers p (some l) w
      (s.setPart p { s.part p with features := (s.part p).features.filter (fun x => x.1 ≠ featOrigin w) ++ [(featOrigin w, w)] }) := by
  refine if_neg ?_
  rintro (ho' | hm' | hany)
  · exact ho ho'
  · rw [hm] at hm'
    exact absurd hm' (by decide)
  · obtain ⟨x, hx, heq⟩ := List.any_eq_true.1 hany
    obtain ⟨h1, h2⟩ := Bool.and_eq_true_iff.1 heq
    exact h (by rwa [← beq_iff_eq.1 h1, ← beq_iff_eq.1 h2])

theorem exec_featureResend (hp : p < 16) (hs : s.spanning p) :
    exec (.featureResend p) s = .next (floodMembers p none (s.ownFeature p) s) :=
  congrArg Host.Outcome.next (if_pos ⟨hp, hs⟩)

/-! ## SYNC (R345) -/

theorem exec_syncReq {n : Nat} (hmark : MarkerOn l 3 w true s) (hreq : w.getLsbD 59 = false) : exec (.syncReq l w n) s =
    .next (sendMsg (.marker l (mkMarker 3 (2 ^ 59 + n * 32768 / 100 % 2 ^ 16 * 2 ^ 40 + s.tick.st % mod40))) s) := by
  have hexec : exec (.syncReq l w n) s = .next (syncReqMark l w n s) := rfl
  rw [hexec, syncReqMark, onMarker_of_taken hmark, if_neg (by rw [hreq]; decide)]

theorem exec_syncResp {t1 : Nat} (hmark : MarkerOn l 3 w true s) (hresp : w.getLsbD 59) (hparent : s.net.parent = some l)
    (h1 : (s.link l).syncT1 = some t1) : exec (.syncResp l w) s = .next (syncResp l w t1 s) := by
  have hexec : exec (.syncResp l w) s = .next (syncRespMark l w s) := rfl
  rw [hexec, syncRespMark, onMarker_of_taken hmark, h1, if_pos (by rw [hresp, hparent]; simp)]

/-- The delay of R345, in whole numbers. -/
theorem syncDelay_eq {t1 t4 turn : Nat} (h1 : t1 < 2 ^ 40) (ht : turn < 2 ^ 40) :
    syncDelay t1 t4 turn = (((t4 : Int) - t1 - turn) % 2 ^ 40).toNat / 2 := by
  unfold syncDelay mod40
  omega

/-- The offset of R345 is the one nearest to 0. -/
theorem syncOffset_eq {t2 turn delay t4 : Nat} (h4 : t4 < 2 ^ 40) :
    syncOffset t2 turn delay t4 = ((t2 : Int) + turn + delay - t4).bmod (2 ^ 40) := by
  have hmod : (((t2 + turn + delay + mod40 - t4) % mod40 : Nat) : Int) = ((t2 : Int) + turn + delay - t4) % 2 ^ 40 := by
    unfold mod40
    omega
  have hlt : (t2 + turn + delay + mod40 - t4) % mod40 < 2 ^ 40 := Nat.mod_lt _ (by decide)
  rw [syncOffset, Int.bmod, Nat.cast_pow, Nat.cast_ofNat, ← hmod]
  unfold signed
  rw [Nat.mod_eq_of_lt hlt]
  dsimp only
  split <;> split <;> omega

/-- The link once its answer is in. -/
def synced (l delay : Nat) (s : State) : State := s.setLink l { s.link l with syncT1 := none, propNs := delay / 16 % 2 ^ 16 }

theorem syncResp_of_far {t1 : Nat} (h : 1200 < syncDelay t1 (s.tick.st % mod40) (bitsOf w.toNat 55 40)) :
    syncResp l w t1 s = linkRefused 0x0406 l (synced l (syncDelay t1 (s.tick.st % mod40) (bitsOf w.toNat 55 40)) s) := if_pos h

theorem syncResp_of_near {t1 delay : Nat} {off : Int} (hd : delay = syncDelay t1 (s.tick.st % mod40) (bitsOf w.toNat 55 40))
    (ho : off = syncOffset (w.toNat % mod40) (bitsOf w.toNat 55 40) delay (s.tick.st % mod40)) (h : ¬ 1200 < delay) :
    syncResp l w t1 s = { synced l delay s with
      tick := { s.tick with st := (((s.tick.st : Int) + off) % (2 ^ 64 : Nat)).toNat },
      net := { (synced l delay s).net with syncOffset := off } } := by
  subst hd ho
  exact if_neg h

/-! ## FLEET (R354, R376) -/

theorem exec_fleet (hmark : MarkerOn l 4 w false s) : exec (.fleet l w) s =
    .next (if s.fleetNew w then fleetAccept w (flood (some l) w (seeFleet w s)) else s) := by
  have hexec : exec (.fleet l w) s = .next (fleetMark l w s) := rfl
  rw [hexec, fleetMark, onMarker_of_taken hmark]

/-- A command seen is new no more. -/
theorem fleetNew_seen : (seeFleet w s).fleetNew w = false := by
  have hseq : fleetSeq w < 256 := bitsOf_lt ..
  have hid : (fleetId w * 256 + fleetSeq w) / 256 = fleetId w := by omega
  have hlow : (fleetId w * 256 + fleetSeq w) % 256 = fleetSeq w := by omega
  simp [State.fleetNew, seeFleet, hid, hlow, ahead]

theorem fleetNew_congr {t : State} (h : t.net = s.net) : t.fleetNew w = s.fleetNew w := by
  rw [State.fleetNew, State.fleetNew, h]

theorem fleetAccept_of_other (h : fleetId w ≠ odNat s 0x3000 0x0B 0) : fleetAccept w s = s := if_pos (.inl h)

section
variable (hid : fleetId w = odNat s 0x3000 0x0B 0)
  (hnext : ∀ q ∈ s.pwr.fleetLast, 1 ≤ (fleetSeq w + 256 - q) % 256 ∧ (fleetSeq w + 256 - q) % 256 ≤ 127)
include hid hnext

theorem fleetAccept_of_next : fleetAccept w s = if fleetValid w then
    { s with pwr := { s.pwr with fleetLast := some (fleetSeq w), fleetWord := BitVec.ofNat 64 (w.toNat % 2 ^ 60),
                                 fleetWait := s.pwr.fleetWait ++ [w],
                                 status := setBits s.pwr.status 6 6 (bit01 (s.epochBegun w)) } }
    else raisePwr 0x0506 11 s.pwr.input s := by
  unfold fleetAccept
  extract_lets d
  have hd : 1 ≤ d ∧ d ≤ 127 := by
    unfold d
    cases hlast : s.pwr.fleetLast with
    | none => exact ⟨le_rfl, show 1 ≤ 127 by decide⟩
    | some q => exact hnext q hlast
  rw [if_neg (by omega)]
  cases fleetValid w <;> rfl

end

/-! ## ANNOUNCE (R344) -/

theorem exec_announce (hmark : MarkerOn l 6 w true s) : exec (.announce l w) s = .next (elect (s.setLink l
    { s.link l with master := some (bitsOf w.toNat 59 48, bitsOf w.toNat 47 40, bitsOf w.toNat 39 37) })) := by
  have hexec : exec (.announce l w) s = .next (announceMark l w s) := rfl
  rw [hexec, announceMark, onMarker_of_taken hmark]

theorem filterMap_of_single {α β : Type} {f : α → Option β} {a : α} : ∀ {xs : List α}, xs.Nodup → a ∈ xs → (∀ x ∈ xs, x ≠ a → f x = none) →
    xs.filterMap f = (f a).toList
  | [], _, ha, _ => absurd ha (by simp)
  | x :: xs, hnodup, ha, hf => by
    obtain ⟨hx, hxs⟩ := List.nodup_cons.1 hnodup
    rcases List.mem_cons.1 ha with rfl | hmem
    · have hrest : xs.filterMap f = [] := List.filterMap_eq_nil_iff.2 fun y hy => hf y (.tail _ hy) (fun h => hx (h ▸ hy))
      rw [List.filterMap_cons, hrest]
      cases f a <;> rfl
    · rw [List.filterMap_cons, hf x (.head _) (fun h => hx (h ▸ hmem)), filterMap_of_single hxs hmem fun y hy => hf y (.tail _ hy)]

/-- Where one link alone has an announcement, it is the only way to another module. -/
theorem announced_of_single {m prio hops : Nat} (hl : l ∈ s.markerLinks true) (hm : (s.link l).master = some (m, prio, hops))
    (hnone : ∀ j, j ≠ l → (s.link j).master = none) :
    s.announced = if prio ≠ 0 ∧ m ≠ s.moduleNo then [(prio, m, hops, l)] else [] := by
  have hnodup : (s.markerLinks true).Nodup := List.nodup_range.filter _
  rw [State.announced, filterMap_of_single hnodup hl fun j _ hj => by rw [hnone j hj]]
  simp only [hm]
  split <;> rfl

theorem markerLinks_congr {t : State} (h : ∀ j, (t.link j).mode = (s.link j).mode) (soak : Bool) :
    t.markerLinks soak = s.markerLinks soak := by
  simp only [State.markerLinks, h]

theorem elect_of_better {m prio hops : Nat} (ha : s.announced = [(prio, m, hops, l)]) (hm : m ≠ s.moduleNo) (hp : masterPrio s < prio) :
    (elect s).net.master = some (m, prio) ∧ (elect s).net.parent = some l ∧ (elect s).net.hops = min 7 (hops + 1) ∧
      (elect s).net.lostSince = none := by
  unfold elect
  extract_lets own cands all best
  have hbest : best = some (prio, m) := by
    have hp' : own < prio := hp
    simp only [best, all, cands, ha, List.map_cons, List.map_nil]
    by_cases hown : own = 0
    · simp [hown]
    · simp [hown, hp']
  rw [hbest]
  dsimp only
  rw [if_neg hm]
  simp [cands, ha]

theorem elect_of_own (h : ∀ c ∈ s.announced, c.1 < masterPrio s) (hown : masterPrio s ≠ 0) :
    (elect s).net.master = some (s.moduleNo, masterPrio s) ∧ (elect s).net.parent = none ∧ (elect s).net.lostSince = none := by
  unfold elect
  extract_lets own cands all best
  have hbest : best = some (own, s.moduleNo) := by
    simp only [best, all, if_neg (show own ≠ 0 from hown), List.cons_append, List.nil_append, List.foldl_cons]
    refine List.foldlRecOn (motive := fun b : Option (Nat × Nat) => b = some (own, s.moduleNo)) (cands.map _) _ rfl (fun b hb c hc => ?_)
    obtain ⟨x, hx, rfl⟩ := List.mem_map.1 hc
    have hlt : x.1 < own := h x hx
    subst hb
    exact if_neg (by omega)
  rw [hbest]
  dsimp only
  rw [if_pos rfl]
  exact ⟨rfl, rfl, rfl⟩

/-- The announcement of a module that has elected its master. -/
def State.announcement (s : State) : Dword :=
  match s.net.master with
  | some (m, prio) => mkMarker 6 (m * 2 ^ 48 + prio * 2 ^ 40 + s.net.hops * 2 ^ 37)
  | none => mkMarker 6 (s.moduleNo * 2 ^ 48)

theorem announceInterval_sent (s : State) : ∃ t, exec .announceInterval s = .next t ∧
    t = sent (((elect s).markerLinks true).map (fun j => .marker j (elect s).announcement)) (elect s) := by
  refine ⟨_, rfl, ?_⟩
  refine (foldl_sent (c := fun _ => true) (m := fun j => .marker j (elect s).announcement) (fun ms j => ?_) _).trans ?_
  · exact sendMsg_sent ..
  · rw [List.filter_true]

/-! ## LINKSTATE (R335) -/

theorem exec_linkstate (hmark : MarkerOn l 7 w false s) : exec (.linkstate l w) s = .next (linkstateIn l w s) := by
  have hexec : exec (.linkstate l w) s = .next (linkstateMark l w s) := rfl
  rw [hexec, linkstateMark, onMarker_of_taken hmark]

/-- The key of a link in the module's view of the network, and the number of a report of it. -/
def viewKey (w : Dword) : Nat := bitsOf w.toNat 59 48 * 64 + bitsOf w.toNat 47 42
def viewSeq (w : Dword) : Nat := bitsOf w.toNat 38 31

/-- The view with a report taken. -/
def viewed (w : Dword) (s : State) : State :=
  { s with net := { s.net with view := tput s.net.view (viewKey w) (bitsOf w.toNat 41 39, viewSeq w) } }

theorem linkstateIn_of_new (hm : bitsOf w.toNat 59 48 ≠ s.moduleNo) (h : ∀ x ∈ tget s.net.view (viewKey w),
    1 ≤ (viewSeq w + 256 - x.2) % 256 ∧ (viewSeq w + 256 - x.2) % 256 ≤ 127) : (linkstateIn l w s).net = (viewed w s).net := by
  have hin : linkstateIn l w s = checkPaths (flood (some l) w (viewed w s)) := by
    unfold linkstateIn
    extract_lets n m k seq new u
    have hnew : new = true := by
      unfold new
      cases hv : tget s.net.view k with
      | none => rfl
      | some x =>
        obtain ⟨hlow, hhigh⟩ := h x hv
        exact Bool.and_eq_true_iff.2 ⟨decide_eq_true hlow, decide_eq_true hhigh⟩
    rw [if_neg (by rw [hnew]; simpa using hm)]
    rfl
  rw [hin, (checkPaths_frame _).off.same .net (by decide), (flood_frame ..).off.same .net (by decide)]

theorem linkstateIn_of_old {x : Nat × Nat} (hv : tget s.net.view (viewKey w) = some x)
    (h : ¬(1 ≤ (viewSeq w + 256 - x.2) % 256 ∧ (viewSeq w + 256 - x.2) % 256 ≤ 127)) : linkstateIn l w s = s := by
  refine if_pos (.inr ?_)
  change (!(match tget s.net.view (viewKey w) with
    | none => true
    | some (_, q) => decide (1 ≤ (viewSeq w + 256 - q) % 256) && decide ((viewSeq w + 256 - q) % 256 ≤ 127))) = true
  rw [hv, Bool.not_eq_true', Bool.eq_false_iff]
  intro hnew
  obtain ⟨hlow, hhigh⟩ := Bool.and_eq_true_iff.1 hnew
  exact h ⟨of_decide_eq_true hlow, of_decide_eq_true hhigh⟩

end

/-- Settles O53: each marker's effect where the link takes it, and the timed ones on every link that carries them. -/
theorem markersAreTaken : Obligations.MarkersAreTaken := by
  refine ⟨fun s l p w hmark hmember => ?pennant, fun s l p w hmark hmember => ?feature, fun s p hp hspan => ?resend,
    fun s l n w hmark hreq => ?syncReq, fun s l t1 w hmark hresp hparent h1 hlt => ?syncResp, fun s l hparent hl => ?noInterval,
    fun s l hparent hl => ?syncInterval, fun s l w hmark => ?fleet, fun s l w hmark hl hnone => ?announce, fun s => ?announceInterval,
    fun s l w hmark => ?linkstate⟩
  case pennant =>
    have hexec := exec_pennant hmark hmember
    intro pt
    split
    next ht => rw [hexec, pennantIn_of_stopped ht]
    next ht =>
      have ht : s.partTicks p := by simpa using ht
      split
      next hsame => rw [hexec, pennantIn_of_same ht hsame]
      next hother =>
        refine ⟨_, hexec, ?_⟩
        obtain ⟨e, hcode, hfrozen⟩ := pennantIn_of_other (l := l) ht hother
        rw [hfrozen]
        refine ⟨?_, hcode ▸ raise_journalled (by rw [hcode]; decide) _, fun q hq => ?_, fun j hj hne hm => ?_⟩
        · rw [(raise_frame ..).part (by decide), freezeSettled_part, part_setPart_self]
        · rw [(raise_frame ..).part (by decide), freezeSettled_part, part_setPart_ne _ _ hq]
        · exact ((applyPartPend_grows ..).trans ((settleState_grows _).trans (raise_grows ..))).out (pennantFreeze_out hj hne hm)
  case feature =>
    intro o old ho hm
    have hexec := exec_feature hmark hmember
    split
    next hknown => rw [hexec, featureIn_of_known hknown]
    next hnew =>
      refine ⟨_, hexec, ?_⟩
      rw [featureIn_of_new ho hm hnew]
      have hset := State.setPart_frame s p { s.part p with features := old.filter (fun x => x.1 ≠ o) ++ [(o, w)] }
      refine ⟨(Kept.step (by decide) (.step (by decide) (.refl _ s) hset) (floodMembers_frame ..)).off, ?_, fun q hq => ?_, ?_⟩
      · rw [(floodMembers_frame ..).part (by decide), part_setPart_self]
        rfl
      · rw [(floodMembers_frame ..).part (by decide), part_setPart_ne _ _ hq]
      · rw [floodMembers_from]
        rfl
  case resend =>
    refine ⟨_, exec_featureResend hp hspan, (floodMembers_frame ..).off, ?_⟩
    rw [floodMembers_eq]
    simp [sent, State.toMember]
  case syncReq => exact exec_syncReq hmark hreq
  case syncResp =>
    intro t4 turn t2 delay h4 hturn h2 hdelay off hoff
    obtain ⟨d, hd⟩ : ∃ d, d = syncDelay t1 (s.tick.st % mod40) (bitsOf w.toNat 55 40) := ⟨_, rfl⟩
    have hmodel : delay = (d : Int) := by
      rw [hd, syncDelay_eq hlt ((bitsOf_lt ..).trans (by decide)), hdelay, h4, hturn]
      rfl
    subst hmodel
    refine ⟨_, exec_syncResp hmark hresp hparent h1, ?_⟩
    split
    next hfar =>
      rw [syncResp_of_far (hd ▸ Int.ofNat_lt.1 hfar), ← hd]
      refine ⟨(congrArg Link.syncT1 linkRefused_service).trans ?_, linkRefused_mode, linkRefused_journalled (by decide), linkRefused_st⟩
      rw [synced, link_setLink_self]
      rfl
    next hnear =>
      have hoffset : off = syncOffset (w.toNat % mod40) (bitsOf w.toNat 55 40) d (s.tick.st % mod40) := by
        rw [syncOffset_eq (t4 := s.tick.st % mod40) (Nat.mod_lt _ (by decide)), hoff, h4, hturn, h2]
        simp [bitsOf, mod40]
      rw [syncResp_of_near hd hoffset (fun h => hnear (Int.ofNat_lt.2 h))]
      have hlink : (synced l d s).link l = { s.link l with syncT1 := none, propNs := d / 16 % 2 ^ 16 } := link_setLink_self ..
      refine ⟨congrArg Link.syncT1 hlink, Int.toNat_of_nonneg (Int.emod_nonneg _ (by decide)), rfl, ?_⟩
      refine (congrArg (fun k => ((Link.propNs k : Nat) : Int)) hlink).trans ?_
      dsimp only
      omega
  case noInterval =>
    have hexec : exec .syncInterval s = execSyncInterval s := rfl
    rw [hexec, execSyncInterval, hparent]
    exact congrArg Host.Outcome.next (if_neg (by simpa using hl))
  case syncInterval =>
    have hexec : exec .syncInterval s = execSyncInterval s := rfl
    rw [hexec, execSyncInterval, hparent]
    refine ⟨_, congrArg Host.Outcome.next (if_pos (by simpa using hl)), ?_, ?_, rfl⟩
    · exact (Kept.step (by decide) (.step (by decide) (.refl _ s) (State.setLink_frame ..)) (sendMsg_frame ..)).off
    · exact link_setLink_self ..
  case fleet =>
    have hexec := exec_fleet hmark
    split
    next hold => rw [hexec, if_neg (by simp [hold])]
    next hnew =>
      rw [if_pos (by simpa using hnew)] at hexec
      obtain ⟨ms, hms⟩ : ∃ ms, ms = ((s.markerLinks false).filter (fun j => some l ≠ some j)).map (fun j => OutMsg.marker j w) := ⟨_, rfl⟩
      have hflood : flood (some l) w (seeFleet w s) = sent ms (seeFleet w s) := hms ▸ flood_eq ..
      rw [hflood] at hexec
      refine ⟨_, hexec, ?_, fun hid hnext => ?_, fun hid => ?_⟩
      · rw [fleetNew_congr (s := seeFleet w s) (t := fleetAccept w (sent ms (seeFleet w s))) ((fleetAccept_frame ..).off.same .net (by decide)), fleetNew_seen]
      · rw [fleetAccept_of_next (s := sent ms (seeFleet w s)) hid hnext]
        split
        · exact ⟨rfl, rfl⟩
        · exact (raisePwr_frame ..).pwr_eq (by decide)
      · rw [fleetAccept_of_other (s := sent ms (seeFleet w s)) hid]
        refine ⟨rfl, fun j hj hne => List.mem_append_right _ ?_⟩
        rw [hms]
        exact List.mem_map.2 ⟨j, List.mem_filter.2 ⟨hj, by simpa using hne.symm⟩, rfl⟩
  case announce =>
    intro m prio
    have hexec := exec_announce hmark
    refine ⟨_, hexec, (exec_kept hexec).off, ?_, ?_⟩
    · rw [elect_link, link_setLink_self]
    · obtain ⟨-, hmode⟩ := hmark
      have hmember : l ∈ (s.setLink l { s.link l with master := some (m, prio, bitsOf w.toNat 39 37) }).markerLinks true := by
        refine List.mem_filter.2 ⟨List.mem_range.2 hl, ?_⟩
        rw [link_setLink_self]
        simpa using hmode
      have hways := announced_of_single hmember (by rw [link_setLink_self]) (fun j hj => by rw [link_setLink_ne _ _ hj, hnone j hj])
      refine ⟨fun hother hless => ?_, fun hless => ?_⟩
      · rw [if_pos ⟨by omega, hother⟩] at hways
        exact elect_of_better hways hother hless
      · refine elect_of_own (fun c hc => ?_) (Nat.ne_zero_of_lt hless)
        rw [hways] at hc
        split at hc
        · obtain rfl := List.mem_singleton.1 hc
          exact hless
        · exact absurd hc (by simp)
  case announceInterval =>
    obtain ⟨t, ht, hsent⟩ := announceInterval_sent s
    have helect : (elect s).markerLinks true = s.markerLinks true := markerLinks_congr (fun j => by rw [elect_link]) true
    refine ⟨t, (elect s).announcement, ht, (exec_kept ht).off.mono (by decide), ?_, ?_, fun ⟨hnone, hown⟩ => ?_⟩
    · have hout : (elect s).host.out = s.host.out := congrArg HostIf.out ((elect_frame s).off.same .host (by decide))
      rw [hsent, helect, ← hout]
      rfl
    · rw [hsent, State.announcement, (elect_frame s).moduleNo (by decide)]
      rfl
    · obtain ⟨hmaster, hparent, -⟩ := elect_of_own (s := s) (by simp [hnone]) hown
      rw [hsent]
      exact ⟨hmaster, hparent⟩
  case linkstate =>
    intro m k seq hm
    have hexec := exec_linkstate hmark
    cases hv : tget s.net.view k with
    | none => exact ⟨_, hexec, linkstateIn_of_new hm fun x hx => by cases hv.symm.trans hx⟩
    | some x =>
      dsimp only
      split
      next hnew =>
        refine ⟨_, hexec, linkstateIn_of_new hm fun y hy => ?_⟩
        obtain rfl := Option.some.inj (hv.symm.trans hy)
        exact hnew
      next hold => rw [hexec, linkstateIn_of_old hv hold]

end Sys2Proof.Machine
end

section
/-!
Writes of dictionary entries that come by MCTP (R456, R457, R460): an idle PTC runs a request at once, and a write whose checks pass
does what its entry says.
-/

namespace Sys2Proof.Machine

open Sys2Proof

/-! ## A request at an idle PTC (R460) -/

section
variable {op ep : Nat} {r : OdReq} {s : State}

theorem outstanding_of_idle (h : PtcIdle s) (e : Nat) : s.outstanding e = 0 := by
  rw [State.outstanding, h.waiting, h.txns]
  rfl

/-- A request of good form runs at once. -/
theorem receiveRequest_of_idle (h : PtcIdle s) (hw : r.who = .mctp ep) (hf : wellFormed op r) :
    receiveRequest op r s = runRequest op r (requestCounted s) := by
  obtain ⟨hpow, htxns, hwait⟩ := h
  have hout : ({ s with od := { s.od with msgsRx := (s.od.msgsRx + 1) % 2 ^ 64 } } : State).outstanding ep = 0 :=
    outstanding_of_idle ⟨hpow, htxns, hwait⟩ ep
  unfold receiveRequest
  simp only [hw]
  rw [if_neg hpow, hout, if_neg (by decide)]
  unfold acceptRequest
  rw [if_neg (by simp [State.odBusyNow, htxns, hwait])]
  unfold startRequest
  simp only [hf, hw, Bool.not_true, Bool.false_eq_true, if_false]
  rfl

/-! ## Responses by MCTP -/

theorem respond_mctp (hw : r.who = .mctp ep) (st : Nat) (data : List Byte) (total : Nat) (s : State) :
    respond op r st data total s = sendMsg (odReply op r st data) s := by
  unfold respond odReply
  simp only [hw]

theorem refuse_refused (hw : r.who = .mctp ep) (h : PtcIdle s) (st : Nat) : OdRefused op r st s (refuse op r st [] (requestCounted s)) := by
  unfold refuse
  simp only [respond_mctp hw]
  exact ⟨rfl, rfl, h.txns, rfl⟩

/-- A new transaction is queued, and the response waits for it. -/
theorem newTxn_queued (h : PtcIdle s) (ents : List (Nat × List Byte)) (done : TxnDone) :
    OdQueued ents done s (newTxn ents done true (requestCounted s)) := by
  refine ⟨rfl, rfl, ?_⟩
  simp only [newTxn, requestCounted, h.txns, List.nil_append]
  exact ⟨_, rfl, rfl, rfl, rfl, rfl⟩

end

/-! ## The checks of a write (R456) -/

/-- A write by MCTP at an idle PTC, of form and reach, that names entry e. -/
structure EntryWrite (op ep : Nat) (r : OdReq) (e : OdEnt) (s : State) : Prop where
  kind : isWriteOp op
  who : r.who = .mctp ep
  formed : wellFormed op r
  idle : PtcIdle s
  writes : s.life.writesRefused = false
  reach : s.reaches r.who r.index r.sub true
  index : odIndex r.index
  entry : odEnt r.index r.sub = some e
  access : e.acc ≠ .const ∧ e.acc ≠ .ro

section
variable {op ep : Nat} {r : OdReq} {e : OdEnt} {s : State}

/-- The check of a die-held entry (R468) is the last before those of the value. -/
theorem EntryWrite.checkEarly (h : EntryWrite op ep r e s) : checkEarly op r (requestCounted s) =
    if e.dieHeld && s.diesOff && !e.persist then some odUnavailable else none := by
  obtain ⟨hkind, -, -, -, hwrites, hreach, hindex, hentry, hconst, hro⟩ := h
  have hcounted : (requestCounted s).reaches r.who r.index r.sub true = true := hreach
  have hlife : (requestCounted s).life = s.life := rfl
  have hlist : op ≠ odList := by rintro rfl; exact absurd hkind (by decide)
  unfold Machine.checkEarly
  simp only [hkind, hlife, hwrites, hcounted, hindex, hentry, hlist, Bool.and_false, Bool.not_true, Bool.false_eq_true, if_false,
    Bool.true_and, beq_iff_eq, hconst, hro, Bool.or_eq_true, or_self]
  rfl

/-- An entry that a die holds is not written while the dies are off. -/
theorem EntryWrite.unavailable (h : EntryWrite op ep r e s) (hh : e.dieHeld) (hd : s.diesOff) (hp : e.persist = false) :
    OdRefused op r odUnavailable s (receiveRequest op r s) := by
  have hearly : Machine.checkEarly op r (requestCounted s) = some odUnavailable := by
    rw [h.checkEarly, hh, hd, hp]
    rfl
  rw [receiveRequest_of_idle h.idle h.who h.formed, runRequest, hearly]
  exact refuse_refused h.who h.idle _

section
variable (hh : e.dieHeld = false ∨ s.diesOff = false ∨ e.persist)
include hh

theorem EntryWrite.early (h : EntryWrite op ep r e s) : Machine.checkEarly op r (requestCounted s) = none := by
  rw [h.checkEarly]
  rcases hh with hh | hh | hh <;> simp [hh]

theorem EntryWrite.writeValue (h : EntryWrite odWrite ep r e s) :
    receiveRequest odWrite r s = writeValue odWrite r e r.data (requestCounted s) := by
  rw [receiveRequest_of_idle h.idle h.who h.formed, runRequest, h.early hh]
  simp only [h.entry]
  rfl

theorem EntryWrite.segWrite (h : EntryWrite odSegWrite ep r e s) : receiveRequest odSegWrite r s = doSegWrite r e (requestCounted s) := by
  rw [receiveRequest_of_idle h.idle h.who h.formed, runRequest, h.early hh]
  simp only [h.entry]
  rfl

end

end

/-! ## The checks of a value -/

section
variable {op ep : Nat} {r : OdReq} {e : OdEnt} {d : List Byte} {s : State}

theorem checkState_of_owner (hown : s.ownerRefuses r.index r.sub d) : checkState r e d s = some odState := if_pos (by simp [hown])

theorem checkState_of_free (hacc : e.acc ≠ .rwh) (hown : s.ownerRefuses r.index r.sub d = false) : checkState r e d s = none :=
  if_neg (by simp [hacc, hown])

theorem writeValue_of_owner (hown : s.ownerRefuses r.index r.sub d) : writeValue op r e d s = refuse op r odState [] s := by
  unfold writeValue
  rw [checkState_of_owner hown]

/-- A value that the checks leave as it is (checks 8 to 10). -/
structure ValueOk (r : OdReq) (e : OdEnt) (d : List Byte) (s : State) : Prop where
  kind : e.acc ≠ .rwh
  owner : s.ownerRefuses r.index r.sub d = false
  image : ¬(r.sub = 0x06 ∧ (r.index = 0x7010 ∨ r.index = 0x7011))
  length : e.ty.lenOk d
  unclamped : e.clamps = false

/-- A value of legal length, out of its range or against its owner's rule. -/
theorem writeValue_of_range (h : ValueOk r e d s) (hr : (e.inRange d && s.ruleOk r.index r.sub d) = false) :
    writeValue op r e d s = refuse op r odRange [] s := by
  obtain ⟨hkind, howner, himage, hlength, hclamps⟩ := h
  have hclamp : clampTo r.index r.sub e d = d := if_pos (by simp [hclamps])
  unfold writeValue
  rw [checkState_of_free hkind howner]
  simp only [himage, if_false, hlength, if_true, hclamp, checkValue, Bool.not_true, Bool.false_eq_true, hr, Bool.not_false]

section
variable (h : ValueOk r e d s) (hr : (e.inRange d && s.ruleOk r.index r.sub d) = true) (hw : r.who = .mctp ep)
include h hr hw

/-- What a write of an entry of access WO does once its value has passed all checks, and the rate limit does not hold it back. -/
theorem writeValue_of_action (ha : e.acc = .wo) (hrate : actionPersists r d s = false ∨ s.recentTxns ≤ 16) :
    writeValue op r e d s = doAction op r d s := by
  obtain ⟨hkind, howner, himage, hlength, hclamps⟩ := h
  have hclamp : clampTo r.index r.sub e d = d := if_pos (by simp [hclamps])
  have hbusy : (actionPersists r d s && decide (16 < s.recentTxns)) = false := by
    rcases hrate with hrate | hrate
    · rw [hrate, Bool.false_and]
    · rw [decide_eq_false (by omega), Bool.and_false]
  unfold writeValue
  rw [checkState_of_free hkind howner]
  simp only [himage, if_false, hlength, if_true, hclamp, checkValue, Bool.not_true, Bool.false_eq_true, hr, hw, State.plantBusy,
    notePlant, Bool.or_false, bne_self_eq_false, ha, beq_self_eq_true, hbusy]

/-- What a write of another entry does: a value that is new is stored, by a transaction where the entry persists. -/
theorem writeValue_of_value (ha : e.acc = .rw) (hrate : s.recentTxns ≤ 16) : writeValue op r e d s =
    if d == s.odCur r.index r.sub then
      respond op r odOk [] 0 (if reqKey r / 256 / 16 = 0x401 ∧ r.sub = 0x04 then applyWrite r.index r.sub d s s else s)
    else if e.persist then newTxn [(reqKey r, d)] (.respond r op false) true s
    else respond op r odOk [] 0 (applyWrite r.index r.sub d s (setOd r.index r.sub d s)) := by
  obtain ⟨hkind, howner, himage, hlength, hclamps⟩ := h
  have hclamp : clampTo r.index r.sub e d = d := if_pos (by simp [hclamps])
  have hrate' : ¬ 16 < s.recentTxns := by omega
  have hwo : (OdAcc.rw == OdAcc.wo) = false := rfl
  unfold writeValue
  rw [checkState_of_free hkind howner]
  simp only [himage, if_false, hlength, if_true, hclamp, checkValue, Bool.not_true, Bool.false_eq_true, hr, hw, State.plantBusy,
    notePlant, hrate', decide_false, Bool.and_false, Bool.or_false, ha, bne, beq_self_eq_true, hwo, Bool.not_false, Bool.true_and]

end

end

/-! ## A write of one entry -/

section
variable {ep : Nat} {r : OdReq} {e : OdEnt} {s : State} (h : EntryWrite odWrite ep r e s)
  (hh : e.dieHeld = false ∨ s.diesOff = false ∨ e.persist)
include h hh

theorem receive_of_owner (hown : s.ownerRefuses r.index r.sub r.data) : OdRefused odWrite r odState s (receiveRequest odWrite r s) := by
  rw [h.writeValue hh, writeValue_of_owner (s := requestCounted s) hown]
  exact refuse_refused h.who h.idle _

theorem receive_of_range (hv : ValueOk r e r.data s) (hr : (e.inRange r.data && s.ruleOk r.index r.sub r.data) = false) :
    OdRefused odWrite r odRange s (receiveRequest odWrite r s) := by
  rw [h.writeValue hh, writeValue_of_range (s := requestCounted s) ⟨hv.kind, hv.owner, hv.image, hv.length, hv.unclamped⟩ hr]
  exact refuse_refused h.who h.idle _

variable (hv : ValueOk r e r.data s) (hr : (e.inRange r.data && s.ruleOk r.index r.sub r.data) = true)
include hv hr

theorem receive_of_action (ha : e.acc = .wo) (hrate : actionPersists r r.data s = false ∨ s.recentTxns ≤ 16) :
    receiveRequest odWrite r s = doAction odWrite r r.data (requestCounted s) := by
  rw [h.writeValue hh]
  exact writeValue_of_action (s := requestCounted s) ⟨hv.kind, hv.owner, hv.image, hv.length, hv.unclamped⟩ hr h.who ha hrate

theorem receive_of_value (ha : e.acc = .rw) (hrate : s.recentTxns ≤ 16) : receiveRequest odWrite r s =
    let u := requestCounted s
    if r.data == s.odCur r.index r.sub then
      respond odWrite r odOk [] 0 (if reqKey r / 256 / 16 = 0x401 ∧ r.sub = 0x04 then applyWrite r.index r.sub r.data u u else u)
    else if e.persist then newTxn [(reqKey r, r.data)] (.respond r odWrite false) true u
    else respond odWrite r odOk [] 0 (applyWrite r.index r.sub r.data u (setOd r.index r.sub r.data u)) := by
  rw [h.writeValue hh]
  exact writeValue_of_value (s := requestCounted s) ⟨hv.kind, hv.owner, hv.image, hv.length, hv.unclamped⟩ hr h.who ha hrate

end

/-! ## Entries that MCTP writes (Table 15-5) -/

/-- Entry e of the dictionary, which a write by MCTP reaches. -/
structure Writable (i sub : Nat) (e : OdEnt) : Prop where
  entry : odEnt i sub = some e
  index : odIndex i
  reach : ∀ ep, reachTable (.mctp ep) i sub true
  access : e.acc ≠ .const ∧ e.acc ≠ .ro

theorem wellFormed_writeReq {i sub : Nat} {d : List Byte} (hd : d.length ≤ 1024) (ep : Nat) :
    wellFormed odWrite (writeReq (.mctp ep) i sub d) := by
  simp [wellFormed, writeReq, dataLimit, odWrite, odList, odSegWrite, hd]

section
variable {i sub : Nat} {e : OdEnt} {d : List Byte} {s : State}

theorem Writable.write (h : Writable i sub e) (hd : d.length ≤ 1024) (ht : TakesWrites s) (ep : Nat) :
    EntryWrite odWrite ep (writeReq (.mctp ep) i sub d) e s := by
  obtain ⟨hidle, hwrites, -, hnormal⟩ := ht
  refine ⟨rfl, rfl, wellFormed_writeReq hd ep, hidle, hwrites, ?_, h.index, h.entry, h.access⟩
  change s.reaches (.mctp ep) i sub true = true
  simp only [State.reaches, h.reach ep, bne_iff_ne.2 hnormal, Bool.true_or, Bool.and_true]

end

end Sys2Proof.Machine
end

section
/-!
What the action entries do (R424, R432, R435, R445): the release from HELD, the module reset, standby and wake.
-/

namespace Sys2Proof.Machine

open Sys2Proof

/-! ## RELEASE (R432) -/

theorem enterHeld_grows (cause obj : Nat) (s : State) : OutGrows s (enterHeld cause obj s) := by
  unfold enterHeld
  extract_lets t
  have hidle : OutGrows s t := .of_kept (idleLinks_frame s)
  clear_value t
  exact hidle.trans ⟨(enterState_grows .held { t with life := { t.life with heldCause := cause, heldObject := obj } }).out⟩

/-- HELD for a cause is entered after the record of it, where there is one. -/
theorem holdFor_eq (c obj : Nat) (s : State) : ∃ u, holdFor c obj s = enterHeld c obj u ∧ OutGrows s u ∧ u.life = s.life := by
  refine ⟨_, rfl, .ite (.refl s) (.ite (raise_grows ..) (raise_grows ..)), ?_⟩
  split
  · rfl
  · split <;> exact (raise_frame ..).life_eq (by decide)

theorem holdFor_held (c obj : Nat) (s : State) : OutGrows s (holdFor c obj s) ∧
    (holdFor c obj s).life.state = .held ∧ (holdFor c obj s).life.heldCause = c ∧ (holdFor c obj s).life.heldObject = obj := by
  obtain ⟨u, heq, hgrows, -⟩ := holdFor_eq c obj s
  rw [heq, enterHeld_life]
  exact ⟨hgrows.trans (enterHeld_grows ..), rfl, rfl, rfl⟩

/-- The training of the links begins, with the module's state as it is. -/
theorem beginLinks_training (s : State) : OutGrows s (beginLinks s) ∧ (beginLinks s).life = { s.life with stage := 5, newImage := false } := by
  unfold beginLinks
  extract_lets u
  have hmode (t : State) (l : Nat) (m : LinkMode) : OutGrows t (setLinkMode l m t) ∧ (setLinkMode l m t).life = t.life :=
    ⟨setLinkMode_grows, (setLinkMode_frame ..).life_eq (by decide)⟩
  have hset (t : State) (l : Nat) (m : LinkMode) (k : Link) :
      OutGrows t (setLinkMode l m (t.setLink l k)) ∧ (setLinkMode l m (t.setLink l k)).life = t.life :=
    ⟨⟨(hmode (t.setLink l k) l m).1.out⟩, (hmode (t.setLink l k) l m).2⟩
  have hu : OutGrows s u ∧ u.life = s.life := by
    refine foldl_inv (fun t : State => OutGrows s t ∧ t.life = s.life) _ _ s ⟨.refl s, rfl⟩ (fun t l ⟨hgrows, hlife⟩ => ?_)
    have hstep {v : State} (hv : OutGrows t v ∧ v.life = t.life) : OutGrows s v ∧ v.life = s.life :=
      ⟨hgrows.trans hv.1, hv.2.trans hlife⟩
    dsimp only
    split
    · exact hstep (hmode ..)
    · split
      · split
        · exact hstep (hmode ..)
        · exact hstep (hset ..)
      · split
        · exact hstep (hset t l .train { t.link l with soakFails := 0 })
        · exact hstep (hmode ..)
  clear_value u
  obtain ⟨hgrows, hlife⟩ := hu
  exact ⟨⟨hgrows.out⟩, congrArg (fun x : Life => { x with stage := 5, newImage := false }) hlife⟩

theorem linksDone_state (s : State) : (linksDone s).life.state = s.life.state := by
  unfold linksDone
  split <;> rfl

theorem resumeStages_training (s : State) : OutGrows s (resumeStages s) ∧ (resumeStages s).life.state = .training := by
  unfold resumeStages
  extract_lets t _ u
  have hgrows : OutGrows s t := enterState_grows ..
  have hstate : t.life.state = .training := congrArg Life.state (enterState_life ..)
  have hu : OutGrows s u ∧ u.life.state = .training := ⟨⟨hgrows.out⟩, hstate⟩
  split
  · obtain ⟨hbegun, hlife⟩ := beginLinks_training { u with life := { u.life with passed := 4 } }
    refine ⟨hu.1.trans (.trans ⟨hbegun.out⟩ (.of_kept (linksDone_frame _))), ?_⟩
    rw [linksDone_state, hlife]
    exact hu.2
  · exact hu

theorem releaseEffect_released {s : State} (h : s.life.state = .held) : OutGrows s (releaseEffect s) ∧ match s.startCause none with
    | some (c, o) => (releaseEffect s).life.state = .held ∧ (releaseEffect s).life.heldCause = c ∧ (releaseEffect s).life.heldObject = o
    | none => (releaseEffect s).life.state = .training := by
  unfold releaseEffect
  rw [if_pos h]
  cases s.startCause none with
  | none => exact resumeStages_training s
  | some x => exact holdFor_held ..

/-! ## MODULE_RESET (R435) -/

/-- The dies have lost their state, and the module is on its way through AUX. -/
structure ResetDone (s t : State) : Prop where
  sent : OutGrows s t
  cores : t.cores = []
  adm : t.adm = Adm.reset
  tick : t.tick = Tick.reset
  frames : t.fm.frames = []
  mem : t.mem = Mem.reset

theorem ResetDone.of_kept {L : List Comp} {s t u : State} (h : ResetDone s t) (k : Kept L t u) (hsent : OutGrows t u)
    (hL : ((Comp.cores ∉ L ∧ Comp.adm ∉ L) ∧ Comp.tick ∉ L) ∧ Comp.fm ∉ L ∧ Comp.mem ∉ L := by decide) : ResetDone s u where
  sent := h.sent.trans hsent
  cores := (k.cores_eq hL.1.1.1).trans h.cores
  adm := (k.adm_eq hL.1.1.2).trans h.adm
  tick := (k.tick_eq hL.1.2).trans h.tick
  frames := (congrArg Fm.frames (k.fm_eq hL.2.1)).trans h.frames
  mem := (k.off.same .mem hL.2.2).trans h.mem

theorem moduleReset_done (keep : Bool) (until_ : Option Nat) (s : State) :
    ResetDone s (moduleReset keep until_ s) ∧ (moduleReset keep until_ s).life.state = .aux := by
  unfold moduleReset
  extract_lets up t _ u
  have hcleared : ResetDone s t := ⟨⟨List.Subset.refl _⟩, rfl, rfl, rfl, rfl, rfl⟩
  have hu : ResetDone s u := ⟨⟨hcleared.sent.out⟩, hcleared.cores, hcleared.adm, hcleared.tick, hcleared.frames, hcleared.mem⟩
  exact ⟨hu.of_kept (enterState_frame ..) (enterState_grows ..), congrArg Life.state (enterState_life ..)⟩

theorem enterRecovery_grows (s : State) : OutGrows s (enterRecovery s) := by
  unfold enterRecovery
  extract_lets _ _ u
  have hu : OutGrows s u := ⟨List.Subset.refl _⟩
  exact hu.trans (enterState_grows ..)

theorem revertIfSpent_grows (s : State) : OutGrows s (revertIfSpent s) := by
  unfold revertIfSpent
  split
  · exact .ite ⟨(raise_grows ..).out⟩ (.refl s)
  · exact .refl s

theorem beginBoot_grows (s : State) : OutGrows s (beginBoot s) := by
  unfold beginBoot
  extract_lets k _ u
  have hu : OutGrows s u := ⟨List.Subset.refl _⟩
  exact hu.trans (enterState_grows ..)

theorem beginBoot_state (s : State) : (beginBoot s).life.state = .boot := congrArg Life.state (enterState_life ..)

/-- A boot that may begin does; otherwise the module waits in AUX, or is in RECOVERY. -/
theorem tryBoot_result {s : State} (h : s.life.state = .aux) : OutGrows s (tryBoot s) ∧
    ((tryBoot s).life.state = .aux ∨ (tryBoot s).life.state = .boot ∨ (tryBoot s).life.state = .recovery) := by
  unfold tryBoot
  split
  · exact ⟨enterRecovery_grows s, .inr (.inr (congrArg Life.state (enterState_life ..)))⟩
  · split
    · split
      · split
        · exact ⟨⟨(revertIfSpent_grows s).out⟩, .inl ((revertIfSpent_life s).1.trans h)⟩
        · exact ⟨beginBoot_grows s, .inr (.inl (beginBoot_state s))⟩
      · exact ⟨beginBoot_grows s, .inr (.inl (beginBoot_state s))⟩
    · exact ⟨.refl s, .inl h⟩

theorem moduleResetEffect_done {s : State} (h : s.life.state.resets) : ResetDone s (moduleResetEffect s) ∧
    ((moduleResetEffect s).life.state = .aux ∨ (moduleResetEffect s).life.state = .boot ∨
      (moduleResetEffect s).life.state = .recovery) := by
  obtain ⟨hdone, haux⟩ := moduleReset_done (s.warmHoldMs != 0) (some (s.now + s.warmHoldMs * msSt)) s
  have heffect : moduleResetEffect s = tryBoot (commonReset s) := if_pos h
  obtain ⟨hgrows, hstate⟩ := tryBoot_result (s := commonReset s) haux
  rw [heffect]
  exact ⟨hdone.of_kept (tryBoot_frame _) hgrows, hstate⟩

/-! ## STANDBY and WAKE (R424) -/

/-- The module is in standby: HBM keeps its contents and its page tables. -/
structure StandbyDone (s t : State) : Prop where
  sent : OutGrows s t
  state : t.life.state = .aux
  standby : t.life.standby
  hbm : t.mem.hbm = s.mem.hbm
  dir : t.mem.dir = s.mem.dir
  leaf : t.mem.leaf = s.mem.leaf
  cores : t.cores = []
  frames : t.fm.frames = []
  rails : t.life.rails = { Rails.off with vbus := true, vhbm := true }

theorem enterStandby_done {s : State} (h : s.life.state = .ready ∨ s.life.state = .parked) : StandbyDone s (enterStandby s) := by
  have henter : enterStandby s = goStandby s := if_pos h
  rw [henter]
  unfold goStandby
  extract_lets t _ u v
  have hu : OutGrows s u ∧ (u.mem.hbm = s.mem.hbm ∧ u.mem.dir = s.mem.dir ∧ u.mem.leaf = s.mem.leaf) ∧ u.cores = [] ∧
    u.fm.frames = [] := ⟨⟨List.Subset.refl _⟩, ⟨rfl, rfl, rfl⟩, rfl, rfl⟩
  have hv : Kept [.life, .jr, .host] u v := enterState_frame ..
  have hlife : v.life = { u.life with state := .aux } := enterState_life ..
  have hsent : OutGrows u v := enterState_grows ..
  clear_value u v
  obtain ⟨hgrows, ⟨hhbm, hdir, hleaf⟩, hcores, hframes⟩ := hu
  have hvmem : v.mem = u.mem := hv.off.same .mem (by decide)
  exact { sent := ⟨(hgrows.trans hsent).out⟩, state := congrArg Life.state hlife, standby := rfl,
          hbm := (congrArg Mem.hbm hvmem).trans hhbm, dir := (congrArg Mem.dir hvmem).trans hdir,
          leaf := (congrArg Mem.leaf hvmem).trans hleaf, cores := (hv.cores_eq (by decide)).trans hcores,
          frames := (congrArg Fm.frames (hv.fm_eq (by decide))).trans hframes, rails := rfl }

theorem wakeEffect_grows (s : State) : OutGrows s (wakeEffect s) := .ite (beginBoot_grows s) (.refl s)

theorem wakeEffect_boots {s : State} (haux : s.life.state = .aux) (hstandby : s.life.standby) (hvin : s.life.vin) (hstage : s.life.stage ≠ 1) :
    (wakeEffect s).life.state = .boot ∧ (wakeEffect s).life.stage = 2 ∧ (wakeEffect s).life.start = .leaveStandby := by
  have hwake : wakeEffect s = beginBoot s := if_pos ⟨haux, hstandby, hvin, hstage⟩
  have hkind : s.startKind = .leaveStandby := if_pos hstandby
  rw [hwake]
  unfold beginBoot
  rw [enterState_life, hkind]
  exact ⟨rfl, rfl, rfl⟩

end Sys2Proof.Machine
end

section
/-!
The action entries of the dictionary, written by MCTP (R424, R432, R435, R443-R450, R467, R476): each entry's write as the action that
its owner takes.
-/

namespace Sys2Proof.Machine

open Sys2Proof

/-! ## An action's write -/

/-- A write of an entry of access WO that passes all checks. -/
structure ActionTaken (i sub : Nat) (e : OdEnt) (d : List Byte) (s : State) : Prop where
  entry : Writable i sub e
  action : e.acc = .wo
  short : d.length ≤ 1024
  held : e.dieHeld = false ∨ s.diesOff = false
  free : s.ownerRefuses i sub d = false
  image : ¬(sub = 0x06 ∧ (i = 0x7010 ∨ i = 0x7011))
  length : e.ty.lenOk d
  unclamped : e.clamps = false

section
variable {ep i sub : Nat} {e : OdEnt} {d : List Byte} {s t : State}

theorem ActionTaken.valueOk (h : ActionTaken i sub e d s) (ep : Nat) : ValueOk (writeReq (.mctp ep) i sub d) e d s :=
  ⟨by simp [h.action], h.free, h.image, h.length, h.unclamped⟩

theorem ActionTaken.eq (h : ActionTaken i sub e d s) (hr : (e.inRange d && s.ruleOk i sub d) = true) (ht : TakesWrites s) (ep : Nat) :
    writeEntry (.mctp ep) i sub d s = doAction odWrite (writeReq (.mctp ep) i sub d) d (requestCounted s) :=
  receive_of_action (h.entry.write h.short ht ep) (h.held.imp_right .inl) (h.valueOk ep) hr h.action (.inr ht.rate)

theorem ActionTaken.range (h : ActionTaken i sub e d s) (hr : (e.inRange d && s.ruleOk i sub d) = false) (ht : TakesWrites s) (ep : Nat) :
    OdRefused odWrite (writeReq (.mctp ep) i sub d) odRange s (writeEntry (.mctp ep) i sub d s) :=
  receive_of_range (h.entry.write h.short ht ep) (h.held.imp_right .inl) (h.valueOk ep) hr

theorem Writable.owner (h : Writable i sub e) (hd : d.length ≤ 1024) (hh : e.dieHeld = false ∨ s.diesOff = false)
    (hown : s.ownerRefuses i sub d) (ht : TakesWrites s) (ep : Nat) :
    OdRefused odWrite (writeReq (.mctp ep) i sub d) odState s (writeEntry (.mctp ep) i sub d s) :=
  receive_of_owner (h.write hd ht ep) (hh.imp_right .inl) hown

/-- The state in which an action takes effect whose write has been answered. -/
def actionAnswered (ep i sub : Nat) (d : List Byte) (s : State) : State :=
  sendMsg (odReply odWrite (writeReq (.mctp ep) i sub d) odOk []) (requestCounted s)

/-- The write of an entry by MCTP is answered OK, and the answer has left. -/
def WriteAnswered (ep i sub : Nat) (d : List Byte) (t : State) : Prop :=
  odReply odWrite (writeReq (.mctp ep) i sub d) odOk [] ∈ t.host.out

theorem actionAnswered_answered (h : OutGrows (actionAnswered ep i sub d s) t) : WriteAnswered ep i sub d t :=
  h.out (List.mem_append_right _ (List.mem_singleton_self _))

/-- The answer that follows an action. -/
theorem respond_answered (s : State) :
    WriteAnswered ep i sub d (respond odWrite (writeReq (.mctp ep) i sub d) odOk [] 0 s) :=
  List.mem_append_right _ (List.mem_singleton_self _)

end

/-! ## Module state (Table 14-11) -/

theorem releaseEntry : Writable 0x1200 0x05 (boolE .wo 0) := ⟨rfl, rfl, fun _ => rfl, by decide⟩

theorem moduleResetEntry : Writable 0x1200 0x07 ((mkEnt (.uint 1) .wo []).within 0xA5 0xA5) := ⟨rfl, rfl, fun _ => rfl, by decide⟩

theorem standbyEntry : Writable 0x1200 0x08 (boolE .wo 0) := ⟨rfl, rfl, fun _ => rfl, by decide⟩

theorem wakeEntry : Writable 0x1200 0x09 (boolE .wo 0) := ⟨rfl, rfl, fun _ => rfl, by decide⟩

/-- A module that takes writes and is not FAULTED takes a module reset. -/
theorem resets_of_takesWrites {s : State} (ht : TakesWrites s) (hf : s.life.state ≠ .faulted) : s.life.state.resets := by
  obtain ⟨⟨hoff, -, -⟩, -, -, hrecovery⟩ := ht
  cases hstate : s.life.state with
  | off => exact absurd hstate hoff
  | recovery => exact absurd hstate hrecovery
  | faulted => exact absurd hstate hf
  | _ => rfl

section
variable {s : State} (ht : TakesWrites s) (ep : Nat)
include ht

theorem release_write : ∃ t, exec (.release (.mctp ep) [1]) s = .next t ∧
    if s.life.state ≠ .held then OdRefused odWrite (writeReq (.mctp ep) 0x1200 0x05 [1]) odState s t
    else WriteAnswered ep 0x1200 0x05 [1] t ∧ (match s.startCause none with
      | some (c, o) => t.life.state = .held ∧ t.life.heldCause = c ∧ t.life.heldObject = o
      | none => t.life.state = .training) := by
  refine ⟨_, rfl, ?_⟩
  split
  next hother => exact releaseEntry.owner (by decide) (.inl rfl) (by simp [State.ownerRefuses, hother]) ht ep
  next hheld =>
    have hheld : s.life.state = .held := not_not.1 hheld
    have htaken : ActionTaken 0x1200 0x05 (boolE .wo 0) [1] s :=
      ⟨releaseEntry, rfl, by decide, .inl rfl, by simp [State.ownerRefuses, hheld], by decide, rfl, rfl⟩
    have hwrite : writeEntry (.mctp ep) 0x1200 0x05 [1] s = releaseEffect (actionAnswered ep 0x1200 0x05 [1] s) := htaken.eq rfl ht ep
    obtain ⟨hsent, hreleased⟩ := releaseEffect_released (s := actionAnswered ep 0x1200 0x05 [1] s) hheld
    rw [hwrite]
    exact ⟨actionAnswered_answered hsent, hreleased⟩

theorem moduleReset_write : ∃ t, exec (.moduleReset (.mctp ep) [0xA5]) s = .next t ∧
    if s.life.state = .faulted then OdRefused odWrite (writeReq (.mctp ep) 0x1200 0x07 [0xA5]) odState s t
    else WriteAnswered ep 0x1200 0x07 [0xA5] t ∧ t.cores = [] ∧ t.adm = Adm.reset ∧ t.tick = Tick.reset ∧ t.fm.frames = [] ∧
      t.mem = Mem.reset ∧ (t.life.state = .aux ∨ t.life.state = .boot ∨ t.life.state = .recovery) := by
  refine ⟨_, rfl, ?_⟩
  split
  next hfault => exact moduleResetEntry.owner (by decide) (.inl rfl) (by simp [State.ownerRefuses, hfault, ModState.resets]) ht ep
  next hfault =>
    have hresets := resets_of_takesWrites ht hfault
    have htaken : ActionTaken 0x1200 0x07 ((mkEnt (.uint 1) .wo []).within 0xA5 0xA5) [0xA5] s :=
      ⟨moduleResetEntry, rfl, by decide, .inl rfl, by simp [State.ownerRefuses, hresets], by decide, rfl, rfl⟩
    have hwrite : writeEntry (.mctp ep) 0x1200 0x07 [0xA5] s = moduleResetEffect (actionAnswered ep 0x1200 0x07 [0xA5] s) :=
      htaken.eq rfl ht ep
    obtain ⟨hdone, hstate⟩ := moduleResetEffect_done (s := actionAnswered ep 0x1200 0x07 [0xA5] s) hresets
    rw [hwrite]
    exact ⟨actionAnswered_answered hdone.sent, hdone.cores, hdone.adm, hdone.tick, hdone.frames, hdone.mem, hstate⟩

theorem moduleReset_write_other : ∃ t, exec (.moduleReset (.mctp ep) [0x5A]) s = .next t ∧
    if s.life.state = .faulted then OdRefused odWrite (writeReq (.mctp ep) 0x1200 0x07 [0x5A]) odState s t
    else OdRefused odWrite (writeReq (.mctp ep) 0x1200 0x07 [0x5A]) odRange s t := by
  refine ⟨_, rfl, ?_⟩
  split
  next hfault => exact moduleResetEntry.owner (by decide) (.inl rfl) (by simp [State.ownerRefuses, hfault, ModState.resets]) ht ep
  next hfault =>
    have htaken : ActionTaken 0x1200 0x07 ((mkEnt (.uint 1) .wo []).within 0xA5 0xA5) [0x5A] s :=
      ⟨moduleResetEntry, rfl, by decide, .inl rfl, by simp [State.ownerRefuses, resets_of_takesWrites ht hfault], by decide, rfl, rfl⟩
    exact htaken.range rfl ht ep

theorem standby_write : ∃ t, exec (.standby (.mctp ep) [1]) s = .next t ∧
    if s.life.state = .ready ∨ s.life.state = .parked then WriteAnswered ep 0x1200 0x08 [1] t ∧ t.life.state = .aux ∧ t.life.standby ∧
      t.mem.hbm = s.mem.hbm ∧ t.mem.dir = s.mem.dir ∧ t.mem.leaf = s.mem.leaf ∧ t.cores = [] ∧ t.fm.frames = [] ∧
      t.life.rails = { Rails.off with vbus := true, vhbm := true }
    else OdRefused odWrite (writeReq (.mctp ep) 0x1200 0x08 [1]) odState s t := by
  refine ⟨_, rfl, ?_⟩
  split
  next hup =>
    have htaken : ActionTaken 0x1200 0x08 (boolE .wo 0) [1] s :=
      ⟨standbyEntry, rfl, by decide, .inl rfl, by rcases hup with hup | hup <;> simp [State.ownerRefuses, hup], by decide, rfl, rfl⟩
    have hwrite : writeEntry (.mctp ep) 0x1200 0x08 [1] s = enterStandby (actionAnswered ep 0x1200 0x08 [1] s) := htaken.eq rfl ht ep
    obtain ⟨hsent, hstate, hstandby, hhbm, hdir, hleaf, hcores, hframes, hrails⟩ :=
      enterStandby_done (s := actionAnswered ep 0x1200 0x08 [1] s) hup
    rw [hwrite]
    exact ⟨actionAnswered_answered hsent, hstate, hstandby, hhbm, hdir, hleaf, hcores, hframes, hrails⟩
  next hup =>
    obtain ⟨hready, hparked⟩ := not_or.1 hup
    exact standbyEntry.owner (by decide) (.inl rfl) (by simp [State.ownerRefuses, hready, hparked]) ht ep

theorem wake_write : ∃ t, exec (.wake (.mctp ep) [1]) s = .next t ∧
    if s.life.state = .aux ∧ s.life.standby then WriteAnswered ep 0x1200 0x09 [1] t ∧
      (s.life.vin → s.life.stage ≠ 1 → t.life.state = .boot ∧ t.life.stage = 2 ∧ t.life.start = .leaveStandby)
    else OdRefused odWrite (writeReq (.mctp ep) 0x1200 0x09 [1]) odState s t := by
  refine ⟨_, rfl, ?_⟩
  split
  next hup =>
    obtain ⟨haux, hstandby⟩ := hup
    have htaken : ActionTaken 0x1200 0x09 (boolE .wo 0) [1] s :=
      ⟨wakeEntry, rfl, by decide, .inl rfl, by simp [State.ownerRefuses, haux, hstandby], by decide, rfl, rfl⟩
    have hwrite : writeEntry (.mctp ep) 0x1200 0x09 [1] s = wakeEffect (actionAnswered ep 0x1200 0x09 [1] s) := htaken.eq rfl ht ep
    rw [hwrite]
    exact ⟨actionAnswered_answered (wakeEffect_grows _), wakeEffect_boots (s := actionAnswered ep 0x1200 0x09 [1] s) haux hstandby⟩
  next hup =>
    refine wakeEntry.owner (by decide) (.inl rfl) ?_ ht ep
    simpa [State.ownerRefuses, imp_iff_not_or] using hup

end

/-! ## Defaults and keys (R467, R476) -/

theorem factoryEntry : Writable 0x1100 0x07 (mkEnt (.uint 1) .wo []) := ⟨rfl, rfl, fun _ => rfl, by decide⟩

theorem keyEntry {k : Nat} (hk : k < 2) : Writable 0x1103 (0x07 + k) (mkEnt (.octets 32) .wo (List.replicate 32 0)).pers := by
  interval_cases k
  · exact ⟨rfl, rfl, fun _ => rfl, by decide⟩
  · exact ⟨rfl, rfl, fun _ => rfl, by decide⟩

theorem keyRevokeEntry : Writable 0x1103 0x0A ((mkEnt (.uint 1) .wo []).within 0 1) := ⟨rfl, rfl, fun _ => rfl, by decide⟩

/-- The entries that FACTORY_DEFAULTS sets: KEY_VALID, and each persistent entry that host software writes and that is not at its
default. -/
theorem mem_factoryEnts (s : State) (k : Nat) (v : List Byte) : (k, v) ∈ factoryEnts s ↔ (k, v) = (odKey 0x1103 0x09, [0]) ∨
    ∃ e old, odEnt (k / 256) (k % 256) = some e ∧ e.persist ∧ (e.acc = .rw ∨ e.acc = .rwh) ∧ k ≠ odKey 0x1200 0x0D ∧
      (k, old) ∈ s.od.vals ∧ old ≠ e.dflt ∧ v = e.dflt := by
  rw [factoryEnts, List.mem_append, List.mem_singleton, or_comm, List.mem_filterMap]
  refine or_congr_right ⟨fun ⟨x, hx, hsome⟩ => ?_, fun ⟨e, old, he, hpersist, hacc, hkey, hold, hne, hv⟩ => ⟨(k, old), hold, ?_⟩⟩
  · split at hsome
    next e he =>
      split at hsome
      next hcond =>
        obtain ⟨rfl, rfl⟩ := Prod.mk.inj (Option.some.inj hsome)
        simp only [Bool.and_eq_true, Bool.or_eq_true, beq_iff_eq, bne_iff_ne] at hcond
        obtain ⟨⟨⟨hpersist, hacc⟩, hkey⟩, hne⟩ := hcond
        exact ⟨e, x.2, he, hpersist, hacc, hkey, hx, hne, rfl⟩
      next => cases hsome
    next => cases hsome
  · simp only [he]
    rw [if_pos, hv]
    simp [hpersist, hacc, hkey, hne]

section
variable {s : State} (ht : TakesWrites s) (ep : Nat)
include ht

theorem factoryDefaults_write : ∃ t, exec (.factoryDefaults (.mctp ep) [0x5A]) s = .next t ∧
    if s.life.state ≠ .held then OdRefused odWrite (writeReq (.mctp ep) 0x1100 0x07 [0x5A]) odState s t
    else OdQueued (factoryEnts s) (.factory (writeReq (.mctp ep) 0x1100 0x07 [0x5A]) odWrite) s t := by
  refine ⟨_, rfl, ?_⟩
  split
  next hother => exact factoryEntry.owner (by decide) (.inl rfl) (by simp [State.ownerRefuses, hother]) ht ep
  next hheld =>
    have htaken : ActionTaken 0x1100 0x07 (mkEnt (.uint 1) .wo []) [0x5A] s :=
      ⟨factoryEntry, rfl, by decide, .inl rfl, by simpa [State.ownerRefuses] using hheld, by decide, rfl, rfl⟩
    have hwrite := htaken.eq rfl ht ep
    rw [hwrite]
    exact newTxn_queued ht.idle ..

theorem keyWrite_write {k : Nat} {data : List Byte} (hk : k < 2) (hlen : data.length = 32) (hne : ofLE data ≠ 0) :
    ∃ t, exec (.keyWrite (.mctp ep) k data) s = .next t ∧
      OdQueued [(odKey 0x1103 (7 + k), data), (odKey 0x1103 0x09, leB (setBits (ofLE (s.odCur 0x1103 0x09)) k k 1) 1), (hiKey k, leB 0 8)]
        (.key (writeReq (.mctp ep) 0x1103 (7 + k) data) odWrite k) s t := by
  refine ⟨_, congrArg Host.Outcome.next (if_pos hk), ?_⟩
  have hlenOk : (OdType.octets 32).lenOk data = true := beq_iff_eq.2 hlen
  have hrange : ((mkEnt (.octets 32) .wo (List.replicate 32 0)).pers.inRange data && s.ruleOk 0x1103 (0x07 + k) data) = true := by
    interval_cases k <;> simpa [OdEnt.inRange, mkEnt, OdEnt.pers, State.ruleOk] using hne
  have htaken : ActionTaken 0x1103 (0x07 + k) (mkEnt (.octets 32) .wo (List.replicate 32 0)).pers data s :=
    ⟨keyEntry hk, rfl, by omega, .inl rfl, by interval_cases k <;> rfl, by omega, hlenOk, rfl⟩
  rw [htaken.eq hrange ht ep]
  interval_cases k <;> exact newTxn_queued ht.idle ..

theorem keyRevoke_write {k : Nat} (hk : k < 2) : ∃ t, exec (.keyRevoke (.mctp ep) (leB k 1)) s = .next t ∧
    OdQueued [(odKey 0x1103 0x09, leB (setBits (ofLE (s.odCur 0x1103 0x09)) k k 0) 1)]
      (.revoke (writeReq (.mctp ep) 0x1103 0x0A (leB k 1)) odWrite k) s t := by
  refine ⟨_, rfl, ?_⟩
  have htaken : ActionTaken 0x1103 0x0A ((mkEnt (.uint 1) .wo []).within 0 1) (leB k 1) s :=
    ⟨keyRevokeEntry, rfl, by simp [leB], .inl rfl, rfl, by decide, by simp [leB, OdType.lenOk, mkEnt, OdEnt.within, OdType.len], rfl⟩
  have hrange : (((mkEnt (.uint 1) .wo []).within 0 1).inRange (leB k 1) && s.ruleOk 0x1103 0x0A (leB k 1)) = true := by
    interval_cases k <;> rfl
  rw [htaken.eq hrange ht ep]
  interval_cases k <;> exact newTxn_queued ht.idle ..

end

end Sys2Proof.Machine
end

section
/-!
Writes by MCTP of link, power, journal, maintenance and firmware entries (R355, R371, R372, R376, R421, R445, R446, R448).
-/

namespace Sys2Proof.Machine

open Sys2Proof

/-! ## Numbers as bytes -/

theorem leB_length (n k : Nat) : (leB n k).length = k := by simp [leB]

theorem leB_succ (n k : Nat) : leB n (k + 1) = BitVec.ofNat 8 n :: leB (n / 256) k := by
  rw [leB, leB, List.range_succ_eq_map, List.map_cons, List.map_map]
  refine congrArg _ (List.map_congr_left fun i _ => ?_)
  simp only [Function.comp_apply, Nat.shiftRight_eq_div_pow]
  rw [Nat.div_div_eq_div_mul, Nat.mul_succ, Nat.add_comm, pow_add]
  rfl

/-- Writing a number in bytes and reading it back. -/
theorem ofLE_leB (n k : Nat) : ofLE (leB n k) = n % 256 ^ k := by
  induction k generalizing n with
  | zero => simp [leB, ofLE, Nat.mod_one]
  | succ k ih =>
    rw [leB_succ, ofLE, ih, BitVec.toNat_ofNat, pow_succ' 256 k]
    exact Nat.mod_mul.symm

/-! ## CLEAR_SAVED of a link (R360) -/

theorem clearSavedEntry {l : Nat} (hl : l < 36) : Writable (0x4040 + l) 0x0E (boolE .wo 0) := by
  interval_cases l <;> exact ⟨rfl, rfl, fun _ => rfl, by decide⟩

/-- The actions of the firmware slots and of the links, which the model tells by ranges of indices. -/
theorem doAction_of_ranges {op : Nat} {r : OdReq} {v : List Byte} {s : State}
    (h : r.index ∉ [0x1100, 0x1103, 0x1200, 0x1201, 0x3001, 0x7000, 0x7102]) : doAction op r v s =
      if (r.index = 0x7010 ∨ r.index = 0x7011) ∧ r.sub = 0x07 then
        respond op r odOk [] 0 (if ofLE v = 1 then verifySlot (r.index - 0x7010) r.img s else s)
      else if (r.index = 0x7010 ∨ r.index = 0x7011) ∧ r.sub = 0x08 then
        respond op r odOk [] 0 (if ofLE v = 1 then setSlot (r.index - 0x7010) FwSlot.empty s else s)
      else if 0x4040 ≤ r.index ∧ r.index < 0x4040 + 36 ∧ r.sub = 0x0E then
        if ofLE v = 1 ∧ s.linkSaved (r.index - 0x4040) then newTxn [(odKey r.index 0x0C, [0])] (.respond r op false) true s
        else respond op r odOk [] 0 s
      else respond op r odOk [] 0 s := by
  simp only [List.mem_cons, List.not_mem_nil, or_false, not_or] at h
  unfold doAction
  extract_lets n ok k
  split
  case h_14 => rfl
  all_goals omega

theorem doAction_clearSaved {l : Nat} (hl : l < 36) (ep : Nat) (s : State) :
    doAction odWrite (writeReq (.mctp ep) (0x4040 + l) 0x0E [1]) [1] s =
      if s.linkSaved l then
        newTxn [(odKey (0x4040 + l) 0x0C, [0])] (.respond (writeReq (.mctp ep) (0x4040 + l) 0x0E [1]) odWrite false) true s
      else respond odWrite (writeReq (.mctp ep) (0x4040 + l) 0x0E [1]) odOk [] 0 s := by
  have hi : (writeReq (.mctp ep) (0x4040 + l) 0x0E [1]).index = 0x4040 + l := rfl
  have hs : (writeReq (.mctp ep) (0x4040 + l) 0x0E [1]).sub = 0x0E := rfl
  have hone : ofLE [1] = 1 := rfl
  rw [doAction_of_ranges (by rw [hi]; simp; omega), hi, hs, if_neg (by omega), if_neg (by omega), if_pos (by omega),
    Nat.add_sub_cancel_left]
  exact if_congr (and_iff_right hone) rfl rfl

section
variable {s : State} (ht : TakesWrites s) (ep : Nat)
include ht

theorem clearSaved_write {l : Nat} (hl : l < 36) : ∃ t, exec (.clearSaved (.mctp ep) l [1]) s = .next t ∧
    if s.linkSaved l then
      OdQueued [(odKey (0x4040 + l) 0x0C, [0])] (.respond (writeReq (.mctp ep) (0x4040 + l) 0x0E [1]) odWrite false) s t
    else WriteAnswered ep (0x4040 + l) 0x0E [1] t := by
  refine ⟨_, congrArg Host.Outcome.next (if_pos hl), ?_⟩
  have hfree : s.ownerRefuses (0x4040 + l) 0x0E [1] = false := by interval_cases l <;> rfl
  have hrange : ((boolE .wo 0).inRange [1] && s.ruleOk (0x4040 + l) 0x0E [1]) = true := by interval_cases l <;> rfl
  have htaken : ActionTaken (0x4040 + l) 0x0E (boolE .wo 0) [1] s :=
    ⟨clearSavedEntry hl, rfl, by decide, .inl rfl, hfree, by omega, rfl, rfl⟩
  rw [htaken.eq hrange ht ep, doAction_clearSaved hl]
  have hsaved : (requestCounted s).linkSaved l = s.linkSaved l := rfl
  rw [hsaved]
  split
  · exact newTxn_queued ht.idle ..
  · exact respond_answered _

end

/-! ## FLEET_SEND (R376) -/

theorem respond_pwr {op ep : Nat} {r : OdReq} (hw : r.who = .mctp ep) (st : Nat) (data : List Byte) (n : Nat) (s : State) :
    (respond op r st data n s).pwr = s.pwr := by
  rw [respond_mctp hw]
  rfl

theorem fleetSendEntry : Writable 0x3001 0x01 (mkEnt (.octets 8) .wo []).held := ⟨rfl, rfl, fun _ => rfl, by decide⟩

theorem doAction_fleetSend (ep : Nat) (d : List Byte) (s : State) : doAction odWrite (writeReq (.mctp ep) 0x3001 0x01 d) d s =
    respond odWrite (writeReq (.mctp ep) 0x3001 0x01 d) odOk [] 0 (fleetOrigin (ofLE d) s) := by
  simp only [doAction, writeReq]

theorem ruleOk_fleetSend (d : List Byte) (s : State) : s.ruleOk 0x3001 0x01 d = fleetValid (BitVec.ofNat 64 (ofLE d)) := rfl

theorem fleetValid_congr {v w : Dword} (hr : fleetRateOf v = fleetRateOf w) (hc : fleetCmd v = fleetCmd w) :
    fleetValid v = fleetValid w := by
  rw [fleetValid, fleetValid, hr, hc]

/-- A fleet command with the sequence number q. -/
def fleetWith (q n : Nat) : Dword := mkMarker 4 (q * 2 ^ 52 + n % 2 ^ 52)

section
variable {q n : Nat} (hq : q < 256)
include hq

theorem fleetWith_toNat : (fleetWith q n).toNat = 4 * 2 ^ 60 + (q * 2 ^ 52 + n % 2 ^ 52) := by
  rw [fleetWith, mkMarker, BitVec.toNat_ofNat]
  omega

theorem fleetSeq_fleetWith : fleetSeq (fleetWith q n) = q := by
  rw [fleetSeq, fleetWith_toNat hq, bitsOf, Nat.shiftRight_eq_div_pow]
  omega

/-- Below the sequence number the command is as written. -/
theorem bitsOf_fleetWith {hi lo : Nat} (hlo : lo ≤ hi) (hhi : hi < 52) : bitsOf (fleetWith q n).toNat hi lo = bitsOf n hi lo := by
  have hlow : (fleetWith q n).toNat % 2 ^ 52 = n % 2 ^ 52 := by
    rw [fleetWith_toNat hq]
    omega
  apply Nat.eq_of_testBit_eq
  intro i
  rw [bitsOf_testBit, bitsOf_testBit]
  rcases Nat.lt_or_ge i (hi + 1 - lo) with hi' | hi'
  · have hbit := congrArg (fun x => Nat.testBit x (lo + i)) hlow
    simp only [Nat.testBit_mod_two_pow, show lo + i < 52 by omega, decide_true, Bool.true_and] at hbit
    rw [hbit]
  · simp [Nat.not_lt.2 hi']

theorem fleetEpoch_fleetWith : fleetEpoch (fleetWith q n) = n % 2 ^ 25 := by
  rw [fleetEpoch, fleetWith_toNat hq]
  omega

end

/-- The module's own command, with the next sequence number. -/
def ownFleet (n : Nat) (s : State) : Dword := fleetWith ((s.pwr.fleetLast.getD 0 + 1) % 256) n

theorem fleetOrigin_eq (n : Nat) (s : State) : ∃ ms, fleetOrigin n s = fleetAccept (ownFleet n s) (sent ms (seeFleet (ownFleet n s) s)) :=
  ⟨_, congrArg (fleetAccept (ownFleet n s)) (flood_eq ..)⟩

section
variable (v : Dword) (s : State)

/-- The module's own command carries the fields that were written. -/
theorem ownFleet_fields : fleetId (ownFleet v.toNat s) = fleetId v ∧ fleetSetp (ownFleet v.toNat s) = fleetSetp v ∧
    fleetRateOf (ownFleet v.toNat s) = fleetRateOf v ∧ fleetCmd (ownFleet v.toNat s) = fleetCmd v ∧
    fleetEpoch (ownFleet v.toNat s) = fleetEpoch v := by
  have hq : (s.pwr.fleetLast.getD 0 + 1) % 256 < 256 := Nat.mod_lt _ (by decide)
  unfold ownFleet
  refine ⟨?_, ?_, ?_, ?_, fleetEpoch_fleetWith hq⟩
  · rw [fleetId, fleetId, bitsOf_fleetWith hq (by decide) (by decide)]
  · rw [fleetSetp, fleetSetp, bitsOf_fleetWith hq (by decide) (by decide)]
  · rw [fleetRateOf, fleetRateOf, bitsOf_fleetWith hq (by decide) (by decide)]
  · rw [fleetCmd, fleetCmd, bitsOf_fleetWith hq (by decide) (by decide)]

theorem fleetSeq_ownFleet (n : Nat) : fleetSeq (ownFleet n s) = (s.pwr.fleetLast.getD 0 + 1) % 256 :=
  fleetSeq_fleetWith (Nat.mod_lt _ (by decide))

end

/-- The module's own command is the next after the last one accepted. -/
theorem fleetOrigin_pwr {n : Nat} {s : State} (hid : fleetId (ownFleet n s) = odNat s 0x3000 0x0B 0) (hvalid : fleetValid (ownFleet n s))
    (hlast : ∀ q ∈ s.pwr.fleetLast, q < 256) : (fleetOrigin n s).pwr.fleetLast = some ((s.pwr.fleetLast.getD 0 + 1) % 256) ∧
      (fleetOrigin n s).pwr.fleetWait = s.pwr.fleetWait ++ [ownFleet n s] := by
  obtain ⟨ms, heq⟩ := fleetOrigin_eq n s
  have hseq := fleetSeq_ownFleet s n
  have hnext : ∀ q ∈ s.pwr.fleetLast, 1 ≤ (fleetSeq (ownFleet n s) + 256 - q) % 256 ∧ (fleetSeq (ownFleet n s) + 256 - q) % 256 ≤ 127 := by
    intro q hq
    have hlt := hlast q hq
    have hget : s.pwr.fleetLast.getD 0 = q := by rw [Option.mem_def.1 hq]; rfl
    rw [hseq, hget]
    omega
  rw [heq, fleetAccept_of_next (s := sent ms (seeFleet (ownFleet n s) s)) hid hnext, if_pos hvalid]
  exact ⟨congrArg some hseq, rfl⟩

section
variable {s : State} (ht : TakesWrites s) (ep : Nat)
include ht

theorem fleetSend_write {v : Dword} (hup : s.diesOff = false) (hvalid : fleetValid v) (hlast : ∀ q ∈ s.pwr.fleetLast, q < 256) :
    ∃ t, exec (.fleetSend (.mctp ep) (leB v.toNat 8)) s = .next t ∧
      if s.life.state = .held then OdRefused odWrite (writeReq (.mctp ep) 0x3001 0x01 (leB v.toNat 8)) odState s t
      else WriteAnswered ep 0x3001 0x01 (leB v.toNat 8) t ∧ (bitsOf v.toNat 51 48 = odNat s 0x3000 0x0B 0 →
        t.pwr.fleetLast = some ((s.pwr.fleetLast.getD 0 + 1) % 256) ∧ ∃ m, t.pwr.fleetWait = s.pwr.fleetWait ++ [m] ∧
          fleetSetp m = fleetSetp v ∧ fleetRateOf m = fleetRateOf v ∧ fleetCmd m = fleetCmd v ∧ fleetEpoch m = fleetEpoch v) := by
  refine ⟨_, rfl, ?_⟩
  have hlen : (leB v.toNat 8).length ≤ 1024 := by rw [leB_length]; decide
  have hread : ofLE (leB v.toNat 8) = v.toNat := by rw [ofLE_leB]; exact Nat.mod_eq_of_lt (v.isLt.trans_eq (by norm_num))
  split
  next hheld => exact fleetSendEntry.owner hlen (.inr hup) (by simp [State.ownerRefuses, hheld]) ht ep
  next hheld =>
    have htaken : ActionTaken 0x3001 0x01 (mkEnt (.octets 8) .wo []).held (leB v.toNat 8) s :=
      ⟨fleetSendEntry, rfl, hlen, .inr hup, by simp [State.ownerRefuses, hheld], by decide, beq_iff_eq.2 (leB_length ..), rfl⟩
    have hrange : ((mkEnt (.octets 8) .wo []).held.inRange (leB v.toNat 8) && s.ruleOk 0x3001 0x01 (leB v.toNat 8)) = true := by
      rw [ruleOk_fleetSend, hread, BitVec.ofNat_toNat, BitVec.setWidth_eq, hvalid]
      rfl
    have hwrite : writeEntry (.mctp ep) 0x3001 0x01 (leB v.toNat 8) s =
      respond odWrite (writeReq (.mctp ep) 0x3001 0x01 (leB v.toNat 8)) odOk [] 0 (fleetOrigin v.toNat (requestCounted s)) := by
      rw [htaken.eq hrange ht ep, doAction_fleetSend, hread]
    obtain ⟨hidv, hsetp, hrate, hcmd, hepoch⟩ := ownFleet_fields v (requestCounted s)
    rw [hwrite]
    refine ⟨respond_answered _, fun hid => ?_⟩
    obtain ⟨hlast', hwait⟩ := fleetOrigin_pwr (s := requestCounted s) (hidv.trans hid) ((fleetValid_congr hrate hcmd).trans hvalid) hlast
    rw [respond_pwr rfl]
    exact ⟨hlast', ownFleet v.toNat (requestCounted s), hwait, hsetp, hrate, hcmd, hepoch⟩

end

end Sys2Proof.Machine
end

section
/-!
Writes by MCTP of the power set points, of the event journal, of maintenance requests and of the firmware trial (R371, R372, R421, R445,
R446, R448).
-/

namespace Sys2Proof.Machine

open Sys2Proof

/-! ## A value's write -/

/-- A write of an entry of access RW that passes all checks. -/
structure ValueTaken (i sub : Nat) (e : OdEnt) (d : List Byte) (s : State) : Prop where
  entry : Writable i sub e
  value : e.acc = .rw
  short : d.length ≤ 1024
  held : e.dieHeld = false ∨ s.diesOff = false ∨ e.persist
  free : s.ownerRefuses i sub d = false
  image : ¬(sub = 0x06 ∧ (i = 0x7010 ∨ i = 0x7011))
  length : e.ty.lenOk d
  unclamped : e.clamps = false

section
variable {i sub : Nat} {e : OdEnt} {d : List Byte} {s : State} (h : ValueTaken i sub e d s)
include h

theorem ValueTaken.range (hr : (e.inRange d && s.ruleOk i sub d) = false) (ht : TakesWrites s) (ep : Nat) :
    OdRefused odWrite (writeReq (.mctp ep) i sub d) odRange s (writeEntry (.mctp ep) i sub d s) :=
  receive_of_range (h.entry.write h.short ht ep) h.held ⟨by simp [h.value], h.free, h.image, h.length, h.unclamped⟩ hr

variable (hr : (e.inRange d && s.ruleOk i sub d) = true) (ht : TakesWrites s) (ep : Nat)
include hr ht

theorem ValueTaken.eq : writeEntry (.mctp ep) i sub d s =
    if d == s.odCur i sub then
      respond odWrite (writeReq (.mctp ep) i sub d) odOk [] 0
        (if odKey i sub / 256 / 16 = 0x401 ∧ sub = 0x04 then applyWrite i sub d (requestCounted s) (requestCounted s)
         else requestCounted s)
    else if e.persist then newTxn [(odKey i sub, d)] (.respond (writeReq (.mctp ep) i sub d) odWrite false) true (requestCounted s)
    else respond odWrite (writeReq (.mctp ep) i sub d) odOk [] 0
      (applyWrite i sub d (requestCounted s) (setOd i sub d (requestCounted s))) :=
  receive_of_value (h.entry.write h.short ht ep) h.held ⟨by simp [h.value], h.free, h.image, h.length, h.unclamped⟩ hr h.value ht.rate

/-- The value that the entry holds is answered at once. -/
theorem ValueTaken.same (hs : d = s.odCur i sub) (hsub : sub ≠ 0x04) :
    writeEntry (.mctp ep) i sub d s = respond odWrite (writeReq (.mctp ep) i sub d) odOk [] 0 (requestCounted s) := by
  rw [h.eq hr ht ep, if_pos (beq_iff_eq.2 hs), if_neg (fun hkey => hsub hkey.2)]

/-- A new value of a persistent entry waits for its transaction. -/
theorem ValueTaken.queued (hn : d ≠ s.odCur i sub) (hp : e.persist) :
    OdQueued [(odKey i sub, d)] (.respond (writeReq (.mctp ep) i sub d) odWrite false) s (writeEntry (.mctp ep) i sub d s) := by
  rw [h.eq hr ht ep, if_neg (mt beq_iff_eq.1 hn), if_pos hp]
  exact newTxn_queued ht.idle ..

/-- A new value of an entry that does not persist is stored at once. -/
theorem ValueTaken.stored (hn : d ≠ s.odCur i sub) (hp : e.persist = false) : writeEntry (.mctp ep) i sub d s =
    respond odWrite (writeReq (.mctp ep) i sub d) odOk [] 0 (applyWrite i sub d (requestCounted s) (setOd i sub d (requestCounted s))) := by
  rw [h.eq hr ht ep, if_neg (mt beq_iff_eq.1 hn), if_neg (by simp [hp])]

end

/-! ## Power cap and set point (R371, R372) -/

theorem pwrCapEntry : Writable 0x3000 0x01 ((rwU 2 1800).pers.within 200 1800).held := ⟨rfl, rfl, fun _ => rfl, by decide⟩

theorem setpointEntry : Writable 0x3000 0x03 (rwU 2 1800).held := ⟨rfl, rfl, fun _ => rfl, by decide⟩

theorem ofLE_leB_of_lt {n k : Nat} (h : n < 256 ^ k) : ofLE (leB n k) = n := (ofLE_leB n k).trans (Nat.mod_eq_of_lt h)

/-- The range of PWR_CAP. -/
theorem inRange_pwrCap {n : Nat} (hn : n < 65536) :
    ((rwU 2 1800).pers.within 200 1800).held.inRange (leB n 2) = decide (200 ≤ n ∧ n ≤ 1800) := by
  have hread : ofLE (leB n 2) = n := ofLE_leB_of_lt hn
  simp only [OdEnt.inRange, OdEnt.held, OdEnt.within, OdEnt.pers, rwU, mkEnt, OdType.num, hread, Bool.true_and, Bool.decide_and]
  exact congrArg₂ _ (decide_eq_decide.2 (by omega)) (decide_eq_decide.2 (by omega))

theorem odCur_setOd (i sub : Nat) (v : List Byte) (s : State) : (setOd i sub v s).odCur i sub = v := by
  simp [State.odCur, setOd]

theorem odCur_congr {s t : State} (h : t.od = s.od) (i sub : Nat) : t.odCur i sub = s.odCur i sub := by
  rw [State.odCur, State.odCur, h]

theorem odCur_respond {op ep : Nat} {r : OdReq} (hw : r.who = .mctp ep) (st : Nat) (data : List Byte) (n i sub : Nat) (s : State) :
    (respond op r st data n s).odCur i sub = s.odCur i sub := by
  rw [respond_mctp hw]
  rfl

/-- A new set point starts a trajectory from the present average, in ramp modes other than 2 (R372). -/
theorem applyWrite_setpoint (v : List Byte) (before s : State) :
    applyWrite 0x3000 0x03 v before s = if s.serving ∧ s.rampMode ≠ 2 then startTraj (ofLE v) s else s := rfl

theorem applyWrite_setpoint_od (v : List Byte) (before s : State) : (applyWrite 0x3000 0x03 v before s).od = s.od := by
  rw [applyWrite_setpoint]
  split <;> rfl

theorem rampMode_setSetpoint (v : List Byte) (s : State) : (setOd 0x3000 0x03 v s).rampMode = s.rampMode := by
  have hkey : tget (tput s.od.vals (odKey 0x3000 0x03) v) (odKey 0x3000 0x02) = tget s.od.vals (odKey 0x3000 0x02) :=
    tget_tput_ne _ _ (by decide)
  simp only [State.rampMode, odNat, setOd, hkey]

section
variable {s : State} (ht : TakesWrites s) (ep : Nat)
include ht

theorem pwrCap_write {n : Nat} (hn : n < 65536) : ∃ t, exec (.pwrCapWrite (.mctp ep) (leB n 2)) s = .next t ∧
    if 200 ≤ n ∧ n ≤ 1800 then (leB n 2 ≠ s.odCur 0x3000 0x01 →
      OdQueued [(odKey 0x3000 0x01, leB n 2)] (.respond (writeReq (.mctp ep) 0x3000 0x01 (leB n 2)) odWrite false) s t)
    else OdRefused odWrite (writeReq (.mctp ep) 0x3000 0x01 (leB n 2)) odRange s t := by
  refine ⟨_, rfl, ?_⟩
  have htaken : ValueTaken 0x3000 0x01 ((rwU 2 1800).pers.within 200 1800).held (leB n 2) s :=
    ⟨pwrCapEntry, rfl, by rw [leB_length]; decide, .inr (.inr rfl), rfl, by decide, beq_iff_eq.2 (leB_length ..), rfl⟩
  have hrange : (((rwU 2 1800).pers.within 200 1800).held.inRange (leB n 2) && s.ruleOk 0x3000 0x01 (leB n 2)) =
      decide (200 ≤ n ∧ n ≤ 1800) := by
    have hrule : s.ruleOk 0x3000 0x01 (leB n 2) = true := rfl
    rw [inRange_pwrCap hn, hrule, Bool.and_true]
  split
  next hin => exact fun hnew => htaken.queued (hrange.trans (decide_eq_true hin)) ht ep hnew rfl
  next hout => exact htaken.range (hrange.trans (decide_eq_false hout)) ht ep

theorem setpoint_write {n : Nat} (hn : n < 65536) : ∃ t, exec (.setpointChange (.mctp ep) (leB n 2)) s = .next t ∧
    if s.diesOff then OdRefused odWrite (writeReq (.mctp ep) 0x3000 0x03 (leB n 2)) odUnavailable s t
    else WriteAnswered ep 0x3000 0x03 (leB n 2) t ∧ t.odCur 0x3000 0x03 = leB n 2 ∧
      (s.serving → s.rampMode ≠ 2 → leB n 2 ≠ s.odCur 0x3000 0x03 → t.pwr.setpoint = n ∧ t.pwr.traj = s.avg100us) := by
  refine ⟨_, rfl, ?_⟩
  have hread : ofLE (leB n 2) = n := ofLE_leB_of_lt hn
  have hshort : (leB n 2).length ≤ 1024 := by rw [leB_length]; decide
  split
  next hoff => exact (setpointEntry.write hshort ht ep).unavailable rfl hoff rfl
  next hup =>
    have htaken : ValueTaken 0x3000 0x03 (rwU 2 1800).held (leB n 2) s :=
      ⟨setpointEntry, rfl, hshort, .inr (.inl (Bool.eq_false_of_not_eq_true hup)), rfl, by decide, beq_iff_eq.2 (leB_length ..), rfl⟩
    by_cases hsame : leB n 2 = s.odCur 0x3000 0x03
    · have hwrite := htaken.same rfl ht ep hsame (by decide)
      change writeEntry (.mctp ep) 0x3000 0x03 (leB n 2) s = _ at hwrite
      rw [hwrite]
      refine ⟨respond_answered _, ?_, fun _ _ hnew => absurd hsame hnew⟩
      rw [odCur_respond rfl]
      exact hsame.symm
    · rw [htaken.stored rfl ht ep hsame rfl]
      refine ⟨respond_answered _, ?_, fun hserving hramp _ => ?_⟩
      · rw [odCur_respond rfl, odCur_congr (applyWrite_setpoint_od ..), odCur_setOd]
      · have hstarts : (setOd 0x3000 0x03 (leB n 2) (requestCounted s)).serving ∧
            (setOd 0x3000 0x03 (leB n 2) (requestCounted s)).rampMode ≠ 2 := ⟨hserving, by rw [rampMode_setSetpoint]; exact hramp⟩
        rw [respond_pwr rfl, applyWrite_setpoint, if_pos hstarts]
        exact ⟨hread, rfl⟩

end

/-! ## CLEAR of the event journal (R448) -/

theorem clearEntry : Writable 0x1201 0x06 (boolE .wo 0) := ⟨rfl, rfl, fun _ => rfl, by decide⟩

/-! ## REQUEST of maintenance (R421) -/

theorem maintenanceEntry : Writable 0x7102 0x01 (mkEnt (.octets 8) .wo []).held := ⟨rfl, rfl, fun _ => rfl, by decide⟩

/-- A queued request stands in the maintenance queue. -/
theorem queueMnt_queued (a : Activity) (pm : Nat) (guard : Bool) (s : State) :
    ∃ r ∈ (queueMnt a pm guard s).mnt.queue, r.mac = pm ∧ r.act = a := by
  unfold queueMnt
  split
  next hany =>
    obtain ⟨r, hr, hsame⟩ := List.any_eq_true.1 hany
    simp only [Bool.and_eq_true, beq_iff_eq] at hsame
    refine ⟨_, List.mem_map_of_mem hr, ?_⟩
    rw [if_pos hsame]
    exact ⟨hsame.2, hsame.1⟩
  next => exact ⟨_, List.mem_append_right _ (List.mem_singleton_self _), rfl, rfl⟩

section
variable {a m : Nat} (ha : 1 ≤ a ∧ a ≤ 3) (hm : m < 131072)
include ha hm

/-- The fields of a REQUEST that does not name a whole core. -/
theorem request_fields : (a + 256 * m) % 16 = a ∧ bitOf (a + 256 * m) 4 = false ∧ bitsOf (a + 256 * m) 7 5 = 0 ∧
    bitsOf (a + 256 * m) 31 8 = m ∧ bitsOf (a + 256 * m) 63 32 = 0 := by
  refine ⟨by omega, ?_, ?_, ?_, ?_⟩
  · rw [bitOf, Nat.testBit_eq_decide_div_mod_eq, decide_eq_false]
    omega
  all_goals
    rw [bitsOf, Nat.shiftRight_eq_div_pow]
    omega

theorem reqOk_request : reqOk (a + 256 * m) := by
  obtain ⟨hact, hcore, hzero, hnum, hhigh⟩ := request_fields ha hm
  simp only [reqOk, hact, hcore, hzero, hnum, hhigh]
  simp [ha, hm]

theorem hostRequest_single (s : State) : hostRequest (a + 256 * m) s =
    queueMnt (if a = 1 then .rep else if a = 2 then .cal else .scr) (s.physMac (m / 64) (m % 64)) false s := by
  obtain ⟨hact, hcore, -, hnum, -⟩ := request_fields ha hm
  simp only [hostRequest, hact, hcore, hnum, Bool.false_eq_true, if_false]

end

section
variable {s : State} (ht : TakesWrites s) (ep : Nat)
include ht

theorem clear_write : ∃ t, exec (.clear (.mctp ep) [1]) s = .next t ∧ WriteAnswered ep 0x1201 0x06 [1] t ∧ t.jr.recs = [] ∧
    t.jr.headSeq = s.jr.headSeq := by
  refine ⟨_, rfl, ?_⟩
  have htaken : ActionTaken 0x1201 0x06 (boolE .wo 0) [1] s := ⟨clearEntry, rfl, by decide, .inl rfl, rfl, by decide, rfl, rfl⟩
  have hwrite := htaken.eq rfl ht ep
  rw [hwrite]
  exact ⟨respond_answered _, rfl, rfl⟩

theorem request_write {a m : Nat} (hup : s.diesOff = false) (ha : 1 ≤ a ∧ a ≤ 3) (hm : m < 131072) :
    ∃ t, exec (.request (.mctp ep) (leB (a + 256 * m) 8)) s = .next t ∧ WriteAnswered ep 0x7102 0x01 (leB (a + 256 * m) 8) t ∧
      ∃ r ∈ t.mnt.queue, r.mac = s.physMac (m / 64) (m % 64) ∧ r.act = (if a = 1 then .rep else if a = 2 then .cal else .scr) := by
  refine ⟨_, rfl, ?_⟩
  have hread : ofLE (leB (a + 256 * m) 8) = a + 256 * m := ofLE_leB_of_lt (by norm_num; omega)
  have htaken : ActionTaken 0x7102 0x01 (mkEnt (.octets 8) .wo []).held (leB (a + 256 * m) 8) s :=
    ⟨maintenanceEntry, rfl, by rw [leB_length]; decide, .inr hup, rfl, by decide, beq_iff_eq.2 (leB_length ..), rfl⟩
  have hrange : ((mkEnt (.octets 8) .wo []).held.inRange (leB (a + 256 * m) 8) && s.ruleOk 0x7102 0x01 (leB (a + 256 * m) 8)) = true := by
    have hrule : s.ruleOk 0x7102 0x01 (leB (a + 256 * m) 8) = reqOk (ofLE (leB (a + 256 * m) 8)) := rfl
    rw [hrule, hread, reqOk_request ha hm]
    rfl
  have hwrite : writeEntry (.mctp ep) 0x7102 0x01 (leB (a + 256 * m) 8) s =
      respond odWrite (writeReq (.mctp ep) 0x7102 0x01 (leB (a + 256 * m) 8)) odOk [] 0
        (hostRequest (ofLE (leB (a + 256 * m) 8)) (requestCounted s)) := htaken.eq hrange ht ep
  rw [hwrite, hread, hostRequest_single ha hm]
  refine ⟨respond_answered _, ?_⟩
  rw [respond_mctp rfl]
  exact queueMnt_queued ..

end

/-! ## ACTIVATE and CONFIRM (R445, R446) -/

theorem activateEntry : Writable 0x7000 0x04 ((mkEnt (.uint 1) .wo []).within 0 1) := ⟨rfl, rfl, fun _ => rfl, by decide⟩

theorem confirmEntry : Writable 0x7000 0x05 (boolE .wo 0) := ⟨rfl, rfl, fun _ => rfl, by decide⟩

/-- When the owner refuses an ACTIVATE, outside RECOVERY. -/
theorem ownerRefuses_activate {k : Nat} {s : State} (hk : k < 2) (hr : s.life.state ≠ .recovery) :
    s.ownerRefuses 0x7000 0x04 (leB k 1) =
      !decide ((s.life.state = .ready ∨ s.life.state = .held) ∧ s.anyExec = false ∧ (s.slot k).state = .verified) := by
  have hread : ofLE (leB k 1) = k := ofLE_leB_of_lt (by omega)
  have hstate : (s.life.state == .recovery) = false := beq_eq_false_iff_ne.2 hr
  rw [Bool.eq_iff_iff]
  simp only [State.ownerRefuses, hread, hstate, Bool.or_false, decide_eq_true (Nat.le_of_lt_succ hk), Bool.true_and, Bool.or_eq_true,
    Bool.not_eq_true', Bool.or_eq_false_iff, beq_eq_false_iff_ne, bne_iff_ne, decide_eq_false_iff_not, ← Bool.not_eq_true s.anyExec]
  tauto

theorem ownerRefuses_confirm (s : State) (d : List Byte) : s.ownerRefuses 0x7000 0x05 d =
    !decide ((s.life.state = .ready ∨ s.life.state = .running) ∧ ((s.slot 0).state = .trial ∨ (s.slot 1).state = .trial)) := by
  rw [Bool.eq_iff_iff]
  simp only [State.ownerRefuses, Bool.or_eq_true, Bool.and_eq_true, Bool.not_eq_true', Bool.or_eq_false_iff, beq_eq_false_iff_ne,
    bne_iff_ne, decide_eq_false_iff_not]
  tauto

section
variable {s : State} (ht : TakesWrites s) (ep : Nat)
include ht

theorem activate_write {k : Nat} (hk : k < 2) : ∃ t, exec (.activate (.mctp ep) (leB k 1)) s = .next t ∧
    if (s.life.state = .ready ∨ s.life.state = .held) ∧ s.anyExec = false ∧ (s.slot k).state = .verified then
      OdQueued [(odKey (0x7010 + k) 0x01, leB SlotState.trial.code 1)] (.activate (writeReq (.mctp ep) 0x7000 0x04 (leB k 1)) odWrite k) s t
    else OdRefused odWrite (writeReq (.mctp ep) 0x7000 0x04 (leB k 1)) odState s t := by
  refine ⟨_, rfl, ?_⟩
  have hshort : (leB k 1).length ≤ 1024 := by rw [leB_length]; decide
  have howner := ownerRefuses_activate hk ht.normal
  split
  next hready =>
    rw [decide_eq_true hready] at howner
    have htaken : ActionTaken 0x7000 0x04 ((mkEnt (.uint 1) .wo []).within 0 1) (leB k 1) s :=
      ⟨activateEntry, rfl, hshort, .inl rfl, howner, by decide, beq_iff_eq.2 (leB_length ..), rfl⟩
    have hrange : (((mkEnt (.uint 1) .wo []).within 0 1).inRange (leB k 1) && s.ruleOk 0x7000 0x04 (leB k 1)) = true := by
      interval_cases k <;> rfl
    rw [htaken.eq hrange ht ep]
    interval_cases k <;> exact newTxn_queued ht.idle ..
  next hother =>
    rw [decide_eq_false hother] at howner
    exact activateEntry.owner hshort (.inl rfl) howner ht ep

theorem confirm_write : ∃ t, exec (.confirm (.mctp ep) [1]) s = .next t ∧
    if (s.life.state = .ready ∨ s.life.state = .running) ∧ ((s.slot 0).state = .trial ∨ (s.slot 1).state = .trial) then
      OdQueued (confirmEnts s) (.confirm (writeReq (.mctp ep) 0x7000 0x05 [1]) odWrite) s t
    else OdRefused odWrite (writeReq (.mctp ep) 0x7000 0x05 [1]) odState s t := by
  refine ⟨_, rfl, ?_⟩
  have howner := ownerRefuses_confirm s [1]
  split
  next htrial =>
    rw [decide_eq_true htrial] at howner
    have htaken : ActionTaken 0x7000 0x05 (boolE .wo 0) [1] s :=
      ⟨confirmEntry, rfl, by decide, .inl rfl, howner, by decide, rfl, rfl⟩
    have hwrite := htaken.eq rfl ht ep
    rw [hwrite]
    exact newTxn_queued ht.idle ..
  next hother =>
    rw [decide_eq_false hother] at howner
    exact confirmEntry.owner (by decide) (.inl rfl) howner ht ep

end

end Sys2Proof.Machine
end

section
/-!
The firmware slots (R443-R446, R450): the download of an image, its verification, the erase of a slot, and the commit of an activation.
-/

namespace Sys2Proof.Machine

open Sys2Proof

/-! ## Slots -/

theorem slot_of_life {s t : State} (h : t.life = s.life) (k : Nat) : t.slot k = s.slot k := by
  rw [State.slot, State.slot, h]

theorem slot_setSlot {k : Nat} {s : State} (hk : k < s.life.slots.length) (v : FwSlot) : (setSlot k v s).slot k = v := by
  simp [State.slot, setSlot, List.getD_eq_getElem?_getD, hk]

/-- The result of a verification of the image in slot k (R443). -/
def verifiedSlot (k : Nat) (img : ImageFacts) (s : State) : FwSlot :=
  { s.slot k with
    state := if img.sigOk ∧ s.life.minSvn ≤ img.svn ∧ img.gen ≤ s.life.generation + 1 ∧ s.life.generation ≤ img.gen + 1 then .verified
             else .invalid,
    gen := img.gen, svn := img.svn, version := img.version, digest := img.digest }

theorem verifySlot_slot {k : Nat} {s : State} (hk : k < s.life.slots.length) (img : ImageFacts) :
    (verifySlot k img s).slot k = verifiedSlot k img s := by
  have hset : verifySlot k img s = (if img.sigOk ∧ s.life.minSvn ≤ img.svn ∧ img.gen ≤ s.life.generation + 1 ∧
      s.life.generation ≤ img.gen + 1 then setSlot k (verifiedSlot k img s) s
      else raise { EventRec.mk' 0x0705 with unit := some k } (setSlot k (verifiedSlot k img s) s)) := by
    simp only [verifySlot, verifiedSlot, Bool.and_eq_true, decide_eq_true_eq, and_assoc]
  rw [hset]
  split
  · exact slot_setSlot hk _
  · rw [slot_of_life ((raise_frame ..).life_eq (by decide))]
    exact slot_setSlot hk _

/-- The first segment of an image (R443). -/
theorem downloadSeg_first {k : Nat} {data : List Byte} {s : State} (h : data.length ≤ odNat s (0x7010 + k) 0x05 0) :
    downloadSeg k 0 data s = some (setSlot k
      { FwSlot.empty with state := if data.length = odNat s (0x7010 + k) 0x05 0 then .unverified else .downloading,
                          imageSize := odNat s (0x7010 + k) 0x05 0, image := data } s) := by
  have hfits : ¬ odNat s (0x7010 + k) 0x05 0 < data.length := by omega
  simp [downloadSeg, hfits]

section
variable {k off : Nat} {data : List Byte} {s : State} (hoff : off ≠ 0)
include hoff

/-- A further segment follows the image in the slot. -/
theorem downloadSeg_next (hstate : (s.slot k).state = .downloading) (hlen : (s.slot k).image.length = off)
    (h : off + data.length ≤ (s.slot k).imageSize) : downloadSeg k off data s = some (setSlot k
      { FwSlot.empty with state := if off + data.length = (s.slot k).imageSize then .unverified else .downloading,
                          imageSize := (s.slot k).imageSize, image := (s.slot k).image ++ data } s) := by
  have hfits : ¬ (s.slot k).imageSize < off + data.length := by omega
  simp [downloadSeg, hoff, hstate, hlen, hfits]

theorem downloadSeg_other (h : ¬ ((s.slot k).state = .downloading ∧ (s.slot k).image.length = off)) : downloadSeg k off data s = none := by
  simp only [downloadSeg, hoff, if_false]
  rw [if_pos]
  tauto

end

/-! ## Entries of a slot -/

section
variable {k : Nat} (hk : k < 2)
include hk

theorem odIndex_slot : odIndex (0x7010 + k) := by interval_cases k <;> decide

theorem downloadEntry : odEnt (0x7010 + k) 0x06 = some (mkEnt (.domain 33554432) .wo []) := by interval_cases k <;> rfl

theorem verifyEntry : odEnt (0x7010 + k) 0x07 = some (boolE .wo 0) := by interval_cases k <;> rfl

theorem eraseEntry : odEnt (0x7010 + k) 0x08 = some (boolE .wo 0) := by interval_cases k <;> rfl

/-- A firmware slot's entries are reached in RECOVERY also (R434). -/
theorem reaches_slot (s : State) (ep sub : Nat) : s.reaches (.mctp ep) (0x7010 + k) sub true := by
  interval_cases k <;> simp [State.reaches, reachTable, inRange]

theorem ownerRefuses_download (s : State) (d : List Byte) :
    s.ownerRefuses (0x7010 + k) 0x06 d = (s.slotBusy k || odNat s (0x7010 + k) 0x05 0 == 0) := by
  interval_cases k <;> rfl

theorem ownerRefuses_verify (s : State) (d : List Byte) : s.ownerRefuses (0x7010 + k) 0x07 d = ((s.slot k).state != .unverified) := by
  interval_cases k <;> rfl

theorem ownerRefuses_erase (s : State) (d : List Byte) : s.ownerRefuses (0x7010 + k) 0x08 d = s.slotBusy k := by
  interval_cases k <;> rfl

/-- TRUE is within the range of VERIFY and of ERASE. -/
theorem range_slot (s : State) (sub : Nat) : ((boolE .wo 0).inRange [1] && s.ruleOk (0x7010 + k) sub [1]) = true := by
  interval_cases k <;> rfl

/-- The actions on a slot write no persistent entry. -/
theorem actionPersists_slot {r : OdReq} (hi : r.index = 0x7010 + k) (d : List Byte) (s : State) : actionPersists r d s = false := by
  unfold actionPersists
  rw [hi]
  interval_cases k <;> rfl

section
variable {ep : Nat} {s : State} (hidle : PtcIdle s) (hw : s.life.writesRefused = false)
include hidle hw

theorem downloadWrite {off : Nat} {data : List Byte} (hd : data.length ≤ 1024) :
    EntryWrite odSegWrite ep { writeReq (.mctp ep) (0x7010 + k) 0x06 data with offset := off } (mkEnt (.domain 33554432) .wo []) s where
  kind := rfl
  who := rfl
  formed := by simp [wellFormed, writeReq, dataLimit, odWrite, odList, odSegWrite, hd]
  idle := hidle
  writes := hw
  reach := reaches_slot hk ..
  index := odIndex_slot hk
  entry := downloadEntry hk
  access := by decide

theorem verifyWrite (img : ImageFacts) :
    EntryWrite odWrite ep { writeReq (.mctp ep) (0x7010 + k) 0x07 [1] with img := img } (boolE .wo 0) s where
  kind := rfl
  who := rfl
  formed := wellFormed_writeReq (i := 0x7010 + k) (sub := 0x07) (d := [1]) (by decide) ep
  idle := hidle
  writes := hw
  reach := reaches_slot hk ..
  index := odIndex_slot hk
  entry := verifyEntry hk
  access := by decide

theorem eraseWrite : EntryWrite odWrite ep (writeReq (.mctp ep) (0x7010 + k) 0x08 [1]) (boolE .wo 0) s where
  kind := rfl
  who := rfl
  formed := wellFormed_writeReq (by decide) ep
  idle := hidle
  writes := hw
  reach := reaches_slot hk ..
  index := odIndex_slot hk
  entry := eraseEntry hk
  access := by decide

end

end

/-! ## Actions on a slot -/

theorem doAction_verify {op k : Nat} (hk : k < 2) {r : OdReq} (hi : r.index = 0x7010 + k) (hs : r.sub = 0x07) (s : State) :
    doAction op r [1] s = respond op r odOk [] 0 (verifySlot k r.img s) := by
  have hone : ofLE [1] = 1 := rfl
  rw [doAction_of_ranges (by rw [hi]; simp; omega), hi, hs, if_pos (by omega), Nat.add_sub_cancel_left, if_pos hone]

theorem doAction_erase {op k : Nat} (hk : k < 2) {r : OdReq} (hi : r.index = 0x7010 + k) (hs : r.sub = 0x08) (s : State) :
    doAction op r [1] s = respond op r odOk [] 0 (setSlot k FwSlot.empty s) := by
  have hone : ofLE [1] = 1 := rfl
  rw [doAction_of_ranges (by rw [hi]; simp; omega), hi, hs, if_neg (by omega), if_pos (by omega), Nat.add_sub_cancel_left, if_pos hone]

section
variable {k ep : Nat} {r : OdReq} {e : OdEnt} {s : State} (hk : k < 2) (hi : r.index = 0x7010 + k) (hs : r.sub = 0x06)
  (hw : r.who = .mctp ep) (hacc : e.acc = .wo) (hown : s.ownerRefuses r.index r.sub r.data = false)
include hk hi hs hw hacc hown

/-- A segment of an image that follows what the slot holds. -/
theorem doSegWrite_some {t : State} (h : downloadSeg k r.offset r.data s = some t) :
    doSegWrite r e s = respond odSegWrite r odOk [] (t.slot k).image.length t := by
  have hslot : (r.index = 0x7010 ∨ r.index = 0x7011) ∧ r.sub = 0x06 := by omega
  have hplant : ¬ s.plantBusy r.who = true := by rw [hw]; exact Bool.false_ne_true
  have hnote : notePlant r.who t = t := by rw [hw]; rfl
  unfold doSegWrite
  rw [checkState_of_free (by simp [hacc]) hown]
  dsimp only
  rw [if_neg hplant, if_pos hslot, hi, Nat.add_sub_cancel_left, h]
  dsimp only
  rw [hnote]

/-- A segment of an image that does not follow what the slot holds. -/
theorem doSegWrite_none (h : downloadSeg k r.offset r.data s = none) : doSegWrite r e s = refuse odSegWrite r odSegment [] s := by
  have hslot : (r.index = 0x7010 ∨ r.index = 0x7011) ∧ r.sub = 0x06 := by omega
  have hplant : ¬ s.plantBusy r.who = true := by rw [hw]; exact Bool.false_ne_true
  unfold doSegWrite
  rw [checkState_of_free (by simp [hacc]) hown]
  dsimp only
  rw [if_neg hplant, if_pos hslot, hi, Nat.add_sub_cancel_left, h]

end

section
variable {op ep : Nat} {r : OdReq} (hw : r.who = .mctp ep)
include hw

theorem respond_out (s : State) (data : List Byte) (n st : Nat) : odReply op r st data ∈ (respond op r st data n s).host.out := by
  rw [respond_mctp hw]
  exact List.mem_append_right _ (List.mem_singleton_self _)

theorem respond_life (s : State) (data : List Byte) (n st : Nat) : (respond op r st data n s).life = s.life := by
  rw [respond_mctp hw]
  rfl

end

section
variable {k : Nat} {s : State} (hidle : PtcIdle s) (hw : s.life.writesRefused = false) (hk : k < 2)
  (hslots : s.life.slots.length = 2) (ep : Nat)
include hidle hw hk hslots

theorem download_write {off : Nat} {data : List Byte} (hsize : 1 ≤ odNat s (0x7010 + k) 0x05 0) (hd : data.length ≤ 1024) :
    ∃ t, exec (.download (.mctp ep) k off data) s = .next t ∧
      let r := { writeReq (.mctp ep) (0x7010 + k) 0x06 data with offset := off }
      let x := s.slot k
      if s.slotBusy k then OdRefused odSegWrite r odState s t
      else if off = 0 then (data.length ≤ odNat s (0x7010 + k) 0x05 0 → odReply odSegWrite r odOk [] ∈ t.host.out ∧ t.slot k =
        { FwSlot.empty with state := if data.length = odNat s (0x7010 + k) 0x05 0 then .unverified else .downloading,
                            imageSize := odNat s (0x7010 + k) 0x05 0, image := data })
      else if x.state = .downloading ∧ x.image.length = off then (off + data.length ≤ x.imageSize →
        odReply odSegWrite r odOk [] ∈ t.host.out ∧ t.slot k =
        { FwSlot.empty with state := if off + data.length = x.imageSize then .unverified else .downloading,
                            imageSize := x.imageSize, image := x.image ++ data })
      else OdRefused odSegWrite r odSegment s t := by
  refine ⟨_, congrArg Host.Outcome.next (if_pos hk), ?_⟩
  intro r x
  have hwrite : EntryWrite odSegWrite ep r (mkEnt (.domain 33554432) .wo []) s := downloadWrite hk hidle hw hd
  have hown : s.ownerRefuses r.index r.sub r.data = (s.slotBusy k || odNat s (0x7010 + k) 0x05 0 == 0) := ownerRefuses_download hk s data
  have hnonzero : (odNat s (0x7010 + k) 0x05 0 == 0) = false := beq_eq_false_iff_ne.2 (by omega)
  rw [hnonzero, Bool.or_false] at hown
  have hlen : k < (requestCounted s).life.slots.length := hk.trans_eq hslots.symm
  rw [hwrite.segWrite (.inl rfl)]
  by_cases hbusy : s.slotBusy k
  · rw [if_pos hbusy]
    unfold doSegWrite
    rw [checkState_of_owner (s := requestCounted s) (hown.trans hbusy)]
    exact refuse_refused rfl hidle _
  · rw [if_neg hbusy]
    have hfree := hown.trans (Bool.eq_false_of_not_eq_true hbusy)
    have hdone {v : FwSlot} (h : downloadSeg k off data (requestCounted s) = some (setSlot k v (requestCounted s))) :
        odReply odSegWrite r odOk [] ∈ (doSegWrite r (mkEnt (.domain 33554432) .wo []) (requestCounted s)).host.out ∧
          (doSegWrite r (mkEnt (.domain 33554432) .wo []) (requestCounted s)).slot k = v := by
      rw [doSegWrite_some (s := requestCounted s) hk rfl rfl rfl rfl hfree h]
      exact ⟨respond_out rfl .., (slot_of_life (respond_life rfl ..) k).trans (slot_setSlot hlen v)⟩
    split
    next hzero =>
      subst hzero
      exact fun hfits => hdone (downloadSeg_first (s := requestCounted s) hfits)
    next hzero =>
      split
      next hmore => exact fun hfits => hdone (downloadSeg_next (s := requestCounted s) hzero hmore.1 hmore.2 hfits)
      next hother =>
        rw [doSegWrite_none (s := requestCounted s) hk rfl rfl rfl rfl hfree (downloadSeg_other (s := requestCounted s) hzero hother)]
        exact refuse_refused rfl hidle _

theorem verify_write (img : ImageFacts) : ∃ t, exec (.verify (.mctp ep) k [1] img) s = .next t ∧
    let r := { writeReq (.mctp ep) (0x7010 + k) 0x07 [1] with img := img }
    if (s.slot k).state ≠ .unverified then OdRefused odWrite r odState s t
    else odReply odWrite r odOk [] ∈ t.host.out ∧ t.slot k = verifiedSlot k img s := by
  refine ⟨_, congrArg Host.Outcome.next (if_pos hk), ?_⟩
  intro r
  have hwrite : EntryWrite odWrite ep r (boolE .wo 0) s := verifyWrite hk hidle hw img
  have hown : s.ownerRefuses r.index r.sub r.data = ((s.slot k).state != .unverified) := ownerRefuses_verify hk s [1]
  split
  next hother => exact receive_of_owner hwrite (.inl rfl) (hown.trans (bne_iff_ne.2 hother))
  next hunverified =>
    have hvalue : ValueOk r (boolE .wo 0) r.data s :=
      ⟨by decide, hown.trans (by simpa using hunverified), fun h => absurd h.1 (by simp [r, writeReq]), rfl, rfl⟩
    rw [receive_of_action hwrite (.inl rfl) hvalue (range_slot hk s 0x07) rfl (.inl (actionPersists_slot hk rfl _ s))]
    have hlen : k < (requestCounted s).life.slots.length := hk.trans_eq hslots.symm
    have hact : doAction odWrite r r.data (requestCounted s) = respond odWrite r odOk [] 0 (verifySlot k img (requestCounted s)) :=
      doAction_verify hk rfl rfl _
    rw [hact]
    exact ⟨respond_out rfl .., (slot_of_life (respond_life rfl ..) k).trans (verifySlot_slot hlen img)⟩

theorem erase_write : ∃ t, exec (.erase (.mctp ep) k [1]) s = .next t ∧
    if s.slotBusy k then OdRefused odWrite (writeReq (.mctp ep) (0x7010 + k) 0x08 [1]) odState s t
    else WriteAnswered ep (0x7010 + k) 0x08 [1] t ∧ t.slot k = FwSlot.empty := by
  refine ⟨_, congrArg Host.Outcome.next (if_pos hk), ?_⟩
  have hwrite : EntryWrite odWrite ep (writeReq (.mctp ep) (0x7010 + k) 0x08 [1]) (boolE .wo 0) s := eraseWrite hk hidle hw
  have hown : s.ownerRefuses (0x7010 + k) 0x08 [1] = s.slotBusy k := ownerRefuses_erase hk s [1]
  split
  next hbusy => exact receive_of_owner hwrite (.inl rfl) (hown.trans hbusy)
  next hfree =>
    have hvalue : ValueOk (writeReq (.mctp ep) (0x7010 + k) 0x08 [1]) (boolE .wo 0) [1] s :=
      ⟨by decide, hown.trans (Bool.eq_false_of_not_eq_true hfree), fun h => absurd h.1 (by simp [writeReq]), rfl, rfl⟩
    have hlen : k < (requestCounted s).life.slots.length := hk.trans_eq hslots.symm
    unfold writeEntry
    rw [receive_of_action hwrite (.inl rfl) hvalue (range_slot hk s 0x08) rfl (.inl (actionPersists_slot hk rfl _ s))]
    have hact : doAction odWrite (writeReq (.mctp ep) (0x7010 + k) 0x08 [1]) [1] (requestCounted s) =
      respond odWrite (writeReq (.mctp ep) (0x7010 + k) 0x08 [1]) odOk [] 0 (setSlot k FwSlot.empty (requestCounted s)) :=
      doAction_erase hk rfl rfl _
    change WriteAnswered ep _ _ _ (doAction odWrite (writeReq (.mctp ep) (0x7010 + k) 0x08 [1]) [1] (requestCounted s)) ∧
      (doAction odWrite (writeReq (.mctp ep) (0x7010 + k) 0x08 [1]) [1] (requestCounted s)).slot k = _
    rw [hact]
    exact ⟨respond_answered _, (slot_of_life (respond_life rfl ..) k).trans (slot_setSlot hlen _)⟩

end

end Sys2Proof.Machine
end

section
/-!
The commit of an activation (R445, R465), and the writes of the action entries together.
-/

namespace Sys2Proof.Machine

open Sys2Proof

/-! ## The COMMIT record of the transaction at the head (R465 step 3) -/

theorem putRec_room {s : State} (h : (s.jBlock s.od.blockAt).length < 256) (r : JRec) :
    ∃ u, putRec r s = some u ∧ u.life = s.life ∧ u.od.waiting = s.od.waiting := ⟨_, if_pos h, rfl, rfl⟩

/-- With room in the block, the transaction at the head commits. -/
theorem commitHead_commits {s : State} {x : Txn} {rest : List Txn} {a b : Nat} {c : Word} (htxns : s.od.txns = x :: rest)
    (htodo : x.todo = [.commit a b c]) (h : (s.jBlock s.od.blockAt).length < 256) :
    ∃ u, commitHead s = some ({ x with todo := [], committed := true }, u) ∧ u.life = s.life ∧ u.od.waiting = s.od.waiting := by
  obtain ⟨u, hput, hlife, hwait⟩ := putRec_room h (.commit a b c)
  refine ⟨makeCurrent { x with todo := [], committed := true } (setTxn { x with todo := [], committed := true } u), ?_, hlife, hwait⟩
  simp only [commitHead, htxns, htodo, hput]

theorem drainRequests_of_none {s : State} (h : s.od.waiting = []) (n : Nat) : drainRequests n s = s := by
  cases n with
  | zero => rfl
  | succ n =>
    rw [drainRequests, h]
    split <;> rfl

/-- The state of a slot, as an entry, has no effect of its own. -/
theorem applyWrite_slotState {k : Nat} (hk : k < 2) (v : List Byte) (before s : State) :
    applyWrite (odKey (0x7010 + k) 0x01 / 256) (odKey (0x7010 + k) 0x01 % 256) v before s = s := by
  interval_cases k <;> rfl

theorem afterCommit_activate {k op : Nat} {r : OdReq} {x : Txn} {v : List Byte} (hk : k < 2)
    (hents : x.ents = [(odKey (0x7010 + k) 0x01, v)]) (hdone : x.done = .activate r op k) (before s : State) :
    afterCommit x before s = activateNow k (respond op r odOk [] 0 s) := by
  simp only [afterCommit, hents, hdone, List.foldl_cons, List.foldl_nil, applyWrite_slotState hk]

/-! ## The activation (R445) -/

theorem moduleReset_keeps (keep : Bool) (until_ : Option Nat) (s : State) :
    (moduleReset keep until_ s).life.slots = s.life.slots ∧ (moduleReset keep until_ s).od.waiting = s.od.waiting := by
  unfold moduleReset
  extract_lets up t _ u
  have hlife : (enterState .aux u).life = { u.life with state := .aux } := enterState_life ..
  have hod : (enterState .aux u).od = u.od := (enterState_frame .aux u).od_eq (by decide)
  rw [hlife, hod]
  exact ⟨rfl, rfl⟩

theorem activateNow_resets {k : Nat} {s : State} (hk : k < s.life.slots.length) (h : s.life.state.resets) :
    ((activateNow k s).slot k).state = .trial ∧ (activateNow k s).life.state = .aux ∧ (activateNow k s).life.stage = 1 ∧
      (activateNow k s).life.newImage ∧ (activateNow k s).od.waiting = s.od.waiting := by
  unfold activateNow
  extract_lets u
  have hslot : (u.slot k).state = .trial := congrArg FwSlot.state (slot_setSlot (s := writePtr k 3 s) hk _)
  have hstate : u.life.state = s.life.state := rfl
  have hwait : u.od.waiting = s.od.waiting := rfl
  clear_value u
  rw [if_pos (hstate ▸ h)]
  obtain ⟨hslots, hwaiting⟩ := moduleReset_keeps true none u
  obtain ⟨-, haux⟩ := moduleReset_done true none u
  refine ⟨?_, haux, rfl, rfl, hwaiting.trans hwait⟩
  rw [← hslot]
  exact congrArg (fun l : List FwSlot => (l.getD k FwSlot.empty).state) hslots

theorem activation_commits {s : State} {x : Txn} {rest : List Txn} {k ep op : Nat} {r : OdReq} {a b : Nat} {c : Word} {v : List Byte}
    (hvaux : s.life.vaux) (htxns : s.od.txns = x :: rest) (htodo : x.todo = [.commit a b c])
    (hroom : (s.jBlock s.od.blockAt).length < 256) (hents : x.ents = [(odKey (0x7010 + k) 0x01, v)])
    (hdone : x.done = .activate r op k) (hwho : r.who = .mctp ep) (hwait : s.od.waiting = []) (hresets : s.life.state.resets) (hk : k < 2)
    (hslots : s.life.slots.length = 2) : ∃ t, exec .journalCommitRecord s = .next t ∧ (t.slot k).state = .trial ∧
      t.life.state = .aux ∧ t.life.stage = 1 ∧ t.life.newImage := by
  refine ⟨_, congrArg Host.Outcome.next (if_pos hvaux), ?_⟩
  obtain ⟨u, hcommit, hlife, huwait⟩ := commitHead_commits htxns htodo hroom
  have hlife' : (respond op r odOk [] 0 u).life = s.life := (respond_life hwho ..).trans hlife
  have hwait' : (respond op r odOk [] 0 u).od.waiting = [] := by
    rw [respond_mctp hwho]
    exact huwait.trans hwait
  have hlen : k < (respond op r odOk [] 0 u).life.slots.length := by rw [hlife', hslots]; exact hk
  obtain ⟨hslot, hstate, hstage, himage, hnone⟩ := activateNow_resets hlen (hlife' ▸ hresets)
  have heffect : journalCommitEffect s = activateNow k (respond op r odOk [] 0 u) := by
    simp only [journalCommitEffect, hcommit]
    rw [afterCommit_activate (x := { x with todo := [], committed := true }) hk hents hdone, drainRequests_of_none (hnone.trans hwait')]
  rw [heffect]
  exact ⟨hslot, hstate, hstage, himage⟩

/-! ## O48 -/

/-- Settles O48: an idle PTC runs each write at once, and what it does is the action of the entry's owner, the refusal of the owner's
state or of the range, or a transaction that the response waits for. -/
theorem actionEntriesTakeEffect : Obligations.ActionEntriesTakeEffect := by
  unfold Obligations.ActionEntriesTakeEffect
  refine ⟨fun ep s ht => ?_, fun ep k s hidle hw hk hslots => ?_, ?_⟩
  · refine ⟨release_write ht ep, moduleReset_write ht ep, moduleReset_write_other ht ep, standby_write ht ep, wake_write ht ep, ?_,
      fun k data hk hlen hne => keyWrite_write ht ep hk hlen hne, fun k hk => keyRevoke_write ht ep hk,
      fun l hl => clearSaved_write ht ep hl, fun v hup hvalid hlast => fleetSend_write ht ep hup hvalid hlast,
      fun n hn => pwrCap_write ht ep hn, fun n hn => setpoint_write ht ep hn, clear_write ht ep,
      fun a m hup ha ha' hm => request_write ht ep hup ⟨ha, ha'⟩ hm, fun k hk => activate_write ht ep hk, confirm_write ht ep⟩
    obtain ⟨t, hexec, ht'⟩ := factoryDefaults_write ht ep
    refine ⟨t, hexec, ?_⟩
    split at ht'
    next hother => rwa [if_pos hother]
    next hheld =>
      rw [if_neg hheld]
      exact ⟨factoryEnts s, ht', mem_factoryEnts s⟩
  · exact ⟨fun off data hsize hd _ => download_write hidle hw hk hslots ep hsize hd, verify_write hidle hw hk hslots ep,
      erase_write hidle hw hk hslots ep⟩
  · intro s x rest k ep op r a b c hvaux htxns htodo hroom hents hdone hwho hwait hresets hk hslots
    exact activation_commits hvaux htxns htodo hroom hents hdone hwho hwait hresets hk hslots

end Sys2Proof.Machine
end
